-- ==== Sys2Proof/Word.lean ====
section
/-!
DEFINITION. The words, bytes and register numbers of Vexrus (R7, R17, R78), and the plainest arithmetic on them.
-/

namespace Sys2Proof

/-- A general register's 32 bits (Table 2.2). -/
abbrev Word := BitVec 32
/-- An instruction word, a literal word, or an even/odd register pair (R36, R59). -/
abbrev DWord := BitVec 64
/-- One byte of memory. -/
abbrev Byte := BitVec 8
/-- A general register number, a 10-bit field (Table 4.5). -/
abbrev Reg := BitVec 10
/-- A predicate number p0 to p63 (Table 4.5). -/
abbrev PredIx := BitVec 6

/-- `sext(x, n)` of Table 2.8 on an unbounded natural. -/
def sextN (x n : Nat) : Int :=
  let y := x % 2 ^ n
  if 2 ^ n ≤ 2 * y then (y : Int) - (2 ^ n : Nat) else y

/-- `zext(x, n)` of Table 2.8 on an integer. -/
def zextI (x : Int) (n : Nat) : Nat := (x % (2 ^ n : Nat)).toNat

/-- `bits(x, hi, lo)` of Table 2.8. -/
def bitsN (x hi lo : Nat) : Nat := x / 2 ^ lo % 2 ^ (hi + 1 - lo)

/-- `modq(x, q)` of Table 2.8. -/
def modq (x : Int) (q : Nat) : Nat := (x % (q : Int)).toNat

end Sys2Proof
end

