-- ==== Sys2Proof/Config.lean ====
section
/-!
DEFINITION. What the spec leaves to an implementation: constants with no body, so that nothing can be proved of their
values (log 5, 6, 7, 16, 17, 18). A claim about the model holds whatever they are.
-/

namespace Sys2Proof.Config

/-- The n-th value that the spec leaves open (log 5). -/
opaque freeValue : Nat → Nat

/-- The FP32 code that the special-function unit offers: function code of Table 7.3, FP32 operand code, modifiers. A
code outside the bound of Table 7.3 is not taken (log 6). -/
opaque specialCode : Nat → Nat → Nat → Nat

/-- 4 KiB frames of a context's host aperture (log 16). -/
opaque hostFrames : Nat → Nat

/-- Bytes of a context's device register window beyond the last register of Table 20.2 (log 17). -/
opaque iosExtra : Nat

/-- Farxon's PCI-SIG vendor identifier (R404, log 18). -/
opaque vendorId : BitVec 16

/-- Offset of the capability that follows the denial capability, by function: 0 for the physical function, vf + 1 for a
virtual function (R404, log 18). -/
opaque nextCap : Nat → BitVec 12

/-- The payload of a mailbox message, whose layout the spec leaves to the sender: type and the fields it carries
(R329, log 51). -/
opaque mailPay : Nat → List Nat → BitVec 192

/-- Gangs that the spawn queue of the service cores holds beyond the first (R247, log 50). -/
opaque spawnQueue : Nat

/-- Cryptographic primitives as functions of the numbers that they take (log 7): the operation and its inputs. -/
opaque crypto : Nat → List Nat → Nat

/-- The block cipher of R363: context key, tweak and block index give a permutation of 16-byte blocks (log 7). -/
opaque xts : Nat → Nat → Nat → Equiv.Perm (BitVec 128)

/-- Corrected errors of a die beyond which seat 4 reports a unit where no configuration record sets its threshold: the
device's default (R4, R384, log 53). -/
opaque errorThreshold : Nat → Nat

/-- Quads of the sealed body of a gang image, whose layout is the device's own (R349, log 52): gang, epoch. -/
opaque imageQuads : Nat → Nat → Nat

/-- A quad of that body: gang, epoch, index. -/
opaque imageQuad : Nat → Nat → Nat → BitVec 64

/-- What the drives behind the storage ports do to a checkpoint (R388, log 101): nothing, or a command fails (`some 0`),
or byte `n` of the stream reads back other than it was written (`some (n + 1)`). -/
opaque storageFault : Nat → Option Nat

/-- The peer port whose link a session with a peer device keys, by the session's identifier; `none`: a session of another
kind (R365, log 85). -/
opaque peerPort : Nat → Option Nat

/-- Blocks that a link stream's key carries in a tick of X's source: the stream, the tick (R365, log 85). -/
opaque linkBlocks : Nat → Nat → Nat

/-- The error that arises at a tick of X's source: its 32-byte sector (memory key / 32), and whether the sector's code
corrects it (R382, log 93). -/
opaque upset : Nat → Option (Nat × Bool)

end Sys2Proof.Config
end

