-- ==== Sys2Proof/Syntax.lean ====
section
/-!
DEFINITION. The abstract syntax: one constructor of `Instr` for each row of spec/opcode_table.json.
Thread instructions (Table 5.1), matrix commands (Table 5.7), Xvexrus (Table 5.8), the rows for words that
no opcode is assigned to, and the device's own steps (95_what_each_step_holds.md).
-/

namespace Sys2Proof

/-! ## Field values that the opcode map names -/

/-- Integer types, in the order of their codes (Table 5.4). -/
inductive ITy where | n32 | i32 | n64 | i64 | n16 | i16 | n8 | i8
  deriving DecidableEq, Repr

/-- Floating types, in the order of their codes (Table 5.4). -/
inductive FTy where | f32 | f16 | bf16 | e4m3 | e5m2 | e2m1x
  deriving DecidableEq, Repr

/-- Rounding modes, in the order of their codes (Table 5.4). -/
inductive RMode where | rn | rz | rm | rp
  deriving DecidableEq, Repr

/-- Comparison codes that are not reserved (Table 5.5). -/
inductive Cmp where
  | eq | ne | lt | le | gt | ge | num | equ | neu | ltu | leu | gtu | geu | nan
  deriving DecidableEq, Repr

/-- The six address spaces (Tables 2.6 and 4.10). -/
inductive Space where | priv | scr | cmn | glb | hst | ios
  deriving DecidableEq, Repr

/-- Agent scopes (Tables 4.10 and 12.1). -/
inductive Scope where | grp | team | gang | die | dev | sys
  deriving DecidableEq, Repr

/-- ORD of format M (Table 4.7). -/
inductive Ord where | plain | rlx | acq | rel
  deriving DecidableEq, Repr

/-- Access widths (Table 4.10). -/
inductive Wid where | w1 | w2 | w4 | w8 | w16
  deriving DecidableEq, Repr

/-- TY of format M (Table 4.7). -/
inductive Ty where | unsigned | signed | ieee | bf
  deriving DecidableEq, Repr

/-- The guard of an instruction word: predicate and its negation (Table 4.5). -/
structure Guard where
  p   : PredIx
  neg : Bool
  deriving DecidableEq, Repr

/-- HW of `imul` and `imad` (R113). -/
inductive HW where | lo | hi | wide
  deriving DecidableEq, Repr

/-- BOP of `pset` (R107). -/
inductive BOp where | and | or | xor
  deriving DecidableEq, Repr

/-- The three modes of `pmov` (R108). -/
inductive PMov where
  | copy (d a : PredIx) (na : Bool)
  | save (d : Reg)
  | load (a : Reg)
  deriving DecidableEq, Repr

/-- The two actions of `sbind` (R121). -/
inductive SBind where
  | bind (k : BitVec 3) (ew8 : Bool) (d a : Reg)
  | off (k : BitVec 3)
  deriving DecidableEq, Repr

/-- Operands of a load or store, format M (Table 4.7). -/
structure MemOp where
  d     : Reg
  a     : Reg
  off   : BitVec 16
  scope : Scope
  ord   : Ord
  wid   : Wid
  ty    : Ty
  raw   : Bool
  ss    : Bool
  deriving DecidableEq, Repr

/-- Atomic operations (Table 8.3). -/
inductive AOp where | add | min | max | and | or | xor | exch | cas | inc | dec | amax
  deriving DecidableEq, Repr

/-- ATY of an atomic (Table 8.2). -/
inductive ATy where | n32 | i32 | n64 | i64 | f32 | f16x2 | bf16x2
  deriving DecidableEq, Repr

/-- ORD of an atomic (Table 8.2). -/
inductive AOrd where | rlx | acq | rel | ar
  deriving DecidableEq, Repr

/-- Operands of an atomic or reduction: register fields and the literal word of Table 8.2. -/
structure AtomOp where
  d     : Reg
  a     : Reg
  b     : Reg
  c     : Reg
  off   : BitVec 16
  scope : Scope
  ord   : AOrd
  aop   : AOp
  aty   : ATy
  ss    : Bool
  deriving DecidableEq, Repr

/-- Operands of `amxs` (R166). -/
structure AmxOp where
  d     : Reg
  a     : Reg
  off   : BitVec 16
  scope : Scope
  ord   : Ord
  ss    : Bool
  deriving DecidableEq, Repr

/-- KIND of a fence (Table 8.5). -/
inductive FenceKind where | acq | rel | full
  deriving DecidableEq, Repr

/-- RM, FTZ and SAT of the floating arithmetic layout (Table 5.3). -/
structure FMod where
  rm  : RMode
  ftz : Bool
  sat : Bool
  deriving DecidableEq, Repr

/-- A type code of `cvt`'s control (R136). -/
inductive CTy where
  | int (t : ITy)
  | flt (t : FTy)
  deriving DecidableEq, Repr

/-- The two modes of `bscale` (R139). -/
inductive BScale where
  | apply (m : FMod) (d a b : Reg)
  | derive (t : FTy) (d a : Reg)
  deriving DecidableEq, Repr

/-- The modes of `vote` with their destinations (R144). -/
inductive Vote where
  | every (d : PredIx) | some (d : PredIx) | same (d : PredIx)
  | mask (d : Reg) | count (d : Reg) | first (d : Reg)
  deriving DecidableEq, Repr

/-- Op codes of `redux` and `scan` (R145). -/
inductive ROp where | add | min | max | and | or | xor | xadd
  deriving DecidableEq, Repr

/-- The element type of `redux` and `scan`: ITY, or `.f32` when F is 1 (R145). -/
inductive RTy where
  | int (t : ITy)
  | f32
  deriving DecidableEq, Repr

/-- Modes of `match` (R146). -/
inductive MatchMode where | peers | uniform | leader
  deriving DecidableEq, Repr

/-- Operands of `acopy` and `ncopy`, format Y (Table 4.8). -/
structure CopyOp where
  da   : Reg
  sa   : Reg
  ba   : Reg
  wid  : Wid
  dspc : Space
  sspc : Space
  deriving DecidableEq, Repr

/-- Generation operand of `barwait` and `bartest`: the constant when GK is 1 (Table 9.1). -/
inductive Gen where
  | reg (b : Reg)
  | const (g : BitVec 10)
  deriving DecidableEq, Repr

/-- The two forms of `qtry` (Table 9.1). -/
inductive QTry where
  | push (a : Reg)
  | pop (d : Reg)
  deriving DecidableEq, Repr

/-- The modes of `tilest` (Table 9.1). -/
inductive TileSt where
  | tdef (a b c : Reg)
  | ready (a : Reg)
  | empty (a : Reg)
  deriving DecidableEq, Repr

/-! ## Matrix command fields (Table 10.2) -/

/-- KIND of a tile as commands name it (Table 10.2). -/
inductive MKind where | f32 | i32 | res
  deriving DecidableEq, Repr

/-- Element codes (Table 10.3). -/
inductive ECode where
  | f32 | e4m3 | e5m2 | e2m1x | f16 | bf16 | i8 | i32 | n64
  | bp2 | bp3 | bp4 | bp5 | bp6 | bp7 | bp8
  deriving DecidableEq, Repr

/-- Operands of `mldb`. -/
structure MldbOp where
  bb    : BitVec 2
  ec    : ECode
  addr  : BitVec 16
  pitch : BitVec 16
  tv    : Bool
  tile  : BitVec 6
  pl    : BitVec 3
  ix    : Bool
  deriving DecidableEq, Repr

/-- Address, pitch and tile of `mlda` and `mst`. -/
structure MRange where
  addr  : BitVec 16
  pitch : BitVec 16
  tv    : Bool
  tile  : BitVec 6
  deriving DecidableEq, Repr

/-- Common operands of `mma`, `mpma` and `mmodma`. -/
structure MmaOp where
  mt   : BitVec 4
  gran : BitVec 3
  ud   : BitVec 3
  bb   : BitVec 2
  p0   : BitVec 16
  k0   : BitVec 16
  ix   : Bool
  deriving DecidableEq, Repr

/-- Operands of `mntt` and `mintt`. -/
structure NttOp where
  gran : BitVec 3
  addr : BitVec 16
  tab  : BitVec 16
  j    : BitVec 5
  deriving DecidableEq, Repr

/-! ## Device steps -/

/-- By which path an access reaches a register window (Table 22.1). -/
inductive Path where
  /-- the physical function, on any stream: OPR -/
  | pf
  /-- BAR 0 of a virtual function on selective stream `st` -/
  | stream (vf st : Nat)
  /-- BAR 0 of a virtual function on any other stream or none: OPR -/
  | plain (vf : Nat)
  /-- a context's own IOS accesses -/
  | ctx (asid : Nat)
  /-- the debug module and consoles: OPR -/
  | debug
  deriving DecidableEq, Repr

/-- Which register space an access names (R316, R347, R404). -/
inductive Bar where | bar0 | bar2 | cfg
  deriving DecidableEq, Repr

/-- A mailbox message (Table 20.8). -/
structure Mail where
  type  : Byte
  src   : BitVec 4
  dst   : BitVec 4
  seq   : BitVec 16
  ctxid : BitVec 16
  pay   : BitVec 192
  deriving DecidableEq, Repr

/-- What a request of the debug module asks (R373). -/
inductive DebugReq where
  | haltGang (gang : Nat) | resumeGang (gang : Nat) | haltCore (core : Nat) | resumeCore (core : Nat)
  | haltOnBreakpoint (on : Bool)
  deriving DecidableEq, Repr

/-- A host reply to a duty request (R332, R333). -/
inductive DutyAnswer where
  /-- a die for a placement -/
  | die (d : Nat)
  /-- a sealed blob that passes (`true`) or fails its check -/
  | blob (ok : Bool)
  /-- the bytes of a staged segment or commit block, little-endian, that the host has written and returns (R390) -/
  | stored (bytes : Nat)
  /-- a sealed mapping of a frame, which passes or fails its check: die, first line and lines of each part of its room -/
  | mapping (ok : Bool) (place : List (Nat × Nat × Nat))
  deriving DecidableEq, Repr

/-- What seat 7 measures of one die over a window (R396): power in W, activity in 1/2^16. -/
structure DieMeasure where
  power    : Nat
  activity : Nat
  deriving DecidableEq, Repr

/-- What a patrol read finds in one sector of the frame it reads (R384). -/
inductive PatrolFind where | corrected (sector : Nat) | uncorrectable (sector : Nat)
  deriving DecidableEq, Repr

/-- Operands of BIND (R355). -/
structure BindReq where
  asid     : Nat
  stream   : Nat
  root     : BitVec 36
  fq       : BitVec 48
  log2     : Nat
  measured : Bool
  deriving DecidableEq, Repr

/-- A unit that a signed record fences off (R6): a core, one of its lanes, a commons bank, a memory device. -/
inductive FenceUnit where
  | core (die core : Nat) | lane (die core lane : Nat) | bank (die bank : Nat) | memory (die device : Nat)
  deriving DecidableEq, Repr

/-- One signed configuration record as seat 6 finds it at boot: the debug lock (R372), a fenced unit (R6), the rekey
limit of a stream (R365), the error threshold of a die's units (R384), the certificate chain of slot 0 (Table 22.7), or
one that sets nothing which the spec names. -/
inductive ConfigRecord where
  | debugOpen | fence (u : FenceUnit) | rekeyBlocks (stream n : Nat) | threshold (die n : Nat) | certChain (c : Nat)
  | other (digest : Nat)
  deriving DecidableEq, Repr

/-! ## The instructions -/

/-- One constructor per row of spec/opcode_table.json: first the rows that have words, then the device's own steps;
each row's rule stands in its comment. -/
inductive Instr where
  /-- NOP, R101 -/
  | nop (g : Guard)
  /-- BRA, R98 -/
  | bra (g : Guard) (imm : BitVec 20)
  /-- BRX, R98 -/
  | brx (g : Guard) (a : Reg)
  /-- CALL_I, R98 -/
  | callI (g : Guard) (d : Reg) (imm : BitVec 20)
  /-- CALL_R, R98 -/
  | callR (g : Guard) (d a : Reg)
  /-- RET, R98 -/
  | ret (g : Guard) (d : Reg)
  /-- EXIT, R102 -/
  | exit (g : Guard)
  /-- YIELD, R101 -/
  | yield (g : Guard)
  /-- SLEEP, R103 -/
  | sleep (g : Guard) (n : BitVec 20)
  /-- WAITF, R104 -/
  | waitf (g : Guard) (mask : BitVec 12)
  /-- TRAP, R240 -/
  | trap (g : Guard) (n : BitVec 16)
  /-- RTE, R242 -/
  | rte (g : Guard) (kill : Bool)
  /-- BKPT, R105 -/
  | bkpt (g : Guard) (n : BitVec 16)
  /-- SVC, R243 -/
  | svc (g : Guard) (p : PredIx) (n : BitVec 16)
  /-- IADD_R, R111 -/
  | iaddR (g : Guard) (ty : ITy) (sat : Bool) (d a b : Reg)
  /-- IADDC, R112 -/
  | iaddc (g : Guard) (w64 : Bool) (d a b : Reg) (p : PredIx)
  /-- ISUB_R, R111 -/
  | isubR (g : Guard) (ty : ITy) (sat : Bool) (d a b : Reg)
  /-- ISUBC, R112 -/
  | isubc (g : Guard) (w64 : Bool) (d a b : Reg) (p : PredIx)
  /-- IMUL_R, R113 -/
  | imulR (g : Guard) (ty : ITy) (hw : HW) (d a b : Reg)
  /-- IMAD_R, R113 -/
  | imadR (g : Guard) (ty : ITy) (hw : HW) (d a b c : Reg)
  /-- IMIN_R, R111 -/
  | iminR (g : Guard) (ty : ITy) (d a b : Reg)
  /-- IMAX_R, R111 -/
  | imaxR (g : Guard) (ty : ITy) (d a b : Reg)
  /-- IABS, R111 -/
  | iabs (g : Guard) (ty : ITy) (sat : Bool) (d a : Reg)
  /-- INEG, R111 -/
  | ineg (g : Guard) (ty : ITy) (sat : Bool) (d a : Reg)
  /-- DOT4_R, R114 -/
  | dot4R (g : Guard) (sgn sa sb sat : Bool) (d a b c : Reg)
  /-- DOT2, R114 -/
  | dot2 (g : Guard) (sgn sa sb hi sat : Bool) (d a b c : Reg)
  /-- POPC, R115 -/
  | popc (g : Guard) (ty : ITy) (d a : Reg)
  /-- CLZ, R115 -/
  | clz (g : Guard) (ty : ITy) (d a : Reg)
  /-- BREV, R115 -/
  | brev (g : Guard) (ty : ITy) (d a : Reg)
  /-- AND_R, R115 -/
  | andR (g : Guard) (ty : ITy) (d a b : Reg)
  /-- OR_R, R115 -/
  | orR (g : Guard) (ty : ITy) (d a b : Reg)
  /-- XOR_R, R115 -/
  | xorR (g : Guard) (ty : ITy) (d a b : Reg)
  /-- NOT, R115 -/
  | not (g : Guard) (ty : ITy) (d a : Reg)
  /-- LOP3_LO, R116 -/
  | lop3Lo (g : Guard) (tt : BitVec 7) (d a b c : Reg)
  /-- LOP3_HI, R116 -/
  | lop3Hi (g : Guard) (tt : BitVec 7) (d a b c : Reg)
  /-- SHL_R, R117 -/
  | shlR (g : Guard) (ty : ITy) (d a b : Reg)
  /-- SHR_R, R117 -/
  | shrR (g : Guard) (ty : ITy) (d a b : Reg)
  /-- SHF, R118 -/
  | shf (g : Guard) (left : Bool) (d a b c : Reg)
  /-- BFX_R, R119 -/
  | bfxR (g : Guard) (ty : ITy) (d a b : Reg)
  /-- BFI_R, R119 -/
  | bfiR (g : Guard) (ty : ITy) (d a b c : Reg)
  /-- SEL_R, R109 -/
  | selR (g : Guard) (p : PredIx) (w64 : Bool) (d a b : Reg)
  /-- MOV, R110 -/
  | mov (g : Guard) (ty : ITy) (d a : Reg)
  /-- LEA, R120 -/
  | lea (g : Guard) (sgn : Bool) (sh : BitVec 4) (d a b : Reg)
  /-- SBIND, R121 -/
  | sbind (g : Guard) (x : SBind)
  /-- IADD_I, R111 -/
  | iaddI (g : Guard) (ty : ITy) (sat : Bool) (d a : Reg) (imm : BitVec 20)
  /-- ISUB_I, R111 -/
  | isubI (g : Guard) (ty : ITy) (sat : Bool) (d a : Reg) (imm : BitVec 20)
  /-- IMUL_I, R113 -/
  | imulI (g : Guard) (ty : ITy) (hw : HW) (d a : Reg) (imm : BitVec 20)
  /-- IMIN_I, R111 -/
  | iminI (g : Guard) (ty : ITy) (d a : Reg) (imm : BitVec 20)
  /-- IMAX_I, R111 -/
  | imaxI (g : Guard) (ty : ITy) (d a : Reg) (imm : BitVec 20)
  /-- AND_I, R115 -/
  | andI (g : Guard) (ty : ITy) (d a : Reg) (imm : BitVec 20)
  /-- OR_I, R115 -/
  | orI (g : Guard) (ty : ITy) (d a : Reg) (imm : BitVec 20)
  /-- XOR_I, R115 -/
  | xorI (g : Guard) (ty : ITy) (d a : Reg) (imm : BitVec 20)
  /-- SHL_I, R117 -/
  | shlI (g : Guard) (ty : ITy) (d a : Reg) (imm : BitVec 20)
  /-- SHR_I, R117 -/
  | shrI (g : Guard) (ty : ITy) (d a : Reg) (imm : BitVec 20)
  /-- BFX_I, R119 -/
  | bfxI (g : Guard) (ty : ITy) (d a : Reg) (ctl : BitVec 16)
  /-- BFI_I, R119 -/
  | bfiI (g : Guard) (ty : ITy) (d a : Reg) (ctl : BitVec 16)
  /-- ISET_I, R106 -/
  | isetI (g : Guard) (ty : ITy) (cmp : Cmp) (p : PredIx) (a : Reg) (imm : BitVec 20)
  /-- SEL_I, R109 -/
  | selI (g : Guard) (p : PredIx) (w64 : Bool) (d a : Reg) (imm : BitVec 20)
  /-- MOVI, R110 -/
  | movi (g : Guard) (w64 : Bool) (d : Reg) (imm : BitVec 20)
  /-- ISET_R, R106 -/
  | isetR (g : Guard) (ty : ITy) (cmp : Cmp) (p : PredIx) (a b : Reg)
  /-- PSET, R107 -/
  | pset (g : Guard) (op : BOp) (na nb : Bool) (d a b : PredIx)
  /-- PMOV, R108 -/
  | pmov (g : Guard) (m : PMov)
  /-- LIT, R110 -/
  | lit (g : Guard) (w32 : Bool) (d : Reg) (v : DWord)
  /-- IADD_L, R111 -/
  | iaddL (g : Guard) (ty : ITy) (sat : Bool) (d a : Reg) (v : DWord)
  /-- ISUB_L, R111 -/
  | isubL (g : Guard) (ty : ITy) (sat : Bool) (d a : Reg) (v : DWord)
  /-- IMUL_L, R113 -/
  | imulL (g : Guard) (ty : ITy) (hw : HW) (d a : Reg) (v : DWord)
  /-- IMAD_L, R113 -/
  | imadL (g : Guard) (ty : ITy) (hw : HW) (d a c : Reg) (v : DWord)
  /-- IMIN_L, R111 -/
  | iminL (g : Guard) (ty : ITy) (d a : Reg) (v : DWord)
  /-- IMAX_L, R111 -/
  | imaxL (g : Guard) (ty : ITy) (d a : Reg) (v : DWord)
  /-- AND_L, R115 -/
  | andL (g : Guard) (ty : ITy) (d a : Reg) (v : DWord)
  /-- OR_L, R115 -/
  | orL (g : Guard) (ty : ITy) (d a : Reg) (v : DWord)
  /-- XOR_L, R115 -/
  | xorL (g : Guard) (ty : ITy) (d a : Reg) (v : DWord)
  /-- ISET_L, R106 -/
  | isetL (g : Guard) (ty : ITy) (cmp : Cmp) (p : PredIx) (a : Reg) (v : DWord)
  /-- SEL_L, R109 -/
  | selL (g : Guard) (p : PredIx) (w64 : Bool) (d a : Reg) (v : DWord)
  /-- DOT4_L, R114 -/
  | dot4L (g : Guard) (sgn sa sb sat : Bool) (d a c : Reg) (v : DWord)
  /-- MADDM_R, R124 -/
  | maddmR (g : Guard) (d a b c : Reg)
  /-- MSUBM_R, R124 -/
  | msubmR (g : Guard) (d a b c : Reg)
  /-- MMULM_R, R124 -/
  | mmulmR (g : Guard) (d a b c : Reg)
  /-- MMACM_R, R124 -/
  | mmacmR (g : Guard) (d a b c : Reg)
  /-- MRED_R, R124 -/
  | mredR (g : Guard) (wide : Bool) (d a c : Reg)
  /-- BFLY_R, R125 -/
  | bflyR (g : Guard) (gs : Bool) (d a b c : Reg)
  /-- MADDM_L, R124 -/
  | maddmL (g : Guard) (d a b : Reg) (q : DWord)
  /-- MSUBM_L, R124 -/
  | msubmL (g : Guard) (d a b : Reg) (q : DWord)
  /-- MMULM_L, R124 -/
  | mmulmL (g : Guard) (d a b : Reg) (q : DWord)
  /-- MMACM_L, R124 -/
  | mmacmL (g : Guard) (d a b : Reg) (q : DWord)
  /-- MRED_L, R124 -/
  | mredL (g : Guard) (wide : Bool) (d a : Reg) (q : DWord)
  /-- BFLY_L, R125 -/
  | bflyL (g : Guard) (gs : Bool) (d a b : Reg) (q : DWord)
  /-- ELECT, R147 -/
  | elect (g : Guard) (rot : Bool) (p : PredIx)
  /-- LDG, R151 -/
  | ldg (g : Guard) (m : MemOp)
  /-- STG, R151 -/
  | stg (g : Guard) (m : MemOp)
  /-- LDP, R151 -/
  | ldp (g : Guard) (m : MemOp)
  /-- STP, R151 -/
  | stp (g : Guard) (m : MemOp)
  /-- LDS, R155 -/
  | lds (g : Guard) (m : MemOp)
  /-- STS, R155 -/
  | sts (g : Guard) (m : MemOp)
  /-- LDC, R151 -/
  | ldc (g : Guard) (m : MemOp)
  /-- STC, R151 -/
  | stc (g : Guard) (m : MemOp)
  /-- LDH, R151 -/
  | ldh (g : Guard) (m : MemOp)
  /-- STH, R151 -/
  | sth (g : Guard) (m : MemOp)
  /-- LDIO, R157 -/
  | ldio (g : Guard) (m : MemOp)
  /-- STIO, R157 -/
  | stio (g : Guard) (m : MemOp)
  /-- PREF_GLB, R161 -/
  | prefGlb (g : Guard) (llc : Bool) (a : Reg) (off : BitVec 16)
  /-- PREF_HST, R161 -/
  | prefHst (g : Guard) (llc : Bool) (a : Reg) (off : BitVec 16)
  /-- FENCE, R169 -/
  | fence (g : Guard) (kind : FenceKind) (scope : Scope) (spc : BitVec 4)
  /-- ATS, R164 -/
  | ats (g : Guard) (x : AtomOp)
  /-- ATC, R164 -/
  | atc (g : Guard) (x : AtomOp)
  /-- ATG, R164 -/
  | atg (g : Guard) (x : AtomOp)
  /-- REDC, R164 -/
  | redc (g : Guard) (x : AtomOp)
  /-- REDG, R164 -/
  | redg (g : Guard) (x : AtomOp)
  /-- AMXS_CMN, R166 -/
  | amxsCmn (g : Guard) (x : AmxOp)
  /-- AMXS_GLB, R166 -/
  | amxsGlb (g : Guard) (x : AmxOp)
  /-- FADD_R, R130 -/
  | faddR (g : Guard) (t : FTy) (m : FMod) (d a b : Reg)
  /-- FSUB_R, R130 -/
  | fsubR (g : Guard) (t : FTy) (m : FMod) (d a b : Reg)
  /-- FMUL_R, R130 -/
  | fmulR (g : Guard) (t : FTy) (m : FMod) (d a b : Reg)
  /-- FFMA_R, R130 -/
  | ffmaR (g : Guard) (t : FTy) (m : FMod) (d a b c : Reg)
  /-- FMIN_R, R131 -/
  | fminR (g : Guard) (t : FTy) (ftz : Bool) (d a b : Reg)
  /-- FMAX_R, R131 -/
  | fmaxR (g : Guard) (t : FTy) (ftz : Bool) (d a b : Reg)
  /-- FSET_R, R132 -/
  | fsetR (g : Guard) (t : FTy) (cmp : Cmp) (p : PredIx) (a b : Reg)
  /-- FCLASS, R133 -/
  | fclass (g : Guard) (t : FTy) (d a : Reg)
  /-- FRCP, R134 -/
  | frcp (g : Guard) (t : FTy) (m : FMod) (d a : Reg)
  /-- FRSQ, R134 -/
  | frsq (g : Guard) (t : FTy) (m : FMod) (d a : Reg)
  /-- FSQRT, R134 -/
  | fsqrt (g : Guard) (t : FTy) (m : FMod) (d a : Reg)
  /-- FEX2, R134 -/
  | fex2 (g : Guard) (t : FTy) (m : FMod) (d a : Reg)
  /-- FLG2, R134 -/
  | flg2 (g : Guard) (t : FTy) (m : FMod) (d a : Reg)
  /-- FSIN, R134 -/
  | fsin (g : Guard) (t : FTy) (m : FMod) (d a : Reg)
  /-- FCOS, R134 -/
  | fcos (g : Guard) (t : FTy) (m : FMod) (d a : Reg)
  /-- FTANH, R134 -/
  | ftanh (g : Guard) (t : FTy) (m : FMod) (d a : Reg)
  /-- FADD_I, R130 -/
  | faddI (g : Guard) (m : FMod) (d a : Reg) (imm : BitVec 20)
  /-- FMUL_I, R130 -/
  | fmulI (g : Guard) (m : FMod) (d a : Reg) (imm : BitVec 20)
  /-- FMIN_I, R131 -/
  | fminI (g : Guard) (ftz : Bool) (d a : Reg) (imm : BitVec 20)
  /-- FMAX_I, R131 -/
  | fmaxI (g : Guard) (ftz : Bool) (d a : Reg) (imm : BitVec 20)
  /-- FSET_I, R132 -/
  | fsetI (g : Guard) (cmp : Cmp) (p : PredIx) (a : Reg) (imm : BitVec 20)
  /-- FADD_L, R130 -/
  | faddL (g : Guard) (t : FTy) (m : FMod) (d a : Reg) (v : DWord)
  /-- FSUB_L, R130 -/
  | fsubL (g : Guard) (t : FTy) (m : FMod) (d a : Reg) (v : DWord)
  /-- FMUL_L, R130 -/
  | fmulL (g : Guard) (t : FTy) (m : FMod) (d a : Reg) (v : DWord)
  /-- FFMA_L, R130 -/
  | ffmaL (g : Guard) (t : FTy) (m : FMod) (d a c : Reg) (v : DWord)
  /-- FMIN_L, R131 -/
  | fminL (g : Guard) (t : FTy) (ftz : Bool) (d a : Reg) (v : DWord)
  /-- FMAX_L, R131 -/
  | fmaxL (g : Guard) (t : FTy) (ftz : Bool) (d a : Reg) (v : DWord)
  /-- FSET_L, R132 -/
  | fsetL (g : Guard) (t : FTy) (cmp : Cmp) (p : PredIx) (a : Reg) (v : DWord)
  /-- HFMA2_R, R135 -/
  | hfma2R (g : Guard) (t : FTy) (m : FMod) (d a b c : Reg)
  /-- HADD2, R135 -/
  | hadd2 (g : Guard) (t : FTy) (m : FMod) (d a b : Reg)
  /-- HMUL2, R135 -/
  | hmul2 (g : Guard) (t : FTy) (m : FMod) (d a b : Reg)
  /-- HFMA2_L, R135 -/
  | hfma2L (g : Guard) (t : FTy) (m : FMod) (d a c : Reg) (v : DWord)
  /-- CVT, R136 -/
  | cvt (g : Guard) (dt st : CTy) (m : FMod) (d a : Reg)
  /-- PACK, R137 -/
  | pack (g : Guard) (t : FTy) (m : FMod) (k : BitVec 2) (d a b : Reg)
  /-- UNPACK, R138 -/
  | unpack (g : Guard) (t : FTy) (ftz : Bool) (k : BitVec 2) (d a : Reg)
  /-- BSCALE, R139 -/
  | bscale (g : Guard) (x : BScale)
  /-- SHFL_IDX_R, R143 -/
  | shflIdxR (g : Guard) (p : PredIx) (d a b f : Reg)
  /-- SHFL_UP_R, R143 -/
  | shflUpR (g : Guard) (p : PredIx) (d a b f : Reg)
  /-- SHFL_DOWN_R, R143 -/
  | shflDownR (g : Guard) (p : PredIx) (d a b f : Reg)
  /-- SHFL_XOR_R, R143 -/
  | shflXorR (g : Guard) (p : PredIx) (d a b f : Reg)
  /-- SHFL_IDX_C, R143 -/
  | shflIdxC (g : Guard) (p : PredIx) (d a : Reg) (n : BitVec 6) (f : Reg)
  /-- SHFL_UP_C, R143 -/
  | shflUpC (g : Guard) (p : PredIx) (d a : Reg) (n : BitVec 6) (f : Reg)
  /-- SHFL_DOWN_C, R143 -/
  | shflDownC (g : Guard) (p : PredIx) (d a : Reg) (n : BitVec 6) (f : Reg)
  /-- SHFL_XOR_C, R143 -/
  | shflXorC (g : Guard) (p : PredIx) (d a : Reg) (n : BitVec 6) (f : Reg)
  /-- VOTE, R144 -/
  | vote (g : Guard) (x : Vote) (a : PredIx) (na : Bool)
  /-- REDUX, R145 -/
  | redux (g : Guard) (op : ROp) (t : RTy) (d a : Reg)
  /-- SCAN, R145 -/
  | scan (g : Guard) (op : ROp) (t : RTy) (d a : Reg)
  /-- MATCH, R146 -/
  | matchv (g : Guard) (m : MatchMode) (w64 : Bool) (d a : Reg)
  /-- ACOPY, R178 -/
  | acopy (g : Guard) (x : CopyOp) (nt raw : Bool)
  /-- KICK, R186 -/
  | kick (g : Guard) (a b : Reg)
  /-- BARINIT, R181 -/
  | barinit (g : Guard) (a : Reg) (n : BitVec 13)
  /-- BAREXP_I, R181 -/
  | barexpI (g : Guard) (a : Reg) (n : BitVec 20)
  /-- BAREXP_R, R181 -/
  | barexpR (g : Guard) (a b : Reg)
  /-- BARARR, R181 -/
  | bararr (g : Guard) (grp : Bool) (a : Reg)
  /-- BARWAIT, R182 -/
  | barwait (g : Guard) (p : PredIx) (a : Reg) (x : Gen)
  /-- BARTEST, R182 -/
  | bartest (g : Guard) (p : PredIx) (a : Reg) (x : Gen) (rg : Bool) (c : Reg)
  /-- BARINV, R181 -/
  | barinv (g : Guard) (a : Reg)
  /-- BARARR_MB, R185 -/
  | bararrMb (g : Guard) (n : BitVec 4)
  /-- BARWAIT_MB, R185 -/
  | barwaitMb (g : Guard) (p : PredIx) (n : BitVec 4)
  /-- QPUSH, R192 -/
  | qpush (g : Guard) (q : BitVec 3) (all cred : Bool) (a : Reg)
  /-- QPOP, R192 -/
  | qpop (g : Guard) (q : BitVec 3) (all keep : Bool) (d : Reg)
  /-- QTRY, R192 -/
  | qtry (g : Guard) (q : BitVec 3) (p : PredIx) (x : QTry)
  /-- TILEST, R191 -/
  | tilest (g : Guard) (x : TileSt)
  /-- TILEQ, R190 -/
  | tileq (g : Guard) (d a : Reg)
  /-- FEWAIT, R176 -/
  | fewait (g : Guard) (a b : Reg)
  /-- FECLR, R176 -/
  | feclr (g : Guard) (set : Bool) (a b : Reg)
  /-- TLWAIT_R, R195 -/
  | tlwaitR (g : Guard) (scope : Scope) (h : Bool) (a b : Reg)
  /-- TLWAIT_I, R195 -/
  | tlwaitI (g : Guard) (scope : Scope) (h : Bool) (a : Reg) (n : BitVec 20)
  /-- TLREAD, R195 -/
  | tlread (g : Guard) (scope : Scope) (acq iss h ss : Bool) (d a : Reg)
  /-- NCOPY, R196 -/
  | ncopy (g : Guard) (x : CopyOp) (sealed : Bool)
  /-- ENQ, R223 -/
  | enq (g : Guard) (p : PredIx) (a b : Reg)
  /-- ALLOC_GLB_R, R226 -/
  | allocGlbR (g : Guard) (d : Reg) (p : PredIx) (b : Reg)
  /-- ALLOC_GLB_I, R226 -/
  | allocGlbI (g : Guard) (d : Reg) (p : PredIx) (n : BitVec 20)
  /-- ALLOC_CMN_R, R226 -/
  | allocCmnR (g : Guard) (d : Reg) (p : PredIx) (b : Reg)
  /-- ALLOC_CMN_I, R226 -/
  | allocCmnI (g : Guard) (d : Reg) (p : PredIx) (n : BitVec 20)
  /-- FREE_GLB, R227 -/
  | freeGlb (g : Guard) (a : Reg)
  /-- FREE_CMN, R227 -/
  | freeCmn (g : Guard) (a : Reg)
  /-- MIGR, R229 -/
  | migr (g : Guard) (try_ : Bool) (p : PredIx) (a : Reg)
  /-- CONTEND, R232 -/
  | contend (g : Guard) (sync : Bool) (d : Reg) (p : PredIx) (a : Reg) (cid : Byte)
  /-- SYSR, R237 -/
  | sysr (g : Guard) (d : Reg) (n : BitVec 12)
  /-- SYSW, R237 -/
  | sysw (g : Guard) (a : Reg) (n : BitVec 12)
  /-- CNTR, R238 -/
  | cntr (g : Guard) (d : Reg) (e : BitVec 4)
  /-- MNOP, R216 -/
  | mnop
  /-- MBWAIT, R216 -/
  | mbwait (n : BitVec 4)
  /-- MBSIG, R216 -/
  | mbsig (n : BitVec 4)
  /-- MLOOP, R204 -/
  | mloop (count : BitVec 16)
  /-- MEND, R204 -/
  | mend
  /-- PMARK, R219 -/
  | pmark (tmask : BitVec 16) (bmask : BitVec 4)
  /-- MFENCE, R200 -/
  | mfence
  /-- MSETQ, R211 -/
  | msetq (c0 : BitVec 6) (cn : BitVec 7) (q : DWord)
  /-- MFMT, R212 -/
  | mfmt (rm : RMode) (sat : Bool)
  /-- MZERO, R212 -/
  | mzero (kind : MKind) (mt : BitVec 4)
  /-- MLDB, R207 -/
  | mldb (x : MldbOp)
  /-- MLDU, R205 -/
  | mldu (ud : BitVec 3) (addr : BitVec 16)
  /-- MLDA, R212 -/
  | mlda (kind : MKind) (mt : BitVec 4) (x : MRange)
  /-- MST, R212 -/
  | mst (ec : ECode) (mt : BitVec 4) (x : MRange)
  /-- MCOPY, R212 -/
  | mcopy (mt src : BitVec 4)
  /-- MTRN, R212 -/
  | mtrn (mt src : BitVec 4)
  /-- MCVT, R212 -/
  | mcvt (toI32 : Bool) (mt : BitVec 4)
  /-- MMA, R209 -/
  | mma (x : MmaOp) (af bf : ECode)
  /-- MPMA, R210 -/
  | mpma (x : MmaOp) (af : ECode) (mid : Bool)
  /-- MMODMA, R211 -/
  | mmodma (x : MmaOp)
  /-- MNTT, R215 -/
  | mntt (x : NttOp)
  /-- MINTT, R215 -/
  | mintt (x : NttOp)
  /-- MTADD, R213 -/
  | mtadd (mt src : BitVec 4)
  /-- MHAD, R213 -/
  | mhad (mt src : BitVec 4)
  /-- MSCL, R213 -/
  | mscl (mt : BitVec 4) (v : DWord)
  /-- MBIAS, R213 -/
  | mbias (mt : BitVec 4) (addr : BitVec 16)
  /-- MCLAMP, R213 -/
  | mclamp (mt : BitVec 4) (lo hi : Word)
  /-- MAMAX, R213 -/
  | mamax (mt : BitVec 4) (addr : BitVec 16)
  /-- XSPAWN, R244 -/
  | xspawn (n : BitVec 4) (rs2 rs1 rd : BitVec 5)
  /-- XDISP, R245 -/
  | xdisp (n : BitVec 4) (rs2 rs1 rd : BitVec 5)
  /-- XJOIN, R246 -/
  | xjoin (rs1 rd : BitVec 5)
  /-- XWAITC, R246 -/
  | xwaitc (rs2 rs1 rd : BitVec 5)
  /-- UNASSIGNED_OPCODE, R84 -/
  | unassignedOpcode (g : Guard) (op : Byte)
  /-- UNASSIGNED_MOP, R92 -/
  | unassignedMop (mop : BitVec 6)
  /-- RESERVED_CUSTOM_0, R94 -/
  | reservedCustom0 (core : Nat) (w : Word)
  /-- XDISP_TASK_END, R245 -/
  | xdispTaskEnd (core : Nat)
  /-- ENTER_HEADER, R65 -/
  | enterHeader
  /-- FLAG_COMPLETION, R68 -/
  | flagCompletion (gid op : Nat)
  /-- PROGRESS_RULE_RELEASE, R298 -/
  | progressRuleRelease (gid : Nat)
  /-- ISSUE_AGE_LIMIT, R295 -/
  | issueAgeLimit (gid : Nat)
  /-- PREEMPT_WORD_LIMIT, R76 -/
  | preemptWordLimit (gid : Nat)
  /-- PREEMPT_SECOND_LIMIT, R76 -/
  | preemptSecondLimit (gid : Nat)
  /-- SLEEP_EXPIRY, R103 -/
  | sleepExpiry (gid lane : Nat)
  /-- EXIT_TAKES_EFFECT, R102 -/
  | exitTakesEffect (gid lane : Nat)
  /-- FAULT_RECORD_WRITE, R341 -/
  | faultRecordWrite (asid : Nat)
  /-- HANDLER_ENTRY, R241 -/
  | handlerEntry (gid : Nat)
  /-- TEAM_RETIREMENT, R299 -/
  | teamRetirement (tid : Nat)
  /-- GRID_END_FLUSH, R301 -/
  | gridEndFlush (grid : Nat)
  /-- TRANSFER_LANDING, R183 -/
  | transferLanding (x : Nat)
  /-- BANK_STORE_ENCODE, R47 -/
  | bankStoreEncode (gid op : Nat)
  /-- BANK_RMW, R164 -/
  | bankRmw (gid op : Nat)
  /-- REQUEST_ACCEPT, R187 -/
  | requestAccept (die core : Nat)
  /-- REQUEST_STATUS_WRITE, R189 -/
  | requestStatusWrite (r : Nat)
  /-- NCOPY_ACCEPT, R307 -/
  | ncopyAccept (n : Nat)
  /-- NCOPY_FINISH, R194 -/
  | ncopyFinish (n : Nat)
  /-- GANG_PLACEMENT, R292 -/
  | gangPlacement (vf : Nat)
  /-- HEAT_START, R230 -/
  | heatStart (lane : Nat)
  /-- HEAT_RESULT, R232 -/
  | heatResult (lane : Nat)
  /-- MIGRATION_RESUME, R229 -/
  | migrationResume (gid : Nat)
  /-- MIGR_PONTOON_RETRY, R229 -/
  | migrPontoonRetry (die : Nat)
  /-- SYNT_DISCIPLINE, R235 -/
  | syntDiscipline (offset : Int) (acc : Nat)
  /-- REHOME_WINDOW_END, R304 -/
  | rehomeWindowEnd
  /-- REHOME_COMPLETE, R305 -/
  | rehomeComplete (asid lfn : Nat)
  /-- TRANSLATION_WALK, R339 -/
  | translationWalk (die : Nat)
  /-- FRAME_BACKING, R336 -/
  | frameBacking
  /-- COMMAND_TAKE, R319 -/
  | commandTake
  /-- LAUNCH_COMMAND, R323 -/
  | launchCommand (vf q : Nat)
  /-- WAIT_COMMAND, R321 -/
  | waitCommand (vf q : Nat)
  /-- NOP_COMMAND, R321 -/
  | nopCommand (vf q : Nat)
  /-- COMMAND_ACCEPT, R323 -/
  | commandAccept (vf q : Nat)
  /-- COMMAND_FINISH, R324 -/
  | commandFinish (vf q : Nat)
  /-- QTAIL_WRITE, R318 -/
  | qtailWrite (path : Path) (vf q : Nat) (v : Word)
  /-- QUEUE_ENABLE, R317 -/
  | queueEnable (path : Path) (vf q : Nat) (v : Word)
  /-- QUEUE_DISABLE, R320 -/
  | queueDisable (path : Path) (vf q : Nat) (v : Word)
  /-- QSTAT_WRITE, R316 -/
  | qstatWrite (path : Path) (vf q : Nat) (v : DWord)
  /-- CNTSEL_WRITE, R405 -/
  | cntselWrite (path : Path) (vf : Nat) (v : Word)
  /-- DUTY_WRITE, R333 -/
  | dutyWrite (path : Path) (vf : Nat) (v : Word)
  /-- PMASK_WRITE, R30 -/
  | pmaskWrite (path : Path) (vf : Nat) (v : Word)
  /-- REGISTER_WRITE, R316 -/
  | registerWrite (path : Path) (bar : Bar) (vf off : Nat) (v : DWord)
  /-- DENIAL_CLEAR, R404 -/
  | denialClear (vf : Option Nat)
  /-- MAILBOX_DOORBELL, R328 -/
  | mailboxDoorbell (m : Mail)
  /-- MSG_COMMAND_TAKEN, R329 -/
  | msgCommandTaken
  /-- MSG_SEED_GANG_READY, R329 -/
  | msgSeedGangReady
  /-- MSG_GANG_PLACED, R329 -/
  | msgGangPlaced
  /-- MSG_TEAM_OR_GANG_RETIRED, R329 -/
  | msgTeamOrGangRetired
  /-- MSG_COMMAND_FINISHED, R329 -/
  | msgCommandFinished
  /-- MSG_ERROR_REPORT, R329 -/
  | msgErrorReport
  /-- MSG_PAGE_HOME, R329 -/
  | msgPageHome (seat : Nat)
  /-- MSG_KEY_SLOT, R329 -/
  | msgKeySlot (seat : Nat)
  /-- MSG_CLOCK_POWER_BUDGET, R395 -/
  | msgClockPowerBudget (inst : Nat)
  /-- MSG_CHECKPOINT_STEP, R329 -/
  | msgCheckpointStep (seat : Nat)
  /-- NAK, R329 -/
  | nak (seat : Nat)
  /-- MULTIKERNEL_UPDATE, R330 -/
  | multikernelUpdate (home inst : Nat)
  /-- DUTY_REPLY, R333 -/
  | dutyReply (vf ix : Nat) (a : DutyAnswer)
  /-- DUTY_TIMEOUT, R333 -/
  | dutyTimeout (vf ix : Nat)
  /-- GANG_PREEMPT, R348 -/
  | gangPreempt (path : Path) (v : Word)
  /-- GANG_IMAGE_SEALED, R348 -/
  | gangImageSealed (gang : Nat)
  /-- GANG_RESTORE, R350 -/
  | gangRestore (path : Path) (v : Word)
  /-- GANG_MOVE, R348 -/
  | gangMove (path : Path) (v : Word)
  /-- CONTEXT_CREATE, R354 -/
  | contextCreate (path : Path) (v : Word)
  /-- CONTEXT_DESTROY, R356 -/
  | contextDestroy (path : Path) (v : Word)
  /-- RESET_DIE, R359 -/
  | resetDie (path : Path) (v : Word)
  /-- DIE_RESET_COMPLETE, R402 -/
  | dieResetComplete (die : Nat)
  /-- MODULE_RESET, R399 -/
  | moduleReset (path : Path) (v : Word)
  /-- DEBUG_LOCK_CLOSE, R372 -/
  | debugLockClose (path : Path) (v : Word)
  /-- GET_VERSION, R368 -/
  | getVersion (sess : Option Nat)
  /-- GET_CAPABILITIES, R368 -/
  | getCapabilities (sess : Option Nat)
  /-- NEGOTIATE_ALGORITHMS, R368 -/
  | negotiateAlgorithms (sess : Option Nat)
  /-- GET_DIGESTS, R368 -/
  | getDigests (sess : Option Nat)
  /-- GET_CERTIFICATE, R368 -/
  | getCertificate (sess : Option Nat) (slot : Nat)
  /-- CHALLENGE, R368 -/
  | challenge (sess : Option Nat) (nonce : Nat)
  /-- GET_MEASUREMENTS, R368 -/
  | getMeasurements (sess : Option Nat) (index : Nat)
  /-- KEY_EXCHANGE, R368 -/
  | keyExchange (req : Nat)
  /-- FINISH, R368 -/
  | finish (sess : Nat)
  /-- HEARTBEAT, R368 -/
  | heartbeat (sess : Nat)
  /-- KEY_UPDATE, R368 -/
  | keyUpdate (sess : Nat)
  /-- END_SESSION, R368 -/
  | endSession (sess : Nat)
  /-- UNSUPPORTED_REQUEST, R368 -/
  | unsupportedRequest (sess : Option Nat) (code : Nat)
  /-- BIND, R355 -/
  | bind (sess : Nat) (r : BindReq)
  /-- DEPART, R356 -/
  | depart (sess asid : Nat)
  /-- SEAL_CODE, R370 -/
  | sealCode (sess asid : Nat) (ranges : List (Nat × Nat))
  /-- GET_NOTICE, R361 -/
  | getNotice (sess asid : Nat)
  /-- GET_COUNTS, R369 -/
  | getCounts (sess asid : Nat)
  /-- EASY_ALL, R366 -/
  | easyAll (stream : Nat)
  /-- EASY_ALL_DRAINED, R366 -/
  | easyAllDrained (stream : Nat)
  /-- EASY_ALL_TIMEOUT, R367 -/
  | easyAllTimeout (stream : Nat)
  /-- PARTITION_SELECT, R377 -/
  | partitionSelect (path : Path) (v : Word)
  /-- PARTITION_APPLY, R378 -/
  | partitionApply (path : Path) (v : Word)
  /-- PARTITION_RELEASE, R378 -/
  | partitionRelease (path : Path) (v : Word)
  /-- FUNCTION_LEVEL_RESET, R381 -/
  | functionLevelReset (vf : Nat)
  /-- CHECKPOINT, R388 -/
  | checkpoint (path : Path) (v : Word)
  /-- CHECKPOINT_RESTORE, R389 -/
  | checkpointRestore (path : Path) (v : Word)
  /-- CHECKPOINT_VERIFY, R388 -/
  | checkpointVerify (path : Path) (v : Word)
  /-- SCRUB_FRAME, R392 -/
  | scrubFrame (die : Nat)
  /-- PATROL_READ, R384 -/
  | patrolRead (die asid lfn : Nat) (found : List PatrolFind)
  /-- LINK_RETRY, R382 -/
  | linkRetry (die : Nat)
  /-- DIE_FATAL_ERROR, R351 -/
  | dieFatalError (die : Nat)
  /-- POWER_WINDOW, R396 -/
  | powerWindow (m : List DieMeasure) (memory x : Nat)
  /-- CLOCK_CEILING_WRITE, R395 -/
  | clockCeilingWrite (path : Path) (die : Nat) (v : Word)
  /-- CLOCK_CHANGE, R395 -/
  | clockChange (die : Nat)
  /-- FAST_SET, R397 -/
  | fastSet
  /-- FAST_CLEAR, R397 -/
  | fastClear
  /-- THROT_SET, R398 -/
  | throtSet (die : Nat) (mem : Bool) (temp : Int)
  /-- THERMAL_TRIP, R398 -/
  | thermalTrip (die : Nat)
  /-- MODULE_THERMAL_TRIP, R398 -/
  | moduleThermalTrip
  /-- POWER_LOSS, R403 -/
  | powerLoss
  /-- COLD_BOOT, R399 -/
  | coldBoot
  /-- BOOT_STAGE_COMPLETE, R399 -/
  | bootStageComplete (ok : Bool) (recs : List ConfigRecord)
  /-- RECOVERY_BEGIN_LOAD, R400 -/
  | recoveryBeginLoad (path : Path) (v : Word)
  /-- RECOVERY_DATA, R400 -/
  | recoveryData (path : Path) (v : DWord)
  /-- RECOVERY_END_LOAD, R400 -/
  | recoveryEndLoad (path : Path) (v : Word) (ok : Bool)
  /-- DEBUG_MODULE_REQUEST, R373 -/
  | debugModuleRequest (r : DebugReq)
  /-- DENIED_WINDOW_READ, R404 -/
  | deniedWindowRead (path : Path) (bar : Bar) (vf off : Nat)
  /-- IDE_KM, R365 -/
  | ideKm (sess stream : Nat)
  deriving DecidableEq, Repr

end Sys2Proof
end

