-- ==== Sys2Proof/WellFormed.lean ====
section
/-!
DEFINITION. Which terms of `Instr` have an encoding: the pair, code and combination limits that the encoding tables
give (R18, R78 to R81, R89 and the instruction chapters). Checks that need the kernel's register count, the block or
the machine are not here: the meanings make them.
-/

namespace Sys2Proof

/-- A 64-bit operand names an even register (R18). -/
def evenReg (r : Reg) : Bool := !r.getLsbD 0

/-- A register operand of width class `w64`: even when it is a pair (R18, R36). -/
def pairIf (w64 : Bool) (r : Reg) : Bool := !w64 || evenReg r

/-- ITY of 64 bits (Table 5.4). -/
def ITy.is64 : ITy → Bool
  | .n64 | .i64 => true
  | _ => false

/-- Signed ITY (Table 5.4). -/
def ITy.signed : ITy → Bool
  | .i32 | .i64 | .i16 | .i8 => true
  | _ => false

/-- ITY of 32 bits, the only ones that `.wide` accepts (R113). -/
def ITy.is32 : ITy → Bool
  | .n32 | .i32 => true
  | _ => false

/-- FTY 0 to 2: every floating instruction but the conversions (R89). -/
def FTy.scalar : FTy → Bool
  | .f32 | .f16 | .bf16 => true
  | _ => false

/-- FTY 1 and 2: the packed halves (R89, R135). -/
def FTy.half : FTy → Bool
  | .f16 | .bf16 => true
  | _ => false

/-- FTY 0 and 1: the special functions (R134). -/
def FTy.special : FTy → Bool
  | .f32 | .f16 => true
  | _ => false

/-- CMP 0 to 5, the codes of `iset` (R106). -/
def Cmp.integer : Cmp → Bool
  | .eq | .ne | .lt | .le | .gt | .ge => true
  | _ => false

/-- HW against ITY and the pair operands of `imul` and `imad` (R113); `acc` is the addend of `imad`. -/
def mulWf (ty : ITy) (hw : HW) (d : Reg) (srcs : List Reg) (acc : Option Reg) : Bool :=
  match hw with
  | .lo => pairIf ty.is64 d && srcs.all (pairIf ty.is64) && acc.all (pairIf ty.is64)
  | .hi => acc.isNone && (ty.is32 || ty.is64) && pairIf ty.is64 d && srcs.all (pairIf ty.is64)
  | .wide => ty.is32 && evenReg d && acc.all evenReg

/-- The combinations of a load or store that R79 and R149 leave, with the base register single or an even pair. -/
def memWf (wideBase isLoad : Bool) (m : MemOp) : Bool :=
  (!wideBase || evenReg m.a) &&
  (m.ord != .plain || m.scope == .grp) &&
  (if isLoad then m.ord != .rel else m.ord != .acq) &&
  (m.ty != .bf || m.wid == .w2) &&
  (m.ty != .ieee || m.wid == .w2 || m.wid == .w4) &&
  (m.wid != .w16 || (m.d.toNat % 4 == 0 && m.ty != .signed)) &&
  (m.wid != .w8 || evenReg m.d)

/-- PRIV accepts no ordering (R149, R156) and no `.raw`; its accesses have a flag slot. -/
def privWf (isLoad : Bool) (m : MemOp) : Bool := memWf false isLoad m && m.ord == .plain && !m.raw

/-- SCR: short, so no flag slot (R149, R155). -/
def scrWf (isLoad : Bool) (m : MemOp) : Bool := memWf false isLoad m && !m.raw && !m.ss

/-- CMN (R149). -/
def cmnWf (isLoad : Bool) (m : MemOp) : Bool := memWf false isLoad m && !m.raw

/-- IOS: 4 or 8 bytes, type bits 0 (R149). -/
def iosWf (isLoad : Bool) (m : MemOp) : Bool :=
  memWf false isLoad m && !m.raw && m.ty == .unsigned && (m.wid == .w4 || m.wid == .w8)

/-- ATY of 64 bits (Table 8.2). -/
def ATy.is64 : ATy → Bool
  | .n64 | .i64 => true
  | _ => false

/-- AOP against ATY (Table 8.3). -/
def AOp.accepts (o : AOp) (t : ATy) : Bool :=
  match o with
  | .add | .min | .max => true
  | .and | .or | .xor | .exch | .cas | .inc | .dec => t == .n32 || t == .n64
  | .amax => t == .f32

/-- An atomic (R162, R163). -/
def atomWf (wideBase : Bool) (x : AtomOp) : Bool :=
  (!wideBase || evenReg x.a) && x.aop.accepts x.aty && pairIf x.aty.is64 x.d && pairIf x.aty.is64 x.b &&
  (if x.aop == .cas then pairIf x.aty.is64 x.c else x.c == 0)

/-- A reduction: no destination, ORD relaxed or release, the operations of Table 8.3's last column (R162, R163). -/
def redWf (wideBase : Bool) (x : AtomOp) : Bool :=
  atomWf wideBase x && x.d == 0 && (x.ord == .rlx || x.ord == .rel) &&
  !(x.aop == .exch || x.aop == .cas || x.aop == .inc || x.aop == .dec)

/-- A register that holds an address of the space: an even pair for GLB and HST (R178). -/
def addrWf (sp : Space) (r : Reg) : Bool := !(sp == .glb || sp == .hst) || evenReg r

/-- Element widths of format Y (Table 4.8). -/
def copyWidWf (w : Wid) : Bool := w == .w4 || w == .w8 || w == .w16

/-- A type code of `cvt` against its register (R136). -/
def CTy.is64 : CTy → Bool
  | .int t => t.is64
  | .flt _ => false

/-- The reserved combinations of `cvt` (R136). -/
def cvtWf (dt st : CTy) (m : FMod) : Bool :=
  match dt, st with
  | .int a, .int b => a != b && m.rm == .rn && !m.ftz
  | .flt a, .flt b => a != b || a.scalar
  | _, _ => true

/-- The k that an element format allows in `pack` and `unpack` (R137). -/
def packWf (t : FTy) (k : BitVec 2) : Bool :=
  match t with
  | .f32 => false
  | .f16 | .bf16 => k == 0
  | .e4m3 | .e5m2 => k.toNat < 2
  | .e2m1x => true

/-- The op and type pairs of `redux` and `scan` (R145). -/
def ROp.accepts (op : ROp) (scan : Bool) : RTy → Bool
  | .int _ => scan || op != .xadd
  | .f32 => op == .add || op == .min || op == .max || (scan && op == .xadd)

/-- Width of a reduction's operands. -/
def RTy.is64 : RTy → Bool
  | .int t => t.is64
  | .f32 => false

/-- Three even pairs and a fourth operand that is one when it is a register (R123). -/
def modWf (rs : List Reg) : Bool := rs.all evenReg

/-- An element code is a bit-plane code: only then PL may be other than 0 (R202, R207). -/
def planesOf : ECode → Bool
  | .bp2 | .bp3 | .bp4 | .bp5 | .bp6 | .bp7 | .bp8 => true
  | _ => false

/-- K0 of a multiplying command is a multiple of 8 (R202). -/
def mmaWf (x : MmaOp) : Bool := x.k0.toNat % 8 == 0

/-- The opcodes that Table 5.1 leaves unassigned. -/
def unassignedOp (op : Byte) : Bool :=
  let n := op.toNat
  [0x00, 0x0F, 0x1F, 0x2F, 0x3F, 0x5D, 0x5E, 0x5F, 0x6F, 0xBE, 0xBF, 0xCF].contains n ||
  (0x77 ≤ n && n ≤ 0x7F) || (0xD5 ≤ n)

/-- The codes that Table 5.7 leaves unassigned. -/
def unassignedMopCode (mop : BitVec 6) : Bool :=
  let n := mop.toNat
  n == 0 || (0x0A ≤ n && n ≤ 0x0F) || (0x18 ≤ n && n ≤ 0x1F) || (0x25 ≤ n && n ≤ 0x2F) || 0x36 ≤ n

/-- A custom-0 word that Table 5.8 does not give (R94). -/
def custom0Reserved (w : Word) : Bool :=
  w.extractLsb' 0 7 == 0x0B#7 &&
  (match (w.extractLsb' 12 3).toNat with
   | 0 | 1 => 8 < (w.extractLsb' 25 7).toNat
   | 2 => w.extractLsb' 25 7 != 0 || w.extractLsb' 20 5 != 0
   | 3 => w.extractLsb' 25 7 != 0
   | _ => true)

/-- The instruction has an encoding: every limit that depends on the word alone holds. -/
def Instr.wf : Instr → Bool
  | .nop .. | .bra .. | .callI .. | .ret .. | .exit .. | .yield .. | .sleep .. | .waitf .. | .trap .. | .rte ..
  | .bkpt .. | .svc .. => true
  | .brx _ a | .callR _ _ a => evenReg a
  | .iaddR _ ty _ d a b | .isubR _ ty _ d a b => [d, a, b].all (pairIf ty.is64)
  | .iaddc _ w d a b _ | .isubc _ w d a b _ => [d, a, b].all (pairIf w)
  | .imulR _ ty hw d a b => mulWf ty hw d [a, b] none
  | .imadR _ ty hw d a b c => mulWf ty hw d [a, b] (some c)
  | .iminR _ ty d a b | .imaxR _ ty d a b => [d, a, b].all (pairIf ty.is64)
  | .iabs _ ty _ d a => ty.signed && [d, a].all (pairIf ty.is64)
  | .ineg _ ty sat d a => (!sat || ty.signed) && [d, a].all (pairIf ty.is64)
  | .dot4R .. | .dot2 .. => true
  | .popc _ ty _ a | .clz _ ty _ a => !ty.signed && pairIf ty.is64 a
  | .brev _ ty d a | .not _ ty d a => !ty.signed && [d, a].all (pairIf ty.is64)
  | .andR _ ty d a b | .orR _ ty d a b | .xorR _ ty d a b => !ty.signed && [d, a, b].all (pairIf ty.is64)
  | .lop3Lo .. | .lop3Hi .. => true
  | .shlR _ ty d a _ => !ty.signed && [d, a].all (pairIf ty.is64)
  | .shrR _ ty d a _ => [d, a].all (pairIf ty.is64)
  | .shf .. => true
  | .bfxR _ ty d a _ => [d, a].all (pairIf ty.is64)
  | .bfiR _ ty d a _ c => !ty.signed && [d, a, c].all (pairIf ty.is64)
  | .selR _ _ w d a b => [d, a, b].all (pairIf w)
  | .mov _ ty d a => [d, a].all (pairIf ty.is64)
  | .lea _ _ _ d a _ => evenReg d && evenReg a
  | .sbind _ (.bind _ ew8 d a) => pairIf ew8 d && a.toNat ≤ 1021
  | .sbind _ (.off _) => true
  | .iaddI _ ty _ d a _ | .isubI _ ty _ d a _ | .iminI _ ty d a _ | .imaxI _ ty d a _ => [d, a].all (pairIf ty.is64)
  | .imulI _ ty hw d a _ => mulWf ty hw d [a] none
  | .andI _ ty d a _ | .orI _ ty d a _ | .xorI _ ty d a _ | .shlI _ ty d a _ =>
      !ty.signed && [d, a].all (pairIf ty.is64)
  | .shrI _ ty d a _ => [d, a].all (pairIf ty.is64)
  | .bfxI _ ty d a _ => [d, a].all (pairIf ty.is64)
  | .bfiI _ ty d a _ => !ty.signed && [d, a].all (pairIf ty.is64)
  | .isetI _ ty cmp _ a _ | .isetL _ ty cmp _ a _ => cmp.integer && pairIf ty.is64 a
  | .selI _ _ w d a _ | .selL _ _ w d a _ => [d, a].all (pairIf w)
  | .movi _ w d _ => pairIf w d
  | .isetR _ ty cmp _ a b => cmp.integer && [a, b].all (pairIf ty.is64)
  | .pset .. => true
  | .pmov _ (.copy ..) => true
  | .pmov _ (.save d) => evenReg d
  | .pmov _ (.load a) => evenReg a
  | .lit _ w32 d _ => w32 || evenReg d
  | .iaddL _ ty _ d a _ | .isubL _ ty _ d a _ | .iminL _ ty d a _ | .imaxL _ ty d a _ => [d, a].all (pairIf ty.is64)
  | .imulL _ ty hw d a _ => mulWf ty hw d [a] none
  | .imadL _ ty hw d a c _ => mulWf ty hw d [a] (some c)
  | .andL _ ty d a _ | .orL _ ty d a _ | .xorL _ ty d a _ => !ty.signed && [d, a].all (pairIf ty.is64)
  | .dot4L .. => true
  | .maddmR _ d a b c | .msubmR _ d a b c | .mmulmR _ d a b c | .mmacmR _ d a b c => modWf [d, a, b, c]
  | .mredR _ wide d a c => modWf [d, a, c] && (!wide || a.toNat % 4 == 0)
  | .bflyR _ _ d a b c => modWf [d, a, b, c] && d != a
  | .maddmL _ d a b _ | .msubmL _ d a b _ | .mmulmL _ d a b _ | .mmacmL _ d a b _ => modWf [d, a, b]
  | .mredL _ wide d a _ => modWf [d, a] && (!wide || a.toNat % 4 == 0)
  | .bflyL _ _ d a b _ => modWf [d, a, b] && d != a
  | .elect .. => true
  | .ldg _ m | .ldh _ m => memWf true true m
  | .stg _ m | .sth _ m => memWf true false m
  | .ldp _ m => privWf true m
  | .stp _ m => privWf false m
  | .lds _ m => scrWf true m
  | .sts _ m => scrWf false m
  | .ldc _ m => cmnWf true m
  | .stc _ m => cmnWf false m
  | .ldio _ m => iosWf true m
  | .stio _ m => iosWf false m
  | .prefGlb _ _ a _ | .prefHst _ _ a _ => evenReg a
  | .fence _ _ _ spc => spc != 0
  | .ats _ x | .atc _ x => atomWf false x
  | .atg _ x => atomWf true x
  | .redc _ x => redWf false x
  | .redg _ x => redWf true x
  | .amxsCmn _ x => x.ord != .plain
  | .amxsGlb _ x => x.ord != .plain && evenReg x.a
  | .faddR _ t .. | .fsubR _ t .. | .fmulR _ t .. | .ffmaR _ t .. | .fminR _ t .. | .fmaxR _ t .. | .fsetR _ t ..
  | .fclass _ t .. => t.scalar
  | .frcp _ t _ _ _ | .fsqrt _ t _ _ _ => t.special
  | .frsq _ t m _ _ | .fex2 _ t m _ _ | .flg2 _ t m _ _ | .fsin _ t m _ _ | .fcos _ t m _ _ | .ftanh _ t m _ _ =>
      t.special && m.rm == .rn
  | .faddI .. | .fmulI .. | .fminI .. | .fmaxI .. | .fsetI .. => true
  | .faddL _ t .. | .fsubL _ t .. | .fmulL _ t .. | .ffmaL _ t .. | .fminL _ t .. | .fmaxL _ t .. | .fsetL _ t .. =>
      t.scalar
  | .hfma2R _ t .. | .hadd2 _ t .. | .hmul2 _ t .. | .hfma2L _ t .. => t.half
  | .cvt _ dt st m d a => cvtWf dt st m && pairIf dt.is64 d && pairIf st.is64 a
  | .pack _ t _ k _ _ _ => packWf t k
  | .unpack _ t _ k d _ => packWf t k && evenReg d
  | .bscale _ (.apply ..) => true
  | .bscale _ (.derive t _ _) => !t.scalar
  | .shflIdxR .. | .shflUpR .. | .shflDownR .. | .shflXorR .. | .shflIdxC .. | .shflUpC .. | .shflDownC ..
  | .shflXorC .. => true
  | .vote _ (.mask d) _ _ => evenReg d
  | .vote .. => true
  | .redux _ op t d a => op.accepts false t && [d, a].all (pairIf t.is64)
  | .scan _ op t d a => op.accepts true t && [d, a].all (pairIf t.is64)
  | .matchv _ _ w d a => evenReg d && pairIf w a
  | .acopy _ x _ _ =>
      copyWidWf x.wid && addrWf x.dspc x.da && addrWf x.sspc x.sa &&
      ((x.dspc == .scr && (x.sspc == .cmn || x.sspc == .glb || x.sspc == .hst)) ||
       (x.sspc == .scr && (x.dspc == .cmn || x.dspc == .glb || x.dspc == .hst)))
  | .kick .. => true
  | .barinit _ _ n => 1 ≤ n.toNat && n.toNat ≤ 4096
  | .barexpI .. | .barexpR .. | .bararr .. | .barwait .. => true
  | .bartest _ _ _ _ rg c => rg || c == 0
  | .barinv .. | .bararrMb .. | .barwaitMb .. | .qpush .. | .qpop .. | .qtry .. | .tilest .. => true
  | .tileq _ d _ => evenReg d
  | .fewait .. | .feclr .. => true
  | .tlwaitR _ _ _ a b => evenReg a && evenReg b
  | .tlwaitI _ _ _ a _ => evenReg a
  | .tlread _ _ _ _ _ _ d a => evenReg d && evenReg a
  | .ncopy _ x _ =>
      copyWidWf x.wid && x.sspc == .glb && (x.dspc == .glb || x.dspc == .hst) && evenReg x.da && evenReg x.sa &&
      evenReg x.ba
  | .enq _ _ a _ => evenReg a
  | .allocGlbR _ d _ _ => evenReg d
  | .allocGlbI _ d _ n => evenReg d && n != 0
  | .allocCmnR .. | .allocCmnI .. => true
  | .freeGlb _ a => evenReg a
  | .freeCmn .. => true
  | .migr _ try_ p a => evenReg a && (try_ || p == 0)
  | .contend _ _ d _ a cid => evenReg d && evenReg a && cid.toNat < 0xF0
  | .sysr .. | .sysw .. => true
  | .cntr _ d e => evenReg d && e.toNat < 8
  | .mnop | .mbwait .. | .mbsig .. | .mloop .. | .mend | .pmark .. | .mfence => true
  | .msetq c0 cn _ => 1 ≤ cn.toNat && c0.toNat + cn.toNat ≤ 64
  | .mfmt .. | .mzero .. => true
  | .mldb x => x.pitch != 0 && (planesOf x.ec || x.pl == 0)
  | .mldu .. => true
  | .mlda _ _ x => x.pitch != 0
  | .mst _ _ x => x.pitch != 0
  | .mcopy .. | .mtrn .. | .mcvt .. => true
  | .mma x _ _ => mmaWf x
  | .mpma x _ _ => mmaWf x
  | .mmodma x => mmaWf x
  | .mntt x | .mintt x => 4 ≤ x.j.toNat && x.j.toNat ≤ 16
  | .mtadd .. | .mhad .. | .mscl .. | .mbias .. | .mclamp .. | .mamax .. => true
  | .xspawn n .. | .xdisp n .. => n.toNat ≤ 8
  | .xjoin .. | .xwaitc .. => true
  | .unassignedOpcode _ op => unassignedOp op
  | .unassignedMop mop => unassignedMopCode mop
  | .reservedCustom0 _ w => custom0Reserved w
  | .xdispTaskEnd .. | .enterHeader | .flagCompletion .. | .progressRuleRelease .. | .issueAgeLimit ..
  | .preemptWordLimit .. | .preemptSecondLimit .. | .sleepExpiry .. | .exitTakesEffect .. | .faultRecordWrite ..
  | .handlerEntry .. | .teamRetirement .. | .gridEndFlush .. | .transferLanding .. | .bankStoreEncode ..
  | .bankRmw .. | .requestAccept .. | .requestStatusWrite .. | .ncopyAccept .. | .ncopyFinish .. | .gangPlacement ..
  | .heatStart .. | .heatResult .. | .migrationResume .. | .migrPontoonRetry .. | .syntDiscipline ..
  | .rehomeWindowEnd | .rehomeComplete .. | .translationWalk .. | .frameBacking | .commandTake | .launchCommand ..
  | .waitCommand .. | .nopCommand .. | .commandAccept .. | .commandFinish .. | .qtailWrite .. | .queueEnable ..
  | .queueDisable .. | .qstatWrite .. | .cntselWrite .. | .dutyWrite .. | .pmaskWrite .. | .registerWrite ..
  | .denialClear .. | .mailboxDoorbell .. | .msgCommandTaken | .msgSeedGangReady | .msgGangPlaced
  | .msgTeamOrGangRetired | .msgCommandFinished | .msgErrorReport | .msgPageHome .. | .msgKeySlot ..
  | .msgClockPowerBudget .. | .msgCheckpointStep .. | .nak .. | .multikernelUpdate .. | .dutyReply ..
  | .dutyTimeout .. | .gangPreempt .. | .gangImageSealed .. | .gangRestore .. | .gangMove .. | .contextCreate ..
  | .contextDestroy .. | .resetDie .. | .dieResetComplete .. | .moduleReset .. | .debugLockClose .. | .getVersion ..
  | .getCapabilities .. | .negotiateAlgorithms .. | .getDigests .. | .getCertificate .. | .challenge ..
  | .getMeasurements .. | .keyExchange .. | .finish .. | .heartbeat .. | .keyUpdate .. | .endSession ..
  | .unsupportedRequest .. | .bind .. | .depart .. | .sealCode .. | .getNotice .. | .getCounts .. | .easyAll ..
  | .easyAllDrained .. | .easyAllTimeout .. | .partitionSelect .. | .partitionApply .. | .partitionRelease ..
  | .functionLevelReset .. | .checkpoint .. | .checkpointRestore .. | .checkpointVerify .. | .scrubFrame ..
  | .patrolRead .. | .linkRetry .. | .dieFatalError .. | .powerWindow .. | .clockCeilingWrite .. | .clockChange ..
  | .fastSet | .fastClear | .throtSet .. | .thermalTrip .. | .moduleThermalTrip | .powerLoss | .coldBoot
  | .bootStageComplete .. | .recoveryBeginLoad .. | .recoveryData .. | .recoveryEndLoad .. | .debugModuleRequest ..
  | .deniedWindowRead .. | .ideKm .. => true

end Sys2Proof
end

