-- ==== Sys2Proof/Decode.lean ====
section
/-!
DEFINITION. Encoding and decoding of instruction words, matrix command words and the Xvexrus words (R78 to R94,
R202, and the encoding tables of the instruction chapters).

`encode` gives the words of an instruction. `decodeThread`, `decodeMatrix` and `decodeXvexrus` read them: the
opcode selects the form, the fields are taken out once, and the word is accepted when it is exactly the encoding of
the instruction read and that instruction is well formed. A word with a bit set in an unused field, a reserved code
or a reserved combination therefore is refused (R78, R80, R82).
-/

namespace Sys2Proof

/-! ## Codes of the shared subfields -/

/-- Code of `ITy`. -/
def ITy.bits : ITy → BitVec 3
  | .n32 => 0
  | .i32 => 1
  | .n64 => 2
  | .i64 => 3
  | .n16 => 4
  | .i16 => 5
  | .n8 => 6
  | .i8 => 7

/-- `ITy` of a code; a reserved code reads as the first value and `encode` then differs from the word. -/
def ITy.ofBits (b : BitVec 3) : ITy :=
  match b.toNat with
  | 0 => .n32
  | 1 => .i32
  | 2 => .n64
  | 3 => .i64
  | 4 => .n16
  | 5 => .i16
  | 6 => .n8
  | 7 => .i8
  | _ => .n32

/-- Code of `FTy`. -/
def FTy.bits : FTy → BitVec 3
  | .f32 => 0
  | .f16 => 1
  | .bf16 => 2
  | .e4m3 => 3
  | .e5m2 => 4
  | .e2m1x => 5

/-- `FTy` of a code; a reserved code reads as the first value and `encode` then differs from the word. -/
def FTy.ofBits (b : BitVec 3) : FTy :=
  match b.toNat with
  | 0 => .f32
  | 1 => .f16
  | 2 => .bf16
  | 3 => .e4m3
  | 4 => .e5m2
  | 5 => .e2m1x
  | _ => .f32

/-- Code of `RMode`. -/
def RMode.bits : RMode → BitVec 2
  | .rn => 0
  | .rz => 1
  | .rm => 2
  | .rp => 3

/-- `RMode` of a code; a reserved code reads as the first value and `encode` then differs from the word. -/
def RMode.ofBits (b : BitVec 2) : RMode :=
  match b.toNat with
  | 0 => .rn
  | 1 => .rz
  | 2 => .rm
  | 3 => .rp
  | _ => .rn

/-- Code of `Cmp`. -/
def Cmp.bits : Cmp → BitVec 4
  | .eq => 0
  | .ne => 1
  | .lt => 2
  | .le => 3
  | .gt => 4
  | .ge => 5
  | .num => 6
  | .equ => 8
  | .neu => 9
  | .ltu => 10
  | .leu => 11
  | .gtu => 12
  | .geu => 13
  | .nan => 14

/-- `Cmp` of a code; a reserved code reads as the first value and `encode` then differs from the word. -/
def Cmp.ofBits (b : BitVec 4) : Cmp :=
  match b.toNat with
  | 0 => .eq
  | 1 => .ne
  | 2 => .lt
  | 3 => .le
  | 4 => .gt
  | 5 => .ge
  | 6 => .num
  | 8 => .equ
  | 9 => .neu
  | 10 => .ltu
  | 11 => .leu
  | 12 => .gtu
  | 13 => .geu
  | 14 => .nan
  | _ => .eq

/-- Code of `Space`. -/
def Space.bits : Space → BitVec 3
  | .priv => 0
  | .scr => 1
  | .cmn => 2
  | .glb => 3
  | .hst => 4
  | .ios => 5

/-- `Space` of a code; a reserved code reads as the first value and `encode` then differs from the word. -/
def Space.ofBits (b : BitVec 3) : Space :=
  match b.toNat with
  | 0 => .priv
  | 1 => .scr
  | 2 => .cmn
  | 3 => .glb
  | 4 => .hst
  | 5 => .ios
  | _ => .priv

/-- Code of `Scope`. -/
def Scope.bits : Scope → BitVec 3
  | .grp => 0
  | .team => 1
  | .gang => 2
  | .die => 3
  | .dev => 4
  | .sys => 5

/-- `Scope` of a code; a reserved code reads as the first value and `encode` then differs from the word. -/
def Scope.ofBits (b : BitVec 3) : Scope :=
  match b.toNat with
  | 0 => .grp
  | 1 => .team
  | 2 => .gang
  | 3 => .die
  | 4 => .dev
  | 5 => .sys
  | _ => .grp

/-- Code of `Ord`. -/
def Ord.bits : Ord → BitVec 2
  | .plain => 0
  | .rlx => 1
  | .acq => 2
  | .rel => 3

/-- `Ord` of a code; a reserved code reads as the first value and `encode` then differs from the word. -/
def Ord.ofBits (b : BitVec 2) : Ord :=
  match b.toNat with
  | 0 => .plain
  | 1 => .rlx
  | 2 => .acq
  | 3 => .rel
  | _ => .plain

/-- Code of `Wid`. -/
def Wid.bits : Wid → BitVec 3
  | .w1 => 0
  | .w2 => 1
  | .w4 => 2
  | .w8 => 3
  | .w16 => 4

/-- `Wid` of a code; a reserved code reads as the first value and `encode` then differs from the word. -/
def Wid.ofBits (b : BitVec 3) : Wid :=
  match b.toNat with
  | 0 => .w1
  | 1 => .w2
  | 2 => .w4
  | 3 => .w8
  | 4 => .w16
  | _ => .w1

/-- Code of `Ty`. -/
def Ty.bits : Ty → BitVec 2
  | .unsigned => 0
  | .signed => 1
  | .ieee => 2
  | .bf => 3

/-- `Ty` of a code; a reserved code reads as the first value and `encode` then differs from the word. -/
def Ty.ofBits (b : BitVec 2) : Ty :=
  match b.toNat with
  | 0 => .unsigned
  | 1 => .signed
  | 2 => .ieee
  | 3 => .bf
  | _ => .unsigned

/-- Code of `HW`. -/
def HW.bits : HW → BitVec 2
  | .lo => 0
  | .hi => 1
  | .wide => 2

/-- `HW` of a code; a reserved code reads as the first value and `encode` then differs from the word. -/
def HW.ofBits (b : BitVec 2) : HW :=
  match b.toNat with
  | 0 => .lo
  | 1 => .hi
  | 2 => .wide
  | _ => .lo

/-- Code of `BOp`. -/
def BOp.bits : BOp → BitVec 2
  | .and => 0
  | .or => 1
  | .xor => 2

/-- `BOp` of a code; a reserved code reads as the first value and `encode` then differs from the word. -/
def BOp.ofBits (b : BitVec 2) : BOp :=
  match b.toNat with
  | 0 => .and
  | 1 => .or
  | 2 => .xor
  | _ => .and

/-- Code of `AOp`. -/
def AOp.bits : AOp → BitVec 5
  | .add => 0
  | .min => 1
  | .max => 2
  | .and => 3
  | .or => 4
  | .xor => 5
  | .exch => 6
  | .cas => 7
  | .inc => 8
  | .dec => 9
  | .amax => 10

/-- `AOp` of a code; a reserved code reads as the first value and `encode` then differs from the word. -/
def AOp.ofBits (b : BitVec 5) : AOp :=
  match b.toNat with
  | 0 => .add
  | 1 => .min
  | 2 => .max
  | 3 => .and
  | 4 => .or
  | 5 => .xor
  | 6 => .exch
  | 7 => .cas
  | 8 => .inc
  | 9 => .dec
  | 10 => .amax
  | _ => .add

/-- Code of `ATy`. -/
def ATy.bits : ATy → BitVec 3
  | .n32 => 0
  | .i32 => 1
  | .n64 => 2
  | .i64 => 3
  | .f32 => 4
  | .f16x2 => 5
  | .bf16x2 => 6

/-- `ATy` of a code; a reserved code reads as the first value and `encode` then differs from the word. -/
def ATy.ofBits (b : BitVec 3) : ATy :=
  match b.toNat with
  | 0 => .n32
  | 1 => .i32
  | 2 => .n64
  | 3 => .i64
  | 4 => .f32
  | 5 => .f16x2
  | 6 => .bf16x2
  | _ => .n32

/-- Code of `AOrd`. -/
def AOrd.bits : AOrd → BitVec 3
  | .rlx => 1
  | .acq => 2
  | .rel => 3
  | .ar => 4

/-- `AOrd` of a code; a reserved code reads as the first value and `encode` then differs from the word. -/
def AOrd.ofBits (b : BitVec 3) : AOrd :=
  match b.toNat with
  | 1 => .rlx
  | 2 => .acq
  | 3 => .rel
  | 4 => .ar
  | _ => .rlx

/-- Code of `FenceKind`. -/
def FenceKind.bits : FenceKind → BitVec 2
  | .acq => 1
  | .rel => 2
  | .full => 3

/-- `FenceKind` of a code; a reserved code reads as the first value and `encode` then differs from the word. -/
def FenceKind.ofBits (b : BitVec 2) : FenceKind :=
  match b.toNat with
  | 1 => .acq
  | 2 => .rel
  | 3 => .full
  | _ => .acq

/-- Code of `ROp`. -/
def ROp.bits : ROp → BitVec 3
  | .add => 0
  | .min => 1
  | .max => 2
  | .and => 3
  | .or => 4
  | .xor => 5
  | .xadd => 6

/-- `ROp` of a code; a reserved code reads as the first value and `encode` then differs from the word. -/
def ROp.ofBits (b : BitVec 3) : ROp :=
  match b.toNat with
  | 0 => .add
  | 1 => .min
  | 2 => .max
  | 3 => .and
  | 4 => .or
  | 5 => .xor
  | 6 => .xadd
  | _ => .add

/-- Code of `MatchMode`. -/
def MatchMode.bits : MatchMode → BitVec 2
  | .peers => 0
  | .uniform => 1
  | .leader => 2

/-- `MatchMode` of a code; a reserved code reads as the first value and `encode` then differs from the word. -/
def MatchMode.ofBits (b : BitVec 2) : MatchMode :=
  match b.toNat with
  | 0 => .peers
  | 1 => .uniform
  | 2 => .leader
  | _ => .peers

/-- Code of `MKind`. -/
def MKind.bits : MKind → BitVec 2
  | .f32 => 0
  | .i32 => 1
  | .res => 2

/-- `MKind` of a code; a reserved code reads as the first value and `encode` then differs from the word. -/
def MKind.ofBits (b : BitVec 2) : MKind :=
  match b.toNat with
  | 0 => .f32
  | 1 => .i32
  | 2 => .res
  | _ => .f32

/-- Code of `ECode`. -/
def ECode.bits : ECode → BitVec 4
  | .f32 => 0
  | .e4m3 => 1
  | .e5m2 => 2
  | .e2m1x => 3
  | .f16 => 4
  | .bf16 => 5
  | .i8 => 6
  | .i32 => 7
  | .n64 => 8
  | .bp2 => 9
  | .bp3 => 10
  | .bp4 => 11
  | .bp5 => 12
  | .bp6 => 13
  | .bp7 => 14
  | .bp8 => 15

/-- `ECode` of a code; a reserved code reads as the first value and `encode` then differs from the word. -/
def ECode.ofBits (b : BitVec 4) : ECode :=
  match b.toNat with
  | 0 => .f32
  | 1 => .e4m3
  | 2 => .e5m2
  | 3 => .e2m1x
  | 4 => .f16
  | 5 => .bf16
  | 6 => .i8
  | 7 => .i32
  | 8 => .n64
  | 9 => .bp2
  | 10 => .bp3
  | 11 => .bp4
  | 12 => .bp5
  | 13 => .bp6
  | 14 => .bp7
  | 15 => .bp8
  | _ => .f32

/-- A type code of `cvt` (R136). -/
def CTy.bits : CTy → BitVec 4
  | .int t => 0#1 ++ t.bits
  | .flt t => 1#1 ++ t.bits

/-- The type of a code of `cvt`. -/
def CTy.ofBits (b : BitVec 4) : CTy :=
  if b.getLsbD 3 then .flt (FTy.ofBits (b.extractLsb' 0 3)) else .int (ITy.ofBits (b.extractLsb' 0 3))

/-- One bit. -/
abbrev bit (b : Bool) : BitVec 1 := BitVec.ofBool b

/-- The floating arithmetic MOD of Table 5.3. -/
def fmodBits (t : FTy) (m : FMod) : BitVec 7 := t.bits ++ m.rm.bits ++ bit m.ftz ++ bit m.sat

/-- The integer MOD of Table 5.3: ITY above four bits of the instruction's own. -/
def imod (t : ITy) (low : BitVec 4) : BitVec 7 := t.bits ++ low

/-- A predicate in a register field: bits [9:6] zero (R88). -/
def predField (p : PredIx) : BitVec 10 := 0#4 ++ p

/-! ## The five layouts -/

/-- Tables 4.5: register format and format L. -/
def wordR (op : Byte) (g : Guard) (d a b c : BitVec 10) (mod : BitVec 7) (ss : Bool) : DWord :=
  0#1 ++ op ++ g.p ++ bit g.neg ++ d ++ a ++ b ++ c ++ mod ++ bit ss

/-- Table 4.6: format I; every instruction of this format is short, so SS is 0. -/
def wordI (op : Byte) (g : Guard) (d a : BitVec 10) (imm : BitVec 20) (mod : BitVec 7) : DWord :=
  0#1 ++ op ++ g.p ++ bit g.neg ++ d ++ a ++ imm ++ mod ++ 0#1

/-- Table 4.7: format M. -/
def wordM (op : Byte) (g : Guard) (m : MemOp) : DWord :=
  0#1 ++ op ++ g.p ++ bit g.neg ++ m.d ++ m.a ++ m.off ++ m.scope.bits ++ m.ord.bits ++ m.wid.bits ++ m.ty.bits ++
    bit m.raw ++ bit m.ss

/-- Table 4.8: format Y; both instructions are short. -/
def wordY (op : Byte) (g : Guard) (x : CopyOp) (ymod : BitVec 8) : DWord :=
  0#1 ++ op ++ g.p ++ bit g.neg ++ x.da ++ x.sa ++ x.ba ++ x.wid.bits ++ x.dspc.bits ++ x.sspc.bits ++ ymod ++ 0#1

/-- Table 4.9: format X. -/
def wordX (mop : BitVec 6) (mt : BitVec 4) (gran : BitVec 3) (opnd : BitVec 49) (xw : Bool) : DWord :=
  0#1 ++ mop ++ mt ++ gran ++ opnd ++ bit xw

/-- Table 8.2: the literal word of an atomic or reduction. -/
def atomLit (x : AtomOp) : DWord :=
  0#16 ++ x.off ++ x.scope.bits ++ x.ord.bits ++ x.aop.bits ++ x.aty.bits ++ 0#18

/-- The word of an atomic or reduction (R162). -/
def wordAtom (op : Byte) (g : Guard) (x : AtomOp) : DWord := wordR op g x.d x.a x.b x.c 0 x.ss

/-- An AMX window access as format M (R166). -/
def amxMem (x : AmxOp) : MemOp :=
  { d := x.d, a := x.a, off := x.off, scope := x.scope, ord := x.ord, wid := .w4, ty := .ieee, raw := false, ss := x.ss }

/-- A prefetch as format M (R161). -/
def prefMem (llc : Bool) (a : Reg) (off : BitVec 16) : MemOp :=
  { d := 0, a := a, off := off, scope := .grp, ord := .plain, wid := .w1, ty := if llc then .signed else .unsigned,
    raw := false, ss := false }

/-- The words of one instruction. -/
inductive Words where
  /-- a thread instruction word, with its literal word in format L -/
  | thread (w : DWord) (lit : Option DWord)
  /-- a matrix command word, with its extension word when XW is 1 -/
  | matrix (w : DWord) (ext : Option DWord)
  /-- a 32-bit word of a service core -/
  | rv (w : Word)
  /-- a step of the device: it has no encoding -/
  | noWord
  deriving DecidableEq, Repr

/-- GK of a generation operand (Table 9.1). -/
def genConst : Gen → Bool
  | .reg _ => false
  | .const _ => true

/-- Field B of a generation operand (Table 9.1). -/
def genField : Gen → BitVec 10
  | .reg b => b
  | .const g => g

/-- The words of an instruction, from the encoding tables of the instruction chapters. -/
def encode : Instr → Words
  | .nop g => .thread (wordR 0x01 g 0 0 0 0 0 false) none
  | .bra g imm => .thread (wordI 0x02 g 0 0 imm 0) none
  | .brx g a => .thread (wordR 0x03 g 0 a 0 0 0 false) none
  | .callI g d imm => .thread (wordI 0x04 g d 0 imm 0) none
  | .callR g d a => .thread (wordR 0x05 g d a 0 0 0 false) none
  | .ret g d => .thread (wordR 0x06 g d 0 0 0 0 false) none
  | .exit g => .thread (wordR 0x07 g 0 0 0 0 0 false) none
  | .yield g => .thread (wordR 0x08 g 0 0 0 0 0 false) none
  | .sleep g n => .thread (wordI 0x09 g 0 0 n 0) none
  | .waitf g mask => .thread (wordI 0x0A g 0 0 (0#8 ++ mask) 0) none
  | .trap g n => .thread (wordI 0x0B g 0 0 (0#4 ++ n) 0) none
  | .rte g kill => .thread (wordR 0x0C g 0 0 0 0 (0#6 ++ bit kill) false) none
  | .bkpt g n => .thread (wordI 0x0D g 0 0 (0#4 ++ n) 0) none
  | .svc g p n => .thread (wordI 0x0E g (predField p) 0 (0#4 ++ n) 0) none
  | .iaddR g ty sat d a b => .thread (wordR 0x10 g d a b 0 (imod ty (0#3 ++ bit sat)) false) none
  | .iaddc g w64 d a b p => .thread (wordR 0x11 g d a b (predField p) (0#1 ++ bit w64 ++ 0#5) false) none
  | .isubR g ty sat d a b => .thread (wordR 0x12 g d a b 0 (imod ty (0#3 ++ bit sat)) false) none
  | .isubc g w64 d a b p => .thread (wordR 0x13 g d a b (predField p) (0#1 ++ bit w64 ++ 0#5) false) none
  | .imulR g ty hw d a b => .thread (wordR 0x14 g d a b 0 (imod ty (hw.bits ++ 0#2)) false) none
  | .imadR g ty hw d a b c => .thread (wordR 0x15 g d a b c (imod ty (hw.bits ++ 0#2)) false) none
  | .iminR g ty d a b => .thread (wordR 0x16 g d a b 0 (imod ty 0) false) none
  | .imaxR g ty d a b => .thread (wordR 0x17 g d a b 0 (imod ty 0) false) none
  | .iabs g ty sat d a => .thread (wordR 0x18 g d a 0 0 (imod ty (0#3 ++ bit sat)) false) none
  | .ineg g ty sat d a => .thread (wordR 0x19 g d a 0 0 (imod ty (0#3 ++ bit sat)) false) none
  | .dot4R g sgn sa sb sat d a b c => .thread (wordR 0x1A g d a b c (0#2 ++ bit sgn ++ bit sa ++ bit sb ++ 0#1 ++ bit sat) false) none
  | .dot2 g sgn sa sb hi sat d a b c => .thread (wordR 0x1B g d a b c (0#2 ++ bit sgn ++ bit sa ++ bit sb ++ bit hi ++ bit sat) false) none
  | .popc g ty d a => .thread (wordR 0x1C g d a 0 0 (imod ty 0) false) none
  | .clz g ty d a => .thread (wordR 0x1D g d a 0 0 (imod ty 0) false) none
  | .brev g ty d a => .thread (wordR 0x1E g d a 0 0 (imod ty 0) false) none
  | .not g ty d a => .thread (wordR 0x23 g d a 0 0 (imod ty 0) false) none
  | .mov g ty d a => .thread (wordR 0x2C g d a 0 0 (imod ty 0) false) none
  | .andR g ty d a b => .thread (wordR 0x20 g d a b 0 (imod ty 0) false) none
  | .orR g ty d a b => .thread (wordR 0x21 g d a b 0 (imod ty 0) false) none
  | .xorR g ty d a b => .thread (wordR 0x22 g d a b 0 (imod ty 0) false) none
  | .shlR g ty d a b => .thread (wordR 0x26 g d a b 0 (imod ty 0) false) none
  | .shrR g ty d a b => .thread (wordR 0x27 g d a b 0 (imod ty 0) false) none
  | .bfxR g ty d a b => .thread (wordR 0x29 g d a b 0 (imod ty 0) false) none
  | .lop3Lo g tt d a b c => .thread (wordR 0x24 g d a b c tt false) none
  | .lop3Hi g tt d a b c => .thread (wordR 0x25 g d a b c tt false) none
  | .shf g left d a b c => .thread (wordR 0x28 g d a b c (0#4 ++ bit left ++ 0#2) false) none
  | .bfiR g ty d a b c => .thread (wordR 0x2A g d a b c (imod ty 0) false) none
  | .selR g p w64 d a b => .thread (wordR 0x2B g d a b 0 (p ++ bit w64) false) none
  | .lea g sgn sh d a b => .thread (wordR 0x2D g d a b 0 (0#2 ++ bit sgn ++ sh) false) none
  | .sbind g (.bind k ew8 d a) => .thread (wordR 0x2E g d a 0 0 (0#3 ++ bit ew8 ++ k) false) none
  | .sbind g (.off k) => .thread (wordR 0x2E g 0 0 0 0 (0#2 ++ 1#1 ++ 0#1 ++ k) false) none
  | .iaddI g ty sat d a imm => .thread (wordI 0x30 g d a imm (imod ty (0#3 ++ bit sat))) none
  | .isubI g ty sat d a imm => .thread (wordI 0x31 g d a imm (imod ty (0#3 ++ bit sat))) none
  | .imulI g ty hw d a imm => .thread (wordI 0x32 g d a imm (imod ty (hw.bits ++ 0#2))) none
  | .iminI g ty d a imm => .thread (wordI 0x33 g d a imm (imod ty 0)) none
  | .imaxI g ty d a imm => .thread (wordI 0x34 g d a imm (imod ty 0)) none
  | .andI g ty d a imm => .thread (wordI 0x35 g d a imm (imod ty 0)) none
  | .orI g ty d a imm => .thread (wordI 0x36 g d a imm (imod ty 0)) none
  | .xorI g ty d a imm => .thread (wordI 0x37 g d a imm (imod ty 0)) none
  | .shlI g ty d a imm => .thread (wordI 0x38 g d a imm (imod ty 0)) none
  | .shrI g ty d a imm => .thread (wordI 0x39 g d a imm (imod ty 0)) none
  | .bfxI g ty d a ctl => .thread (wordI 0x3A g d a (0#4 ++ ctl) (imod ty 0)) none
  | .bfiI g ty d a ctl => .thread (wordI 0x3B g d a (0#4 ++ ctl) (imod ty 0)) none
  | .isetI g ty cmp p a imm => .thread (wordI 0x3C g (predField p) a imm (imod ty cmp.bits)) none
  | .selI g p w64 d a imm => .thread (wordI 0x3D g d a imm (p ++ bit w64)) none
  | .movi g w64 d imm => .thread (wordI 0x3E g d 0 imm (0#6 ++ bit w64)) none
  | .isetR g ty cmp p a b => .thread (wordR 0x40 g (predField p) a b 0 (imod ty cmp.bits) false) none
  | .pset g op na nb d a b => .thread (wordR 0x41 g (predField d) (predField a) (predField b) 0 (0#3 ++ bit nb ++ bit na ++ op.bits) false) none
  | .pmov g (.copy d a na) => .thread (wordR 0x42 g (predField d) (predField a) 0 0 (0#4 ++ bit na ++ 0#2) false) none
  | .pmov g (.save d) => .thread (wordR 0x42 g d 0 0 0 1 false) none
  | .pmov g (.load a) => .thread (wordR 0x42 g 0 a 0 0 2 false) none
  | .lit g w32 d v => .thread (wordR 0x43 g d 0 0 0 (0#6 ++ bit w32) false) (some v)
  | .iaddL g ty sat d a v => .thread (wordR 0x44 g d a 0 0 (imod ty (0#3 ++ bit sat)) false) (some v)
  | .isubL g ty sat d a v => .thread (wordR 0x45 g d a 0 0 (imod ty (0#3 ++ bit sat)) false) (some v)
  | .imulL g ty hw d a v => .thread (wordR 0x46 g d a 0 0 (imod ty (hw.bits ++ 0#2)) false) (some v)
  | .imadL g ty hw d a c v => .thread (wordR 0x47 g d a 0 c (imod ty (hw.bits ++ 0#2)) false) (some v)
  | .iminL g ty d a v => .thread (wordR 0x48 g d a 0 0 (imod ty 0) false) (some v)
  | .imaxL g ty d a v => .thread (wordR 0x49 g d a 0 0 (imod ty 0) false) (some v)
  | .andL g ty d a v => .thread (wordR 0x4A g d a 0 0 (imod ty 0) false) (some v)
  | .orL g ty d a v => .thread (wordR 0x4B g d a 0 0 (imod ty 0) false) (some v)
  | .xorL g ty d a v => .thread (wordR 0x4C g d a 0 0 (imod ty 0) false) (some v)
  | .isetL g ty cmp p a v => .thread (wordR 0x4D g (predField p) a 0 0 (imod ty cmp.bits) false) (some v)
  | .selL g p w64 d a v => .thread (wordR 0x4E g d a 0 0 (p ++ bit w64) false) (some v)
  | .dot4L g sgn sa sb sat d a c v => .thread (wordR 0x4F g d a 0 c (0#2 ++ bit sgn ++ bit sa ++ bit sb ++ 0#1 ++ bit sat) false) (some v)
  | .maddmR g d a b c => .thread (wordR 0x50 g d a b c 0 false) none
  | .msubmR g d a b c => .thread (wordR 0x51 g d a b c 0 false) none
  | .mmulmR g d a b c => .thread (wordR 0x52 g d a b c 0 false) none
  | .mmacmR g d a b c => .thread (wordR 0x53 g d a b c 0 false) none
  | .mredR g wide d a c => .thread (wordR 0x54 g d a 0 c (0#6 ++ bit wide) false) none
  | .bflyR g gs d a b c => .thread (wordR 0x55 g d a b c (0#6 ++ bit gs) false) none
  | .maddmL g d a b q => .thread (wordR 0x56 g d a b 0 0 false) (some q)
  | .msubmL g d a b q => .thread (wordR 0x57 g d a b 0 0 false) (some q)
  | .mmulmL g d a b q => .thread (wordR 0x58 g d a b 0 0 false) (some q)
  | .mmacmL g d a b q => .thread (wordR 0x59 g d a b 0 0 false) (some q)
  | .mredL g wide d a q => .thread (wordR 0x5A g d a 0 0 (0#6 ++ bit wide) false) (some q)
  | .bflyL g gs d a b q => .thread (wordR 0x5B g d a b 0 (0#6 ++ bit gs) false) (some q)
  | .elect g rot p => .thread (wordR 0x5C g (predField p) 0 0 0 (0#6 ++ bit rot) false) none
  | .ldg g m => .thread (wordM 0x60 g m) none
  | .stg g m => .thread (wordM 0x61 g m) none
  | .ldp g m => .thread (wordM 0x62 g m) none
  | .stp g m => .thread (wordM 0x63 g m) none
  | .lds g m => .thread (wordM 0x64 g m) none
  | .sts g m => .thread (wordM 0x65 g m) none
  | .ldc g m => .thread (wordM 0x66 g m) none
  | .stc g m => .thread (wordM 0x67 g m) none
  | .ldh g m => .thread (wordM 0x68 g m) none
  | .sth g m => .thread (wordM 0x69 g m) none
  | .ldio g m => .thread (wordM 0x6A g m) none
  | .stio g m => .thread (wordM 0x6B g m) none
  | .prefGlb g llc a off => .thread (wordM 0x6C g (prefMem llc a off)) none
  | .prefHst g llc a off => .thread (wordM 0x6D g (prefMem llc a off)) none
  | .fence g kind scope spc => .thread (wordI 0x6E g 0 0 (0#11 ++ kind.bits ++ scope.bits ++ spc) 0) none
  | .ats g x => .thread (wordAtom 0x70 g x) (some (atomLit x))
  | .atc g x => .thread (wordAtom 0x71 g x) (some (atomLit x))
  | .atg g x => .thread (wordAtom 0x72 g x) (some (atomLit x))
  | .redc g x => .thread (wordAtom 0x73 g x) (some (atomLit x))
  | .redg g x => .thread (wordAtom 0x74 g x) (some (atomLit x))
  | .amxsCmn g x => .thread (wordM 0x75 g (amxMem x)) none
  | .amxsGlb g x => .thread (wordM 0x76 g (amxMem x)) none
  | .faddR g t m d a b => .thread (wordR 0x80 g d a b 0 (fmodBits t m) false) none
  | .fsubR g t m d a b => .thread (wordR 0x81 g d a b 0 (fmodBits t m) false) none
  | .fmulR g t m d a b => .thread (wordR 0x82 g d a b 0 (fmodBits t m) false) none
  | .ffmaR g t m d a b c => .thread (wordR 0x83 g d a b c (fmodBits t m) false) none
  | .fminR g t ftz d a b => .thread (wordR 0x84 g d a b 0 (t.bits ++ 0#2 ++ bit ftz ++ 0#1) false) none
  | .fmaxR g t ftz d a b => .thread (wordR 0x85 g d a b 0 (t.bits ++ 0#2 ++ bit ftz ++ 0#1) false) none
  | .fsetR g t cmp p a b => .thread (wordR 0x86 g (predField p) a b 0 (t.bits ++ cmp.bits) false) none
  | .fclass g t d a => .thread (wordR 0x87 g d a 0 0 (t.bits ++ 0#4) false) none
  | .frcp g t m d a => .thread (wordR 0x88 g d a 0 0 (fmodBits t m) false) none
  | .frsq g t m d a => .thread (wordR 0x89 g d a 0 0 (fmodBits t m) false) none
  | .fsqrt g t m d a => .thread (wordR 0x8A g d a 0 0 (fmodBits t m) false) none
  | .fex2 g t m d a => .thread (wordR 0x8B g d a 0 0 (fmodBits t m) false) none
  | .flg2 g t m d a => .thread (wordR 0x8C g d a 0 0 (fmodBits t m) false) none
  | .fsin g t m d a => .thread (wordR 0x8D g d a 0 0 (fmodBits t m) false) none
  | .fcos g t m d a => .thread (wordR 0x8E g d a 0 0 (fmodBits t m) false) none
  | .ftanh g t m d a => .thread (wordR 0x8F g d a 0 0 (fmodBits t m) false) none
  | .faddI g m d a imm => .thread (wordI 0x90 g d a imm (fmodBits .f32 m)) none
  | .fmulI g m d a imm => .thread (wordI 0x91 g d a imm (fmodBits .f32 m)) none
  | .fminI g ftz d a imm => .thread (wordI 0x92 g d a imm (0#5 ++ bit ftz ++ 0#1)) none
  | .fmaxI g ftz d a imm => .thread (wordI 0x93 g d a imm (0#5 ++ bit ftz ++ 0#1)) none
  | .fsetI g cmp p a imm => .thread (wordI 0x94 g (predField p) a imm (0#3 ++ cmp.bits)) none
  | .faddL g t m d a v => .thread (wordR 0x95 g d a 0 0 (fmodBits t m) false) (some v)
  | .fsubL g t m d a v => .thread (wordR 0x96 g d a 0 0 (fmodBits t m) false) (some v)
  | .fmulL g t m d a v => .thread (wordR 0x97 g d a 0 0 (fmodBits t m) false) (some v)
  | .ffmaL g t m d a c v => .thread (wordR 0x98 g d a 0 c (fmodBits t m) false) (some v)
  | .fminL g t ftz d a v => .thread (wordR 0x99 g d a 0 0 (t.bits ++ 0#2 ++ bit ftz ++ 0#1) false) (some v)
  | .fmaxL g t ftz d a v => .thread (wordR 0x9A g d a 0 0 (t.bits ++ 0#2 ++ bit ftz ++ 0#1) false) (some v)
  | .fsetL g t cmp p a v => .thread (wordR 0x9B g (predField p) a 0 0 (t.bits ++ cmp.bits) false) (some v)
  | .hfma2R g t m d a b c => .thread (wordR 0x9C g d a b c (fmodBits t m) false) none
  | .hadd2 g t m d a b => .thread (wordR 0x9D g d a b 0 (fmodBits t m) false) none
  | .hmul2 g t m d a b => .thread (wordR 0x9E g d a b 0 (fmodBits t m) false) none
  | .hfma2L g t m d a c v => .thread (wordR 0x9F g d a 0 c (fmodBits t m) false) (some v)
  | .cvt g dt st m d a => .thread (wordR 0xA0 g d a (dt.bits ++ st.bits ++ 0#2) 0 (0#3 ++ m.rm.bits ++ bit m.ftz ++ bit m.sat) false) none
  | .pack g t m k d a b => .thread (wordR 0xA1 g d a b (0#8 ++ k) (fmodBits t m) false) none
  | .unpack g t ftz k d a => .thread (wordR 0xA2 g d a 0 (0#8 ++ k) (t.bits ++ 0#2 ++ bit ftz ++ 0#1) false) none
  | .bscale g (.apply m d a b) => .thread (wordR 0xA3 g d a b 0 (fmodBits .f32 m) false) none
  | .bscale g (.derive t d a) => .thread (wordR 0xA3 g d a 0 0 (t.bits ++ 0#4) false) none
  | .shflIdxR g p d a b f => .thread (wordR 0xA4 g d a b f (0#1 ++ p) false) none
  | .shflUpR g p d a b f => .thread (wordR 0xA5 g d a b f (0#1 ++ p) false) none
  | .shflDownR g p d a b f => .thread (wordR 0xA6 g d a b f (0#1 ++ p) false) none
  | .shflXorR g p d a b f => .thread (wordR 0xA7 g d a b f (0#1 ++ p) false) none
  | .shflIdxC g p d a n f => .thread (wordR 0xA8 g d a (predField n) f (0#1 ++ p) false) none
  | .shflUpC g p d a n f => .thread (wordR 0xA9 g d a (predField n) f (0#1 ++ p) false) none
  | .shflDownC g p d a n f => .thread (wordR 0xAA g d a (predField n) f (0#1 ++ p) false) none
  | .shflXorC g p d a n f => .thread (wordR 0xAB g d a (predField n) f (0#1 ++ p) false) none
  | .vote g (.every d) a na => .thread (wordR 0xAC g (predField d) (predField a) 0 0 (0#3 ++ bit na ++ 0#3) false) none
  | .vote g (.some d) a na => .thread (wordR 0xAC g (predField d) (predField a) 0 0 (0#3 ++ bit na ++ 1#3) false) none
  | .vote g (.same d) a na => .thread (wordR 0xAC g (predField d) (predField a) 0 0 (0#3 ++ bit na ++ 2#3) false) none
  | .vote g (.mask d) a na => .thread (wordR 0xAC g d (predField a) 0 0 (0#3 ++ bit na ++ 3#3) false) none
  | .vote g (.count d) a na => .thread (wordR 0xAC g d (predField a) 0 0 (0#3 ++ bit na ++ 4#3) false) none
  | .vote g (.first d) a na => .thread (wordR 0xAC g d (predField a) 0 0 (0#3 ++ bit na ++ 5#3) false) none
  | .redux g op (.int t) d a => .thread (wordR 0xAD g d a 0 0 (t.bits ++ op.bits ++ 0#1) false) none
  | .redux g op .f32 d a => .thread (wordR 0xAD g d a 0 0 (0#3 ++ op.bits ++ 1#1) false) none
  | .scan g op (.int t) d a => .thread (wordR 0xAE g d a 0 0 (t.bits ++ op.bits ++ 0#1) false) none
  | .scan g op .f32 d a => .thread (wordR 0xAE g d a 0 0 (0#3 ++ op.bits ++ 1#1) false) none
  | .matchv g m w64 d a => .thread (wordR 0xAF g d a 0 0 (0#4 ++ bit w64 ++ m.bits) false) none
  | .acopy g x nt raw => .thread (wordY 0xB0 g x (0#6 ++ bit raw ++ bit nt)) none
  | .kick g a b => .thread (wordR 0xB1 g 0 a b 0 0 false) none
  | .barinit g a n => .thread (wordI 0xB2 g 0 a (0#7 ++ n) 0) none
  | .barexpI g a n => .thread (wordI 0xB3 g 0 a n 0) none
  | .barexpR g a b => .thread (wordR 0xB4 g 0 a b 0 0 false) none
  | .bararr g grp a => .thread (wordR 0xB5 g 0 a 0 0 (0#6 ++ bit grp) false) none
  | .barwait g p a x => .thread (wordR 0xB6 g (predField p) a (genField x) 0 (0#6 ++ bit (genConst x)) false) none
  | .bartest g p a x rg c => .thread (wordR 0xB7 g (predField p) a (genField x) c (0#5 ++ bit rg ++ bit (genConst x)) false) none
  | .barinv g a => .thread (wordR 0xB8 g 0 a 0 0 0 false) none
  | .bararrMb g n => .thread (wordI 0xB9 g 0 0 (0#16 ++ n) 0) none
  | .barwaitMb g p n => .thread (wordI 0xBA g (predField p) 0 (0#16 ++ n) 0) none
  | .qpush g q all cred a => .thread (wordR 0xBB g 0 a 0 0 (0#2 ++ bit cred ++ bit all ++ q) false) none
  | .qpop g q all keep d => .thread (wordR 0xBC g d 0 0 0 (0#2 ++ bit keep ++ bit all ++ q) false) none
  | .qtry g q p (.push a) => .thread (wordR 0xBD g 0 a 0 (predField p) (0#1 ++ 1#1 ++ 0#2 ++ q) false) none
  | .qtry g q p (.pop d) => .thread (wordR 0xBD g d 0 0 (predField p) (0#4 ++ q) false) none
  | .tilest g (.tdef a b c) => .thread (wordR 0xC0 g 0 a b c 0 false) none
  | .tilest g (.ready a) => .thread (wordR 0xC0 g 0 a 0 0 1 false) none
  | .tilest g (.empty a) => .thread (wordR 0xC0 g 0 a 0 0 2 false) none
  | .tileq g d a => .thread (wordR 0xC1 g d a 0 0 0 false) none
  | .fewait g a b => .thread (wordR 0xC2 g 0 a b 0 0 false) none
  | .feclr g set a b => .thread (wordR 0xC3 g 0 a b 0 (0#6 ++ bit set) false) none
  | .tlwaitR g scope h a b => .thread (wordR 0xC4 g 0 a b 0 (0#3 ++ bit h ++ scope.bits) false) none
  | .tlwaitI g scope h a n => .thread (wordI 0xC5 g 0 a n (0#3 ++ bit h ++ scope.bits)) none
  | .tlread g scope acq iss h ss d a => .thread (wordR 0xC6 g d a 0 0 (bit h ++ bit iss ++ bit acq ++ bit (!acq) ++ scope.bits) ss) none
  | .ncopy g x sealed => .thread (wordY 0xC7 g x (0#7 ++ bit sealed)) none
  | .enq g p a b => .thread (wordR 0xC8 g (predField p) a b 0 0 false) none
  | .allocGlbR g d p b => .thread (wordR 0xC9 g d (predField p) b 0 0 false) none
  | .allocGlbI g d p n => .thread (wordI 0xCA g d (predField p) n 0) none
  | .allocCmnR g d p b => .thread (wordR 0xCB g d (predField p) b 0 0 false) none
  | .allocCmnI g d p n => .thread (wordI 0xCC g d (predField p) n 0) none
  | .freeGlb g a => .thread (wordR 0xCD g 0 a 0 0 0 false) none
  | .freeCmn g a => .thread (wordR 0xCE g 0 a 0 0 0 false) none
  | .migr g try_ p a => .thread (wordR 0xD0 g (predField p) a 0 0 (0#6 ++ bit try_) false) none
  | .contend g sync d p a cid => .thread (wordR 0xD1 g d a (0#2 ++ cid) (predField p) (0#6 ++ bit sync) false) none
  | .sysr g d n => .thread (wordI 0xD2 g d 0 (0#8 ++ n) 0) none
  | .sysw g a n => .thread (wordI 0xD3 g 0 a (0#8 ++ n) 0) none
  | .cntr g d e => .thread (wordI 0xD4 g d 0 (0#16 ++ e) 0) none
  | .unassignedOpcode g op => .thread (wordR op g 0 0 0 0 0 false) none
  | .mnop => .matrix (wordX 0x01 0 0 0 false) none
  | .mbwait n => .matrix (wordX 0x02 0 0 (0#45 ++ n) false) none
  | .mbsig n => .matrix (wordX 0x03 0 0 (0#45 ++ n) false) none
  | .mloop n => .matrix (wordX 0x04 0 0 (0#33 ++ n) false) none
  | .mend => .matrix (wordX 0x05 0 0 0 false) none
  | .pmark tm bm => .matrix (wordX 0x06 0 0 (0#29 ++ bm ++ tm) false) none
  | .mfence => .matrix (wordX 0x07 0 0 0 false) none
  | .msetq c0 cn q => .matrix (wordX 0x08 0 0 (0#36 ++ cn ++ c0) true) (some q)
  | .mfmt rm sat => .matrix (wordX 0x09 0 0 (0#46 ++ bit sat ++ rm.bits) false) none
  | .mzero kind mt => .matrix (wordX 0x10 mt 0 (0#47 ++ kind.bits) false) none
  | .mldb x => .matrix (wordX 0x11 0 0 (bit x.ix ++ x.pl ++ x.tile ++ bit x.tv ++ x.pitch ++ x.addr ++ x.ec.bits ++ x.bb) false) none
  | .mldu ud addr => .matrix (wordX 0x12 0 0 (0#30 ++ addr ++ ud) false) none
  | .mlda kind mt x => .matrix (wordX 0x13 mt 0 (0#8 ++ x.tile ++ bit x.tv ++ x.pitch ++ x.addr ++ kind.bits) false) none
  | .mst ec mt x => .matrix (wordX 0x14 mt 0 (0#6 ++ x.tile ++ bit x.tv ++ x.pitch ++ x.addr ++ ec.bits) false) none
  | .mcopy mt src => .matrix (wordX 0x15 mt 0 (0#45 ++ src) false) none
  | .mtrn mt src => .matrix (wordX 0x16 mt 0 (0#45 ++ src) false) none
  | .mcvt toI32 mt => .matrix (wordX 0x17 mt 0 (0#48 ++ bit toI32) false) none
  | .mma x af bf => .matrix (wordX 0x20 x.mt x.gran (0#3 ++ bit x.ix ++ x.k0 ++ x.p0 ++ bf.bits ++ af.bits ++ x.bb ++ x.ud) false) none
  | .mpma x af mid => .matrix (wordX 0x21 x.mt x.gran (0#6 ++ bit x.ix ++ bit mid ++ x.k0 ++ x.p0 ++ af.bits ++ x.bb ++ x.ud) false) none
  | .mmodma x => .matrix (wordX 0x22 x.mt x.gran (0#11 ++ bit x.ix ++ x.k0 ++ x.p0 ++ x.bb ++ x.ud) false) none
  | .mntt x => .matrix (wordX 0x23 0 x.gran (0#12 ++ x.j ++ x.tab ++ x.addr) false) none
  | .mintt x => .matrix (wordX 0x24 0 x.gran (0#12 ++ x.j ++ x.tab ++ x.addr) false) none
  | .mtadd mt src => .matrix (wordX 0x30 mt 0 (0#45 ++ src) false) none
  | .mhad mt src => .matrix (wordX 0x31 mt 0 (0#45 ++ src) false) none
  | .mscl mt v => .matrix (wordX 0x32 mt 0 0 true) (some v)
  | .mbias mt addr => .matrix (wordX 0x33 mt 0 (0#33 ++ addr) false) none
  | .mclamp mt lo hi => .matrix (wordX 0x34 mt 0 0 true) (some (hi ++ lo))
  | .mamax mt addr => .matrix (wordX 0x35 mt 0 (0#33 ++ addr) false) none
  | .unassignedMop mop => .matrix (wordX mop 0 0 0 false) none
  | .xspawn n rs2 rs1 rd => .rv (0#3 ++ n ++ rs2 ++ rs1 ++ 0#3 ++ rd ++ 0x0B#7)
  | .xdisp n rs2 rs1 rd => .rv (0#3 ++ n ++ rs2 ++ rs1 ++ 1#3 ++ rd ++ 0x0B#7)
  | .xjoin rs1 rd => .rv (0#7 ++ 0#5 ++ rs1 ++ 2#3 ++ rd ++ 0x0B#7)
  | .xwaitc rs2 rs1 rd => .rv (0#7 ++ rs2 ++ rs1 ++ 3#3 ++ rd ++ 0x0B#7)
  | .reservedCustom0 _ w => .rv w
  | .xdispTaskEnd .. | .enterHeader | .flagCompletion .. | .progressRuleRelease .. | .issueAgeLimit ..
  | .preemptWordLimit .. | .preemptSecondLimit .. | .sleepExpiry .. | .exitTakesEffect ..
  | .faultRecordWrite .. | .handlerEntry .. | .teamRetirement .. | .gridEndFlush .. | .transferLanding ..
  | .bankStoreEncode .. | .bankRmw .. | .requestAccept .. | .requestStatusWrite .. | .ncopyAccept ..
  | .ncopyFinish .. | .gangPlacement .. | .heatStart .. | .heatResult .. | .migrationResume ..
  | .migrPontoonRetry .. | .syntDiscipline .. | .rehomeWindowEnd | .rehomeComplete .. | .translationWalk ..
  | .frameBacking | .commandTake | .launchCommand .. | .waitCommand .. | .nopCommand .. | .commandAccept ..
  | .commandFinish .. | .qtailWrite .. | .queueEnable .. | .queueDisable .. | .qstatWrite .. | .cntselWrite ..
  | .dutyWrite .. | .pmaskWrite .. | .registerWrite .. | .denialClear .. | .mailboxDoorbell ..
  | .msgCommandTaken | .msgSeedGangReady | .msgGangPlaced | .msgTeamOrGangRetired | .msgCommandFinished
  | .msgErrorReport | .msgPageHome .. | .msgKeySlot .. | .msgClockPowerBudget .. | .msgCheckpointStep ..
  | .nak .. | .multikernelUpdate .. | .dutyReply .. | .dutyTimeout .. | .gangPreempt .. | .gangImageSealed ..
  | .gangRestore .. | .gangMove .. | .contextCreate .. | .contextDestroy .. | .resetDie ..
  | .dieResetComplete .. | .moduleReset .. | .debugLockClose .. | .getVersion .. | .getCapabilities ..
  | .negotiateAlgorithms .. | .getDigests .. | .getCertificate .. | .challenge .. | .getMeasurements ..
  | .keyExchange .. | .finish .. | .heartbeat .. | .keyUpdate .. | .endSession .. | .unsupportedRequest ..
  | .bind .. | .depart .. | .sealCode .. | .getNotice .. | .getCounts .. | .easyAll .. | .easyAllDrained ..
  | .easyAllTimeout .. | .partitionSelect .. | .partitionApply .. | .partitionRelease ..
  | .functionLevelReset .. | .checkpoint .. | .checkpointRestore .. | .checkpointVerify .. | .scrubFrame ..
  | .patrolRead .. | .linkRetry .. | .dieFatalError .. | .powerWindow .. | .clockCeilingWrite ..
  | .clockChange .. | .fastSet | .fastClear | .throtSet .. | .thermalTrip .. | .moduleThermalTrip | .powerLoss
  | .coldBoot | .bootStageComplete .. | .recoveryBeginLoad .. | .recoveryData .. | .recoveryEndLoad ..
  | .debugModuleRequest .. | .deniedWindowRead .. | .ideKm .. => .noWord

/-! ## Fields of a word -/

/-- Destination field, Table 4.5. -/
def fD (w : DWord) : BitVec 10 := w.extractLsb' 38 10
/-- First source field. -/
def fA (w : DWord) : BitVec 10 := w.extractLsb' 28 10
/-- Second source field. -/
def fB (w : DWord) : BitVec 10 := w.extractLsb' 18 10
/-- Third source field. -/
def fC (w : DWord) : BitVec 10 := w.extractLsb' 8 10
/-- Predicate in D. -/
def fPD (w : DWord) : PredIx := w.extractLsb' 38 6
/-- Predicate in A. -/
def fPA (w : DWord) : PredIx := w.extractLsb' 28 6
/-- Predicate in B. -/
def fPB (w : DWord) : PredIx := w.extractLsb' 18 6
/-- Predicate in C. -/
def fPC (w : DWord) : PredIx := w.extractLsb' 8 6
/-- IMM of format I, Table 4.6. -/
def fImm (w : DWord) : BitVec 20 := w.extractLsb' 8 20
/-- Word bit k. -/
def fBit (w : DWord) (k : Nat) : Bool := w.getLsbD k
/-- ITY of Table 5.3. -/
def fTy (w : DWord) : ITy := ITy.ofBits (w.extractLsb' 5 3)
/-- FTY of Table 5.3. -/
def fFty (w : DWord) : FTy := FTy.ofBits (w.extractLsb' 5 3)
/-- RM, FTZ and SAT of Table 5.3. -/
def fFm (w : DWord) : FMod := ⟨RMode.ofBits (w.extractLsb' 3 2), fBit w 2, fBit w 1⟩
/-- OFF of format M, Table 4.7. -/
def fOff (w : DWord) : BitVec 16 := w.extractLsb' 12 16
/-- OP. -/
def fOp (w : DWord) : Byte := w.extractLsb' 55 8
/-- PRED and PN. -/
def fGuard (w : DWord) : Guard := ⟨w.extractLsb' 49 6, fBit w 48⟩
/-- Operands of format M. -/
def fMem (w : DWord) : MemOp :=
  { d := fD w, a := fA w, off := fOff w, scope := Scope.ofBits (w.extractLsb' 9 3), ord := Ord.ofBits (w.extractLsb' 7 2),
    wid := Wid.ofBits (w.extractLsb' 4 3), ty := Ty.ofBits (w.extractLsb' 2 2), raw := fBit w 1, ss := fBit w 0 }
/-- Operands of an amax window access. -/
def fAmx (w : DWord) : AmxOp :=
  { d := fD w, a := fA w, off := fOff w, scope := Scope.ofBits (w.extractLsb' 9 3), ord := Ord.ofBits (w.extractLsb' 7 2),
    ss := fBit w 0 }
/-- Operands of format Y. -/
def fCopy (w : DWord) : CopyOp :=
  { da := fD w, sa := fA w, ba := fB w, wid := Wid.ofBits (w.extractLsb' 15 3), dspc := Space.ofBits (w.extractLsb' 12 3),
    sspc := Space.ofBits (w.extractLsb' 9 3) }
/-- Operands of an atomic, from its word and its literal (Table 8.2). -/
def fAtom (w lit : DWord) : AtomOp :=
  { d := fD w, a := fA w, b := fB w, c := fC w, off := lit.extractLsb' 32 16, scope := Scope.ofBits (lit.extractLsb' 29 3),
    ord := AOrd.ofBits (lit.extractLsb' 26 3), aop := AOp.ofBits (lit.extractLsb' 21 5),
    aty := ATy.ofBits (lit.extractLsb' 18 3), ss := fBit w 0 }
/-- Generation operand of `barwait` and `bartest`. -/
def fGen (w : DWord) : Gen := if fBit w 1 then .const (fB w) else .reg (fB w)

/-! ## Reading a word -/

/-- Format L of Table 5.1: the opcodes whose literal word follows (R59). -/
def opLong (op : Byte) : Bool :=
  let n := op.toNat
  (0x43 ≤ n && n ≤ 0x4F) || (0x56 ≤ n && n ≤ 0x5B) || (0x70 ≤ n && n ≤ 0x74) || (0x95 ≤ n && n ≤ 0x9B) || n == 0x9F

/-- Row 0 of Table 5.1. -/
def parseRow0 (g : Guard) (w : DWord) : Instr :=
  match (w.extractLsb' 55 4).toNat with
  | 1 => .nop g
  | 2 => .bra g (fImm w)
  | 3 => .brx g (fA w)
  | 4 => .callI g (fD w) (fImm w)
  | 5 => .callR g (fD w) (fA w)
  | 6 => .ret g (fD w)
  | 7 => .exit g
  | 8 => .yield g
  | 9 => .sleep g (fImm w)
  | 10 => .waitf g (w.extractLsb' 8 12)
  | 11 => .trap g (w.extractLsb' 8 16)
  | 12 => .rte g (fBit w 1)
  | 13 => .bkpt g (w.extractLsb' 8 16)
  | 14 => .svc g (fPD w) (w.extractLsb' 8 16)
  | _ => .unassignedOpcode g (fOp w)

/-- Row 1 of Table 5.1. -/
def parseRow1 (g : Guard) (w : DWord) : Instr :=
  match (w.extractLsb' 55 4).toNat with
  | 0 => .iaddR g (fTy w) (fBit w 1) (fD w) (fA w) (fB w)
  | 1 => .iaddc g (fBit w 6) (fD w) (fA w) (fB w) (fPC w)
  | 2 => .isubR g (fTy w) (fBit w 1) (fD w) (fA w) (fB w)
  | 3 => .isubc g (fBit w 6) (fD w) (fA w) (fB w) (fPC w)
  | 4 => .imulR g (fTy w) (HW.ofBits (w.extractLsb' 3 2)) (fD w) (fA w) (fB w)
  | 5 => .imadR g (fTy w) (HW.ofBits (w.extractLsb' 3 2)) (fD w) (fA w) (fB w) (fC w)
  | 6 => .iminR g (fTy w) (fD w) (fA w) (fB w)
  | 7 => .imaxR g (fTy w) (fD w) (fA w) (fB w)
  | 8 => .iabs g (fTy w) (fBit w 1) (fD w) (fA w)
  | 9 => .ineg g (fTy w) (fBit w 1) (fD w) (fA w)
  | 10 => .dot4R g (fBit w 5) (fBit w 4) (fBit w 3) (fBit w 1) (fD w) (fA w) (fB w) (fC w)
  | 11 => .dot2 g (fBit w 5) (fBit w 4) (fBit w 3) (fBit w 2) (fBit w 1) (fD w) (fA w) (fB w) (fC w)
  | 12 => .popc g (fTy w) (fD w) (fA w)
  | 13 => .clz g (fTy w) (fD w) (fA w)
  | 14 => .brev g (fTy w) (fD w) (fA w)
  | _ => .unassignedOpcode g (fOp w)

/-- Row 2 of Table 5.1. -/
def parseRow2 (g : Guard) (w : DWord) : Instr :=
  match (w.extractLsb' 55 4).toNat with
  | 0 => .andR g (fTy w) (fD w) (fA w) (fB w)
  | 1 => .orR g (fTy w) (fD w) (fA w) (fB w)
  | 2 => .xorR g (fTy w) (fD w) (fA w) (fB w)
  | 3 => .not g (fTy w) (fD w) (fA w)
  | 4 => .lop3Lo g (w.extractLsb' 1 7) (fD w) (fA w) (fB w) (fC w)
  | 5 => .lop3Hi g (w.extractLsb' 1 7) (fD w) (fA w) (fB w) (fC w)
  | 6 => .shlR g (fTy w) (fD w) (fA w) (fB w)
  | 7 => .shrR g (fTy w) (fD w) (fA w) (fB w)
  | 8 => .shf g (fBit w 3) (fD w) (fA w) (fB w) (fC w)
  | 9 => .bfxR g (fTy w) (fD w) (fA w) (fB w)
  | 10 => .bfiR g (fTy w) (fD w) (fA w) (fB w) (fC w)
  | 11 => .selR g (w.extractLsb' 2 6) (fBit w 1) (fD w) (fA w) (fB w)
  | 12 => .mov g (fTy w) (fD w) (fA w)
  | 13 => .lea g (fBit w 5) (w.extractLsb' 1 4) (fD w) (fA w) (fB w)
  | 14 => if fBit w 5 then .sbind g (.off (w.extractLsb' 1 3)) else .sbind g (.bind (w.extractLsb' 1 3) (fBit w 4) (fD w) (fA w))
  | _ => .unassignedOpcode g (fOp w)

/-- Row 3 of Table 5.1. -/
def parseRow3 (g : Guard) (w : DWord) : Instr :=
  match (w.extractLsb' 55 4).toNat with
  | 0 => .iaddI g (fTy w) (fBit w 1) (fD w) (fA w) (fImm w)
  | 1 => .isubI g (fTy w) (fBit w 1) (fD w) (fA w) (fImm w)
  | 2 => .imulI g (fTy w) (HW.ofBits (w.extractLsb' 3 2)) (fD w) (fA w) (fImm w)
  | 3 => .iminI g (fTy w) (fD w) (fA w) (fImm w)
  | 4 => .imaxI g (fTy w) (fD w) (fA w) (fImm w)
  | 5 => .andI g (fTy w) (fD w) (fA w) (fImm w)
  | 6 => .orI g (fTy w) (fD w) (fA w) (fImm w)
  | 7 => .xorI g (fTy w) (fD w) (fA w) (fImm w)
  | 8 => .shlI g (fTy w) (fD w) (fA w) (fImm w)
  | 9 => .shrI g (fTy w) (fD w) (fA w) (fImm w)
  | 10 => .bfxI g (fTy w) (fD w) (fA w) (w.extractLsb' 8 16)
  | 11 => .bfiI g (fTy w) (fD w) (fA w) (w.extractLsb' 8 16)
  | 12 => .isetI g (fTy w) (Cmp.ofBits (w.extractLsb' 1 4)) (fPD w) (fA w) (fImm w)
  | 13 => .selI g (w.extractLsb' 2 6) (fBit w 1) (fD w) (fA w) (fImm w)
  | 14 => .movi g (fBit w 1) (fD w) (fImm w)
  | _ => .unassignedOpcode g (fOp w)

/-- Row 4 of Table 5.1. -/
def parseRow4 (g : Guard) (w lit : DWord) : Instr :=
  match (w.extractLsb' 55 4).toNat with
  | 0 => .isetR g (fTy w) (Cmp.ofBits (w.extractLsb' 1 4)) (fPD w) (fA w) (fB w)
  | 1 => .pset g (BOp.ofBits (w.extractLsb' 1 2)) (fBit w 3) (fBit w 4) (fPD w) (fPA w) (fPB w)
  | 2 => match (w.extractLsb' 1 2).toNat with
    | 0 => .pmov g (.copy (fPD w) (fPA w) (fBit w 3))
    | 1 => .pmov g (.save (fD w))
    | _ => .pmov g (.load (fA w))
  | 3 => .lit g (fBit w 1) (fD w) lit
  | 4 => .iaddL g (fTy w) (fBit w 1) (fD w) (fA w) lit
  | 5 => .isubL g (fTy w) (fBit w 1) (fD w) (fA w) lit
  | 6 => .imulL g (fTy w) (HW.ofBits (w.extractLsb' 3 2)) (fD w) (fA w) lit
  | 7 => .imadL g (fTy w) (HW.ofBits (w.extractLsb' 3 2)) (fD w) (fA w) (fC w) lit
  | 8 => .iminL g (fTy w) (fD w) (fA w) lit
  | 9 => .imaxL g (fTy w) (fD w) (fA w) lit
  | 10 => .andL g (fTy w) (fD w) (fA w) lit
  | 11 => .orL g (fTy w) (fD w) (fA w) lit
  | 12 => .xorL g (fTy w) (fD w) (fA w) lit
  | 13 => .isetL g (fTy w) (Cmp.ofBits (w.extractLsb' 1 4)) (fPD w) (fA w) lit
  | 14 => .selL g (w.extractLsb' 2 6) (fBit w 1) (fD w) (fA w) lit
  | 15 => .dot4L g (fBit w 5) (fBit w 4) (fBit w 3) (fBit w 1) (fD w) (fA w) (fC w) lit
  | _ => .unassignedOpcode g (fOp w)

/-- Row 5 of Table 5.1. -/
def parseRow5 (g : Guard) (w lit : DWord) : Instr :=
  match (w.extractLsb' 55 4).toNat with
  | 0 => .maddmR g (fD w) (fA w) (fB w) (fC w)
  | 1 => .msubmR g (fD w) (fA w) (fB w) (fC w)
  | 2 => .mmulmR g (fD w) (fA w) (fB w) (fC w)
  | 3 => .mmacmR g (fD w) (fA w) (fB w) (fC w)
  | 4 => .mredR g (fBit w 1) (fD w) (fA w) (fC w)
  | 5 => .bflyR g (fBit w 1) (fD w) (fA w) (fB w) (fC w)
  | 6 => .maddmL g (fD w) (fA w) (fB w) lit
  | 7 => .msubmL g (fD w) (fA w) (fB w) lit
  | 8 => .mmulmL g (fD w) (fA w) (fB w) lit
  | 9 => .mmacmL g (fD w) (fA w) (fB w) lit
  | 10 => .mredL g (fBit w 1) (fD w) (fA w) lit
  | 11 => .bflyL g (fBit w 1) (fD w) (fA w) (fB w) lit
  | 12 => .elect g (fBit w 1) (fPD w)
  | _ => .unassignedOpcode g (fOp w)

/-- Row 6 of Table 5.1. -/
def parseRow6 (g : Guard) (w : DWord) : Instr :=
  match (w.extractLsb' 55 4).toNat with
  | 0 => .ldg g (fMem w)
  | 1 => .stg g (fMem w)
  | 2 => .ldp g (fMem w)
  | 3 => .stp g (fMem w)
  | 4 => .lds g (fMem w)
  | 5 => .sts g (fMem w)
  | 6 => .ldc g (fMem w)
  | 7 => .stc g (fMem w)
  | 8 => .ldh g (fMem w)
  | 9 => .sth g (fMem w)
  | 10 => .ldio g (fMem w)
  | 11 => .stio g (fMem w)
  | 12 => .prefGlb g (fBit w 2) (fA w) (fOff w)
  | 13 => .prefHst g (fBit w 2) (fA w) (fOff w)
  | 14 => .fence g (FenceKind.ofBits (w.extractLsb' 15 2)) (Scope.ofBits (w.extractLsb' 12 3)) (w.extractLsb' 8 4)
  | _ => .unassignedOpcode g (fOp w)

/-- Row 7 of Table 5.1. -/
def parseRow7 (g : Guard) (w lit : DWord) : Instr :=
  match (w.extractLsb' 55 4).toNat with
  | 0 => .ats g (fAtom w lit)
  | 1 => .atc g (fAtom w lit)
  | 2 => .atg g (fAtom w lit)
  | 3 => .redc g (fAtom w lit)
  | 4 => .redg g (fAtom w lit)
  | 5 => .amxsCmn g (fAmx w)
  | 6 => .amxsGlb g (fAmx w)
  | _ => .unassignedOpcode g (fOp w)

/-- Row 8 of Table 5.1. -/
def parseRow8 (g : Guard) (w : DWord) : Instr :=
  match (w.extractLsb' 55 4).toNat with
  | 0 => .faddR g (fFty w) (fFm w) (fD w) (fA w) (fB w)
  | 1 => .fsubR g (fFty w) (fFm w) (fD w) (fA w) (fB w)
  | 2 => .fmulR g (fFty w) (fFm w) (fD w) (fA w) (fB w)
  | 3 => .ffmaR g (fFty w) (fFm w) (fD w) (fA w) (fB w) (fC w)
  | 4 => .fminR g (fFty w) (fBit w 2) (fD w) (fA w) (fB w)
  | 5 => .fmaxR g (fFty w) (fBit w 2) (fD w) (fA w) (fB w)
  | 6 => .fsetR g (fFty w) (Cmp.ofBits (w.extractLsb' 1 4)) (fPD w) (fA w) (fB w)
  | 7 => .fclass g (fFty w) (fD w) (fA w)
  | 8 => .frcp g (fFty w) (fFm w) (fD w) (fA w)
  | 9 => .frsq g (fFty w) (fFm w) (fD w) (fA w)
  | 10 => .fsqrt g (fFty w) (fFm w) (fD w) (fA w)
  | 11 => .fex2 g (fFty w) (fFm w) (fD w) (fA w)
  | 12 => .flg2 g (fFty w) (fFm w) (fD w) (fA w)
  | 13 => .fsin g (fFty w) (fFm w) (fD w) (fA w)
  | 14 => .fcos g (fFty w) (fFm w) (fD w) (fA w)
  | 15 => .ftanh g (fFty w) (fFm w) (fD w) (fA w)
  | _ => .unassignedOpcode g (fOp w)

/-- Row 9 of Table 5.1. -/
def parseRow9 (g : Guard) (w lit : DWord) : Instr :=
  match (w.extractLsb' 55 4).toNat with
  | 0 => .faddI g (fFm w) (fD w) (fA w) (fImm w)
  | 1 => .fmulI g (fFm w) (fD w) (fA w) (fImm w)
  | 2 => .fminI g (fBit w 2) (fD w) (fA w) (fImm w)
  | 3 => .fmaxI g (fBit w 2) (fD w) (fA w) (fImm w)
  | 4 => .fsetI g (Cmp.ofBits (w.extractLsb' 1 4)) (fPD w) (fA w) (fImm w)
  | 5 => .faddL g (fFty w) (fFm w) (fD w) (fA w) lit
  | 6 => .fsubL g (fFty w) (fFm w) (fD w) (fA w) lit
  | 7 => .fmulL g (fFty w) (fFm w) (fD w) (fA w) lit
  | 8 => .ffmaL g (fFty w) (fFm w) (fD w) (fA w) (fC w) lit
  | 9 => .fminL g (fFty w) (fBit w 2) (fD w) (fA w) lit
  | 10 => .fmaxL g (fFty w) (fBit w 2) (fD w) (fA w) lit
  | 11 => .fsetL g (fFty w) (Cmp.ofBits (w.extractLsb' 1 4)) (fPD w) (fA w) lit
  | 12 => .hfma2R g (fFty w) (fFm w) (fD w) (fA w) (fB w) (fC w)
  | 13 => .hadd2 g (fFty w) (fFm w) (fD w) (fA w) (fB w)
  | 14 => .hmul2 g (fFty w) (fFm w) (fD w) (fA w) (fB w)
  | 15 => .hfma2L g (fFty w) (fFm w) (fD w) (fA w) (fC w) lit
  | _ => .unassignedOpcode g (fOp w)

/-- Row A of Table 5.1. -/
def parseRowA (g : Guard) (w : DWord) : Instr :=
  match (w.extractLsb' 55 4).toNat with
  | 0 => .cvt g (CTy.ofBits (w.extractLsb' 24 4)) (CTy.ofBits (w.extractLsb' 20 4)) (fFm w) (fD w) (fA w)
  | 1 => .pack g (fFty w) (fFm w) (w.extractLsb' 8 2) (fD w) (fA w) (fB w)
  | 2 => .unpack g (fFty w) (fBit w 2) (w.extractLsb' 8 2) (fD w) (fA w)
  | 3 => if (w.extractLsb' 5 3) == 0#3 then .bscale g (.apply (fFm w) (fD w) (fA w) (fB w)) else .bscale g (.derive (fFty w) (fD w) (fA w))
  | 4 => .shflIdxR g (w.extractLsb' 1 6) (fD w) (fA w) (fB w) (fC w)
  | 5 => .shflUpR g (w.extractLsb' 1 6) (fD w) (fA w) (fB w) (fC w)
  | 6 => .shflDownR g (w.extractLsb' 1 6) (fD w) (fA w) (fB w) (fC w)
  | 7 => .shflXorR g (w.extractLsb' 1 6) (fD w) (fA w) (fB w) (fC w)
  | 8 => .shflIdxC g (w.extractLsb' 1 6) (fD w) (fA w) (fPB w) (fC w)
  | 9 => .shflUpC g (w.extractLsb' 1 6) (fD w) (fA w) (fPB w) (fC w)
  | 10 => .shflDownC g (w.extractLsb' 1 6) (fD w) (fA w) (fPB w) (fC w)
  | 11 => .shflXorC g (w.extractLsb' 1 6) (fD w) (fA w) (fPB w) (fC w)
  | 12 => match (w.extractLsb' 1 3).toNat with
    | 0 => .vote g (.every (fPD w)) (fPA w) (fBit w 4)
    | 1 => .vote g (.some (fPD w)) (fPA w) (fBit w 4)
    | 2 => .vote g (.same (fPD w)) (fPA w) (fBit w 4)
    | 3 => .vote g (.mask (fD w)) (fPA w) (fBit w 4)
    | 4 => .vote g (.count (fD w)) (fPA w) (fBit w 4)
    | _ => .vote g (.first (fD w)) (fPA w) (fBit w 4)
  | 13 => .redux g (ROp.ofBits (w.extractLsb' 2 3)) (if fBit w 1 then .f32 else .int (fTy w)) (fD w) (fA w)
  | 14 => .scan g (ROp.ofBits (w.extractLsb' 2 3)) (if fBit w 1 then .f32 else .int (fTy w)) (fD w) (fA w)
  | 15 => .matchv g (MatchMode.ofBits (w.extractLsb' 1 2)) (fBit w 3) (fD w) (fA w)
  | _ => .unassignedOpcode g (fOp w)

/-- Row B of Table 5.1. -/
def parseRowB (g : Guard) (w : DWord) : Instr :=
  match (w.extractLsb' 55 4).toNat with
  | 0 => .acopy g (fCopy w) (fBit w 1) (fBit w 2)
  | 1 => .kick g (fA w) (fB w)
  | 2 => .barinit g (fA w) (w.extractLsb' 8 13)
  | 3 => .barexpI g (fA w) (fImm w)
  | 4 => .barexpR g (fA w) (fB w)
  | 5 => .bararr g (fBit w 1) (fA w)
  | 6 => .barwait g (fPD w) (fA w) (fGen w)
  | 7 => .bartest g (fPD w) (fA w) (fGen w) (fBit w 2) (fC w)
  | 8 => .barinv g (fA w)
  | 9 => .bararrMb g (w.extractLsb' 8 4)
  | 10 => .barwaitMb g (fPD w) (w.extractLsb' 8 4)
  | 11 => .qpush g (w.extractLsb' 1 3) (fBit w 4) (fBit w 5) (fA w)
  | 12 => .qpop g (w.extractLsb' 1 3) (fBit w 4) (fBit w 5) (fD w)
  | 13 => if fBit w 6 then .qtry g (w.extractLsb' 1 3) (fPC w) (.push (fA w)) else .qtry g (w.extractLsb' 1 3) (fPC w) (.pop (fD w))
  | _ => .unassignedOpcode g (fOp w)

/-- Row C of Table 5.1. -/
def parseRowC (g : Guard) (w : DWord) : Instr :=
  match (w.extractLsb' 55 4).toNat with
  | 0 => match (w.extractLsb' 1 2).toNat with
    | 0 => .tilest g (.tdef (fA w) (fB w) (fC w))
    | 1 => .tilest g (.ready (fA w))
    | _ => .tilest g (.empty (fA w))
  | 1 => .tileq g (fD w) (fA w)
  | 2 => .fewait g (fA w) (fB w)
  | 3 => .feclr g (fBit w 1) (fA w) (fB w)
  | 4 => .tlwaitR g (Scope.ofBits (w.extractLsb' 1 3)) (fBit w 4) (fA w) (fB w)
  | 5 => .tlwaitI g (Scope.ofBits (w.extractLsb' 1 3)) (fBit w 4) (fA w) (fImm w)
  | 6 => .tlread g (Scope.ofBits (w.extractLsb' 1 3)) (fBit w 5) (fBit w 6) (fBit w 7) (fBit w 0) (fD w) (fA w)
  | 7 => .ncopy g (fCopy w) (fBit w 1)
  | 8 => .enq g (fPD w) (fA w) (fB w)
  | 9 => .allocGlbR g (fD w) (fPA w) (fB w)
  | 10 => .allocGlbI g (fD w) (fPA w) (fImm w)
  | 11 => .allocCmnR g (fD w) (fPA w) (fB w)
  | 12 => .allocCmnI g (fD w) (fPA w) (fImm w)
  | 13 => .freeGlb g (fA w)
  | 14 => .freeCmn g (fA w)
  | _ => .unassignedOpcode g (fOp w)

/-- Row D of Table 5.1. -/
def parseRowD (g : Guard) (w : DWord) : Instr :=
  match (w.extractLsb' 55 4).toNat with
  | 0 => .migr g (fBit w 1) (fPD w) (fA w)
  | 1 => .contend g (fBit w 1) (fD w) (fPC w) (fA w) (w.extractLsb' 18 8)
  | 2 => .sysr g (fD w) (w.extractLsb' 8 12)
  | 3 => .sysw g (fA w) (w.extractLsb' 8 12)
  | 4 => .cntr g (fD w) (w.extractLsb' 8 4)
  | _ => .unassignedOpcode g (fOp w)

/-- The form that the opcode selects, with the fields of the word (Table 5.1). -/
def parseThread (g : Guard) (w lit : DWord) : Instr :=
  match (w.extractLsb' 59 4).toNat with
  | 0 => parseRow0 g w
  | 1 => parseRow1 g w
  | 2 => parseRow2 g w
  | 3 => parseRow3 g w
  | 4 => parseRow4 g w lit
  | 5 => parseRow5 g w lit
  | 6 => parseRow6 g w
  | 7 => parseRow7 g w lit
  | 8 => parseRow8 g w
  | 9 => parseRow9 g w lit
  | 10 => parseRowA g w
  | 11 => parseRowB g w
  | 12 => parseRowC g w
  | 13 => parseRowD g w
  | _ => .unassignedOpcode g (fOp w)

/-- Why a word is no instruction. Every one is an illegal-instruction fault in the lanes whose guard is true (R82), or
a sequencer command fault of cause Encoding (R81). -/
inductive DecodeError where
  /-- bit 63 is 1 (R59, R81) -/
  | headerBit
  /-- an instruction of format L is the block's last word (R59) -/
  | noLiteral
  /-- a nonzero unused field, an undefined modifier bit, or a reserved code (R78, R80) -/
  | reservedBits
  /-- a reserved combination, or an odd register named as a pair (R18, R78) -/
  | reservedCombination
  deriving DecidableEq, Repr

/-- Read a thread instruction word; `lit` is the next word of the block, where there is one. -/
def decodeThread (w : DWord) (lit : Option DWord) : Except DecodeError Instr :=
  let g := fGuard w
  if fBit w 63 then .error .headerBit
  else if unassignedOp (fOp w) then .ok (.unassignedOpcode g (fOp w))
  else if opLong (fOp w) && lit.isNone then .error .noLiteral
  else
    let i := parseThread g w (lit.getD 0)
    if encode i != .thread w (if opLong (fOp w) then lit else none) then .error .reservedBits
    else if i.wf then .ok i else .error .reservedCombination

/-- The command that MOP selects, with the fields of the word (Table 5.7, Table 10.2). -/
def parseMatrix (w ext : DWord) : Instr :=
  match (w.extractLsb' 57 6).toNat with
  | 1 => .mnop
  | 2 => .mbwait (w.extractLsb' 1 4)
  | 3 => .mbsig (w.extractLsb' 1 4)
  | 4 => .mloop (w.extractLsb' 1 16)
  | 5 => .mend
  | 6 => .pmark (w.extractLsb' 1 16) (w.extractLsb' 17 4)
  | 7 => .mfence
  | 8 => .msetq (w.extractLsb' 1 6) (w.extractLsb' 7 7) ext
  | 9 => .mfmt (RMode.ofBits (w.extractLsb' 1 2)) (fBit w 3)
  | 16 => .mzero (MKind.ofBits (w.extractLsb' 1 2)) (w.extractLsb' 53 4)
  | 17 => .mldb ⟨(w.extractLsb' 1 2), ECode.ofBits (w.extractLsb' 3 4), (w.extractLsb' 7 16), (w.extractLsb' 23 16), fBit w 39, (w.extractLsb' 40 6), (w.extractLsb' 46 3), fBit w 49⟩
  | 18 => .mldu (w.extractLsb' 1 3) (w.extractLsb' 4 16)
  | 19 => .mlda (MKind.ofBits (w.extractLsb' 1 2)) (w.extractLsb' 53 4) ⟨(w.extractLsb' 3 16), (w.extractLsb' 19 16), fBit w 35, (w.extractLsb' 36 6)⟩
  | 20 => .mst (ECode.ofBits (w.extractLsb' 1 4)) (w.extractLsb' 53 4) ⟨(w.extractLsb' 5 16), (w.extractLsb' 21 16), fBit w 37, (w.extractLsb' 38 6)⟩
  | 21 => .mcopy (w.extractLsb' 53 4) (w.extractLsb' 1 4)
  | 22 => .mtrn (w.extractLsb' 53 4) (w.extractLsb' 1 4)
  | 23 => .mcvt (fBit w 1) (w.extractLsb' 53 4)
  | 32 => .mma ⟨(w.extractLsb' 53 4), (w.extractLsb' 50 3), (w.extractLsb' 1 3), (w.extractLsb' 4 2), (w.extractLsb' 14 16), (w.extractLsb' 30 16), fBit w 46⟩ (ECode.ofBits (w.extractLsb' 6 4)) (ECode.ofBits (w.extractLsb' 10 4))
  | 33 => .mpma ⟨(w.extractLsb' 53 4), (w.extractLsb' 50 3), (w.extractLsb' 1 3), (w.extractLsb' 4 2), (w.extractLsb' 10 16), (w.extractLsb' 26 16), fBit w 43⟩ (ECode.ofBits (w.extractLsb' 6 4)) (fBit w 42)
  | 34 => .mmodma ⟨(w.extractLsb' 53 4), (w.extractLsb' 50 3), (w.extractLsb' 1 3), (w.extractLsb' 4 2), (w.extractLsb' 6 16), (w.extractLsb' 22 16), fBit w 38⟩
  | 35 => .mntt ⟨(w.extractLsb' 50 3), (w.extractLsb' 1 16), (w.extractLsb' 17 16), (w.extractLsb' 33 5)⟩
  | 36 => .mintt ⟨(w.extractLsb' 50 3), (w.extractLsb' 1 16), (w.extractLsb' 17 16), (w.extractLsb' 33 5)⟩
  | 48 => .mtadd (w.extractLsb' 53 4) (w.extractLsb' 1 4)
  | 49 => .mhad (w.extractLsb' 53 4) (w.extractLsb' 1 4)
  | 50 => .mscl (w.extractLsb' 53 4) ext
  | 51 => .mbias (w.extractLsb' 53 4) (w.extractLsb' 1 16)
  | 52 => .mclamp (w.extractLsb' 53 4) (ext.extractLsb' 0 32) (ext.extractLsb' 32 32)
  | 53 => .mamax (w.extractLsb' 53 4) (w.extractLsb' 1 16)
  | _ => .unassignedMop (w.extractLsb' 57 6)

/-- Read a command word of the sequencer stream; `ext` is the word after it. An extension word follows exactly when XW
is 1 (R81). -/
def decodeMatrix (w ext : DWord) : Except DecodeError Instr :=
  if fBit w 63 then .error .headerBit
  else if unassignedMopCode (w.extractLsb' 57 6) then .ok (.unassignedMop (w.extractLsb' 57 6))
  else
    let i := parseMatrix w ext
    if encode i != .matrix w (if fBit w 0 then some ext else none) then .error .reservedBits
    else if i.wf then .ok i else .error .reservedCombination

/-- Read a 32-bit word on core `core` of X. A word outside custom-0 is no row of the opcode table (R93, R94). -/
def decodeXvexrus (core : Nat) (w : Word) : Option Instr :=
  if w.extractLsb' 0 7 != 0x0B#7 then none
  else if custom0Reserved w then some (.reservedCustom0 core w)
  else
    let rd := w.extractLsb' 7 5
    let rs1 := w.extractLsb' 15 5
    let rs2 := w.extractLsb' 20 5
    match (w.extractLsb' 12 3).toNat with
    | 0 => some (.xspawn (w.extractLsb' 25 4) rs2 rs1 rd)
    | 1 => some (.xdisp (w.extractLsb' 25 4) rs2 rs1 rd)
    | 2 => some (.xjoin rs1 rd)
    | _ => some (.xwaitc rs2 rs1 rd)

/-! ## Bytes -/

/-- The `n` bytes of `v`, least significant first. -/
def leBytes : Nat → Nat → List Byte
  | 0, _ => []
  | n + 1, v => BitVec.ofNat 8 v :: leBytes n (v / 256)

/-- The number that bytes stand for, least significant first. -/
def ofLeBytes : List Byte → Nat
  | [] => 0
  | b :: bs => b.toNat + 256 * ofLeBytes bs

/-- The instruction word at the front of a byte sequence, and the word after it. -/
def wordsAt (bs : List Byte) : DWord × DWord :=
  (BitVec.ofNat 64 (ofLeBytes (bs.take 8)), BitVec.ofNat 64 (ofLeBytes ((bs.drop 8).take 8)))

/-- The instruction the decoder reads from a table word: 32 bits or fewer are a word of a service core, more are a
thread instruction word with its literal in the upper half. -/
def decodeTableWord (nbits w : Nat) : Option Instr :=
  if nbits ≤ 32 then decodeXvexrus 0 (BitVec.ofNat 32 (ofLeBytes (leBytes 4 w)))
  else
    let ws := wordsAt (leBytes 16 w)
    match decodeThread ws.1 (some ws.2) with
    | .ok i => some i
    | .error _ => none

end Sys2Proof
end

