-- ==== Sys2Proof/Machine/Store.lean ====
section
/-!
DEFINITION. A sparse table as plain data: pairs of a key and a value with keys strictly rising and no value equal to
what an unlisted key reads as. Memory (the canonical list of cells) and the sparse register files are such tables.
-/

namespace Sys2Proof.Machine

/-- The value at a key; an unlisted key reads as `d`. -/
def tget {α : Type} (d : α) : List (Nat × α) → Nat → α
  | [], _ => d
  | (k, v) :: t, a => if k = a then v else tget d t a

/-- Insert a key that is not listed, in rising order. -/
def tins {α : Type} (a : Nat) (v : α) : List (Nat × α) → List (Nat × α)
  | [] => [(a, v)]
  | (k, w) :: t => if a < k then (a, v) :: (k, w) :: t else (k, w) :: tins a v t

/-- Write a key: the old entry goes, and a value other than `d` is entered. -/
def tput {α : Type} [DecidableEq α] (d : α) (m : List (Nat × α)) (a : Nat) (v : α) : List (Nat × α) :=
  let m' := m.filter fun e => e.1 != a
  if v = d then m' else tins a v m'

/-- Keys strictly rising from above `lo`, no value equal to `d`. -/
def tcanonFrom {α : Type} [DecidableEq α] (d : α) : Nat → List (Nat × α) → Bool
  | _, [] => true
  | lo, (k, v) :: t => lo ≤ k && v != d && tcanonFrom d (k + 1) t

/-- The canonical form. -/
def tcanon {α : Type} [DecidableEq α] (d : α) (m : List (Nat × α)) : Bool := tcanonFrom d 0 m

/-- What an unlisted byte of memory reads as. GLB frames, scratch, private memory and commons are zeroed before use
(R32, R336, R401); for host memory and storage it is the model's choice (log 3). -/
def unlistedByte : Byte := 0

/-- Read one byte of memory. -/
def memGet (m : List Host.Cell) (a : Nat) : Byte := tget unlistedByte m a

/-- Write one byte of memory. -/
def memPut (m : List Host.Cell) (a : Nat) (b : Byte) : List Host.Cell := tput unlistedByte m a b

/-- The bytes of `n` addresses from `a`, as a number, least significant byte first (Table 2.7, `mem`). -/
def memRead (m : List Host.Cell) (a : Nat) : Nat → Nat
  | 0 => 0
  | n + 1 => (memGet m a).toNat + 256 * memRead m (a + 1) n

/-- Write the low `8 n` bits of `v` to `n` addresses from `a`. -/
def memWrite (m : List Host.Cell) (a : Nat) : Nat → Nat → List Host.Cell
  | 0, _ => m
  | n + 1, v => memWrite (memPut m a (BitVec.ofNat 8 v)) (a + 1) n (v / 256)

/-- The canonical form of memory. -/
def Memory.wf (m : List Host.Cell) : Bool := tcanon unlistedByte m

end Sys2Proof.Machine
end

