-- ==== Sys2Proof/Machine/State.lean ====
section
/-!
DEFINITION. The state of the FX-N440: everything the spec gives the module, as plain data, and the state at cold boot.
A sparse register file is a table of `Store`; a record that may be absent is an entry of a list, found by its key.
-/

namespace Sys2Proof.Machine

/-! ## How a step can stop -/

/-- The machine's own faults. There is none: every fault of the spec is an exception of a lane, a sequencer, an engine
or a die, taken as a next state. -/
inductive Fault where
  deriving DecidableEq, Repr

/-- Why a step has no meaning in this model. -/
inductive Refusal where
  /-- Raised by `exec` for an instruction that has no meaning yet. Safe: nothing is claimed of it. -/
  | notModelled (mnemonic : String)
  deriving DecidableEq, Repr

/-! ## Threads -/

/-- Stream pattern register, Table 2.3. -/
structure StreamReg where
  base   : Word
  stride : Word
  count  : Nat
  pos    : Nat
  vreg   : Reg
  ew8    : Bool
  bnd    : Bool
  deriving DecidableEq, Repr

/-- An unbound stream pattern register: all fields zero (Table 2.3). -/
def StreamReg.unbound : StreamReg := ⟨0, 0, 0, 0, 0, false, false⟩

/-- Why a thread that has not ended or parked does not issue (R65, R73, R140, R155, R297, R339). -/
inductive Stall where
  /-- held at a reconvergence header (R65) -/
  | held
  /-- at a header, WAIT names a busy flag (R65) -/
  | flags
  /-- waits for a translation of virtual page `vpn` on its die (R339) -/
  | xlate (vpn : Nat)
  /-- parked with no record until frame `lfn` of context `asid`, which it reached through page `vpn`, is backed (R336) -/
  | backing (asid lfn vpn : Nat)
  /-- an `lds`, an operand fetch or an `ats` on an empty scratch line (R155) -/
  | line (key : Nat)
  /-- at a cross-lane word (R140) -/
  | cross
  /-- in a meeting of the listed lanes (a mask) whose operand waits: on an empty line, or on an outstanding acquire
  (R142, R154) -/
  | met (line : Option Nat) (lanes : Nat)
  /-- a memory instruction behind an outstanding acquire (R154) -/
  | acquire
  /-- `sleep` until `%cox` reads the value (R103) -/
  | sleep (until_ : Nat)
  /-- `waitf` (R104) -/
  | waitf
  /-- `barwait` on the barrier at scratch offset `a`, generation `g`, with its predicate (R182) -/
  | bar (a : Nat) (g : Word) (d : PredIx)
  /-- `barwait mbN` for its phase `k` (R185) -/
  | barMb (n k : Nat)
  /-- `qpush` of `k` entries on a queue (R192) -/
  | qpush (q k : Nat)
  /-- `qpop` of `k` entries on a queue (R192) -/
  | qpop (q k : Nat)
  /-- `fewait` on `n` scratch bytes from key `key` (R176) -/
  | fewait (key n : Nat)
  /-- `tlwait` on the timeline at memory key `key` for value `n` (R195) -/
  | timeline (key n : Nat)
  /-- a `migr` before shipping (R229): for the other threads, or for the group's flags -/
  | migr
  | migrFlags
  /-- a `migr` that waits for a pontoon slot on a die (R229) -/
  | pontoon (die : Nat)
  /-- a `migr` whose state is being shipped (R229) -/
  | ship
  /-- `contend`: registered, waits for its heat or in it (R232) -/
  | heat
  deriving DecidableEq, Repr

/-- Where a thread stands (R65, R74, R102, R241). -/
inductive TStatus where
  /-- its program counter is a header it has arrived at -/
  | header
  /-- inside a block: its program counter is the next word to issue -/
  | block
  /-- it ends once the lane's outstanding reads are done (R102); `own`: by an `exit` of its own, at which a due poison
  fault parks it (R160) -/
  | exiting (own : Bool)
  /-- it has exited -/
  | exited
  /-- parked by a fault of class `cls` carrying `info`; `done` once its record is written (R241); `hdr`: parked at a
  header or fetch, so that the program counter itself is resumed -/
  | parked (cls info : Nat) (done hdr : Bool)
  /-- stopped by a pre-emption; `inWord`: inside a block at an instruction (R74) -/
  | stopped (inWord : Bool)
  deriving DecidableEq, Repr

/-- How the thread came to its header, which decides the fault of a word that is none (R60, R62, R223): by fall-through,
by a transfer or another entry, or by release from a hold there, `fell` where it had fallen through to it (R64). -/
inductive Arrival where
  | fall | entry
  | released (fell : Bool)
  deriving DecidableEq, Repr

/-- One execution of a word as its records describe it (R313): its issue stamp, ACTIVE, PARKED and RECONV. -/
structure ExecRec where
  stamp  : Nat
  active : Nat
  parked : Nat
  reconv : Nat
  deriving DecidableEq, Repr

/-- A poison fault that is due (R160): addresses of the reading instruction and of the access, and its execution. -/
structure PoisonDue where
  pc   : Nat
  ea   : Nat
  exec : ExecRec
  deriving DecidableEq, Repr

/-- A thread (R13, R17). -/
structure Thread where
  lane    : Nat
  /-- v0 to v1023; unlisted reads 0 -/
  v       : List (Nat × Word)
  /-- p0 to p63; bit 0 is 1 -/
  p       : DWord
  /-- sp0 to sp7; unlisted is unbound -/
  sp      : List (Nat × StreamReg)
  pc      : Nat
  /-- header address of the current block -/
  hdr     : Nat
  /-- header word of the current block -/
  hword   : DWord
  status  : TStatus
  stall   : Option Stall
  arrival : Arrival
  /-- %fpstat -/
  fpstat  : Word
  /-- %trcause -/
  trcause : Word
  /-- %trpc -/
  trpc    : DWord
  /-- in handler mode (R241) -/
  handler : Bool
  /-- the block that %trpc lies in: its header address and word, and whether %trpc is a word inside it -/
  trHdr   : Nat
  trHword : DWord
  trIn    : Bool
  /-- how it had come to the header at which it parked -/
  trArr   : Arrival
  /-- handler entered for the sequencer: the header at which the thread goes on (R346) -/
  seqResume : Option Nat
  /-- a poison fault is due (R160) -/
  poison  : Option PoisonDue
  /-- its stream pattern registers as they stood before the instruction at which it waits: a pre-emption that takes it
  there puts them back, since the instruction executes anew (R21, R73) -/
  spBack  : Option (List (Nat × StreamReg))
  /-- outstanding loads, atomics, `amxs` and `tlread` of the lane (R102) -/
  reads   : Nat
  /-- stamp of its last issue (R296) -/
  lastIssue : Nat
  /-- gave way by `yield` or `sleep 0` (R101) -/
  yielded : Bool
  /-- words issued by its group since its hold began (R298) -/
  holdWords : Nat
  /-- registers it keeps when an image is sealed: LIVE at a point header (R72, R77) -/
  keep    : Nat
  deriving DecidableEq, Repr

/-- A reconvergence entry (R66). -/
structure RcEntry where
  addr    : Nat
  /-- the threads that reached the transfer -/
  mask    : List Nat
  arrived : List Nat
  deriving DecidableEq, Repr

/-! ## Long-latency operations -/

/-- What the bank does with one lane's part (Table 8.3, R166). -/
inductive RmwKind where
  | atom (op : AOp) (ty : ATy)
  | amxs
  deriving DecidableEq, Repr

/-- One lane's part of a long-latency operation. Keys are memory keys (log 4). -/
inductive Part where
  /-- a load: the register values to write and the flags to raise when it completes -/
  | load (lane : Nat) (regs : List (Nat × Word)) (flags : Word)
  /-- a store of `n` bytes of `v` at `key`; `tbl`: to a page of translation tables (R338) -/
  | store (lane key n v : Nat) (tbl : Bool)
  /-- a store of the element of a formatted page that key `key` numbers: format code, geometry, type and register
  value (R158) -/
  | encode (lane key fmt geom : Nat) (ty : Ty) (wid : Wid) (v : Word)
  /-- a read-modify-write: destination register when it delivers the old value; addresses of the instruction and of the
  access, for a poison fault -/
  | rmw (lane key n : Nat) (k : RmwKind) (b c : Nat) (dst : Option Nat) (pc ea : Nat)
  /-- a network copy waiting for acceptance (R196): record number of `State.ncopies` -/
  | ncopy (lane id : Nat)
  deriving DecidableEq, Repr

/-- A long-latency operation, or network copies in the store queue: one execution's parts, in ascending lanes. -/
structure LongOp where
  id    : Nat
  /-- the flag it counts on -/
  flag  : Option Nat
  /-- it stands in the group's store queue (R153) -/
  queued : Bool
  /-- its parts have been performed -/
  performed : Bool
  /-- an acquire: later memory instructions of its lanes wait (R154) -/
  acquire : Bool
  /-- the execution that issued it (R313) -/
  exec  : ExecRec
  parts : List Part
  deriving DecidableEq, Repr

/-- A group (R13). -/
structure Group where
  gid    : Nat
  /-- its team's key -/
  tid    : Nat
  /-- %group -/
  index  : Nat
  width  : Nat
  die    : Nat
  core   : Nat
  /-- %slot -/
  slot   : Nat
  /-- first lane of the core that it occupies -/
  base   : Nat
  threads : List Thread
  /-- s0 to s255; unlisted reads 0 -/
  u      : List (Nat × Word)
  /-- counters of f0 to f11; unlisted reads 0 -/
  flags  : List (Nat × Nat)
  stack  : List RcEntry
  ops    : List LongOp
  /-- rotation index of `elect.rot` (R147) -/
  rot    : Nat
  /-- arrivals by `bararr mbN` (R185) -/
  mbArr  : List (Nat × Nat)
  /-- phases for which `barwait mbN` returned (R185) -/
  mbRet  : List (Nat × Nat)
  /-- words issued since a pre-emption became pending (R76) -/
  words  : Nat
  /-- limits of R76 that the count has reached: 0, 1 or 2 -/
  limit  : Nat
  /-- die cycle at which it became resident on its core: its age (R295) -/
  born   : Nat
  /-- die cycle from which it has stood ready without a slot (R295) -/
  since  : Option Nat
  /-- die cycle in which it had stood ready for 256 die cycles without a slot (R295, rule 1) -/
  aged   : Option Nat
  /-- slots granted to other groups of its band while it stood ready (R295, rule 2) -/
  passed : Nat
  /-- its state is being shipped to a pontoon slot: die, core, slot (R229) -/
  ship   : Option (Nat × Nat × Nat)
  /-- cross-lane words that the progress rule has released and that have not issued yet (R298) -/
  crossFree : List Nat
  retired : Bool
  deriving DecidableEq, Repr

/-! ## Teams, gangs, grids -/

/-- KIND of a tile (Table 10.1); absent is undefined. -/
structure Tile where
  kind : Option MKind
  /-- 4,096 elements, row by row -/
  el   : List Nat
  deriving DecidableEq, Repr

/-- A B buffer (Table 10.1): its loaded code, plane index, and 64 columns of 128 bytes. -/
structure BBuf where
  code : Option ECode
  pl   : Nat
  cols : List (List Byte)
  deriving DecidableEq, Repr

/-- An entry of the loop stack (R204). -/
structure LoopEnt where
  body  : Nat
  count : Nat
  index : Nat
  deriving DecidableEq, Repr

/-- Causes of Table 10.9, in its order. -/
inductive SeqCause where
  | encoding | fetch | tileKind | format | descriptor | scratchBound | arithmetic | table | tileState | loop | poison
  deriving DecidableEq, Repr

/-- The stream of a team (R198, R217). -/
inductive SeqStatus where
  /-- no stream, or ended at depth 0 -/
  | ended
  | running
  /-- stopped on a fault; `done` once its record is written -/
  | faulted (c : SeqCause) (done : Bool)
  /-- taken for pre-emption -/
  | stopped
  deriving DecidableEq, Repr

/-- The sequencer and matrix unit of a team (Table 10.1). -/
structure Sequencer where
  status : SeqStatus
  /-- address of the next command word -/
  pos    : Nat
  tiles  : List (Nat × Tile)
  bufs   : List (Nat × BBuf)
  /-- bindings of ud0 to ud7; unlisted is 32 × N -/
  ud     : List (Nat × Nat)
  /-- moduli; unlisted is 0 -/
  qt     : List (Nat × Nat)
  fmRm   : RMode
  fmSat  : Bool
  loops  : List LoopEnt
  /-- masks of the last `pmark` (R219) -/
  mark   : Option (BitVec 16 × BitVec 4)
  /-- granules done of a split command and the descriptor it began with (R218) -/
  split  : Option (Nat × Nat)
  /-- the words of that command, which is not fetched anew at its later granules (R199, R218) -/
  words  : Option (DWord × DWord)
  /-- phases of mbN toward the sequencer that `mbwait` has returned for -/
  mbTook : List (Nat × Nat)
  /-- phases of mbN toward the groups that `mbsig` has completed -/
  mbSig  : List (Nat × Nat)
  deriving DecidableEq, Repr

/-- A tile table entry (Table 9.5); STATE 0 empty, 1 filling, 2 ready, 3 draining. -/
structure TileEnt where
  base  : Nat
  lines : Nat
  state : Nat
  deriving DecidableEq, Repr

/-- A waiter on a queue: its group and lane as 64 · group + lane, its kind, its group's number, and the die cycle in which
it began (16 · cycle + die; R192). -/
structure QWaiter where
  key   : Nat
  push  : Bool
  group : Nat
  since : Nat
  deriving DecidableEq, Repr

/-- A named queue (R192). -/
structure NQueue where
  depth   : Nat
  allow   : Nat
  items   : List Word
  /-- waiters in the order in which they are served -/
  waiters : List QWaiter
  deriving DecidableEq, Repr

/-- A kernel descriptor (Table 20.4) with its tile entries. -/
structure KDesc where
  entry   : Nat
  stream  : Nat
  width   : Nat
  regs    : Nat
  team    : Nat
  paired  : Bool
  solo    : Bool
  gang    : Nat
  scratch : Nat
  queues  : List (Nat × Nat)
  tiles   : List TileEnt
  deriving DecidableEq, Repr

/-- An entry of a core's kick queue (R186): its team, the address of its first record, records, and the next record. -/
structure KickEnt where
  id   : Nat
  core : Nat
  tid  : Nat
  addr : Nat
  n    : Nat
  next : Nat
  deriving DecidableEq, Repr

/-- A team (R13). -/
structure Team where
  tid    : Nat
  /-- its grid's key -/
  grid   : Nat
  /-- its gang's key -/
  gang   : Nat
  /-- %team -/
  index  : Nat
  die    : Nat
  /-- its core, or the even core of its pair -/
  core   : Nat
  entry  : Nat
  /-- s0 to s15 -/
  args   : List Word
  orphan : Nat
  tiles  : List TileEnt
  queues : List NQueue
  seq    : Sequencer
  /-- kick entries saved with an image (R197) -/
  kicks  : List KickEnt
  /-- its groups stand on cores -/
  resident : Bool
  retired : Bool
  deriving DecidableEq, Repr

/-- Where a gang stands (R292, R348, R350). -/
inductive GangStatus where
  /-- waits in the placement queue -/
  | queued
  | resident
  /-- a pre-emption is pending -/
  | stopping
  /-- its state is in an image -/
  | saved
  /-- restored: waits in the placement queue for dies of the mask -/
  | restoring (mask : Nat)
  | retired
  deriving DecidableEq, Repr

/-- Why a pending pre-emption was asked for (R347, R351, R373). -/
inductive StopCause where
  | image (gimg gasid : Nat) | move (mask gimg gasid : Nat) | discard | debug
  deriving DecidableEq, Repr

/-- A gang. -/
structure Gang where
  key    : Nat
  grid   : Nat
  /-- %gang -/
  index  : Nat
  teams  : List Nat
  status : GangStatus
  cause  : StopCause
  /-- EPOCH of its next image: its seal count from 1; a restore raises it (R349, R350) -/
  epoch  : Nat
  die    : Nat
  /-- first core -/
  core   : Nat
  /-- halted by the debug module: its state stays on its cores (R373) -/
  halted : Bool
  /-- the key of its context is retired: no image of it restores (R356) -/
  keyGone : Bool
  deriving DecidableEq, Repr

/-- Part of a frame's room: die, first 128-byte line of the die's memory, lines. -/
structure Chunk where
  die   : Nat
  line  : Nat
  lines : Nat
  deriving DecidableEq, Repr

/-- Who waits for a grid's end (R244, R323). -/
inductive GridOwner where
  | command (q k id : Nat)
  | join (key : Nat)
  deriving DecidableEq, Repr

/-- A grid (R15, R225). -/
structure Grid where
  key     : Nat
  vf      : Nat
  /-- %grid -/
  id      : Nat
  asid    : Nat
  desc    : KDesc
  owner   : GridOwner
  band    : Nat
  spawn   : Nat
  nextTeam : Nat
  nextGang : Nat
  priv    : Nat
  /-- GLB heap: base address in the window and size -/
  gbase   : Nat
  gsize   : Nat
  /-- the lines that back the GLB heap -/
  gplace  : List Chunk
  csize   : Nat
  /-- CMN heaps: die, base and bytes of each run that a heap takes of the slice -/
  cbase   : List (Nat × Nat × Nat)
  /-- blocks allocated: 0 for GLB or die + 1 for CMN, address, size -/
  blocks  : List (Nat × Nat × Nat)
  /-- error code with which it ends early (Table 20.5) -/
  endCode : Option Nat
  /-- teams that are made at its launch, and decrements of its join counter that are still to come (R244) -/
  first   : Nat
  joins   : Nat
  ended   : Bool
  deriving DecidableEq, Repr

/-! ## Contexts -/

/-- A frame of a context's pool and its record (R336, R337). -/
structure FrameRec where
  lfn      : Nat
  cc       : Nat
  keyid    : Nat
  fmt      : Nat
  geom     : Nat
  mt       : Nat
  home     : Nat
  tbl      : Bool
  /-- 4 KiB frames of the page through which it was first reached: 1, 16, 512 or 262,144 (R302, R303, R336) -/
  pages    : Nat
  place    : List Chunk
  measured : Bool
  /-- virtual page of the one leaf of a measured frame (R371) -/
  leaf     : Option Nat
  /-- counted accesses of the window, by die (R304) -/
  counts   : List (Nat × Nat)
  /-- window number of its last re-home -/
  moved    : Option Nat
  deriving DecidableEq, Repr

/-- A sealed notice (R361). -/
structure Notice where
  number : Nat
  die    : Nat
  cox    : Nat
  synt   : Nat
  lost   : Nat
  deriving DecidableEq, Repr

/-- One lane record or engine record before it is written (Table 21.3). -/
structure FaultRec where
  gid    : Option Nat
  active : Nat
  parked : Nat
  reconv : Nat
  team   : Nat
  group  : Nat
  addr   : Int
  pc     : Nat
  cls    : Nat
  sub    : Nat
  lane   : Nat
  nested : Bool
  repl   : Bool
  src    : Nat
  info   : Nat
  level  : Nat
  cox    : Nat
  synt   : Nat
  die    : Nat
  /-- the team whose sequencer raised it -/
  seqOf  : Option Nat
  deriving DecidableEq, Repr

/-- A context (R22, R353 to R356). -/
structure Context where
  asid     : Nat
  tag      : Nat
  keyid    : Nat
  vf       : Nat
  live     : Bool
  pool     : Nat
  root     : Nat
  measured : Bool
  /-- M of R370, once SEAL_CODE has come -/
  measurement : Option Nat
  /-- the context key CK -/
  ck       : Nat
  /-- the selective stream bound to it -/
  stream   : Option Nat
  fqAddr   : Nat
  fqLog2   : Nat
  seq      : Nat
  pending  : List FaultRec
  svcr     : Nat
  trvec    : DWord
  /-- event counts of Table 11.6; 0 is %insret -/
  counts   : List (Nat × Nat)
  notices  : List Notice
  noticeNo : Nat
  noticeDropped : Nat
  frames   : List FrameRec
  /-- seat 1 takes no record of its queues (R388) -/
  hold     : Bool
  deriving DecidableEq, Repr

/-! ## Virtual functions and queues -/

/-- A command that seat 1 has taken (R323). -/
inductive CmdStatus where
  /-- taken and not checked -/
  | taken
  /-- checked: it waits for its FENCE -/
  | checked
  /-- it waits for its WTL, whose ERR was `err0` as the wait began -/
  | waiting (err0 : Bool)
  /-- its grid is made -/
  | created (grid : Nat)
  /-- its seed gang is in the placement queue -/
  | accepted (grid : Nat)
  /-- finished, with its error code or 0 -/
  | finished (code : Nat)
  deriving DecidableEq, Repr

/-- A command: its number on the timeline, its record, its state. -/
structure Cmd where
  k      : Nat
  record : Nat
  /-- the host has parsed it for seat 1 (Table 20.10) -/
  parsed : Bool
  status : CmdStatus
  /-- the context to which its queue was bound, and the queue's timeline, as it was taken (R317, R320) -/
  asid   : Nat
  qtl    : DWord
  /-- tells it from a command of the same number on another timeline of the queue (R320) -/
  id     : Nat
  deriving DecidableEq, Repr

/-- A command queue (Table 20.2). -/
structure CQueue where
  q     : Nat
  qbase : DWord
  en    : Bool
  log2  : Nat
  tail  : Word
  head  : Word
  qtl   : DWord
  qsig  : DWord
  qstat : DWord
  asid  : Nat
  /-- number of the last command taken -/
  issued : Nat
  cmds  : List Cmd
  deriving DecidableEq, Repr

/-- A host-assisted duty request that waits for its reply (R332). -/
structure DutyReq where
  ix      : Nat
  duty    : Nat
  posted  : Nat
  timedOut : Bool
  /-- what the request concerns: a gang, a context, a die -/
  subject : Nat
  extra   : Nat
  /-- the fields that Table 20.10 gives the host (log 66) -/
  body    : List Nat
  deriving DecidableEq, Repr

/-- A 16-byte summary of the operator error log (R343). -/
structure Summary where
  cox  : Nat
  asid : Nat
  cls  : Nat
  kind : Nat
  die  : Nat
  deriving DecidableEq, Repr

/-- A partition (Table 24.1), by die. -/
structure Partition where
  quads   : List (Nat × Nat)
  memory  : List (Nat × Nat)
  commons : List (Nat × Nat)
  deriving DecidableEq, Repr

/-- A virtual function (Tables 20.2, 24.1, 26.1). -/
structure VFunc where
  vf      : Nat
  /-- %pmask in force; unlisted bits allow -/
  pmask   : Byte
  duty    : Byte
  part    : Partition
  queues  : List CQueue
  /-- keys of the gangs that wait for placement (R292) -/
  placement : List Nat
  nextGrid : Nat
  /-- CNTSEL: 0 for the OPR copy, stream + 1 for a stream's (R405) -/
  cntsel  : List (Nat × Nat)
  dencnt  : Word
  denlast : Word
  errlog  : List Summary
  duties  : List DutyReq
  nextDuty : Nat
  deriving DecidableEq, Repr

/-! ## Dies -/

/-- A translation held by a die's shared TLB: the leaf that maps one 4 KiB page (R339). -/
structure TlbEnt where
  asid  : Nat
  vpn   : Nat
  /-- logical frame of this 4 KiB -/
  lfn   : Nat
  leaf  : DWord
  level : Nat
  deriving DecidableEq, Repr

/-- A range of physical frames in quarantine, with its frontier (R391). -/
structure QRange where
  first    : Nat
  last     : Nat
  frontier : Nat
  /-- key identifiers that become free with it -/
  keyids   : List Nat
  /-- function whose context departed; none for the range of a boot -/
  vf       : Option Nat
  /-- the host has replied for it (R392) -/
  cleared  : Bool
  /-- frames between its frontier and its end that are none of its own, as runs: first, and one past the last (R391) -/
  holes    : List (Nat × Nat)
  deriving DecidableEq, Repr

/-- A die: M0 to M3 are 0 to 3, B0 to B3 are 4 to 7, X is 8. -/
structure Die where
  alive  : Bool
  /-- reset in progress (R359, R402) -/
  resetting : Bool
  /-- a reset waits for the images of gangs on the die (R359 step 1) -/
  resetWait : Bool
  cyc    : Nat
  /-- part of a die cycle, in 1/200 (log 12) -/
  frac   : Nat
  clk    : Nat
  ceil   : Nat
  /-- a decided clock that has not taken effect (R395) -/
  newClk : Option Nat
  /-- sensors of the die and of its memory, in °C × 16 -/
  temp   : Int
  mtemp  : Int
  throt  : Bool
  throtClk : Nat
  /-- the sensor of the die, or of its memory, has reached its limit and not yet read 3 °C below it (R398) -/
  hot    : Bool
  mhot   : Bool
  fast   : Bool
  lag    : Bool
  /-- Table 24.3 -/
  mce    : Nat
  mue    : Nat
  sce    : Nat
  sue    : Nat
  lrt    : Nat
  ppc    : Nat
  /-- the 2^44 ticks before whose number every patrol pass is over (R384) -/
  patrolFor : Nat
  llc    : Nat
  /-- the shared TLB, latest first -/
  tlb    : List TlbEnt
  /-- the cores' L1 TLBs: core and entry, latest first (R339) -/
  l1     : List (Nat × TlbEnt)
  /-- walks that wait or run: context, virtual page (R339) -/
  walks  : List (Nat × Nat)
  /-- faults that walks ended in, until the waiting instruction meets them: context, virtual page, SUB, LEVEL -/
  wfaults : List (Nat × Nat × Nat × Nat)
  quar   : List QRange
  /-- frames that the patrol has read in this pass: context, frame (R384) -/
  patrolled : List (Nat × Nat)
  /-- teams in the enqueue queue, by gang (R223) -/
  enq    : List Nat
  /-- kick queue entries (R186) -/
  kicks  : List KickEnt
  deriving DecidableEq, Repr

/-! ## Copies and requests -/

/-- Consecutive bytes of a copy: keys of source and destination, bytes or elements, the source's address, and the
format and geometry of its page when elements are decoded. -/
structure Piece where
  src  : Nat
  dst  : Nat
  n    : Nat
  va   : Nat
  fmt  : Nat
  geom : Nat
  deriving DecidableEq, Repr

/-- A transfer operation (R179), or one row of a bulk request. -/
structure Transfer where
  id     : Nat
  /-- the group whose execution issued it -/
  gid    : Nat
  tid    : Nat
  /-- its pieces, in ascending destination -/
  pieces : List Piece
  /-- what a per-lane copy has read, by piece: each byte and whether it is poisoned (R154, R260) -/
  data   : List (List (Byte × Bool))
  /-- destination is scratch -/
  scr    : Bool
  /-- key of its barrier -/
  bar    : Option Nat
  /-- bytes that it counts -/
  bytes  : Nat
  orphan : Bool
  /-- the request it belongs to -/
  req    : Option Nat
  /-- byte offset of the row within the request -/
  row    : Nat
  deriving DecidableEq, Repr

/-- An accepted bulk request (R187). -/
structure Request where
  id    : Nat
  tid   : Nat
  die   : Nat
  /-- scratch address of its record -/
  addr  : Nat
  bar   : Option Nat
  /-- the tile that it fills (`true`) or drains -/
  tile  : Option (Nat × Bool)
  /-- sealed mode: 1 reads, 2 writes through a sealed leaf -/
  sealing : Nat
  dfmt  : Nat
  pln   : Nat
  rz    : Bool
  /-- class of its failure and the failing offset -/
  fail  : Option (Nat × Nat)
  /-- SUB, LEVEL and ADDR of the engine record of that failure, which goes out as it finishes (R189) -/
  due   : Option (Nat × Nat × Int)
  fmtFlag : Bool
  /-- bytes counted on the barrier so far -/
  counted : Nat
  /-- bytes it counts in all -/
  total : Nat
  orphan : Bool
  /-- rows not landed -/
  rows  : Nat
  deriving DecidableEq, Repr

/-- A network copy (R196). -/
structure NCopy where
  id     : Nat
  asid   : Nat
  grid   : Nat
  pieces : List Piece
  len    : Nat
  /-- key of its timeline -/
  tl     : Nat
  sealing : Bool
  number : Option Nat
  /-- first failing address of a copy that fails -/
  failed : Option Nat
  finished : Bool
  deriving DecidableEq, Repr

/-! ## The regatta plane -/

/-- Who contends (R231, R293, R366). -/
inductive Contender where
  /-- a lane of a group, with the destinations of its `contend` -/
  | thread (gid lane : Nat) (sync : Bool) (d : Reg) (p : PredIx)
  /-- a die's work distributor for a gang -/
  | placement (gang : Nat)
  /-- seat 5 or a die for a stream's rekey -/
  | rekey (stream : Nat)
  deriving DecidableEq, Repr

/-- A registered contender. -/
structure Entry where
  who  : Contender
  ident : Nat
  cid  : Nat
  key  : Nat
  die  : Nat
  core : Nat
  slot : Nat
  lane : Nat
  deriving DecidableEq, Repr

/-- A heat that runs: its entrants and the dies that failed in it before they withdrew (R233). -/
structure HeatRun where
  entrants : List Entry
  ident    : Nat
  end_     : Nat
  void     : Bool
  /-- contenders that drove at bit time 0 identifiers that lose; they wait on (R231, R233) -/
  losers   : List Entry
  deriving DecidableEq, Repr

/-- A regatta lane (R230). -/
structure RLane where
  w       : Nat
  waiting : List Entry
  run     : Option HeatRun
  deriving DecidableEq, Repr

/-! ## Firmware, sessions, streams -/

/-- A RISC-V core (R93, R314). -/
structure RvCore where
  x      : List (Nat × DWord)
  /-- f0 to f31 (RV64GC) -/
  f      : List (Nat × DWord)
  /-- every other control and status register, by number: fcsr, the supervisor registers, the interrupt file's
  (Table 20.1; log 9); unlisted reads 0 -/
  csr    : List (Nat × DWord)
  pc     : DWord
  mepc   : DWord
  mcause : DWord
  mtvec  : DWord
  mstatus : DWord
  /-- privilege mode: 0 U, 1 S, 3 M -/
  mode   : Nat
  asid   : Nat
  busy   : Bool
  /-- key of the join counter of the task it runs (R245) -/
  join   : Option Nat
  /-- stalled in `wrs` with this reservation key (R326) -/
  reserve : Option Nat
  stalled : Bool
  /-- interrupt identities pending -/
  ints   : List Nat
  /-- identities that its interrupt file enables -/
  intEn  : List Nat
  halted : Bool
  deriving DecidableEq, Repr

/-- An SPDM secured session (R368). -/
structure Session where
  id      : Nat
  finished : Bool
  /-- its export master secret, an opaque number -/
  secret  : Nat
  keyGen  : Nat
  /-- streams whose keys were set in it -/
  streams : List Nat
  /-- the peer port whose link the session keys (Table 22.6) -/
  peer    : Option Nat
  /-- the context bound in it -/
  asid    : Option Nat
  deriving DecidableEq, Repr

/-- What seat 6 answers (R355, R361, R368 to R370). A notice goes out sealed: its number, ciphertext and tag. -/
inductive Reply where
  | version | capabilities | algorithms | digests (d : Nat) | certificate (c : Nat)
  | challengeAuth (sig : Nat) | measurements (blocks : List Nat) (sig : Nat)
  | keyExchangeRsp (sess : Nat) | finishRsp | heartbeatAck | keyUpdateAck | endSessionAck | ideKmAck
  | bound (asid keyid vf tag : Nat) (measured : Bool) | departed (asid : Nat) | sealedCode (m : Nat)
  | notices (ns : List (Nat × Nat × Nat)) (dropped : Nat)
  | counts (asid measurement : Nat) (cs : List Nat) (cox synt sig : Nat)
  | errorUnsupported | errorSessionLimit | errorInvalid
  deriving DecidableEq, Repr

/-- An encrypted link stream (R365). -/
structure LinkStream where
  id       : Nat
  keyed    : Bool
  gen      : Nat
  blocks   : Nat
  limit    : Nat
  /-- a rekey heat or drain is running, since this cox -/
  drain    : Option Nat
  draining : Bool
  deriving DecidableEq, Repr

/-- The new value of a replicated object (R330): a function's placement mask, the binding of a queue (`asid` 0: not
bound), a context's entry in the context table. -/
inductive Replica where
  | mask (m : Byte)
  | binding (q asid : Nat)
  | context (asid : Nat) (live : Bool)
  deriving DecidableEq, Repr

/-- A replicated object's update on its way (R330): the message to each receiver carries the object, its value and the
home's count of updates to that receiver. -/
structure Update where
  home : Nat
  vf   : Nat
  obj  : Replica
  /-- receiver and SEQ of its message -/
  seqs : List (Nat × Nat)
  acks : List Nat
  deriving DecidableEq, Repr

/-- A request that waits for backing at seat 3 (R375): the fields of the entry that first reached the frame. -/
structure BackReq where
  asid : Nat
  lfn  : Nat
  /-- virtual page of the access that first reached it -/
  vpn  : Nat
  die  : Nat
  cox  : Nat
  cc   : Nat
  fmt  : Nat
  geom : Nat
  home : Nat
  tbl  : Bool
  /-- 4 KiB frames of the entry's page -/
  pages : Nat
  /-- a walk reads it as a table (R336, R337) -/
  walk : Bool
  /-- a step of a seat or of a RISC-V core that is put off until the frame is backed -/
  seat : Bool
  deriving DecidableEq, Repr

/-- A re-home on its way (R305): context, first frame of the page and its 4 KiB frames, target die. -/
structure Rehome where
  asid : Nat
  lfn  : Nat
  pages : Nat
  die  : Nat
  deriving DecidableEq, Repr

/-- A piece of the tensor table, or the box of a stored shard (R385, R387). -/
structure CkPiece where
  tid    : Nat
  /-- number of dimensions -/
  dims   : Nat
  ety    : Nat
  /-- ESZ as the entry has it -/
  eszc   : Nat
  /-- element bytes -/
  esz    : Nat
  narrow : Nat
  rz     : Bool
  lo     : List Nat
  ext    : List Nat
  addr   : Nat
  stride : List Int
  deriving DecidableEq, Repr

/-- A stored shard (R387). -/
structure CkShard where
  box   : CkPiece
  off   : Nat
  len   : Nat
  npois : Nat
  tag   : Nat
  deriving DecidableEq, Repr

/-- A segment of a checkpoint: its offset in the stream, its length and tag, and the ciphertext that is written. -/
structure CkSeg where
  off  : Nat
  len  : Nat
  tag  : Nat
  data : Nat
  deriving DecidableEq, Repr

/-- The storage that an operation uses: ports, namespace, first LBA. -/
structure CkRegion where
  ports : List Nat
  ns    : Nat
  lba   : Nat
  deriving DecidableEq, Repr

/-- Where a checkpoint operation stands (R388 to R390). -/
inductive CkPhase where
  /-- segment `i` is written next -/
  | write (i : Nat)
  /-- segment `i` is read back next: the chain so far, and whether every tag has agreed -/
  | back (i chain : Nat) (ok : Bool)
  /-- the host writes what it was handed and returns it (R390) -/
  | host
  /-- segment `i` of a stored checkpoint is checked next -/
  | check (i chain : Nat) (ok : Bool)
  /-- shard `j` is copied next into piece `i` -/
  | copy (i j : Nat)
  deriving DecidableEq, Repr

/-- An operation of CKCMD that has not ended: OP and WHOLE, its context, key and commit block, its segments, the pieces of
the target and the shards of the store, and how many elements it has copied. -/
structure CkOp where
  op     : Nat
  whole  : Bool
  asid   : Nat
  region : CkRegion
  key    : Nat
  commit : Nat
  segs   : List CkSeg
  pieces : List CkPiece
  shards : List CkShard
  copied : Nat
  phase  : CkPhase
  deriving DecidableEq, Repr

/-- An operation of PCMD that has not ended: its OP, and what was staged as it was written (R377). -/
structure PartOp where
  op     : Nat
  psel   : Nat
  staged : Partition
  llc    : List (Nat × Nat)
  deriving DecidableEq, Repr

/-- Registers of BAR 2 of the physical function (Tables 21.5, 22.2, 24.1, 24.5, 24.8, 25.2). -/
structure PfRegs where
  gsel : DWord
  gimg : DWord
  gbusy : Bool
  gcode : Nat
  gsize : Nat
  gasid : Nat
  cpool : DWord
  croot : DWord
  cfq   : DWord
  ccode : Nat
  casid : Nat
  ckeyid : Nat
  psel  : Nat
  staged : Partition
  llc   : List (Nat × Nat)
  pcode : Nat
  /-- BUSY of PSTAT -/
  pbusy : Option PartOp
  ckasid : Nat
  ckid  : DWord
  ckport : Nat
  ckns  : Word
  cklba : DWord
  cknlb : DWord
  ckcode : Nat
  ckpart : Bool
  ckbytes : Nat
  /-- BUSY of CKSTAT -/
  ckwait : Option CkOp
  ckunc : Nat
  scrate : Nat
  pwrcap : Nat
  pwr   : Nat
  /-- module power in the windows of the last 1 ms, latest first (R394) -/
  pwrs  : List Nat
  dencnt : Word
  denlast : Word
  deriving DecidableEq, Repr

/-- Bring-up and recovery (Tables 25.4, 25.5). -/
structure Boot where
  /-- last stage completed -/
  stage    : Nat
  fail     : Nat
  scrubbing : Bool
  recovery : Bool
  powered  : Bool
  buffer   : List Byte
  begun    : Bool
  overflow : Bool
  rcode    : Nat
  received : Nat
  /-- the held firmware image -/
  image    : List Byte
  /-- digest chain over the applied configuration records (Table 22.8) -/
  records  : List Nat
  fenced   : List FenceUnit
  /-- thresholds of corrected errors that records set, by die (R384) -/
  thresholds : List (Nat × Nat)
  /-- the certificate chain in slot 0, as a record keeps it (Table 22.7) -/
  certs    : Option Nat
  debugOpen : Bool
  /-- the debug module halts a gang at a breakpoint (R373) -/
  haltBkpt : Bool
  deriving DecidableEq, Repr

/-- The execution in progress: a group, the lanes that issue, the word's address and what follows it (R59). -/
structure Cur where
  gid   : Nat
  lanes : List Nat
  pc    : Nat
  /-- address after the word and its literal -/
  next  : Nat
  first : Bool
  last  : Bool
  deriving DecidableEq, Repr

/-- A step that the device takes by itself once it is due: each is one of the device steps of `Instr`. -/
inductive Due where
  | doorbell (m : Mail)
  /-- the message at the head of a mailbox -/
  | mail (b : Nat)
  | update (home inst : Nat)
  | commandTake
  /-- the work on a queue's active command -/
  | command (vf q : Nat)
  | commandAccept (vf q : Nat)
  | commandFinish (vf q : Nat)
  | gangPlacement (vf : Nat)
  | dutyTimeout (vf ix : Nat)
  | heatStart (lane : Nat)
  | heatResult (lane : Nat)
  | ncopyAccept (n : Nat)
  | ncopyFinish (n : Nat)
  /-- a long-latency operation at its banks: a store or an encoding -/
  | bankStore (gid op : Nat)
  | bankRmw (gid op : Nat)
  | flagCompletion (gid op : Nat)
  | sleepExpiry (gid lane : Nat)
  | exitTakesEffect (gid lane : Nat)
  | progressRule (gid : Nat)
  | ageLimit (gid : Nat)
  | wordLimit (gid : Nat)
  | secondLimit (gid : Nat)
  | handlerEntry (gid : Nat)
  | migrationResume (gid : Nat)
  | pontoonRetry (die : Nat)
  | transferLanding (x : Nat)
  | requestAccept (die core : Nat)
  | requestStatus (r : Nat)
  | recordWrite (asid : Nat)
  | teamRetirement (tid : Nat)
  | gridEndFlush (grid : Nat)
  | imageSealed (gang : Nat)
  | walk (die : Nat)
  | backing
  | rehomeWindow
  | rehomeComplete (asid lfn : Nat)
  | scrub (die : Nat)
  /-- the patrol reads a frame of a die -/
  | patrol (die asid lfn : Nat)
  | clock (die : Nat)
  | dieReset (die : Nat)
  | trip (die : Nat)
  | moduleTrip
  /-- the work on a PCMD, or on a CKCMD -/
  | partition
  | checkpoint
  | easyAll (stream : Nat)
  | easyDrained (stream : Nat)
  | easyTimeout (stream : Nat)
  deriving DecidableEq, Repr

/-- Which agent moves next (log 1). -/
inductive Turn where
  /-- a group uses an issue slot (R295, R296) -/
  | issue (gid : Nat)
  /-- the slot of a group goes on with the block of a lane that stands at the same address (R296) -/
  | also (gid lane pc : Nat)
  /-- the threads of a group that have arrived at a header enter it; no slot is used (R65, R295) -/
  | enter (gid pc : Nat)
  /-- a thread has come to a word that may wait: it begins to wait there, or stands ready (R73, R140, R295) -/
  | attempt (gid lane : Nat)
  /-- a core's slots of one die cycle that are left, and the groups that it has served in it (R295); 6: the die cycle has
  not begun, 5: headers have been entered -/
  | slots (die core cycle left : Nat) (served : List Nat)
  /-- a team's sequencer issues its next command -/
  | sequencer (tid : Nat)
  /-- a RISC-V core executes its next word -/
  | core (c : Nat)
  /-- a step that the device takes by itself -/
  | due (d : Due)
  /-- a step of the outside world, or any other that is to come now -/
  | event (i : Instr)
  /-- the host or a peer posts a write of `n` bytes of `v` to a frame of a context's host pages (R249, R272) -/
  | host (asid lfn off n v : Nat)
  /-- the peer of a scale-out port agrees a key by MKA (Table 22.6) -/
  | mka (port : Nat)
  /-- one cox tick passes -/
  | tick
  deriving DecidableEq, Repr

/-! ## Errors, dumps and consoles -/

/-- An error that stands in a 32-byte sector (memory key / 32) until a read meets it (R362, R382). -/
structure Upset where
  sector : Nat
  /-- corrected by the code, or not -/
  corrected : Bool
  deriving DecidableEq, Repr

/-- What a serial console emits (R373). -/
inductive ConsoleOut where
  /-- an operator summary of R343, with its function -/
  | summary (vf : Nat) (x : Summary)
  /-- a boot progress code: the stage completed, or the failure code -/
  | progress (stage fail : Nat)
  deriving DecidableEq, Repr

/-- A place of a crash dump (R374): what it holds as stored, or an owner's place marked by ASID and length only. -/
inductive DumpPlace where
  /-- a frame: its context, number, and its bytes as stored -/
  | frame (asid lfn : Nat) (bytes : List Nat)
  /-- the groups of a gang that stood on the die -/
  | gang (asid : Nat) (gs : List Group)
  /-- fault records of a context that wait to be written -/
  | records (asid : Nat) (rs : List FaultRec)
  /-- a RISC-V core of the firmware -/
  | core (c : Nat) (r : RvCore)
  /-- an OWN place left out: its ASID and length in bytes -/
  | left (asid len : Nat)
  deriving DecidableEq, Repr

/-- A crash dump: the die, and its places. -/
structure Dump where
  die    : Nat
  places : List DumpPlace
  deriving DecidableEq, Repr

/-! ## The state -/

/-- The whole machine. -/
structure State where
  mem      : List Host.Cell
  /-- poisoned 32-byte sectors, by memory key / 32 (R160) -/
  poison   : List Nat
  /-- empty scratch lines, by memory key / 128 (R177) -/
  empties  : List Nat
  /-- barriers, by memory key, whose phase is tested as the die cycle ends (R183) -/
  tests    : List Nat
  /-- ASID that last wrote a commons line, by memory key / 128; unlisted is none (R379) -/
  cmnTags  : List (Nat × Nat)
  /-- versions of 64-byte lines of class 2, by memory key / 64 (R364) -/
  versions : List (Nat × Nat)
  groups   : List Group
  teams    : List Team
  gangs    : List Gang
  grids    : List Grid
  contexts : List Context
  funcs    : List VFunc
  dies     : List Die
  rv       : List (Nat × RvCore)
  transfers : List Transfer
  requests : List Request
  ncopies  : List NCopy
  rlanes   : List RLane
  /-- inbound mailboxes of seats 1 to 8, and of instance i at 16 + i (R328) -/
  mail     : List (Nat × List Mail)
  /-- outbound buffers: messages whose doorbell has not been rung with success (R328) -/
  outbox   : List Mail
  /-- messages that a sender has written to a receiver: sender × 64 + receiver, numbered as the mailboxes (Table 20.8) -/
  mailSeq  : List (Nat × Nat)
  /-- interrupt bit of each seat's core -/
  mailInt  : List Nat
  /-- what the doorbell of each outbound buffer reads back: sender × 64 + receiver, numbered as the mailboxes (R328) -/
  doorbell : List (Nat × Nat)
  sessions : List Session
  /-- answers of seat 6, latest first -/
  replies  : List Reply
  streams  : List LinkStream
  updates  : List Update
  backing  : List BackReq
  rehomes  : List Rehome
  /-- regatta-plane faults recorded (R233) -/
  planeFaults : Nat
  /-- key identifiers retired and not free (R356) -/
  retired  : List Nat
  liveInst : List Nat
  /-- updates sent by each home to each instance: home × 16 + instance (R330) -/
  instSeq  : List (Nat × Nat)
  /-- MSI-X messages sent, latest first: function and vector (R325) -/
  msix     : List (Nat × Nat)
  /-- value of the last register window read that completed -/
  lastRead : DWord
  /-- the images sealed: gang key, epoch, the state sealed (R349) -/
  images   : List (Nat × Nat × List Group × List Team)
  /-- dumps of fatal errors, latest first (R374) -/
  dumps    : List Dump
  /-- what the serial consoles have emitted, latest first (R373) -/
  console  : List ConsoleOut
  /-- errors that stand in memory and SRAM and that no read has met (R362, R382) -/
  upsets   : List Upset
  pf       : PfRegs
  boot     : Boot
  /-- ticks of X's source since cold boot (R308) -/
  cox      : Nat
  synt     : Nat
  disciplined : Bool
  /-- remaining offset that slewing absorbs, in ns (R235) -/
  syntOff  : Int
  /-- grandmaster accuracy in ns (R235) -/
  syntAcc  : Nat
  /-- rank of the head of issue stamps -/
  stamp    : Nat
  /-- round-robin pointers of seat 1: band, last function × 64 + queue (R319) -/
  robin    : List (Nat × Nat)
  /-- next identifier of a record -/
  nextId   : Nat
  /-- where the next free value is taken (log 5) -/
  fresh    : Nat
  /-- reservations, by the key of their eight bytes, that the step under way has written into (R271) -/
  written  : List Nat
  /-- turns that are already decided (log 1) -/
  agenda   : List Turn
  cur      : Option Cur
  /-- the sequencer command in progress: its team and the address after it -/
  seqCur   : Option (Nat × Nat)
  /-- the RISC-V core whose word is in progress -/
  rvCur    : Option Nat
  deriving DecidableEq, Repr

/-! ## Cold boot -/

/-- No partition. -/
def Partition.none : Partition := ⟨[], [], []⟩

/-- A virtual function after module reset (Table 20.2). -/
def VFunc.reset (vf : Nat) : VFunc :=
  { vf := vf, pmask := 0xFF, duty := 0, part := Partition.none, queues := [], placement := [], nextGrid := 0,
    cntsel := [], dencnt := 0, denlast := 0, errlog := [], duties := [], nextDuty := 0 }

/-- A die before stage 3 (Tables 24.3, 25.2, 25.4). -/
def Die.reset : Die :=
  { alive := false, resetting := false, resetWait := false, cyc := 0, frac := 0, clk := 1100, ceil := 1100, newClk := none, temp := 0, mtemp := 0,
    throt := false, throtClk := 1100, hot := false, mhot := false, fast := false, lag := false, mce := 0, mue := 0, sce := 0, sue := 0, lrt := 0,
    ppc := 0, patrolFor := 0, llc := 0, tlb := [], l1 := [], walks := [], wfaults := [], quar := [], patrolled := [], enq := [], kicks := [] }

/-- A regatta lane after module reset: w is 15 (Table 11.3). -/
def RLane.reset : RLane := ⟨15, [], none⟩

/-- A RISC-V core at start (log 14). -/
def RvCore.reset : RvCore :=
  { x := [], f := [], csr := [], pc := 0, mepc := 0, mcause := 0, mtvec := 0, mstatus := 0, mode := 3, asid := 0, busy := false, join := none, reserve := none,
    stalled := false, ints := [], intEn := [], halted := false }

/-- BAR 2 at cold boot. -/
def PfRegs.reset : PfRegs :=
  { gsel := 0, gimg := 0, gbusy := false, gcode := 0, gsize := 0, gasid := 0, cpool := 0, croot := 0, cfq := 0,
    ccode := 0, casid := 0, ckeyid := 0, psel := 0, staged := Partition.none, llc := [], pcode := 0, pbusy := none, ckasid := 0,
    ckid := 0, ckport := 0, ckns := 0, cklba := 0, cknlb := 0, ckcode := 0, ckpart := false, ckbytes := 0, ckwait := none, ckunc := 0,
    scrate := 10, pwrcap := 2400, pwr := 0, pwrs := [], dencnt := 0, denlast := 0 }

/-- The module as a cold boot starts: stage 0, host port 0 in recovery mode (R399). -/
def Boot.reset : Boot :=
  { stage := 0, fail := 0, scrubbing := false, recovery := true, powered := true, buffer := [], begun := false,
    overflow := false, rcode := 0, received := 0, image := [], records := [], fenced := [], thresholds := [], certs := none, debugOpen := false,
    haltBkpt := false }

/-- The machine right after a cold boot has reached stage 0 (R399). -/
def State.reset : State :=
  { mem := [], poison := [], empties := [], tests := [], cmnTags := [], versions := [], groups := [], teams := [], gangs := [], grids := [],
    contexts := [], funcs := (List.range 16).map VFunc.reset, dies := List.replicate 9 Die.reset, rv := [],
    transfers := [], requests := [], ncopies := [], rlanes := List.replicate 16 RLane.reset, mail := [], outbox := [], mailSeq := [], mailInt := [],
    doorbell := [], sessions := [], replies := [], streams := [], updates := [], backing := [], rehomes := [],
    planeFaults := 0, retired := [], liveInst := [], instSeq := [], msix := [], lastRead := 0, images := [],
    dumps := [], console := [], upsets := [], pf := PfRegs.reset, boot := Boot.reset, cox := 0, synt := 0, disciplined := false, syntOff := 0,
    syntAcc := 0, stamp := 0, robin := [], nextId := 1, fresh := 0, written := [], agenda := [], cur := none,
    seqCur := none, rvCur := none }

end Sys2Proof.Machine
end

