-- ==== Sys2Proof/Machine/Ops.lean ====
section
/-!
DEFINITION. The named operations that the meanings share: finding and updating a record, memory keys, reading and
writing memory, the lanes of an execution, taking a fault (R34, R90, R241, R313), entering and leaving the handler,
address translation at an access (R170, R335 to R340), fetching.
-/

namespace Sys2Proof.Machine

/-! ## Records -/

/-- Apply `f` to the entries that meet `p`. -/
def modBy {α : Type} (p : α → Bool) (f : α → α) (l : List α) : List α := l.map fun x => if p x then f x else x

/-- The group with identifier `gid`. -/
def getGroup (s : State) (gid : Nat) : Option Group := s.groups.find? (·.gid == gid)
/-- Update a group. -/
def modGroup (s : State) (gid : Nat) (f : Group → Group) : State :=
  { s with groups := modBy (·.gid == gid) f s.groups }
/-- The thread of a lane of a group. -/
def laneThread (g : Group) (lane : Nat) : Option Thread := g.threads.find? (·.lane == lane)
/-- Update a thread of a group. -/
def groupLane (g : Group) (lane : Nat) (f : Thread → Thread) : Group :=
  { g with threads := modBy (·.lane == lane) f g.threads }
/-- Update a thread. -/
def modLane (s : State) (gid lane : Nat) (f : Thread → Thread) : State :=
  modGroup s gid fun g => groupLane g lane f
/-- The thread of a lane. -/
def getLane (s : State) (gid lane : Nat) : Option Thread := (getGroup s gid).bind (laneThread · lane)

/-- The team with key `tid`. -/
def getTeam (s : State) (tid : Nat) : Option Team := s.teams.find? (·.tid == tid)
/-- Update a team. -/
def modTeam (s : State) (tid : Nat) (f : Team → Team) : State := { s with teams := modBy (·.tid == tid) f s.teams }
/-- The gang with a key. -/
def getGang (s : State) (k : Nat) : Option Gang := s.gangs.find? (·.key == k)
/-- Update a gang. -/
def modGang (s : State) (k : Nat) (f : Gang → Gang) : State := { s with gangs := modBy (·.key == k) f s.gangs }
/-- The grid with a key. -/
def getGrid (s : State) (k : Nat) : Option Grid := s.grids.find? (·.key == k)
/-- Update a grid. -/
def modGrid (s : State) (k : Nat) (f : Grid → Grid) : State := { s with grids := modBy (·.key == k) f s.grids }
/-- The context with an address-space identifier. -/
def getCtx (s : State) (asid : Nat) : Option Context := s.contexts.find? (·.asid == asid)
/-- Update a context. -/
def modCtx (s : State) (asid : Nat) (f : Context → Context) : State :=
  { s with contexts := modBy (·.asid == asid) f s.contexts }
/-- Virtual function `vf`. -/
def getFunc (s : State) (vf : Nat) : Option VFunc := s.funcs.find? (·.vf == vf)
/-- Update a virtual function. -/
def modFunc (s : State) (vf : Nat) (f : VFunc → VFunc) : State := { s with funcs := modBy (·.vf == vf) f s.funcs }
/-- Die `d`. -/
def getDie (s : State) (d : Nat) : Die := (s.dies[d]?).getD Die.reset
/-- Update die `d`. -/
def modDie (s : State) (d : Nat) (f : Die → Die) : State := { s with dies := s.dies.modify d f }
/-- RISC-V core `c` (log 1: service cores are 0 to 31). -/
def getRv (s : State) (c : Nat) : RvCore := tget RvCore.reset s.rv c
/-- Write RISC-V core `c`. -/
def putRv (s : State) (c : Nat) (r : RvCore) : State := { s with rv := tput RvCore.reset s.rv c r }

/-- What an execution needs of its surroundings. -/
structure Env where
  group : Group
  team  : Team
  grid  : Grid
  ctx   : Context

/-- The surroundings of a group. -/
def env (s : State) (gid : Nat) : Option Env :=
  (getGroup s gid).bind fun g => (getTeam s g.tid).bind fun t => (getGrid s t.grid).bind fun r =>
    (getCtx s r.asid).map fun c => ⟨g, t, r, c⟩

/-! ## Registers -/

/-- V[n] of Table 2.7. -/
def rdReg (t : Thread) (n : Nat) : Word := tget 0 t.v n
/-- Write V[n]. -/
def wrReg (t : Thread) (n : Nat) (w : Word) : Thread := { t with v := tput 0 t.v n w }
/-- Write several registers, the later entries last. -/
def wrRegs (t : Thread) (rs : List (Nat × Word)) : Thread := rs.foldl (fun t r => wrReg t r.1 r.2) t
/-- V64[n] of Table 2.7 through a register reader. -/
def pairOf (rd : Nat → Word) (n : Nat) : Nat := (rd n).toNat + 2 ^ 32 * (rd (n + 1)).toNat
/-- V64[n] of a thread. -/
def rdPair (t : Thread) (n : Nat) : Nat := pairOf (rdReg t) n
/-- The two register writes that set V64[n]. -/
def pairRegs (n : Nat) (v : Nat) : List (Nat × Word) := [(n, BitVec.ofNat 32 v), (n + 1, BitVec.ofNat 32 (v / 2 ^ 32))]
/-- P[n]: p0 is always true (R17). -/
def rdPred (t : Thread) (n : PredIx) : Bool := n == 0 || t.p.getLsbD n.toNat
/-- Write P[n]: a write to p0 is discarded (R17). -/
def wrPred (t : Thread) (n : PredIx) (b : Bool) : Thread :=
  if n == 0 then t
  else
    let m : DWord := 1#64 <<< n.toNat
    { t with p := if b then t.p ||| m else t.p &&& ~~~m }
/-- The guard of an instruction in a lane (R78). -/
def guardOf (g : Guard) (t : Thread) : Bool := rdPred t g.p != g.neg
/-- Stream pattern register k. -/
def rdStream (t : Thread) (k : Nat) : StreamReg := tget StreamReg.unbound t.sp k
/-- Write stream pattern register k. -/
def wrStream (t : Thread) (k : Nat) (x : StreamReg) : Thread := { t with sp := tput StreamReg.unbound t.sp k x }
/-- S[n]. -/
def rdUniform (g : Group) (n : Nat) : Word := tget 0 g.u n
/-- Counter of flag n (R69). -/
def flagCount (g : Group) (n : Nat) : Nat := tget 0 g.flags n

/-- OR flags into %fpstat (R43, R127). -/
def orStat (t : Thread) (f : Word) : Thread := { t with fpstat := t.fpstat ||| f }

/-! ## Memory keys (log 4) -/

/-- The key of byte `off` of object `id` of kind `code`. -/
def memKey (code id off : Nat) : Nat := (code * 2 ^ 64 + id) * 2 ^ 64 + off
/-- A byte of a frame of a context's pool. -/
def keyGlb (asid lfn off : Nat) : Nat := memKey 1 asid (lfn * 4096 + off)
/-- A byte of the heap window of a context. -/
def keyHeap (asid va : Nat) : Nat := memKey 2 asid va
/-- A byte of the commons of a die. -/
def keyCmn (die off : Nat) : Nat := memKey 3 die off
/-- A byte of a team's scratch. -/
def keyScr (tid off : Nat) : Nat := memKey 4 tid off
/-- A byte of a thread's private memory. -/
def keyPriv (gid lane off : Nat) : Nat := memKey 5 (gid * 64 + lane) off
/-- A byte of a frame of a context's host aperture. -/
def keyHst (asid lfn off : Nat) : Nat := memKey 6 asid (lfn * 4096 + off)
/-- A byte of the register file of a lane: an error may stand there (R382); its values are the thread's. -/
def keyRegs (gid lane : Nat) : Nat := memKey 8 (gid * 64 + lane) 0
/-- A byte of a storage port. -/
def keyPort (port off : Nat) : Nat := memKey 7 port off

/-- Bytes lo to hi − 1 lie in a poisoned sector (R160). -/
def poisoned (s : State) (key n : Nat) : Bool := s.poison.any fun p => p * 32 < key + n && key < p * 32 + 32
/-- Write bytes: a whole sector written clears its poison (R160). -/
def putBytes (s : State) (key n v : Nat) : State :=
  { s with mem := memWrite s.mem key n v,
           poison := s.poison.filter fun p => !(key ≤ p * 32 && p * 32 + 32 ≤ key + n) }
/-- Read bytes. -/
def getBytes (s : State) (key n : Nat) : Nat := memRead s.mem key n
/-- Poison a sector. -/
def addPoison (s : State) (p : Nat) : State :=
  if s.poison.contains p then s else { s with poison := p :: s.poison }
/-- A scratch line is empty (R155). -/
def lineEmpty (s : State) (key n : Nat) : Option Nat :=
  s.empties.find? fun l => l * 128 < key + n && key < l * 128 + 128

/-! ## Time of a die -/

/-- `%cox` as die `d` reads it (R308). -/
def coxAt (s : State) (d : Nat) : Nat := if (getDie s d).lag then s.cox - 1 else s.cox

/-- The remaining backward offset of %synt, as a number of ns. -/
def errbOf (s : State) : Nat := if s.disciplined then s.syntAcc + 40 + s.syntOff.natAbs else 2 ^ 32 - 1

/-- The die cycle in which a core is granting slots, once it has begun (log 1). -/
def openCycle (s : State) (die core : Nat) : Option Nat :=
  s.agenda.findSome? fun t => match t with
    | .slots d c cycle left _ => if d == die && c == core && left ≤ 5 then some cycle else none
    | _ => none

/-- The die cycle in which a core stands. -/
def cycleNow (s : State) (die core : Nat) : Nat := (openCycle s die core).getD (getDie s die).cyc

/-! ## Kick queues (R186, R197) -/

/-- Kick entries of a core. -/
def coreKicks (d : Die) (core : Nat) : List KickEnt := d.kicks.filter (·.core == core)

/-- Restored kick entries of the teams that stand on a core: they come before any other into its queue (log 113). -/
def savedKicks (s : State) (die core : Nat) : List KickEnt :=
  (s.teams.filter fun t => t.resident && t.die == die).flatMap fun t => t.kicks.filter (·.core == core)

/-- Restored kick entries move into their core's queue, in their saved order, as far as its 16 entries have room. -/
def refillKicks (s : State) (die core : Nat) : State :=
  let xs := (savedKicks s die core).take (16 - (coreKicks (getDie s die) core).length)
  if xs.isEmpty then s
  else
    modDie { s with teams := s.teams.map fun t => { t with kicks := t.kicks.filter fun k => !xs.contains k } } die fun d =>
      { d with kicks := d.kicks ++ xs }

/-- A core's kick queue is full, with the restored entries that wait for it: `kick` does not issue (R186). -/
def kicksFull (s : State) (g : Group) : Bool :=
  16 ≤ (coreKicks (getDie s g.die) g.core).length + (savedKicks s g.die g.core).length

/-! ## Counts -/

/-- Raise event count `e` of a context by `n` (Table 11.6). -/
def countEvent (s : State) (asid e n : Nat) : State :=
  modCtx s asid fun c => { c with counts := tput 0 c.counts e (tget 0 c.counts e + n) }

/-! ## Faults (R90, R239, R313, R342) -/

/-- Fault classes, Table 11.7. -/
def clsIllegal := 0x01
def clsRights := 0x02
def clsRange := 0x03
def clsBound := 0x04
def clsSpace := 0x05
def clsTranslation := 0x06
def clsFormat := 0x07
def clsAlign := 0x08
def clsAtomic := 0x09
def clsArith := 0x0A
def clsBranch := 0x0B
def clsFall := 0x0C
def clsStream := 0x0D
def clsBarState := 0x0E
def clsBarBusy := 0x0F
def clsBarOver := 0x10
def clsQueue := 0x11
def clsTile := 0x12
def clsPoison := 0x13
def clsBreak := 0x14
def clsTrap := 0x15
def clsHeap := 0x16
def clsSpawn := 0x17
def clsMigrate := 0x18

/-- What a lane's fault carries: class, subclass, walk level, INFO, access address, and the address that its record
names where that is not the word at which the lane parks (R160). -/
structure LaneFault where
  cls   : Nat
  sub   : Nat := 0
  level : Nat := 0
  info  : Nat := 0
  addr  : Int := 0
  rpc   : Option Nat := none
  /-- the execution that a poison record describes: that of the reading word (R160, R313) -/
  exec  : Option ExecRec := none
  deriving DecidableEq, Repr

/-- The fault of a poisoned read that is due (R160). -/
def poisonFault (d : PoisonDue) : LaneFault :=
  { cls := clsPoison, addr := d.ea, rpc := some d.pc, exec := some d.exec }

/-- A mask with the bits of a list of lanes. -/
def laneMask (ls : List Nat) : Nat := ls.foldl (fun m l => m ||| (1 <<< l)) 0

/-- The address held in the top reconvergence entry (R313). -/
def reconvOf (g : Group) : Nat := (g.stack.head?.map (·.addr)).getD 0

/-- The record of one lane's fault (Table 21.3). -/
def laneRecord (s : State) (e : Env) (pc : Nat) (active parked : List Nat) (lane : Nat) (nested : Bool)
    (f : LaneFault) : FaultRec :=
  let x := f.exec.getD ⟨0, laneMask active, laneMask parked, reconvOf e.group⟩
  { gid := some e.group.gid, active := x.active, parked := x.parked, reconv := x.reconv,
    team := e.team.index, group := e.group.index, addr := f.addr, pc := f.rpc.getD pc, cls := f.cls, sub := f.sub, lane := lane,
    nested := nested, repl := true, src := 0, info := f.info, level := f.level, cox := coxAt s e.group.die,
    synt := s.synt, die := e.group.die, seqOf := none }

/-- Taking a fault: the faulting lanes park at `pc` with none of the instruction's effects, and their records, in
ascending lane order, join those of the context that wait to be written (R34, R313). A lane in handler mode ends as
`rte.kill` ends it and its record is nested (R241). `hdr`: the lanes stand at a header. -/
def raise (s : State) (e : Env) (pc : Nat) (active : List Nat) (fs : List (Nat × LaneFault)) (hdr : Bool) : State :=
  let parked := fs.map (·.1)
  fs.foldl (fun s lf =>
    match getLane s e.group.gid lf.1 with
    | none => s
    | some t =>
      let s := modCtx s e.ctx.asid fun c =>
        { c with pending := c.pending ++ [laneRecord s e pc active parked lf.1 t.handler lf.2] }
      modLane s e.group.gid lf.1 fun t =>
        if t.handler then { t with pc := pc, status := .exiting false, stall := none, handler := false }
        else { t with pc := pc, status := .parked lf.2.cls lf.2.info false hdr, stall := none }) s

/-- A lane enters the handler (R241): %trpc, %trcause, then the header at %trvec under R65. -/
def enterHandler (trvec : DWord) (t : Thread) : Thread :=
  match t.status with
  | .parked cls info _ hdr =>
    { t with trpc := BitVec.ofNat 64 t.pc, trcause := BitVec.ofNat 32 (cls + info * 2 ^ 16), handler := true,
             trHdr := t.hdr, trHword := t.hword, trIn := !hdr, trArr := t.arrival, seqResume := none,
             pc := trvec.toNat, status := .header, arrival := .entry, stall := none }
  | _ => t

/-- The lane ends under R102 once its outstanding reads are done. -/
def endLane (own : Bool) (t : Thread) : Thread :=
  { t with status := .exiting own, stall := none, handler := false }

/-! ## Lanes of an execution -/

/-- What one lane does. -/
inductive LaneStep where
  /-- its effect is in the state; the lane goes on at the next word -/
  | ok (s : State)
  /-- its effect, with its place, is in the state -/
  | moved (s : State)
  /-- it parks -/
  | fault (f : LaneFault)
  /-- it waits at the word -/
  | wait (s : State) (w : Stall)

/-- The address after the last word of a thread's block (R59). -/
def blockEnd (t : Thread) : Nat := t.hdr + 8 + 8 * bitsN t.hword.toNat 62 55

/-- The thread goes on at `next`: inside its block, or at the word after it (R60, R65). -/
def goOn (next : Nat) (t : Thread) : Thread :=
  if next == blockEnd t then { t with pc := next, status := .header, arrival := .fall, stall := none }
  else { t with pc := next, status := .block, stall := none }

/-- Address of the word after the one-word instruction at which a thread stands, and the thread there. -/
def nextWord (t : Thread) : Thread := goOn (t.pc + 8) t

/-- The execution in progress, as a record of one of its lanes describes it (R313): its stamp, the lanes whose guard is
true, none parked yet, the top reconvergence entry. -/
def execRec (s : State) (c : Cur) (e : Env) (g : Guard) : ExecRec :=
  ⟨s.stamp, laneMask (c.lanes.filter fun l => ((getLane s c.gid l).map (guardOf g)).getD false), 0, reconvOf e.group⟩

/-- The lanes of one execution whose reads met poison, with `more`, are what it parked: each of their records says so
(R160, R313). -/
def shareDue (stamp more : Nat) (g : Group) : Group :=
  let mine (t : Thread) : Bool := t.poison.any fun d => d.exec.stamp == stamp
  let m := laneMask ((g.threads.filter mine).map (·.lane)) ||| more
  { g with threads := g.threads.map fun t =>
      if mine t then { t with poison := t.poison.map fun d => { d with exec := { d.exec with parked := d.exec.parked ||| m } } }
      else t }

/-- The thread goes on after the word of the execution. -/
def advance (c : Cur) (t : Thread) : Thread := goOn c.next t

/-- The lanes of the execution whose guard is true, and the others. -/
def activeLanes (s : State) (c : Cur) (g : Guard) : List Nat :=
  c.lanes.filter fun l => ((getLane s c.gid l).map (guardOf g)).getD false

/-- Results of the lanes so far: the state, the faults in ascending lanes, and how many retired. -/
structure LaneAcc where
  s      : State
  faults : List (Nat × LaneFault)
  done   : Nat

/-- One lane of `foldLanes`. -/
def laneStep (c : Cur) (f : Nat → State → LaneStep) (acc : LaneAcc) (l : Nat) : LaneAcc :=
  match f l acc.s with
  | .ok s => ⟨modLane s c.gid l (advance c), acc.faults, acc.done + 1⟩
  | .moved s => ⟨s, acc.faults, acc.done + 1⟩
  | .fault x => ⟨acc.s, acc.faults ++ [(l, x)], acc.done⟩
  | .wait s w => ⟨modLane s c.gid l (fun t => { t with stall := some w }), acc.faults, acc.done⟩

/-- The lanes whose guard is true act in ascending order, each seeing the state that the lane before it left; the
others go on; faulting lanes park; the lanes that retire count (R29, R34, R406). -/
def foldLanes (s : State) (c : Cur) (e : Env) (g : Guard) (f : Nat → State → LaneStep) : State :=
  let act := activeLanes s c g
  let idle := c.lanes.filter fun l => !act.contains l
  let s1 := idle.foldl (fun s l => modLane s c.gid l (advance c)) s
  let acc := act.foldl (laneStep c f) ⟨s1, [], 0⟩
  countEvent (raise acc.s e c.pc act acc.faults false) e.ctx.asid 0 acc.done

/-- Every lane whose guard is true raises one fault; the others go on. -/
def allFault (s : State) (c : Cur) (e : Env) (g : Guard) (f : LaneFault) : State :=
  foldLanes s c e g fun _ _ => .fault f

/-- Every lane whose guard is true waits; the others go on. -/
def allWait (s : State) (c : Cur) (e : Env) (g : Guard) (w : Stall) : State :=
  foldLanes s c e g fun _ s => .wait s w

/-- The meaning of a thread instruction where an execution is in progress. -/
def withCur (s : State) (f : Cur → Env → State) : Host.Outcome State Fault Refusal :=
  match s.cur with
  | none => .next s
  | some c =>
    match env s c.gid with
    | none => .next s
    | some e => .next (f c e)

/-! ## Translation at an access (R334 to R340, R170) -/

/-- Fields of a translation entry, Table 21.1. -/
def pteV (w : DWord) : Bool := w.getLsbD 0
def pteL (w : DWord) : Bool := w.getLsbD 1
def pteW (w : DWord) : Bool := w.getLsbD 2
def pteX (w : DWord) : Bool := w.getLsbD 3
def pteCC (w : DWord) : Nat := bitsN w.toNat 5 4
def pteFmt (w : DWord) : Nat := bitsN w.toNat 9 6
def pteGeom (w : DWord) : Nat := bitsN w.toNat 11 10
def pteHome (w : DWord) : Nat := bitsN w.toNat 13 12
def pteS64 (w : DWord) : Bool := w.getLsbD 14
def pteTbl (w : DWord) : Bool := w.getLsbD 15
def pteMt (w : DWord) : Nat := bitsN w.toNat 17 16
def pteLfn (w : DWord) : Nat := bitsN w.toNat 55 20
def pteKey (w : DWord) : Nat := bitsN w.toNat 63 56

/-- What an access does to its page. -/
inductive AccKind where
  | fetch | read | write
  /-- a sealed source or destination (R358) -/
  | sealedRead | sealedWrite
  deriving DecidableEq, Repr

/-- Where an access lands, or why it does not. -/
inductive Xlat where
  /-- the key of its byte, and of the page: format, geometry, tables, memory type -/
  | ok (key fmt geom : Nat) (tbl : Bool) (mt : Nat)
  /-- the translation is not at hand: its virtual page -/
  | miss (vpn : Nat)
  /-- frame `lfn` of context `asid` is not backed; the fields of its entry -/
  | unbacked (r : BackReq)
  | fault (cls sub level : Nat)
  deriving DecidableEq, Repr

/-- The translation of a page that a die holds: in an L1 TLB of its cores or in its shared TLB, which has what those
have (R339, log 22). -/
def tlbFind (d : Die) (asid vpn : Nat) : Option TlbEnt :=
  (d.l1.map (·.2) ++ d.tlb).find? fun x => x.asid == asid && x.vpn == vpn

/-- The heap window (R225). -/
def heapBase : Nat := 0xFF0000000000

/-- The context of the same function whose key identifier an entry of an OPR context names (R358). -/
def sealedOwner (s : State) (c : Context) (leaf : DWord) : Option Context :=
  if c.tag == 0 && pteCC leaf != 0 && pteKey leaf != c.keyid then
    s.contexts.find? fun o => o.vf == c.vf && o.tag == 1 && o.live && o.keyid == pteKey leaf
  else none

/-- The record of a frame (R337). -/
def frameOf (c : Context) (lfn : Nat) : Option FrameRec := c.frames.find? (·.lfn == lfn)

/-- 4 KiB frames of the page that a leaf of a level maps (R334). -/
def pageFrames (level : Nat) (leaf : DWord) : Nat :=
  if level == 2 then 262144 else if level == 3 then 512 else if pteS64 leaf then 16 else 1

/-- The request that backs a frame as an entry names it (R336, R375). -/
def backReq (s : State) (asid die : Nat) (x : TlbEnt) : BackReq :=
  let leaf := x.leaf
  { asid := asid, lfn := x.lfn, vpn := x.vpn, die := die, cox := coxAt s die, cc := pteCC leaf, fmt := pteFmt leaf,
    geom := pteGeom leaf, home := pteHome leaf, tbl := pteTbl leaf, pages := pageFrames x.level leaf, walk := false, seat := false }

/-- The record of a frame agrees with an entry (R337). -/
def aliasOk (f : FrameRec) (leaf : DWord) : Bool :=
  f.cc == pteCC leaf && f.keyid == pteKey leaf && f.fmt == pteFmt leaf && f.geom == pteGeom leaf &&
  f.mt == pteMt leaf && f.home == pteHome leaf && f.tbl == pteTbl leaf

/-- The format and geometry codes that Table 3.5 reserves. -/
def formatReserved (fmt geom : Nat) : Bool :=
  (4 ≤ fmt && fmt ≤ 8) || (if fmt == 3 then 2 ≤ geom else geom != 0)

/-- The checks after the walk, in the order of R340, for byte `va` of the page a TLB entry maps. The rights of a sealed leaf
are checked after the conditions of class 0x06 (R170, R358; log 106). -/
def checkLeaf (s : State) (c : Context) (die : Nat) (hst : Bool) (k : AccKind) (va : Nat) (x : TlbEnt) : Xlat :=
  let off := va % 4096
  let leaf := x.leaf
  if (pteMt leaf != 0) != hst then .fault clsTranslation 0x05 0
  else if k == .fetch && !pteX leaf then .fault clsTranslation 0x04 0
  else if k == .write && !pteW leaf then .fault clsTranslation 0x03 x.level
  else
    match sealedOwner s c leaf with
    | some o =>
      if (frameOf o x.lfn).any (·.measured) then .fault clsTranslation 0x0A 0
      else if pteFmt leaf != 0 || pteGeom leaf != 0 || pteHome leaf != 0 || pteTbl leaf || pteX leaf ||
          (frameOf o x.lfn).any (·.cc != pteCC leaf) then
        .fault clsTranslation 0x08 0
      else if k == .sealedRead then .ok (keyGlb o.asid x.lfn off) 0 0 false 0
      else if k == .sealedWrite && pteW leaf && pteCC leaf == 1 && (frameOf o x.lfn).isSome then
        .ok (keyGlb o.asid x.lfn off) 0 0 false 0
      else .fault clsRights 0 0
    | none =>
      if k == .sealedRead || k == .sealedWrite then .fault clsRights 0 0
      else if pteMt leaf != 0 then
        if k == .fetch && c.measured then .fault clsTranslation 0x0A 0
        else .ok (keyHst c.asid x.lfn off) 0 0 false (pteMt leaf)
      else
        match frameOf c x.lfn with
        | none =>
          if c.measured && k == .fetch then .fault clsTranslation 0x0A 0
          else .unbacked (backReq s c.asid die x)
        | some f =>
          if c.measured && k == .fetch && !f.measured then .fault clsTranslation 0x0A 0
          else if f.measured && (k != .fetch || pteW leaf || !pteX leaf || f.leaf.any (· != x.vpn)) then
            .fault clsTranslation 0x0A 0
          else if !aliasOk f leaf then .fault clsTranslation 0x08 0
          else .ok (keyGlb c.asid x.lfn off) (pteFmt leaf) (pteGeom leaf) (pteTbl leaf) 0

/-- A live grid of the context whose GLB heap holds the bytes (R225). -/
def inHeap (s : State) (asid va n : Nat) : Bool :=
  s.grids.any fun g => g.asid == asid && !g.ended && g.gbase ≤ va && va + n ≤ g.gbase + g.gsize

/-- Translate byte `va` of a GLB or HST access of a context on a die. -/
def translate (s : State) (c : Context) (die : Nat) (hst : Bool) (k : AccKind) (va n : Nat) : Xlat :=
  if !hst && heapBase ≤ va then
    if inHeap s c.asid va n then
      if k == .fetch then .fault clsTranslation 0x04 0
      else if k == .sealedRead || k == .sealedWrite then .fault clsRights 0 0
      else .ok (keyHeap c.asid va) 0 0 false 0
    else .fault clsTranslation 0x01 0
  else
    let d := getDie s die
    let vpn := va / 4096
    match d.wfaults.find? fun w => w.1 == c.asid && w.2.1 == vpn with
    | some w => .fault clsTranslation w.2.2.1 w.2.2.2
    | none =>
      match tlbFind d c.asid vpn with
      | none => .miss vpn
      | some x => checkLeaf s c die hst k va x

/-- Walks that a die holds: 64 run and 1,024 wait (R339). -/
def walkRoom : Nat := 64 + 1024

/-- Ask for a walk: misses of one page share it. A queue that is full takes no walk, and the instruction is held (R339). -/
def askWalk (s : State) (die asid vpn : Nat) : State :=
  modDie s die fun d =>
    if d.walks.contains (asid, vpn) || walkRoom ≤ d.walks.length then d else { d with walks := d.walks ++ [(asid, vpn)] }

/-- Ask seat 3 to back a frame: requests for one frame are one request (R375). -/
def askBacking (s : State) (r : BackReq) : State :=
  if s.backing.any fun b => b.asid == r.asid && b.lfn == r.lfn then s else { s with backing := s.backing ++ [r] }

/-- A thread waits for a translation of a page of a context, or for its frame (R336, R339). -/
def stallPage (asid vpn : Nat) (t : Thread) : Bool :=
  match t.stall with
  | some (.xlate v) => v == vpn
  | some (.backing a _ v) => a == asid && v == vpn
  | _ => false

/-- A thread on a die still waits on the translation of a page of a context. -/
def waitsWalk (s : State) (die asid vpn : Nat) : Bool :=
  s.groups.any fun g => g.die == die && (env s g.gid).any (fun e => e.ctx.asid == asid) &&
    g.threads.any (stallPage asid vpn)

/-- The sets of the shared TLB: 16,384 entries in 16 ways; which set a page falls in and which entry leaves are the
model's choice (R339, log 22). -/
def tlbSets : Nat := 1024

/-- The latest entries of a list that fill no class beyond `n`, the latest last. -/
def keepLatest {α : Type} (n : Nat) (cls : α → Nat) : List α → List α
  | [] => []
  | x :: xs => if n ≤ (xs.filter fun y => cls y == cls x).length then keepLatest n cls xs else x :: keepLatest n cls xs

/-- A die's TLBs within their sizes: 16 ways of each set, and of what is left 64 entries of each core (R339). -/
def trimTlb (d : Die) : Die :=
  let tlb := keepLatest 16 (fun x => x.vpn % tlbSets) d.tlb
  { d with tlb := tlb, l1 := (keepLatest 64 (·.1) d.l1).filter fun x => tlb.contains x.2 }

/-- A thread on a die waits for a translation. -/
def anyXlate (s : State) (die : Nat) : Bool :=
  s.groups.any fun g => g.die == die && g.threads.any fun t => match t.stall with
    | some (.xlate _) => true
    | _ => false

/-- Entries leave a die's TLBs where they hold too many, but none while an instruction waits: every translation that it
needs is then in hand at once (R339, log 22). -/
def evictTlb (s : State) (die : Nat) : State := if anyXlate s die then s else modDie s die trimTlb

/-- Walk faults that every waiting instruction has met are forgotten: a replay is checked anew (R339, R344). -/
def dropWalkFaults (s : State) (die asid : Nat) (vpns : List Nat) : State :=
  modDie s die fun d =>
    { d with wfaults := d.wfaults.filter fun w =>
        !(w.1 == asid && vpns.contains w.2.1 && !waitsWalk s die asid w.2.1) }

/-! ## Fetching -/

/-- Translate and read one 8-byte word of code (R198, R340). -/
def fetchWord (s : State) (c : Context) (die pc : Nat) : Xlat × DWord :=
  if 2 ^ 48 ≤ pc then (.fault clsSpace 0 0, 0)
  else
  match translate s c die false .fetch pc 8 with
  | .ok key fmt geom tbl mt =>
    if formatReserved fmt geom then (.fault clsFormat 0x01 0, 0)
    else (.ok key fmt geom tbl mt, BitVec.ofNat 64 (getBytes s key 8))
  | x => (x, 0)

end Sys2Proof.Machine
end

