-- ==== Sys2Proof/Machine/Post.lean ====
section
/-!
DEFINITION. What the seats seal and send: mailbox messages (R328, R329), requests of the duty ring (R332), summaries of the
operator error log and of the consoles (R343, R373).
-/

namespace Sys2Proof.Machine

/-! ## Sealing -/

/-- AES-256-GCM (R342, R349, R361, R387): the text and the keystream of key and nonce, bit by bit, both ways (log 7). -/
def gcmCipher (key nonce text bits : Nat) : Nat := text ^^^ (Config.crypto 1 [key, nonce] % 2 ^ bits)
/-- The tag of AES-256-GCM: key, nonce, ciphertext, additional data. -/
def gcmTag (key nonce cipher aad : Nat) : Nat := Config.crypto 2 [key, nonce, cipher, aad] % 2 ^ 128

/-- The quads of a number, least significant first. -/
def numQuads (n : Nat) (x : Nat) : List Nat := (List.range n).map fun i => x / 2 ^ (64 * i) % 2 ^ 64

/-! ## Mailbox messages (R328, R329)

A party of the mailboxes is a number: a seat's own, or 16 and an instance's. -/

/-- SRC or DST of a party (Table 20.8). -/
def partyField (p : Nat) : Nat := if 16 ≤ p then 9 else p

/-- The instance that PAY [3:0] names: that of DST, else that of SRC. -/
def partyInst (src dst : Nat) : Option Nat :=
  if 16 ≤ dst then some (dst - 16) else if 16 ≤ src then some (src - 16) else none

/-- The payload of a message: the sender's own layout, with the instance that it names. -/
def mailPayload (type src dst : Nat) (fields : List Nat) : BitVec 192 :=
  match partyInst src dst with
  | none => Config.mailPay type fields
  | some i => Config.mailPay type fields / 16 * 16 + BitVec.ofNat 192 (i % 16)

/-- A message enters the outbound buffer of its sender for its receiver, with the sender's count of messages to that
receiver (Table 20.8). -/
def postMail (s : State) (type src dst ctxid : Nat) (fields : List Nat) : State :=
  let k := src * 64 + dst
  let n := tget 0 s.mailSeq k
  let m : Mail := { type := BitVec.ofNat 8 type, src := BitVec.ofNat 4 (partyField src),
                    dst := BitVec.ofNat 4 (partyField dst), seq := BitVec.ofNat 16 n, ctxid := BitVec.ofNat 16 ctxid,
                    pay := mailPayload type src dst fields }
  { s with outbox := s.outbox ++ [m], mailSeq := tput 0 s.mailSeq k (n + 1) }

/-! ## The duty ring (R332) -/

/-- Bit `d` of a function's DUTY (Table 20.10). -/
def dutyBit (f : VFunc) (d : Nat) : Bool := f.duty.getLsbD d

/-- A seat posts a request to a function's duty ring, with the fields that Table 20.10 gives the host (R332). -/
def postDuty (s : State) (vf duty subject extra : Nat) (body : List Nat) : State :=
  modFunc s vf fun f =>
    { f with duties := f.duties ++ [{ ix := f.nextDuty, duty := duty, posted := s.cox, timedOut := false,
                                      subject := subject, extra := extra, body := body }],
             nextDuty := f.nextDuty + 1 }

/-! ## Summaries (R343, R373) -/

/-- The 16 bytes of a summary in the log of function `vf`. -/
def summaryBits (vf : Nat) (x : Summary) : Nat :=
  2 ^ 64 * (x.cox % 2 ^ 64) + 2 ^ 48 * (x.asid % 2 ^ 16) + 2 ^ 40 * (x.cls % 2 ^ 8) + 2 ^ 32 * (x.kind % 2 ^ 8) +
    2 ^ 28 * (x.die % 2 ^ 4) + 2 ^ 24 * (vf % 2 ^ 4)

/-- Seat 4 appends a summary to a function's operator log; the consoles emit it, and ERRLOG hands it to the host. -/
def addSummary (s : State) (vf : Nat) (x : Summary) : State :=
  let s := modFunc { s with console := .summary vf x :: s.console } vf fun f => { f with errlog := f.errlog ++ [x] }
  if (getFunc s vf).any (dutyBit · 5) then postDuty s vf 5 x.asid x.cls [summaryBits vf x] else s

/-- Seat 4 writes a summary to every function's log (R343, KIND 4). -/
def addSummaryAll (s : State) (x : Summary) : State :=
  (s.funcs.map (·.vf)).foldl (fun s vf => addSummary s vf x) s

end Sys2Proof.Machine
end

