-- ==== Sys2Proof/Machine/Homes.lean ====
section
/-!
DEFINITION. Where memory lives: dies and distances, the memory set and slices of a function (R302, R378), physical room
with fenced devices (R6, R336, R391), homes (R302, R303), and the errors that a read meets (R362, R382, R384).
-/

namespace Sys2Proof.Machine

/-! ## Dies and distances -/

/-- Place of a compute die in the ring M0–B0–M1–B1–M2–B2–M3–B3. -/
def ringPos (d : Nat) : Nat := if d < 4 then 2 * d else 2 * (d - 4) + 1

/-- Malale hops between two dies: X links to every compute die. -/
def hops (a b : Nat) : Nat :=
  if a == b then 0
  else if a == 8 || b == 8 then 1
  else
    let d := max (ringPos a) (ringPos b) - min (ringPos a) (ringPos b)
    min 2 (min d (8 - d))

/-- The die of a list with the fewest hops to `h`, ties to the lower number. -/
def nearestDie (h : Nat) : List Nat → Option Nat
  | [] => none
  | d :: ds =>
    match nearestDie h ds with
    | none => some d
    | some x => if hops d h < hops x h || (hops d h == hops x h && d < x) then some d else some x

/-- The compute dies. -/
def computeDies : List Nat := List.range 8

/-- Placement mask in force (R30, R330). -/
def maskAllows (f : VFunc) (d : Nat) : Bool := f.pmask.getLsbD d

/-- The memory set of a function (R302, R378). -/
def memSet (f : VFunc) : List Nat := computeDies.filter fun d => tget 0 f.part.memory d % 2 ^ 16 != 0

/-- The dies on which a function's pages may be homed (R378). -/
def homeSet (f : VFunc) : List Nat :=
  let a := (memSet f).filter (maskAllows f)
  if a.isEmpty then memSet f else a

/-! ## Physical room (R336, R391) -/

/-- Memory devices of a die: 16 GDDR 7 devices of 3 GiB on a matrix die, two HBM4E stacks of 48 GiB on a bandwidth die
(Table 25.1), in 128-byte lines. Which addresses a device holds is the model's choice: consecutive ones (log 92). -/
def deviceLines (die : Nat) : Nat := if die < 4 then 3 * 2 ^ 23 else 48 * 2 ^ 23

/-- Lines of a die's memory that stand in fenced devices (R6). -/
def fencedLines (s : State) (die : Nat) : List (Nat × Nat) :=
  s.boot.fenced.filterMap fun u => match u with
    | .memory d m => if d == die then some (m * deviceLines die, (m + 1) * deviceLines die) else none
    | _ => none

/-- 128-byte lines of a function's slice of a die's memory: first line and lines (Table 24.1). -/
def memSlice (f : VFunc) (die : Nat) : Nat × Nat :=
  let w := tget 0 f.part.memory die
  (w / 2 ^ 16 % 2 ^ 16 * 2 ^ 21, w % 2 ^ 16 * 2 ^ 21)

/-- What is left of a run of lines outside another. -/
def cutRun (u r : Nat × Nat) : List (Nat × Nat) :=
  (if r.1 < min r.2 u.1 then [(r.1, min r.2 u.1)] else []) ++
  (if max r.1 u.2 < r.2 then [(max r.1 u.2, r.2)] else [])

/-- Lines of a die that a context's frames take; frames of another context are taken whole, so that no frame holds
data of two contexts. -/
def chunkLines (exact : Bool) (die : Nat) (cs : List Chunk) : List (Nat × Nat) :=
  (cs.filter (·.die == die)).map fun k =>
    if exact then (k.line, k.line + k.lines) else (k.line / 32 * 32, (k.line + k.lines + 31) / 32 * 32)

/-- Frames of a range that are not yet scrubbed, as runs: its holes are not of it (R391). -/
def rangeRuns (q : QRange) : List (Nat × Nat) :=
  q.holes.foldl (fun rs u => rs.flatMap (cutRun u)) [(q.frontier, q.last + 1)]

/-- Lines of a die that are taken, as a context sees them: frames, heaps, quarantine,
fenced devices (R6). -/
def takenLines (s : State) (asid die : Nat) : List (Nat × Nat) :=
  (s.contexts.flatMap fun c => c.frames.flatMap fun f => chunkLines (c.asid == asid) die f.place) ++
  (s.grids.flatMap fun g => chunkLines (g.asid == asid) die g.gplace) ++
  ((getDie s die).quar.flatMap fun q => (rangeRuns q).map fun r => (32 * r.1, 32 * r.2)) ++ fencedLines s die

/-- Free runs of lines of a function's slice on a die, ascending. -/
def freeRuns (s : State) (f : VFunc) (asid die : Nat) : List (Nat × Nat) :=
  let m := memSlice f die
  (takenLines s asid die).foldl (fun rs u => rs.flatMap (cutRun u)) [(m.1, m.1 + m.2)]

/-- Lines in runs. -/
def runLinesSum (rs : List (Nat × Nat)) : Nat := (rs.map fun r => r.2 - r.1).sum

/-- A whole free frame of a die. -/
def takeFrame (die : Nat) (rs : List (Nat × Nat)) : Option (List Chunk) :=
  rs.findSome? fun r =>
    let a := (r.1 + 31) / 32 * 32
    if a + 32 ≤ r.2 then some [⟨die, a, 32⟩] else none

/-- Whole free frames in runs of lines. -/
def wholeFrames (rs : List (Nat × Nat)) : Nat := (rs.map fun r => r.2 / 32 - (r.1 + 31) / 32).sum

/-- `n` free lines of a die, lowest first. -/
def takeLines (die : Nat) : List (Nat × Nat) → Nat → Option (List Chunk)
  | _, 0 => some []
  | [], _ + 1 => none
  | r :: rs, n + 1 =>
    let m := min (n + 1) (r.2 - r.1)
    (takeLines die rs (n + 1 - m)).map fun cs => if m == 0 then cs else ⟨die, r.1, m⟩ :: cs

/-- Lines of a frame that Table 15.1 homes on the i-th of n dies. -/
def interleavedLines (lfn n i : Nat) : Nat := ((List.range 32).filter fun j => (lfn * 32 + j) % n == i).length

/-- Room on every die of a list for lines counted by position (R336). -/
def takeInterleaved (s : State) (f : VFunc) (asid : Nat) (need : Nat → Nat) : List (Nat × Nat) → Option (List Chunk)
  | [] => some []
  | (d, i) :: rest =>
    match takeLines d (freeRuns s f asid d) (need i), takeInterleaved s f asid need rest with
    | some a, some b => some (a ++ b)
    | _, _ => none

/-- `n` lines wherever the dies of a list have free ones. -/
def takeSpread (s : State) (f : VFunc) (asid : Nat) : List Nat → Nat → Option (List Chunk)
  | _, 0 => some []
  | [], _ + 1 => none
  | d :: ds, n =>
    let rs := freeRuns s f asid d
    let m := min n (runLinesSum rs)
    match takeLines d rs m, takeSpread s f asid ds (n - m) with
    | some a, some b => some (a ++ b)
    | _, _ => none

/-! ## Homes (R302, R303) -/

/-- The die of a list with the most free memory of the function, ties to the lower number. -/
def roomiest (s : State) (f : VFunc) (asid : Nat) : List Nat → Option Nat
  | [] => none
  | d :: ds =>
    match roomiest s f asid ds with
    | none => some d
    | some x => if runLinesSum (freeRuns s f asid x) ≤ runLinesSum (freeRuns s f asid d) then some d else some x

/-- The home of a pinned or device-placed page whose first access comes from `die` (R303). -/
def firstHome (s : State) (f : VFunc) (asid die : Nat) : Option Nat :=
  let a := homeSet f
  if die == 8 then roomiest s f asid a else if a.contains die then some die else nearestDie die a

/-- The home die of line `line` (within its frame) of a frame. -/
def lineHome (f : VFunc) (x : FrameRec) (line : Nat) : Nat :=
  if x.home == 0 then
    let ds := memSet f
    ds.getD ((x.lfn * 32 + line) % ds.length) 0
  else (x.place.head?.map (·.die)).getD 0

/-! ## Errors (R362, R382, R384) -/

/-- A saturating count of always-on storage. -/
def satCount (n : Nat) : Nat := min (n + 1) (2 ^ 64 - 1)

/-- The threshold of corrected errors of a die's units: its configuration record's, else the device's default (R4). -/
def errorThreshold (s : State) (die : Nat) : Nat := (s.boot.thresholds.lookup die).getD (Config.errorThreshold die)

/-- The kind of a memory key, and its object. -/
def keyKind (key : Nat) : Nat := key / 2 ^ 128
def keyObj (key : Nat) : Nat := key / 2 ^ 64 % 2 ^ 64

/-- The context and the record of the frame that a key lies in. -/
def keyFrame (s : State) (key : Nat) : Option (Context × FrameRec) :=
  if keyKind key == 1 then
    (getCtx s (keyObj key)).bind fun c => (frameOf c (key % 2 ^ 64 / 4096)).map fun f => (c, f)
  else none

/-- A byte of a frame of class 2 (Table 22.5). -/
def keyClass2 (s : State) (key : Nat) : Bool := (keyFrame s key).any fun x => x.2.cc == 2

/-- The die whose memory or SRAM holds a byte: the home of a frame's line, a heap's line, the commons, a team's
scratch, a thread's private memory or registers (log 93). -/
def keyDie (s : State) (key : Nat) : Nat :=
  match keyKind key with
  | 1 => ((keyFrame s key).bind fun x => (getFunc s x.1.vf).map fun f => lineHome f x.2 (key % 4096 / 128)).getD 0
  | 2 =>
    (((getCtx s (keyObj key)).bind fun c => getFunc s c.vf).map fun f =>
      (memSet f).getD (key % 2 ^ 64 / 128 % (memSet f).length) 0).getD 0
  | 3 => keyObj key
  | 4 => ((getTeam s (keyObj key)).map (·.die)).getD 0
  | _ => ((getGroup s (keyObj key / 64)).map (·.die)).getD 0

/-- A byte stands in an SRAM: commons, scratch or a register file (Table 24.2). -/
def keySram (key : Nat) : Bool := keyKind key == 3 || keyKind key == 4 || keyKind key == 8

/-- A byte stands in memory or an SRAM of the module, where errors arise: host memory and storage are none. -/
def keyInside (key : Nat) : Bool := (1 ≤ keyKind key && keyKind key ≤ 5) || keyKind key == 8

/-- Seat 4 hears of an error on a die, or of a count past its threshold. -/
def reportError (s : State) (seat die : Nat) : State := postMail s 0x10 seat 4 0 [0, die, s.cox]

/-- A corrected error is counted; a unit whose count is past its threshold is reported (R384). -/
def countCorrected (s : State) (sram : Bool) (die : Nat) : State :=
  let s := modDie s die fun d => if sram then { d with sce := satCount d.sce } else { d with mce := satCount d.mce }
  let d := getDie s die
  if errorThreshold s die < (if sram then d.sce else d.mce) then reportError s 8 die else s

/-- An uncorrectable error poisons its sector and is counted, each sector once. In class 2 it is the check of the line that
fails: both sectors of the line are poisoned and counted, and seat 4 records the error (Table 22.5, Table 24.3). -/
def countPoisoned (s : State) (sector : Nat) : State :=
  let key := sector * 32
  let die := keyDie s key
  let count (n : Nat) (d : Die) : Die :=
    if keySram key then { d with sue := min (d.sue + n) (2 ^ 64 - 1) } else { d with mue := min (d.mue + n) (2 ^ 64 - 1) }
  if keyClass2 s key then
    modDie (reportError (addPoison (addPoison s (sector / 2 * 2)) (sector / 2 * 2 + 1)) (16 + die) die) die (count 2)
  else modDie (addPoison s sector) die (count 1)

/-- One error is met. -/
def meetUpset (s : State) (u : Upset) : State :=
  if u.corrected then countCorrected s (keySram (u.sector * 32)) (keyDie s (u.sector * 32)) else countPoisoned s u.sector

/-- The upset's sector has a byte in one of the ranges. -/
def upsetIn (rs : List (Nat × Nat)) (u : Upset) : Bool :=
  rs.any fun r => u.sector * 32 < r.1 + r.2 && r.1 < u.sector * 32 + 32

/-- A read of byte ranges meets the errors that stand there: they are corrected or poison their sectors, and are
counted (R382). -/
def meetUpsets (s : State) (rs : List (Nat × Nat)) : State :=
  if s.upsets.isEmpty then s
  else (s.upsets.filter (upsetIn rs)).foldl meetUpset { s with upsets := s.upsets.filter fun u => !upsetIn rs u }

end Sys2Proof.Machine
end

