-- ==== Sys2Proof/Machine/Operands.lean ====
section
/-!
DEFINITION. The operand forms: registers named as sources and destinations with the checks of R18 and R21 in the
order of R90, stream elements (R122), and the operand readers of R96, R87 and R36.
-/

namespace Sys2Proof.Machine

/-! ## Naming registers -/

/-- Registers that an instruction names: `n` from `r`; `pair`: as 64-bit pairs (R18); `dst`: written. -/
structure RegUse where
  r    : Nat
  n    : Nat
  pair : Bool
  dst  : Bool
  deriving DecidableEq, Repr

/-- A source register, or pair when `w64`. -/
def src (w64 : Bool) (r : Reg) : RegUse := ⟨r.toNat, if w64 then 2 else 1, w64, false⟩
/-- A destination register, or pair when `w64`. -/
def dst (w64 : Bool) (r : Reg) : RegUse := ⟨r.toNat, if w64 then 2 else 1, w64, true⟩
/-- A run of single registers as a source. -/
def srcRun (r : Reg) (n : Nat) : RegUse := ⟨r.toNat, n, false, false⟩
/-- Step 1 of R90: a pair whose upper register is v(N) or above, N the kernel's count (R18). -/
def pairIllegal (N : Nat) (us : List RegUse) : Bool := us.any fun u => u.pair && N ≤ u.r + u.n - 1
/-- Step 3 of R90: a register v(N) or above (R18). -/
def rangeFault (N : Nat) (us : List RegUse) : Bool := us.any fun u => N ≤ u.r + u.n - 1

/-- The registers a bound stream stands for. -/
def streamRegs (x : StreamReg) : List Nat := if x.ew8 then [x.vreg.toNat, x.vreg.toNat + 1] else [x.vreg.toNat]
/-- A use names one of a bound stream's registers. -/
def useHits (x : StreamReg) (u : RegUse) : Bool := (streamRegs x).any fun r => u.r ≤ r && r < u.r + u.n
/-- The bound stream registers of a thread. -/
def boundStreams (t : Thread) : List (Nat × StreamReg) := t.sp.filter fun e => e.2.bnd
/-- Step 4 of R90: a write of a bound register (R21). -/
def boundFault (t : Thread) (us : List RegUse) : Bool :=
  (boundStreams t).any fun e => us.any fun u => u.dst && useHits e.2 u

/-! ## Stream elements (R21, R122) -/

/-- What taking the stream operands of an instruction gives. -/
inductive Taken where
  /-- the element registers, and the thread with every POS advanced once -/
  | ok (ov : List (Nat × Word)) (t : Thread)
  | fault (f : LaneFault)
  | wait (w : Stall)

/-- The bytes of a stream's next element: address and width. -/
def elemPlace (x : StreamReg) : Int × Nat := (x.base.toNat + (x.pos : Int) * x.stride.toInt, if x.ew8 then 8 else 4)

/-- The lane of a part. -/
def partLane : Part → Nat
  | .load l .. | .store l .. | .encode l .. | .rmw l .. | .ncopy l _ => l

/-- A lane has an acquire outstanding (R154). -/
def acquiring (g : Group) (lane : Nat) : Bool := g.ops.any fun o => o.acquire && o.parts.any (partLane · == lane)

/-- Take the elements of the listed streams, in order, for an execution `r`: each is read as an `lds` at its place, so
that an outstanding acquire and an empty line hold it. Where a register is bound by two of them, as the upper half of one and
as another's own, both elements are taken and the later one stands: the model's choice (log 110). -/
def takeFrom (s : State) (e : Env) (r : ExecRec) : List (Nat × StreamReg) → Thread → List (Nat × Word) → Taken
  | [], t, ov => .ok ov t
  | (k, x) :: rest, t, ov =>
    let a := (elemPlace x).1
    let ew := (elemPlace x).2
    if acquiring e.group t.lane then .wait .acquire
    else if a % ew != 0 then .fault { cls := clsAlign, addr := a }
    else if a < 0 || (e.grid.desc.scratch * 128 : Nat) < a + ew then .fault { cls := clsSpace, addr := a }
    else
      let key := keyScr e.team.tid a.toNat
      match lineEmpty s key ew with
      | some l => .wait (.line l)
      | none =>
        let bad := poisoned s key ew
        let v := if bad then 0 else getBytes s key ew
        let regs := if x.ew8 then pairRegs x.vreg.toNat v else [(x.vreg.toNat, BitVec.ofNat 32 v)]
        let t1 := wrStream t k { x with pos := (x.pos + 1) % x.count }
        let t2 := if bad then { t1 with poison := t1.poison.or (some ⟨t.pc, a.toNat, r⟩) } else t1
        takeFrom s e r rest t2 (regs ++ ov)

/-- The bound streams that an instruction reads in one lane. -/
def usedStreams (t : Thread) (us : List RegUse) : List (Nat × StreamReg) :=
  (boundStreams t).filter fun x => us.any fun u => !u.dst && useHits x.2 u

/-- The stream operands of an instruction in one lane. -/
def takeStreams (s : State) (e : Env) (r : ExecRec) (t : Thread) (us : List RegUse) : Taken :=
  takeFrom s e r (usedStreams t us) t []

/-- A register reader: an element where a stream gives it, else the register. -/
def readOver (ov : List (Nat × Word)) (t : Thread) (n : Nat) : Word := (ov.lookup n).getD (rdReg t n)

/-- Steps 3 and 4 of R90 and the operand fetch, in one lane. -/
def operandsOf (s : State) (e : Env) (r : ExecRec) (t : Thread) (us : List RegUse) : Taken :=
  if rangeFault e.grid.desc.regs us then .fault { cls := clsRange }
  else if boundFault t us then .fault { cls := clsBound }
  else takeStreams s e r t us

/-! ## Integer operands (R36, R87, R96) -/

/-- Width of an ITY (Table 5.4). -/
def itW : ITy → Nat
  | .n32 | .i32 => 32
  | .n64 | .i64 => 64
  | .n16 | .i16 => 16
  | .n8 | .i8 => 8

/-- A number as an operand of a type: sign- or zero-extended from its low w bits (R96). -/
def opOf (ty : ITy) (v : Nat) : Int := if ty.signed then sextN v (itW ty) else ((v % 2 ^ itW ty : Nat) : Int)

/-- `op(x)` of R96. -/
def opR (ty : ITy) (rd : Nat → Word) (r : Reg) : Int :=
  opOf ty (if ty.is64 then pairOf rd r.toNat else (rd r.toNat).toNat)

/-- An immediate sign-extended, then its low w bits as op of B (R87, R96). -/
def opSImm (ty : ITy) (imm : BitVec 20) : Int := opOf ty (zextI imm.toInt 64)
/-- An immediate zero-extended, then its low w bits as op of B. -/
def opZImm (ty : ITy) (imm : BitVec 20) : Int := opOf ty imm.toNat
/-- A literal as op of B (R87). -/
def opLit (ty : ITy) (v : DWord) : Int := opOf ty v.toNat

/-- `wr(s)` of R96: the register writes that deliver an integer. -/
def wrI (ty : ITy) (d : Reg) (s : Int) : List (Nat × Word) :=
  if ty.is64 then pairRegs d.toNat (zextI s 64)
  else
    let n := zextI s (itW ty)
    [(d.toNat, if ty.signed then BitVec.ofInt 32 (sextN n (itW ty)) else BitVec.ofNat 32 n)]

/-- The least value of a type (Table 3.1). -/
def itMin (ty : ITy) : Int := if ty.signed then -(2 ^ (itW ty - 1) : Nat) else 0
/-- The greatest value of a type (Table 3.1). -/
def itMax (ty : ITy) : Int := if ty.signed then (2 ^ (itW ty - 1) : Nat) - 1 else (2 ^ itW ty : Nat) - 1
/-- `clamp` of R111. -/
def clampI (ty : ITy) (s : Int) : Int := max (itMin ty) (min (itMax ty) s)

/-- One destination in the low w bits. -/
def oneReg (d : Reg) (n : Nat) : List (Nat × Word) := [(d.toNat, BitVec.ofNat 32 n)]

end Sys2Proof.Machine
end

