-- ==== Sys2Proof/Machine/Flags.lean ====
section
/-!
DEFINITION. Comparisons and the sticky flags of `%fpstat`: the relations of Table 5.5 (R89, R106, R132) and the flag
bits of Table 2.5 (R27, R43).
-/

namespace Sys2Proof.Machine

/-- `%fpstat` bit 0 (R27, R43). -/
def flInexact : Word := 1
/-- Bit 1. -/
def flUnderflow : Word := 2
/-- Bit 2. -/
def flOverflow : Word := 4
/-- Bit 3. -/
def flDivZero : Word := 8
/-- Bit 4. -/
def flInvalid : Word := 16
/-- Bit 5, the format flag (R50). -/
def flFormat : Word := 32

/-- How two operands compare (Table 5.5). -/
inductive Rel where | lt | eq | gt | unordered
  deriving DecidableEq, Repr

/-- The relation of two integers. -/
def relInt (a b : Int) : Rel := if a < b then .lt else if a = b then .eq else .gt

/-- Table 5.5. -/
def cmpHolds : Cmp → Rel → Bool
  | .eq, r => r == .eq
  | .ne, r => r == .lt || r == .gt
  | .lt, r => r == .lt
  | .le, r => r == .lt || r == .eq
  | .gt, r => r == .gt
  | .ge, r => r == .gt || r == .eq
  | .num, r => r != .unordered
  | .equ, r => r == .eq || r == .unordered
  | .neu, r => r != .eq
  | .ltu, r => r == .lt || r == .unordered
  | .leu, r => r != .gt
  | .gtu, r => r == .gt || r == .unordered
  | .geu, r => r != .lt
  | .nan, r => r == .unordered

/-- The relations that set invalid for any NaN operand (R132). -/
def cmpSignals : Cmp → Bool
  | .lt | .le | .gt | .ge => true
  | _ => false

/-- The flags of a value that `flag` marks when the condition holds. -/
def flagIf (b : Bool) (f : Word) : Word := if b then f else 0

end Sys2Proof.Machine
end

