-- ==== Sys2Proof/Machine/Float.lean ====
section
/-!
DEFINITION. Floating point to the bit: the formats of Table 3.2, `round` of R41 to R43, exact arithmetic on the decoded
values (R39, R130), ordering, conversion, and the special functions of Table 7.3.
-/

namespace Sys2Proof.Machine

/-! ## Formats and values -/

/-- How a format uses its all-ones exponent (Table 3.2). -/
inductive FStyle where | ieee | e4m3 | e2m1
  deriving DecidableEq, Repr

/-- A format: exponent bits, fraction bits, bias, style. -/
structure FFmt where
  eb    : Nat
  fb    : Nat
  bias  : Nat
  style : FStyle
  deriving DecidableEq, Repr

/-- Table 3.2. -/
def ffmt : FTy → FFmt
  | .f32 => ⟨8, 23, 127, .ieee⟩
  | .f16 => ⟨5, 10, 15, .ieee⟩
  | .bf16 => ⟨8, 7, 127, .ieee⟩
  | .e4m3 => ⟨4, 3, 7, .e4m3⟩
  | .e5m2 => ⟨5, 2, 15, .ieee⟩
  | .e2m1x => ⟨2, 1, 1, .e2m1⟩

/-- Width of a code in bits. -/
def fWidth (t : FTy) : Nat := 1 + (ffmt t).eb + (ffmt t).fb

/-- A decoded value: a NaN, an infinity, or (−1)^neg × m × 2^e. -/
inductive FVal where
  | nan (signalling : Bool)
  | inf (neg : Bool)
  | fin (neg : Bool) (m : Nat) (e : Int)
  deriving DecidableEq, Repr

/-- Exponent of the smallest normal. -/
def fMinExp (f : FFmt) : Int := 1 - (f.bias : Int)
/-- The largest finite magnitude: integer and exponent (Table 3.2). -/
def fMax (f : FFmt) : Nat × Int :=
  match f.style with
  | .ieee => (2 ^ (f.fb + 1) - 1, (2 ^ f.eb - 2 : Nat) - (f.bias : Int) - f.fb)
  | .e4m3 => (2 ^ (f.fb + 1) - 2, (2 ^ f.eb - 1 : Nat) - (f.bias : Int) - f.fb)
  | .e2m1 => (2 ^ (f.fb + 1) - 1, (2 ^ f.eb - 1 : Nat) - (f.bias : Int) - f.fb)
/-- The sign bit's place value. -/
def fSign (t : FTy) (neg : Bool) : Nat := if neg then 2 ^ (fWidth t - 1) else 0
/-- The largest finite code of a sign. -/
def fMaxCode (t : FTy) (neg : Bool) : Nat :=
  let f := ffmt t
  fSign t neg + match f.style with
    | .ieee => (2 ^ f.eb - 1) * 2 ^ f.fb - 1
    | .e4m3 => 0x7E
    | .e2m1 => 0x7
/-- Canonical NaN (Table 3.2); an E2M1 element has the escape (R136). -/
def fNanCode (t : FTy) : Nat :=
  let f := ffmt t
  match f.style with
  | .ieee => (2 ^ f.eb - 1) * 2 ^ f.fb + 2 ^ (f.fb - 1)
  | .e4m3 => 0x7F
  | .e2m1 => 0x8
/-- What stands where IEEE 754 would deliver an infinity (Table 3.3). -/
def fInfCode (t : FTy) (neg : Bool) : Nat :=
  let f := ffmt t
  match f.style with
  | .ieee => fSign t neg + (2 ^ f.eb - 1) * 2 ^ f.fb
  | .e4m3 => fSign t neg + 0x7F
  | .e2m1 => 0x8
/-- A zero of a sign; −0 takes the E2M1 code 0 (R136). -/
def fZeroCode (t : FTy) (neg : Bool) : Nat := if t == .e2m1x then 0 else fSign t neg

/-- The value of a code (R38, R39, R48). -/
def fDecode (t : FTy) (c : Nat) : FVal :=
  let f := ffmt t
  let neg := c.testBit (f.eb + f.fb)
  let ex := c / 2 ^ f.fb % 2 ^ f.eb
  let fr := c % 2 ^ f.fb
  let num : FVal :=
    if ex = 0 then .fin neg fr (fMinExp f - f.fb) else .fin neg (2 ^ f.fb + fr) ((ex : Int) - f.bias - f.fb)
  match f.style with
  | .ieee =>
    if ex = 2 ^ f.eb - 1 then
      if fr = 0 then .inf neg else .nan (t != .e5m2 && !fr.testBit (f.fb - 1))
    else num
  | .e4m3 => if ex = 15 ∧ fr = 7 then .nan false else num
  | .e2m1 => if neg && ex == 0 && fr == 0 then .nan false else num

/-- A finite value is subnormal in a format (R38). -/
def fSubnormal (t : FTy) : FVal → Bool
  | .fin _ m e => m != 0 && (Nat.log2 m : Int) + e < fMinExp (ffmt t)
  | _ => false

/-- An operand read with FTZ (R40). -/
def fFlush (ftz : Bool) (t : FTy) (x : FVal) : FVal :=
  match x with
  | .fin neg _ e => if ftz && fSubnormal t x then .fin neg 0 e else x
  | _ => x

/-- Operand by type and FTZ. -/
def fOperand (t : FTy) (ftz : Bool) (c : Nat) : FVal := fFlush ftz t (fDecode t c)

/-- The negation of a value. -/
def fNeg : FVal → FVal
  | .nan b => .nan b
  | .inf n => .inf !n
  | .fin n m e => .fin (!n) m e

/-! ## Rounding (R41 to R43) -/

/-- m × 2^(−d) rounded to an integer, and whether it changed. -/
def roundShift (rm : RMode) (neg : Bool) (m d : Nat) : Nat × Bool :=
  let n := m / 2 ^ d
  let r := m % 2 ^ d
  let up := match rm with
    | .rn => 2 ^ d < 2 * r || (2 * r == 2 ^ d && n % 2 == 1)
    | .rz => false
    | .rm => neg && r != 0
    | .rp => !neg && r != 0
  (if up then n + 1 else n, r != 0)

/-- A finite value as an integer by a mode, and whether it changed. -/
def roundInteger (rm : RMode) (neg : Bool) (m : Nat) (e : Int) : Nat × Bool :=
  if 0 ≤ e then (m * 2 ^ e.toNat, false) else roundShift rm neg m (-e).toNat

/-- A code and the flags raised in delivering it. -/
structure FRes where
  code  : Nat
  flags : Word
  deriving DecidableEq, Repr

/-- A finite value overflows (R41, R42, Table 3.3). -/
def fOverflow (t : FTy) (rm : RMode) (sat neg : Bool) : FRes :=
  let toInf := match rm with
    | .rn => true
    | .rz => false
    | .rm => neg
    | .rp => !neg
  ⟨if toInf && !sat then fInfCode t neg else fMaxCode t neg, flOverflow ||| flInexact⟩

/-- `round(x, t, rm)` with saturation (R41 to R43). -/
def fRound (t : FTy) (rm : RMode) (sat : Bool) (x : FVal) : FRes :=
  let f := ffmt t
  match x with
  | .nan s => ⟨fNanCode t, flagIf (s || f.style == .e2m1) flInvalid⟩
  | .inf neg =>
    if f.style == .ieee then ⟨fInfCode t neg, 0⟩
    else ⟨if sat then fMaxCode t neg else fInfCode t neg, flInvalid⟩
  | .fin neg m e =>
    if m = 0 then ⟨fZeroCode t neg, 0⟩
    else
      let q := max ((Nat.log2 m : Int) + e) (fMinExp f) - f.fb
      let r := if q ≤ e then (m * 2 ^ (e - q).toNat, false) else roundShift rm neg m (q - e).toNat
      let n := r.1
      let mx := fMax f
      if n = 0 then ⟨fZeroCode t neg, flagIf r.2 flInexact⟩
      else if mx.2 ≤ q ∧ mx.1 < n * 2 ^ (q - mx.2).toNat then fOverflow t rm sat neg
      else
        ⟨fSign t neg + n + (q + f.fb + f.bias - 1).toNat * 2 ^ f.fb,
          flagIf r.2 flInexact ||| flagIf (r.2 && n < 2 ^ f.fb) flUnderflow⟩

/-- A subnormal result under FTZ (R40, R128). -/
def fFlushRes (ftz : Bool) (t : FTy) (r : FRes) : FRes :=
  if ftz && fSubnormal t (fDecode t r.code) then
    ⟨fZeroCode t (r.code.testBit (fWidth t - 1)), r.flags ||| flUnderflow ||| flInexact⟩
  else r

/-- `wrf` (R128): round, saturate, flush. -/
def fDeliver (t : FTy) (m : FMod) (x : FVal) : FRes := fFlushRes m.ftz t (fRound t m.rm m.sat x)

/-! ## Exact arithmetic (R39, R130) -/

/-- A value and the invalid flag raised in forming it. -/
abbrev FOut := FVal × Word

/-- Invalid for a signalling operand. -/
def fSignals (xs : List FVal) : Word := flagIf (xs.any (· == .nan true)) flInvalid

/-- A value is a NaN. -/
def fIsNan : FVal → Bool
  | .nan _ => true
  | _ => false
/-- A value is a zero. -/
def fIsZero : FVal → Bool
  | .fin _ m _ => m == 0
  | _ => false
/-- A value is an infinity. -/
def fIsInf : FVal → Bool
  | .inf _ => true
  | _ => false

/-- A finite value as an integer multiple of 2^e0, e0 at most its exponent. -/
def fScaled (neg : Bool) (m : Nat) (e e0 : Int) : Int :=
  let n : Int := (m * 2 ^ (e - e0).toNat : Nat)
  if neg then -n else n

/-- x + y. -/
def fAdd (rm : RMode) (x y : FVal) : FOut :=
  if fIsNan x || fIsNan y then (.nan false, fSignals [x, y])
  else
    match x, y with
    | .inf a, .inf b => if a == b then (.inf a, 0) else (.nan false, flInvalid)
    | .inf a, _ => (.inf a, 0)
    | _, .inf b => (.inf b, 0)
    | .fin a m e, .fin b n k =>
      let e0 := min e k
      let s := fScaled a m e e0 + fScaled b n k e0
      if s = 0 then (.fin (if m == 0 && n == 0 && a == b then a else rm == .rm) 0 e0, 0)
      else (.fin (decide (s < 0)) s.natAbs e0, 0)
    | x, _ => (x, 0)

/-- The sign of a value. -/
def fSignBit : FVal → Bool
  | .nan _ => false
  | .inf n => n
  | .fin n _ _ => n

/-- x × y. -/
def fMul (x y : FVal) : FOut :=
  let neg := fSignBit x != fSignBit y
  if fIsNan x || fIsNan y then (.nan false, fSignals [x, y])
  else if (fIsInf x && fIsZero y) || (fIsZero x && fIsInf y) then (.nan false, flInvalid)
  else
    match x, y with
    | .fin _ m e, .fin _ n k => (.fin neg (m * n) (e + k), 0)
    | _, _ => (.inf neg, 0)

/-- x × y + z with one rounding; ∞ × 0 is invalid whatever z (R130). -/
def fFma (rm : RMode) (x y z : FVal) : FOut :=
  if (fIsInf x && fIsZero y) || (fIsZero x && fIsInf y) then (.nan false, flInvalid)
  else if fIsNan x || fIsNan y || fIsNan z then (.nan false, fSignals [x, y, z])
  else fAdd rm (fMul x y).1 z

/-- A value rounded and delivered with the flags of its forming. -/
def fFinish (t : FTy) (m : FMod) (x : FOut) : FRes :=
  let r := fDeliver t m x.1
  ⟨r.code, x.2 ||| r.flags⟩

/-- `fadd` on codes. -/
def faddCode (t : FTy) (m : FMod) (a b : Nat) : FRes :=
  fFinish t m (fAdd m.rm (fOperand t m.ftz a) (fOperand t m.ftz b))
/-- `fsub` on codes. -/
def fsubCode (t : FTy) (m : FMod) (a b : Nat) : FRes :=
  fFinish t m (fAdd m.rm (fOperand t m.ftz a) (fNeg (fOperand t m.ftz b)))
/-- `fmul` on codes. -/
def fmulCode (t : FTy) (m : FMod) (a b : Nat) : FRes := fFinish t m (fMul (fOperand t m.ftz a) (fOperand t m.ftz b))
/-- `ffma` on codes. -/
def ffmaCode (t : FTy) (m : FMod) (a b c : Nat) : FRes :=
  fFinish t m (fFma m.rm (fOperand t m.ftz a) (fOperand t m.ftz b) (fOperand t m.ftz c))

/-- .rn with neither FTZ nor SAT. -/
def fPlain : FMod := ⟨.rn, false, false⟩

/-! ## Ordering (R131 to R133) -/

/-- The relation of two values, −0 equal to +0. -/
def relF (x y : FVal) : Rel :=
  match x, y with
  | .nan _, _ => .unordered
  | _, .nan _ => .unordered
  | .inf a, .inf b => if a == b then .eq else if a then .lt else .gt
  | .inf a, _ => if a then .lt else .gt
  | _, .inf b => if b then .gt else .lt
  | .fin a m e, .fin b n k =>
    let e0 := min e k
    relInt (fScaled a m e e0) (fScaled b n k e0)

/-- x is below y in the order of R131, −0 below +0. -/
def fBelow (x y : FVal) : Bool :=
  match relF x y with
  | .lt => true
  | .eq => fSignBit x && !fSignBit y
  | _ => false

/-- `fmin` and `fmax` on codes (R131). -/
def fminmaxCode (t : FTy) (ftz mx : Bool) (a b : Nat) : FRes :=
  let x := fOperand t ftz a
  let y := fOperand t ftz b
  let fl := fSignals [x, y]
  let code (v : FVal) (c : Nat) : Nat := if fIsZero v then fZeroCode t (fSignBit v) else c % 2 ^ fWidth t
  if fIsNan x && fIsNan y then ⟨fNanCode t, fl⟩
  else if fIsNan x then ⟨code y b, fl⟩
  else if fIsNan y then ⟨code x a, fl⟩
  else if (if mx then fBelow x y else fBelow y x) then ⟨code y b, fl⟩
  else ⟨code x a, fl⟩

/-- Invalid of `fset` (R132). -/
def fsetFlags (cmp : Cmp) (x y : FVal) : Word :=
  if cmpSignals cmp then flagIf (fIsNan x || fIsNan y) flInvalid else fSignals [x, y]

/-- The magnitude m × 2^e is at least n. -/
def magGe (m : Nat) (e : Int) (n : Nat) : Bool := n * 2 ^ (-e).toNat ≤ m * 2 ^ e.toNat

/-- `fclass` (Table 7.2). -/
def fclassMask (t : FTy) (x : FVal) : Nat :=
  match x with
  | .nan s => if s then 1 else 2
  | .inf neg => 2 ^ 12 + 2 ^ 11 + 2 ^ 10 + (if neg then 2 ^ 2 else 2 ^ 9)
  | .fin neg m e =>
    (if m = 0 then (if neg then 2 ^ 5 else 2 ^ 6)
     else if fSubnormal t x then (if neg then 2 ^ 4 else 2 ^ 7)
     else (if neg then 2 ^ 3 else 2 ^ 8))
    + (if magGe m e 65520 then 2 ^ 12 else 0) + (if magGe m e 61440 then 2 ^ 11 else 0)
    + (if magGe m e 464 && !(magGe m e 464 && m * 2 ^ e.toNat == 464 * 2 ^ (-e).toNat) then 2 ^ 10 else 0)

/-! ## Conversion (R136) -/

/-- The value of a conversion source, and the format flag of an E2M1 escape. -/
def cvtSource (t : FTy) (ftz : Bool) (c : Nat) : FOut :=
  let c := c % 2 ^ fWidth t
  if t == .e2m1x && c == 8 then (.nan false, flFormat) else (fOperand t ftz c, 0)

/-- A float to an integer type: the integer delivered and its flags. -/
def cvtToInt (ty : ITy) (m : FMod) (x : FVal) : Int × Word :=
  match x with
  | .nan _ => (0, flInvalid)
  | .inf neg => (if neg then itMin ty else itMax ty, flInvalid)
  | .fin neg mm e =>
    let r := roundInteger m.rm neg mm e
    let n : Int := if neg then -(r.1 : Int) else r.1
    let outside := decide (n < itMin ty) || decide (itMax ty < n)
    (if m.sat then clampI ty n else n, flagIf r.2 flInexact ||| flagIf outside flInvalid)

/-- A value to a float type. -/
def cvtToFloat (t : FTy) (m : FMod) (x : FVal) : FRes := fDeliver t m x

/-- A value of a float type to an integral value of the same type. -/
def cvtIntegral (t : FTy) (m : FMod) (x : FVal) : FRes :=
  match x with
  | .fin neg mm e =>
    let r := roundInteger m.rm neg mm e
    let d := fDeliver t m (.fin neg r.1 0)
    ⟨d.code, d.flags ||| flagIf r.2 flInexact⟩
  | _ => fDeliver t m x

/-- An integer as a value. -/
def fOfInt (x : Int) : FVal := .fin (decide (x < 0)) x.natAbs 0

/-! ## Scales (R51, R139) -/

/-- m × 2^e ≤ M × 2^k. -/
def magLe (m : Nat) (e : Int) (M : Nat) (k : Int) : Bool :=
  let e0 := min e k
  m * 2 ^ (e - e0).toNat ≤ M * 2 ^ (k - e0).toNat

/-- The smallest integer k with m × 2^e ≤ M × 2^k, clamped to [−127, 127]; −127 for a zero. -/
def scaleExp (m : Nat) (e : Int) (M : Nat) : Int :=
  if m = 0 then -127
  else
    let k := (Nat.log2 m : Int) + e - Nat.log2 M
    max (-127) (min 127 (if magLe m e M k then k else k + 1))

/-- A value times 2^k. -/
def fScale2 (k : Int) : FVal → FVal
  | .fin n m e => .fin n m (e + k)
  | x => x

/-! ## Reciprocal and square root (Table 7.3) -/

/-- Integer square root of n, one bit at a time from bit b − 1. -/
def isqrtAux (n : Nat) : Nat → Nat → Nat
  | 0, r => r
  | b + 1, r =>
    let r' := r + 2 ^ b
    isqrtAux n b (if r' * r' ≤ n then r' else r)
/-- Integer square root. -/
def isqrt (n : Nat) : Nat := isqrtAux n (Nat.log2 n / 2 + 1) 0

/-- An inexact tail as one more bit below the last. -/
def withTail (neg : Bool) (m : Nat) (e : Int) (tail : Bool) : FVal := .fin neg (2 * m + if tail then 1 else 0) (e - 1)

/-- 1 ÷ x to more bits than any format keeps. -/
def fRcp (x : FVal) : FOut :=
  match x with
  | .nan s => (.nan false, flagIf s flInvalid)
  | .inf n => (.fin n 0 0, 0)
  | .fin n m e =>
    if m = 0 then (.inf n, flDivZero)
    else
      let k := Nat.log2 m + 48
      (withTail n (2 ^ k / m) (-(k : Int) - e) (2 ^ k % m != 0), 0)

/-- √x to more bits than any format keeps. -/
def fSqrt (x : FVal) : FOut :=
  match x with
  | .nan s => (.nan false, flagIf s flInvalid)
  | .inf n => if n then (.nan false, flInvalid) else (x, 0)
  | .fin n m e =>
    if m = 0 then (x, 0)
    else if n then (.nan false, flInvalid)
    else
      let odd := (e % 2).toNat
      let big := m * 2 ^ (64 + odd)
      let r := isqrt big
      (withTail false r ((e - odd - 64) / 2) (r * r != big), 0)

/-! ## The functions that Table 7.3 bounds (R134, log 6) -/

/-- Fraction bits of the fixed-point references. -/
def refBits : Nat := 96
/-- One in fixed point. -/
def refOne : Int := (2 ^ refBits : Nat)
/-- ln 2 in fixed point. -/
def refLn2 : Int := 54916777467707473351141471128
/-- Fraction bits with which an angle is reduced: enough for the greatest FP32 value. -/
def turnBits : Nat := 256
/-- π with `turnBits` fraction bits. -/
def refPi : Int := 363771576891766324280234942777729862653393377328392429958772151117938894466185

/-- Product in fixed point. -/
def refMul (a b : Int) : Int := a * b / refOne

/-- Sum of x^k / k! for k below n + 1 by Horner's rule, `i` terms left. -/
def refExpAux (x : Int) : Nat → Int → Int
  | 0, acc => acc
  | i + 1, acc => refExpAux x i (refOne + refMul x acc / (i + 1 : Nat))
/-- e^x for |x| at most 1, in fixed point. -/
def refExp (x : Int) : Int := refExpAux x 30 refOne

/-- 2^x for a fixed-point x: mantissa in [1, 2) and exponent. -/
def refExp2 (x : Int) : Int × Int := (refExp (refMul (x % refOne) refLn2), x / refOne)

/-- Bits of log₂ of a fixed-point y in [1, 2), by squaring. -/
def refLog2Aux : Nat → Int → Int → Int → Int
  | 0, _, _, acc => acc
  | i + 1, y, w, acc =>
    let z := refMul y y
    if 2 * refOne ≤ z then refLog2Aux i (z / 2) (w / 2) (acc + w / 2) else refLog2Aux i z (w / 2) acc
/-- log₂ of a fixed-point y in [1, 2). -/
def refLog2 (y : Int) : Int := refLog2Aux 64 y refOne 0

/-- sin and cos of |x| at most 1 by series: the term and its next factor. -/
def refSinAux (x2 : Int) : Nat → Nat → Int → Int → Int
  | 0, _, _, acc => acc
  | i + 1, k, t, acc =>
    let t' := -(refMul t x2) / ((k + 1) * (k + 2) : Nat)
    refSinAux x2 i (k + 2) t' (acc + t')
/-- sin x for |x| at most 2. -/
def refSin (x : Int) : Int := refSinAux (refMul x x) 20 1 x x
/-- cos x for |x| at most 2. -/
def refCos (x : Int) : Int := refSinAux (refMul x x) 20 0 refOne refOne

/-- sin of an x with `turnBits` fraction bits, reduced by quarter turns; `add` quarter turns more. -/
def refSinTurn (x : Int) (add : Nat) : Int :=
  let half := refPi / 2
  let k := (x + half / 2) / half
  let r := (x - k * half) / (2 ^ (turnBits - refBits) : Nat)
  match ((k + add) % 4).toNat with
  | 0 => refSin r
  | 1 => refCos r
  | 2 => -(refSin r)
  | _ => -(refCos r)

/-- A finite value with `bits` fraction bits, rounded down: a value below 0 stays below 0, so the reference of 2^x for
it stays below 1 and is held to the units in the last place there (R134). -/
def fixedOf (bits : Nat) (neg : Bool) (m : Nat) (e : Int) : Int :=
  let k := e + bits
  let n : Int := if neg then -(m : Int) else m
  if 0 ≤ k then n * 2 ^ k.toNat else n / 2 ^ (-k).toNat

/-- A finite value in fixed point. -/
def refOf (neg : Bool) (m : Nat) (e : Int) : Int := fixedOf refBits neg m e

/-- The functions of Table 7.3 that have a bound and no bits. -/
inductive SFn where | rsq | ex2 | lg2 | sin | cos | tanh
  deriving DecidableEq, Repr

/-- Opcode of a function. -/
def sfnCode : SFn → Nat
  | .rsq => 0x89 | .ex2 => 0x8B | .lg2 => 0x8C | .sin => 0x8D | .cos => 0x8E | .tanh => 0x8F

/-- The function of a finite nonzero operand as n × 2^e. -/
def sfnRef (fn : SFn) (neg : Bool) (m : Nat) (e : Int) : Int × Int :=
  match fn with
  | .rsq =>
    let j := 2 * Nat.log2 m + 192 + (e % 2).toNat
    (isqrt (2 ^ j / m), -(((j : Int) + e) / 2))
  | .ex2 => if (Nat.log2 m : Int) + e < 9 then
      let r := refExp2 (refOf neg m e)
      (r.1, r.2 - refBits)
    else (1, if neg then -(2 ^ 10) else 2 ^ 10)
  | .lg2 =>
    let k := Nat.log2 m
    (refLog2 (refOf false m (-(k : Int))) + ((k : Int) + e) * refOne, -refBits)
  | .sin => (refSinTurn (fixedOf turnBits neg m e) 0, -refBits)
  | .cos => (refSinTurn (fixedOf turnBits neg m e) 1, -refBits)
  | .tanh =>
    if (Nat.log2 m : Int) + e < 4 then
      let y := 2 * refOf false m e
      let r := refExp2 (y * refOne / refLn2)
      let ex := r.1 * 2 ^ r.2.toNat
      let v := (ex - refOne) * refOne / (ex + refOne)
      (if neg then -v else v, -refBits)
    else (if neg then -refOne else refOne, -refBits)

/-- The exact operands of Table 7.3 and the values they give; `none` elsewhere. -/
def sfnExact (fn : SFn) (x : FVal) : Option FOut :=
  match x with
  | .nan s => some (.nan false, flagIf s flInvalid)
  | .inf neg =>
    match fn with
    | .rsq => some (if neg then (.nan false, flInvalid) else (.fin false 0 0, 0))
    | .ex2 => some (if neg then (.fin false 0 0, 0) else (.inf false, 0))
    | .lg2 => some (if neg then (.nan false, flInvalid) else (.inf false, 0))
    | .sin | .cos => some (.nan false, flInvalid)
    | .tanh => some (.fin neg 1 0, 0)
  | .fin neg m e =>
    let k := Nat.log2 m
    let pow2 := m == 2 ^ k
    match fn with
    | .rsq =>
      if m = 0 then some (.inf neg, flDivZero)
      else if neg then some (.nan false, flInvalid)
      else if pow2 && ((k : Int) + e) % 2 == 0 then some (.fin false 1 (-(((k : Int) + e) / 2)), 0)
      else none
    | .ex2 =>
      if m = 0 then some (.fin false 1 0, 0)
      else if (k : Int) + e < 9 ∧ (roundInteger .rz neg m e).2 = false then
        let n : Int := if neg then -((roundInteger .rz neg m e).1 : Int) else (roundInteger .rz neg m e).1
        if -149 ≤ n ∧ n ≤ 127 then some (.fin false 1 n, 0) else none
      else none
    | .lg2 =>
      if m = 0 then some (.inf true, flDivZero)
      else if neg then some (.nan false, flInvalid)
      else if pow2 then some (fOfInt ((k : Int) + e), 0)
      else none
    | .sin => if m = 0 then some (x, 0) else none
    | .cos => if m = 0 then some (.fin false 1 0, 0) else none
    | .tanh =>
      if m = 0 then some (x, 0)
      else if magLe 901 0 (100 * m) e then some (.fin neg 1 0, 0)
      else none

/-- Numerator and exponent of the error that Table 7.3 allows, for an operand and a reference n × 2^k. -/
def sfnBound (fn : SFn) (m : Nat) (e : Int) (n k : Int) : Nat × Int :=
  let ulps : Nat × Int := (2, max ((Nat.log2 n.natAbs : Int) + k) (-126) - 23)
  match fn with
  | .rsq | .ex2 => ulps
  | .lg2 => if magLe 1 (-1) m e && magLe m e 1 1 then (1, -22) else ulps
  | .sin | .cos =>
    let e0 := min (-21) (e - 24)
    (2 ^ (-21 - e0).toNat + m * 2 ^ (e - 24 - e0).toNat, e0)
  | .tanh => (1, -21)

/-- A code's value lies within a bound of the true result: it keeps from the reference the bound less 2^-20 of it, which
is more than the reference's own error. -/
def sfnWithin (c : Nat) (n k : Int) (b : Nat × Int) : Bool :=
  match fDecode .f32 c with
  | .fin neg m e =>
    let e0 := min (min e k) (min b.2 (-160))
    let d := fScaled neg m e e0 - n * 2 ^ (k - e0).toNat
    d.natAbs + (b.1 * 2 ^ (b.2 - e0).toNat) / 2 ^ 20 + 1 ≤ b.1 * 2 ^ (b.2 - e0).toNat
  | _ => false

/-- An FP32 code rounded to FP16 keeps within one unit in the last place of FP16 of the true result (R134), the
reference's own error again taken off. -/
def sfnWithin16 (c : Nat) (n k : Int) : Bool :=
  match fDecode .f16 (fRound .f16 .rn false (fDecode .f32 c)).code with
  | .fin neg m e =>
    let u := max ((Nat.log2 (n.natAbs - 2 ^ 16) : Int) + k) (-14) - 10
    let e0 := min (min e k) (min u (-160))
    let d := fScaled neg m e e0 - n * 2 ^ (k - e0).toNat
    d.natAbs + 2 ^ (u - e0).toNat / 2 ^ 20 + 1 ≤ 2 ^ (u - e0).toNat
  | _ => true

/-- A bounded function in FP32: the unit's own code when it keeps the bound, and FP16's where it is rounded to FP16, else
the nearest code to the reference. -/
def sfnCode32 (fn : SFn) (t : FTy) (m : FMod) (neg : Bool) (mm : Nat) (e : Int) (operand : Nat) : FRes :=
  let ref := sfnRef fn neg mm e
  let near := fRound .f32 .rn m.sat (.fin (decide (ref.1 < 0)) ref.1.natAbs ref.2)
  if flOverflow &&& near.flags != 0 then near
  else
    let c := Config.specialCode (sfnCode fn) operand ((if m.ftz then 1 else 0) + (if m.sat then 2 else 0)) % 2 ^ 32
    let code := if sfnWithin c ref.1 ref.2 (sfnBound fn mm e ref.1 ref.2) && (t == .f32 || sfnWithin16 c ref.1 ref.2)
      then c else near.code
    ⟨code, flInexact ||| flagIf (fSubnormal .f32 (fDecode .f32 code)) flUnderflow⟩

/-- A bounded special function on a code (R134). -/
def sfnCodeOf (fn : SFn) (t : FTy) (m : FMod) (c : Nat) : FRes :=
  let x := fOperand t m.ftz c
  let step : FRes := match sfnExact fn x with
    | some o =>
      let r := fRound .f32 .rn m.sat o.1
      ⟨r.code, o.2 ||| r.flags⟩
    | none =>
      match x with
      | .fin neg mm e => sfnCode32 fn t m neg mm e (fRound .f32 .rn false x).code
      | _ => ⟨fNanCode .f32, 0⟩
  if t == .f32 then fFlushRes m.ftz .f32 step
  else
    let r := fDeliver t m (fDecode .f32 step.code)
    ⟨r.code, step.flags ||| r.flags⟩

end Sys2Proof.Machine
end

