-- ==== Sys2Proof/Machine/PageFormat.lean ====
section
/-!
DEFINITION. Formatted pages (R44 to R55): the storage places of an element within its 4 KiB format unit, decoding, and
the bytes that a store writes. A unit is read through a function from its byte offsets.
-/

namespace Sys2Proof.Machine

/-! ## Formats of Table 3.5 -/

/-- The float format of an E4M3 or E5M2 page. -/
def pageByteTy (fmt : Nat) : FTy := if fmt == 1 then .e4m3 else .e5m2
/-- A BPn page. -/
def pageIsBp (fmt : Nat) : Bool := 9 ≤ fmt
/-- n of a BPn page. -/
def pageBpN (fmt : Nat) : Nat := fmt - 7
/-- The first byte of the format unit of a key (R45): units and frames are both 4 KiB. -/
def unitBase (key : Nat) : Nat := key / 4096 * 4096

/-! ## E2M1X (R48 to R52) -/

/-- Elements of a block. -/
def blockLen (geom : Nat) : Nat := if geom == 0 then 16 else 32
/-- Offset of a block's codes. -/
def blockCodes (b : Nat) : Nat := 16 * b
/-- Offset of a block's metadata word. -/
def blockMeta (geom b : Nat) : Nat := if geom == 0 then 16 * b + 8 else 2048 + 8 * b

/-- Bytes lo to lo + n − 1 of a unit as a number. -/
def unitBytes (rd : Nat → Nat) (lo : Nat) : Nat → Nat
  | 0 => 0
  | n + 1 => rd lo + 256 * unitBytes rd (lo + 1) n

/-- The value of an element code (Table 3.6). -/
def e2m1Value (c : Nat) : FVal := fDecode .e2m1x c

/-- `dec_e2m1x` (R50): the value and the format flag. -/
def decE2m1x (code w j : Nat) : FOut :=
  let sc := bitsN w 7 0
  let n := bitsN w 9 8
  let k : Int := (sc : Int) - 127
  if sc == 0xFF || n == 3 then (.nan false, flFormat)
  else if code != 8 then (fScale2 k (e2m1Value code), 0)
  else
    let entry (v : Nat) : FOut :=
      match fDecode .f16 v with
      | .nan _ => (.nan false, 0)
      | x => (fScale2 k x, 0)
    if 0 < n && bitsN w 14 10 == j then entry (bitsN w 30 15)
    else if 1 < n && bitsN w 35 31 == j then entry (bitsN w 51 36)
    else (.nan false, flFormat)

/-- Element j of block b of a unit (R49). -/
def blockElem (geom : Nat) (rd : Nat → Nat) (b j : Nat) : FOut :=
  let byte := rd (blockCodes b + j / 2)
  decE2m1x (if j % 2 == 0 then byte % 16 else byte / 16 % 16) (unitBytes rd (blockMeta geom b) 8) j

/-- |x| is greater than |y|, both finite. -/
def magGt (x y : FVal) : Bool :=
  match x, y with
  | .fin _ m e, .fin _ n k => !magLe m e n k
  | _, _ => false

/-- Of the listed indices, the finite nonzero element of greatest magnitude, the lower index on a tie. -/
def greatestOf (xs : List (Nat × FVal)) : Option (Nat × FVal) :=
  xs.foldl (fun best x =>
    match x.2 with
    | .fin _ m _ =>
      if m == 0 then best
      else match best with
        | none => some x
        | some y => if magGt x.2 y.2 then some x else best
    | _ => best) none

/-- x is a NaN or an infinity. -/
def fSpecial (x : FVal) : Bool := fIsNan x || fIsInf x

/-- Up to two outlier candidates (R51). -/
def candidates (xs : List (Nat × FVal)) : List Nat :=
  let sp := (xs.filter fun x => fSpecial x.2).map (·.1) |>.take 2
  let fin := xs.filter fun x => !fSpecial x.2
  let one := if sp.length < 2 then greatestOf fin else none
  let two := if sp.length < 1 then
      match one with
      | some y => greatestOf (fin.filter fun x => x.1 != y.1)
      | none => none
    else none
  sp ++ (one.map (·.1)).toList ++ (two.map (·.1)).toList

/-- The scale exponent e of R51. -/
def blockExp (xs : List (Nat × FVal)) : Int :=
  let cand := candidates xs
  match greatestOf (xs.filter fun x => !cand.contains x.1) with
  | some (_, .fin _ m e) => scaleExp m e 6
  | _ => -127

/-- The outliers, ascending (R51). -/
def outliers (xs : List (Nat × FVal)) : List (Nat × FVal) :=
  let cand := candidates xs
  let k := blockExp xs
  xs.filter fun x => cand.contains x.1 && match x.2 with
    | .fin _ m e => !magLe m e 6 k
    | _ => true

/-- The FP16 value of an outlier entry. -/
def outlierVal (k : Int) (x : FVal) : Nat := (fRound .f16 .rn true (fScale2 (-k) x)).code

/-- `enc_e2m1x` (R51): the element codes and the metadata word. -/
def encE2m1x (xs : List (Nat × FVal)) : List Nat × Nat :=
  let k := blockExp xs
  let out := outliers xs
  let codes := xs.map fun x =>
    if out.any (·.1 == x.1) || fSpecial x.2 then 8
    else (fRound .e2m1x .rn true (fScale2 (-k) x.2)).code
  let entry (i : Nat) : Nat := match out[i]? with
    | some x => x.1 + 2 ^ 5 * outlierVal k x.2
    | none => 0
  (codes, (k + 127).toNat + 2 ^ 8 * out.length + 2 ^ 10 * entry 0 + 2 ^ 31 * entry 1)

/-- Bytes of a number, from an offset. -/
def bytesAt (off n v : Nat) : List (Nat × Nat) := (List.range n).map fun i => (off + i, v / 256 ^ i % 256)

/-- Element codes packed two to a byte. -/
def packNibbles : List Nat → Nat
  | [] => 0
  | c :: t => c + 16 * packNibbles t

/-- The bytes of a block re-encoded with the elements that `new` gives (R51). -/
def blockStore (geom : Nat) (rd : Nat → Nat) (b : Nat) (new : Nat → Option FVal) : List (Nat × Nat) :=
  let n := blockLen geom
  let xs := (List.range n).map fun j => (j, (new j).getD (blockElem geom rd b j).1)
  let r := encE2m1x xs
  bytesAt (blockCodes b) (n / 2) (packNibbles r.1) ++ bytesAt (blockMeta geom b) 8 r.2

/-! ## Bit planes (R53 to R55) -/

/-- Offset of the byte of plane p that holds element j of a unit, and its bit. -/
def planePlace (n p j : Nat) : Nat × Nat := (128 * n * (j / 1024) + 128 * p + j % 1024 / 8, j % 8)

/-- The first k planes of element j of a BPn unit, as n bits with the lower ones filled (R54). -/
def bpElem (n k : Nat) (mid : Bool) (rd : Nat → Nat) (j : Nat) : Int :=
  let bit (p : Nat) : Nat := let x := planePlace n p j; rd x.1 / 2 ^ x.2 % 2
  let v := (List.range k).foldl (fun acc p => acc + bit p * 2 ^ (n - 1 - p)) 0
  sextN (if mid && k < n then v + 2 ^ (n - k - 1) else v) n

/-- An integer saturated to n bits (R55). -/
def bpSat (n : Nat) (x : Int) : Int := max (-(2 ^ (n - 1) : Nat)) (min ((2 ^ (n - 1) : Nat) - 1) x)

/-- The bytes that a store of element j writes: one bit in each plane. -/
def bpStore (n : Nat) (rd : Nat → Nat) (j : Nat) (x : Int) : List (Nat × Nat) :=
  let v := zextI (bpSat n x) n
  (List.range n).map fun p =>
    let pl := planePlace n p j
    let old := rd pl.1
    (pl.1, old - old / 2 ^ pl.2 % 2 * 2 ^ pl.2 + v / 2 ^ (n - 1 - p) % 2 * 2 ^ pl.2)

/-! ## Elements of a page (R46, R47) -/

/-- The value of element j of a float-format unit, with the format flag. -/
def pageFloat (fmt geom : Nat) (rd : Nat → Nat) (j : Nat) : FOut :=
  if fmt == 3 then blockElem geom rd (j / blockLen geom) (j % blockLen geom)
  else (fDecode (pageByteTy fmt) (rd j), 0)

/-- The bytes that a store of a float value to element j writes (R47). -/
def pageFloatStore (fmt geom : Nat) (rd : Nat → Nat) (j : Nat) (x : FVal) : List (Nat × Nat) :=
  if fmt == 3 then
    let n := blockLen geom
    blockStore geom rd (j / n) fun i => if i == j % n then some x else none
  else [(j, (fRound (pageByteTy fmt) .rn true x).code)]

/-- Storage bytes of a unit that its layout uses; those beyond are reserved, and stores write them as zero (R45, Table
3.5). -/
def unitUsed (fmt geom : Nat) : Nat :=
  if fmt == 3 && geom == 1 then 3072 else if pageIsBp fmt then 512 * pageBpN fmt else 4096

/-- Byte ranges of a unit that decoding element j reads. -/
def pageTouches (fmt geom j : Nat) : List (Nat × Nat) :=
  if fmt == 3 then
    let b := j / blockLen geom
    [(blockCodes b, blockLen geom / 2), (blockMeta geom b, 8)]
  else if pageIsBp fmt then (List.range (pageBpN fmt)).map fun p => ((planePlace (pageBpN fmt) p j).1, 1)
  else [(j, 1)]

end Sys2Proof.Machine
end

