-- ==== Sys2Proof/Machine/Copies.lean ====
section
/-!
DEFINITION. Writing memory at a bank: commons tags (R379), versions of class 2 (R364), poison (R160, R383), the stored
ciphertext (R358, R363), and landing the bytes of a copy; the records of the engines (R342).
-/

namespace Sys2Proof.Machine

/-! ## One write at a bank -/

/-- Writes to the commons carry the writer's ASID (R379). -/
def tagCommons (s : State) (asid key n : Nat) : State :=
  if key / 2 ^ 128 == 3 then
    let first := key / 128
    let s1 := { s with cmnTags := tput 0 s.cmnTags first asid }
    { s1 with cmnTags := tput 0 s1.cmnTags ((key + n - 1) / 128) asid }
  else s

/-- Every translation of a context leaves every TLB (R338). -/
def dropTlb (s : State) (asid : Nat) : State :=
  { s with dies := s.dies.map fun d => { d with tlb := d.tlb.filter (·.asid != asid), l1 := d.l1.filter (·.2.asid != asid) } }

/-- A write meets the reservations of RISC-V cores into whose eight bytes it goes (R271). -/
def noteWrite (s : State) (key n : Nat) : State :=
  match (s.rv.filterMap (·.2.reserve)).filter fun k => k < key + n && key < k + 8 with
  | [] => s
  | ks => { s with written := s.written ++ ks }

/-- One write of the line of a key: `w` is the state with it performed. In class 2 it raises the line's version; one that
would take it past 2^56 − 1 is not performed and poisons the line (R364). -/
def writeLine (s : State) (key : Nat) (w : State) : State :=
  if keyClass2 s key then
    let l := key / 64
    let ver := tget 0 s.versions l
    if ver = 2 ^ 56 - 1 then addPoison (addPoison s (2 * l)) (2 * l + 1)
    else { w with versions := tput 0 w.versions l (ver + 1) }
  else w

/-- Write bytes of one line as one access of a context; poison stays (R160). The MACs and the tree of R364 are computed
from what is stored, so they agree with every line whose storage cells keep what was written; a line that cells have
changed is an error that a read meets (R382). -/
def bankWrite (s : State) (asid key n v : Nat) : State :=
  writeLine s key (noteWrite (tagCommons { s with mem := memWrite s.mem key n v } asid key n) key n)

/-- Bytes of a page written as one access: one write of each line in which they lie. -/
def bankBytes (s : State) (asid : Nat) (ws : List (Nat × Nat)) : State :=
  ((ws.map (·.1 / 64)).dedup).foldl (fun s l =>
    writeLine s (64 * l) ((ws.filter (·.1 / 64 == l)).foldl (fun w b =>
      noteWrite (tagCommons { w with mem := memPut w.mem b.1 (BitVec.ofNat 8 b.2) } asid b.1 1) b.1 1) s)) s

/-- Poison leaves the sectors that one instruction wrote whole (R160). -/
def clearPoison (s : State) (ws : List (Nat × Nat)) : State :=
  { s with poison := s.poison.filter fun p =>
      !((List.range 32).all fun i => ws.any fun w => w.1 ≤ p * 32 + i && p * 32 + i < w.1 + w.2) }

/-- Count an access from a die toward the re-homing of its device-placed page: every access to a frame counts, those
that an L1 cache could serve too (R304, log 66). -/
def touchFrame (s : State) (die key : Nat) : State :=
  match keyFrame s key with
  | some (c, f) =>
    let count (x : FrameRec) : FrameRec := { x with counts := tput 0 x.counts die (tget 0 x.counts die + 1) }
    if f.home == 2 then modCtx s c.asid fun c => { c with frames := modBy (·.lfn == f.lfn) count c.frames } else s
  | none => s

/-- A fetched word is read at its page: it counts there (R304), and meets what errors stand there (R382). -/
def countFetch (s : State) (c : Context) (die pc : Nat) : State :=
  match (fetchWord s c die pc).1 with
  | .ok key .. => meetUpsets (touchFrame s die key) [(key, 8)]
  | _ => s

/-! ## Landing bytes -/

/-- Bytes as a number, least significant first. -/
def leNum : List Byte → Nat
  | [] => 0
  | b :: t => b.toNat + 256 * leNum t

/-- The sectors of a range, ascending. -/
def sectorsOf (key n : Nat) : List Nat :=
  if n == 0 then [] else (List.range ((key + n - 1) / 32 + 1 - key / 32)).map (key / 32 + ·)

/-- Land the bytes of one destination sector: a poisoned source byte lands it poisoned, a whole clean one clears it. -/
def landSector (asid dst n : Nat) (byte : Nat → Byte) (bad : Nat → Bool) (s : State) (p : Nat) : State :=
  let lo := max dst (p * 32)
  let hi := min (dst + n) (p * 32 + 32)
  let ix := (List.range (hi - lo)).map (lo - dst + ·)
  let s0 := if hi - lo == 32 then clearPoison s [(lo, 32)] else s
  let s1 := bankWrite s0 asid lo (hi - lo) (leNum (ix.map byte))
  if ix.any bad then addPoison s1 p else s1

/-- Land `n` bytes in ascending sectors (R179, R188). A page of tables drops translations (R338). -/
def landBytes (s : State) (asid dst n : Nat) (byte : Nat → Byte) (bad : Nat → Bool) : State :=
  let s := (sectorsOf dst n).foldl (landSector asid dst n byte bad) s
  if (keyFrame s dst).any fun x => x.2.tbl then dropTlb s asid else s

/-- A byte of memory as a copy reads it. -/
def srcByte (s : State) (key i : Nat) : Byte := memGet s.mem (key + i)
/-- The sector of a byte is poisoned. -/
def srcBad (s : State) (key i : Nat) : Bool := poisoned s (key + i) 1

/-! ## Stored ciphertext (R358, R363) -/

/-- The tweak of a frame. -/
def xtsTweak (asid lfn : Nat) : Nat := asid * 2 ^ 112 + lfn

/-- The stored form of the 16-byte block that holds a key. -/
def cipherBlock (s : State) (c : Context) (f : FrameRec) (key : Nat) : BitVec 128 :=
  Config.xts c.ck (xtsTweak c.asid f.lfn) (key % 4096 / 16) (BitVec.ofNat 128 (getBytes s (key / 16 * 16) 16))

/-- A byte as a sealed transfer reads it: an unbacked frame reads as zeros. -/
def cipherByte (s : State) (key i : Nat) : Byte :=
  match keyFrame s (key + i) with
  | none => 0
  | some (c, f) => (cipherBlock s c f (key + i)).extractLsb' (8 * ((key + i) % 16)) 8

/-- Memory once one byte of stored form is written. -/
def putCipher (s : State) (key : Nat) (b : Byte) : State :=
  match keyFrame s key with
  | none => s
  | some (c, f) =>
    let sh := 8 * (key % 16)
    let old := cipherBlock s c f key
    let new := (old &&& ~~~((0xFF#128) <<< sh)) ||| ((b.setWidth 128) <<< sh)
    let plain := (Config.xts c.ck (xtsTweak c.asid f.lfn) (key % 4096 / 16)).symm new
    { s with mem := memWrite s.mem (key / 16 * 16) 16 plain.toNat }

/-- A sealed transfer writes its bytes of one sector, whole blocks of 16, with their poison (R383). -/
def landCipherSector (dst n : Nat) (byte : Nat → Byte) (bad : Nat → Bool) (s : State) (p : Nat) : State :=
  let lo := max dst (p * 32)
  let hi := min (dst + n) (p * 32 + 32)
  let ix := (List.range (hi - lo)).map (lo - dst + ·)
  match keyFrame s lo with
  | none => s
  | some (c, _) =>
    let plain := ix.foldl (fun m i => putCipher m (dst + i) (byte i)) s
    let k := lo / 16 * 16
    let m := (hi + 15) / 16 * 16 - k
    let s0 := if hi - lo == 32 then clearPoison s [(lo, 32)] else s
    let s1 := bankWrite s0 c.asid k m (getBytes plain k m)
    if ix.any bad then addPoison s1 p else s1

/-- Land sealed bytes in ascending sectors. -/
def landCipher (s : State) (dst n : Nat) (byte : Nat → Byte) (bad : Nat → Bool) : State :=
  (sectorsOf dst n).foldl (landCipherSector dst n byte bad) s

/-! ## Records of the engines (R342) -/

/-- A record of an engine or of a sequencer joins those of its context. -/
def engineRecord (s : State) (asid die team : Nat) (cls sub level : Nat) (addr : Int) (pc info src : Nat) (repl : Bool)
    (seqOf : Option Nat) : State :=
  let r : FaultRec :=
    { gid := none, active := 0, parked := 0, reconv := 0, team := team, group := 0, addr := addr, pc := pc, cls := cls,
      sub := sub, lane := 0, nested := false, repl := repl, src := src, info := info, level := level,
      cox := coxAt s die, synt := s.synt, die := die, seqOf := seqOf }
  modCtx s asid fun c => { c with pending := c.pending ++ [r] }

/-! ## Network copies (R196) -/

/-- How many bytes of a piece come before a poisoned source sector. -/
def cleanBytes (s : State) (p : Piece) : Nat :=
  ((List.range p.n).find? fun i => srcBad s p.src i).getD p.n

/-- Land the pieces of a network copy, read as they stood in `s0`: the state and the first failing address. -/
def landPieces (s0 : State) (asid : Nat) (sealing : Bool) : List Piece → State → State × Option Nat
  | [], s => (s, none)
  | p :: rest, s =>
    let m := cleanBytes s0 p
    if sealing then
      landPieces s0 asid sealing rest (landBytes s asid p.dst p.n (cipherByte s0 p.src) (srcBad s0 p.src))
    else
      let s := landBytes s asid p.dst m (srcByte s0 p.src) fun _ => false
      if m == p.n then landPieces s0 asid sealing rest s else (s, some (p.va + m))

/-- A timeline's ISSUED rises by one and ERR stays (R193, R196): the state and the number. -/
def takeNumber (s : State) (asid tl : Nat) : State × Nat :=
  let w := getBytes s (tl + 8) 8
  let n := (w % 2 ^ 63 + 1) % 2 ^ 63
  (bankWrite s asid (tl + 8) 8 (n + w / 2 ^ 63 * 2 ^ 63), n)

/-- A copy's piece reads its source and lands: both count as accesses from a die (R304), and the read meets what
errors stand there (R382). -/
def touchPiece (die : Nat) (s : State) (p : Piece) : State :=
  meetUpsets (touchFrame (touchFrame s die p.src) die p.dst) [(p.src, p.n)]

/-- The network copy engine, on X, accepts one copy (R196, R307): it is numbered and its payload is performed. -/
def acceptNcopy (s : State) (id : Nat) : State :=
  match s.ncopies.find? (·.id == id) with
  | none => s
  | some c =>
    if c.number.isSome then s
    else
      let r := takeNumber (c.pieces.foldl (touchPiece 8) s) c.asid c.tl
      let x := landPieces r.1 c.asid c.sealing c.pieces r.1
      { x.1 with ncopies := modBy (·.id == id) (fun c => { c with number := some r.2, failed := x.2 }) x.1.ncopies }

end Sys2Proof.Machine
end

