-- ==== Sys2Proof/Machine/Queue.lean ====
section
/-!
DEFINITION. Long-latency operations (R67 to R71): issuing on a flag, the store queue in program order (R153), what a
bank does with each part (R47, R159, R164, R166), and completion.
-/

namespace Sys2Proof.Machine

/-! ## Header fields (Table 4.1) -/

/-- LEN. -/
def hLen (w : DWord) : Nat := bitsN w.toNat 62 55
/-- LIVE. -/
def hLive (w : DWord) : Nat := bitsN w.toNat 54 45
/-- RECONV, signed words. -/
def hReconv (w : DWord) : Int := sextN (bitsN w.toNat 44 29) 16
/-- WAIT. -/
def hWait (w : DWord) : Nat := bitsN w.toNat 28 17
/-- SETA, or SETB for SS = 1. -/
def hSet (w : DWord) (ss : Bool) : Nat := if ss then bitsN w.toNat 12 9 else bitsN w.toNat 16 13
/-- PF. -/
def hPf (w : DWord) : Nat := bitsN w.toNat 8 6
/-- PMK. -/
def hPmk (w : DWord) : Nat := bitsN w.toNat 5 4

/-! ## Read-modify-writes (Table 8.3) -/

/-- The unsigned and the signed reading of w bits compare by the type. -/
def lessBy (sgn : Bool) (w x y : Nat) : Bool := if sgn then sextN x w < sextN y w else x < y

/-- A float combination of two codes at the bank: rounded with .rn, subnormals kept, no flag. -/
def bankFloat (t : FTy) (op : AOp) (old b : Nat) : Nat :=
  match op with
  | .add => (faddCode t fPlain old b).code
  | .min => (fminmaxCode t false false old b).code
  | .max => (fminmaxCode t false true old b).code
  | .amax =>
    if fIsNan (fDecode t old) || fIsNan (fDecode t b) then fNanCode t
    else (fminmaxCode t false true old (b % 2 ^ (fWidth t - 1))).code
  | _ => b

/-- An integer combination of w bits. -/
def bankInt (sgn : Bool) (w : Nat) (op : AOp) (old b c : Nat) : Nat :=
  match op with
  | .add => (old + b) % 2 ^ w
  | .min => if lessBy sgn w b old then b else old
  | .max => if lessBy sgn w old b then b else old
  | .and => old &&& b
  | .or => old ||| b
  | .xor => old ^^^ b
  | .exch => b
  | .cas => if old = c then b else old
  | .inc => if b ≤ old then 0 else old + 1
  | .dec => if old = 0 ∨ b < old then b else old - 1
  | .amax => old

/-- Bytes of an atomic type (R164). -/
def atyBytes : ATy → Nat
  | .n64 | .i64 => 8
  | _ => 4

/-- `new(old, b, c)` of Table 8.3. -/
def atomNew (op : AOp) (ty : ATy) (old b c : Nat) : Nat :=
  let pair (t : FTy) : Nat :=
    bankFloat t op (old % 2 ^ 16) (b % 2 ^ 16) + 2 ^ 16 * bankFloat t op (old / 2 ^ 16 % 2 ^ 16) (b / 2 ^ 16 % 2 ^ 16)
  match ty with
  | .n32 => bankInt false 32 op old b c
  | .i32 => bankInt true 32 op old b c
  | .n64 => bankInt false 64 op old b c
  | .i64 => bankInt true 64 op old b c
  | .f32 => bankFloat .f32 op old b
  | .f16x2 => pair .f16
  | .bf16x2 => pair .bf16

/-- What the bank writes (R164, R166). -/
def rmwNew (k : RmwKind) (old b c : Nat) : Nat :=
  match k with
  | .atom op ty => atomNew op ty old b c
  | .amxs => 0

/-! ## Effects at a bank -/

/-- The value that a register holds for a store to a formatted page, as a value and as an integer (R47, R158). -/
def storeVal (ty : Ty) (wid : Wid) (v : Word) : FVal × Int :=
  match ty, wid with
  | .ieee, .w2 => (fDecode .f16 (v.toNat % 2 ^ 16), 0)
  | .bf, _ => (fDecode .bf16 (v.toNat % 2 ^ 16), 0)
  | .signed, .w1 => (.nan false, sextN v.toNat 8)
  | .signed, .w2 => (.nan false, sextN v.toNat 16)
  | .signed, _ => (.nan false, sextN v.toNat 32)
  | _, _ => (fDecode .f32 v.toNat, 0)

/-- An element store's bytes of the format unit at `u`, with which the unit's reserved bytes are written as zero (R45):
one write of each line (R364). -/
def storeUnit (s : State) (asid u fmt geom : Nat) (bs : List (Nat × Nat)) : State :=
  bankBytes s asid (bs.map (fun b => (u + b.1, b.2)) ++
    ((s.mem.map (·.1)).filter fun a => u + unitUsed fmt geom ≤ a && a < u + 4096).map fun a => (a, 0))

/-- One element store of a page other than E2M1X. -/
def encodeOne (s : State) (asid key fmt geom : Nat) (x : FVal × Int) : State :=
  let u := unitBase key
  let rd (i : Nat) : Nat := (memGet s.mem (u + i)).toNat
  let bs := if pageIsBp fmt then bpStore (pageBpN fmt) rd (key - u) x.2
            else pageFloatStore fmt geom rd (key - u) x.1
  storeUnit s asid u fmt geom bs

/-- The block of an E2M1X element: unit, block, index in it. -/
def blockOf (key geom : Nat) : Nat × Nat × Nat :=
  let u := unitBase key
  (u, (key - u) / blockLen geom, (key - u) % blockLen geom)

/-- One re-encoding of an E2M1X block with every element that the listed parts name in it, the highest lane last
(R152, R159). -/
def encodeBlock (s : State) (asid geom : Nat) (b : Nat × Nat) (xs : List (Nat × FVal)) : State :=
  let rd (i : Nat) : Nat := (memGet s.mem (b.1 + i)).toNat
  let new (j : Nat) : Option FVal :=
    (xs.reverse.find? fun x => (blockOf x.1 geom).1 == b.1 && (blockOf x.1 geom).2 == (b.2, j)).map (·.2)
  storeUnit s asid b.1 3 geom (blockStore geom rd b.2 new)

/-- The stores of one instruction to formatted pages (R47, R159). -/
def performEncodes (s : State) (asid : Nat) (ps : List Part) : State :=
  let plain := ps.foldl (fun s p => match p with
    | .encode _ key fmt geom ty wid v => if fmt == 3 then s else encodeOne s asid key fmt geom (storeVal ty wid v)
    | _ => s) s
  let xs (g : Nat) : List (Nat × FVal) := ps.filterMap fun p => match p with
    | .encode _ key 3 geom ty wid v => if geom == g then some (key, (storeVal ty wid v).1) else none
    | _ => none
  [0, 1].foldl (fun s g =>
    ((xs g).map fun x => ((blockOf x.1 g).1, (blockOf x.1 g).2.1)).dedup.foldl
      (fun s b => encodeBlock s asid g b (xs g)) s) plain

/-- Bytes that a part writes. An element store counts as a write of every byte that its encoding touches, be it one bit
of it, and of the unit's reserved bytes (R45; log 94): a sector of which it writes all 32 bytes loses its poison. -/
def partWrites : Part → List (Nat × Nat)
  | .store _ key n _ _ => [(key, n)]
  | .encode _ key fmt geom _ _ _ =>
    (pageTouches fmt geom (key - unitBase key)).map (fun r => (unitBase key + r.1, r.2)) ++
      [(unitBase key + unitUsed fmt geom, 4096 - unitUsed fmt geom)]
  | _ => []

/-- A read of a poisoned sector is due to be reported (R160): the first one of the lane is kept. -/
def duePoison (s : State) (gid lane pc ea : Nat) (x : ExecRec) : State :=
  modLane s gid lane fun t => { t with poison := t.poison.or (some ⟨pc, ea, x⟩) }

/-- A destination of `n` bytes as register writes. -/
def valueRegs (d n v : Nat) : List (Nat × Word) := if n == 8 then pairRegs d v else [(d, BitVec.ofNat 32 v)]

/-- One lane's read-modify-write at the bank (R164): the state and what completion writes to registers. -/
def performRmw (s : State) (asid gid : Nat) (x : ExecRec) (lane key n : Nat) (k : RmwKind) (b c : Nat)
    (dst : Option Nat) (pc ea : Nat) : State × List (Nat × Word) :=
  if poisoned s key n then
    (duePoison s gid lane pc ea x, (dst.map fun d => valueRegs d n 0).getD [])
  else
    let old := getBytes s key n
    (bankWrite s asid key n (rmwNew k old b c), (dst.map fun d => valueRegs d n old).getD [])

/-- One part at its bank, after the instruction's encodings. -/
def performPart (asid gid : Nat) (x : ExecRec) (acc : State × List Part) (p : Part) : State × List Part :=
  match p with
  | .load lane regs flags => (acc.1, acc.2 ++ [.load lane regs flags])
  | .store lane key n v tbl =>
    let s := bankWrite acc.1 asid key n v
    (if tbl then dropTlb s asid else s, acc.2 ++ [.store lane key n v tbl])
  | .encode lane key fmt geom ty wid v => (acc.1, acc.2 ++ [.encode lane key fmt geom ty wid v])
  | .rmw lane key n k b c dst pc ea =>
    let r := performRmw acc.1 asid gid x lane key n k b c dst pc ea
    (r.1, acc.2 ++ [if dst.isSome then .load lane r.2 0 else .rmw lane key n k b c dst pc ea])
  | .ncopy lane id => (acceptNcopy acc.1 id, acc.2 ++ [.ncopy lane id])

/-- Bytes that a part reads at its bank. -/
def partReadsAt : Part → List (Nat × Nat)
  | .rmw _ key n .. => [(key, n)]
  | _ => []

/-- An operation at the banks: its parts in ascending lanes (R152, R164). Its reads meet what errors stand there. -/
def performOp (s : State) (asid gid : Nat) (op : LongOp) : State :=
  if op.performed then s
  else
    let s := clearPoison (meetUpsets s (op.parts.flatMap partReadsAt)) (op.parts.flatMap partWrites)
    let r := op.parts.foldl (performPart asid gid op.exec) (performEncodes s asid op.parts, [])
    let s := r.1
    modGroup s gid fun g =>
      shareDue op.exec.stamp op.exec.parked
        { g with ops := modBy (·.id == op.id) (fun o => { o with performed := true, parts := r.2 }) g.ops }

/-- An operation is a set of network copies only. -/
def isNcopyOp (op : LongOp) : Bool := op.flag.isNone && op.parts.all fun p => match p with | .ncopy .. => true | _ => false

/-- Operations of a group's store queue that have not been performed, oldest first. -/
def queueOf (g : Group) : List LongOp := g.ops.filter fun o => o.queued && !o.performed

/-- Perform the listed operations; accepted network copies leave the queue. -/
def performAll (asid gid : Nat) (s : State) (ops : List LongOp) : State :=
  ops.foldl (fun s op =>
    let s := performOp s asid gid op
    if isNcopyOp op then modGroup s gid fun g => { g with ops := g.ops.filter (·.id != op.id) } else s) s

/-- Perform a group's store queue up to an operation, in program order (R153). -/
def performTo (s : State) (asid gid id : Nat) : State :=
  match getGroup s gid with
  | none => s
  | some g =>
    let q := queueOf g
    if q.any (·.id == id) then
      performAll asid gid s (q.takeWhile (·.id != id) ++ (q.filter (·.id == id)).take 1)
    else s

/-- Perform all of a group's store queue. -/
def drainGroup (s : State) (asid gid : Nat) : State :=
  match getGroup s gid with
  | none => s
  | some g => performAll asid gid s (queueOf g)

/-- A part that is not performed touches bytes of a range; an element store counts with its whole unit. -/
def partHits (key n : Nat) : Part → Bool
  | .store _ k m _ _ => k < key + n && key < k + m
  | .rmw _ k m _ _ _ _ _ _ => k < key + n && key < k + m
  | .encode _ k _ _ _ _ _ => unitBase k < key + n && key < unitBase k + 4096
  | _ => false

/-- A load of the group's own queued bytes: the queue is performed first (R153). -/
def settleLoads (s : State) (asid gid : Nat) (rs : List (Nat × Nat)) : State :=
  match getGroup s gid with
  | none => s
  | some g =>
    if (queueOf g).any fun o => o.parts.any fun p => rs.any fun r => partHits r.1 r.2 p then drainGroup s asid gid
    else s

/-! ## Issue and completion (R68, R69, R102) -/

/-- The flag that an instruction counts on: SETA or SETB of its block; `none` for 0xF. -/
def slotFlag (t : Thread) (ss : Bool) : Option Nat := if hSet t.hword ss < 12 then some (hSet t.hword ss) else none

/-- The flag of an execution: its lanes stand in one block. -/
def curFlag (g : Group) (c : Cur) (ss : Bool) : Option Nat :=
  match c.lanes.head? with
  | none => none
  | some l => (laneThread g l).bind fun t => slotFlag t ss

/-- A flag's counter is at 255 (R69). -/
def flagFull (g : Group) (f : Option Nat) : Bool := f.any fun n => flagCount g n == 255

/-- A part whose completion writes registers (R102). -/
def partReads : Part → Bool
  | .load .. => true
  | .rmw _ _ _ _ _ _ dst _ _ => dst.isSome
  | _ => false

/-- Raise or lower a flag's counter. -/
def stepFlag (g : Group) (f : Option Nat) (up : Bool) : Group :=
  match f with
  | none => g
  | some n => { g with flags := tput 0 g.flags n (if up then flagCount g n + 1 else flagCount g n - 1) }

/-- A long-latency instruction issues with the listed parts: counted on its flag, in the store queue when `queued`
(R68, R153; event 1 of Table 11.6). -/
def issueOp (s : State) (c : Cur) (e : Env) (x : ExecRec) (flag : Option Nat) (queued acquire : Bool)
    (parts : List Part) : State :=
  if parts.isEmpty then s
  else
    let op : LongOp :=
      { id := s.nextId, flag := flag, queued := queued, performed := !queued, acquire := acquire, exec := x,
        parts := parts }
    let s := modGroup { s with nextId := s.nextId + 1 } c.gid fun g =>
      let g := stepFlag { g with ops := g.ops ++ [op] } flag true
      { g with threads := g.threads.map fun t =>
          { t with reads := t.reads + (parts.filter fun p => partLane p == t.lane && partReads p).length } }
    countEvent s e.ctx.asid 1 1

/-- An operation completes: registers are written, the flag falls, the lanes' reads end (R68). -/
def completeOp (s : State) (asid gid id : Nat) : State :=
  let s := performTo s asid gid id
  match (getGroup s gid).bind fun g => g.ops.find? (·.id == id) with
  | none => s
  | some op =>
    modGroup s gid fun g =>
      let g := stepFlag { g with ops := g.ops.filter (·.id != id) } op.flag false
      { g with threads := g.threads.map fun t =>
          let mine := op.parts.filter fun p => partLane p == t.lane
          let t := mine.foldl (fun t p => match p with | .load _ rs fl => orStat (wrRegs t rs) fl | _ => t) t
          { t with reads := t.reads - (mine.filter partReads).length } }

end Sys2Proof.Machine
end

