-- ==== Sys2Proof/Machine/Execute.lean ====
section
/-!
DEFINITION. Executing a word over its lanes: the operands of each lane, the order of a stream element behind the
thread's own stores (R122, R153), and the frame that every register-only instruction uses.
-/

namespace Sys2Proof.Machine

/-- Bytes that the lanes whose guard is true are about to read through bound streams. -/
def streamRanges (s : State) (c : Cur) (e : Env) (g : Guard) (us : List RegUse) : List (Nat × Nat) :=
  (activeLanes s c g).flatMap fun l => match getLane s c.gid l with
    | none => []
    | some t => (usedStreams t us).map fun x => (keyScr e.team.tid (elemPlace x.2).1.toNat, (elemPlace x.2).2)

/-- A stream element is read as an `lds` at its place: what stands in the group's store queue on its bytes is performed
first, and an error that stands there is met (R122, R153, R382). -/
def settleStreams (s : State) (c : Cur) (e : Env) (g : Guard) (us : List RegUse) : State :=
  match streamRanges s c e g us with
  | [] => s
  | rs => meetUpsets (settleLoads s e.ctx.asid c.gid rs) rs

/-- The operands of one lane; then `f` acts with a register reader. -/
def withOperands (e : Env) (r : ExecRec) (gid : Nat) (us : List RegUse) (l : Nat) (s : State)
    (f : (Nat → Word) → Thread → State → LaneStep) : LaneStep :=
  match getLane s gid l with
  | none => .ok s
  | some t =>
    match operandsOf s e r t us with
    | .fault x => .fault x
    | .wait w => .wait s w
    | .ok ov t' => f (readOver ov t) t' s

/-- A thread instruction that names the registers `us`: step 1 of R90 strikes every lane, the rest is per lane. -/
def runLanes (g : Guard) (us : List RegUse) (s : State)
    (f : Cur → Env → Nat → (Nat → Word) → Thread → State → LaneStep) : Host.Outcome State Fault Refusal :=
  withCur s fun c e =>
    if pairIllegal e.grid.desc.regs us then allFault s c e g { cls := clsIllegal }
    else
      let r := execRec s c e g
      foldLanes (settleStreams s c e g us) c e g fun l s => withOperands e r c.gid us l s fun rd t s => f c e l rd t s

/-! ## Register-only instructions -/

/-- What a lane of a register-only instruction writes: registers, predicates, flags of %fpstat. -/
structure Eff where
  regs  : List (Nat × Word) := []
  preds : List (PredIx × Bool) := []
  flags : Word := 0

/-- The effect in a thread. -/
def applyEff (t : Thread) (x : Eff) : Thread :=
  orStat (x.preds.foldl (fun t p => wrPred t p.1 p.2) (wrRegs t x.regs)) x.flags

/-- A register-only instruction: in each lane whose guard is true, `f` gives the effect from the operands, or the
class of the lane's fault. All sources are read before any result is written (R96, R127). -/
def alu (g : Guard) (us : List RegUse) (f : (Nat → Word) → Thread → Except Nat Eff) (s : State) :
    Host.Outcome State Fault Refusal :=
  runLanes g us s fun c _ l rd t s =>
    match f rd t with
    | .error cls => .fault { cls := cls }
    | .ok x => .ok (modLane s c.gid l fun _ => applyEff t x)

end Sys2Proof.Machine
end

