-- ==== Sys2Proof/Machine/Groups.lean ====
section
/-!
DEFINITION. The threads of a group toward one another: the states of R140, reconvergence holds and their release (R65,
R66, R298), leaving a header, the end of a lane and of a group (R102, R299).
-/

namespace Sys2Proof.Machine

/-! ## States of R140 and R297 -/

/-- The stall of an instruction of R73. -/
def stallR73 : Stall → Bool
  | .sleep _ | .waitf | .bar .. | .barMb .. | .qpush .. | .qpop .. | .fewait .. | .timeline .. | .migr | .migrFlags | .pontoon _ | .ship | .heat => true
  | _ => false

/-- The wait for a frame's backing: the lane is parked with no record (R336). -/
def stallBacking : Stall → Bool
  | .backing .. => true
  | _ => false

/-- The wait on an empty scratch line. -/
def stallLine : Stall → Bool
  | .line _ | .met (some _) _ => true
  | _ => false

/-- A thread stands at a cross-lane word: it waits for the meeting, or in it for an operand. -/
def stallCross : Stall → Bool
  | .cross | .met .. => true
  | _ => false

/-- A thread stands in a state that R140 lists, other than standing at the same word. -/
def meetState (t : Thread) : Bool :=
  match t.status with
  | .exited | .parked .. | .stopped _ => true
  | .header => t.stall.isSome
  | .exiting _ => false
  | .block => t.stall.any fun w => stallR73 w || stallCross w || stallBacking w

/-- Blocked under R297 for a reason other than a fault or a stop for pre-emption. -/
def blockedOther (t : Thread) : Bool :=
  (t.status == .header || t.status == .block) &&
  t.stall.any fun w => stallR73 w || w == .flags || stallLine w

/-- Every thread of a group outside `lanes` stands in a state of R140. -/
def othersMeet (g : Group) (lanes : List Nat) : Bool :=
  g.threads.all fun t => lanes.contains t.lane || meetState t

/-- A cross-lane word may issue for the lanes that stand at it: the others stand in states of R140, or the progress rule
has released the word (R140, R298). -/
def mayMeet (g : Group) (lanes : List Nat) (pc : Nat) : Bool := othersMeet g lanes || g.crossFree.contains pc

/-- Lanes that wait at a cross-lane word. -/
def crossWaiters (g : Group) (pc : Nat) : List Nat :=
  (g.threads.filter fun t => t.status == .block && t.pc == pc && t.stall == some .cross).map (·.lane)

/-- Cross-lane words whose wait ends as the last awaited thread becomes blocked: a release by the progress rule, which
holds until the word issues (R298). -/
def crossOver (g : Group) : List Nat :=
  ((g.threads.filter fun t => t.status == .block && t.stall == some .cross).map (·.pc)).dedup.filter fun pc =>
    let ls := crossWaiters g pc
    !othersMeet g ls && g.threads.all fun t => ls.contains t.lane || meetState t || blockedOther t

/-- The release of cross-lane words. -/
def freeCross (pcs : List Nat) (g : Group) : Group :=
  { g with crossFree := g.crossFree ++ pcs.filter fun p => !g.crossFree.contains p }

/-! ## Flags and pre-emption at a header -/

/-- A flag of a mask is busy. -/
def maskBusy (g : Group) (m : Nat) : Bool := (List.range 12).any fun i => m.testBit i && flagCount g i != 0

/-- A pre-emption of a group's gang is pending (R75, R348). -/
def preemptPending (s : State) (g : Group) : Bool :=
  ((getTeam s g.tid).bind fun t => getGang s t.gang).any fun k => k.status == .stopping

/-- The limits of R76 that a group's count of words has reached. -/
def limitOf (g : Group) : Nat := max g.limit (if 69632 ≤ g.words then 2 else if 65536 ≤ g.words then 1 else 0)

/-- A pending pre-emption takes a thread that arrives at a header of kind `pmk`; `waits`: it would stand there
(Table 4.4, R73, R76). -/
def takesAt (g : Group) (pmk : Nat) (waits : Bool) : Bool :=
  waits || pmk == 1 || (pmk == 0 && 1 ≤ limitOf g) || 2 ≤ limitOf g

/-- Registers kept by an image for a thread stopped at a header (Table 4.4). -/
def keepAt (n : Nat) (w : DWord) : Nat := if hPmk w == 1 && hLive w != 0x3FF then min n (hLive w) else n

/-- What R65 does at a header once a thread is not held there: it is stopped, waits on WAIT, or goes on. -/
def leaveHeader (n : Nat) (g : Group) (pending : Bool) (t : Thread) : Thread :=
  let busy := maskBusy g (hWait t.hword)
  if pending && takesAt g (hPmk t.hword) busy then
    { t with status := .stopped false, stall := none, keep := keepAt n t.hword }
  else if busy then { t with status := .header, stall := some .flags }
  else { t with status := .block, stall := none, pc := t.hdr + 8 }

/-! ## Reconvergence -/

/-- The threads of an entry that it still awaits. -/
def awaited (g : Group) (e : RcEntry) : List Thread :=
  g.threads.filter fun t => e.mask.contains t.lane && !e.arrived.contains t.lane && t.status != .exited

/-- An entry that holds threads releases them: all have come or exited, or every awaited one is blocked (R65, R298). -/
def entryDone (g : Group) (e : RcEntry) : Bool :=
  !e.arrived.isEmpty && (awaited g e).all blockedOther

/-- A thread is held by an entry. -/
def heldBy (e : RcEntry) (t : Thread) : Bool :=
  t.stall == some .held && t.pc == e.addr && e.arrived.contains t.lane

/-- A thread is released from its hold: it arrives at its header, whose word is checked again (R64). -/
def releaseThread (t : Thread) : Thread :=
  { t with stall := none, arrival := .released (t.arrival == .fall) }

/-- The entry goes and the threads that it holds are released (R65, R298). -/
def releaseEntry (g : Group) (e : RcEntry) : Group :=
  { g with stack := g.stack.filter (· != e),
           threads := g.threads.map fun t => if heldBy e t then releaseThread t else t }

/-- The transfer's entry (R66): pushed when the threads that go on do not all reach one address. `lanes`: those that
reached the transfer at the end of the block with header `w` at `h`; `goes`: a thread goes on. An address below 0 is no
header's, and its entry is never matched. -/
def pushEntry (h : Nat) (w : DWord) (lanes : List Nat) (goes : Thread → Bool) (g : Group) : Group :=
  let going := g.threads.filter fun t => lanes.contains t.lane && goes t && t.stall.isNone
  let off := hReconv w
  if off != 0 && 2 ≤ (going.map (·.pc)).dedup.length && g.stack.length < 16 then
    { g with stack := ⟨(((h : Int) + 8 * off) % 2 ^ 64).toNat, lanes, []⟩ :: g.stack }
  else g

/-- A thread stands at a header: where every lane that goes on after a transfer stands. -/
def atHeader (t : Thread) : Bool := t.status == .header
/-- A thread stands at a header or inside a block. -/
def goesOn (t : Thread) : Bool := t.status == .header || t.status == .block

/-- The block that an execution's lanes stand in: header address and word. -/
def curBlock (s : State) (c : Cur) : Nat × DWord :=
  match (c.lanes.head?).bind fun l => getLane s c.gid l with
  | some t => (t.hdr, t.hword)
  | none => (0, 0)

/-! ## Ends -/

/-- A lane whose exit waits for nothing has exited (R102): its bindings go. -/
def exitLane (t : Thread) : Thread := { t with status := .exited, stall := none, sp := [] }

/-- A group's last thread has exited and its operations have completed (R102). -/
def groupDone (g : Group) : Bool := !g.retired && g.ops.isEmpty && g.threads.all (·.status == .exited)

/-- Lower a 64-bit join counter by `n` (R244, R245). -/
def lowerJoin (s : State) (key n : Nat) : State :=
  bankWrite s (key / 2 ^ 64 % 2 ^ 64) key 8 ((getBytes s key 8 + (2 ^ 64 - n % 2 ^ 64)) % 2 ^ 64)

/-- The retirement of a group lowers the join counter of its grid, for the teams of the launch; the last decrement
waits for the grid-end flush (R244). -/
def retireJoin (s : State) (g : Group) : State :=
  match getTeam s g.tid with
  | none => s
  | some t =>
    match getGrid s t.grid with
    | none => s
    | some r =>
      match r.owner with
      | .join key =>
        if t.index < r.first && 1 < r.joins then
          modGrid (lowerJoin s key 1) r.key fun r => { r with joins := r.joins - 1 }
        else s
      | .command .. => s

/-- Declared registers of a group's kernel. -/
def regsOf (s : State) (g : Group) : Nat :=
  (((getTeam s g.tid).bind fun t => getGrid s t.grid).map (·.desc.regs)).getD 0

/-- One entry of `settleGroup`. -/
def settleEntry (g : Group) (e : RcEntry) : Group := if entryDone g e then releaseEntry g e else g

/-- A thread that waits on WAIT goes on when its flags are clear, or is taken by a pending pre-emption (R65, R73). -/
def settleWait (n : Nat) (pending : Bool) (g : Group) (t : Thread) : Thread :=
  if t.status == .header && t.stall == some .flags then leaveHeader n g pending t else t

/-- What follows at once from where a group's threads stand: holds and cross-lane waits that end, waits on flags that end, and the group's
retirement with its release toward a join counter (R65, R102, R244, R298). -/
def settleGroup (s : State) (gid : Nat) : State :=
  match getGroup s gid with
  | none => s
  | some g0 =>
    let n := regsOf s g0
    let pending := preemptPending s g0
    let g1 := g0.stack.foldl settleEntry g0
    let g2 := { g1 with threads := g1.threads.map (settleWait n pending g1) }
    let g2 := freeCross (crossOver g2) g2
    if groupDone g2 then
      retireJoin (modGroup s gid fun _ => { g2 with retired := true }) g2
    else modGroup s gid fun _ => g2

end Sys2Proof.Machine
end

