-- ==== Sys2Proof/Machine/Barriers.lean ====
section
/-!
DEFINITION. Barriers in scratch and the landing of a copy on them (R177, R179 to R184), and the release that performs a
group's earlier accesses, its copies among them (R154, R169, R248).
-/

namespace Sys2Proof.Machine

/-! ## Scratch addresses (R174) -/

/-- A scratch range of `n` bytes at an address, aligned to `al`: its fault, if any. -/
def scratchCheck (lines a n al : Nat) : Option LaneFault :=
  if lines * 128 < a + n then some { cls := clsSpace, addr := a }
  else if a % al != 0 then some { cls := clsAlign, addr := a }
  else none

/-! ## Transaction barriers (R180 to R184) -/

/-- The fields of Table 9.2. -/
structure Barrier where
  gen    : Nat
  pbytes : Nat
  exp    : Nat
  parr   : Nat
  v      : Bool
  inv    : Bool
  wtr    : Nat
  deriving DecidableEq, Repr

/-- The barrier in 16 bytes. -/
def barRead (s : State) (key : Nat) : Barrier :=
  let x := getBytes s key 16
  { gen := bitsN x 31 0, pbytes := bitsN x 63 32, exp := bitsN x 79 64, parr := bitsN x 95 80, v := x.testBit 96,
    inv := x.testBit 97, wtr := bitsN x 127 115 }

/-- The 16 bytes of a barrier. -/
def barBits (b : Barrier) : Nat :=
  b.gen % 2 ^ 32 + 2 ^ 32 * (b.pbytes % 2 ^ 32) + 2 ^ 64 * (b.exp % 2 ^ 16) + 2 ^ 80 * (b.parr % 2 ^ 16) +
  2 ^ 96 * b.v.toNat + 2 ^ 97 * b.inv.toNat + 2 ^ 115 * (b.wtr % 2 ^ 13)

/-- Store a barrier. -/
def barWrite (s : State) (key : Nat) (b : Barrier) : State := { s with mem := memWrite s.mem key 16 (barBits b) }

/-- Generation g is complete (R182). -/
def genDone (gen g : Nat) : Bool :=
  let d := (gen + 2 ^ 32 - g % 2 ^ 32) % 2 ^ 32
  1 ≤ d && d ≤ 2 ^ 31

/-- The team and offset of a scratch key. -/
def scrTid (key : Nat) : Nat := key / 2 ^ 64 % 2 ^ 64
/-- The scratch offset of a key. -/
def scrOff (key : Nat) : Nat := key % 2 ^ 64

/-- The address-space identifier of a team. -/
def teamAsid (s : State) (tid : Nat) : Nat := (((getTeam s tid).bind fun t => getGrid s t.grid).map (·.asid)).getD 0

/-- A thread blocked in `barwait` on an offset for a generation that `p` accepts. -/
def waitsBar (off : Nat) (p : Nat → Bool) (t : Thread) : Bool :=
  match t.stall with
  | some (.bar a g _) => a == off && p g.toNat
  | _ => false

/-- A thread wakes from `barwait` with its predicate. -/
def wakeBar (val : Bool) (t : Thread) : Thread :=
  match t.stall with
  | some (.bar _ _ d) => nextWord (wrPred { t with spBack := none } d val)
  | _ => t

/-- The lanes of a team blocked on a barrier. -/
def barWaiters (s : State) (key : Nat) (p : Nat → Bool) : List (Nat × Nat) :=
  (s.groups.filter (·.tid == scrTid key)).flatMap fun g =>
    (g.threads.filter (waitsBar (scrOff key) p)).map fun t => (g.gid, t.lane)

/-- Wake lanes of a barrier: they retire (R406). -/
def wakeLanes (s : State) (asid : Nat) (ws : List (Nat × Nat)) (val : Bool) : State :=
  countEvent (ws.foldl (fun s w => modLane s w.1 w.2 (wakeBar val)) s) asid 0 ws.length

/-- The phase test (R183). -/
def testPhase (s : State) (key : Nat) : State :=
  let b := barRead s key
  if b.v && !b.inv && b.parr == 0 && b.pbytes == 0 then
    let gen := (b.gen + 1) % 2 ^ 32
    let ws := barWaiters s key (genDone gen)
    let s := barWrite s key { b with gen := gen, parr := b.exp, wtr := b.wtr + 2 ^ 13 - ws.length }
    wakeLanes s (teamAsid s (scrTid key)) ws true
  else s

/-- A barrier's phase is to be tested once as the die cycle ends (R183). -/
def noteTest (s : State) (key : Nat) : State := if s.tests.contains key then s else { s with tests := s.tests ++ [key] }

/-- A core of a team is granting slots: its die cycle has not ended. -/
def cycleOpen (s : State) (tid : Nat) : Bool :=
  (getTeam s tid).any fun t => (openCycle s t.die t.core).isSome || (openCycle s t.die (t.core + 1)).isSome

/-- The phase tests of the die cycles that have ended: one for each barrier that arrivals, byte counts or expectations
have reached (R183). -/
def runTests (s : State) : State :=
  let open_ := s.tests.filter fun k => cycleOpen s (scrTid k)
  (s.tests.filter fun k => !cycleOpen s (scrTid k)).foldl testPhase { s with tests := open_ }

/-- Bytes complete on a barrier (R183, R184; event 3 of Table 11.6). -/
def countBytes (s : State) (tid n : Nat) (orphan : Bool) (bar : Option Nat) : State :=
  match bar with
  | none => s
  | some key =>
    let b := barRead s key
    if orphan || b.inv then modTeam s tid fun t => { t with orphan := min (2 ^ 32 - 1) (t.orphan + 1) }
    else
      let s := barWrite s key { b with pbytes := (b.pbytes + 2 ^ 64 - n) % 2 ^ 32 }
      noteTest (countEvent s (teamAsid s tid) 3 n) key

/-! ## Landing (R177, R179) -/

/-- Lines become full. -/
def fillLines (s : State) (ls : List Nat) : State := { s with empties := s.empties.filter fun l => !ls.contains l }
/-- Lines of a destination that a transfer has landed whole, up to a byte (R177). -/
def landedLines (p : Piece) (m : Nat) (whole : Bool) : List Nat :=
  ((List.range ((p.dst + m + 127) / 128 - p.dst / 128)).map (p.dst / 128 + ·)).filter fun l =>
    whole || l * 128 + 128 ≤ p.dst + m

/-- The die of a team. -/
def teamDie (s : State) (tid : Nat) : Nat := ((getTeam s tid).map (·.die)).getD 0

/-- What a per-lane copy reads of a piece: each byte, and whether its sector is poisoned. -/
def readPiece (s : State) (p : Piece) : List (Byte × Bool) :=
  (List.range p.n).map fun i => (srcByte s p.src i, srcBad s p.src i)

/-- The landing of a per-lane transfer: the bytes that it has read, with their poison, then its count (R179, R183,
R383). -/
def landTransfer (s0 : State) (x : Transfer) : State :=
  let asid := teamAsid s0 x.tid
  let die := teamDie s0 x.tid
  let s1 := (x.pieces.zip x.data).foldl (fun s pd =>
    let p := pd.1
    let s := landBytes (touchFrame s die p.dst) asid p.dst p.n (fun i => (pd.2.getD i (0, false)).1)
      fun i => (pd.2.getD i (0, false)).2
    if x.scr then fillLines s (landedLines p p.n true) else s) s0
  countBytes { s1 with transfers := s1.transfers.filter (·.id != x.id) } x.tid x.bytes x.orphan x.bar

/-! ## Release (R154, R169) -/

/-- The per-lane copies that a group issued and that have not landed. -/
def copiesOf (s : State) (gid : Nat) : List Transfer := s.transfers.filter fun x => x.gid == gid && x.req.isNone

/-- A release is performed after every earlier access of the thread: what stands in its group's store queue, and its
per-lane copies, which are accesses of the thread (R154, R248). -/
def releaseGroup (s : State) (asid gid : Nat) : State :=
  let s := drainGroup s asid gid
  (copiesOf s gid).foldl landTransfer s

/-- The executing group's earlier accesses performed. -/
def releaseCur (s : State) : State :=
  match s.cur with
  | none => s
  | some c =>
    match env s c.gid with
    | none => s
    | some e => releaseGroup s e.ctx.asid c.gid

end Sys2Proof.Machine
end

