-- ==== Sys2Proof/Machine/Access.lean ====
section
/-!
DEFINITION. Instructions that translate: every lane is planned on the state at issue; while a translation is missing the
whole instruction waits with no effect (R339); a lane whose frame is not backed parks alone (R336); then the other lanes
act together. Also the place of a word in its block (R61, R73).
-/

namespace Sys2Proof.Machine

/-- What one lane of an instruction is to do. -/
inductive Plan (α : Type) where
  | fault (f : LaneFault)
  /-- translations that are not at hand -/
  | miss (vpns : List Nat)
  /-- it waits, and may ask for backing -/
  | wait (w : Stall) (ask : Option BackReq)
  /-- it acts: its thread with stream elements taken, and the data of its effect -/
  | go (t : Thread) (a : α)

/-- The pages that a plan misses. -/
def planMisses {α : Type} : Plan α → List Nat
  | .miss v => v
  | _ => []

/-- A translated address: go on with it, or the lane's plan. -/
def onXlat {α : Type} (x : Xlat) (ea : Int) (k : Nat → Nat → Nat → Bool → Nat → Plan α) : Plan α :=
  match x with
  | .ok key fmt geom tbl mt => k key fmt geom tbl mt
  | .miss v => .miss [v]
  | .unbacked r => .wait (.backing r.asid r.lfn r.vpn) (some r)
  | .fault cls sub level => .fault { cls := cls, sub := sub, level := level, addr := ea }

/-- The plan of one lane: range and bound checks, stream elements, then `f` (R90, steps 3 to 5). -/
def planLane {α : Type} (s : State) (e : Env) (r : ExecRec) (us : List RegUse) (l : Nat)
    (f : Nat → (Nat → Word) → Thread → Plan α) : Plan α :=
  match getLane s e.group.gid l with
  | none => .fault { cls := clsIllegal }
  | some t =>
    match operandsOf s e r t us with
    | .fault x => .fault x
    | .wait w => .wait w none
    | .ok ov t' => f l (readOver ov t) t'

/-- Every lane of the execution waits for a translation, and the walks are asked for (R339). -/
def stallXlate (s : State) (c : Cur) (e : Env) (vpns : List Nat) : State :=
  let s := vpns.foldl (fun s v => askWalk s e.group.die e.ctx.asid v) (evictTlb s e.group.die)
  c.lanes.foldl (fun s l => modLane s c.gid l fun t => { t with stall := vpns.head?.map .xlate }) s

/-- The effect of one lane's plan on its thread: on to the next word, or to a wait. -/
def placeLane {α : Type} (c : Cur) (s : State) (lp : Nat × Plan α) : State :=
  match lp.2 with
  | .go t _ => modLane s c.gid lp.1 fun _ => advance c t
  | .wait w ask =>
    let s := modLane s c.gid lp.1 fun t => { t with stall := some w }
    match ask with
    | some r => askBacking s r
    | none => s
  | _ => s

/-- The lanes that act, with their data. -/
def goers {α : Type} (ps : List (Nat × Plan α)) : List (Nat × α) :=
  ps.filterMap fun lp => match lp.2 with
    | .go _ a => some (lp.1, a)
    | _ => none

/-- The lanes that fault. -/
def faulters {α : Type} (ps : List (Nat × Plan α)) : List (Nat × LaneFault) :=
  ps.filterMap fun lp => match lp.2 with
    | .fault f => some (lp.1, f)
    | _ => none

/-- The lanes that wait for a frame: they are parked with no record (R336). -/
def backers {α : Type} (ps : List (Nat × Plan α)) : List Nat :=
  ps.filterMap fun lp => match lp.2 with
    | .wait (.backing ..) _ => some lp.1
    | _ => none

/-- The faults of an execution that also parked lanes with no record: PARKED names those too (R313). -/
def besideParked (s : State) (e : Env) (act more : List Nat) (fs : List (Nat × LaneFault)) : List (Nat × LaneFault) :=
  if more.isEmpty then fs
  else
    let x : ExecRec := ⟨s.stamp, laneMask act, laneMask (fs.map (·.1) ++ more), reconvOf e.group⟩
    fs.map fun f => (f.1, { f.2 with exec := f.2.exec.or (some x) })

/-- All translations are at hand: idle lanes go on, lanes act, wait or park; those that act retire (R406). -/
def finishPlans {α : Type} (s : State) (c : Cur) (e : Env) (act : List Nat) (ps : List (Nat × Plan α))
    (commit : List (Nat × α) → State → State) : State :=
  let s := (c.lanes.filter fun l => !act.contains l).foldl (fun s l => modLane s c.gid l (advance c)) s
  let s := ps.foldl (placeLane c) s
  let fs := besideParked s e act (backers ps) (faulters ps)
  let s := raise (commit (goers ps) s) e c.pc act fs false
  countEvent (dropWalkFaults s e.group.die e.ctx.asid (fs.map fun f => f.2.addr.toNat / 4096)) e.ctx.asid 0
    (goers ps).length

/-- An instruction that translates, where its execution stands; its plans are made on the state in which its stream
elements can be read. -/
def plansAt {α : Type} (s0 : State) (c : Cur) (e : Env) (g : Guard) (place : Cur → Bool) (us : List RegUse)
    (plan : State → Nat → (Nat → Word) → Thread → Plan α) (commit : List (Nat × α) → State → State) : State :=
  if !place c || pairIllegal e.grid.desc.regs us then allFault s0 c e g { cls := clsIllegal }
  else
    let s := settleStreams s0 c e g us
    let act := activeLanes s c g
    let ps := act.map fun l => (l, planLane s e (execRec s c e g) us l (plan s))
    match ps.flatMap fun lp => planMisses lp.2 with
    | [] => finishPlans s c e act ps commit
    | vs => stallXlate s c e vs

/-- An instruction that translates. `place`: where its word must stand; `us`: registers it names. -/
def withPlans {α : Type} (g : Guard) (place : Cur → Bool) (us : List RegUse) (s : State)
    (plan : Env → State → Nat → (Nat → Word) → Thread → Plan α)
    (commit : Cur → Env → List (Nat × α) → State → State) : Host.Outcome State Fault Refusal :=
  withCur s fun c e => plansAt s c e g place us (plan e) (commit c e)

/-- Any place in a block. -/
def anywhere (_ : Cur) : Bool := true
/-- The last word of a block, for a transfer (R61). -/
def lastWord (c : Cur) : Bool := c.last
/-- The first word of a block, for an instruction that waits on another agent (R73). -/
def firstWord (c : Cur) : Bool := c.first

/-- An instruction with no operands in registers, at a place: `f` acts for each lane whose guard is true. -/
def plainLanes (g : Guard) (place : Cur → Bool) (s : State) (f : Cur → Env → Nat → State → LaneStep) :
    Host.Outcome State Fault Refusal :=
  withCur s fun c e =>
    if !place c then allFault s c e g { cls := clsIllegal }
    else foldLanes s c e g fun l s => f c e l s

end Sys2Proof.Machine
end

