-- ==== Sys2Proof/Machine/Control.lean ====
section
/-!
DEFINITION. Control transfers, the life of a thread, waiting on time and flags, traps, and the return from the handler
(R97 to R105, R240 to R242, R346), and entering a header (R60 to R66).
-/

namespace Sys2Proof.Machine

/-! ## Transfers (R62, R98) -/

/-- What R62 finds at a target: a header, a branch-target fault, a missing translation, or a frame that is to be backed
before the transfer replays (R336). No word stands below address 0. A target whose fetch faults is met at the header (R340). -/
def checkTarget {α : Type} (s : State) (e : Env) (tgt : Int) (k : Plan α) : Plan α :=
  if tgt < 0 || tgt % 8 != 0 then .fault { cls := clsBranch }
  else
    match fetchWord s e.ctx e.group.die tgt.toNat with
    | (.ok .., w) => if w.getLsbD 63 then k else .fault { cls := clsBranch }
    | (.miss v, _) => .miss [v]
    | (.unbacked r, _) => .wait (.backing r.asid r.lfn r.vpn) (some r)
    | _ => k

/-- A lane's transfer: where it goes, a register it writes, and bytes it pushes. -/
structure Jump where
  tgt  : Nat
  reg  : Option (Nat × Word) := none
  push : Option (Nat × Nat) := none

/-- A thread that has transferred stands at the target's header. -/
def arrive (tgt : Nat) (t : Thread) : Thread :=
  { t with pc := tgt, status := .header, arrival := .entry, stall := none }

/-- One lane's transfer. -/
def doJump (c : Cur) (s : State) (lj : Nat × Jump) : State :=
  let s := match lj.2.push with
    | some (key, v) => putBytes s key 8 v
    | none => s
  modLane s c.gid lj.1 fun t =>
    arrive lj.2.tgt (match lj.2.reg with | some r => wrReg t r.1 r.2 | none => t)

/-- The store queue of the executing group performed. -/
def drainCur (s : State) : State :=
  match s.cur with
  | none => s
  | some c =>
    match env s c.gid with
    | none => s
    | some e => drainGroup s e.ctx.asid c.gid

/-- A transfer instruction: the lanes that transfer, then the reconvergence entry (R66, R98). The group's store queue
is performed first, so that a pop reads the latest push or `stp` (R99). -/
def transferOp (g : Guard) (us : List RegUse) (s : State)
    (plan : Env → State → Nat → (Nat → Word) → Thread → Plan Jump) : Host.Outcome State Fault Refusal :=
  withPlans g lastWord us (drainCur s) plan fun c _ js s1 =>
    let h := curBlock s c
    modGroup (js.foldl (doJump c) s1) c.gid (pushEntry h.1 h.2 c.lanes atHeader)

/-- The target of a direct transfer. -/
def directTarget (c : Option Cur) (imm : BitVec 20) : Int := ((c.map (·.pc)).getD 0 : Nat) + 8 * imm.toInt

/-- A jump with no push. -/
def planJump (s : State) (e : Env) (t : Thread) (tgt : Int) : Plan Jump :=
  checkTarget s e tgt (.go t { tgt := tgt.toNat })

/-- A call (R98): the target, then the stack register's alignment and bounds. -/
def planCall (s : State) (e : Env) (l : Nat) (t : Thread) (d : Reg) (sp0 : Word) (pc : Nat) (tgt : Int) :
    Plan Jump :=
  checkTarget s e tgt <|
    let sp : Int := (sp0.toNat : Int) - 8
    if sp % 8 != 0 then .fault { cls := clsAlign, addr := sp }
    else if sp < 0 || (e.grid.priv : Int) < sp + 8 then .fault { cls := clsSpace, addr := sp }
    else .go t { tgt := tgt.toNat, reg := some (d.toNat, BitVec.ofInt 32 sp),
                 push := some (keyPriv e.group.gid l sp.toNat, pc + 8) }

/-- A return (R98): the stack register's alignment and bounds, then the popped target. -/
def planRet (s : State) (e : Env) (l : Nat) (t : Thread) (d : Reg) (sp0 : Word) : Plan Jump :=
  let sp := sp0.toNat
  if sp % 8 != 0 then .fault { cls := clsAlign, addr := sp }
  else if e.grid.priv < sp + 8 then .fault { cls := clsSpace, addr := sp }
  else
    let tgt := getBytes s (keyPriv e.group.gid l sp) 8
    checkTarget s e tgt (.go t { tgt := tgt, reg := some (d.toNat, BitVec.ofNat 32 (sp + 8)) })

/-- `bra` (R98). -/
def execBra (g : Guard) (imm : BitVec 20) (s : State) : Host.Outcome State Fault Refusal :=
  transferOp g [] s fun e s' _ _ t => planJump s' e t (directTarget s.cur imm)

/-- `brx` (R98). -/
def execBrx (g : Guard) (a : Reg) (s : State) : Host.Outcome State Fault Refusal :=
  transferOp g [src true a] s fun e s' _ rd t => planJump s' e t (pairOf rd a.toNat)

/-- `call vS, label` (R98). -/
def execCallI (g : Guard) (d : Reg) (imm : BitVec 20) (s : State) : Host.Outcome State Fault Refusal :=
  transferOp g [dst false d, src false d] s fun e s' l rd t =>
    planCall s' e l t d (rd d.toNat) ((s.cur.map (·.pc)).getD 0) (directTarget s.cur imm)

/-- `call vS, vA` (R98). -/
def execCallR (g : Guard) (d a : Reg) (s : State) : Host.Outcome State Fault Refusal :=
  transferOp g [dst false d, src false d, src true a] s fun e s' l rd t =>
    planCall s' e l t d (rd d.toNat) ((s.cur.map (·.pc)).getD 0) (pairOf rd a.toNat)

/-- `ret vS` (R98). -/
def execRet (g : Guard) (d : Reg) (s : State) : Host.Outcome State Fault Refusal :=
  transferOp g [dst false d, src false d] s fun e s' l rd t => planRet s' e l t d (rd d.toNat)

/-! ## Thread lifetime and waiting -/

/-- `nop` (R101). -/
def execNop (g : Guard) (s : State) : Host.Outcome State Fault Refusal :=
  plainLanes g anywhere s fun _ _ _ s => .ok s

/-- A lane's exit takes effect (R102): a due poison fault is raised instead (R160). -/
def takeExit (s : State) (e : Env) (l : Nat) : State :=
  match getLane s e.group.gid l with
  | none => s
  | some t =>
    match t.status with
    | .exiting own =>
      match t.poison with
      | some d =>
        let s := modLane s e.group.gid l fun t => { t with poison := none }
        let f := poisonFault d
        if own then raise s e t.pc [l] [(l, f)] false
        else
          let s := modCtx s e.ctx.asid fun c =>
            { c with pending := c.pending ++ [laneRecord s e t.pc [l] [l] l true f] }
          modLane s e.group.gid l exitLane
      | none => modLane s e.group.gid l exitLane
    | _ => s

/-- A lane has a reduction in its group's store queue: what it reads is still to be known. -/
def reducing (g : Group) (l : Nat) : Bool :=
  (queueOf g).any fun o => o.parts.any fun p => match p with | .rmw k _ _ _ _ _ none _ _ => k == l | _ => false

/-- Before a lane ends, the reductions that it issued are performed, so that a poisoned read of theirs is reported
(R160); an `exit` waits for no more than its reads (R102). -/
def settleReds (s : State) (e : Env) (ls : List Nat) : State :=
  if (getGroup s e.group.gid).any fun g => ls.any (reducing g) then drainGroup s e.ctx.asid e.group.gid else s

/-- Exits that wait for no read take effect. -/
def takeExits (s : State) (e : Env) (ls : List Nat) : State :=
  let ends := ls.filter fun l => (getLane s e.group.gid l).any fun t =>
    t.reads == 0 && match t.status with | .exiting _ => true | _ => false
  ends.foldl (fun s l => takeExit s e l) (settleReds s e ends)

/-- The lanes of an `exit` at which no poison fault is due: it retires in them as it issues (R406). What their atomics
and reductions read is known, since the group's store queue has been performed. -/
def exitRetires (s : State) (gid : Nat) (ls : List Nat) : Nat :=
  (ls.filter fun l => (getLane s gid l).any (·.poison.isNone)).length

/-- `exit` (R102): it takes effect at once in a lane whose reads have been written. It retires as it issues, in each lane
at which no poison fault is due (R160, R406; log 25). -/
def execExit (g : Guard) (s : State) : Host.Outcome State Fault Refusal :=
  withCur s fun c e =>
    let act := activeLanes s c g
    let s := if act.isEmpty then s else drainGroup s e.ctx.asid c.gid
    let s := countEvent s e.ctx.asid 0 (exitRetires s c.gid act)
    let s := (c.lanes.filter fun l => !act.contains l).foldl (fun s l => modLane s c.gid l (advance c)) s
    let s := act.foldl (fun s l => modLane s c.gid l fun t => { t with status := .exiting true, stall := none }) s
    settleGroup (takeExits s e act) c.gid

/-- EXIT_TAKES_EFFECT (R102). -/
def execExitTakesEffect (gid lane : Nat) (s : State) : Host.Outcome State Fault Refusal :=
  match env s gid with
  | none => .next s
  | some e => .next (settleGroup (takeExits s e [lane]) gid)

/-- `yield` (R101). -/
def execYield (g : Guard) (s : State) : Host.Outcome State Fault Refusal :=
  plainLanes g anywhere s fun c _ l s => .ok (modLane s c.gid l fun t => { t with yielded := true })

/-- `sleep n` (R103). -/
def execSleep (g : Guard) (n : BitVec 20) (s : State) : Host.Outcome State Fault Refusal :=
  plainLanes g firstWord s fun c e l s =>
    if n == 0 then .ok (modLane s c.gid l fun t => { t with yielded := true })
    else .wait s (.sleep (coxAt s e.group.die + n.toNat))

/-- SLEEP_EXPIRY (R103): `%cox` has reached the lane's time, and `sleep` retires. -/
def execSleepExpiry (gid lane : Nat) (s : State) : Host.Outcome State Fault Refusal :=
  match env s gid, getLane s gid lane with
  | some e, some t =>
    match t.stall with
    | some (.sleep c) =>
      if c ≤ coxAt s e.group.die then .next (countEvent (modLane s gid lane nextWord) e.ctx.asid 0 1) else .next s
    | _ => .next s
  | _, _ => .next s

/-- `waitf` (R104). -/
def execWaitf (g : Guard) (mask : BitVec 12) (s : State) : Host.Outcome State Fault Refusal :=
  plainLanes g firstWord s fun _ e _ s => if maskBusy e.group mask.toNat then .wait s .waitf else .ok s

/-- `trap n` (R240). -/
def execTrap (g : Guard) (n : BitVec 16) (s : State) : Host.Outcome State Fault Refusal :=
  plainLanes g anywhere s fun _ _ _ _ => .fault { cls := clsTrap, info := n.toNat }

/-- A pre-emption becomes pending for a resident gang (R348 step 1), and the counts of R76 begin. -/
def askStop (s : State) (gang : Nat) (cause : StopCause) : State :=
  if (getGang s gang).any (·.status == .resident) then
    let s := modGang s gang fun k => { k with status := .stopping, cause := cause }
    { s with groups := s.groups.map fun g =>
        if ((getTeam s g.tid).map (·.gang)) == some gang then { g with words := 0, limit := 0 } else g }
  else s

/-- `bkpt n` (R105): its fault, or the gang halts when the open debug module asks for it (R373). -/
def execBkpt (g : Guard) (n : BitVec 16) (s : State) : Host.Outcome State Fault Refusal :=
  if s.boot.debugOpen && s.boot.haltBkpt then
    plainLanes g anywhere s fun _ e _ s => .ok (askStop s e.team.gang .debug)
  else plainLanes g anywhere s fun _ _ _ _ => .fault { cls := clsBreak, info := n.toNat }

/-! ## The return from the handler (R242, R346) -/

/-- A lane leaves handler mode for the place that R242 gives. -/
def rteLane (t : Thread) : Thread :=
  let t := { t with handler := false, hdr := t.trHdr, hword := t.trHword }
  let cls := t.trcause.toNat % 256
  match t.seqResume with
  | some h => { arrive h t with seqResume := none, arrival := t.trArr }
  | none =>
    if cls == clsBreak || cls == clsTrap then goOn (t.trpc.toNat + 8) t
    else if t.trIn then { t with pc := t.trpc.toNat, status := .block, stall := none }
    else { arrive t.trpc.toNat t with arrival := t.trArr }

/-- `rte` in one lane. -/
def rteStep (kill : Bool) (e : Env) (l : Nat) (s : State) : LaneStep :=
  match getLane s e.group.gid l with
  | none => .moved s
  | some t =>
    if !t.handler then .fault { cls := clsIllegal }
    else if kill then .moved (modLane s e.group.gid l (endLane false))
    else
      let cls := t.trcause.toNat % 256
      let s1 := modLane s e.group.gid l rteLane
      let s2 := if t.seqResume.isSome then
          modTeam s1 e.team.tid fun tm => { tm with seq := { tm.seq with status := .running } }
        else s1
      .moved (if t.seqResume.isNone && (cls == clsBreak || cls == clsTrap) then countEvent s2 e.ctx.asid 0 1 else s2)

/-- `rte` and `rte.kill` (R242). A breakpoint or trap that is resumed retires then (R105, R240). -/
def execRte (g : Guard) (kill : Bool) (s : State) : Host.Outcome State Fault Refusal :=
  withCur s fun c e =>
    if !c.last then allFault s c e g { cls := clsIllegal }
    else
      let act := activeLanes s c g
      let h := curBlock s c
      let s := foldLanes s c e g fun l s => rteStep kill e l s
      settleGroup (modGroup (takeExits s e act) c.gid (pushEntry h.1 h.2 c.lanes goesOn)) c.gid

/-! ## Entering a header (R60 to R66) -/

/-- Class of Table 21.4 for a sequencer cause (R346). -/
def seqClass : SeqCause → Nat
  | .encoding | .loop => clsIllegal
  | .fetch => clsTranslation
  | .format => clsFormat
  | .descriptor | .scratchBound => clsSpace
  | .arithmetic | .table => clsArith
  | .tileKind | .tileState => clsTile
  | .poison => clsPoison

/-- The lowest thread that has not exited in the lowest group of a team that has one (R346). -/
def lowestThread (s : State) (tid : Nat) : Option (Nat × Nat) :=
  let gs := s.groups.filter fun g => g.tid == tid && g.threads.any (·.status != .exited)
  let best := gs.foldl (fun (b : Option Group) g => match b with
    | none => some g
    | some x => if g.index < x.index then some g else b) none
  best.bind fun g => (g.threads.find? (·.status != .exited)).map fun t => (g.gid, t.lane)

/-- A lane that arrives at a header enters the handler for its team's sequencer (R346). -/
def seqHandlerDue (s : State) (e : Env) (l : Nat) (t : Thread) : Option SeqCause :=
  match e.team.seq.status with
  | .faulted c true =>
    if e.ctx.trvec != 0 && !t.handler && lowestThread s e.team.tid == some (e.group.gid, l) &&
        !(s.groups.any fun g => g.tid == e.team.tid && g.threads.any (·.seqResume.isSome)) then some c
    else none
  | _ => none

/-- The handler entered for a sequencer fault. -/
def enterSeqHandler (trvec : DWord) (pos : Nat) (c : SeqCause) (t : Thread) : Thread :=
  { t with trpc := BitVec.ofNat 64 pos, trcause := BitVec.ofNat 32 (seqClass c), handler := true,
           trHdr := t.hdr, trHword := t.hword, trIn := false, trArr := t.arrival, seqResume := some t.pc,
           pc := trvec.toNat, status := .header, arrival := .entry, stall := none }

/-- A header word that R64 refuses. -/
def headerBad (w : DWord) : Bool :=
  hLen w == 0 || (12 ≤ hSet w false && hSet w false ≤ 14) || (12 ≤ hSet w true && hSet w true ≤ 14) ||
  4 ≤ hPf w || hPmk w == 3 || bitsN w.toNat 3 0 != 0

/-- A thread's arrival is marked in the top entry, and the count of R298 starts again for those it holds. -/
def markArrived (l : Nat) (g : Group) : Group :=
  match g.stack with
  | [] => g
  | e :: rest =>
    { g with stack := { e with arrived := e.arrived ++ [l] } :: rest,
             threads := g.threads.map fun t => if heldBy e t then { t with holdWords := 0 } else t }

/-- A thread has been released from its hold at the header at which it stands. -/
def releasedTo (t : Thread) : Bool :=
  match t.arrival with
  | .released _ => true
  | _ => false

/-- A thread came to its header by fall-through (R60). -/
def fellTo (t : Thread) : Bool := t.arrival == .fall || t.arrival == .released true

/-- A thread with a good header word goes on under R65 after the header's checks; a released one is past its hold. -/
def passHeader (s : State) (e : Env) (l : Nat) : State :=
  match getGroup s e.group.gid, getLane s e.group.gid l with
  | some g, some t =>
    let n := e.grid.desc.regs
    let pending := preemptPending s g
    match t.poison with
    | some d =>
      raise (modLane s g.gid l fun t => { t with poison := none }) e t.pc [l] [(l, poisonFault d)] true
    | none =>
      if !releasedTo t && (g.stack.head?.map (·.addr)) == some t.pc then
        let s := modGroup s g.gid (markArrived l)
        modLane s g.gid l fun t => { t with stall := some .held, holdWords := 0 }
      else modLane s g.gid l (leaveHeader n g pending)
  | _, _ => s

/-- One thread enters the header at its program counter, for itself (R65): its record names no other lane (R313; log 109). -/
def enterOne (s : State) (e : Env) (l : Nat) : State :=
  match getLane s e.group.gid l with
  | none => s
  | some t =>
    match seqHandlerDue s e l t with
    | some c => modLane s e.group.gid l (enterSeqHandler e.ctx.trvec e.team.seq.pos c)
    | none =>
      let fail (f : LaneFault) : State := raise s e t.pc [l] [(l, f)] true
      if t.pc % 8 != 0 then fail { cls := clsBranch }
      else
        match fetchWord s e.ctx e.group.die t.pc with
        | (.miss v, _) =>
          modLane (askWalk s e.group.die e.ctx.asid v) e.group.gid l fun t => { t with stall := some (.xlate v) }
        | (.unbacked r, _) =>
          modLane (askBacking s r) e.group.gid l fun t => { t with stall := some (.backing r.asid r.lfn r.vpn) }
        | (.fault cls sub level, _) =>
          dropWalkFaults (fail { cls := cls, sub := sub, level := level, addr := t.pc }) e.group.die e.ctx.asid
            [t.pc / 4096]
        | (.ok .., w) =>
          if !w.getLsbD 63 then fail { cls := if fellTo t then clsFall else clsBranch }
          else if headerBad w then fail { cls := clsIllegal }
          else
            passHeader (modLane (countFetch s e.ctx e.group.die t.pc) e.group.gid l fun t => { t with hdr := t.pc, hword := w }) e l

/-- A pending pre-emption takes the threads held at a header (R73). -/
def stopHeld (s : State) (gid : Nat) : State :=
  modGroup s gid fun g =>
    if preemptPending s g then
      { g with threads := g.threads.map fun t =>
          if t.stall == some .held then
            { t with status := .stopped false, stall := none, keep := keepAt (regsOf s g) t.hword }
          else t }
    else g

/-- ENTER_HEADER (R65): the threads of the execution in progress go through the steps, each for itself. -/
def execEnterHeader (s : State) : Host.Outcome State Fault Refusal :=
  withCur s fun c e => stopHeld (settleGroup (c.lanes.foldl (fun s l => enterOne s e l) s) c.gid) c.gid

/-! ## Words that are no instruction -/

/-- A word whose main opcode is unassigned (R84): a fault in each true lane, under every authority. -/
def execUnassignedOpcode (g : Guard) (_op : Byte) (s : State) : Host.Outcome State Fault Refusal :=
  withCur s fun c e => allFault s c e g { cls := clsIllegal }

end Sys2Proof.Machine
end

