-- ==== Sys2Proof/Machine/FloatOps.lean ====
section
/-!
DEFINITION. Scalar floating point, special functions, packed halves and conversion (R126 to R139).
-/

namespace Sys2Proof.Machine

/-! ## Shared operations -/

/-- An instruction that delivers one float code. -/
def fltOp (g : Guard) (us : List RegUse) (d : Reg) (f : (Nat → Word) → FRes) (s : State) :
    Host.Outcome State Fault Refusal :=
  alu g us (fun rd _ =>
    let r := f rd
    .ok { regs := oneReg d r.code, flags := r.flags }) s

/-- `fop` of R128: the code in the low bits of a register. -/
def fcode (t : FTy) (rd : Nat → Word) (r : Reg) : Nat := (rd r.toNat).toNat % 2 ^ fWidth t
/-- A literal operand (R87). -/
def flitCode (t : FTy) (v : DWord) : Nat := v.toNat % 2 ^ fWidth t
/-- The operand of a floating I form (R87). -/
def fimmCode (imm : BitVec 20) : Nat := imm.toNat * 2 ^ 12

/-- Uses of a float form: destination and single-register sources. -/
def fUses (d : Reg) (srcs : List Reg) : List RegUse := dst false d :: srcs.map (src false)

/-- `fset` of R132. -/
def fsetOp (g : Guard) (us : List RegUse) (t : FTy) (cmp : Cmp) (p : PredIx) (a b : (Nat → Word) → Nat)
    (s : State) : Host.Outcome State Fault Refusal :=
  alu g us (fun rd _ =>
    let x := fDecode t (a rd)
    let y := fDecode t (b rd)
    .ok { preds := [(p, cmpHolds cmp (relF x y))], flags := fsetFlags cmp x y }) s

/-- Element e of a packed half (R37). -/
def halfOf (w : Nat) (e : Nat) : Nat := w / 2 ^ (16 * e) % 2 ^ 16
/-- Two elements computed and packed, their flags ORed (R135). -/
def halves (f : Nat → FRes) : FRes := ⟨(f 0).code + 2 ^ 16 * (f 1).code, (f 0).flags ||| (f 1).flags⟩

/-- `cvt` on the source's bits (R136): the register writes and the flags. -/
def cvtEff (dt st : CTy) (m : FMod) (d : Reg) (v : Nat) : Eff :=
  match dt, st with
  | .int di, .int si =>
    let x := opOf si v
    { regs := wrI di d (if m.sat then clampI di x else x) }
  | .int di, .flt sf =>
    let x := cvtSource sf m.ftz v
    let r := cvtToInt di m x.1
    { regs := wrI di d r.1, flags := x.2 ||| r.2 }
  | .flt df, .int si =>
    let r := cvtToFloat df m (fOfInt (opOf si v))
    { regs := oneReg d r.code, flags := r.flags }
  | .flt df, .flt sf =>
    let x := cvtSource sf m.ftz v
    let r := if df == sf then cvtIntegral df m x.1 else cvtToFloat df m x.1
    { regs := oneReg d r.code, flags := x.2 ||| r.flags }

/-- A type of `cvt` stands in a pair. -/
def cvtPair : CTy → Bool
  | .int t => t.is64
  | .flt _ => false

/-- The bits that elements 2k and 2k + 1 take, and their place (R137). -/
def packPlace (t : FTy) (k : Nat) : Nat × Nat := (fWidth t, 2 * k * fWidth t)

/-- `pack`: two codes inserted in the old value; a half type writes all of it. -/
def packVal (t : FTy) (k old a b : Nat) : Nat :=
  let w := (packPlace t k).1
  let lo := (packPlace t k).2
  let pair := a + 2 ^ w * b
  if w == 16 then pair else old - old / 2 ^ lo % 2 ^ (2 * w) * 2 ^ lo + pair * 2 ^ lo

/-- `unpack`: one element widened exactly to FP32 (R138). FTZ flushes only a subnormal result, which a BF16 element
alone can give; as R40 says of a result, the flush sets underflow and inexact. -/
def unpackVal (t : FTy) (ftz : Bool) (k i v : Nat) : FRes :=
  let w := (packPlace t k).1
  let c := v / 2 ^ ((packPlace t k).2 + w * i) % 2 ^ w
  let x := cvtSource t false c
  let r := fDeliver .f32 ⟨.rn, ftz, false⟩ x.1
  ⟨r.code, x.2 ||| r.flags⟩

/-- M of R139: the largest finite value of a target format. -/
def bscaleMax : FTy → Nat
  | .e4m3 => 448
  | .e5m2 => 57344
  | _ => 6

/-- `bscale` in derive mode (R139). -/
def bscaleDerive (t : FTy) (c : Nat) : FRes :=
  match fDecode .f32 c with
  | .fin _ m e => ⟨(scaleExp m e (bscaleMax t) + 127).toNat, 0⟩
  | _ => ⟨0xFF, flInvalid⟩

/-- `bscale` in apply mode (R139). -/
def bscaleApply (m : FMod) (a sc : Nat) : FRes :=
  if sc % 256 == 255 then ⟨fNanCode .f32, flFormat⟩
  else fDeliver .f32 m (fScale2 ((sc % 256 : Nat) - 127) (fOperand .f32 m.ftz a))

/-- `fadd`, R form (R130). -/
def execFaddR (g : Guard) (t : FTy) (m : FMod) (d a b : Reg) (s : State) : Host.Outcome State Fault Refusal :=
  fltOp g (fUses d [a, b]) d (fun rd => faddCode t m (fcode t rd a) (fcode t rd b)) s

/-- `fadd`, I form (R87, R130). -/
def execFaddI (g : Guard) (m : FMod) (d a : Reg) (imm : BitVec 20) (s : State) : Host.Outcome State Fault Refusal :=
  fltOp g (fUses d [a]) d (fun rd => faddCode .f32 m (fcode .f32 rd a) (fimmCode imm)) s

/-- `fadd`, L form (R87, R130). -/
def execFaddL (g : Guard) (t : FTy) (m : FMod) (d a : Reg) (v : DWord) (s : State) : Host.Outcome State Fault Refusal :=
  fltOp g (fUses d [a]) d (fun rd => faddCode t m (fcode t rd a) (flitCode t v)) s

/-- `fsub`, R form (R130). -/
def execFsubR (g : Guard) (t : FTy) (m : FMod) (d a b : Reg) (s : State) : Host.Outcome State Fault Refusal :=
  fltOp g (fUses d [a, b]) d (fun rd => fsubCode t m (fcode t rd a) (fcode t rd b)) s

/-- `fsub`, L form (R87, R130). -/
def execFsubL (g : Guard) (t : FTy) (m : FMod) (d a : Reg) (v : DWord) (s : State) : Host.Outcome State Fault Refusal :=
  fltOp g (fUses d [a]) d (fun rd => fsubCode t m (fcode t rd a) (flitCode t v)) s

/-- `fmul`, R form (R130). -/
def execFmulR (g : Guard) (t : FTy) (m : FMod) (d a b : Reg) (s : State) : Host.Outcome State Fault Refusal :=
  fltOp g (fUses d [a, b]) d (fun rd => fmulCode t m (fcode t rd a) (fcode t rd b)) s

/-- `fmul`, I form (R87, R130). -/
def execFmulI (g : Guard) (m : FMod) (d a : Reg) (imm : BitVec 20) (s : State) : Host.Outcome State Fault Refusal :=
  fltOp g (fUses d [a]) d (fun rd => fmulCode .f32 m (fcode .f32 rd a) (fimmCode imm)) s

/-- `fmul`, L form (R87, R130). -/
def execFmulL (g : Guard) (t : FTy) (m : FMod) (d a : Reg) (v : DWord) (s : State) : Host.Outcome State Fault Refusal :=
  fltOp g (fUses d [a]) d (fun rd => fmulCode t m (fcode t rd a) (flitCode t v)) s

/-- `ffma`, R form (R130). -/
def execFfmaR (g : Guard) (t : FTy) (m : FMod) (d a b c : Reg) (s : State) : Host.Outcome State Fault Refusal :=
  fltOp g (fUses d [a, b, c]) d (fun rd => ffmaCode t m (fcode t rd a) (fcode t rd b) (fcode t rd c)) s

/-- `ffma`, L form (R130). -/
def execFfmaL (g : Guard) (t : FTy) (m : FMod) (d a c : Reg) (v : DWord) (s : State) : Host.Outcome State Fault Refusal :=
  fltOp g (fUses d [a, c]) d (fun rd => ffmaCode t m (fcode t rd a) (flitCode t v) (fcode t rd c)) s

/-- `fmin`, R form (R131). -/
def execFminR (g : Guard) (t : FTy) (ftz : Bool) (d a b : Reg) (s : State) : Host.Outcome State Fault Refusal :=
  fltOp g (fUses d [a, b]) d (fun rd => fminmaxCode t ftz false (fcode t rd a) (fcode t rd b)) s

/-- `fmin`, I form (R131). -/
def execFminI (g : Guard) (ftz : Bool) (d a : Reg) (imm : BitVec 20) (s : State) : Host.Outcome State Fault Refusal :=
  fltOp g (fUses d [a]) d (fun rd => fminmaxCode .f32 ftz false (fcode .f32 rd a) (fimmCode imm)) s

/-- `fmin`, L form (R131). -/
def execFminL (g : Guard) (t : FTy) (ftz : Bool) (d a : Reg) (v : DWord) (s : State) : Host.Outcome State Fault Refusal :=
  fltOp g (fUses d [a]) d (fun rd => fminmaxCode t ftz false (fcode t rd a) (flitCode t v)) s

/-- `fmax`, R form (R131). -/
def execFmaxR (g : Guard) (t : FTy) (ftz : Bool) (d a b : Reg) (s : State) : Host.Outcome State Fault Refusal :=
  fltOp g (fUses d [a, b]) d (fun rd => fminmaxCode t ftz true (fcode t rd a) (fcode t rd b)) s

/-- `fmax`, I form (R131). -/
def execFmaxI (g : Guard) (ftz : Bool) (d a : Reg) (imm : BitVec 20) (s : State) : Host.Outcome State Fault Refusal :=
  fltOp g (fUses d [a]) d (fun rd => fminmaxCode .f32 ftz true (fcode .f32 rd a) (fimmCode imm)) s

/-- `fmax`, L form (R131). -/
def execFmaxL (g : Guard) (t : FTy) (ftz : Bool) (d a : Reg) (v : DWord) (s : State) : Host.Outcome State Fault Refusal :=
  fltOp g (fUses d [a]) d (fun rd => fminmaxCode t ftz true (fcode t rd a) (flitCode t v)) s

/-- `fset`, R form (R132). -/
def execFsetR (g : Guard) (t : FTy) (cmp : Cmp) (p : PredIx) (a b : Reg) (s : State) : Host.Outcome State Fault Refusal :=
  fsetOp g [src false a, src false b] t cmp p (fun rd => fcode t rd a) (fun rd => fcode t rd b) s

/-- `fset`, I form (R132). -/
def execFsetI (g : Guard) (cmp : Cmp) (p : PredIx) (a : Reg) (imm : BitVec 20) (s : State) : Host.Outcome State Fault Refusal :=
  fsetOp g [src false a] .f32 cmp p (fun rd => fcode .f32 rd a) (fun _ => fimmCode imm) s

/-- `fset`, L form (R132). -/
def execFsetL (g : Guard) (t : FTy) (cmp : Cmp) (p : PredIx) (a : Reg) (v : DWord) (s : State) : Host.Outcome State Fault Refusal :=
  fsetOp g [src false a] t cmp p (fun rd => fcode t rd a) (fun _ => flitCode t v) s

/-- `fclass` (R133). -/
def execFclass (g : Guard) (t : FTy) (d a : Reg) (s : State) : Host.Outcome State Fault Refusal :=
  fltOp g (fUses d [a]) d (fun rd => ⟨fclassMask t (fDecode t (fcode t rd a)), 0⟩) s

/-- `frcp` (R134). -/
def execFrcp (g : Guard) (t : FTy) (m : FMod) (d a : Reg) (s : State) : Host.Outcome State Fault Refusal :=
  fltOp g (fUses d [a]) d (fun rd => fFinish t m (fRcp (fOperand t m.ftz (fcode t rd a)))) s

/-- `fsqrt` (R134). -/
def execFsqrt (g : Guard) (t : FTy) (m : FMod) (d a : Reg) (s : State) : Host.Outcome State Fault Refusal :=
  fltOp g (fUses d [a]) d (fun rd => fFinish t m (fSqrt (fOperand t m.ftz (fcode t rd a)))) s

/-- `frsq` (R134, log 6). -/
def execFrsq (g : Guard) (t : FTy) (m : FMod) (d a : Reg) (s : State) : Host.Outcome State Fault Refusal :=
  fltOp g (fUses d [a]) d (fun rd => sfnCodeOf .rsq t m (fcode t rd a)) s

/-- `fex2` (R134, log 6). -/
def execFex2 (g : Guard) (t : FTy) (m : FMod) (d a : Reg) (s : State) : Host.Outcome State Fault Refusal :=
  fltOp g (fUses d [a]) d (fun rd => sfnCodeOf .ex2 t m (fcode t rd a)) s

/-- `flg2` (R134, log 6). -/
def execFlg2 (g : Guard) (t : FTy) (m : FMod) (d a : Reg) (s : State) : Host.Outcome State Fault Refusal :=
  fltOp g (fUses d [a]) d (fun rd => sfnCodeOf .lg2 t m (fcode t rd a)) s

/-- `fsin` (R134, log 6). -/
def execFsin (g : Guard) (t : FTy) (m : FMod) (d a : Reg) (s : State) : Host.Outcome State Fault Refusal :=
  fltOp g (fUses d [a]) d (fun rd => sfnCodeOf .sin t m (fcode t rd a)) s

/-- `fcos` (R134, log 6). -/
def execFcos (g : Guard) (t : FTy) (m : FMod) (d a : Reg) (s : State) : Host.Outcome State Fault Refusal :=
  fltOp g (fUses d [a]) d (fun rd => sfnCodeOf .cos t m (fcode t rd a)) s

/-- `ftanh` (R134, log 6). -/
def execFtanh (g : Guard) (t : FTy) (m : FMod) (d a : Reg) (s : State) : Host.Outcome State Fault Refusal :=
  fltOp g (fUses d [a]) d (fun rd => sfnCodeOf .tanh t m (fcode t rd a)) s

/-- `hadd2` (R135). -/
def execHadd2 (g : Guard) (t : FTy) (m : FMod) (d a b : Reg) (s : State) : Host.Outcome State Fault Refusal :=
  fltOp g (fUses d [a, b]) d (fun rd => halves fun e =>
    faddCode t m (halfOf (rd a.toNat).toNat e) (halfOf (rd b.toNat).toNat e)) s

/-- `hmul2` (R135). -/
def execHmul2 (g : Guard) (t : FTy) (m : FMod) (d a b : Reg) (s : State) : Host.Outcome State Fault Refusal :=
  fltOp g (fUses d [a, b]) d (fun rd => halves fun e =>
    fmulCode t m (halfOf (rd a.toNat).toNat e) (halfOf (rd b.toNat).toNat e)) s

/-- `hfma2`, R form (R135). -/
def execHfma2R (g : Guard) (t : FTy) (m : FMod) (d a b c : Reg) (s : State) : Host.Outcome State Fault Refusal :=
  fltOp g (fUses d [a, b, c]) d (fun rd => halves fun e =>
    ffmaCode t m (halfOf (rd a.toNat).toNat e) (halfOf (rd b.toNat).toNat e) (halfOf (rd c.toNat).toNat e)) s

/-- `hfma2`, L form (R135). -/
def execHfma2L (g : Guard) (t : FTy) (m : FMod) (d a c : Reg) (v : DWord) (s : State) : Host.Outcome State Fault Refusal :=
  fltOp g (fUses d [a, c]) d (fun rd => halves fun e =>
    ffmaCode t m (halfOf (rd a.toNat).toNat e) (halfOf v.toNat e) (halfOf (rd c.toNat).toNat e)) s

/-- `cvt` (R136). -/
def execCvt (g : Guard) (dt st : CTy) (m : FMod) (d a : Reg) (s : State) : Host.Outcome State Fault Refusal :=
  alu g [dst (cvtPair dt) d, src (cvtPair st) a]
    (fun rd _ => .ok (cvtEff dt st m d (if cvtPair st then pairOf rd a.toNat else (rd a.toNat).toNat))) s

/-- `pack` (R137). -/
def execPack (g : Guard) (t : FTy) (m : FMod) (k : BitVec 2) (d a b : Reg) (s : State) : Host.Outcome State Fault Refusal :=
  alu g (fUses d [a, b])
    (fun rd t0 =>
      let x := cvtSource .f32 m.ftz (rd a.toNat).toNat
      let y := cvtSource .f32 m.ftz (rd b.toNat).toNat
      let p := cvtToFloat t m x.1
      let q := cvtToFloat t m y.1
      .ok { regs := oneReg d (packVal t k.toNat (rdReg t0 d.toNat).toNat p.code q.code), flags := p.flags ||| q.flags }) s

/-- `unpack` (R138). -/
def execUnpack (g : Guard) (t : FTy) (ftz : Bool) (k : BitVec 2) (d a : Reg) (s : State) : Host.Outcome State Fault Refusal :=
  alu g [dst true d, src false a]
    (fun rd _ =>
      let v := (rd a.toNat).toNat
      let x := unpackVal t ftz k.toNat 0 v
      let y := unpackVal t ftz k.toNat 1 v
      .ok { regs := oneReg d x.code ++ [(d.toNat + 1, BitVec.ofNat 32 y.code)], flags := x.flags ||| y.flags }) s

/-- `bscale` (R139). -/
def execBscale (g : Guard) (x : BScale) (s : State) : Host.Outcome State Fault Refusal :=
  match x with
  | .apply m d a b => fltOp g (fUses d [a, b]) d (fun rd => bscaleApply m (fcode .f32 rd a) (rd b.toNat).toNat) s
  | .derive t d a => fltOp g (fUses d [a]) d (fun rd => bscaleDerive t (fcode .f32 rd a)) s

end Sys2Proof.Machine
end

