-- ==== Sys2Proof/Machine/Integer.lean ====
section
/-!
DEFINITION. Predicates, selection, moves, integer arithmetic, bit operations, addresses, stream binding and modular
arithmetic (R106 to R125).
-/

namespace Sys2Proof.Machine

/-! ## Shared operations -/

/-- An instruction that delivers one integer through `wr` of R96. -/
def intOp (g : Guard) (us : List RegUse) (ty : ITy) (d : Reg) (f : (Nat → Word) → Int) (s : State) :
    Host.Outcome State Fault Refusal :=
  alu g us (fun rd _ => .ok { regs := wrI ty d (f rd) }) s

/-- SAT of R111. -/
def satI (sat : Bool) (ty : ITy) (x : Int) : Int := if sat then clampI ty x else x

/-- Uses of a two-operand form with a register B. -/
def useDAB (w64 : Bool) (d a b : Reg) : List RegUse := [dst w64 d, src w64 a, src w64 b]
/-- Uses of a form whose B is a constant. -/
def useDA (w64 : Bool) (d a : Reg) : List RegUse := [dst w64 d, src w64 a]

/-- `imul` and `imad` (R113): the product, HW, and the addend with its pair form for `.wide`. -/
def mulOp (g : Guard) (ty : ITy) (hw : HW) (d : Reg) (srcs : List RegUse) (a b : (Nat → Word) → Int)
    (acc acc64 : (Nat → Word) → Int) (s : State) : Host.Outcome State Fault Refusal :=
  match hw with
  | .lo => intOp g (dst ty.is64 d :: srcs) ty d (fun rd => a rd * b rd + acc rd) s
  | .hi => intOp g (dst ty.is64 d :: srcs) ty d
      (fun rd => ((zextI (a rd * b rd) (2 * itW ty) / 2 ^ itW ty : Nat) : Int)) s
  | .wide => alu g (dst true d :: srcs)
      (fun rd _ => .ok { regs := pairRegs d.toNat (zextI (a rd * b rd + acc64 rd) 64) }) s

/-- c64 of R113. -/
def accWide (ty : ITy) (rd : Nat → Word) (c : Reg) : Int :=
  if ty.signed then sextN (pairOf rd c.toNat) 64 else pairOf rd c.toNat

/-- Width class of the addend of `imad`. -/
def accPair (ty : ITy) (hw : HW) : Bool := ty.is64 || hw == .wide

/-- Element i of a packed value of w bits, extended by the sign choice (R114). -/
def elemI (sgn : Bool) (v w i : Nat) : Int :=
  let x := v / 2 ^ (w * i) % 2 ^ w
  if sgn then sextN x w else x

/-- `dot4` of R114. -/
def dot4Sum (sa sb : Bool) (a b : Nat) : Int :=
  (List.range 4).foldl (fun acc i => acc + elemI sa a 8 i * elemI sb b 8 i) 0

/-- `dot2` of R114. -/
def dot2Sum (sa sb hi : Bool) (a b : Nat) : Int :=
  (List.range 2).foldl (fun acc i => acc + elemI sa a 16 i * elemI sb b 8 (i + if hi then 2 else 0)) 0

/-- The type of `dot4` and `dot2`: ITY 0 or 1. -/
def dotTy (sgn : Bool) : ITy := if sgn then .i32 else .n32

/-- Number of ones in the low w bits (R115). -/
def popN (x : Nat) : Nat → Nat
  | 0 => 0
  | w + 1 => popN x w + (if x.testBit w then 1 else 0)

/-- Zeros above the highest one within w bits (R115). -/
def clzN (x : Nat) : Nat → Nat
  | 0 => 0
  | w + 1 => if x.testBit w then 0 else clzN x w + 1

/-- The low w bits in reverse order, with i of them placed (R115). -/
def brevN (x w : Nat) : Nat → Nat
  | 0 => 0
  | i + 1 => brevN x w i + (if x.testBit i then 2 ^ (w - 1 - i) else 0)

/-- `shl` of R117: an amount is never taken modulo w. -/
def shlN (ty : ITy) (x : Int) (n : Nat) : Int := if itW ty ≤ n then 0 else x * 2 ^ n

/-- `shr` of R117. -/
def shrN (ty : ITy) (x : Int) (n : Nat) : Int := if itW ty ≤ n then (if x < 0 then -1 else 0) else x / 2 ^ n

/-- Position, length and width give the length used; none is an empty field (R119). -/
def fieldLen (w ctl : Nat) : Option (Nat × Nat) :=
  let pos := ctl % 256
  let len := ctl / 256 % 256
  if w ≤ pos || len == 0 then none else some (pos, min len (w - pos))

/-- `bfx` of R119. -/
def bfxVal (ty : ITy) (x : Int) (ctl : Nat) : Int :=
  match fieldLen (itW ty) ctl with
  | none => 0
  | some (pos, len) =>
    let f := zextI x (itW ty) / 2 ^ pos % 2 ^ len
    if ty.signed then sextN f len else f

/-- `bfi` of R119. -/
def bfiVal (ty : ITy) (base x : Int) (ctl : Nat) : Int :=
  match fieldLen (itW ty) ctl with
  | none => base
  | some (pos, len) =>
    let b := zextI base (itW ty)
    let old := b / 2 ^ pos % 2 ^ len * 2 ^ pos
    ((b - old + zextI x len * 2 ^ pos : Nat) : Int)

/-- Logical operations through the low w bits (R115). -/
def bitI (f : Nat → Nat → Nat) (ty : ITy) (x y : Int) : Int := (f (zextI x (itW ty)) (zextI y (itW ty)) : Nat)

/-- `lop3` of R116: bit k of the table answers the minterm whose index bits are A, B, C from the least significant. -/
def lop3Val (tt : BitVec 8) (a b c : Word) : Word :=
  (List.range 8).foldl (fun r k =>
    if tt.getLsbD k then
      r ||| ((if k.testBit 0 then a else ~~~a) &&& (if k.testBit 1 then b else ~~~b) &&&
             (if k.testBit 2 then c else ~~~c))
    else r) 0

/-- `lop3` with its table value. -/
def lop3Op (g : Guard) (tt : BitVec 8) (d a b c : Reg) (s : State) : Host.Outcome State Fault Refusal :=
  alu g [dst false d, src false a, src false b, src false c]
    (fun rd _ => .ok { regs := [(d.toNat, lop3Val tt (rd a.toNat) (rd b.toNat) (rd c.toNat))] }) s

/-- `iset` of R106. -/
def isetOp (g : Guard) (us : List RegUse) (cmp : Cmp) (p : PredIx) (a b : (Nat → Word) → Int) (s : State) :
    Host.Outcome State Fault Refusal :=
  alu g us (fun rd _ => .ok { preds := [(p, cmpHolds cmp (relInt (a rd) (b rd)))] }) s

/-- `sel` of R109; `b` gives the value taken when the predicate is false. -/
def selOp (g : Guard) (us : List RegUse) (p : PredIx) (w64 : Bool) (d a : Reg) (b : (Nat → Word) → Nat) (s : State) :
    Host.Outcome State Fault Refusal :=
  alu g us (fun rd t =>
    let v := if rdPred t p then (if w64 then pairOf rd a.toNat else (rd a.toNat).toNat) else b rd
    .ok { regs := if w64 then pairRegs d.toNat v else oneReg d v }) s

/-- BOP of R107. -/
def bopVal : BOp → Bool → Bool → Bool
  | .and, x, y => x && y
  | .or, x, y => x || y
  | .xor, x, y => x != y

/-- q is a valid modulus (R56). -/
def modulusOk (q : Nat) : Bool := q % 2 == 1 && 3 ≤ q && q < 2 ^ 62

/-- A modular instruction of R124 with operands x, y and, when read, z; `f` gives the register writes. -/
def modOp (g : Guard) (us : List RegUse) (q : (Nat → Word) → Nat) (ops : List Reg)
    (f : Nat → (Nat → Nat) → List (Nat × Word)) (s : State) : Host.Outcome State Fault Refusal :=
  alu g us (fun rd _ =>
    let qv := q rd
    if !modulusOk qv then .error clsArith
    else if ops.any fun r => qv ≤ pairOf rd r.toNat then .error clsArith
    else .ok { regs := f qv (pairOf rd) }) s

/-- The destination pair of a residue. -/
def residue (d : Reg) (x : Int) (q : Nat) : List (Nat × Word) := pairRegs d.toNat (modq x q)

/-- The source of `mred`: a pair, or a quad with `.w` (R124). -/
def mredSrc (wide : Bool) (a : Reg) (p : Nat → Nat) : Nat :=
  if wide then p a.toNat + 2 ^ 64 * p (a.toNat + 2) else p a.toNat

/-- Uses of `mred`. -/
def mredUses (wide : Bool) (d a : Reg) : List RegUse :=
  [dst true d, if wide then ⟨a.toNat, 4, true, false⟩ else src true a]

/-- `bfly` of R125: X in D, Y in A, W in B. -/
def bflyRegs (gs : Bool) (d a b : Reg) (q : Nat) (p : Nat → Nat) : List (Nat × Word) :=
  let X : Int := p d.toNat
  let Y : Int := p a.toNat
  let W : Int := p b.toNat
  if gs then residue d (X + Y) q ++ residue a ((X - Y) * W) q
  else
    let t : Int := modq (W * Y) q
    residue d (X + t) q ++ residue a (X - t) q

/-- Uses of `bfly`. -/
def bflyUses (d a b : Reg) : List RegUse := [dst true d, dst true a, src true d, src true a, src true b]

/-! ## Predicates and selection -/

/-- `iset`, register form (R106). -/
def execIsetR (g : Guard) (ty : ITy) (cmp : Cmp) (p : PredIx) (a b : Reg) (s : State) :
    Host.Outcome State Fault Refusal :=
  isetOp g [src ty.is64 a, src ty.is64 b] cmp p (opR ty · a) (opR ty · b) s

/-- `iset`, immediate form: IMM sign-extended (R106). -/
def execIsetI (g : Guard) (ty : ITy) (cmp : Cmp) (p : PredIx) (a : Reg) (imm : BitVec 20) (s : State) :
    Host.Outcome State Fault Refusal :=
  isetOp g [src ty.is64 a] cmp p (opR ty · a) (fun _ => opSImm ty imm) s

/-- `iset`, literal form (R106). -/
def execIsetL (g : Guard) (ty : ITy) (cmp : Cmp) (p : PredIx) (a : Reg) (v : DWord) (s : State) :
    Host.Outcome State Fault Refusal :=
  isetOp g [src ty.is64 a] cmp p (opR ty · a) (fun _ => opLit ty v) s

/-- `pset` (R107). -/
def execPset (g : Guard) (op : BOp) (na nb : Bool) (d a b : PredIx) (s : State) : Host.Outcome State Fault Refusal :=
  alu g [] (fun _ t => .ok { preds := [(d, bopVal op (rdPred t a != na) (rdPred t b != nb))] }) s

/-- The predicates as 64 bits: bit 0 reads 1 (R108). -/
def predBits (t : Thread) : DWord := t.p ||| 1#64

/-- `pmov` (R108): copy, save to a pair, load from a pair with bit 0 ignored. -/
def execPmov (g : Guard) (m : PMov) (s : State) : Host.Outcome State Fault Refusal :=
  match m with
  | .copy d a na => alu g [] (fun _ t => .ok { preds := [(d, rdPred t a != na)] }) s
  | .save d => alu g [dst true d] (fun _ t => .ok { regs := pairRegs d.toNat (predBits t).toNat }) s
  | .load a => alu g [src true a] (fun rd _ =>
      let v := pairOf rd a.toNat
      .ok { preds := (List.range 63).map fun i => (BitVec.ofNat 6 (i + 1), v.testBit (i + 1)) }) s

/-- `sel`, register form (R109). -/
def execSelR (g : Guard) (p : PredIx) (w64 : Bool) (d a b : Reg) (s : State) : Host.Outcome State Fault Refusal :=
  selOp g (useDAB w64 d a b) p w64 d a (fun rd => if w64 then pairOf rd b.toNat else (rd b.toNat).toNat) s

/-- `sel`, immediate form: IMM sign-extended (R109). -/
def execSelI (g : Guard) (p : PredIx) (w64 : Bool) (d a : Reg) (imm : BitVec 20) (s : State) :
    Host.Outcome State Fault Refusal :=
  selOp g (useDA w64 d a) p w64 d a (fun _ => zextI imm.toInt (if w64 then 64 else 32)) s

/-- `sel`, literal form (R109). -/
def execSelL (g : Guard) (p : PredIx) (w64 : Bool) (d a : Reg) (v : DWord) (s : State) :
    Host.Outcome State Fault Refusal :=
  selOp g (useDA w64 d a) p w64 d a (fun _ => if w64 then v.toNat else v.toNat % 2 ^ 32) s

/-! ## Moves and constants -/

/-- `mov` (R110). -/
def execMov (g : Guard) (ty : ITy) (d a : Reg) (s : State) : Host.Outcome State Fault Refusal :=
  intOp g (useDA ty.is64 d a) ty d (opR ty · a) s

/-- `movi` (R110). -/
def execMovi (g : Guard) (w64 : Bool) (d : Reg) (imm : BitVec 20) (s : State) : Host.Outcome State Fault Refusal :=
  alu g [dst w64 d] (fun _ _ => .ok
    { regs := if w64 then pairRegs d.toNat (zextI imm.toInt 64) else oneReg d (zextI imm.toInt 32) }) s

/-- `lit` (R110). -/
def execLit (g : Guard) (w32 : Bool) (d : Reg) (v : DWord) (s : State) : Host.Outcome State Fault Refusal :=
  alu g [dst (!w32) d] (fun _ _ => .ok
    { regs := if w32 then oneReg d v.toNat else pairRegs d.toNat v.toNat }) s

/-! ## Integer arithmetic -/

/-- `iadd`, register form (R111). -/
def execIaddR (g : Guard) (ty : ITy) (sat : Bool) (d a b : Reg) (s : State) : Host.Outcome State Fault Refusal :=
  intOp g (useDAB ty.is64 d a b) ty d (fun rd => satI sat ty (opR ty rd a + opR ty rd b)) s

/-- `iadd`, immediate form: IMM sign-extended (R87, R111). -/
def execIaddI (g : Guard) (ty : ITy) (sat : Bool) (d a : Reg) (imm : BitVec 20) (s : State) :
    Host.Outcome State Fault Refusal :=
  intOp g (useDA ty.is64 d a) ty d (fun rd => satI sat ty (opR ty rd a + opSImm ty imm)) s

/-- `iadd`, literal form (R111). -/
def execIaddL (g : Guard) (ty : ITy) (sat : Bool) (d a : Reg) (v : DWord) (s : State) :
    Host.Outcome State Fault Refusal :=
  intOp g (useDA ty.is64 d a) ty d (fun rd => satI sat ty (opR ty rd a + opLit ty v)) s

/-- `isub`, register form (R111). -/
def execIsubR (g : Guard) (ty : ITy) (sat : Bool) (d a b : Reg) (s : State) : Host.Outcome State Fault Refusal :=
  intOp g (useDAB ty.is64 d a b) ty d (fun rd => satI sat ty (opR ty rd a - opR ty rd b)) s

/-- `isub`, immediate form: IMM sign-extended (R87, R111). -/
def execIsubI (g : Guard) (ty : ITy) (sat : Bool) (d a : Reg) (imm : BitVec 20) (s : State) :
    Host.Outcome State Fault Refusal :=
  intOp g (useDA ty.is64 d a) ty d (fun rd => satI sat ty (opR ty rd a - opSImm ty imm)) s

/-- `isub`, literal form (R111). -/
def execIsubL (g : Guard) (ty : ITy) (sat : Bool) (d a : Reg) (v : DWord) (s : State) :
    Host.Outcome State Fault Refusal :=
  intOp g (useDA ty.is64 d a) ty d (fun rd => satI sat ty (opR ty rd a - opLit ty v)) s

/-- `imin`, register form (R111). -/
def execIminR (g : Guard) (ty : ITy) (d a b : Reg) (s : State) : Host.Outcome State Fault Refusal :=
  intOp g (useDAB ty.is64 d a b) ty d (fun rd => min (opR ty rd a) (opR ty rd b)) s

/-- `imin`, immediate form (R111). -/
def execIminI (g : Guard) (ty : ITy) (d a : Reg) (imm : BitVec 20) (s : State) : Host.Outcome State Fault Refusal :=
  intOp g (useDA ty.is64 d a) ty d (fun rd => min (opR ty rd a) (opSImm ty imm)) s

/-- `imin`, literal form (R111). -/
def execIminL (g : Guard) (ty : ITy) (d a : Reg) (v : DWord) (s : State) : Host.Outcome State Fault Refusal :=
  intOp g (useDA ty.is64 d a) ty d (fun rd => min (opR ty rd a) (opLit ty v)) s

/-- `imax`, register form (R111). -/
def execImaxR (g : Guard) (ty : ITy) (d a b : Reg) (s : State) : Host.Outcome State Fault Refusal :=
  intOp g (useDAB ty.is64 d a b) ty d (fun rd => max (opR ty rd a) (opR ty rd b)) s

/-- `imax`, immediate form (R111). -/
def execImaxI (g : Guard) (ty : ITy) (d a : Reg) (imm : BitVec 20) (s : State) : Host.Outcome State Fault Refusal :=
  intOp g (useDA ty.is64 d a) ty d (fun rd => max (opR ty rd a) (opSImm ty imm)) s

/-- `imax`, literal form (R111). -/
def execImaxL (g : Guard) (ty : ITy) (d a : Reg) (v : DWord) (s : State) : Host.Outcome State Fault Refusal :=
  intOp g (useDA ty.is64 d a) ty d (fun rd => max (opR ty rd a) (opLit ty v)) s

/-- `iabs` (R111). -/
def execIabs (g : Guard) (ty : ITy) (sat : Bool) (d a : Reg) (s : State) : Host.Outcome State Fault Refusal :=
  intOp g (useDA ty.is64 d a) ty d (fun rd => satI sat ty ((opR ty rd a).natAbs : Int)) s

/-- `ineg` (R111). -/
def execIneg (g : Guard) (ty : ITy) (sat : Bool) (d a : Reg) (s : State) : Host.Outcome State Fault Refusal :=
  intOp g (useDA ty.is64 d a) ty d (fun rd => satI sat ty (-(opR ty rd a))) s

/-- ITY 0 or 2 of the carry chain (R112). -/
def carryTy (w64 : Bool) : ITy := if w64 then .n64 else .n32

/-- `iaddc`: the carry through P[c] (R112). -/
def execIaddc (g : Guard) (w64 : Bool) (d a b : Reg) (p : PredIx) (s : State) : Host.Outcome State Fault Refusal :=
  alu g (useDAB w64 d a b) (fun rd t =>
    let x := opR (carryTy w64) rd a + opR (carryTy w64) rd b + (if rdPred t p then 1 else 0)
    .ok { regs := wrI (carryTy w64) d x, preds := [(p, decide ((2 : Int) ^ itW (carryTy w64) ≤ x))] }) s

/-- `isubc`: the borrow through P[c] (R112). -/
def execIsubc (g : Guard) (w64 : Bool) (d a b : Reg) (p : PredIx) (s : State) : Host.Outcome State Fault Refusal :=
  alu g (useDAB w64 d a b) (fun rd t =>
    let x := opR (carryTy w64) rd a - opR (carryTy w64) rd b - (if rdPred t p then 1 else 0)
    .ok { regs := wrI (carryTy w64) d x, preds := [(p, decide (x < 0))] }) s

/-- `imul`, register form (R113). -/
def execImulR (g : Guard) (ty : ITy) (hw : HW) (d a b : Reg) (s : State) : Host.Outcome State Fault Refusal :=
  mulOp g ty hw d [src ty.is64 a, src ty.is64 b] (opR ty · a) (opR ty · b) (fun _ => 0) (fun _ => 0) s

/-- `imul`, immediate form (R113). -/
def execImulI (g : Guard) (ty : ITy) (hw : HW) (d a : Reg) (imm : BitVec 20) (s : State) :
    Host.Outcome State Fault Refusal :=
  mulOp g ty hw d [src ty.is64 a] (opR ty · a) (fun _ => opSImm ty imm) (fun _ => 0) (fun _ => 0) s

/-- `imul`, literal form (R113). -/
def execImulL (g : Guard) (ty : ITy) (hw : HW) (d a : Reg) (v : DWord) (s : State) :
    Host.Outcome State Fault Refusal :=
  mulOp g ty hw d [src ty.is64 a] (opR ty · a) (fun _ => opLit ty v) (fun _ => 0) (fun _ => 0) s

/-- `imad`, register form (R113). -/
def execImadR (g : Guard) (ty : ITy) (hw : HW) (d a b c : Reg) (s : State) : Host.Outcome State Fault Refusal :=
  mulOp g ty hw d [src ty.is64 a, src ty.is64 b, src (accPair ty hw) c] (opR ty · a) (opR ty · b) (opR ty · c)
    (accWide ty · c) s

/-- `imad`, literal form (R113). -/
def execImadL (g : Guard) (ty : ITy) (hw : HW) (d a c : Reg) (v : DWord) (s : State) :
    Host.Outcome State Fault Refusal :=
  mulOp g ty hw d [src ty.is64 a, src (accPair ty hw) c] (opR ty · a) (fun _ => opLit ty v) (opR ty · c)
    (accWide ty · c) s

/-- `dot4`, register form (R114). -/
def execDot4R (g : Guard) (sgn sa sb sat : Bool) (d a b c : Reg) (s : State) : Host.Outcome State Fault Refusal :=
  intOp g [dst false d, src false a, src false b, src false c] (dotTy sgn) d (fun rd =>
    satI sat (dotTy sgn) (opR (dotTy sgn) rd c + dot4Sum sa sb (rd a.toNat).toNat (rd b.toNat).toNat)) s

/-- `dot4`, literal form (R114). -/
def execDot4L (g : Guard) (sgn sa sb sat : Bool) (d a c : Reg) (v : DWord) (s : State) :
    Host.Outcome State Fault Refusal :=
  intOp g [dst false d, src false a, src false c] (dotTy sgn) d (fun rd =>
    satI sat (dotTy sgn) (opR (dotTy sgn) rd c + dot4Sum sa sb (rd a.toNat).toNat v.toNat)) s

/-- `dot2` (R114). -/
def execDot2 (g : Guard) (sgn sa sb hi sat : Bool) (d a b c : Reg) (s : State) : Host.Outcome State Fault Refusal :=
  intOp g [dst false d, src false a, src false b, src false c] (dotTy sgn) d (fun rd =>
    satI sat (dotTy sgn) (opR (dotTy sgn) rd c + dot2Sum sa sb hi (rd a.toNat).toNat (rd b.toNat).toNat)) s

/-! ## Bit operations -/

/-- `and`, register form (R115). -/
def execAndR (g : Guard) (ty : ITy) (d a b : Reg) (s : State) : Host.Outcome State Fault Refusal :=
  intOp g (useDAB ty.is64 d a b) ty d (fun rd => bitI (· &&& ·) ty (opR ty rd a) (opR ty rd b)) s

/-- `and`, immediate form: IMM zero-extended (R87, R115). -/
def execAndI (g : Guard) (ty : ITy) (d a : Reg) (imm : BitVec 20) (s : State) : Host.Outcome State Fault Refusal :=
  intOp g (useDA ty.is64 d a) ty d (fun rd => bitI (· &&& ·) ty (opR ty rd a) (opZImm ty imm)) s

/-- `and`, literal form (R115). -/
def execAndL (g : Guard) (ty : ITy) (d a : Reg) (v : DWord) (s : State) : Host.Outcome State Fault Refusal :=
  intOp g (useDA ty.is64 d a) ty d (fun rd => bitI (· &&& ·) ty (opR ty rd a) (opLit ty v)) s

/-- `or`, register form (R115). -/
def execOrR (g : Guard) (ty : ITy) (d a b : Reg) (s : State) : Host.Outcome State Fault Refusal :=
  intOp g (useDAB ty.is64 d a b) ty d (fun rd => bitI (· ||| ·) ty (opR ty rd a) (opR ty rd b)) s

/-- `or`, immediate form: IMM zero-extended (R87, R115). -/
def execOrI (g : Guard) (ty : ITy) (d a : Reg) (imm : BitVec 20) (s : State) : Host.Outcome State Fault Refusal :=
  intOp g (useDA ty.is64 d a) ty d (fun rd => bitI (· ||| ·) ty (opR ty rd a) (opZImm ty imm)) s

/-- `or`, literal form (R115). -/
def execOrL (g : Guard) (ty : ITy) (d a : Reg) (v : DWord) (s : State) : Host.Outcome State Fault Refusal :=
  intOp g (useDA ty.is64 d a) ty d (fun rd => bitI (· ||| ·) ty (opR ty rd a) (opLit ty v)) s

/-- `xor`, register form (R115). -/
def execXorR (g : Guard) (ty : ITy) (d a b : Reg) (s : State) : Host.Outcome State Fault Refusal :=
  intOp g (useDAB ty.is64 d a b) ty d (fun rd => bitI (· ^^^ ·) ty (opR ty rd a) (opR ty rd b)) s

/-- `xor`, immediate form: IMM zero-extended (R87, R115). -/
def execXorI (g : Guard) (ty : ITy) (d a : Reg) (imm : BitVec 20) (s : State) : Host.Outcome State Fault Refusal :=
  intOp g (useDA ty.is64 d a) ty d (fun rd => bitI (· ^^^ ·) ty (opR ty rd a) (opZImm ty imm)) s

/-- `xor`, literal form (R115). -/
def execXorL (g : Guard) (ty : ITy) (d a : Reg) (v : DWord) (s : State) : Host.Outcome State Fault Refusal :=
  intOp g (useDA ty.is64 d a) ty d (fun rd => bitI (· ^^^ ·) ty (opR ty rd a) (opLit ty v)) s

/-- `not` (R115). -/
def execNot (g : Guard) (ty : ITy) (d a : Reg) (s : State) : Host.Outcome State Fault Refusal :=
  intOp g (useDA ty.is64 d a) ty d (fun rd => itMax ty - opR ty rd a) s

/-- `popc`: one 32-bit result (R115). -/
def execPopc (g : Guard) (ty : ITy) (d a : Reg) (s : State) : Host.Outcome State Fault Refusal :=
  alu g [dst false d, src ty.is64 a] (fun rd _ => .ok
    { regs := oneReg d (popN (opR ty rd a).toNat (itW ty)) }) s

/-- `clz`: one 32-bit result (R115). -/
def execClz (g : Guard) (ty : ITy) (d a : Reg) (s : State) : Host.Outcome State Fault Refusal :=
  alu g [dst false d, src ty.is64 a] (fun rd _ => .ok
    { regs := oneReg d (clzN (opR ty rd a).toNat (itW ty)) }) s

/-- `brev` (R115). -/
def execBrev (g : Guard) (ty : ITy) (d a : Reg) (s : State) : Host.Outcome State Fault Refusal :=
  intOp g (useDA ty.is64 d a) ty d (fun rd => (brevN (opR ty rd a).toNat (itW ty) (itW ty) : Nat)) s

/-- `lop3` with table bit 7 clear, opcode 0x24 (R116). -/
def execLop3Lo (g : Guard) (tt : BitVec 7) (d a b c : Reg) (s : State) : Host.Outcome State Fault Refusal :=
  lop3Op g (0#1 ++ tt) d a b c s

/-- `lop3` with table bit 7 set, opcode 0x25 (R116). -/
def execLop3Hi (g : Guard) (tt : BitVec 7) (d a b c : Reg) (s : State) : Host.Outcome State Fault Refusal :=
  lop3Op g (1#1 ++ tt) d a b c s

/-- `shl`, register form (R117). -/
def execShlR (g : Guard) (ty : ITy) (d a b : Reg) (s : State) : Host.Outcome State Fault Refusal :=
  intOp g [dst ty.is64 d, src ty.is64 a, src false b] ty d (fun rd => shlN ty (opR ty rd a) (rd b.toNat).toNat) s

/-- `shl`, immediate form (R117). -/
def execShlI (g : Guard) (ty : ITy) (d a : Reg) (imm : BitVec 20) (s : State) : Host.Outcome State Fault Refusal :=
  intOp g (useDA ty.is64 d a) ty d (fun rd => shlN ty (opR ty rd a) imm.toNat) s

/-- `shr`, register form (R117). -/
def execShrR (g : Guard) (ty : ITy) (d a b : Reg) (s : State) : Host.Outcome State Fault Refusal :=
  intOp g [dst ty.is64 d, src ty.is64 a, src false b] ty d (fun rd => shrN ty (opR ty rd a) (rd b.toNat).toNat) s

/-- `shr`, immediate form (R117). -/
def execShrI (g : Guard) (ty : ITy) (d a : Reg) (imm : BitVec 20) (s : State) : Host.Outcome State Fault Refusal :=
  intOp g (useDA ty.is64 d a) ty d (fun rd => shrN ty (opR ty rd a) imm.toNat) s

/-- `shf`, the funnel shift (R118). -/
def execShf (g : Guard) (left : Bool) (d a b c : Reg) (s : State) : Host.Outcome State Fault Refusal :=
  alu g [dst false d, src false a, src false b, src false c] (fun rd _ =>
    let x := (rd c.toNat).toNat * 2 ^ 32 + (rd a.toNat).toNat
    let n := min (rd b.toNat).toNat 32
    .ok { regs := oneReg d (if left then x * 2 ^ n / 2 ^ 32 else x / 2 ^ n) }) s

/-- `bfx`, register control (R119). -/
def execBfxR (g : Guard) (ty : ITy) (d a b : Reg) (s : State) : Host.Outcome State Fault Refusal :=
  intOp g [dst ty.is64 d, src ty.is64 a, src false b] ty d (fun rd => bfxVal ty (opR ty rd a) (rd b.toNat).toNat) s

/-- `bfx`, immediate control (R119). -/
def execBfxI (g : Guard) (ty : ITy) (d a : Reg) (ctl : BitVec 16) (s : State) : Host.Outcome State Fault Refusal :=
  intOp g (useDA ty.is64 d a) ty d (fun rd => bfxVal ty (opR ty rd a) ctl.toNat) s

/-- `bfi`, register control: the base is C (R119). -/
def execBfiR (g : Guard) (ty : ITy) (d a b c : Reg) (s : State) : Host.Outcome State Fault Refusal :=
  intOp g [dst ty.is64 d, src ty.is64 a, src false b, src ty.is64 c] ty d
    (fun rd => bfiVal ty (opR ty rd c) (opR ty rd a) (rd b.toNat).toNat) s

/-- `bfi`, immediate control: the base is the old D (R119). -/
def execBfiI (g : Guard) (ty : ITy) (d a : Reg) (ctl : BitVec 16) (s : State) : Host.Outcome State Fault Refusal :=
  intOp g [dst ty.is64 d, src ty.is64 d, src ty.is64 a] ty d
    (fun rd => bfiVal ty (opR ty rd d) (opR ty rd a) ctl.toNat) s

/-! ## Addresses and streams -/

/-- `lea` (R120). -/
def execLea (g : Guard) (sgn : Bool) (sh : BitVec 4) (d a b : Reg) (s : State) : Host.Outcome State Fault Refusal :=
  alu g [dst true d, src true a, src false b] (fun rd _ =>
    let ix := opR (if sgn then .i32 else .n32) rd b
    .ok { regs := pairRegs d.toNat (zextI (pairOf rd a.toNat + ix * 2 ^ sh.toNat) 64) }) s

/-- Release every binding of `d` by a register other than k (R121). -/
def unbindOthers (t : Thread) (k : Nat) (d : Reg) : Thread :=
  (List.range 8).foldl (fun t j =>
    if j != k && (rdStream t j).bnd && (rdStream t j).vreg == d then wrStream t j StreamReg.unbound else t) t

/-- `sbind` (R121). D is named but not written, so it meets the checks of R18 and not that of R21. -/
def execSbind (g : Guard) (x : SBind) (s : State) : Host.Outcome State Fault Refusal :=
  match x with
  | .off k => runLanes g [] s fun c _ l _ _ s =>
      .ok (modLane s c.gid l fun t => wrStream t k.toNat StreamReg.unbound)
  | .bind k ew8 d a => withCur s fun c e =>
      if ew8 && e.grid.desc.regs ≤ d.toNat + 1 then allFault s c e g { cls := clsIllegal }
      else foldLanes (settleStreams s c e g [srcRun a 3]) c e g fun l s =>
        if e.grid.desc.regs ≤ d.toNat then .fault { cls := clsRange }
        else withOperands e (execRec s c e g) c.gid [srcRun a 3] l s fun rd t s =>
          let w := rd (a.toNat + 2)
          let cnt := w.toNat % 2 ^ 16
          let pos := w.toNat / 2 ^ 16
          if cnt == 0 || cnt ≤ pos then .fault { cls := clsStream }
          else .ok (modLane s c.gid l fun _ =>
            wrStream (unbindOthers t k.toNat d) k.toNat
              { base := rd a.toNat, stride := rd (a.toNat + 1), count := cnt, pos := pos, vreg := d, ew8 := ew8,
                bnd := true })

/-! ## Modular arithmetic -/

/-- `maddm`, modulus in C (R124). -/
def execMaddmR (g : Guard) (d a b c : Reg) (s : State) : Host.Outcome State Fault Refusal :=
  modOp g [dst true d, src true a, src true b, src true c] (pairOf · c.toNat) [a, b]
    (fun q p => residue d ((p a.toNat : Int) + p b.toNat) q) s

/-- `maddm`, modulus in the literal (R124). -/
def execMaddmL (g : Guard) (d a b : Reg) (q : DWord) (s : State) : Host.Outcome State Fault Refusal :=
  modOp g [dst true d, src true a, src true b] (fun _ => q.toNat) [a, b]
    (fun q p => residue d ((p a.toNat : Int) + p b.toNat) q) s

/-- `msubm`, modulus in C (R124). -/
def execMsubmR (g : Guard) (d a b c : Reg) (s : State) : Host.Outcome State Fault Refusal :=
  modOp g [dst true d, src true a, src true b, src true c] (pairOf · c.toNat) [a, b]
    (fun q p => residue d ((p a.toNat : Int) - p b.toNat) q) s

/-- `msubm`, modulus in the literal (R124). -/
def execMsubmL (g : Guard) (d a b : Reg) (q : DWord) (s : State) : Host.Outcome State Fault Refusal :=
  modOp g [dst true d, src true a, src true b] (fun _ => q.toNat) [a, b]
    (fun q p => residue d ((p a.toNat : Int) - p b.toNat) q) s

/-- `mmulm`, modulus in C (R124). -/
def execMmulmR (g : Guard) (d a b c : Reg) (s : State) : Host.Outcome State Fault Refusal :=
  modOp g [dst true d, src true a, src true b, src true c] (pairOf · c.toNat) [a, b]
    (fun q p => residue d ((p a.toNat : Int) * p b.toNat) q) s

/-- `mmulm`, modulus in the literal (R124). -/
def execMmulmL (g : Guard) (d a b : Reg) (q : DWord) (s : State) : Host.Outcome State Fault Refusal :=
  modOp g [dst true d, src true a, src true b] (fun _ => q.toNat) [a, b]
    (fun q p => residue d ((p a.toNat : Int) * p b.toNat) q) s

/-- `mmacm`, modulus in C (R124). -/
def execMmacmR (g : Guard) (d a b c : Reg) (s : State) : Host.Outcome State Fault Refusal :=
  modOp g [dst true d, src true a, src true b, src true c, src true d] (pairOf · c.toNat) [a, b, d]
    (fun q p => residue d ((p a.toNat : Int) * p b.toNat + p d.toNat) q) s

/-- `mmacm`, modulus in the literal (R124). -/
def execMmacmL (g : Guard) (d a b : Reg) (q : DWord) (s : State) : Host.Outcome State Fault Refusal :=
  modOp g [dst true d, src true a, src true b, src true d] (fun _ => q.toNat) [a, b, d]
    (fun q p => residue d ((p a.toNat : Int) * p b.toNat + p d.toNat) q) s

/-- `mred`, modulus in C (R124). -/
def execMredR (g : Guard) (wide : Bool) (d a c : Reg) (s : State) : Host.Outcome State Fault Refusal :=
  modOp g (mredUses wide d a ++ [src true c]) (pairOf · c.toNat) []
    (fun q p => residue d (mredSrc wide a p : Nat) q) s

/-- `mred`, modulus in the literal (R124). -/
def execMredL (g : Guard) (wide : Bool) (d a : Reg) (q : DWord) (s : State) : Host.Outcome State Fault Refusal :=
  modOp g (mredUses wide d a) (fun _ => q.toNat) [] (fun q p => residue d (mredSrc wide a p : Nat) q) s

/-- `bfly`, modulus in C (R125). -/
def execBflyR (g : Guard) (gs : Bool) (d a b c : Reg) (s : State) : Host.Outcome State Fault Refusal :=
  modOp g (bflyUses d a b ++ [src true c]) (pairOf · c.toNat) [d, a, b] (bflyRegs gs d a b) s

/-- `bfly`, modulus in the literal (R125). -/
def execBflyL (g : Guard) (gs : Bool) (d a b : Reg) (q : DWord) (s : State) : Host.Outcome State Fault Refusal :=
  modOp g (bflyUses d a b) (fun _ => q.toNat) [d, a, b] (bflyRegs gs d a b) s

end Sys2Proof.Machine
end

