-- ==== Sys2Proof/Machine/CrossLane.lean ====
section
/-!
DEFINITION. Cross-lane instructions (R140 to R147): the meeting, the participants, and what each receives.
-/

namespace Sys2Proof.Machine

/-! ## The execution -/

/-- A participant: its lane, its operands, its thread with stream elements taken. -/
structure Member where
  lane : Nat
  rd   : Nat → Word
  t    : Thread

/-- The lanes of an execution wait at their cross-lane word; every arrival starts the count of R298 again. -/
def waitCross (s : State) (c : Cur) : State :=
  let s := c.lanes.foldl (fun s l => modLane s c.gid l fun t => { t with stall := some .cross }) s
  modGroup s c.gid fun g =>
    { g with threads := g.threads.map fun t =>
        if t.stall == some .cross && t.pc == c.pc then { t with holdWords := 0 } else t }

/-- The operands of the lanes whose guard is true. -/
def memberOperands (s : State) (c : Cur) (e : Env) (g : Guard) (us : List RegUse) : List (Nat × Taken) :=
  (activeLanes s c g).filterMap fun l => (getLane s c.gid l).map fun t => (l, operandsOf s e (execRec s c e g) t us)

/-- The participants (R140). -/
def membersOf (ts : List (Nat × Taken)) : List Member :=
  ts.filterMap fun x => match x.2 with
    | .ok ov t => some ⟨x.1, readOver ov t, t⟩
    | _ => none

/-- The lanes that a fault of R90 parks. -/
def takenFaults (ts : List (Nat × Taken)) : List (Nat × LaneFault) :=
  ts.filterMap fun x => match x.2 with
    | .fault f => some (x.1, f)
    | _ => none

/-- What an operand waits on: an outstanding acquire or an empty line. -/
def takenWait (ts : List (Nat × Taken)) : Option Stall :=
  ts.findSome? fun x => match x.2 with
    | .wait w => some w
    | _ => none

/-- The lanes of a meeting wait together for an operand: none joins them, and none leaves but by a pre-emption (R142). -/
def meetStall (c : Cur) (w : Stall) : Stall :=
  .met (match w with | .line k => some k | _ => none) (laneMask c.lanes)

/-- A word that issues has used up its release by the progress rule, and its lanes' turn (R296, R298). -/
def spendMeeting (c : Cur) (s : State) : State :=
  modGroup s c.gid fun g =>
    { g with crossFree := g.crossFree.filter (· != c.pc),
             threads := g.threads.map fun t => if c.lanes.contains t.lane then { t with lastIssue := s.stamp } else t }

/-- The meeting has come: the participants act as one execution, with a change to their group. -/
def runCross (s0 : State) (c : Cur) (e : Env) (g : Guard) (us : List RegUse)
    (f : List Member → Member → Eff) (grp : List Member → Group → Group) : State :=
  if pairIllegal e.grid.desc.regs us then spendMeeting c (allFault s0 c e g { cls := clsIllegal })
  else
    let s := settleStreams s0 c e g us
    let ts := memberOperands s c e g us
    match takenWait ts with
    | some w => c.lanes.foldl (fun s l => modLane s c.gid l fun t => { t with stall := some (meetStall c w) }) s
    | none =>
      let act := activeLanes s c g
      let ms := membersOf ts
      let s := (c.lanes.filter fun l => !act.contains l).foldl (fun s l => modLane s c.gid l (advance c)) s
      let s := modGroup s c.gid (grp ms)
      let s := ms.foldl (fun s m => modLane s c.gid m.lane fun _ => advance c (applyEff m.t (f ms m))) s
      spendMeeting c (countEvent (raise s e c.pc act (takenFaults ts) false) e.ctx.asid 0 ms.length)

/-- The execution with every thread that stands at its cross-lane word: those that issue, and those that wait there,
also in another block that holds the word (R62, R140). -/
def meetCur (g : Group) (c : Cur) : Cur :=
  { c with lanes := (g.threads.filter fun t =>
      c.lanes.contains t.lane || (t.status == .block && t.pc == c.pc && t.stall == some .cross)).map (·.lane) }

/-- The lanes of the meeting in which an execution's lanes wait for an operand. -/
def metLanes (g : Group) (c : Cur) : Option Nat :=
  g.threads.findSome? fun t => if c.lanes.contains t.lane then
      match t.stall with
      | some (.met _ m) => some m
      | _ => none
    else none

/-- A cross-lane word where its execution stands: it waits until the threads meet (R140); a meeting that waited for an
operand goes on as it was (R142). -/
def crossAt (s : State) (c : Cur) (e : Env) (g : Guard) (us : List RegUse) (f : List Member → Member → Eff)
    (grp : List Member → Group → Group) : State :=
  match metLanes e.group c with
  | some m => runCross s { c with lanes := (List.range 64).filter m.testBit } e g us f grp
  | none =>
    let c := meetCur e.group c
    if mayMeet e.group c.lanes c.pc then runCross s c e g us f grp else waitCross s c

/-- A cross-lane instruction. -/
def crossOp (g : Guard) (us : List RegUse) (s : State) (f : List Member → Member → Eff) :
    Host.Outcome State Fault Refusal :=
  withCur s fun c e => crossAt s c e g us f fun _ g => g

/-! ## Shuffles (R143) -/

/-- Modes of `shfl`. -/
inductive ShflMode where | idx | up | down | xor
  deriving DecidableEq, Repr

/-- The lane that participant i reads. -/
def shflSource (m : ShflMode) (i n : Nat) : Int :=
  match m with
  | .idx => n
  | .up => (i : Int) - n
  | .down => (i : Int) + n
  | .xor => ((i ^^^ n : Nat) : Int)

/-- `shfl` with its lane operand. -/
def shflOp (m : ShflMode) (g : Guard) (p : PredIx) (d a f : Reg) (srcs : List RegUse) (n : (Nat → Word) → Nat)
    (s : State) : Host.Outcome State Fault Refusal :=
  crossOp g (dst false d :: src false a :: src false f :: srcs) s fun ms x =>
    match ms.find? fun y => (y.lane : Int) == shflSource m x.lane (n x.rd) with
    | some y => { regs := [(d.toNat, y.rd a.toNat)], preds := [(p, true)] }
    | none => { regs := [(d.toNat, x.rd f.toNat)], preds := [(p, false)] }

/-- `shfl.idx`, register lane operand. -/
def execShflIdxR (g : Guard) (p : PredIx) (d a b f : Reg) (s : State) : Host.Outcome State Fault Refusal :=
  shflOp .idx g p d a f [src false b] (fun rd => (rd b.toNat).toNat) s
/-- `shfl.up`, register lane operand. -/
def execShflUpR (g : Guard) (p : PredIx) (d a b f : Reg) (s : State) : Host.Outcome State Fault Refusal :=
  shflOp .up g p d a f [src false b] (fun rd => (rd b.toNat).toNat) s
/-- `shfl.down`, register lane operand. -/
def execShflDownR (g : Guard) (p : PredIx) (d a b f : Reg) (s : State) : Host.Outcome State Fault Refusal :=
  shflOp .down g p d a f [src false b] (fun rd => (rd b.toNat).toNat) s
/-- `shfl.xor`, register lane operand. -/
def execShflXorR (g : Guard) (p : PredIx) (d a b f : Reg) (s : State) : Host.Outcome State Fault Refusal :=
  shflOp .xor g p d a f [src false b] (fun rd => (rd b.toNat).toNat) s
/-- `shfl.idx`, constant lane operand. -/
def execShflIdxC (g : Guard) (p : PredIx) (d a : Reg) (n : BitVec 6) (f : Reg) (s : State) :
    Host.Outcome State Fault Refusal := shflOp .idx g p d a f [] (fun _ => n.toNat) s
/-- `shfl.up`, constant lane operand. -/
def execShflUpC (g : Guard) (p : PredIx) (d a : Reg) (n : BitVec 6) (f : Reg) (s : State) :
    Host.Outcome State Fault Refusal := shflOp .up g p d a f [] (fun _ => n.toNat) s
/-- `shfl.down`, constant lane operand. -/
def execShflDownC (g : Guard) (p : PredIx) (d a : Reg) (n : BitVec 6) (f : Reg) (s : State) :
    Host.Outcome State Fault Refusal := shflOp .down g p d a f [] (fun _ => n.toNat) s
/-- `shfl.xor`, constant lane operand. -/
def execShflXorC (g : Guard) (p : PredIx) (d a : Reg) (n : BitVec 6) (f : Reg) (s : State) :
    Host.Outcome State Fault Refusal := shflOp .xor g p d a f [] (fun _ => n.toNat) s

/-! ## Votes (R144) -/

/-- The vote predicate of a participant. -/
def voteOf (a : PredIx) (na : Bool) (m : Member) : Bool := rdPred m.t a != na

/-- `vote` (R144). -/
def execVote (g : Guard) (x : Vote) (a : PredIx) (na : Bool) (s : State) : Host.Outcome State Fault Refusal :=
  let v := voteOf a na
  match x with
  | .every d => crossOp g [] s fun ms _ => { preds := [(d, ms.all v)] }
  | .some d => crossOp g [] s fun ms _ => { preds := [(d, ms.any v)] }
  | .same d => crossOp g [] s fun ms _ => { preds := [(d, ms.all v || !ms.any v)] }
  | .mask d => crossOp g [dst true d] s fun ms _ =>
      { regs := pairRegs d.toNat (laneMask ((ms.filter v).map (·.lane))) }
  | .count d => crossOp g [dst false d] s fun ms _ => { regs := oneReg d (ms.filter v).length }
  | .first d => crossOp g [dst false d] s fun ms _ =>
      { regs := oneReg d (((ms.find? v).map (·.lane)).getD 0xFFFFFFFF) }

/-! ## Reductions and scans (R145) -/

/-- An integer combination. -/
def ropInt (op : ROp) (ty : ITy) (x y : Int) : Int :=
  match op with
  | .add | .xadd => opOf ty (zextI (x + y) (itW ty))
  | .min => min x y
  | .max => max x y
  | .and => opOf ty (zextI x (itW ty) &&& zextI y (itW ty))
  | .or => opOf ty (zextI x (itW ty) ||| zextI y (itW ty))
  | .xor => opOf ty (zextI x (itW ty) ^^^ zextI y (itW ty))

/-- A float combination: the code, with the flags of the steps that led to it. -/
def ropFloat (op : ROp) (x y : FRes) : FRes :=
  let r := match op with
    | .min => fminmaxCode .f32 false false x.code y.code
    | .max => fminmaxCode .f32 false true x.code y.code
    | _ => faddCode .f32 fPlain x.code y.code
  ⟨r.code, x.flags ||| y.flags ||| r.flags⟩

/-- Two positions of the tree: an absent one passes the other through. -/
def joinPos {α : Type} (f : α → α → α) : Option α → Option α → Option α
  | some x, some y => some (f x y)
  | some x, none => some x
  | none, y => y

/-- One level of the tree. -/
def treeLevel {α : Type} (f : α → α → α) : List (Option α) → List (Option α)
  | x :: y :: rest => joinPos f x y :: treeLevel f rest
  | xs => xs

/-- The tree of R145 over lane positions, `n` levels. -/
def treeFold {α : Type} (f : α → α → α) : Nat → List (Option α) → Option α
  | 0, xs => xs.head?.join
  | n + 1, xs => treeFold f n (treeLevel f xs)

/-- The values of a scan: each participant's combination of those up to it. -/
def scanFold {α : Type} (f : α → α → α) : Option α → List α → List α
  | _, [] => []
  | none, x :: xs => x :: scanFold f (some x) xs
  | some a, x :: xs => f a x :: scanFold f (some (f a x)) xs

/-- The operand of a participant. -/
def memberInt (ty : ITy) (a : Reg) (m : Member) : Int := opR ty m.rd a
/-- The float operand of a participant. -/
def memberFloat (a : Reg) (m : Member) : FRes := ⟨(m.rd a.toNat).toNat, 0⟩

/-- A result of a float reduction or scan: a NaN is the canonical one, also where it is a lone participant's operand,
which meets no operation that could signal (R39, R145; log 95). -/
def canonRes (r : FRes) : FRes := if fIsNan (fDecode .f32 r.code) then ⟨fNanCode .f32, r.flags⟩ else r

/-- `redux` (R145). -/
def execRedux (g : Guard) (op : ROp) (t : RTy) (d a : Reg) (s : State) : Host.Outcome State Fault Refusal :=
  match t with
  | .int ty => crossOp g [dst ty.is64 d, src ty.is64 a] s fun ms _ =>
      match ms.map (memberInt ty a) with
      | [] => {}
      | x :: xs => { regs := wrI ty d (xs.foldl (ropInt op ty) x) }
  | .f32 => crossOp g [dst false d, src false a] s fun ms _ =>
      let pos := (List.range 64).map fun i => (ms.find? (·.lane == i)).map (memberFloat a)
      match treeFold (ropFloat op) 6 pos with
      | some r => { regs := oneReg d (canonRes r).code, flags := r.flags }
      | none => {}

/-- The result of a scan for one participant; an exclusive one takes its predecessor's. -/
def scanAt {α : Type} (f : α → α → α) (excl : Bool) (zero : α) (val : Member → α) (ms : List Member) (m : Member) : α :=
  let vs := scanFold f none (ms.map val)
  let i := ms.findIdx (·.lane == m.lane)
  if excl then (if i = 0 then zero else (vs[i - 1]?).getD zero) else (vs[i]?).getD zero

/-- `scan` (R145). -/
def execScan (g : Guard) (op : ROp) (t : RTy) (d a : Reg) (s : State) : Host.Outcome State Fault Refusal :=
  let excl := op == .xadd
  match t with
  | .int ty => crossOp g [dst ty.is64 d, src ty.is64 a] s fun ms m =>
      { regs := wrI ty d (scanAt (ropInt op ty) excl 0 (memberInt ty a) ms m) }
  | .f32 => crossOp g [dst false d, src false a] s fun ms m =>
      let r := canonRes (scanAt (ropFloat op) excl ⟨0, 0⟩ (memberFloat a) ms m)
      { regs := oneReg d r.code, flags := r.flags }

/-! ## Matching and election (R146, R147) -/

/-- The compared source of a participant. -/
def matchSource (w64 : Bool) (a : Reg) (m : Member) : Nat :=
  if w64 then pairOf m.rd a.toNat else (m.rd a.toNat).toNat

/-- `match` (R146). -/
def execMatchv (g : Guard) (m : MatchMode) (w64 : Bool) (d a : Reg) (s : State) :
    Host.Outcome State Fault Refusal :=
  crossOp g [dst true d, src w64 a] s fun ms x =>
    let same := ms.filter fun y => matchSource w64 a y == matchSource w64 a x
    match m with
    | .peers => { regs := pairRegs d.toNat (laneMask (same.map (·.lane))) }
    | .uniform =>
      { regs := pairRegs d.toNat (if same.length == ms.length then laneMask (ms.map (·.lane)) else 0) }
    | .leader => { regs := oneReg d ((same.head?.map (·.lane)).getD 0) ++
                           [(d.toNat + 1, BitVec.ofNat 32 same.length)] }

/-- The elected lane (R147). -/
def elected (rot : Bool) (k : Nat) (ms : List Member) : Nat :=
  let ls := ms.map (·.lane)
  ((if rot then ls.find? (k ≤ ·) else none).or ls.head?).getD 0

/-- The rotation index after an election. -/
def rotate (rot : Bool) (ms : List Member) (g : Group) : Group :=
  if rot && !ms.isEmpty then { g with rot := (elected rot g.rot ms + 1) % g.width } else g

/-- `elect` (R147). -/
def execElect (g : Guard) (rot : Bool) (p : PredIx) (s : State) : Host.Outcome State Fault Refusal :=
  withCur s fun c e =>
    crossAt s c e g [] (fun ms m => { preds := [(p, m.lane == elected rot e.group.rot ms)] }) (rotate rot)

end Sys2Proof.Machine
end

