-- ==== Sys2Proof/Machine/Memory.lean ====
section
/-!
DEFINITION. Loads, stores, prefetch, atomics, reductions, amax windows and fences (R148 to R170), but for the device
registers.
-/

namespace Sys2Proof.Machine

/-! ## Addresses (R31, R79) -/

/-- A function's commons slice on a die: first byte and bytes (Table 24.1). -/
def cmnSlice (s : State) (vf die : Nat) : Nat × Nat :=
  let w := ((getFunc s vf).map fun f => tget 0 f.part.commons die).getD 0
  (w % 2 ^ 16 * 2 ^ 20, w / 2 ^ 16 % 2 ^ 16 * 2 ^ 20)

/-- Bytes of a context's device register window: it holds every register of Table 20.2 (R316, log 17). -/
def iosLimit : Nat := 0x2000 + Config.iosExtra

/-- The limit of a space other than PRIV for a team of `lines` scratch lines on a die (Table 2.6). -/
def limitAt (s : State) (c : Context) (die lines : Nat) : Space → Nat
  | .priv => 0
  | .scr => lines * 128
  | .cmn => (cmnSlice s c.vf die).2
  | .glb | .hst => 2 ^ 48
  | .ios => iosLimit

/-- The limit of a space for an execution (Table 2.6). -/
def spaceLimit (s : State) (e : Env) (sp : Space) : Nat :=
  if sp == .priv then e.grid.priv else limitAt s e.ctx e.group.die e.grid.desc.scratch sp

/-- A space's address stands in an even pair. -/
def spacePair : Space → Bool
  | .glb | .hst => true
  | _ => false

/-- The address in a register or pair, with an offset (R79). -/
def effAddr (sp : Space) (rd : Nat → Word) (a : Reg) (off : Int) : Int :=
  ((if spacePair sp then pairOf rd a.toNat else (rd a.toNat).toNat : Nat) : Int) + off

/-- The space-bound check of R79. -/
def beyond (limit : Nat) (ea : Int) (n : Nat) : Bool := ea < 0 || (limit : Int) < ea + n

/-- A commons line that an OWN context last wrote denies an OPR context (R379). -/
def cmnDenied (s : State) (c : Context) (key n : Nat) : Bool :=
  c.tag == 0 && ([key / 128, (key + n - 1) / 128]).any fun l =>
    (getCtx s (tget 0 s.cmnTags l)).any fun o => o.tag == 1

/-- A sealed access: it reaches nothing but a sealed leaf (R358). -/
def sealedKind (k : AccKind) : Bool := k == .sealedRead || k == .sealedWrite

/-- Where an access to a shared space lands, for a team on a die. -/
def locateAt (s : State) (c : Context) (die tid : Nat) (sp : Space) (k : AccKind) (ea n : Nat) : Xlat :=
  match sp with
  | .priv | .ios => .ok 0 0 0 false 3
  | .scr => if sealedKind k then .fault clsRights 0 0 else .ok (keyScr tid ea) 0 0 false 0
  | .cmn =>
    let key := keyCmn die ((cmnSlice s c.vf die).1 + ea)
    if sealedKind k || cmnDenied s c key n then .fault clsRights 0 0 else .ok key 0 0 false 0
  | .glb => translate s c die false k ea n
  | .hst => translate s c die true k ea n

/-- Where an access of a lane lands (R151; the page's rights are part of it, R170). -/
def locate (s : State) (e : Env) (l : Nat) (sp : Space) (k : AccKind) (ea n : Nat) : Xlat :=
  if sp == .priv then .ok (keyPriv e.group.gid l ea) 0 0 false 0
  else locateAt s e.ctx e.group.die e.team.tid sp k ea n

/-! ## Loads and stores -/

/-- Bytes of a width. -/
def widBytes : Wid → Nat
  | .w1 => 1 | .w2 => 2 | .w4 => 4 | .w8 => 8 | .w16 => 16

/-- The float type of a register for a formatted page (R158). -/
def elemFloat (ty : Ty) (wid : Wid) : Option FTy :=
  match ty, wid with
  | .ieee, .w4 => some .f32
  | .ieee, .w2 => some .f16
  | .bf, .w2 => some .bf16
  | _, _ => none

/-- The register type is allowed for the page's format (R46, R158). -/
def elemAllowed (fmt : Nat) (ty : Ty) (wid : Wid) : Bool :=
  if pageIsBp fmt then ty == .signed && (wid == .w1 || wid == .w2 || wid == .w4) else (elemFloat ty wid).isSome

/-- A lane's access: its address, where it lands, and the page. -/
structure Acc where
  ea   : Nat
  key  : Nat
  fmt  : Nat
  geom : Nat
  tbl  : Bool
  /-- memory type of the page -/
  mt   : Nat
  /-- one element of a formatted page -/
  elem : Bool
  /-- the data of a store or the operands of an atomic -/
  b    : Nat := 0
  c    : Nat := 0

/-- The plan of a load or store in one lane (R151, R158, R170). -/
def planMem (s : State) (e : Env) (sp : Space) (m : MemOp) (k : AccKind) (l : Nat) (rd : Nat → Word) (t : Thread)
    (data : Nat) : Plan Acc :=
  let n := widBytes m.wid
  let ea := effAddr sp rd m.a m.off.toInt
  if acquiring e.group l then .wait .acquire none
  else if beyond (spaceLimit s e sp) ea n then .fault { cls := clsSpace, addr := ea }
  else
    onXlat (locate s e l sp k ea.toNat n) ea fun key fmt geom tbl mt =>
      if formatReserved fmt geom then .fault { cls := clsFormat, sub := 0x01, addr := ea }
      else if fmt != 0 && !m.raw then
        if elemAllowed fmt m.ty m.wid then .go t ⟨ea.toNat, key, fmt, geom, tbl, mt, true, data, 0⟩
        else .fault { cls := clsFormat, sub := 0x02, addr := ea }
      else if ea % n != 0 then .fault { cls := clsAlign, addr := ea }
      else
        match (if sp == .scr && k == .read then lineEmpty s key n else none) with
        | some line => .wait (.line line) none
        | none => .go t ⟨ea.toNat, key, fmt, geom, tbl, mt, false, data, 0⟩

/-- Registers that a load or store names. -/
def memUses (store : Bool) (sp : Space) (m : MemOp) : List RegUse :=
  let data : RegUse := match m.wid with
    | .w8 => ⟨m.d.toNat, 2, true, !store⟩
    | .w16 => ⟨m.d.toNat, 4, false, !store⟩
    | _ => ⟨m.d.toNat, 1, false, !store⟩
  [data, src (spacePair sp) m.a]

/-- Register writes of a load of bytes (R151). -/
def loadRegs (m : MemOp) (x : Nat) : List (Nat × Word) :=
  match m.wid with
  | .w8 => pairRegs m.d.toNat x
  | .w16 => (List.range 4).map fun i => (m.d.toNat + i, BitVec.ofNat 32 (x / 2 ^ (32 * i)))
  | w => [(m.d.toNat, if m.ty == .signed then BitVec.ofInt 32 (sextN x (8 * widBytes w)) else BitVec.ofNat 32 x)]

/-- Byte ranges that an access reads. -/
def accRanges (m : MemOp) (x : Acc) : List (Nat × Nat) :=
  if x.elem then
    (pageTouches x.fmt x.geom (x.key - unitBase x.key)).map fun r => (unitBase x.key + r.1, r.2)
  else [(x.key, widBytes m.wid)]

/-- What a load delivers (R151, R158): register writes and flags. -/
def loadValue (s : State) (m : MemOp) (x : Acc) : List (Nat × Word) × Word :=
  if x.elem then
    let u := unitBase x.key
    let rd (i : Nat) : Nat := (memGet s.mem (u + i)).toNat
    if pageIsBp x.fmt then
      let n := pageBpN x.fmt
      ([(m.d.toNat, BitVec.ofInt 32 (bpElem n n true rd (x.key - u)))], 0)
    else
      let v := pageFloat x.fmt x.geom rd (x.key - u)
      let r := fRound ((elemFloat m.ty m.wid).getD .f32) .rn false v.1
      ([(m.d.toNat, BitVec.ofNat 32 r.code)], v.2 ||| r.flags)
  else (loadRegs m (getBytes s x.key (widBytes m.wid)), 0)

/-- Zeros in every register that a load writes (R160). -/
def loadZeros (m : MemOp) : List (Nat × Word) := loadRegs m 0

/-- One lane's load: a poisoned sector delivers 0 and its fault is due (R160). -/
def loadLane (gid pc : Nat) (r : ExecRec) (m : MemOp) (s : State) (l : Nat) (x : Acc) :
    State × List (Nat × Word) × Word :=
  if (accRanges m x).any fun k => poisoned s k.1 k.2 then (duePoison s gid l pc x.ea r, loadZeros m, 0)
  else (s, loadValue s m x)

/-- Every lane's load on the memory at issue. -/
def loadLanes (gid pc : Nat) (r : ExecRec) (m : MemOp) (xs : List (Nat × Acc)) (s : State) :
    State × List (Nat × List (Nat × Word) × Word) :=
  xs.foldl (fun acc x =>
    let y := loadLane gid pc r m acc.1 x.1 x.2
    (y.1, acc.2 ++ [(x.1, y.2)])) (s, [])

/-- An access is uncached: to a host page of such a memory type (R157). -/
def uncached (x : Acc) : Bool := 2 ≤ x.mt

/-- What stands before the loads of one execution: the group's own stores to their bytes, or all its stores where a load
is uncached, in program order (R153, R157); then the errors that the reads meet (R382). -/
def beforeLoads (s : State) (asid gid : Nat) (m : MemOp) (xs : List (Nat × Acc)) : State :=
  let rs := xs.flatMap fun x => accRanges m x.2
  let s := if xs.any fun x => uncached x.2 then drainGroup s asid gid else settleLoads s asid gid rs
  meetUpsets s rs

/-- The accesses of one execution counted toward re-homing (R304). -/
def touchAccs (s : State) (die : Nat) (xs : List (Nat × Acc)) : State :=
  xs.foldl (fun s x => touchFrame s die x.2.key) s

/-- An instruction that does not issue while its flag's counter is at 255 (R69). -/
def longOp (ss : Bool) (s : State) (f : Cur → Env → Option Nat → State) : Host.Outcome State Fault Refusal :=
  withCur s fun c e =>
    let flag := curFlag e.group c ss
    if flagFull e.group flag then s else f c e flag

/-- A load that counts on a flag (R67, R68). -/
def loadOp (sp : Space) (g : Guard) (m : MemOp) (s : State) : Host.Outcome State Fault Refusal :=
  longOp m.ss s fun c e flag =>
    plansAt s c e g anywhere (memUses false sp m) (fun s l rd t => planMem s e sp m .read l rd t 0) fun xs s1 =>
      let x := execRec s c e g
      let r := loadLanes c.gid c.pc x m xs (touchAccs (beforeLoads s1 e.ctx.asid c.gid m xs) e.group.die xs)
      issueOp r.1 c e x flag false (m.ord == .acq) (r.2.map fun x => .load x.1 x.2.1 x.2.2)

/-- The data of a store. -/
def storeData (m : MemOp) (rd : Nat → Word) : Nat :=
  match m.wid with
  | .w8 => pairOf rd m.d.toNat
  | .w16 => pairOf rd m.d.toNat + 2 ^ 64 * pairOf rd (m.d.toNat + 2)
  | w => (rd m.d.toNat).toNat % 2 ^ (8 * widBytes w)

/-- One lane's part of a store. -/
def storePart (m : MemOp) (l : Nat) (x : Acc) : Part :=
  if x.elem then .encode l x.key x.fmt x.geom m.ty m.wid (BitVec.ofNat 32 x.b)
  else .store l x.key (widBytes m.wid) x.b x.tbl

/-- A store that counts on a flag: it enters the store queue; a release is performed after what stands in it
(R153, R154). -/
def storeOp (sp : Space) (g : Guard) (m : MemOp) (s : State) : Host.Outcome State Fault Refusal :=
  longOp m.ss s fun c e flag =>
    plansAt s c e g anywhere (memUses true sp m)
      (fun s l rd t => planMem s e sp m .write l rd t (storeData m rd)) fun xs s1 =>
      let s1 := if m.ord == .rel then releaseGroup s1 e.ctx.asid c.gid else s1
      issueOp (touchAccs s1 e.group.die xs) c e (execRec s c e g) flag true false (xs.map fun x => storePart m x.1 x.2)

/-- `ldg` (R151, R158). -/
def execLdg (g : Guard) (m : MemOp) (s : State) : Host.Outcome State Fault Refusal := loadOp .glb g m s
/-- `ldp` (R151, R156). -/
def execLdp (g : Guard) (m : MemOp) (s : State) : Host.Outcome State Fault Refusal := loadOp .priv g m s
/-- `ldc` (R151). -/
def execLdc (g : Guard) (m : MemOp) (s : State) : Host.Outcome State Fault Refusal := loadOp .cmn g m s
/-- `ldh` (R151, R157). -/
def execLdh (g : Guard) (m : MemOp) (s : State) : Host.Outcome State Fault Refusal := loadOp .hst g m s
/-- `stg` (R151, R158). -/
def execStg (g : Guard) (m : MemOp) (s : State) : Host.Outcome State Fault Refusal := storeOp .glb g m s
/-- `stp` (R151, R156). -/
def execStp (g : Guard) (m : MemOp) (s : State) : Host.Outcome State Fault Refusal := storeOp .priv g m s
/-- `stc` (R151). -/
def execStc (g : Guard) (m : MemOp) (s : State) : Host.Outcome State Fault Refusal := storeOp .cmn g m s
/-- `sth` (R151, R157). -/
def execSth (g : Guard) (m : MemOp) (s : State) : Host.Outcome State Fault Refusal := storeOp .hst g m s

/-- `lds`: short; an empty line stalls the lane (R155). -/
def execLds (g : Guard) (m : MemOp) (s : State) : Host.Outcome State Fault Refusal :=
  withCur s fun c e =>
    plansAt s c e g anywhere (memUses false .scr m) (fun s l rd t => planMem s e .scr m .read l rd t 0) fun xs s1 =>
      let r := loadLanes c.gid c.pc (execRec s c e g) m xs (beforeLoads s1 e.ctx.asid c.gid m xs)
      r.2.foldl (fun s x => modLane s c.gid x.1 fun t => wrRegs t x.2.1) r.1

/-- `sts`: short; it leaves the store queue in order, and does not change the full/empty bit; a release is performed
after every earlier access of the group (R153 to R155). -/
def execSts (g : Guard) (m : MemOp) (s : State) : Host.Outcome State Fault Refusal :=
  withCur s fun c e =>
    plansAt s c e g anywhere (memUses true .scr m)
      (fun s l rd t => planMem s e .scr m .write l rd t (storeData m rd)) fun xs s =>
      let s := if m.ord == .rel then releaseGroup s e.ctx.asid c.gid else drainGroup s e.ctx.asid c.gid
      let s := xs.foldl (fun s x => bankWrite s e.ctx.asid x.2.key (widBytes m.wid) x.2.b) s
      clearPoison s (xs.map fun x => (x.2.key, widBytes m.wid))

/-! ## Prefetch and fences (R161, R168, R169) -/

/-- A prefetch changes nothing that an agent can read. -/
def prefOp (g : Guard) (a : Reg) (s : State) : Host.Outcome State Fault Refusal :=
  alu g [src true a] (fun _ _ => .ok {}) s

/-- `pref.glb` (R161). -/
def execPrefGlb (g : Guard) (_llc : Bool) (a : Reg) (_off : BitVec 16) (s : State) :
    Host.Outcome State Fault Refusal := prefOp g a s
/-- `pref.hst` (R161). -/
def execPrefHst (g : Guard) (_llc : Bool) (a : Reg) (_off : BitVec 16) (s : State) :
    Host.Outcome State Fault Refusal := prefOp g a s

/-- `fence` (R169): loads have taken their values at issue; with `.rel` and `.full` every earlier access of the group is
performed, its per-lane copies among them; with `.acq` the reads of its atomics are, which leave the store queue. -/
def execFence (g : Guard) (kind : FenceKind) (_scope : Scope) (_spc : BitVec 4) (s : State) :
    Host.Outcome State Fault Refusal :=
  withCur s fun c e =>
    let act := activeLanes s c g
    let s := if act.isEmpty then s
      else if kind == .acq then drainGroup s e.ctx.asid c.gid else releaseGroup s e.ctx.asid c.gid
    foldLanes s c e g fun _ s => .ok s

/-! ## Atomics, reductions, amax windows (R162 to R167) -/

/-- The plan of a read-modify-write in one lane (R164, R165, R170). -/
def planRmw (s : State) (e : Env) (sp : Space) (l : Nat) (t : Thread) (ea : Int) (n b c : Nat) : Plan Acc :=
  if acquiring e.group l then .wait .acquire none
  else if beyond (spaceLimit s e sp) ea n then .fault { cls := clsSpace, addr := ea }
  else
    onXlat (locate s e l sp .write ea.toNat n) ea fun key fmt geom tbl mt =>
      if formatReserved fmt geom then .fault { cls := clsFormat, sub := 0x01, addr := ea }
      else if fmt != 0 then .fault { cls := clsFormat, sub := 0x04, addr := ea }
      else if ea % n != 0 then .fault { cls := clsAlign, addr := ea }
      else if tbl || 2 ≤ mt then .fault { cls := clsAtomic, addr := ea }
      else
        match (if sp == .scr then lineEmpty s key n else none) with
        | some line => .wait (.line line) none
        | none => .go t ⟨ea.toNat, key, fmt, geom, tbl, mt, false, b, c⟩

/-- A read-modify-write at the bank: release and acquire by its ORD. -/
def rmwOp (sp : Space) (g : Guard) (us : List RegUse) (ss acq rel : Bool) (n : Nat) (k : RmwKind) (dst : Option Nat)
    (ea : (Nat → Word) → Int) (b c : (Nat → Word) → Nat) (s : State) : Host.Outcome State Fault Refusal :=
  longOp ss s fun cur e flag =>
    plansAt s cur e g anywhere us (fun s l rd t => planRmw s e sp l t (ea rd) n (b rd) (c rd)) fun xs s1 =>
      let s1 := if rel then releaseGroup s1 e.ctx.asid cur.gid else s1
      issueOp (touchAccs s1 e.group.die xs) cur e (execRec s cur e g) flag true acq (xs.map fun x => .rmw x.1 x.2.key n k x.2.b x.2.c dst cur.pc x.2.ea)

/-- An atomic type takes pairs. -/
def atyPair (t : ATy) : Bool := atyBytes t == 8

/-- A register operand of an atomic type. -/
def atyOperand (t : ATy) (rd : Nat → Word) (r : Reg) : Nat :=
  if atyPair t then pairOf rd r.toNat else (rd r.toNat).toNat

/-- An atomic (`red` false) or a reduction. -/
def atomOp (sp : Space) (red : Bool) (g : Guard) (x : AtomOp) (s : State) : Host.Outcome State Fault Refusal :=
  let w := atyPair x.aty
  let us := (if red then [] else [dst w x.d]) ++ [src (spacePair sp) x.a, src w x.b] ++
    (if x.aop == .cas then [src w x.c] else [])
  rmwOp sp g us x.ss (x.ord == .acq || x.ord == .ar) (x.ord == .rel || x.ord == .ar) (atyBytes x.aty)
    (.atom x.aop x.aty) (if red then none else some x.d.toNat) (fun rd => effAddr sp rd x.a x.off.toInt)
    (fun rd => atyOperand x.aty rd x.b) (fun rd => if x.aop == .cas then atyOperand x.aty rd x.c else 0) s

/-- `ats` (R164, R165). -/
def execAts (g : Guard) (x : AtomOp) (s : State) : Host.Outcome State Fault Refusal := atomOp .scr false g x s
/-- `atc` (R164, R165). -/
def execAtc (g : Guard) (x : AtomOp) (s : State) : Host.Outcome State Fault Refusal := atomOp .cmn false g x s
/-- `atg` (R164, R165). -/
def execAtg (g : Guard) (x : AtomOp) (s : State) : Host.Outcome State Fault Refusal := atomOp .glb false g x s
/-- `redc` (R164, R165). -/
def execRedc (g : Guard) (x : AtomOp) (s : State) : Host.Outcome State Fault Refusal := atomOp .cmn true g x s
/-- `redg` (R164, R165). -/
def execRedg (g : Guard) (x : AtomOp) (s : State) : Host.Outcome State Fault Refusal := atomOp .glb true g x s

/-- `amxs` in a space (R166). -/
def amxsOp (sp : Space) (g : Guard) (x : AmxOp) (s : State) : Host.Outcome State Fault Refusal :=
  rmwOp sp g [dst false x.d, src (spacePair sp) x.a] x.ss (x.ord == .acq) (x.ord == .rel) 4 .amxs (some x.d.toNat)
    (fun rd => effAddr sp rd x.a x.off.toInt) (fun _ => 0) (fun _ => 0) s

/-- `amxs.cmn` (R166). -/
def execAmxsCmn (g : Guard) (x : AmxOp) (s : State) : Host.Outcome State Fault Refusal := amxsOp .cmn g x s
/-- `amxs.glb` (R166). -/
def execAmxsGlb (g : Guard) (x : AmxOp) (s : State) : Host.Outcome State Fault Refusal := amxsOp .glb g x s

/-! ## What the memory does later -/

/-- FLAG_COMPLETION (R68): the last lane's part of an operation completes. -/
def execFlagCompletion (gid op : Nat) (s : State) : Host.Outcome State Fault Refusal :=
  match env s gid with
  | none => .next s
  | some e => .next (settleGroup (completeOp s e.ctx.asid gid op) gid)

/-- An operation of the store queue has an element store. -/
def hasEncode (o : LongOp) : Bool := o.parts.any fun p => match p with | .encode .. => true | _ => false
/-- An operation of the store queue has a read-modify-write. -/
def hasRmw (o : LongOp) : Bool := o.parts.any fun p => match p with | .rmw .. => true | _ => false

/-- The store queue is performed up to an operation that meets `p`. -/
def performKind (p : LongOp → Bool) (gid op : Nat) (s : State) : State :=
  match env s gid with
  | none => s
  | some e =>
    if (queueOf e.group).any fun o => o.id == op && p o then performTo s e.ctx.asid gid op else s

/-- BANK_STORE_ENCODE (R47, R51, R52, R159): the bank encodes a store to a formatted page. -/
def execBankStoreEncode (gid op : Nat) (s : State) : Host.Outcome State Fault Refusal :=
  .next (performKind hasEncode gid op s)

/-- BANK_RMW (R164, R166, R167): the bank performs an atomic, a reduction or an `amxs`. -/
def execBankRmw (gid op : Nat) (s : State) : Host.Outcome State Fault Refusal :=
  .next (performKind hasRmw gid op s)

end Sys2Proof.Machine
end

