-- ==== Sys2Proof/Machine/Async.lean ====
section
/-!
DEFINITION. Per-lane copies, barriers, queues, the tile table, full/empty lines, timelines and network copies (R171 to
R185, R190 to R196): the instructions, and the landing and finishing of copies.
-/

namespace Sys2Proof.Machine

/-! ## Uniform instructions (R173) -/

/-- What a uniform instruction does. -/
inductive UStep where
  /-- its effect is in the state; every lane receives the result -/
  | done (s : State) (x : Eff)
  | fault (f : LaneFault)
  | wait (s : State) (w : Stall)

/-- A thread with the stream positions of another. -/
def keepStreams (from_ t : Thread) : Thread := { t with sp := from_.sp, poison := from_.poison }

/-- The stream operands of the lead lane; then its step. Only that lane reads its operands, so that a stream element is
taken in it alone, and the other lanes' POS stay (R21, R173; log 97). -/
def uniformLead (s : State) (c : Cur) (e : Env) (g : Guard) (us : List RegUse) (lead : Nat)
    (f : (Nat → Word) → State → UStep) : State :=
  match getLane s c.gid lead with
  | none => s
  | some t =>
    match takeStreams s e (execRec s c e g) t us with
    | .fault x => allFault s c e g x
    | .wait w => allWait s c e g w
    | .ok ov t' =>
      match f (readOver ov t') s with
      | .fault x => allFault s c e g x
      | .wait s w => allWait s c e g w
      | .done s x =>
        foldLanes (modLane s c.gid lead (keepStreams t')) c e g fun l s => .ok (modLane s c.gid l (applyEff · x))

/-- A uniform instruction: the operands of the lowest lane whose guard is true, its result for every such lane, a
fault in every such lane. -/
def uniformAt (s : State) (c : Cur) (e : Env) (g : Guard) (place : Cur → Bool) (us : List RegUse)
    (f : List Nat → (Nat → Word) → State → UStep) : State :=
  if !place c || pairIllegal e.grid.desc.regs us then allFault s c e g { cls := clsIllegal }
  else
    let s := settleStreams s c e g us
    let act := activeLanes s c g
    match act with
    | [] => foldLanes s c e g fun _ s => .ok s
    | lead :: _ =>
      if rangeFault e.grid.desc.regs us then allFault s c e g { cls := clsRange }
      else if act.any fun l => (getLane s c.gid l).any (boundFault · us) then allFault s c e g { cls := clsBound }
      else uniformLead s c e g us lead (f act)

/-! ## Transaction barriers (R180 to R184) -/

/-- A lane that did not park at its instruction. -/
def laneWent (s : State) (gid l : Nat) : Bool :=
  (getLane s gid l).any fun t => match t.status with
    | .parked .. | .exiting _ => false
    | _ => true

/-- The barrier that a lane's operands name. -/
def barKeyOf (s : State) (c : Cur) (e : Env) (r : ExecRec) (us : List RegUse) (a : Reg) (l : Nat) : Option Nat :=
  (getLane s c.gid l).bind fun t => match operandsOf s e r t us with
    | .ok ov t' => some (keyScr e.team.tid (readOver ov t' a.toNat).toNat)
    | _ => none

/-- An operation of the store queue that has a part in scratch. -/
def partScr : Part → Bool
  | .store _ k .. | .rmw _ k .. => keyKind k == 4
  | _ => false

/-- A barrier access comes after the group's own queued accesses to scratch (R153, R260). -/
def settleScr (s : State) (asid gid : Nat) : State :=
  match getGroup s gid with
  | none => s
  | some g => if (queueOf g).any fun o => o.parts.any partScr then drainGroup s asid gid else s

/-- A lane that begins to wait keeps its stream positions from before the instruction for a pre-emption (R21, R73). -/
def waitFrom (gid l : Nat) (old : Thread) (x : LaneStep) : LaneStep :=
  match x with
  | .wait s w => .wait (modLane s gid l fun t => { t with spBack := some old.sp }) w
  | y => y

/-- A barrier instruction in every lane: address checks, then `f` on the barrier of the lane. `test`: the phase of every
barrier that a lane acted on is tested as the die cycle ends (R183). It is an access to scratch, which an outstanding acquire
holds (R154, R260). -/
def barAt (s : State) (c : Cur) (e : Env) (g : Guard) (place : Cur → Bool) (us : List RegUse) (a : Reg) (test : Bool)
    (f : Nat → (Nat → Word) → Nat → Barrier → State → LaneStep) : State :=
  if !place c || pairIllegal e.grid.desc.regs us then allFault s c e g { cls := clsIllegal }
  else
    let s := settleStreams (settleScr s e.ctx.asid c.gid) c e g us
    let r := execRec s c e g
    let s' := foldLanes s c e g fun l s => withOperands e r c.gid us l s fun rd t s =>
      let off := (rd a.toNat).toNat
      if acquiring e.group l then .wait s .acquire
      else
        match scratchCheck e.grid.desc.scratch off 16 16 with
        | some x => .fault x
        | none =>
          let key := keyScr e.team.tid off
          waitFrom c.gid l ((getLane s c.gid l).getD t) (f l rd key (barRead s key) (modLane s c.gid l (keepStreams t)))
    if test then
      (((activeLanes s c g).filter (laneWent s' c.gid)).filterMap (barKeyOf s c e r us a)).dedup.foldl noteTest s'
    else s'

/-- A barrier instruction. -/
def barOp (g : Guard) (place : Cur → Bool) (us : List RegUse) (a : Reg) (test : Bool) (s : State)
    (f : Cur → Env → Nat → (Nat → Word) → Nat → Barrier → State → LaneStep) : Host.Outcome State Fault Refusal :=
  withCur s fun c e => barAt s c e g place us a test (f c e)

/-- `barinit` (R181). -/
def execBarinit (g : Guard) (a : Reg) (n : BitVec 13) (s : State) : Host.Outcome State Fault Refusal :=
  barOp g anywhere [src false a] a false s fun _ _ _ _ key b s =>
    if b.wtr != 0 then .fault { cls := clsBarBusy, addr := scrOff key }
    else .ok (barWrite s key { gen := 0, pbytes := 0, exp := n.toNat, parr := n.toNat, v := true, inv := false, wtr := 0 })

/-- `barexp` by a signed count (R181). -/
def barexpOp (g : Guard) (us : List RegUse) (a : Reg) (n : (Nat → Word) → Int) (s : State) :
    Host.Outcome State Fault Refusal :=
  barOp g anywhere us a true s fun _ _ _ rd key b s =>
    if !b.v then .fault { cls := clsBarState, addr := scrOff key }
    else if b.inv then .ok s
    else .ok (barWrite s key { b with pbytes := zextI (b.pbytes + n rd) 32 })

/-- `barexp [vA], n` (R181). -/
def execBarexpI (g : Guard) (a : Reg) (n : BitVec 20) (s : State) : Host.Outcome State Fault Refusal :=
  barexpOp g [src false a] a (fun _ => n.toNat) s

/-- `barexp [vA], vB` (R181). -/
def execBarexpR (g : Guard) (a b : Reg) (s : State) : Host.Outcome State Fault Refusal :=
  barexpOp g [src false a, src false b] a (fun rd => (rd b.toNat).toInt) s

/-- `bararr` (R181): with G only the lowest lane whose guard is true arrives. A release: the group's store queue is
performed first. Its per-lane copies stay on their way, as Table 9.3 shows: a copy reaches a waiter by its count. -/
def execBararr (g : Guard) (grp : Bool) (a : Reg) (s : State) : Host.Outcome State Fault Refusal :=
  barOp g anywhere [src false a] a true (drainCur s) fun c _ l _ key b s1 =>
    if !b.v then .fault { cls := clsBarState, addr := scrOff key }
    else if b.inv || (grp && (activeLanes (drainCur s) c g).head? != some l) then .ok s1
    else if b.parr == 0 then .fault { cls := clsBarOver, addr := scrOff key }
    else .ok (barWrite s1 key { b with parr := b.parr - 1 })

/-- `barinv` (R181): wakes, and every completion outstanding for the barrier is orphaned. -/
def execBarinv (g : Guard) (a : Reg) (s : State) : Host.Outcome State Fault Refusal :=
  barOp g anywhere [src false a] a false s fun _ e _ _ key b s =>
    if !b.v then .fault { cls := clsBarState, addr := scrOff key }
    else
      let s := barWrite s key { b with inv := true, wtr := 0 }
      let s := wakeLanes s e.ctx.asid (barWaiters s key fun _ => true) false
      .ok { s with transfers := modBy (·.bar == some key) (fun x => { x with orphan := true }) s.transfers,
                   requests := modBy (·.bar == some key) (fun x => { x with orphan := true }) s.requests }

/-- Registers that a generation operand names. -/
def genUses : Gen → List RegUse
  | .reg b => [src false b]
  | .const _ => []

/-- The generation that an operand gives. -/
def genOf (x : Gen) (rd : Nat → Word) : Word :=
  match x with
  | .reg b => rd b.toNat
  | .const g => g.setWidth 32

/-- `barwait` (R182). -/
def execBarwait (g : Guard) (p : PredIx) (a : Reg) (x : Gen) (s : State) : Host.Outcome State Fault Refusal :=
  barOp g firstWord (src false a :: genUses x) a false s fun c _ l rd key b s =>
    let set (v : Bool) : LaneStep := .ok (modLane s c.gid l (wrPred · p v))
    if !b.v || b.inv then set false
    else if genDone b.gen (genOf x rd).toNat then set true
    else .wait (barWrite s key { b with wtr := b.wtr + 1 }) (.bar (scrOff key) (genOf x rd) p)

/-- `bartest` (R182). -/
def execBartest (g : Guard) (p : PredIx) (a : Reg) (x : Gen) (rg : Bool) (cr : Reg) (s : State) :
    Host.Outcome State Fault Refusal :=
  barOp g anywhere (src false a :: genUses x ++ (if rg then [dst false cr] else [])) a false s fun c _ l rd _ b s =>
    let ok := b.v && !b.inv && genDone b.gen (genOf x rd).toNat
    let eff : Eff := { regs := if rg then [(cr.toNat, BitVec.ofNat 32 b.gen)] else [], preds := [(p, ok)] }
    .ok (modLane s c.gid l (applyEff · eff))

/-! ## Numbered barriers (R185) -/

/-- `bararr mbN` (R185): one arrival of the group for one execution. -/
def execBararrMb (g : Guard) (n : BitVec 4) (s : State) : Host.Outcome State Fault Refusal :=
  withCur (releaseCur s) fun c e =>
    let s := releaseCur s
    let s1 := if (activeLanes s c g).isEmpty then s
      else modGroup s c.gid fun g => { g with mbArr := tput 0 g.mbArr n.toNat (tget 0 g.mbArr n.toNat + 1) }
    foldLanes s1 c e g fun _ s => .ok s

/-- The phase for which the lanes of an execution wait: the one that a blocked lane already waits for, else the one
after the last that returned. -/
def mbPhase (s : State) (e : Env) (gid n : Nat) (act : List Nat) : Nat :=
  (act.findSome? fun l => (getLane s gid l).bind fun t => match t.stall with
    | some (.barMb _ k) => some k
    | _ => none).getD (tget 0 e.group.mbRet n)

/-- The stream of a team will complete no phase (R217). -/
def streamOver (q : Sequencer) : Bool :=
  match q.status with
  | .ended | .faulted .. => true
  | _ => false

/-- `barwait mbN` (R185, R217). One that returns false, because the stream has ended or stopped, does not count as
having returned for its phase: the next `barwait mbN` waits for the same phase (log 38). -/
def execBarwaitMb (g : Guard) (p : PredIx) (n : BitVec 4) (s : State) : Host.Outcome State Fault Refusal :=
  withCur s fun c e =>
    let n := n.toNat
    let act := activeLanes s c g
    if !firstWord c then allFault s c e g { cls := clsIllegal }
    else if act.isEmpty then foldLanes s c e g fun _ s => .ok s
    else
      let k := mbPhase s e c.gid n act
      let set (s : State) (v : Bool) : State := foldLanes s c e g fun l s => .ok (modLane s c.gid l (wrPred · p v))
      if k < tget 0 e.team.seq.mbSig n then
        set (modGroup s c.gid fun g => { g with mbRet := tput 0 g.mbRet n (max (tget 0 g.mbRet n) (k + 1)) }) true
      else if streamOver e.team.seq then set s false
      else allWait s c e g (.barMb n k)

/-! ## Full and empty lines (R176, R177) -/

/-- The lines of a range of whole lines. -/
def linesOf (key n : Nat) : List Nat := (List.range (n / 128)).map (key / 128 + ·)

/-- The check of a `feclr` or `fewait` range. -/
def feCheck (lines a n : Nat) : Option LaneFault :=
  if lines * 128 < a + n then some { cls := clsSpace, addr := a }
  else if a % 128 != 0 || n % 128 != 0 || n < 128 then some { cls := clsAlign, addr := a }
  else none

/-- Lines become empty. -/
def clearLines (s : State) (ls : List Nat) : State :=
  { s with empties := s.empties ++ ls.filter fun l => !s.empties.contains l }

/-- `fewait` (R176). -/
def execFewait (g : Guard) (a b : Reg) (s : State) : Host.Outcome State Fault Refusal :=
  withCur s fun c e =>
    let us := [src false a, src false b]
    if !firstWord c || pairIllegal e.grid.desc.regs us then allFault s c e g { cls := clsIllegal }
    else
      let s := settleStreams s c e g us
      let r := execRec s c e g
      foldLanes s c e g fun l s => withOperands e r c.gid us l s fun rd t s =>
      let off := (rd a.toNat).toNat
      let n := (rd b.toNat).toNat
      match feCheck e.grid.desc.scratch off n with
      | some x => .fault x
      | none =>
        let key := keyScr e.team.tid off
        if (lineEmpty s key n).isSome then .wait s (.fewait key n) else .ok (modLane s c.gid l fun _ => t)

/-- `feclr` (R176): in program order with the group's scratch accesses. -/
def execFeclr (g : Guard) (set : Bool) (a b : Reg) (s : State) : Host.Outcome State Fault Refusal :=
  runLanes g [src false a, src false b] (drainCur s) fun c e l rd t s =>
    let off := (rd a.toNat).toNat
    let n := (rd b.toNat).toNat
    match feCheck e.grid.desc.scratch off n with
    | some x => .fault x
    | none =>
      let s := modLane s c.gid l fun _ => t
      let ls := linesOf (keyScr e.team.tid off) n
      .ok (if set then fillLines s ls else clearLines s ls)

/-! ## Per-lane copies (R178, R179) -/

/-- A lane's copy. -/
structure CopyAcc where
  src : Nat
  dst : Nat
  va  : Nat
  bar : Nat
  /-- its source or destination is an uncached host page (R157) -/
  unc : Bool

/-- Registers that an `acopy` names. -/
def acopyUses (x : CopyOp) : List RegUse :=
  [src (spacePair x.sspc) x.sa, src (spacePair x.dspc) x.da, src false x.ba]

/-- The last checks of a copy: alignment, then the barrier (R178). -/
def copyChecks (s : State) (n sa da ba key src dst : Nat) (unc : Bool) (t : Thread) : Plan CopyAcc :=
  if sa % n != 0 then .fault { cls := clsAlign, addr := sa }
  else if da % n != 0 then .fault { cls := clsAlign, addr := da }
  else if ba % 16 != 0 then .fault { cls := clsAlign, addr := ba }
  else if !(barRead s key).v then .fault { cls := clsBarState, addr := ba }
  else .go t ⟨src, dst, sa, key, unc⟩

/-- The plan of an `acopy` in one lane (R178). -/
def planAcopy (s : State) (e : Env) (x : CopyOp) (raw : Bool) (l : Nat) (rd : Nat → Word) (t : Thread) :
    Plan CopyAcc :=
  let n := widBytes x.wid
  let sa := effAddr x.sspc rd x.sa 0
  let da := effAddr x.dspc rd x.da 0
  let ba := (rd x.ba.toNat).toNat
  if acquiring e.group l then .wait .acquire none
  else if beyond (spaceLimit s e x.sspc) sa n then .fault { cls := clsSpace, addr := sa }
  else if beyond (spaceLimit s e x.dspc) da n then .fault { cls := clsSpace, addr := da }
  else if e.grid.desc.scratch * 128 < ba + 16 then .fault { cls := clsSpace, addr := ba }
  else
    onXlat (locate s e l x.sspc .read sa.toNat n) sa fun skey sfmt sgeom _ smt =>
      onXlat (locate s e l x.dspc .write da.toNat n) da fun dkey dfmt dgeom _ dmt =>
        if formatReserved sfmt sgeom then .fault { cls := clsFormat, sub := 0x01, addr := sa }
        else if formatReserved dfmt dgeom then .fault { cls := clsFormat, sub := 0x01, addr := da }
        else if sfmt != 0 && !raw then .fault { cls := clsFormat, sub := 0x02, addr := sa }
        else if dfmt != 0 && !raw then .fault { cls := clsFormat, sub := 0x02, addr := da }
        else copyChecks s n sa.toNat da.toNat ba (keyScr e.team.tid ba) skey dkey (2 ≤ smt || 2 ≤ dmt) t

/-- Copies in order of barrier and destination. -/
def insertCopy (x : CopyAcc) : List CopyAcc → List CopyAcc
  | [] => [x]
  | y :: t => if x.bar < y.bar || (x.bar == y.bar && x.dst < y.dst) then x :: y :: t else y :: insertCopy x t

/-- The coalescer (R179): a copy joins the operation before it where barrier, destination line and both ranges go on. -/
def coalesce (n : Nat) : List CopyAcc → List (Nat × Piece) → List (Nat × Piece)
  | [], acc => acc.reverse
  | x :: t, [] => coalesce n t [(x.bar, ⟨x.src, x.dst, n, x.va, 0, 0⟩)]
  | x :: t, (b, p) :: acc =>
    if b == x.bar && p.dst + p.n == x.dst && p.src + p.n == x.src && p.dst / 128 == x.dst / 128 then
      coalesce n t ((b, { p with n := p.n + n }) :: acc)
    else coalesce n t ((x.bar, ⟨x.src, x.dst, n, x.va, 0, 0⟩) :: (b, p) :: acc)

/-- Issue the transfer operations of one execution: each reads its source, in program order with the thread's other
accesses (R154, R248, R260; log 37). -/
def issueCopies (s : State) (c : Cur) (e : Env) (scr : Bool) (ops : List (Nat × Piece)) : State :=
  ops.foldl (fun s o =>
    let s := meetUpsets (touchFrame s e.group.die o.2.src) [(o.2.src, o.2.n)]
    let x : Transfer := { id := s.nextId, gid := c.gid, tid := e.team.tid, pieces := [o.2], data := [readPiece s o.2],
                          scr := scr, bar := some o.1, bytes := o.2.n, orphan := false, req := none, row := 0 }
    { s with nextId := s.nextId + 1, transfers := s.transfers ++ [x] }) s

/-- Copies that are performed at once, lane by lane at their own width: those on uncached host pages, which keep their
program order (R157). -/
def landNow (s : State) (c : Cur) (e : Env) (scr : Bool) (n : Nat) (xs : List CopyAcc) : State :=
  xs.foldl (fun s x =>
    let id := s.nextId
    let s := issueCopies s c e scr [(x.bar, ⟨x.src, x.dst, n, x.va, 0, 0⟩)]
    (s.transfers.filter (·.id == id)).foldl landTransfer s) s

/-- `acopy` (R178, R179): its place in the store queue comes after what stands there, which is performed first. -/
def execAcopy (g : Guard) (x : CopyOp) (_nt raw : Bool) (s : State) : Host.Outcome State Fault Refusal :=
  withCur s fun c e =>
    plansAt s c e g anywhere (acopyUses x) (fun s => planAcopy s e x raw) fun xs s =>
      let s := drainGroup s e.ctx.asid c.gid
      let n := widBytes x.wid
      let all := xs.map (·.2)
      let s := landNow s c e (x.dspc == .scr) n (all.filter (·.unc))
      issueCopies s c e (x.dspc == .scr) (coalesce n ((all.filter fun y => !y.unc).foldr insertCopy []) [])

/-! ## Named queues (R192) -/

/-- Queue q of a team; an undeclared one has depth 0. -/
def teamQueue (t : Team) (q : Nat) : NQueue := (t.queues[q]?).getD ⟨0, 0, [], []⟩

/-- Update queue q of a team. -/
def modQueue (s : State) (tid q : Nat) (f : NQueue → NQueue) : State :=
  modTeam s tid fun t => { t with queues := t.queues.modify q f }

/-- Another waiter of one kind stands before the lanes `ws` of an execution. -/
def waiterBefore (x : NQueue) (ws : List Nat) (push : Bool) : Bool :=
  ((x.waiters.filter (·.push == push)).head?).any fun y => !ws.contains y.key

/-- The lanes of an execution leave the waiters, be it that they began to wait apart. -/
def leaveQueue (ws : List Nat) (x : NQueue) : NQueue := { x with waiters := x.waiters.filter fun y => !ws.contains y.key }
/-- A waiter's place: behind those that began before it, and of those that began in its die cycle, before those of a
higher group number (R192). -/
def insertWaiter (w : QWaiter) : List QWaiter → List QWaiter
  | [] => [w]
  | y :: t => if y.since == w.since && w.group < y.group then w :: y :: t else y :: insertWaiter w t

/-- The die cycle of a group, as a number that no other die's cycle has. -/
def waitStamp (s : State) (g : Group) : Nat := 16 * cycleNow s g.die g.core + g.die

/-- An execution of group `g` joins the waiters by its first lane, if none of its lanes is there. -/
def joinQueue (s : State) (g : Group) (ws : List Nat) (push : Bool) (x : NQueue) : NQueue :=
  if x.waiters.any fun y => ws.contains y.key then x
  else
    match ws with
    | [] => x
    | w :: _ => { x with waiters := insertWaiter ⟨w, push, g.index, waitStamp s g⟩ x.waiters }

/-- A push of k entries can go on. -/
def canPush (x : NQueue) (k : Nat) : Bool := k ≤ x.allow && x.items.length + k ≤ x.depth
/-- A pop of k entries can go on. -/
def canPop (x : NQueue) (k : Nat) : Bool := k ≤ x.items.length
/-- The entries appended. -/
def pushItems (vs : List Word) (x : NQueue) : NQueue :=
  { x with allow := x.allow - vs.length, items := x.items ++ vs }
/-- k entries removed. -/
def popItems (k : Nat) (keep : Bool) (x : NQueue) : NQueue :=
  { x with items := x.items.drop k, allow := if keep then x.allow else min x.depth (x.allow + k) }

/-- The lanes of an execution as waiters of a queue: group and lane. -/
def waiterKeys (c : Cur) (act : List Nat) : List Nat := act.map (c.gid * 64 + ·)

/-- A uniform queue step of k = 1: `can`, then `ok`, else waiting. -/
def queueStep (c : Cur) (e : Env) (q : Nat) (push : Bool) (act : List Nat) (s : State) (can : NQueue → Bool)
    (ok : NQueue → UStep) : UStep :=
  let x := teamQueue e.team q
  let w := waiterKeys c act
  if x.depth == 0 then .fault { cls := clsQueue }
  else if can x && !waiterBefore x w push then ok x
  else .wait (modQueue s e.team.tid q (joinQueue s e.group w push)) (if push then .qpush q 1 else .qpop q 1)

/-- An `.all` form: the participants act in one step, or all wait. The participants are the lanes whose guard is true and
that raise no fault of R90 before the queue's own (log 105); the others park with their own fault. `k`: the form takes one
entry for each participant, and can wait behind another waiter; without it, it never waits.
`can`: it goes on; `f`: the queue after it; `eff`: what the i-th participant receives, from the queue before it. -/
def allForm (s : State) (c : Cur) (e : Env) (g : Guard) (us : List RegUse) (q : Nat) (push k : Bool)
    (can : NQueue → Nat → Bool) (f : List Member → NQueue → NQueue) (eff : NQueue → Nat → Eff) : State :=
  let s := settleStreams s c e g us
  let ts := memberOperands s c e g us
  let act := activeLanes s c g
  let ms := membersOf ts
  let x := teamQueue e.team q
  let w := waiterKeys c act
  match takenWait ts with
  | some w => allWait s c e g w
  | none =>
    let fs := takenFaults ts
    if x.depth == 0 || (k && x.depth < ms.length) then
      foldLanes s c e g fun l _ => .fault ((fs.lookup l).getD { cls := clsQueue })
    else if ms.isEmpty || !k || (can x ms.length && !waiterBefore x w push) then
      let s := (c.lanes.filter fun l => !act.contains l).foldl (fun s l => modLane s c.gid l (advance c)) s
      let s := modQueue s e.team.tid q fun x => leaveQueue w (f ms x)
      let s := ms.zipIdx.foldl (fun s m => modLane s c.gid m.1.lane fun _ => advance c (applyEff m.1.t (eff x m.2))) s
      countEvent (raise s e c.pc act fs false) e.ctx.asid 0 ms.length
    else
      allWait (modQueue s e.team.tid q (joinQueue s e.group w push)) c e g
        (if push then .qpush q ms.length else .qpop q ms.length)

/-- A queue instruction stands first in its block (R172). -/
def queueAt (s : State) (c : Cur) (e : Env) (g : Guard) (f : State) : State :=
  if firstWord c then f else allFault s c e g { cls := clsIllegal }

/-- The allowance raised (`qpush.cred`). -/
def raiseAllow (n : Nat) (x : NQueue) : NQueue := { x with allow := min x.depth (x.allow + n) }

/-- `qpush` and `qpush.cred` (R192): a release, the group's earlier accesses are performed first. -/
def execQpush (g : Guard) (q : BitVec 3) (all cred : Bool) (a : Reg) (s : State) : Host.Outcome State Fault Refusal :=
  withCur (releaseCur s) fun c e =>
    let s := releaseCur s
    let q := q.toNat
    let us := [src false a]
    let val (m : Member) : Word := m.rd a.toNat
    queueAt s c e g <|
      match cred, all with
      | false, false => uniformAt s c e g firstWord us fun act rd s =>
          queueStep c e q true act s (canPush · 1) fun _ =>
            .done (modQueue s e.team.tid q fun x => leaveQueue (waiterKeys c act) (pushItems [rd a.toNat] x)) {}
      | false, true => allForm s c e g us q true true canPush (fun ms x => pushItems (ms.map val) x) fun _ _ => {}
      | true, false => uniformAt s c e g firstWord us fun _ rd s =>
          if (teamQueue e.team q).depth == 0 then .fault { cls := clsQueue }
          else .done (modQueue s e.team.tid q (raiseAllow (rd a.toNat).toNat)) {}
      | true, true => allForm s c e g us q false false (fun _ _ => true)
          (fun ms x => raiseAllow ((ms.map fun m => (val m).toNat).sum) x) fun _ _ => {}

/-- The entry that stands i-th in a queue, as a register result. -/
def queueEntry (d : Reg) (x : NQueue) (i : Nat) : Eff := { regs := [(d.toNat, x.items.getD i 0)] }

/-- `qpop` (R192). -/
def execQpop (g : Guard) (q : BitVec 3) (all keep : Bool) (d : Reg) (s : State) : Host.Outcome State Fault Refusal :=
  withCur s fun c e =>
    let q := q.toNat
    let us := [dst false d]
    queueAt s c e g <|
      if all then
        allForm s c e g us q false true canPop (fun ms x => popItems ms.length keep x) (queueEntry d)
      else uniformAt s c e g firstWord us fun act _ s =>
        queueStep c e q false act s (canPop · 1) fun x =>
          .done (modQueue s e.team.tid q fun x => leaveQueue (waiterKeys c act) (popItems 1 keep x)) (queueEntry d x 0)

/-- `qtry` (R192): as `qpush` or `qpop` with k = 1 that never waits. -/
def execQtry (g : Guard) (q : BitVec 3) (p : PredIx) (x : QTry) (s : State) : Host.Outcome State Fault Refusal :=
  withCur (releaseCur s) fun c e =>
    let s := releaseCur s
    let q := q.toNat
    let no (s : State) : UStep := .done s { preds := [(p, false)] }
    let step (act : List Nat) (s : State) (push : Bool) (can : NQueue → Bool) (f : NQueue → NQueue)
        (eff : NQueue → Eff) : UStep :=
      let y := teamQueue e.team q
      if y.depth == 0 then .fault { cls := clsQueue }
      else if can y && !waiterBefore y (waiterKeys c act) push then
        .done (modQueue s e.team.tid q f) { eff y with preds := [(p, true)] }
      else no s
    match x with
    | .push a => uniformAt s c e g anywhere [src false a] fun act rd s =>
        step act s true (canPush · 1) (pushItems [rd a.toNat]) fun _ => {}
    | .pop d => uniformAt s c e g anywhere [dst false d] fun act _ s =>
        step act s false (canPop · 1) (popItems 1 false) fun y => queueEntry d y 0

/-! ## The tile table (R190, R191) -/

/-- Tile n of a team. -/
def teamTile (t : Team) (n : Nat) : Option TileEnt := t.tiles[n]?

/-- Update tile n of a team. -/
def modTile (s : State) (tid n : Nat) (f : TileEnt → TileEnt) : State :=
  modTeam s tid fun t => { t with tiles := t.tiles.modify n f }

/-- `tilest.def`: the checks on the range of an entry, if there is one, in the order of R174 (R191). LINES holds 1 to
4,096 (Table 9.5): for another number the model raises the tile-state fault (log 96). -/
def tileDef (lines base n : Nat) (x : Option TileEnt) : Except LaneFault TileEnt :=
  if lines * 128 < base + n * 128 then .error { cls := clsSpace, addr := base }
  else if base % 128 != 0 then .error { cls := clsAlign, addr := base }
  else
    match x with
    | none => .error { cls := clsTile }
    | some e =>
      if e.state != 0 || n == 0 || 4096 < n then .error { cls := clsTile } else .ok { e with base := base, lines := n }

/-- A change of state by `tilest` (Table 9.6); a tile number at or beyond the count has no entry (R190). -/
def tileMove (from_ into : Nat) (x : Option TileEnt) : Except LaneFault TileEnt :=
  match x with
  | none => .error { cls := clsTile }
  | some e => if e.state == from_ then .ok { e with state := into } else .error { cls := clsTile }

/-- `tilest` on the tile that its lead lane names. -/
def tileStep (e : Env) (n : Nat) (s : State) (f : Option TileEnt → Except LaneFault TileEnt) : UStep :=
  match f (teamTile e.team n) with
  | .error x => .fault x
  | .ok t => .done (modTile s e.team.tid n fun _ => t) {}

/-- `tilest` (R191). -/
def execTilest (g : Guard) (x : TileSt) (s : State) : Host.Outcome State Fault Refusal :=
  withCur s fun c e =>
    match x with
    | .tdef a b n => uniformAt s c e g anywhere [src false a, src false b, src false n] fun _ rd s =>
        tileStep e (rd a.toNat).toNat s (tileDef e.grid.desc.scratch (rd b.toNat).toNat (rd n.toNat).toNat)
    | .ready a => uniformAt s c e g anywhere [src false a] fun _ rd s =>
        tileStep e (rd a.toNat).toNat s (tileMove 0 2)
    | .empty a => uniformAt s c e g anywhere [src false a] fun _ rd s =>
        tileStep e (rd a.toNat).toNat s (tileMove 2 0)

/-- `tileq` (R190, Table 9.5). -/
def execTileq (g : Guard) (d a : Reg) (s : State) : Host.Outcome State Fault Refusal :=
  runLanes g [dst true d, src false a] s fun c e l rd t s =>
    match teamTile e.team (rd a.toNat).toNat with
    | none => .fault { cls := clsTile }
    | some x => .ok (modLane s c.gid l fun _ =>
        wrRegs t (pairRegs d.toNat (x.base + 2 ^ 32 * x.lines + 2 ^ 48 * x.state)))

/-! ## Timelines (R193 to R195, R312) -/

/-- The plan of a timeline access in one lane (R195). -/
def planTl (s : State) (e : Env) (h : Bool) (ea l : Nat) (k : Nat → Plan (Nat × Nat)) : Plan (Nat × Nat) :=
  let sp : Space := if h then .hst else .glb
  if acquiring e.group l then .wait .acquire none
  else if beyond (spaceLimit s e sp) ea 16 then .fault { cls := clsSpace, addr := ea }
  else onXlat (locate s e l sp .read ea 16) ea fun key fmt geom _ _ =>
    if formatReserved fmt geom then .fault { cls := clsFormat, sub := 0x01, addr := ea }
    else if ea % 16 != 0 then .fault { cls := clsAlign, addr := ea } else k key

/-- DONE of a timeline. -/
def tlDone (s : State) (key : Nat) : Nat := getBytes s key 8
/-- ERR of a timeline. -/
def tlErr (s : State) (key : Nat) : Bool := (getBytes s (key + 8) 8).testBit 63

/-- A wait for value n on a timeline is over: DONE has reached it, or the timeline is poisoned for a lane of a grid
that ends early (R195, R312). -/
def tlOver (s : State) (r : Grid) (key n : Nat) : Bool := n ≤ tlDone s key || (tlErr s key && r.endCode.isSome)

/-- `tlwait` for a value (R195). -/
def tlwaitOp (g : Guard) (h : Bool) (a : Reg) (us : List RegUse) (n : (Nat → Word) → Nat) (s : State) :
    Host.Outcome State Fault Refusal :=
  withPlans g firstWord (src true a :: us) (releaseCur s)
    (fun e s l rd t => planTl s e h (pairOf rd a.toNat) l fun key =>
      if tlOver s e.grid key (n rd) then .go t (key, 0) else .wait (.timeline key (n rd)) none)
    fun _ e xs s => xs.foldl (fun s x => touchFrame s e.group.die x.2.1) s

/-- `tlwait [vA], vB` (R195). -/
def execTlwaitR (g : Guard) (_sc : Scope) (h : Bool) (a b : Reg) (s : State) : Host.Outcome State Fault Refusal :=
  tlwaitOp g h a [src true b] (fun rd => pairOf rd b.toNat) s

/-- `tlwait [vA], n` (R195). -/
def execTlwaitI (g : Guard) (_sc : Scope) (h : Bool) (a : Reg) (n : BitVec 20) (s : State) :
    Host.Outcome State Fault Refusal := tlwaitOp g h a [] (fun _ => n.toNat) s

/-- What `tlread` delivers. -/
def tlValue (s : State) (iss : Bool) (key : Nat) : Nat := if iss then getBytes s (key + 8) 8 else tlDone s key

/-- `tlread` (R195): long-latency. -/
def execTlread (g : Guard) (_sc : Scope) (acq iss h ss : Bool) (d a : Reg) (s : State) :
    Host.Outcome State Fault Refusal :=
  longOp ss s fun c e flag =>
    let s := drainGroup s e.ctx.asid c.gid
    plansAt s c e g anywhere [dst true d, src true a]
      (fun s l rd t => planTl s e h (pairOf rd a.toNat) l fun key => .go t (key, pairOf rd a.toNat)) fun xs s1 =>
      let x := execRec s c e g
      let s1 := xs.foldl (fun s y => touchFrame s e.group.die y.2.1) (meetUpsets s1 (xs.map fun y => (y.2.1, 16)))
      let r := xs.foldl (fun (acc : State × List Part) x =>
        if poisoned acc.1 x.2.1 16 then
          (duePoison acc.1 c.gid x.1 c.pc x.2.2 (execRec s c e g), acc.2 ++ [.load x.1 (pairRegs d.toNat 0) 0])
        else (acc.1, acc.2 ++ [.load x.1 (pairRegs d.toNat (tlValue s iss x.2.1)) 0])) (s1, [])
      issueOp r.1 c e x flag false acq r.2

/-! ## Network copies (R196, R307) -/

/-- The pages of a range and the bytes in each. -/
def pagesOf (a n : Nat) : Nat → List (Nat × Nat)
  | 0 => []
  | fuel + 1 =>
    if n == 0 then []
    else
      let m := min n (4096 - a % 4096)
      (a, m) :: pagesOf (a + m) (n - m) fuel

/-- Where each page of a range lands: its key, or the first failure. -/
def pageKeys (s : State) (c : Context) (die : Nat) (hst : Bool) (k : AccKind) :
    List (Nat × Nat) → List (Nat × Nat × Nat) → Except (Nat × Xlat) (List (Nat × Nat × Nat))
  | [], acc => .ok acc.reverse
  | (a, m) :: rest, acc =>
    match translate s c die hst k a m with
    | .ok key fmt geom .. =>
      if formatReserved fmt geom then .error (a, .fault clsFormat 0x01 0)
      else pageKeys s c die hst k rest ((a, m, key) :: acc)
    | x => .error (a, x)

/-- The pieces of a copy between two ranges cut at the pages of both. -/
def zipPieces : Nat → List (Nat × Nat × Nat) → List (Nat × Nat × Nat) → List Piece
  | fuel + 1, (a, m, k) :: xs, (b, n, j) :: ys =>
    if m ≤ n then
      ⟨k, j, m, a, 0, 0⟩ :: zipPieces fuel xs (if m == n then ys else (b + m, n - m, j + m) :: ys)
    else ⟨k, j, n, a, 0, 0⟩ :: zipPieces fuel ((a + n, m - n, k + n) :: xs) ys
  | _, _, _ => []

/-- A lane's network copy. -/
structure NcopyAcc where
  pieces : List Piece
  len    : Nat
  tl     : Nat

/-- The lane's plan for a translation that failed at an address. -/
def failXlat {α : Type} (a : Nat) (x : Xlat) : Plan α :=
  match x with
  | .miss v => .miss [v]
  | .unbacked r => .wait (.backing r.asid r.lfn r.vpn) (some r)
  | .fault cls sub level => .fault { cls := cls, sub := sub, level := level, addr := a }
  | .ok .. => .fault { cls := clsIllegal }

/-- Registers that an `ncopy` names. -/
def ncopyUses (x : CopyOp) : List RegUse :=
  [src true x.sa, ⟨x.sa.toNat + 2, 1, false, false⟩, src true x.da, src true x.ba]

/-- A frame that a network copy reaches first is reached by the copy engine, which stands on X (R303, R376). -/
def byEngine (s : State) : Xlat → Xlat
  | .unbacked r => .unbacked { r with die := 8, cox := coxAt s 8 }
  | x => x

/-- The plan of an `ncopy` in one lane (R196): bounds, translations, alignment. -/
def planNcopy (s : State) (e : Env) (x : CopyOp) (sealing : Bool) (l : Nat) (rd : Nat → Word) (t : Thread) :
    Plan NcopyAcc :=
  let sa := pairOf rd x.sa.toNat
  let da := pairOf rd x.da.toNat
  let ta := pairOf rd x.ba.toNat
  let len := (rd (x.sa.toNat + 2)).toNat
  let w := widBytes x.wid
  let hst := x.dspc == .hst
  let die := e.group.die
  let fuel := len / 4096 + 3
  if acquiring e.group l then .wait .acquire none
  else if 2 ^ 48 < sa + len || 2 ^ 48 ≤ sa then .fault { cls := clsSpace, addr := sa }
  else if 2 ^ 48 < da + len || 2 ^ 48 ≤ da then .fault { cls := clsSpace, addr := da }
  else if 2 ^ 48 < ta + 16 then .fault { cls := clsSpace, addr := ta }
  else if 2 ^ 24 < len then .fault { cls := clsSpace, addr := sa }
  else
    match pageKeys s e.ctx die false (if sealing then .sealedRead else .read) (pagesOf sa (max len 1) fuel) [] with
    | .error (a, y) => failXlat a (byEngine s y)
    | .ok sk =>
      match pageKeys s e.ctx die hst .write (pagesOf da (max len 1) fuel) [] with
      | .error (a, y) => failXlat a (byEngine s y)
      | .ok dk =>
        match translate s e.ctx die hst .write ta 16 with
        | .ok key fmt geom .. =>
          if formatReserved fmt geom then .fault { cls := clsFormat, sub := 0x01, addr := ta }
          else if sa % w != 0 || len % w != 0 then .fault { cls := clsAlign, addr := sa }
          else if da % w != 0 then .fault { cls := clsAlign, addr := da }
          else if ta % 16 != 0 then .fault { cls := clsAlign, addr := ta }
          else .go t ⟨if len == 0 then [] else zipPieces (2 * fuel) sk dk, len, key⟩
        | y => failXlat ta (byEngine s y)

/-- `ncopy` (R196): each lane's copy enters the store queue. -/
def execNcopy (g : Guard) (x : CopyOp) (sealing : Bool) (s : State) : Host.Outcome State Fault Refusal :=
  withCur s fun c e =>
    plansAt s c e g anywhere (ncopyUses x) (fun s => planNcopy s e x sealing) fun xs s1 =>
      let r := xs.foldl (fun (acc : State × List Part) y =>
        let n : NCopy := { id := acc.1.nextId, asid := e.ctx.asid, grid := e.grid.key, pieces := y.2.pieces,
                           len := y.2.len, tl := y.2.tl, sealing := sealing, number := none, failed := none,
                           finished := false }
        ({ acc.1 with nextId := acc.1.nextId + 1, ncopies := acc.1.ncopies ++ [n] },
          acc.2 ++ [.ncopy y.1 acc.1.nextId])) (s1, [])
      if r.2.isEmpty then r.1
      else
        let op : LongOp := { id := r.1.nextId, flag := none, queued := true, performed := false, acquire := false,
                             exec := execRec s c e g, parts := r.2 }
        modGroup { r.1 with nextId := r.1.nextId + 1 } c.gid fun g => { g with ops := g.ops ++ [op] }

/-- The group and the operation of its store queue that hold a network copy. -/
def ncopyOp (s : State) (id : Nat) : Option (Nat × Nat) :=
  s.groups.findSome? fun g => (queueOf g).findSome? fun o =>
    if o.parts.any (fun p => match p with | .ncopy _ i => i == id | _ => false) then some (g.gid, o.id) else none

/-- NCOPY_ACCEPT (R196, R307): what stands before it in the store queue is performed, and the copies of its execution
are accepted in ascending lanes. -/
def execNcopyAccept (n : Nat) (s : State) : Host.Outcome State Fault Refusal :=
  match ncopyOp s n with
  | none => .next s
  | some (gid, op) =>
    match env s gid with
    | none => .next s
    | some e => .next (settleGroup (performTo s e.ctx.asid gid op) gid)

/-- DONE advances to the greatest number up to which every operation has finished (R194). -/
def advanceDone (s : State) (asid tl : Nat) : State :=
  let mine := s.ncopies.filter fun c => c.tl == tl && c.number.isSome
  let open_ := (mine.filter (!·.finished)).filterMap (·.number)
  let over_ := (mine.filter (·.finished)).filterMap (·.number)
  let k := (over_.filter fun x => open_.all (x < ·)).foldl max 0
  if k == 0 then s
  else
    let s := bankWrite s asid tl 8 k
    { s with ncopies := s.ncopies.filter fun c => !(c.tl == tl && c.finished && c.number.any (· ≤ k)) }

/-- NCOPY_FINISH (R194, R196): a failed copy sets ERR and its record is made; DONE passes the number. Event 3 counts none of
its bytes: the model's choice (log 115). -/
def execNcopyFinish (n : Nat) (s : State) : Host.Outcome State Fault Refusal :=
  match s.ncopies.find? fun c => c.id == n && c.number.isSome && !c.finished with
  | none => .next s
  | some c =>
    let s := { s with ncopies := modBy (·.id == n) (fun c => { c with finished := true }) s.ncopies }
    match c.failed with
    | none => .next (advanceDone (countEvent s c.asid 3 c.len) c.asid c.tl)
    | some va =>
      let s := bankWrite s c.asid (c.tl + 8) 8 (getBytes s (c.tl + 8) 8 % 2 ^ 63 + 2 ^ 63)
      let s := engineRecord s c.asid 8 0 clsPoison 0 0 va 0 0 3 false none
      .next (advanceDone s c.asid c.tl)

end Sys2Proof.Machine
end

