-- ==== Sys2Proof/Machine/Translation.lean ====
section
/-!
DEFINITION. Tables and walks (R334 to R340), where frames live and their backing (R302, R303, R336, R375, R376, R378,
R391), and the accesses that seats on X make through a context's tables.
-/

namespace Sys2Proof.Machine

/-! ## Entries (R335) -/

/-- Index of an address at a level. -/
def walkIndex (va l : Nat) : Nat := va / 2 ^ (39 - 9 * (l - 1)) % 512

/-- A valid entry with a reserved encoding at a level. -/
def pteReserved (l : Nat) (w : DWord) : Bool :=
  if !pteL w then l == 4 || w.toNat % 2 ^ 20 != 1 || pteKey w != 0
  else
    l == 1 || bitsN w.toNat 19 18 != 0 || pteHome w == 3 || pteCC w == 3 || (pteS64 w && l != 4) ||
    (pteMt w != 0 && (pteFmt w != 0 || pteGeom w != 0 || pteCC w != 0 || pteHome w != 0 || pteTbl w)) ||
    pteLfn w % pageFrames l w != 0

/-! ## The walk (R334, R339, R340) -/

/-- What a walk ends in. -/
inductive WalkRes where
  | leaf (x : TlbEnt)
  | fault (sub level : Nat)
  /-- an unbacked table frame at a level: its entries read as 0, and it is to be backed (R336) -/
  | table (r : BackReq) (level : Nat)
  deriving DecidableEq, Repr

/-- A leaf: its frame, then its key identifier (R340, item 1). -/
def walkLeaf (s : State) (c : Context) (va l : Nat) (w : DWord) : WalkRes :=
  let lfn := pteLfn w + va / 4096 % pageFrames l w
  let o := sealedOwner s c w
  let limit := if pteMt w != 0 then Config.hostFrames c.asid else (o.map (·.pool)).getD c.pool
  if limit ≤ lfn then .fault 0x06 0
  else if pteCC w == 0 && pteKey w != 0 then .fault 0x07 0
  else if pteCC w != 0 && pteKey w != c.keyid && o.isNone then .fault 0x07 0
  else .leaf { asid := c.asid, vpn := va / 4096, lfn := lfn, leaf := w, level := l }

/-- The record of a frame that a walk reads as a table (R337). -/
def tableFrame (f : FrameRec) : Bool := f.tbl && f.cc == 0 && f.fmt == 0

/-- The request that backs a table frame: TBL, CC and FMT as R337 says; its home policy, on which the spec is silent, is
the model's choice: interleaved, as the codes of a frame that no leaf names (log 107). -/
def tableReq (s : State) (c : Context) (die va lfn : Nat) : BackReq :=
  { asid := c.asid, lfn := lfn, vpn := va / 4096, die := die, cox := coxAt s die, cc := 0, fmt := 0, geom := 0,
    home := 0, tbl := true, pages := 1, walk := true, seat := false }

/-- An entry of a table frame as a walk reads it: a poisoned one reads as V = 0 (R360). -/
def walkEntry (s : State) (key : Nat) : DWord := if poisoned s key 8 then 0 else BitVec.ofNat 64 (getBytes s key 8)

/-- The 16 level-4 entries of a 64 KiB page differ (R335). -/
def splitS64 (s : State) (c : Context) (lfn va : Nat) (w : DWord) : Bool :=
  pteS64 w && (List.range 16).any fun i =>
    walkEntry s (keyGlb c.asid lfn (8 * (walkIndex va 4 / 16 * 16 + i))) != w

/-- Levels 5 − n to 4 of a walk, from the table frame `lfn`. -/
def walkFrom (s : State) (c : Context) (die va : Nat) : Nat → Nat → WalkRes
  | 0, _ => .fault 0x02 4
  | n + 1, lfn =>
    let l := 4 - n
    match frameOf c lfn with
    | none => .table (tableReq s c die va lfn) l
    | some f =>
      if f.measured then .fault 0x0A 0
      else if !tableFrame f then .fault 0x08 0
      else
        let key := keyGlb c.asid lfn (8 * walkIndex va l)
        let w := walkEntry s key
        if !pteV w then .fault 0x01 l
        else if pteReserved l w || (l == 4 && splitS64 s c lfn va w) then .fault 0x02 l
        else if pteL w then walkLeaf s c va l w
        else if c.pool ≤ pteLfn w then .fault 0x06 0
        else walkFrom s c die va n (pteLfn w)

/-- The walk of an address in a context's tables. -/
def walkVa (s : State) (c : Context) (die va : Nat) : WalkRes :=
  if c.pool ≤ c.root then .fault 0x06 0 else walkFrom s c die va 4 c.root

/-- Entries that a walk reads, from the table frame `lfn` on. -/
def walkReads (s : State) (c : Context) (va : Nat) : Nat → Nat → List (Nat × Nat)
  | 0, _ => []
  | n + 1, lfn =>
    if (frameOf c lfn).any tableFrame then
      let key := keyGlb c.asid lfn (8 * walkIndex va (4 - n))
      let w := walkEntry s key
      (key, 8) :: (if pteV w && !pteL w then walkReads s c va n (pteLfn w) else [])
    else []

/-- The entries that a walk reads meet what errors stand there (R382): a poisoned one reads as V = 0. -/
def meetWalk (s : State) (c : Context) (va : Nat) : State := meetUpsets s (walkReads s c va 4 c.root)

/-! ## Backing (R336, R337, R375, R376) -/

/-- The page of a frame: the frames first reached through entries of one page size and policy, of one page (R302). -/
def samePage (pages home lfn : Nat) (f : FrameRec) : Bool :=
  f.pages == pages && f.home == home && f.lfn / max pages 1 == lfn / max pages 1

/-- The home of a pinned or device-placed page that an earlier access has fixed: every frame of the page lives there
(R302, R303). -/
def pageDie (s : State) (r : BackReq) : Option Nat :=
  (getCtx s r.asid).bind fun c => (c.frames.find? (samePage r.pages r.home r.lfn)).bind fun f => f.place.head?.map (·.die)

/-- The place that a backing finds. -/
def backPlace (s : State) (f : VFunc) (r : BackReq) : Option (List Chunk) :=
  if r.home == 0 then
    let ds := memSet f
    if ds.isEmpty then none
    else takeInterleaved s f r.asid (interleavedLines r.lfn ds.length) ds.zipIdx
  else ((pageDie s r).or (firstHome s f r.asid r.die)).bind fun d => takeFrame d (freeRuns s f r.asid d)

/-- The record of a frame as it is backed (R337). -/
def newFrame (c : Context) (r : BackReq) (place : List Chunk) : FrameRec :=
  { lfn := r.lfn, cc := r.cc, keyid := if r.cc == 0 then 0 else c.keyid, fmt := r.fmt, geom := r.geom, mt := 0,
    home := r.home, tbl := r.tbl, pages := r.pages, place := place, measured := false, leaf := none, counts := [], moved := none }

/-- Seat 3 backs a frame at the place that is found for it, with its KIND 5 summary; `none` where there is none. -/
def backFrameAt (s : State) (r : BackReq) (at_ : VFunc → Option (List Chunk)) : Option State :=
  (getCtx s r.asid).bind fun c => (getFunc s c.vf).bind fun f =>
    if (frameOf c r.lfn).isSome then some s
    else
      (at_ f).map fun place =>
        let s := modCtx s r.asid fun c => { c with frames := c.frames ++ [newFrame c r place] }
        addSummary s c.vf { cox := r.cox, asid := r.asid, cls := clsTranslation, kind := 5, die := r.die }

/-- Seat 3 backs a frame where it finds room. -/
def backFrame (s : State) (r : BackReq) : Option State := backFrameAt s r fun f => backPlace s f r

/-- Requests of one frame are answered. -/
def dropBacking (s : State) (asid lfn : Nat) : State :=
  { s with backing := s.backing.filter fun b => !(b.asid == asid && b.lfn == lfn) }

/-- Pages through which threads on a die wait for a frame. -/
def backingPages (s : State) (die asid lfn : Nat) : List Nat :=
  ((s.groups.filter (·.die == die)).flatMap fun g => g.threads.filterMap fun t => match t.stall with
    | some (.backing a l v) => if a == asid && l == lfn then some v else none
    | _ => none).dedup

/-- No frame: the accesses that wait for it meet SUB 0x09, on the die of each; where no thread waits, the engine or the
sequencer that asked. A walk has read its table as zeros and waits for nothing (R336). -/
def noFrame (s : State) (r : BackReq) : State :=
  let pages (die : Nat) : List Nat := backingPages s die r.asid r.lfn
  let threads := (List.range s.dies.length).any fun d => !(pages d).isEmpty
  let fault (s : State) (die : Nat) (vs : List Nat) : State :=
    modDie s die fun d => { d with wfaults := d.wfaults ++ vs.map fun v => (r.asid, v, 0x09, 0) }
  if threads then (List.range s.dies.length).foldl (fun s d => fault s d (pages d)) s
  else if r.walk || r.seat then s
  else fault s r.die [r.vpn]

/-- Seat 3 answers one request itself. -/
def answerBacking (s : State) (r : BackReq) : State :=
  match backFrame s r with
  | some s' => dropBacking s' r.asid r.lfn
  | none => dropBacking (noFrame s r) r.asid r.lfn

/-- The function of a context. -/
def ctxFunc (s : State) (asid : Nat) : Option VFunc := (getCtx s asid).bind fun c => getFunc s c.vf

/-- A request stands at the host (R332). -/
def askedHost (f : VFunc) (r : BackReq) : Bool :=
  f.duties.any fun d => d.duty == 0 && d.subject == r.asid && d.extra == r.lfn

/-- Seat 3 takes one request: with PGFLT it is posted to the host, who receives the context, the fault class and the
page's address (R332). -/
def takeBacking (s : State) (r : BackReq) : State :=
  match ctxFunc s r.asid with
  | none => dropBacking s r.asid r.lfn
  | some f =>
    if askedHost f r then s
    else if dutyBit f 0 then postDuty s f.vf 0 r.asid r.lfn [r.asid, clsTranslation, r.vpn * 4096]
    else answerBacking s r

/-- FRAME_BACKING (R336, R375): the oldest request that does not stand at the host is taken. -/
def execFrameBacking (s : State) : Host.Outcome State Fault Refusal :=
  match s.backing.find? fun r => !(ctxFunc s r.asid).any (askedHost · r) with
  | none => .next s
  | some r => .next (takeBacking s r)

/-- A request of a seat or of a RISC-V core: it joins one for its frame that waits, and is served after those that came
before it (R375). With PGFLT it stays for the host, and the seat waits (R332); so it does for one that already stands at
the host, be PGFLT clear by now (R333). -/
def seatBack (s : State) (r : BackReq) : Option State × State :=
  let same (b : BackReq) : Bool := b.asid == r.asid && b.lfn == r.lfn
  if (ctxFunc s r.asid).any fun f => dutyBit f 0 || askedHost f r then
    (none, { s with backing := s.backing ++ [{ r with seat := true }] })
  else
    let s1 := (s.backing.takeWhile fun b => !same b).foldl takeBacking s
    match backFrame s1 ((s.backing.find? same).getD r) with
    | some s2 => (some (dropBacking s2 r.asid r.lfn), s1)
    | none => (none, dropBacking (noFrame s1 { r with seat := true }) r.asid r.lfn)

/-- Requests of seats and RISC-V cores for frames: while one of them stands at the host, its step waits (R332). -/
def seatWaits (s : State) : List BackReq := s.backing.filter (·.seat)

/-- A step of a seat: where an access in it needs a frame that the host is to back, the step is put off, and only the
request goes out (R332). -/
def seatHold (s s' : State) : State :=
  if (seatWaits s).length < (seatWaits s').length then (seatWaits s').foldl askBacking s else s'

/-! ## Walkers (R339) -/

/-- Cores of a die whose threads wait for the walk of a page: its translation goes into their L1 TLBs. -/
def walkCores (s : State) (die asid vpn : Nat) : List Nat :=
  ((s.groups.filter fun g => g.die == die && (env s g.gid).any (fun e => e.ctx.asid == asid) &&
    g.threads.any fun t => t.stall == some (.xlate vpn)).map (·.core)).dedup

/-- A walk has ended. -/
def endWalk (s : State) (die asid vpn : Nat) (r : WalkRes) : State :=
  let s := modDie s die fun d =>
    { d with walks := d.walks.filter (· != (asid, vpn)),
             tlb := match r with
               | .leaf x => d.tlb.filter (fun y => !(y.asid == asid && y.vpn == vpn)) ++ [x]
               | _ => d.tlb,
             l1 := match r with
               | .leaf x => d.l1.filter (fun y => !(y.2.asid == asid && y.2.vpn == vpn)) ++
                   (walkCores s die asid vpn).map fun k => (k, x)
               | _ => d.l1,
             wfaults := match r with
               | .leaf _ => d.wfaults
               | .fault sub l => d.wfaults ++ [(asid, vpn, sub, l)]
               | .table _ l => d.wfaults ++ [(asid, vpn, 0x01, l)] }
  match r with
  | .table b _ => askBacking s b
  | _ => s

/-- TRANSLATION_WALK (R339): the oldest walk of a die finishes. -/
def execTranslationWalk (die : Nat) (s : State) : Host.Outcome State Fault Refusal :=
  match (getDie s die).walks with
  | [] => .next s
  | (asid, vpn) :: _ =>
    match getCtx s asid with
    | none => .next (modDie s die fun d => { d with walks := d.walks.drop 1 })
    | some c =>
      let s := meetWalk s c (vpn * 4096)
      .next (endWalk s die asid vpn (walkVa s c die (vpn * 4096)))

/-! ## Accesses of the seats on X -/

/-- Where an access of an agent on a die lands that makes its own walk, after the backing that it needs: the state, and
the key of its byte. `hst`: the space of its address, or `none` where the leaf alone says it. A page of a reserved format
or geometry code faults (R44); of any other format it is reached byte by byte as it is stored, which is the model's
choice (log 39). -/
def agentXlat (s : State) (c : Context) (die : Nat) (hst : Option Bool) (k : AccKind) (va n : Nat) : State × Option Nat :=
  if 2 ^ 48 < va + n then (s, none)
  else if hst != some true && heapBase ≤ va then
    (s, if inHeap s c.asid va n && k != .fetch then some (keyHeap c.asid va) else none)
  else
    let s := meetWalk s c va
    match walkVa s c die va with
    | .fault .. => (s, none)
    | .table r _ => ((seatBack s r).1.getD (seatBack s r).2, none)
    | .leaf x =>
      match checkLeaf s c die (hst.getD (pteMt x.leaf != 0)) k va x with
      | .ok key fmt geom .. => if formatReserved fmt geom then (s, none) else (meetUpsets s [(key, n)], some key)
      | .unbacked r =>
        match seatBack s r with
        | (some s', _) =>
          (s', if formatReserved r.fmt r.geom then none else some (keyGlb c.asid x.lfn (va % 4096)))
        | (none, s') => (s', none)
      | _ => (s, none)

/-- Where an access of a seat lands: it comes from X, and reaches a formatted page as `agentXlat` says (log 39). -/
def seatXlat (s : State) (c : Context) (hst : Bool) (k : AccKind) (va n : Nat) : State × Option Nat :=
  agentXlat s c 8 (some hst) k va n

/-- A seat reads `n` quads of a context's memory. -/
def seatQuads (c : Context) (hst : Bool) (va : Nat) : Nat → State → State × Option (List Nat)
  | 0, s => (s, some [])
  | n + 1, s =>
    match seatXlat s ((getCtx s c.asid).getD c) hst .read va 8 with
    | (s, none) => (s, none)
    | (s, some key) =>
      let r := seatQuads c hst (va + 8) n s
      (r.1, r.2.map (getBytes s key 8 :: ·))

/-- Quads as one number, the first lowest. -/
def quadsNum : List Nat → Nat
  | [] => 0
  | x :: xs => x % 2 ^ 64 + 2 ^ 64 * quadsNum xs

/-- A seat reads `8 n` bytes at an address that is a multiple of 8. -/
def seatRead (s : State) (c : Context) (hst : Bool) (va n : Nat) : State × Option Nat :=
  let r := seatQuads c hst va n s
  (r.1, r.2.map quadsNum)

/-- A seat writes quads of a context's memory; what does not translate is not written. -/
def seatWrite (c : Context) (hst : Bool) (va : Nat) : List Nat → State → State
  | [], s => s
  | x :: xs, s =>
    match seatXlat s ((getCtx s c.asid).getD c) hst .write va 8 with
    | (s, none) => seatWrite c hst (va + 8) xs s
    | (s, some key) =>
      let s := bankWrite s c.asid key 8 x
      seatWrite c hst (va + 8) xs (if (keyFrame s key).any (·.2.tbl) then dropTlb s c.asid else s)

end Sys2Proof.Machine
end

