-- ==== Sys2Proof/Machine/Registers.lean ====
section
/-!
DEFINITION. The register window of a virtual function (R316, Table 20.2): who acts (R352), the rights of each register
(R24, R26), reads and writes, the denied status (R404), the counter window (R405), and `ldio` and `stio` (R157).
-/

namespace Sys2Proof.Machine

/-! ## Who acts (Table 22.1) -/

/-- An access to a window: the acting tag (0 OPR, 1 OWN, 2 AUD), the context it acts for, whether the context itself
makes it, and which copy of CNTSEL it uses (R405). -/
structure Actor where
  tag  : Nat
  asid : Option Nat
  own  : Bool
  sel  : Nat
  deriving DecidableEq, Repr

/-- The operator on a path bound to no context. -/
def Actor.operator : Actor := ⟨0, none, false, 0⟩

/-- The context that a selective stream of a function is bound to (R355). -/
def streamCtx (s : State) (vf st : Nat) : Option Context :=
  s.contexts.find? fun c => c.vf == vf && c.live && c.stream == some st

/-- Who acts on a path. -/
def actorOf (s : State) : Path → Actor
  | .stream vf st =>
    match streamCtx s vf st with
    | some c => ⟨c.tag, some c.asid, false, if c.tag == 0 then 0 else st + 1⟩
    | none => .operator
  | .ctx a =>
    match getCtx s a with
    | some c => ⟨c.tag, some a, true, if c.tag == 0 then 0 else (c.stream.map (· + 1)).getD 0⟩
    | none => .operator
  | .pf | .plain _ | .debug => .operator

/-! ## Rights rows (Table 2.4) -/

/-- A code of a rights cell. -/
inductive Right where | r | w | p | c | s
  deriving DecidableEq, Repr

/-- A rights row. -/
structure Row where
  opr : List Right
  own : List Right
  aud : List Right
  deriving DecidableEq, Repr

/-- The cell of a tag. -/
def Row.cell (x : Row) : Nat → List Right
  | 0 => x.opr
  | 1 => x.own
  | 2 => x.aud
  | _ => []

/-- A cell that lets a window read (R23). -/
def canRead (x : List Right) : Bool := x.contains .r || x.contains .c
/-- A cell that lets a window write (R23). -/
def canWrite (x : List Right) : Bool := x.contains .w || x.contains .p

/-! ## The registers of Table 20.2 -/

/-- A register of the window. -/
inductive WReg where
  | vfid | duty | pmask | svcr | cnt (e : Nat) | cntsel
  | qbase (q : Nat) | qctl (q : Nat) | qtail (q : Nat) | qhead (q : Nat) | qtl (q : Nat) | qsig (q : Nat)
  | qstat (q : Nat)
  deriving DecidableEq, Repr

/-- Offset of a register of queue q. -/
def queueOff (q o : Nat) : Nat := 0x1000 + 0x40 * q + o

/-- The register at an offset. -/
def wregAt (off : Nat) : Option WReg :=
  if 0x1000 ≤ off && off < 0x2000 then
    let q := (off - 0x1000) / 0x40
    match (off - 0x1000) % 0x40 with
    | 0x00 => some (.qbase q) | 0x08 => some (.qctl q) | 0x10 => some (.qtail q) | 0x18 => some (.qhead q)
    | 0x20 => some (.qtl q) | 0x28 => some (.qsig q) | 0x30 => some (.qstat q) | _ => none
  else if 0x100 ≤ off && off < 0x140 then (if off % 8 == 0 then some (.cnt ((off - 0x100) / 8)) else none)
  else
    match off with
    | 0x0000 => some .vfid | 0x0008 => some .duty | 0x0010 => some .pmask | 0x0020 => some .svcr
    | 0x0180 => some .cntsel | _ => none

/-- The rights row of a register; a count has its row of Table 11.6. -/
def wregRow : WReg → Row
  | .vfid => ⟨[.r], [.r], [.r]⟩
  | .duty => ⟨[.r, .w], [.r], [.r]⟩
  | .pmask => ⟨[.r, .w], [], []⟩
  | .svcr => ⟨[], [.r, .w], []⟩
  | .cnt e => ⟨if 6 ≤ e then [.r] else [], [.r], [.c]⟩
  | .cntsel => ⟨[.r, .w], [], [.r, .w]⟩
  | .qbase _ | .qtail _ | .qtl _ => ⟨[], [.r, .w], []⟩
  | .qctl _ => ⟨[.p], [.r, .w], []⟩
  | .qhead _ => ⟨[], [.r], [.c]⟩
  | .qsig _ | .qstat _ => ⟨[.r], [.r, .w], []⟩

/-- A register of 64 bits. -/
def wregWide : WReg → Bool
  | .svcr | .cnt _ | .qbase _ | .qtl _ | .qsig _ | .qstat _ => true
  | _ => false

/-- The cell for an actor: a context reaches its own SVCR with the OWN cell (R24). -/
def wregCell (a : Actor) (r : WReg) : List Right :=
  (wregRow r).cell (if a.own && r == .svcr then 1 else a.tag)

/-! ## Command queues -/

/-- A queue at reset. -/
def CQueue.reset (q : Nat) : CQueue :=
  { q := q, qbase := 0, en := false, log2 := 0, tail := 0, head := 0, qtl := 0, qsig := 0, qstat := 0, asid := 0,
    issued := 0, cmds := [] }

/-- Queue q of a function. -/
def cmdQueue (f : VFunc) (q : Nat) : CQueue := (f.queues.find? (·.q == q)).getD (CQueue.reset q)

/-- Update queue q of a function. -/
def modCmdQueue (s : State) (vf q : Nat) (g : CQueue → CQueue) : State :=
  modFunc s vf fun f =>
    { f with queues := if f.queues.any (·.q == q) then modBy (·.q == q) g f.queues else f.queues ++ [g (CQueue.reset q)] }

/-- QSTAT with a code and a tag (Table 20.2). -/
def qstatOf (code tag : Nat) : DWord := BitVec.ofNat 64 (tag % 2 ^ 32 * 2 ^ 32 + code % 256 * 256 + 1)

/-- Set a queue's QSTAT. -/
def setQstat (s : State) (vf q code tag : Nat) : State :=
  modCmdQueue s vf q fun x => { x with qstat := qstatOf code tag }

/-- QCTL as a read gives it. -/
def qctlOf (x : CQueue) : Nat := x.en.toNat + 2 * x.log2

/-! ## Reading (R316, R405) -/

/-- The placement mask as written last: an update that is not committed yet counts for reads (R330). -/
def pmaskRead (s : State) (f : VFunc) : Byte :=
  ((s.updates.filterMap fun u => match u.obj with
    | .mask m => if u.vf == f.vf then some m else none
    | _ => none).getLast?).getD f.pmask

/-- The count of an event of a context, as a quad. -/
def countOf (c : Context) (e : Nat) : DWord := BitVec.ofNat 64 (tget 0 c.counts e)

/-- The counts that CNTSEL shows: those of a context of the function that is live. -/
def cntRead (s : State) (f : VFunc) (a : Actor) (e : Nat) : DWord :=
  match getCtx s (tget 0 f.cntsel a.sel) with
  | some c => if c.vf == f.vf && c.live then countOf c e else 0
  | none => 0

/-- What a read of a register gives. -/
def wregRead (s : State) (f : VFunc) (a : Actor) : WReg → DWord
  | .vfid => BitVec.ofNat 64 f.vf
  | .duty => f.duty.setWidth 64
  | .pmask => (pmaskRead s f).setWidth 64
  | .svcr => BitVec.ofNat 64 (((a.asid.bind (getCtx s ·)).map (·.svcr)).getD 0)
  | .cnt e => cntRead s f a e
  | .cntsel => BitVec.ofNat 64 (tget 0 f.cntsel a.sel)
  | .qbase q => (cmdQueue f q).qbase
  | .qctl q => BitVec.ofNat 64 (qctlOf (cmdQueue f q))
  | .qtail q => (cmdQueue f q).tail.setWidth 64
  | .qhead q => (cmdQueue f q).head.setWidth 64
  | .qtl q => (cmdQueue f q).qtl
  | .qsig q => (cmdQueue f q).qsig
  | .qstat q => (cmdQueue f q).qstat

/-- R26 denies an access, or R316 refuses it on a path bound to no context. An operator may clear EN and nothing
else. -/
def wregDenied (f : VFunc) (a : Actor) (r : WReg) (write : Bool) (v : DWord) : Bool :=
  let c := wregCell a r
  !(if write then canWrite c else canRead c) || (r == .svcr && a.asid.isNone) ||
  (write && !c.contains .w &&
    match r with
    | .qctl q => v.getLsbD 0 || bitsN v.toNat 5 1 != (cmdQueue f q).log2
    | _ => false)

/-! ## Writing -/

/-- A write sets a bit that Table 20.2 or 20.6 marks zero or reserved. -/
def wregReserved (r : WReg) (v : DWord) : Bool :=
  let n := v.toNat
  match r with
  | .duty | .pmask => n / 2 ^ 8 != 0
  | .svcr => n / 2 ^ 48 != 0
  | .cntsel => n / 2 ^ 16 != 0
  | .qbase _ | .qtl _ => bitsN n 62 48 != 0
  | .qctl _ => n / 2 ^ 6 != 0
  | .qsig _ => bitsN n 61 24 != 0 || bitsN n 17 11 != 0
  | _ => false

/-- Each live instance of the multikernel receives an update with the next number of its count (R330). -/
def countUpdates (s : State) (home : Nat) : State :=
  s.liveInst.foldl (fun s i => { s with instSeq := tput 0 s.instSeq (home * 16 + i) (tget 0 s.instSeq (home * 16 + i) + 1) }) s

/-- The home acts on a committed value (R330): the placement mask is in force, the queue is bound, if its context still
stands. That a context stands in the table, or no longer, is what the seats that act for it wait for (log 65). -/
def applyReplica (s : State) (vf : Nat) (x : Replica) : State :=
  match x with
  | .mask m => modFunc s vf fun f => { f with pmask := m }
  | .binding q asid => if (getCtx s asid).isSome then modCmdQueue s vf q fun x => { x with asid := asid } else s
  | .context .. => s

/-- A new value of a function-wide object: an update by its home, instance 8, which acts on it after commit; with no live
instance it is committed at once (R30, R330). -/
def postUpdate (s : State) (vf : Nat) (x : Replica) : State :=
  if s.liveInst.isEmpty then applyReplica s vf x
  else
    let seqs := s.liveInst.map fun i => (i, tget 0 s.instSeq (8 * 16 + i) % 2 ^ 16)
    countUpdates { s with updates := s.updates ++ [{ home := 8, vf := vf, obj := x, seqs := seqs, acks := [] }] } 8

/-- A new placement mask. -/
def postMask (s : State) (vf : Nat) (m : Byte) : State := postUpdate s vf (.mask m)

/-- Updates of a queue's binding or of its context's entry are on their way: seat 1 does not act on them yet (R330). -/
def bindingPending (s : State) (vf q asid : Nat) : Bool :=
  s.updates.any fun u => match u.obj with
    | .binding p _ => u.vf == vf && p == q
    | .context a _ => a == asid
    | .mask _ => false

/-- The context to which a queue is bound, or will be once the update of its binding is committed (R317, R330). -/
def boundTo (s : State) (vf : Nat) (x : CQueue) : Nat :=
  (((s.updates.filter (·.vf == vf)).filterMap fun u => match u.obj with
    | .binding q asid => if q == x.q then some asid else none
    | _ => none).getLast?).getD x.asid

/-- QTL names an address that serves as the queue's timeline in a context (R317): the state after the accesses. -/
def timelineOk (s : State) (c : Context) (qtl : DWord) : State × Bool :=
  let a := bitsN qtl.toNat 47 0
  if a % 16 != 0 then (s, false)
  else
    let r := seatXlat s c (qtl.getLsbD 63) .write a 16
    (r.1, r.2.isSome)

/-- A write that sets EN from 0 (R317). -/
def enableQueue (s : State) (vf q asid log2 : Nat) : State :=
  match getFunc s vf, getCtx s asid with
  | some f, some c =>
    let x := cmdQueue f q
    let r := timelineOk s c x.qtl
    if log2 < 4 || 16 < log2 || x.qtl == 0 || !c.live || !r.2 then setQstat r.1 vf q 0x0B 0
    else
      match seatXlat r.1 c (x.qtl.getLsbD 63) .read (bitsN x.qtl.toNat 47 0) 16 with
      | (s, none) => setQstat s vf q 0x0B 0
      | (s, some key) =>
        let s := modCmdQueue s vf q fun x =>
          { x with en := true, log2 := log2, head := x.tail, asid := 0, issued := getBytes s (key + 8) 8 % 2 ^ 63 }
        postUpdate s vf (.binding q asid)
  | _, _ => s

/-- A write of QCTL that is not denied (R316, R317, R320). -/
def writeQctl (s : State) (vf q : Nat) (a : Actor) (v : DWord) : State :=
  let log2 := bitsN v.toNat 5 1
  match getFunc s vf with
  | none => s
  | some f =>
    if !v.getLsbD 0 then modCmdQueue s vf q fun x => { x with en := false, log2 := log2 }
    else if (cmdQueue f q).en then
      (if log2 < 4 || 16 < log2 then s else modCmdQueue s vf q fun x => { x with log2 := log2 })
    else
      match a.asid with
      | none => s
      | some c => enableQueue s vf q c log2

/-- A write of QTAIL (R318). -/
def writeQtail (s : State) (vf q : Nat) (v : Word) : State :=
  match getFunc s vf with
  | none => s
  | some f =>
    let x := cmdQueue f q
    if 2 ^ x.log2 < (v - x.head).toNat then setQstat s vf q 0x0A 0
    else modCmdQueue s vf q fun x => { x with tail := v }

/-- A write that is neither denied nor discarded for a reserved bit. -/
def wregWrite (s : State) (vf : Nat) (a : Actor) (r : WReg) (v : DWord) : State :=
  match r with
  | .vfid | .cnt _ | .qhead _ => s
  | .duty => modFunc s vf fun f => { f with duty := v.setWidth 8 }
  | .pmask => postMask s vf (v.setWidth 8)
  | .svcr =>
    match a.asid with
    | some c => modCtx s c fun c => { c with svcr := v.toNat }
    | none => s
  | .cntsel => modFunc s vf fun f => { f with cntsel := tput 0 f.cntsel a.sel v.toNat }
  | .qbase q => modCmdQueue s vf q fun x => { x with qbase := v }
  | .qctl q => writeQctl s vf q a v
  | .qtail q => writeQtail s vf q (v.setWidth 32)
  | .qtl q => modCmdQueue s vf q fun x => if x.en then x else { x with qtl := v }
  | .qsig q => modCmdQueue s vf q fun x => { x with qsig := v }
  | .qstat q => if v == 0 then modCmdQueue s vf q fun x => { x with qstat := 0 } else s

/-- A write of a register by an actor that may make it. -/
def wregStore (s : State) (vf : Nat) (a : Actor) (r : WReg) (v : DWord) : State :=
  let v : DWord := if wregWide r then v else BitVec.ofNat 64 (v.toNat % 2 ^ 32)
  if wregReserved r v then s else wregWrite s vf a r v

/-! ## The denied status (R404) -/

/-- DENLAST for a denied access. -/
def denLast (bar2 write : Bool) (off : Nat) : Word :=
  BitVec.ofNat 32 (2 ^ 31 + write.toNat * 2 ^ 30 + bar2.toNat * 2 ^ 29 + off % 2 ^ 24)

/-- DENCNT rises by one and saturates. -/
def denCount (w : Word) : Word := if w == BitVec.allOnes 32 then w else w + 1

/-- A denied access to BAR 0 of a function. -/
def denyBar0 (s : State) (vf off : Nat) (write : Bool) : State :=
  modFunc s vf fun f => { f with dencnt := denCount f.dencnt, denlast := denLast false write off }

/-- A denied access to BAR 2. -/
def denyBar2 (s : State) (off : Nat) (write : Bool) : State :=
  { s with pf := { s.pf with dencnt := denCount s.pf.dencnt, denlast := denLast true write off } }

/-- The window that a path reaches: a virtual function's own, a context's function's, or the one that the debug module
names. The physical function's BAR 0 holds no register of Table 20.2. -/
def windowOf (s : State) (path : Path) (vf : Nat) : Option Nat :=
  match path with
  | .pf => none
  | .stream v _ | .plain v => some v
  | .ctx a => (getCtx s a).map (·.vf)
  | .debug => some vf

/-- The register windows answer from stage 6 on (Table 25.4, R400). -/
def windowsUp (s : State) : Bool := s.boot.powered && !s.boot.recovery

/-- A debug path reaches anything only while the lock is open (R373). -/
def pathOpen (s : State) (path : Path) : Bool := path != .debug || s.boot.debugOpen

/-- A denied access of a path: BAR accesses count (R404); a context's own IOS access is no BAR access. -/
def denyPath (s : State) (path : Path) (vf off : Nat) (write : Bool) : State :=
  match path with
  | .ctx _ => s
  | _ => denyBar0 s vf off write

/-- A write to a register window. -/
def bar0Write (s : State) (path : Path) (vf off : Nat) (v : DWord) : State :=
  if !windowsUp s || !pathOpen s path then s
  else
    match windowOf s path vf with
    | none => s
    | some w =>
      match getFunc s w, wregAt off with
      | some f, some r =>
        let a := actorOf s path
        if wregDenied f a r true v then denyPath s path w off true else wregStore s w a r v
      | _, _ => s

/-- A read of a register window: the state and the value. -/
def bar0Read (s : State) (path : Path) (vf off : Nat) : State × DWord :=
  if !windowsUp s || !pathOpen s path then (s, 0)
  else
    match windowOf s path vf with
    | none => (s, 0)
    | some w =>
      match getFunc s w, wregAt off with
      | some f, some r =>
        let a := actorOf s path
        if wregDenied f a r false 0 then (denyPath s path w off false, 0) else (s, wregRead s f a r)
      | _, _ => (s, 0)

/-! ## The denial capability (R404) -/

/-- Index of a function for `Config.nextCap`. -/
def funcIndex : Option Nat → Nat
  | none => 0
  | some v => v + 1

/-- DENCNT and DENLAST of a function; `none` is the physical function. -/
def denialOf (s : State) : Option Nat → Word × Word
  | none => (s.pf.dencnt, s.pf.denlast)
  | some v => ((getFunc s v).map fun f => (f.dencnt, f.denlast)).getD (0, 0)

/-- A read of the denial capability of a function. -/
def capRead (s : State) (fn : Option Nat) (off : Nat) : Nat :=
  match off with
  | 0x00 => 0x0023 + 2 ^ 16 + 2 ^ 20 * (Config.nextCap (funcIndex fn)).toNat
  | 0x04 => Config.vendorId.toNat + 2 ^ 20 * 0x14
  | 0x08 => 0x0001
  | 0x0C => (denialOf s fn).1.toNat
  | 0x10 => (denialOf s fn).2.toNat
  | _ => 0

/-- A write of any value to DENCNT or DENLAST clears both. -/
def clearDenials (s : State) : Option Nat → State
  | none => { s with pf := { s.pf with dencnt := 0, denlast := 0 } }
  | some v => modFunc s v fun f => { f with dencnt := 0, denlast := 0 }

/-- A write to the denial capability. -/
def capWrite (s : State) (fn : Option Nat) (off : Nat) : State :=
  if off == 0x0C || off == 0x10 then clearDenials s fn else s

/-- The function whose configuration space a path names. -/
def capOf (path : Path) (vf : Nat) : Option Nat :=
  match path with
  | .pf => none
  | .stream v _ | .plain v => some v
  | _ => some vf

/-- DENIAL_CLEAR (R404). -/
def execDenialClear (vf : Option Nat) (s : State) : Host.Outcome State Fault Refusal :=
  .next (if s.boot.powered then clearDenials s vf else s)

/-! ## Window writes with a row of their own -/

/-- QTAIL_WRITE (R318). -/
def execQtailWrite (path : Path) (vf q : Nat) (v : Word) (s : State) : Host.Outcome State Fault Refusal :=
  .next (bar0Write s path vf (queueOff (q % 64) 0x10) (v.setWidth 64))

/-- A word with EN set. -/
def withEn (v : Word) (en : Bool) : DWord := if en then v.setWidth 64 ||| 1 else v.setWidth 64 &&& ~~~1

/-- QUEUE_ENABLE (R317): a write of QCTL with EN set. -/
def execQueueEnable (path : Path) (vf q : Nat) (v : Word) (s : State) : Host.Outcome State Fault Refusal :=
  .next (bar0Write s path vf (queueOff (q % 64) 0x08) (withEn v true))

/-- QUEUE_DISABLE (R320): a write of QCTL with EN clear. -/
def execQueueDisable (path : Path) (vf q : Nat) (v : Word) (s : State) : Host.Outcome State Fault Refusal :=
  .next (bar0Write s path vf (queueOff (q % 64) 0x08) (withEn v false))

/-- QSTAT_WRITE (R316). -/
def execQstatWrite (path : Path) (vf q : Nat) (v : DWord) (s : State) : Host.Outcome State Fault Refusal :=
  .next (bar0Write s path vf (queueOff (q % 64) 0x30) v)

/-- CNTSEL_WRITE (R405). -/
def execCntselWrite (path : Path) (vf : Nat) (v : Word) (s : State) : Host.Outcome State Fault Refusal :=
  .next (bar0Write s path vf 0x0180 (v.setWidth 64))

/-- DUTY_WRITE (R332, R333). -/
def execDutyWrite (path : Path) (vf : Nat) (v : Word) (s : State) : Host.Outcome State Fault Refusal :=
  .next (bar0Write s path vf 0x0008 (v.setWidth 64))

/-- PMASK_WRITE (R30, R330). -/
def execPmaskWrite (path : Path) (vf : Nat) (v : Word) (s : State) : Host.Outcome State Fault Refusal :=
  .next (bar0Write s path vf 0x0010 (v.setWidth 64))

/-! ## `ldio` and `stio` (R148, R149, R157) -/

/-- The function of a context, where its window answers. -/
def iosFunc (s : State) (e : Env) : Option VFunc := if windowsUp s then getFunc s e.ctx.vf else none

/-- The value that a store puts into a register: a 4-byte store leaves the upper half of a 64-bit register. -/
def iosValue (s : State) (e : Env) (off n v : Nat) : DWord :=
  match iosFunc s e, wregAt off with
  | some f, some r =>
    if n == 4 && wregWide r then
      BitVec.ofNat 64 ((wregRead s f (actorOf s (.ctx e.ctx.asid)) r).toNat / 2 ^ 32 * 2 ^ 32 + v % 2 ^ 32)
    else BitVec.ofNat 64 v
  | _, _ => BitVec.ofNat 64 v

/-- The row of the register that an access names denies it. -/
def iosDenied (s : State) (e : Env) (off n v : Nat) (write : Bool) : Bool :=
  match iosFunc s e, wregAt off with
  | some f, some r => wregDenied f (actorOf s (.ctx e.ctx.asid)) r write (iosValue s e off n v)
  | _, _ => false

/-- The plan of an IOS access in one lane. -/
def planIos (s : State) (e : Env) (m : MemOp) (write : Bool) (l : Nat) (rd : Nat → Word) (t : Thread) (data : Nat) :
    Plan Acc :=
  let n := widBytes m.wid
  let ea := effAddr .ios rd m.a m.off.toInt
  if acquiring e.group l then .wait .acquire none
  else if beyond iosLimit ea n then .fault { cls := clsSpace, addr := ea }
  else if iosDenied s e ea.toNat n data write then .fault { cls := clsRights, addr := ea }
  else if ea % n != 0 then .fault { cls := clsAlign, addr := ea }
  else .go t ⟨ea.toNat, 0, 0, 0, false, 3, false, data, 0⟩

/-- A read of a device register at its own width. -/
def iosRead (s : State) (e : Env) (off n : Nat) : Nat :=
  match iosFunc s e, wregAt off with
  | some f, some r => (wregRead s f (actorOf s (.ctx e.ctx.asid)) r).toNat % 2 ^ (8 * n)
  | _, _ => 0

/-- `ldio` (R157): performed once, in program order. -/
def execLdio (g : Guard) (m : MemOp) (s : State) : Host.Outcome State Fault Refusal :=
  longOp m.ss s fun c e flag =>
    plansAt s c e g anywhere (memUses false .ios m) (fun s l rd t => planIos s e m false l rd t 0) fun xs s1 =>
      let s1 := drainGroup s1 e.ctx.asid c.gid
      issueOp s1 c e (execRec s c e g) flag false (m.ord == .acq)
        (xs.map fun x => .load x.1 (loadRegs m (iosRead s1 e x.2.ea (widBytes m.wid))) 0)

/-- One lane's store to a device register. -/
def iosStore (s : State) (e : Env) (n : Nat) (x : Acc) : State :=
  match iosFunc s e, wregAt x.ea with
  | some f, some r => wregStore s f.vf (actorOf s (.ctx e.ctx.asid)) r (iosValue s e x.ea n x.b)
  | _, _ => s

/-- A store to a queue's QTAIL, which is a release (R318). -/
def isQtail (x : Acc) : Bool := match wregAt x.ea with
  | some (.qtail _) => true
  | _ => false

/-- `stio` (R153, R157, R272, R318): performed once, in program order, after what stands in the store queue; a release
and a QTAIL write come after every earlier access. -/
def execStio (g : Guard) (m : MemOp) (s : State) : Host.Outcome State Fault Refusal :=
  longOp m.ss s fun c e flag =>
    plansAt s c e g anywhere (memUses true .ios m)
      (fun s l rd t => planIos s e m true l rd t (storeData m rd)) fun xs s1 =>
      let s1 := if m.ord == .rel || xs.any fun x => isQtail x.2 then releaseGroup s1 e.ctx.asid c.gid
        else drainGroup s1 e.ctx.asid c.gid
      let s1 := xs.foldl (fun s x => iosStore s e (widBytes m.wid) x.2) s1
      issueOp s1 c e (execRec s c e g) flag false false (xs.map fun x => .store x.1 0 0 0 false)

end Sys2Proof.Machine
end

