-- ==== Sys2Proof/Machine/Launch.lean ====
section
/-!
DEFINITION. What a launch needs: the kernel descriptor (Table 20.4) and its shape (R14, R16, R290, R291), the heaps of a
grid (R225), and the creation of grids, gangs and teams (R13, R15, R17, R32, R190, R192, R323).
-/

namespace Sys2Proof.Machine

/-! ## The kernel descriptor -/

/-- A queue declaration: DEPTH and ALLOW. -/
def queueDecl (x i : Nat) : Nat × Nat := (bitsN x (256 + 16 * i + 6) (256 + 16 * i), bitsN x (256 + 16 * i + 14) (256 + 16 * i + 8))

/-- A tile entry (Table 9.5). -/
def tileOf (w : Nat) : TileEnt := ⟨bitsN w 31 0, bitsN w 47 32, bitsN w 49 48⟩

/-- Lanes of a group for a GW code; 0 for the reserved code. -/
def gwLanes : Nat → Nat
  | 0 => 16 | 1 => 32 | 2 => 64 | _ => 0

/-- NTILE. -/
def descTiles (x : Nat) : Nat := bitsN x 160 154

/-- The descriptor in its first 64 bytes and its tile entries. -/
def descOf (x : Nat) (tiles : List Nat) : KDesc :=
  { entry := bitsN x 47 0, stream := bitsN x 111 64, width := gwLanes (bitsN x 129 128), regs := bitsN x 140 130,
    team := bitsN x 148 141, paired := x.testBit 149, solo := x.testBit 150, gang := bitsN x 153 151,
    scratch := bitsN x 211 192, queues := (List.range 8).map (queueDecl x), tiles := tiles.map tileOf }

/-- A reserved field of a descriptor or of a tile entry is not zero. -/
def descReserved (x : Nat) (tiles : List Nat) : Bool :=
  bitsN x 511 384 != 0 || bitsN x 255 212 != 0 || bitsN x 191 161 != 0 || bitsN x 127 112 != 0 ||
  bitsN x 63 48 != 0 || (List.range 8).any (fun i => x.testBit (256 + 16 * i + 7) || x.testBit (256 + 16 * i + 15)) ||
  tiles.any fun w => w / 2 ^ 50 != 0

/-! ## Shape (R14, R16, R19, R290, R291) -/

/-- Registers that a thread takes: granules of eight. -/
def regGranules (n : Nat) : Nat := (n + 7) / 8 * 8

/-- Threads of a kernel that a lane holds (R19). -/
def threadsPerLane (n : Nat) : Nat := min 32 (2048 / regGranules n)

/-- Cores that a team takes. -/
def teamCores (d : KDesc) : Nat := if d.paired then 2 else 1

/-- Groups of a team that one of its cores holds. -/
def groupsPerCore (d : KDesc) : Nat := if d.paired then (d.team + 1) / 2 else d.team

/-- A shape that a launch refuses (R16, Table 20.5 code 0x04; log 19). -/
def shapeBad (d : KDesc) : Bool :=
  d.width == 0 || d.regs == 0 || 1024 < d.regs || d.team == 0 || 128 < d.team || d.gang == 0 || 4 < d.gang ||
  4 < d.gang * teamCores d || 4096 * teamCores d < d.scratch || 64 < d.tiles.length || (d.solo && 1 < d.team) ||
  64 / d.width * threadsPerLane d.regs < groupsPerCore d || d.queues.any fun q => 64 < q.1

/-! ## Choosing a free run -/

/-- A start of `n` free units in [lo, hi), aligned from lo: the free value's choice where it is one, else the lowest
(log 5). `used`: ranges taken. -/
def chooseRun (hint lo hi n align : Nat) (used : List (Nat × Nat)) : Option Nat :=
  let ok (a : Nat) : Bool := lo ≤ a && a + n ≤ hi && used.all fun u => a + n ≤ u.1 || u.2 ≤ a
  let h := lo + hint % (hi - lo + 1) / align * align
  if ok h then some h
  else
    let cs := (lo :: used.map fun u => lo + (u.2 - lo + align - 1) / align * align).filter ok
    cs.foldl (fun b a => match b with
      | none => some a
      | some x => some (min x a)) none

/-- The next free value. -/
def takeFree (s : State) : State × Nat := ({ s with fresh := s.fresh + 1 }, Config.freeValue s.fresh)

/-- Bytes of a range read as zeros, unpoisoned and untagged. -/
def zeroRange (s : State) (key n : Nat) : State :=
  { s with mem := s.mem.filter fun c => !(key ≤ c.1 && c.1 < key + n),
           poison := s.poison.filter fun p => !(key ≤ p * 32 && p * 32 < key + n),
           cmnTags := s.cmnTags.filter fun t => !(key ≤ t.1 * 128 && t.1 * 128 < key + n) }

/-! ## Heaps (R225) -/

/-- Ranges of the heap window that live grids of a context hold. -/
def heapRanges (s : State) (asid : Nat) : List (Nat × Nat) :=
  (s.grids.filter fun g => g.asid == asid && !g.ended).map fun g => (g.gbase, g.gbase + g.gsize)

/-- The lines of a GLB heap: it fits where the slices of the memory set together hold its bytes of free frames; an equal
share of each die where each has it (R225, log 49). -/
def heapPlace (s : State) (f : VFunc) (asid n : Nat) : Option (List Chunk) :=
  let ds := memSet f
  if 32 * (ds.map fun d => wholeFrames (freeRuns s f asid d)).sum < n then none
  else (takeInterleaved s f asid (fun i => (n + ds.length - 1 - i) / ds.length) ds.zipIdx).or (takeSpread s f asid ds n)

/-- The GLB heap of a new grid: the state, its base, and the lines that back it. -/
def glbHeap (s : State) (f : VFunc) (asid size : Nat) : Option (State × Nat × List Chunk) :=
  if size == 0 then some (s, 0, [])
  else
    let r := takeFree s
    match chooseRun r.2 heapBase (2 ^ 48) size 128 (heapRanges s asid), heapPlace s f asid (size / 128) with
    | some a, some cs => some (zeroRange r.1 (keyHeap asid a) size, a, cs)
    | _, _ => none

/-- CMN heaps of live grids of a function on a die. -/
def cmnRanges (s : State) (vf die : Nat) : List (Nat × Nat) :=
  (s.grids.filter fun g => g.vf == vf && !g.ended).flatMap fun g =>
    (g.cbase.filter (·.1 == die)).map fun b => (b.2.1, b.2.1 + b.2.2)

/-- Fenced commons banks of a die, in bytes of a function's slice (R6). -/
def fencedBanks (s : State) (vf die : Nat) : List (Nat × Nat) :=
  s.boot.fenced.filterMap fun u => match u with
    | .bank d b =>
      let m := cmnSlice s vf die
      if d == die && m.1 ≤ b * 2 ^ 20 then some (b * 2 ^ 20 - m.1, (b + 1) * 2 ^ 20 - m.1) else none
    | _ => none

/-- Free runs of a function's commons slice on a die, ascending. -/
def cmnFree (s : State) (vf die : Nat) : List (Nat × Nat) :=
  (cmnRanges s vf die ++ fencedBanks s vf die).foldl (fun rs u => rs.flatMap (cutRun u)) [(0, (cmnSlice s vf die).2)]

/-- `n` bytes of runs from the top: a base and bytes for each run. -/
def takeTop : List (Nat × Nat) → Nat → Option (List (Nat × Nat))
  | _, 0 => some []
  | [], _ + 1 => none
  | r :: rs, n =>
    let m := min n (r.2 - r.1)
    (takeTop rs (n - m)).map fun xs => if m == 0 then xs else (r.2 - m, m) :: xs

/-- The runs of a CMN heap on a die, from the top of the slice down: it fits where the heaps together do not exceed the
slice, also where the end of an earlier grid has left its room in parts (R225, log 49). -/
def cmnPlace (s : State) (vf die size : Nat) : Option (List (Nat × Nat × Nat)) :=
  (takeTop (cmnFree s vf die).reverse size).map fun xs => xs.map fun x => (die, x.1, x.2)

/-- The CMN heaps of a new grid: on every die of the mask (R225). -/
def cmnHeaps (s : State) (f : VFunc) (size : Nat) : List Nat → Option (List (Nat × Nat × Nat))
  | [] => some []
  | d :: ds =>
    match cmnPlace s f.vf d size, cmnHeaps s f size ds with
    | some a, some bs => some (a ++ bs)
    | _, _ => none

/-- CMN heaps read as zeros. -/
def zeroCmn (s : State) (vf : Nat) (bs : List (Nat × Nat × Nat)) : State :=
  bs.foldl (fun s b => zeroRange s (keyCmn b.1 ((cmnSlice s vf b.1).1 + b.2.1)) b.2.2) s

/-- A grid that comes to a die where it has no CMN heap yet takes one if there is room. -/
def ensureCmn (s : State) (grid die : Nat) : State :=
  match getGrid s grid with
  | none => s
  | some g =>
    if g.csize == 0 || g.cbase.any (·.1 == die) then s
    else
      match cmnPlace s g.vf die g.csize with
      | none => s
      | some bs => modGrid (zeroCmn s g.vf bs) grid fun g => { g with cbase := g.cbase ++ bs }

/-! ## Grids, gangs and teams -/

/-- The sequencer of a new team: its stream runs from the descriptor's STREAM (R198). -/
def Sequencer.fresh (stream : Nat) : Sequencer :=
  { status := if stream == 0 then .ended else .running, pos := stream, tiles := [], bufs := [], ud := [], qt := [],
    fmRm := .rn, fmSat := false, loops := [], mark := none, split := none, words := none, mbTook := [], mbSig := [] }

/-- Add one team of a grid to a gang. -/
def addTeam (s : State) (g : Grid) (gang entry index : Nat) (args : List Word) : State :=
  let t : Team :=
    { tid := s.nextId, grid := g.key, gang := gang, index := index, die := 0, core := 0, entry := entry, args := args,
      orphan := 0, tiles := g.desc.tiles, queues := g.desc.queues.map fun q => ⟨q.1, q.2, [], []⟩,
      seq := Sequencer.fresh g.desc.stream, kicks := [], resident := false, retired := false }
  modGang { s with nextId := s.nextId + 1, teams := s.teams ++ [t] } gang fun k => { k with teams := k.teams ++ [t.tid] }

/-- Add a gang of a grid, at the end of the function's placement queue when `queue` (R292). -/
def addGang (s : State) (g : Grid) (index : Nat) (queue : Bool) : State × Nat :=
  let k : Gang :=
    { key := s.nextId, grid := g.key, index := index, teams := [], status := .queued, cause := .debug, epoch := 1,
      die := 0, core := 0, halted := false, keyGone := false }
  let s := { s with nextId := s.nextId + 1, gangs := s.gangs ++ [k] }
  (if queue then modFunc s g.vf fun f => { f with placement := f.placement ++ [k.key] } else s, k.key)

/-- One gang of consecutive teams from index `first`, `done` teams of this creation being made. -/
def addGangTeams (s : State) (g : Grid) (entry first done n gangIx : Nat) (argsOf : Nat → List Word) (queue : Bool) : State :=
  let r := addGang s g gangIx queue
  (List.range n).foldl (fun s i => addTeam s g r.2 entry (first + done + i) (argsOf (done + i))) r.1

/-- `n` gangs of `size` teams of a grid, from its next unused indexes (R223). -/
def addTeams (s : State) (grid entry n size : Nat) (argsOf : Nat → List Word) (queue : Bool) : State :=
  match getGrid s grid with
  | none => s
  | some g =>
    let s := (List.range n).foldl (fun s i =>
      addGangTeams s g entry g.nextTeam (i * size) size (g.nextGang + i) argsOf queue) s
    modGrid s grid fun g => { g with nextTeam := g.nextTeam + n * size, nextGang := g.nextGang + n }

/-- A grid is made with its heaps; `none` where a heap does not fit (code 0x06). -/
def newGrid (s : State) (vf asid : Nat) (d : KDesc) (owner : GridOwner) (band priv gheap cheap spawn : Nat) :
    Option (State × Nat) :=
  (getFunc s vf).bind fun f => (glbHeap s f asid gheap).bind fun r =>
    (cmnHeaps s f cheap (computeDies.filter (maskAllows f))).map fun cs =>
      let s := zeroCmn r.1 vf cs
      let g : Grid :=
        { key := s.nextId, vf := vf, id := f.nextGrid, asid := asid, desc := d, owner := owner, band := band,
          spawn := spawn, nextTeam := 0, nextGang := 0, priv := priv, gbase := r.2.1, gsize := gheap, gplace := r.2.2,
          csize := cheap, cbase := cs, blocks := [], endCode := none, first := 0, joins := 0,
          ended := false }
      let s := modFunc { s with nextId := s.nextId + 1, grids := s.grids ++ [g] } vf fun f =>
        { f with nextGrid := (f.nextGrid + 1) % 2 ^ 32 }
      (s, g.key)

/-- Words s0 to s15 of a 64-byte field. -/
def argWords (x : Nat) : List Word := (List.range 16).map fun i => BitVec.ofNat 32 (x / 2 ^ (32 * i))

/-! ## Reading a descriptor (R322) -/

/-- What a launch finds at KDESC: the code of Table 20.5, or the descriptor. -/
def fetchDesc (s : State) (c : Context) (kdesc : Nat) : State × Except Nat KDesc :=
  if kdesc % 64 != 0 then (s, .error 0x03)
  else
    match seatRead s c false kdesc 8 with
    | (s, none) => (s, .error 0x03)
    | (s, some x) =>
      match seatQuads c false (kdesc + 64) (descTiles x) s with
      | (s, none) => (s, .error 0x03)
      | (s, some ts) =>
        if descReserved x ts then (s, .error 0x01)
        else
          let d := descOf x ts
          if shapeBad d then (s, .error 0x04)
          else if d.entry % 8 != 0 then (s, .error 0x03)
          else
            match seatXlat s c false .fetch d.entry 8 with
            | (s, none) => (s, .error 0x03)
            | (s, some _) => (s, .ok d)

end Sys2Proof.Machine
end

