-- ==== Sys2Proof/Machine/System.lean ====
section
/-!
DEFINITION. Spawning teams, heaps, migration, heats, system registers, counters and service calls (R220 to R243).
-/

namespace Sys2Proof.Machine

/-! ## Memory of a uniform instruction -/

/-- A uniform instruction reaches `n` bytes of GLB at an address aligned to `al`: go on with their key (R170), on a state
where the access is counted (R304) and has met what errors stand there (R382). -/
def uniformGlb (s : State) (e : Env) (k : AccKind) (a n al : Nat) (f : State → Nat → UStep) : UStep :=
  if 2 ^ 48 < a + n then .fault { cls := clsSpace, addr := a }
  else
    match translate s e.ctx e.group.die false k a n with
    | .miss v => .wait (askWalk s e.group.die e.ctx.asid v) (.xlate v)
    | .unbacked r => .wait (askBacking s r) (.backing r.asid r.lfn r.vpn)
    | .fault cls sub level => .fault { cls := cls, sub := sub, level := level, addr := a }
    | .ok key fmt geom .. =>
      if formatReserved fmt geom then .fault { cls := clsFormat, sub := 0x01, addr := a }
      else if a % al != 0 then .fault { cls := clsAlign, addr := a }
      else f (meetUpsets (touchFrame s e.group.die key) [(key, n)]) key

/-- A uniform fault of translation is met: its walk fault is forgotten (R344). -/
def forgetWalks (s : State) (e : Env) (a n : Nat) : State :=
  dropWalkFaults s e.group.die e.ctx.asid [a / 4096, (a + n - 1) / 4096]

/-! ## `enq` (R223, R224) -/

/-- A word of code as it stands in a context's memory. -/
def codeWord (s : State) (c : Context) (die a : Nat) : Option DWord :=
  match walkVa s c die a with
  | .leaf x => match checkLeaf s c die false .fetch a x with
    | .ok key .. => some (BitVec.ofNat 64 (getBytes s key 8))
    | _ => none
  | _ => none

/-- The end of the blocks that stand one behind another from an address on: the first word that is no header. -/
def chainEnd (s : State) (c : Context) (die : Nat) : Nat → Nat → Nat
  | 0, a => a
  | n + 1, a =>
    if 2 ^ 48 ≤ a then a
    else
      match codeWord s c die a with
      | some w => if w.getLsbD 63 then chainEnd s c die n (a + 8 + 8 * hLen w) else a
      | none => a

/-- The end of a kernel's thread code: its stream, and where no stream stands behind ENTRY, the end of its blocks, since
nothing but the blocks themselves tells the device its last word (R223, log 47). -/
def codeEnd (s : State) (c : Context) (die : Nat) (d : KDesc) : Nat :=
  if d.stream != 0 && d.entry < d.stream then d.stream else chainEnd s c die (2 ^ 45) d.entry

/-- ENTRY lies in the kernel's thread code (R223). -/
def inThreadCode (s : State) (c : Context) (die : Nat) (d : KDesc) (entry : Nat) : Bool :=
  d.entry ≤ entry && entry < codeEnd s c die d

/-- s0 to s15 of team t of an enqueue record. -/
def enqArgs (x t : Nat) : List Word :=
  let ws := argWords (x / 2 ^ 64)
  if x.testBit 49 then ws.modify 0 fun w => w + BitVec.ofNat 32 t else ws

/-- The teams of an accepted enqueue record. -/
def enqTeams (s : State) (e : Env) (x n : Nat) : State :=
  let size := e.grid.desc.gang
  let s := modGrid s e.grid.key fun g => { g with spawn := g.spawn + n }
  let s := addTeams s e.grid.key (x % 2 ^ 48) (n / size) size (enqArgs x) true
  modDie s e.group.die fun d => { d with enq := d.enq ++ [((s.gangs.getLast?).map (·.key)).getD 0] }

/-- Bytes that an instruction reads: a poisoned sector delivers 0 (R160). -/
def readClean (s : State) (key n : Nat) : Nat := if poisoned s key n then 0 else getBytes s key n

/-- `enq` with the record at a key. -/
def enqRecord (s : State) (e : Env) (p : PredIx) (key n : Nat) : UStep :=
  let x := readClean s key 128
  let size := e.grid.desc.gang
  if n == 0 || n % size != 0 || !inThreadCode s e.ctx e.group.die e.grid.desc (x % 2 ^ 48) then .fault { cls := clsSpawn }
  else
    let spawn := ((getGrid s e.grid.key).map (·.spawn)).getD 0
    if 0x00FFFFFF < spawn + n || 256 ≤ (getDie s e.group.die).enq.length then .done s { preds := [(p, false)] }
    else .done (enqTeams s e x n) { preds := [(p, true)] }

/-- `enq` (R223): its acceptance is a release. -/
def execEnq (g : Guard) (p : PredIx) (a b : Reg) (s : State) : Host.Outcome State Fault Refusal :=
  withCur (releaseCur s) fun c e =>
    let x := execRec s c e g
    let r := uniformAt (releaseCur s) c e g anywhere [src true a, src false b] fun act rd s =>
      let at_ := pairOf rd a.toNat
      uniformGlb s e .read at_ 128 128 fun s key =>
        let s := if poisoned s key 128 then duePoison s c.gid (act.headD 0) c.pc at_ x else s
        enqRecord s e p key (rd b.toNat).toNat
    forgetWalks r e (match (activeLanes s c g).head?.bind (getLane s c.gid) with
      | some t => rdPair t a.toNat
      | none => 0) 128

/-! ## `alloc` and `free` (R226, R227) -/

/-- Blocks of a heap: 0 for GLB, die + 1 for CMN. -/
def heapBlocks (g : Grid) (kind : Nat) : List (Nat × Nat) :=
  (g.blocks.filter (·.1 == kind)).map fun b => (b.2.1, b.2.1 + b.2.2)

/-- The ranges of a heap in which blocks are taken: address 0 is never the address of a block (R226). -/
def heapRuns (g : Grid) (kind : Nat) : List (Nat × Nat) :=
  if kind == 0 then (if g.gsize == 0 then [] else [(g.gbase, g.gbase + g.gsize)])
  else (g.cbase.filter fun b => b.1 + 1 == kind).map fun b => (max 128 b.2.1, b.2.1 + b.2.2)

/-- Take a block of `n` bytes from a heap: the state and its address, or 0 (R226). -/
def allocBlock (s : State) (grid kind n : Nat) : State × Nat :=
  match getGrid s grid with
  | none => (s, 0)
  | some g =>
    if n == 0 then (s, 0)
    else
      let m := (n + 127) / 128 * 128
      let r := takeFree s
      match (heapRuns g kind).findSome? fun x => chooseRun r.2 x.1 x.2 m 128 (heapBlocks g kind) with
      | none => (s, 0)
      | some a => (modGrid r.1 grid fun g => { g with blocks := g.blocks ++ [(kind, a, m)] }, a)

/-- `alloc` in every lane, ascending. -/
def allocOp (g : Guard) (glb : Bool) (us : List RegUse) (d : Reg) (p : PredIx) (n : (Nat → Word) → Nat) (s : State) :
    Host.Outcome State Fault Refusal :=
  runLanes g (dst glb d :: us) s fun c e l rd t s =>
    let r := allocBlock s e.grid.key (if glb then 0 else e.group.die + 1) (n rd)
    let regs := if glb then pairRegs d.toNat r.2 else [(d.toNat, BitVec.ofNat 32 r.2)]
    .ok (modLane r.1 c.gid l fun _ => applyEff t { regs := regs, preds := [(p, r.2 != 0)] })

/-- `alloc.glb vD, pR, vB` (R226). -/
def execAllocGlbR (g : Guard) (d : Reg) (p : PredIx) (b : Reg) (s : State) : Host.Outcome State Fault Refusal :=
  allocOp g true [src false b] d p (fun rd => (rd b.toNat).toNat) s
/-- `alloc.glb vD, pR, size` (R226). -/
def execAllocGlbI (g : Guard) (d : Reg) (p : PredIx) (n : BitVec 20) (s : State) : Host.Outcome State Fault Refusal :=
  allocOp g true [] d p (fun _ => n.toNat) s
/-- `alloc.cmn vD, pR, vB` (R226). -/
def execAllocCmnR (g : Guard) (d : Reg) (p : PredIx) (b : Reg) (s : State) : Host.Outcome State Fault Refusal :=
  allocOp g false [src false b] d p (fun rd => (rd b.toNat).toNat) s
/-- `alloc.cmn vD, pR, size` (R226). -/
def execAllocCmnI (g : Guard) (d : Reg) (p : PredIx) (n : BitVec 20) (s : State) : Host.Outcome State Fault Refusal :=
  allocOp g false [] d p (fun _ => n.toNat) s

/-- `free` in one lane: address 0 does nothing, anything but the start of a block is a heap fault (R227). -/
def freeBlock (s : State) (e : Env) (kind a : Nat) : Except LaneFault State :=
  if a == 0 then .ok s
  else
    match (getGrid s e.grid.key).bind fun g => g.blocks.find? fun b => b.1 == kind && b.2.1 == a with
    | none => .error { cls := clsHeap }
    | some b => .ok (modGrid s e.grid.key fun g => { g with blocks := g.blocks.erase b })

/-- `free` in every lane, ascending; a release. -/
def freeOp (g : Guard) (glb : Bool) (a : Reg) (s : State) : Host.Outcome State Fault Refusal :=
  runLanes g [src glb a] (releaseCur s) fun c e l rd t s =>
    match freeBlock s e (if glb then 0 else e.group.die + 1) (if glb then pairOf rd a.toNat else (rd a.toNat).toNat) with
    | .error f => .fault f
    | .ok s => .ok (modLane s c.gid l fun _ => t)

/-- `free.glb` (R227). -/
def execFreeGlb (g : Guard) (a : Reg) (s : State) : Host.Outcome State Fault Refusal := freeOp g true a s
/-- `free.cmn` (R227). -/
def execFreeCmn (g : Guard) (a : Reg) (s : State) : Host.Outcome State Fault Refusal := freeOp g false a s

/-! ## Cores of a function (R6, R229, R293, R294) -/

/-- Quads of a function on a die (Table 24.1). -/
def funcQuads (f : VFunc) (die : Nat) : List Nat :=
  (List.range (if die < 4 then 32 else 16)).filter fun j => (tget 0 f.part.quads die).testBit j

/-- A core that no signed record fences off (R6). -/
def coreServes (s : State) (die core : Nat) : Bool := !s.boot.fenced.contains (.core die core)

/-- Lanes of a core that signed records fence off (R6). -/
def fencedLanes (s : State) (die core : Nat) : List Nat :=
  s.boot.fenced.filterMap fun u => match u with
    | .lane d c l => if d == die && c == core then some l else none
    | _ => none

/-- The first lane of a core from which a group of width w misses every fenced lane. -/
def laneWindow (s : State) (die core w : Nat) : Option Nat :=
  ((List.range (64 / w)).map (· * w)).find? fun b => (fencedLanes s die core).all fun l => l < b || b + w ≤ l

/-- Cores of a function on a die, ascending. -/
def funcCores (s : State) (f : VFunc) (die : Nat) : List Nat :=
  ((funcQuads f die).flatMap fun j => (List.range 4).map (4 * j + ·)).filter (coreServes s die)

/-- Groups on a core, those of its pontoon slots included. -/
def coreGroups (s : State) (die core : Nat) : List Group :=
  s.groups.filter fun g => g.die == die && g.core == core && !g.retired &&
    ((getTeam s g.tid).any (·.resident))

/-- A core's load: threads on it that have not exited (R229). -/
def coreLoad (s : State) (die core : Nat) : Nat :=
  ((coreGroups s die core).map fun g => (g.threads.filter (·.status != .exited)).length).sum

/-- Pontoon slots of a core that are taken or reserved. -/
def pontoonTaken (s : State) (die core slot : Nat) : Bool :=
  s.groups.any fun g => !g.retired &&
    ((g.die == die && g.core == core && g.slot == slot) || g.ship == some (die, core, slot))

/-- The first free pontoon slot of a core for a group of width w: 32 or 33. -/
def freePontoon (s : State) (die core w : Nat) : Option Nat :=
  if (laneWindow s die core w).isNone then none else [32, 33].find? fun n => !pontoonTaken s die core n

/-- The least-loaded core of a function on a die with a free pontoon slot, ties to the lower core. -/
def pontoonCore (s : State) (f : VFunc) (die w : Nat) : Option (Nat × Nat) :=
  (funcCores s f die).foldl (fun b c =>
    match freePontoon s die c w with
    | none => b
    | some n =>
      match b with
      | none => some (c, n)
      | some x => if coreLoad s die c < coreLoad s die x.1 then some (c, n) else b) none

/-! ## `migr` (R228, R229) -/

/-- `migr` is accepted in the kernel (R228). -/
def migrKernel (d : KDesc) : Bool :=
  d.solo && d.scratch == 0 && d.tiles.isEmpty && d.queues.all (·.1 == 0) && d.stream == 0

/-- The home of a byte of a page that translates (R229): of its line, or of its frame; for a frame that is not backed, the
home that its page has, and where it has none the one that a first access from `die` would give it (R303). -/
def byteHome (s : State) (c : Context) (f : VFunc) (die va : Nat) (x : Xlat) : Nat :=
  match x with
  | .ok key .. =>
    match keyFrame s key with
    | some (_, r) => lineHome f r (va % 4096 / 128)
    | none => (memSet f).getD (va / 128 % (memSet f).length) 0
  | .unbacked r =>
    if r.home == 0 then (memSet f).getD ((r.lfn * 32 + va % 4096 / 128) % (memSet f).length) 0
    else ((pageDie s r).or (firstHome s f c.asid die)).getD 0
  | _ => 0

/-- The die to which `migr` goes for a home (R229). -/
def migrTarget (f : VFunc) (home : Nat) : Option Nat :=
  let a := computeDies.filter fun d => maskAllows f d && !(funcQuads f d).isEmpty
  if a.contains home then some home else nearestDie home a

/-- The lanes of an execution whose guard is true go on with a predicate. -/
def setAll (s : State) (c : Cur) (e : Env) (g : Guard) (p : PredIx) (v : Bool) : State :=
  foldLanes s c e g fun l s => .ok (modLane s c.gid l (wrPred · p v))

/-- Shipping begins: a pontoon slot is reserved, and the release performed (R229). -/
def beginShip (s : State) (c : Cur) (e : Env) (g : Guard) (p : PredIx) (die core slot : Nat) : State :=
  let s := releaseGroup s e.ctx.asid c.gid
  let s := foldLanes s c e g fun l s => .wait (modLane s c.gid l (wrPred · p true)) .ship
  modGroup s c.gid fun x => { x with ship := some (die, core, slot) }

/-- `migr` once its home is known; where it takes effect the lead lane's stream elements are taken, as `took` does. -/
def migrGo (s : State) (took : State → State) (c : Cur) (e : Env) (g : Guard) (try_ : Bool) (p : PredIx) (f : VFunc)
    (home : Nat) : State :=
  match migrTarget f home with
  | none => setAll (took s) c e g p false
  | some h =>
    if h == e.group.die then setAll (took s) c e g p true
    else
      match pontoonCore s f h e.group.width with
      | none => if try_ then setAll (took s) c e g p false else allWait s c e g (.pontoon h)
      | some (core, slot) =>
        if maskBusy e.group 0xFFF then allWait s c e g .migrFlags
        else beginShip (took s) c e g p h core slot

/-- The address of `migr` faults in the lowest lane whose guard is true; the others go on, and no thread moves. -/
def migrFault (s : State) (c : Cur) (e : Env) (g : Guard) (lead : Nat) (f : LaneFault) : State :=
  foldLanes s c e g fun l s => if l == lead then .fault f else .ok s

/-- `migr` once its address is known. -/
def migrAt (s : State) (took : State → State) (c : Cur) (e : Env) (g : Guard) (try_ : Bool) (p : PredIx) (f : VFunc) (lead va : Nat) : State :=
  if 2 ^ 48 ≤ va then migrFault s c e g lead { cls := clsSpace, addr := va }
  else
    match translate s e.ctx e.group.die false .read va 1 with
    | .miss v => stallXlate s c e [v]
    | .fault cls sub level =>
      forgetWalks (migrFault s c e g lead { cls := cls, sub := sub, level := level, addr := va }) e va 1
    | .ok key fmt geom tbl mt =>
      if formatReserved fmt geom then migrFault s c e g lead { cls := clsFormat, sub := 0x01, addr := va }
      else migrGo s took c e g try_ p f (byteHome s e.ctx f e.group.die va (.ok key fmt geom tbl mt))
    | .unbacked r => migrGo s took c e g try_ p f (byteHome s e.ctx f e.group.die va (.unbacked r))

/-- `migr` and `migr.try` (R228, R229): a translation fault strikes the lowest lane whose guard is true. -/
def execMigr (g : Guard) (try_ : Bool) (p : PredIx) (a : Reg) (s : State) : Host.Outcome State Fault Refusal :=
  withCur s fun c e =>
    let act := activeLanes s c g
    let us := [src true a]
    if !firstWord c || pairIllegal e.grid.desc.regs us then allFault s c e g { cls := clsIllegal }
    else if act.isEmpty then foldLanes s c e g fun _ s => .ok s
    else if rangeFault e.grid.desc.regs us then allFault s c e g { cls := clsRange }
    else if !migrKernel e.grid.desc then allFault s c e g { cls := clsMigrate }
    else if !othersMeet e.group c.lanes then allWait s c e g .migr
    else
      let lead := act.headD 0
      let s := settleStreams s c e g us
      match getLane s c.gid lead, getFunc s e.ctx.vf with
      | some t, some f =>
        match takeStreams s e (execRec s c e g) t us with
        | .fault x => migrFault s c e g lead x
        | .wait w => allWait s c e g w
        | .ok ov t' => migrAt s (fun s => modLane s c.gid lead (keepStreams t')) c e g try_ p f lead (pairOf (readOver ov t') a.toNat)
      | _, _ => s

/-- Lanes of a group that ship. -/
def shipLanes (g : Group) : List Nat := (g.threads.filter fun t => t.stall == some .ship).map (·.lane)

/-- MIGRATION_RESUME (R229): the group resumes in its pontoon slot, and its old place is free. -/
def execMigrationResume (gid : Nat) (s : State) : Host.Outcome State Fault Refusal :=
  match env s gid with
  | none => .next s
  | some e =>
    match e.group.ship with
    | none => .next s
    | some (die, core, slot) =>
      let ls := shipLanes e.group
      let s := modGroup s gid fun g =>
        { g with die := die, core := core, slot := slot, base := (laneWindow s die core g.width).getD 0,
                 born := (getDie s die).cyc, since := none, aged := none, passed := 0, ship := none,
                 threads := g.threads.map fun t => if t.stall == some .ship then nextWord t else t }
      let s := ensureCmn s e.grid.key die
      let s := countEvent (countEvent s e.ctx.asid 5 1) e.ctx.asid 0 ls.length
      .next (settleGroup s gid)

/-- MIGR_PONTOON_RETRY (R229): where a core of the function on the die has a free pontoon slot, a waiting `migr` is
tried again. -/
def execMigrPontoonRetry (die : Nat) (s : State) : Host.Outcome State Fault Refusal :=
  .next { s with groups := s.groups.map fun g =>
    let free := (env s g.gid).any fun e => (getFunc s e.ctx.vf).any fun f => (pontoonCore s f die g.width).isSome
    if free then
      { g with threads := g.threads.map fun t => if t.stall == some (.pontoon die) then { t with stall := none } else t }
    else g }

/-! ## `contend` (R231, R232) -/

/-- Identifier of a contest: I of Table 11.3. -/
def heatIdent (vf cid : Nat) : Nat := vf * 16 + cid / 16

/-- Register a contender on a regatta lane. -/
def register (s : State) (lane : Nat) (x : Entry) : State :=
  { s with rlanes := s.rlanes.modify lane fun r => { r with waiting := r.waiting ++ [x] } }

/-- `contend` (R232): the lane registers and waits; with `.sync` its release is performed first. -/
def execContend (g : Guard) (sync : Bool) (d : Reg) (p : PredIx) (a : Reg) (cid : Byte) (s : State) :
    Host.Outcome State Fault Refusal :=
  let s := if sync then releaseCur s else s
  withCur s fun c e =>
    let us := [dst true d, src true a]
    if !firstWord c || pairIllegal e.grid.desc.regs us then allFault s c e g { cls := clsIllegal }
    else
      let s := settleStreams s c e g us
      let r := execRec s c e g
      foldLanes s c e g fun l s => withOperands e r c.gid us l s fun rd t s =>
      let x : Entry := { who := .thread c.gid l sync d p, ident := heatIdent e.ctx.vf cid.toNat, cid := cid.toNat,
                         key := pairOf rd a.toNat % 2 ^ 48, die := e.group.die, core := e.group.core,
                         slot := e.group.slot, lane := e.group.base + l }
      let old := (getLane s c.gid l).getD t
      waitFrom c.gid l old (.wait (register (modLane s c.gid l fun _ => t) (cid.toNat % 16) x) .heat)

/-! ## System registers (R27, R237, R407, Table 2.5) -/

/-- A system register: its width, whether a context holds it itself (R407), and its cells. -/
structure SysReg where
  w64 : Bool
  own : Bool
  row : Row
  deriving DecidableEq, Repr

/-- Table 2.5; `none` is a number it does not list. -/
def sysReg (n : Nat) : Option SysReg :=
  let r : List Right := [.r]
  match n with
  | 0x000 | 0x001 | 0x002 | 0x003 | 0x004 | 0x005 => some ⟨false, true, ⟨[], r, []⟩⟩
  | 0x006 => some ⟨false, true, ⟨r, r, []⟩⟩
  | 0x007 => some ⟨false, true, ⟨r, r, [.c]⟩⟩
  | 0x008 | 0x009 => some ⟨false, false, ⟨r, r, []⟩⟩
  | 0x00A | 0x00B => some ⟨false, false, ⟨r, r, r⟩⟩
  | 0x00C => some ⟨false, false, ⟨r, [], []⟩⟩
  | 0x010 => some ⟨true, false, ⟨[], r, [.c]⟩⟩
  | 0x011 | 0x012 => some ⟨true, false, ⟨r, r, [.c]⟩⟩
  | 0x013 => some ⟨false, false, ⟨r, r, [.c]⟩⟩
  | 0x014 => some ⟨true, true, ⟨[], r, [.c]⟩⟩
  | 0x015 => some ⟨false, true, ⟨[], [.r, .w], []⟩⟩
  | 0x016 => some ⟨true, true, ⟨[], [.r, .w], []⟩⟩
  | 0x017 => some ⟨false, true, ⟨[], r, []⟩⟩
  | 0x018 => some ⟨true, true, ⟨[], r, []⟩⟩
  | 0x019 | 0x01A => some ⟨false, true, ⟨[], r, [.c]⟩⟩
  | 0x01B => some ⟨false, false, ⟨[.r, .w], [], []⟩⟩
  | _ => none

/-- The cell of a register for a context (R24, R407). -/
def sysCell (x : SysReg) (tag : Nat) : List Right := x.row.cell (if x.own then 1 else tag)

/-- Some authority may write it. -/
def sysWritable (x : SysReg) : Bool := x.row.opr.contains .w || x.row.own.contains .w

/-- The value of a system register for a thread; `ret`: what this execution retires (R29). -/
def sysValue (s : State) (e : Env) (t : Thread) (ret : Nat) (n : Nat) : Nat :=
  match n with
  | 0x000 => t.lane
  | 0x001 => e.group.width
  | 0x002 => e.group.index * e.group.width + t.lane
  | 0x003 => e.group.slot
  | 0x004 => e.group.index
  | 0x005 => e.team.index
  | 0x006 => ((getGang s e.team.gang).map (·.index)).getD 0
  | 0x007 => e.grid.id
  | 0x008 => e.group.die
  | 0x009 => e.group.core
  | 0x00A => e.ctx.vf
  | 0x00B => e.ctx.tag
  | 0x00C => e.ctx.asid
  | 0x010 => (getDie s e.group.die).cyc
  | 0x011 => coxAt s e.group.die
  | 0x012 => s.synt
  | 0x013 => errbOf s
  | 0x014 => tget 0 e.ctx.counts 0 + ret
  | 0x015 => t.fpstat.toNat
  | 0x016 => e.ctx.trvec.toNat
  | 0x017 => t.trcause.toNat
  | 0x018 => t.trpc.toNat
  | 0x019 => e.team.orphan
  | 0x01A => e.grid.spawn
  | 0x01B => ((getFunc s e.ctx.vf).map fun f => (pmaskRead s f).toNat).getD 0
  | _ => 0

/-- The lanes of an execution that retire an instruction which can fault on its destination only. -/
def retiring (s : State) (c : Cur) (e : Env) (g : Guard) (us : List RegUse) : Nat :=
  if rangeFault e.grid.desc.regs us then 0
  else ((activeLanes s c g).filter fun l => !(getLane s c.gid l).any (boundFault · us)).length

/-- `sysr vD, %name` (R237). The check of the register's row of Table 2.5 stands among the instruction's own faults, after
those of R90 on its registers: the model's choice (log 111). -/
def execSysr (g : Guard) (d : Reg) (n : BitVec 12) (s : State) : Host.Outcome State Fault Refusal :=
  withCur s fun c e =>
    match sysReg n.toNat with
    | none => allFault s c e g { cls := clsIllegal }
    | some x =>
      let us := [dst x.w64 d]
      if (x.w64 && !evenReg d) || pairIllegal e.grid.desc.regs us then allFault s c e g { cls := clsIllegal }
      else
        let ret := retiring s c e g us
        foldLanes s c e g fun l s => withOperands e (execRec s c e g) c.gid us l s fun _ t s =>
          if !canRead (sysCell x e.ctx.tag) then .fault { cls := clsRights }
          else
            let v := sysValue s e t ret n.toNat
            let regs := if x.w64 then pairRegs d.toNat v else [(d.toNat, BitVec.ofNat 32 v)]
            .ok (modLane s c.gid l fun _ => wrRegs t regs)

/-- A value sets a bit that Table 2.5 marks reserved or zero. -/
def sysReserved (n v : Nat) : Bool :=
  match n with
  | 0x015 => v / 2 ^ 6 != 0
  | 0x01B => v / 2 ^ 8 != 0
  | _ => false

/-- One lane's `sysw` of a register that it may write. -/
def sysStore (s : State) (e : Env) (gid l n v : Nat) : State :=
  match n with
  | 0x015 => modLane s gid l fun t => { t with fpstat := BitVec.ofNat 32 v }
  | 0x016 => modCtx s e.ctx.asid fun c => { c with trvec := BitVec.ofNat 64 v }
  | 0x01B => postMask s e.ctx.vf (BitVec.ofNat 8 v)
  | _ => s

/-- `sysw %name, vA` (R27, R30, R237). -/
def execSysw (g : Guard) (a : Reg) (n : BitVec 12) (s : State) : Host.Outcome State Fault Refusal :=
  withCur s fun c e =>
    match sysReg n.toNat with
    | none => allFault s c e g { cls := clsIllegal }
    | some x =>
      let us := [src x.w64 a]
      if !sysWritable x || (x.w64 && !evenReg a) || pairIllegal e.grid.desc.regs us then
        allFault s c e g { cls := clsIllegal }
      else
        let s := settleStreams s c e g us
        let r := execRec s c e g
        foldLanes s c e g fun l s => withOperands e r c.gid us l s fun rd t s =>
          let v := if x.w64 then pairOf rd a.toNat else (rd a.toNat).toNat
          if !canWrite (sysCell x e.ctx.tag) then .fault { cls := clsRights }
          else if sysReserved n.toNat v then .fault { cls := clsIllegal }
          else .ok (sysStore (modLane s c.gid l fun _ => t) e c.gid l n.toNat v)

/-- `cntr vD, e` (R238): the context's own counts, whatever its tag. -/
def execCntr (g : Guard) (d : Reg) (ev : BitVec 4) (s : State) : Host.Outcome State Fault Refusal :=
  withCur s fun c e =>
    let us := [dst true d]
    if pairIllegal e.grid.desc.regs us then allFault s c e g { cls := clsIllegal }
    else
      let v := tget 0 e.ctx.counts ev.toNat + (if ev == 0 then retiring s c e g us else 0)
      foldLanes s c e g fun l s => withOperands e (execRec s c e g) c.gid us l s fun _ t s =>
        .ok (modLane s c.gid l fun _ => wrRegs t (pairRegs d.toNat v))

/-! ## `svc` (R243, R327) -/

/-- The 64 bytes of a message. Its mask has 32 bits: of a 64-lane group it names lanes 0 to 31 alone, the model's choice
(log 114). -/
def svcMessage (e : Env) (n : Nat) (act : List Nat) : Nat :=
  n % 2 ^ 16 + 2 ^ 16 * (e.group.index % 2 ^ 16) + 2 ^ 32 * (e.team.index % 2 ^ 32) + 2 ^ 64 * (e.grid.id % 2 ^ 32) +
  2 ^ 96 * (laneMask act % 2 ^ 32) +
  ((List.range 12).map fun i => (rdUniform e.group i).toNat * 2 ^ (128 + 32 * i)).sum

/-- `svc` at a ring whose control block stands at a key. -/
def svcAt (s : State) (e : Env) (p : PredIx) (n : Nat) (act : List Nat) (key : Nat) : UStep :=
  let head := readClean s key 4
  let tail := readClean s (key + 8) 4
  let log2 := readClean s (key + 16) 2
  if log2 < 2 || 16 < log2 || (tail + 2 ^ 32 - head) % 2 ^ 32 == 2 ^ log2 then .done s { preds := [(p, false)] }
  else
    let a := e.ctx.svcr + 64 + 64 * (tail % 2 ^ log2)
    uniformGlb s e .write a 64 64 fun s k =>
      let s := bankWrite (clearPoison s [(k, 64)]) e.ctx.asid k 64 (svcMessage e n act)
      .done (bankWrite s e.ctx.asid (key + 8) 4 ((tail + 1) % 2 ^ 32)) { preds := [(p, true)] }

/-- `svc pR, n` (R243): it does not wait for the ring; a release. -/
def execSvc (g : Guard) (p : PredIx) (n : BitVec 16) (s : State) : Host.Outcome State Fault Refusal :=
  withCur (releaseCur s) fun c e =>
    let x := execRec s c e g
    let r := uniformAt (releaseCur s) c e g anywhere [] fun act _ s =>
      if e.ctx.svcr == 0 then .done s { preds := [(p, false)] }
      else
        uniformGlb s e .write e.ctx.svcr 64 64 fun s key =>
          let s := if poisoned s key 64 then duePoison s c.gid (act.headD 0) c.pc e.ctx.svcr x else s
          svcAt s e p n.toNat act key
    forgetWalks r e e.ctx.svcr 64

end Sys2Proof.Machine
end

