-- ==== Sys2Proof/Machine/Xvexrus.lean ====
section
/-!
DEFINITION. The Xvexrus instructions of the service cores, and the exception of a word that is reserved there (R93, R94,
R244 to R247, R314). Cores 0 to 31 are the service cores of X (log 1).
-/

namespace Sys2Proof.Machine

/-! ## Registers and words -/

/-- x[n]; x0 reads 0. -/
def rvReg (r : RvCore) (n : BitVec 5) : DWord := if n == 0 then 0 else tget 0 r.x n.toNat
/-- Write x[n]; a write to x0 is discarded. -/
def rvPut (r : RvCore) (n : BitVec 5) (v : DWord) : RvCore :=
  if n == 0 then r else { r with x := tput 0 r.x n.toNat v }

/-- The instruction of a core ends: its status goes to rd and the program counter to the next word. -/
def rvEnd (s : State) (c : Nat) (rd : BitVec 5) (status : Nat) : State :=
  let r := rvPut (getRv s c) rd (BitVec.ofNat 64 status)
  putRv s c { r with pc := r.pc + 4 }

/-- The die of a core: control cores 32 to 63 stand four on each compute die, all others on X (R314, R315). -/
def rvDie (c : Nat) : Nat := if 32 ≤ c && c < 64 then (c - 32) / 4 else 8

/-- A crew core: 64 to 71, for seats 1 to 8. -/
def rvCrew (c : Nat) : Bool := 64 ≤ c
/-- A control core. -/
def rvControl (c : Nat) : Bool := 32 ≤ c && c < 64

/-- A trap: to S mode where it is delegated, else to M mode (log 8). -/
def rvTrap (c : Nat) (r : RvCore) (intr : Bool) (cause : Nat) (tval : DWord) : RvCore :=
  let code : DWord := BitVec.ofNat 64 (cause + if intr then 2 ^ 63 else 0)
  let base (v : DWord) : DWord :=
    (v &&& ~~~3#64) + (if intr && v.getLsbD 0 then BitVec.ofNat 64 (4 * cause) else 0)
  if !rvCrew c && r.mode ≤ 1 && (tget 0 r.csr (if intr then 0x303 else 0x302)).getLsbD cause then
    let csr := tput 0 (tput 0 (tput 0 r.csr 0x141 r.pc) 0x142 code) 0x143 tval
    let kept : DWord := r.mstatus &&& ~~~0x122#64
    { r with csr := csr, pc := base (tget 0 r.csr 0x105), mode := 1, stalled := false,
             mstatus := kept ||| ((r.mstatus &&& 2) <<< 4) ||| (if r.mode == 1 then 0x100 else 0) }
  else
    let kept : DWord := r.mstatus &&& ~~~0x1888#64
    { r with csr := tput 0 r.csr 0x343 tval, mepc := r.pc, mcause := code, pc := base r.mtvec, mode := 3, stalled := false,
             mstatus := kept ||| ((r.mstatus &&& 8) <<< 4) ||| (BitVec.ofNat 64 r.mode <<< 11) }

/-- The illegal-instruction exception of a RISC-V core at a word: cause 2 (R94), the word in mtval (log 8). -/
def rvIllegal (s : State) (c : Nat) (w : DWord) : State := putRv s c (rvTrap c (getRv s c) false 2 w)

/-- A core accesses a place: it counts for its die toward the re-homing of the page (R304). -/
def rvTouch (s : State) (c key : Nat) : State := touchFrame s (rvDie c) key

/-- A parcel of 16 bits in a core's context, fetched from the core's die. -/
def rvParcel (s : State) (c asid va : Nat) : State × Option Nat :=
  match getCtx s asid with
  | none => (s, none)
  | some x =>
    match agentXlat s x (rvDie c) none .fetch va 2 with
    | (s, none) => (s, none)
    | (s, some key) => if poisoned s key 2 then (s, none) else (rvTouch s c key, some (getBytes s key 2))

/-- The word at a core's program counter: one parcel of 16 bits, or two where the first says so. -/
def rvFetch (s : State) (c : Nat) : State × Option Word :=
  let r := getRv s c
  match rvParcel s c r.asid r.pc.toNat with
  | (s, none) => (s, none)
  | (s, some x) =>
    if x % 4 != 3 then (s, some (BitVec.ofNat 32 x))
    else
      match rvParcel s c r.asid (r.pc.toNat + 2) with
      | (s, none) => (s, none)
      | (s, some y) => (s, some (BitVec.ofNat 32 (x + 2 ^ 16 * y)))

/-- The instruction of the core whose word is in progress; a core that lacks Xvexrus takes the exception of R94. -/
def withRv (s : State) (f : Nat → RvCore → State) : Host.Outcome State Fault Refusal :=
  match s.rvCur with
  | none => .next s
  | some c => .next (if c < 32 then f c (getRv s c) else rvIllegal s c (((rvFetch s c).2.getD 0).setWidth 64))

/-! ## Arguments and addresses -/

/-- Argument words s0 to s(2n − 1) in x10 to x(9 + n). -/
def rvArgs (r : RvCore) (n : Nat) : List Word :=
  (List.range n).flatMap fun i =>
    let v := tget 0 r.x (10 + i)
    [v.setWidth 32, (v >>> 32).setWidth 32]

/-- An access is turned away for rights (R247, status 3). -/
def seatRights (s : State) (c : Context) (k : AccKind) (va : Nat) : Bool :=
  match walkVa s c 8 va with
  | .leaf x => (match checkLeaf s c 8 false k va x with | .fault cls .. => cls == clsRights | _ => false)
  | _ => false

/-- The status of an address that does not serve: 3 for rights, otherwise 2. -/
def addrStatus (s : State) (c : Context) (k : AccKind) (va : Nat) : Nat := if seatRights s c k va then 3 else 2

/-- A counter at an address: its key, or the status. -/
def counterKey (s : State) (c : Context) (k : AccKind) (va : Nat) : State × Except Nat Nat :=
  if va % 8 != 0 then (s, .error 2)
  else
    match seatXlat s c false k va 8 with
    | (s, none) => (s, .error (addrStatus s c k va))
    | (s, some key) => (s, .ok key)

/-- The rights row of R221: an auditor may not execute. -/
def rvContext (s : State) (r : RvCore) : Except Nat Context :=
  match getCtx s r.asid with
  | none => .error 3
  | some c => if c.tag == 2 then .error 3 else .ok c

/-! ## `xspawn` (R244) -/

/-- Reserved fields of a launch descriptor. -/
def spawnReserved (x : Nat) : Bool := bitsN x 191 162 != 0 || bitsN x 511 256 != 0

/-- Sizes or a team count that a launch descriptor may not have. -/
def spawnShapeBad (x : Nat) (d : KDesc) : Bool :=
  let t := bitsN x 95 64
  t == 0 || 65535 < t || t % d.gang != 0 || bitsN x 127 96 % 8 != 0 || 2 ^ 20 < bitsN x 127 96 ||
  bitsN x 159 128 % 128 != 0 || bitsN x 255 192 % 128 != 0

/-- The status for a code of Table 20.5 that the kernel descriptor gets. -/
def descStatus (s : State) (c : Context) (kdesc code : Nat) : Nat :=
  if code == 0x04 then 4
  else if code == 0x03 && (seatRights s c .read kdesc || seatRights s c .read (kdesc + 64)) then 3
  else 2

/-- Gangs of the spawned grids of a function that wait for placement. -/
def spawnWaiting (s : State) (vf : Nat) : Nat :=
  (s.gangs.filter fun k => k.status == .queued && (getGrid s k.grid).any fun g =>
    g.vf == vf && (match g.owner with | .join _ => true | .command .. => false)).length

/-- A checked launch: the heaps and the grid, its teams in gangs, and the counter. -/
def spawnGrid (s : State) (c : Context) (r : RvCore) (n x : Nat) (d : KDesc) (key : Nat) : State × Nat :=
  let t := bitsN x 95 64
  if 1 + Config.spawnQueue ≤ spawnWaiting s c.vf then (s, 1)
  else
    match newGrid s c.vf c.asid d (.join key) (bitsN x 161 160) (bitsN x 127 96) (bitsN x 255 192) (bitsN x 159 128) t with
    | none => (s, 4)
    | some (s, g) =>
      let k := t * d.team
      let s := modGrid s g fun r => { r with first := t, joins := k }
      let s := addTeams s g d.entry (t / d.gang) d.gang (fun _ => rvArgs r n) true
      (bankWrite s c.asid key 8 ((getBytes s key 8 + k) % 2 ^ 64), 0)

/-- `xspawn` in a context: the state and its status. -/
def spawnCall (s : State) (c : Context) (r : RvCore) (n rs1 rs2 : Nat) : State × Nat :=
  if rs1 % 64 != 0 then (s, 2)
  else
    match seatRead s c false rs1 8 with
    | (s, none) => (s, addrStatus s c .read rs1)
    | (s, some x) =>
      if spawnReserved x then (s, 2)
      else if c.tag == 2 then (s, 4)
      else
        match fetchDesc s c (bitsN x 63 0) with
        | (s, .error code) => (s, descStatus s c (bitsN x 63 0) code)
        | (s, .ok d) =>
          if spawnShapeBad x d then (s, 4)
          else
            match counterKey s c .write rs2 with
            | (s, .error st) => (s, st)
            | (s, .ok key) => spawnGrid s ((getCtx s c.asid).getD c) r n x d key

/-- `xspawn rd, rs1, rs2` (R244). -/
def execXspawn (n : BitVec 4) (rs2 rs1 rd : BitVec 5) (s : State) : Host.Outcome State Fault Refusal :=
  withRv s fun c r =>
    match getCtx s r.asid with
    | none => rvEnd s c rd 3
    | some x =>
      let y := spawnCall s x r n.toNat (rvReg r rs1).toNat (rvReg r rs2).toNat
      rvEnd y.1 c rd y.2

/-! ## `xdisp` (R245) -/

/-- The lowest idle service core of a context other than the caller. The spec names no step by which a service core comes to
belong to a context: every one keeps the asid that `State.reset` gives it, which is the model's choice (log 108). -/
def idleCore (s : State) (asid caller : Nat) : Option Nat :=
  (List.range 32).find? fun i =>
    let r := getRv s i
    i != caller && r.asid == asid && !r.busy && !r.halted

/-- A core begins a task: its return address is 0. -/
def beginTask (r : RvCore) (pc : Nat) (args : List DWord) (key : Nat) : RvCore :=
  let x := args.zipIdx.foldl (fun x a => tput 0 x (10 + a.2) a.1) r.x
  { r with x := tput 0 x 1 0, pc := BitVec.ofNat 64 pc, busy := true, join := some key, stalled := false, reserve := none }

/-- `xdisp` in a context. rs1 is the address of the task's first RV64 instruction, as R245 says; Table 5.8 of R93 calls
it the address of the task descriptor, for which no layout is given (log 104). -/
def dispatchCall (s : State) (c : Context) (r : RvCore) (caller n rs1 rs2 : Nat) : State × Nat :=
  if rs1 % 2 != 0 then (s, 2)
  else
    match seatXlat s c false .fetch rs1 2 with
    | (s, none) => (s, addrStatus s c .fetch rs1)
    | (s, some _) =>
      match counterKey s c .write rs2 with
      | (s, .error st) => (s, st)
      | (s, .ok key) =>
        match idleCore s c.asid caller with
        | none => (s, 1)
        | some i =>
          let args := (List.range n).map fun j => tget 0 r.x (10 + j)
          let s := putRv s i (beginTask (getRv s i) rs1 args key)
          (bankWrite s c.asid key 8 ((getBytes s key 8 + 1) % 2 ^ 64), 0)

/-- `xdisp rd, rs1, rs2` (R245). -/
def execXdisp (n : BitVec 4) (rs2 rs1 rd : BitVec 5) (s : State) : Host.Outcome State Fault Refusal :=
  withRv s fun c r =>
    match rvContext s r with
    | .error st => rvEnd s c rd st
    | .ok x =>
      let y := dispatchCall s x r c n.toNat (rvReg r rs1).toNat (rvReg r rs2).toNat
      rvEnd y.1 c rd y.2

/-- XDISP_TASK_END (R245): the task has returned to address 0. -/
def execXdispTaskEnd (core : Nat) (s : State) : Host.Outcome State Fault Refusal :=
  let r := getRv s core
  if r.busy && r.pc == 0 then
    let s := putRv s core { r with busy := false, join := none }
    .next (match r.join with
      | some key => lowerJoin s key 1
      | none => s)
  else .next s

/-! ## `xjoin` and `xwaitc` (R246) -/

/-- Wait until a counter meets a condition: the core stays at the word until it does. -/
def counterWait (rs1 rd : BitVec 5) (ok : RvCore → Nat → Bool) (s : State) : Host.Outcome State Fault Refusal :=
  withRv s fun c r =>
    match rvContext s r with
    | .error st => rvEnd s c rd st
    | .ok x =>
      match counterKey s x .read (rvReg r rs1).toNat with
      | (s, .error st) => rvEnd s c rd st
      | (s, .ok key) => if ok r (getBytes s key 8) then rvEnd s c rd 0 else s

/-- `xjoin rd, rs1` (R246). -/
def execXjoin (rs1 rd : BitVec 5) (s : State) : Host.Outcome State Fault Refusal :=
  counterWait rs1 rd (fun _ v => v == 0) s

/-- `xwaitc rd, rs1, rs2` (R246). -/
def execXwaitc (rs2 rs1 rd : BitVec 5) (s : State) : Host.Outcome State Fault Refusal :=
  counterWait rs1 rd (fun r v => decide ((rvReg r rs2).toNat ≤ v)) s

/-- RESERVED_CUSTOM_0 (R94): the illegal-instruction exception and no other effect. -/
def execReservedCustom0 (core : Nat) (w : Word) (s : State) : Host.Outcome State Fault Refusal :=
  .next (rvIllegal s core (w.setWidth 64))

end Sys2Proof.Machine
end

