-- ==== Sys2Proof/Machine/Mail.lean ====
section
/-!
DEFINITION. The crew's mailboxes (R328, R329) and the updates of the multikernel (R315, R330, R331). The steps of the
seats put their messages into outbound buffers; MAILBOX_DOORBELL moves them.
-/

namespace Sys2Proof.Machine

/-! ## Sending -/

/-- The box of a message: a seat's number, or 16 and the instance that PAY names for DST 9. -/
def mailBoxOf (m : Mail) : Nat := if m.dst == 9 then 16 + bitsN m.pay.toNat 3 0 else m.dst.toNat

/-- The messages in a box. -/
def mailAt (s : State) (b : Nat) : List Mail := tget [] s.mail b

/-- The sender of a message: a seat's number, or 16 and the instance that PAY names for SRC 9. -/
def mailFrom (m : Mail) : Nat := if m.src == 9 then 16 + bitsN m.pay.toNat 3 0 else m.src.toNat

/-- The buffer of a message: its sender's for its receiver. -/
def bufferOf (m : Mail) : Nat := mailFrom m * 64 + mailBoxOf m

/-- MAILBOX_DOORBELL (R328): the message is queued and the doorbell of its buffer reads back 0, or the mailbox of 32
entries is full and it reads back 1. An arrival at an empty mailbox raises the seat's interrupt. -/
def execMailboxDoorbell (m : Mail) (s : State) : Host.Outcome State Fault Refusal :=
  let b := mailBoxOf m
  let q := mailAt s b
  if 32 ≤ q.length then .next { s with doorbell := tput 0 s.doorbell (bufferOf m) 1 }
  else
    .next { s with doorbell := tput 0 s.doorbell (bufferOf m) 0, mail := tput [] s.mail b (q ++ [m]), outbox := s.outbox.erase m,
                   mailInt := if q.isEmpty && !s.mailInt.contains b then s.mailInt ++ [b] else s.mailInt }

/-! ## Receiving -/

/-- A receiver has taken the oldest message of its box; the interrupt bit falls with the last one. -/
def popMail (s : State) (b : Nat) : State :=
  let q := (mailAt s b).drop 1
  { s with mail := tput [] s.mail b q, mailInt := if q.isEmpty then s.mailInt.filter (· != b) else s.mailInt }

/-- The oldest message of a box has a type. -/
def mailIs (s : State) (b type : Nat) : Bool := ((mailAt s b).head?).any fun m => m.type.toNat == type

/-- A receiver answers its messages: a seat, or an instance of the live set (R331). -/
def answers (s : State) (b : Nat) : Bool := b < 16 || s.liveInst.contains (b - 16)

/-- A receiver takes a message of a type from its box. -/
def takeMail (s : State) (b type : Nat) : State := if answers s b && mailIs s b type then popMail s b else s

/-- Types of Table 20.9 that a box receives; a NAK comes to any. -/
def mailTypes (b : Nat) : List Nat :=
  if b == 1 then [0x05, 0xFF] else if b == 2 then [0x01, 0x03, 0x04, 0xFF] else if b == 3 then [0x02, 0x20, 0x50, 0xFF]
  else if b == 4 then [0x10, 0xFF] else if b == 5 || b == 6 then [0x30, 0xFF] else if b == 7 then [0xFF]
  else if b == 8 then [0x50, 0xFF] else [0x20, 0x40, 0xFF]

/-- MSG_COMMAND_TAKEN (R329). -/
def execMsgCommandTaken (s : State) : Host.Outcome State Fault Refusal := .next (takeMail s 2 0x01)
/-- MSG_SEED_GANG_READY (R329). -/
def execMsgSeedGangReady (s : State) : Host.Outcome State Fault Refusal := .next (takeMail s 3 0x02)
/-- MSG_GANG_PLACED (R329). -/
def execMsgGangPlaced (s : State) : Host.Outcome State Fault Refusal := .next (takeMail s 2 0x03)
/-- MSG_TEAM_OR_GANG_RETIRED (R329). -/
def execMsgTeamOrGangRetired (s : State) : Host.Outcome State Fault Refusal := .next (takeMail s 2 0x04)
/-- MSG_COMMAND_FINISHED (R329). -/
def execMsgCommandFinished (s : State) : Host.Outcome State Fault Refusal := .next (takeMail s 1 0x05)
/-- MSG_ERROR_REPORT (R329). -/
def execMsgErrorReport (s : State) : Host.Outcome State Fault Refusal := .next (takeMail s 4 0x10)
/-- MSG_PAGE_HOME (R329): at seat 3, or at instance `seat` − 16. -/
def execMsgPageHome (seat : Nat) (s : State) : Host.Outcome State Fault Refusal := .next (takeMail s seat 0x20)
/-- MSG_KEY_SLOT (R329): at seat 5 or 6. -/
def execMsgKeySlot (seat : Nat) (s : State) : Host.Outcome State Fault Refusal := .next (takeMail s seat 0x30)
/-- MSG_CLOCK_POWER_BUDGET (R395): at an instance. -/
def execMsgClockPowerBudget (inst : Nat) (s : State) : Host.Outcome State Fault Refusal :=
  .next (takeMail s (16 + inst) 0x40)
/-- MSG_CHECKPOINT_STEP (R329): at seat 8 or 3. -/
def execMsgCheckpointStep (seat : Nat) (s : State) : Host.Outcome State Fault Refusal := .next (takeMail s seat 0x50)

/-- NAK (R329): a message of a type that its receiver does not know is answered with NAK, carrying its SEQ, and has no
other effect; a NAK itself is taken. -/
def execNak (seat : Nat) (s : State) : Host.Outcome State Fault Refusal :=
  match (mailAt s seat).head? with
  | none => .next s
  | some m =>
    if !answers s seat then .next s
    else if m.type == 0xFF then .next (popMail s seat)
    else if (mailTypes seat).contains m.type.toNat then .next s
    else
      let r : Mail := { type := 0xFF, src := BitVec.ofNat 4 (partyField seat), dst := m.src, seq := m.seq, ctxid := 0,
                        pay := BitVec.ofNat 192 ((partyInst seat (mailFrom m)).getD 0) }
      let s := popMail s seat
      .next { s with outbox := s.outbox ++ [r] }

/-! ## The multikernel (R330, R331) -/

/-- The oldest update of a home that an instance has not acknowledged. -/
def nextUpdate (s : State) (home inst : Nat) : Option Update :=
  s.updates.find? fun u => u.home == home && !u.acks.contains inst

/-- Every live instance has acknowledged an update. -/
def updateDone (s : State) (u : Update) : Bool := s.liveInst.all u.acks.contains

/-- Updates that every live instance has acknowledged are committed, in the order of their home (R330): the home acts
on the new value. -/
def commitUpdates (us : List Update) (s : State) : State :=
  us.foldl (fun s u => if updateDone s u then applyReplica s u.vf u.obj else s) s

/-- Commit what can be committed. -/
def settleUpdates (s : State) : State :=
  let s' := commitUpdates s.updates s
  { s' with updates := s'.updates.filter fun u => !updateDone s u }

/-- MULTIKERNEL_UPDATE (R330): a live instance applies the home's next update and acknowledges it. -/
def execMultikernelUpdate (home inst : Nat) (s : State) : Host.Outcome State Fault Refusal :=
  if !s.liveInst.contains inst then .next s
  else
    match nextUpdate s home inst with
    | none => .next s
    | some u =>
      let s := { s with updates := s.updates.map fun w => if w == u then { w with acks := w.acks ++ [inst] } else w }
      .next (settleUpdates s)

/-- An instance leaves the live set; updates wait for it no longer (R331). -/
def dropInstance (s : State) (inst : Nat) : State :=
  settleUpdates { s with liveInst := s.liveInst.filter (· != inst) }

/-- An instance rejoins with every home's current values: the updates on their way count for it (R331). -/
def joinInstance (s : State) (inst : Nat) : State :=
  if s.liveInst.contains inst then s
  else
    { s with liveInst := s.liveInst ++ [inst],
             updates := s.updates.map fun u => if u.acks.contains inst then u else { u with acks := u.acks ++ [inst] } }

end Sys2Proof.Machine
end

