-- ==== Sys2Proof/Machine/Placement.lean ====
section
/-!
DEFINITION. Where gangs stand: the resources of a core (R14, R19, R290, R291), what a quad can take (R294), the
placement queue (R292, R293), and the heats of the regatta plane (R230 to R233).
-/

namespace Sys2Proof.Machine

/-! ## What stands on a core (Table 14.1) -/

/-- A gang holds its cores (R299, R348). -/
def holdsCores (k : Gang) : Bool := k.status == .resident || k.status == .stopping

/-- A team holds its core, or its pair: its gang does. -/
def teamHolds (s : State) (t : Team) : Bool := t.resident && (getGang s t.gang).any holdsCores

/-- A place in the slot rows of a core: row, first lane, lanes, registers per thread. -/
structure Seat where
  row   : Nat
  base  : Nat
  width : Nat
  regs  : Nat
  deriving DecidableEq, Repr

/-- The kernel of a team. -/
def teamDesc (s : State) (t : Team) : Option KDesc := (getGrid s t.grid).map (·.desc)

/-- Places taken on a core: those of groups on its slot rows (pontoon slots are none of them), and every register of a
fenced lane, so that placement goes around it (R6). -/
def seatsOn (s : State) (die core : Nat) : List Seat :=
  ((fencedLanes s die core).map fun l => ⟨0, l, 1, 2048⟩) ++ s.groups.filterMap fun g =>
    if g.die == die && g.core == core && g.slot < 32 then
      (getTeam s g.tid).bind fun t =>
        if teamHolds s t then (teamDesc s t).map fun d => ⟨g.slot, g.base, g.width, regGranules d.regs⟩ else none
    else none

/-- Teams that take from a core. -/
def teamsOn (s : State) (die core : Nat) : List (Team × KDesc) :=
  s.teams.filterMap fun t =>
    if t.die == die && teamHolds s t then
      (teamDesc s t).bind fun d => if t.core == core || (d.paired && t.core + 1 == core) then some (t, d) else none
    else none

/-- Scratch bytes that a team takes from one core, in granules of 4 KiB. -/
def scratchTake (d : KDesc) : Nat := (d.scratch * 128 / teamCores d + 4095) / 4096 * 4096

/-- Scratch bytes of a core. -/
def coreScratch (die : Nat) : Nat := if die < 4 then 524288 else 262144

/-- A core has a team's share of scratch, tile entries, team contexts and sequencer contexts free. A paired team takes a team
context, and with a stream a sequencer context, on each core of its pair: the model's choice (log 57). -/
def shareFree (s : State) (die core : Nat) (d : KDesc) : Bool :=
  let ts := teamsOn s die core
  (ts.map fun x => scratchTake x.2).sum + scratchTake d ≤ coreScratch die &&
  (ts.map fun x => x.2.tiles.length).sum + d.tiles.length ≤ 64 &&
  ts.length + 1 ≤ 8 &&
  (d.stream == 0 || (ts.filter fun x => x.2.stream != 0).length + 1 ≤ 4)

/-! ## Slot rows -/

/-- Two places share a lane. -/
def lanesMeet (u : Seat) (b w : Nat) : Bool := u.base < b + w && b < u.base + u.width

/-- A row has lanes b to b + w − 1 free. -/
def rowFree (us : List Seat) (row b w : Nat) : Bool := us.all fun u => u.row != row || !lanesMeet u b w

/-- Every lane from b to b + w − 1 has `n` registers left of its 2,048. -/
def regsFree (us : List Seat) (b w n : Nat) : Bool :=
  (List.range w).all fun i => ((us.filter fun u => lanesMeet u (b + i) 1).map (·.regs)).sum + n ≤ 2048

/-- Places that a group of width w can take, by row and then by lane. -/
def seatChoices (us : List Seat) (w n : Nat) : List Seat :=
  (List.range 32).flatMap fun row => (List.range (64 / w)).filterMap fun i =>
    if rowFree us row (i * w) w && regsFree us (i * w) w n then some ⟨row, i * w, w, n⟩ else none

/-- Take places for `m` groups; which of the free ones is the device's choice (log 5). -/
def takeSeats (w n : Nat) : Nat → State → List Seat → Option (State × List Seat)
  | 0, s, _ => some (s, [])
  | m + 1, s, us =>
    match seatChoices us w n with
    | [] => none
    | c :: cs =>
      let r := takeFree s
      let x := ((c :: cs)[r.2 % (cs.length + 1)]?).getD c
      (takeSeats w n m r.1 (us ++ [x])).map fun y => (y.1, x :: y.2)

/-- Groups of a team that a core of its pair holds: even ones on the even core (R290). -/
def groupsOn (d : KDesc) (core : Nat) : List Nat :=
  (List.range d.team).filter fun i => !d.paired || i % 2 == core % 2

/-- A core can take its share of a team. -/
def coreFits (s : State) (die core : Nat) (d : KDesc) : Bool :=
  shareFree s die core d &&
  (takeSeats d.width (regGranules d.regs) (groupsOn d core).length s (seatsOn s die core)).isSome

/-! ## Quads (R294) -/

/-- The first core of team i of a gang that starts at core `c`. -/
def teamCore (d : KDesc) (c i : Nat) : Nat := c + i * teamCores d

/-- A gang of `n` teams can start at core `c` of quad `j`. -/
def startFits (s : State) (die j c : Nat) (d : KDesc) (n : Nat) : Bool :=
  (!d.paired || c % 2 == 0) && c + n * teamCores d ≤ 4 * j + 4 &&
  (List.range (n * teamCores d)).all fun i => coreServes s die (c + i) && coreFits s die (c + i) d

/-- The least start of a gang in a quad. -/
def quadStart (s : State) (die j : Nat) (d : KDesc) (n : Nat) : Option Nat :=
  ((List.range 4).map (4 * j + ·)).find? fun c => startFits s die j c d n

/-- Live teams of a gang. -/
def liveTeams (s : State) (k : Gang) : List Team := s.teams.filter fun t => k.teams.contains t.tid && !t.retired

/-- Quads of a function on a die that can take a gang. -/
def ableQuads (s : State) (f : VFunc) (die : Nat) (d : KDesc) (n : Nat) : List Nat :=
  (funcQuads f die).filter fun j => (quadStart s die j d n).isSome

/-- A quad's load (R229, R294). -/
def quadLoad (s : State) (die j : Nat) : Nat := ((List.range 4).map fun i => coreLoad s die (4 * j + i)).sum

/-- The able quad of least load, ties to the lower number. -/
def bestQuad (s : State) (die : Nat) : List Nat → Option Nat
  | [] => none
  | j :: js =>
    match bestQuad s die js with
    | none => some j
    | some x => if quadLoad s die j ≤ quadLoad s die x then some j else some x

/-- A die runs its compute domain. -/
def dieUp (s : State) (die : Nat) : Bool := (getDie s die).alive && !(getDie s die).resetting

/-- A die may take a gang: the placement mask, and for a restored gang the mask of its command and the classes of its
image (R293, R350). -/
def dieAllowed (s : State) (f : VFunc) (k : Gang) (d : KDesc) (die : Nat) : Bool :=
  maskAllows f die && dieUp s die &&
  match k.status with
  | .restoring m => m.testBit die && (die < 4 || d.scratch * 128 ≤ 262144)
  | _ => true

/-- A die's free capacity for a gang (R293). -/
def freeCapacity (s : State) (f : VFunc) (gang die : Nat) : Nat :=
  match getGang s gang with
  | none => 0
  | some k =>
    match getGrid s k.grid with
    | none => 0
    | some g =>
      if dieAllowed s f k g.desc die then (ableQuads s f die g.desc (liveTeams s k).length).length else 0

/-! ## A gang comes onto its cores -/

/-- A thread of a new group: it stands at its entry header (R13, R17, R32). -/
def newThread (entry lane : Nat) : Thread :=
  { lane := lane, v := [], p := 1, sp := [], pc := entry, hdr := entry, hword := 0, status := .header, stall := none,
    arrival := .entry, fpstat := 0, trcause := 0, trpc := 0, handler := false, trHdr := 0, trHword := 0, trIn := false,
    trArr := .entry, seqResume := none, poison := none, spBack := none, reads := 0, lastIssue := 0, yielded := false, holdWords := 0, keep := 1024 }

/-- Uniform registers of a new group: s0 to s15 from the arguments (R17). -/
def argRegs (args : List Word) : List (Nat × Word) := args.zipIdx.foldl (fun u a => tput 0 u a.2 a.1) []

/-- Group `index` of a new team. -/
def newGroup (s : State) (t : Team) (d : KDesc) (die core index : Nat) (x : Seat) : Group :=
  { gid := s.nextId, tid := t.tid, index := index, width := d.width, die := die, core := core, slot := x.row, base := x.base,
    threads := (List.range d.width).map (newThread t.entry), u := argRegs t.args, flags := [], stack := [], ops := [],
    rot := 0, mbArr := [], mbRet := [], words := 0, limit := 0,
    born := (getDie s die).cyc, since := none, aged := none, passed := 0, ship := none,
    crossFree := [], retired := false }

/-- The groups of a new team on one core. -/
def addGroups (t : Team) (d : KDesc) (die core : Nat) : List (Nat × Seat) → State → State
  | [], s => s
  | (i, x) :: rest, s =>
    addGroups t d die core rest { s with nextId := s.nextId + 1, groups := s.groups ++ [newGroup s t d die core i x] }

/-- A thread that had been released from its hold arrives at its header anew (R73). -/
def reenter (t : Thread) : Thread :=
  match t.arrival with
  | .released fell => { t with status := .header, arrival := if fell then .fall else .entry }
  | _ => { t with status := .header }

/-- A thread resumes from an image (R73 to R75, R77): at its header anew, as it had come there (R60), or at the
instruction where it stalled; registers that were not saved read 0. -/
def resumeThread (t : Thread) : Thread :=
  let t := { t with v := t.v.filter fun r => r.1 < t.keep, keep := 1024, holdWords := 0, yielded := false, stall := none }
  match t.status with
  | .stopped false => reenter t
  | .stopped true => { t with status := .block }
  | _ => t

/-- A group of an image at its new place. -/
def resumeGroup (s : State) (die core : Nat) (x : Seat) (g : Group) : Group :=
  { g with die := die, core := core, slot := x.row, base := x.base, threads := g.threads.map resumeThread, flags := [],
           words := 0, limit := 0, born := (getDie s die).cyc, since := none, aged := none, passed := 0, ship := none, crossFree := [] }

/-- One core's share of a team is set up. -/
def placeShare (s : State) (t : Team) (d : KDesc) (die core : Nat) (saved : List Group) : State :=
  match takeSeats d.width (regGranules d.regs) (groupsOn d core).length s (seatsOn s die core) with
  | none => s
  | some (s, xs) =>
    let ix := (groupsOn d core).zip xs
    if saved.isEmpty then addGroups t d die core ix s
    else
      { s with groups := s.groups ++ ix.filterMap fun y =>
          (saved.find? fun g => g.tid == t.tid && g.index == y.1).map (resumeGroup s die core y.2) }

/-- The sequencer of a team after restore (R217 to R219). -/
def resumeSeq (q : Sequencer) : Sequencer :=
  match q.status with
  | .stopped => { q with status := .running }
  | _ => q

/-- One team comes onto its core or pair; kick entries of a pair keep their core of it, and come into its queue as it has
room (R186, R197; `refillKicks`). -/
def placeTeam (s : State) (t : Team) (d : KDesc) (die core : Nat) (saved : List Group) : State :=
  let s := (List.range (teamCores d)).foldl (fun s i => placeShare s t d die (core + i) saved) s
  modTeam s t.tid fun t =>
    { t with die := die, core := core, resident := true, seq := resumeSeq t.seq,
             kicks := t.kicks.map fun e => { e with core := core + (e.core - t.core) } }

/-- Groups that the latest image of a gang holds. -/
def savedGroups (s : State) (k : Gang) : List Group :=
  match s.images.find? fun x => x.1 == k.key && x.2.1 + 1 == k.epoch with
  | some x => x.2.2.1
  | none => []

/-- The gang takes its cores on a die (R293, R294): all of its teams, in one die cycle (R323). -/
def grantGang (s : State) (gang die : Nat) : State :=
  match getGang s gang with
  | none => s
  | some k =>
    match getGrid s k.grid with
    | none => s
    | some g =>
      match getFunc s g.vf with
      | none => s
      | some f =>
        let ts := liveTeams s k
        match bestQuad s die (ableQuads s f die g.desc ts.length) with
        | none => s
        | some j =>
          match quadStart s die j g.desc ts.length with
          | none => s
          | some c =>
            let saved := match k.status with | .restoring _ => savedGroups s k | _ => []
            let s := ensureCmn s g.key die
            let s := modGang s gang fun k => { k with status := .resident, die := die, core := c, halted := false }
            let s := ts.zipIdx.foldl (fun s t => placeTeam s t.1 g.desc die (teamCore g.desc c t.2) saved) s
            let s := modFunc s g.vf fun f => { f with placement := f.placement.filter (· != gang) }
            let s := { s with dies := s.dies.map fun d => { d with enq := d.enq.filter (· != gang) } }
            postMail s 0x03 3 2 g.asid [die, j, c]

/-! ## The placement queue (R292, R293) -/

/-- A placement heat of a gang is waiting or runs. -/
def placementPending (s : State) (gang : Nat) : Bool :=
  s.rlanes.any fun r => r.waiting.any (·.who == .placement gang) ||
    r.run.any fun h => h.entrants.any (·.who == .placement gang)

/-- A request of a duty about a gang stands at the host. -/
def dutyPending (f : VFunc) (duty subject extra : Nat) : Bool :=
  f.duties.any fun d => d.duty == duty && d.subject == subject && d.extra == extra

/-- The entry of a die's work distributor. -/
def placementEntry (f : VFunc) (gang die cap : Nat) : Entry :=
  { who := .placement gang, ident := heatIdent f.vf 0xF0, cid := 0xF0, key := cap % 2 ^ 48, die := die, core := 0xFF,
    slot := 0, lane := 0 }

/-- What the host receives for a placement: the free capacity of each die (Table 20.10). -/
def placeBody (s : State) (f : VFunc) (gang : Nat) : List Nat := computeDies.map (freeCapacity s f gang)

/-- The entries of the dies that can take a gang as things stand. -/
def placementEntries (s : State) (f : VFunc) (gang : Nat) : List Entry :=
  (computeDies.filter fun d => freeCapacity s f gang d != 0).map fun d => placementEntry f gang d (freeCapacity s f gang d)

/-- GANG_PLACEMENT (R292, R293): the gang at the head of a function's queue is offered to the dies that can take it, by
a heat, or to the host where PLACE is set (R332). -/
def execGangPlacement (vf : Nat) (s : State) : Host.Outcome State Fault Refusal :=
  match getFunc s vf with
  | none => .next s
  | some f =>
    match f.placement.head? with
    | none => .next s
    | some k =>
      let xs := placementEntries s f k
      if xs.isEmpty || placementPending s k || dutyPending f 1 k 0 then .next s
      else if dutyBit f 1 then .next (postDuty s vf 1 k 0 (placeBody s f k))
      else .next (xs.foldl (fun t x => register t 0 x) s)

/-! ## Heats -/

/-- The gang of a placement entry. -/
def placementGang (x : Entry) : Option Nat :=
  match x.who with
  | .placement k => some k
  | _ => none

/-- Who drives at bit time 0: the registered contenders, and for each gang that waits for a placement the dies that can
take it now, each with its free capacity now (R293). -/
def entriesNow (s : State) (ws : List Entry) : List Entry :=
  (ws.filter fun x => (placementGang x).isNone) ++ (ws.filterMap placementGang).dedup.flatMap fun k =>
    match ((getGang s k).bind fun g => getGrid s g.grid).bind fun g => getFunc s g.vf with
    | none => []
    | some f => placementEntries s f k

/-- Rank of an identifier after the last winner w (R230, R231). -/
def identRank (w i : Nat) : Nat := (i + 256 - (w + 1) % 256) % 256

/-- The identifier that wins the identifier phase. -/
def winIdent (w : Nat) : List Nat → Option Nat
  | [] => none
  | i :: is =>
    match winIdent w is with
    | none => some i
    | some x => if identRank w i ≤ identRank w x then some i else some x

/-- The first bit of the identifier phase, counted from its highest, in which rank `a` drives 0 where the lower rank `b`
drives 1. -/
def loseBit (a b : Nat) : Nat :=
  ((List.range 8).find? fun j => !(255 - a).testBit (7 - j) && (255 - b).testBit (7 - j)).getD 7

/-- The bit time in which a die that drives only identifiers that lose reads that it has lost (R231). -/
def identWithdraws (w i : Nat) (losers : List Entry) (die : Nat) : Nat :=
  1 + loseBit (((losers.filter (·.die == die)).map fun x => identRank w x.ident).foldl min 255) (identRank w i)

/-- HEAT_START (R230, R231): bit time 0 on an idle lane, with the contenders of the identifier that wins. -/
def execHeatStart (lane : Nat) (s : State) : Host.Outcome State Fault Refusal :=
  match s.rlanes[lane]? with
  | none => .next s
  | some r =>
    if r.run.isSome then .next s
    else
      let ws := entriesNow s r.waiting
      match winIdent r.w (ws.map (·.ident)) with
      | none => .next { s with rlanes := s.rlanes.modify lane fun r => { r with waiting := ws } }
      | some i =>
        let h : HeatRun := { entrants := ws.filter (·.ident == i), ident := i, end_ := s.cox + 112, void := false,
                             losers := ws.filter (·.ident != i) }
        .next { s with rlanes := s.rlanes.modify lane fun r => { r with waiting := ws.filter (·.ident != i), run := some h } }

/-- An entry beats another: key, die, core; within one core the lower slot and then the lower lane (R231). -/
def entryBeats (a b : Entry) : Bool :=
  let v (x : Entry) := (x.key * 16 + x.die) * 256 + x.core
  v b < v a || (v a == v b && (a.slot < b.slot || (a.slot == b.slot && a.lane ≤ b.lane)))

/-- The winner of a heat. -/
def heatWinner : List Entry → Option Entry
  | [] => none
  | x :: xs =>
    match heatWinner xs with
    | none => some x
    | some y => if entryBeats x y then some x else some y

/-- The value that every contender receives (R232). -/
def heatValue (w : Entry) : Nat := w.key % 2 ^ 48 * 2 ^ 12 + w.die % 16 * 2 ^ 8 + w.core % 256

/-- A lane receives the result of its heat, and its `contend` retires. -/
def giveResult (s : State) (w : Entry) (gid lane : Nat) (d : Reg) (p : PredIx) (won : Bool) : State :=
  match env s gid, getLane s gid lane with
  | some e, some t =>
    if t.stall == some .heat then
      let s := modLane s gid lane fun t => nextWord (wrPred (wrRegs { t with spBack := none } (pairRegs d.toNat (heatValue w))) p won)
      countEvent (countEvent s e.ctx.asid 4 1) e.ctx.asid 0 1
    else s
  | _, _ => s

/-- One entrant at bit time 69. -/
def deliver (s : State) (lane : Nat) (w x : Entry) : State :=
  match x.who with
  | .thread gid l _ d p => giveResult s w gid l d p (x == w)
  | .placement k => if x == w then grantGang s k x.die else s
  | .rekey st =>
    if x.key == w.key then
      { s with streams := modBy (·.id == st) (fun y => { y with drain := some s.cox, draining := true }) s.streams }
    else register s lane x

/-- HEAT_RESULT (R232, R233, R293): at bit time 69 the winner is latched and delivered; after a void heat every
surviving contender registers anew, and w stays. -/
def execHeatResult (lane : Nat) (s : State) : Host.Outcome State Fault Refusal :=
  match s.rlanes[lane]? with
  | none => .next s
  | some r =>
    match r.run with
    | none => .next s
    | some h =>
      if s.cox < h.end_ then .next s
      else
        let clear (w : Nat) (s : State) := { s with rlanes := s.rlanes.modify lane fun r => { r with run := none, w := w } }
        if h.void then .next (h.entrants.foldl (fun s x => register s lane x) (clear r.w s))
        else
          match heatWinner h.entrants with
          | none => .next (clear r.w s)
          | some w => .next (h.entrants.foldl (fun s x => deliver s lane w x) (clear h.ident s))

end Sys2Proof.Machine
end

