-- ==== Sys2Proof/Machine/Retire.lean ====
section
/-!
DEFINITION. The events of running groups (R76, R295, R298), fault records and the handler's entry (R241, R341 to R345),
and retirement (R299 to R301).
-/

namespace Sys2Proof.Machine

/-! ## Holds, age and the limits of pre-emption -/

/-- Threads held by an entry have stood there for 1,024 words of the group (R298). -/
def entryOverdue (g : Group) (e : RcEntry) : Bool :=
  let hs := g.threads.filter (heldBy e)
  !hs.isEmpty && hs.all fun t => 1024 ≤ t.holdWords

/-- PROGRESS_RULE_RELEASE (R298): overdue holds of a group are released, and an overdue cross-lane word may issue. -/
def execProgressRuleRelease (gid : Nat) (s : State) : Host.Outcome State Fault Refusal :=
  match getGroup s gid with
  | none => .next s
  | some g =>
    let g := g.stack.foldl (fun g e => if entryOverdue g e then releaseEntry g e else g) g
    let pcs := (g.threads.filter fun t => t.stall == some .cross && 1024 ≤ t.holdWords).map (·.pc)
    .next (settleGroup (modGroup s gid fun _ => freeCross pcs.dedup g) gid)

/-- The mark of a group that has stood ready for 256 die cycles without a slot: the cycle in which it reached them
(R295, rule 1). -/
def ageMark (cycle : Nat) (g : Group) : Group :=
  match g.since with
  | some c => if c + 256 ≤ cycle then { g with aged := some (c + 256) } else g
  | none => g

/-- ISSUE_AGE_LIMIT (R295, R297): from then on the group comes before every other that has not reached its limit. -/
def execIssueAgeLimit (gid : Nat) (s : State) : Host.Outcome State Fault Refusal :=
  .next (modGroup s gid fun g => ageMark (getDie s g.die).cyc g)

/-- PREEMPT_WORD_LIMIT (R76): from 65,536 words on, threads are taken at ordinary headers too. -/
def execPreemptWordLimit (gid : Nat) (s : State) : Host.Outcome State Fault Refusal :=
  .next (modGroup s gid fun g =>
    if preemptPending s g && 65536 ≤ g.words then { g with limit := max g.limit 1 } else g)

/-- PREEMPT_SECOND_LIMIT (R76): from 69,632 words on, threads are taken at any header. -/
def execPreemptSecondLimit (gid : Nat) (s : State) : Host.Outcome State Fault Refusal :=
  .next (modGroup s gid fun g =>
    if preemptPending s g && 69632 ≤ g.words then { g with limit := max g.limit 2 } else g)

/-! ## Fault records (R341 to R343) -/

/-- The low 512 bits of an entry of Table 21.3, in clear. -/
def recordClear (r : FaultRec) : Nat :=
  let aov : Bool := r.addr < 0 || (2 ^ 64 : Int) ≤ r.addr
  r.cox % 2 ^ 64 + 2 ^ 96 * (r.level % 16) + 2 ^ 100 * (r.info % 2 ^ 16) + 2 ^ 116 * (r.src % 8) +
  2 ^ 119 * r.repl.toNat + 2 ^ 120 * r.nested.toNat + 2 ^ 121 * aov.toNat + 2 ^ 122 * (r.lane % 64) +
  2 ^ 128 * (r.sub % 256) + 2 ^ 136 * (r.cls % 256) + 2 ^ 144 * (r.pc % 2 ^ 48) + 2 ^ 192 * zextI r.addr 64 +
  2 ^ 304 * (r.group % 256) + 2 ^ 312 * (r.team % 2 ^ 24) + 2 ^ 336 * (r.reconv % 2 ^ 48) +
  2 ^ 384 * (r.parked % 2 ^ 64) + 2 ^ 448 * (r.active % 2 ^ 64)

/-- An entry of the fault queue as it stands in memory: record `seq` of a context. -/
def recordEntry (c : Context) (seq : Nat) (r : FaultRec) : Nat :=
  let text := recordClear r
  let aad := seq % 2 ^ 64 + 2 ^ 64 * (r.synt % 2 ^ 64)
  let nonce := c.asid % 2 ^ 16 * 2 ^ 80 + seq % 2 ^ 64
  let x := gcmCipher c.ck nonce text 512
  x + 2 ^ 512 * aad + 2 ^ 640 * gcmTag c.ck nonce x aad

/-- A record enters the fault queue at TAIL, or DROP rises where it is full (R341); whether it was written. -/
def queueRecord (s : State) (c : Context) (r : FaultRec) : State × Bool :=
  match seatRead s c false c.fqAddr 4 with
  | (s, none) => (s, false)
  | (s, some x) =>
    let head := bitsN x 63 0
    let tail := bitsN x 127 64
    let drop := bitsN x 255 192
    if (tail + 2 ^ 64 - head) % 2 ^ 64 == 2 ^ c.fqLog2 then
      (seatWrite c false (c.fqAddr + 24) [(drop + 1) % 2 ^ 64] s, false)
    else
      let s := seatWrite c false (c.fqAddr + 128 + 96 * (tail % 2 ^ c.fqLog2)) (numQuads 12 (recordEntry c c.seq r)) s
      (seatWrite c false (c.fqAddr + 8) [(tail + 1) % 2 ^ 64] s, true)

/-- KIND of a record's summary (R343). -/
def recordKind (r : FaultRec) : Nat := if r.src == 0 then 0 else if r.src == 1 then 2 else 1

/-- A parked lane has its record, written or dropped (R241, R341). -/
def markLane (t : Thread) : Thread :=
  match t.status with
  | .parked cls info _ hdr => { t with status := .parked cls info true hdr }
  | _ => t

/-- The record's lane or sequencer has its record (R241, R345, R346). -/
def markWritten (s : State) (r : FaultRec) : State :=
  match r.seqOf with
  | some tid =>
    modTeam s tid fun t =>
      match t.seq.status with
      | .faulted x _ => { t with seq := { t.seq with status := .faulted x true } }
      | _ => t
  | none =>
    match r.gid with
    | none => s
    | some gid =>
      let s := if r.nested then s else modLane s gid r.lane markLane
      match env s gid with
      | none => s
      | some e => settleGroup (takeExits s e [r.lane]) gid

/-- FAULT_RECORD_WRITE (R341 to R343): the oldest record of a context; event 6 of Table 11.6, one for a record that is
written; the summary; the report to seat 4. -/
def execFaultRecordWrite (asid : Nat) (s : State) : Host.Outcome State Fault Refusal :=
  match getCtx s asid with
  | none => .next s
  | some c =>
    match c.pending with
    | [] => .next s
    | r :: rest =>
      let w := queueRecord s c r
      let s := modCtx w.1 asid fun c => { c with pending := rest, seq := c.seq + 1 }
      let s := if w.2 then countEvent s asid 6 1 else s
      let s := addSummary s c.vf { cox := r.cox, asid := asid, cls := r.cls, kind := recordKind r, die := r.die }
      let s := postMail s 0x10 (16 + r.die) 4 asid [r.cls, r.die, r.cox]
      .next (markWritten s r)

/-! ## Entering the handler (R241) -/

/-- A lane stands parked with its record written. -/
def readyToEnter (t : Thread) : Bool :=
  match t.status with
  | .parked _ _ done _ => done
  | _ => false

/-- HANDLER_ENTRY (R241, R345): the parked lanes of a group whose records are written enter together, or exit where
%trvec is 0. -/
def execHandlerEntry (gid : Nat) (s : State) : Host.Outcome State Fault Refusal :=
  match env s gid with
  | none => .next s
  | some e =>
    let ls := (e.group.threads.filter readyToEnter).map (·.lane)
    if ls.isEmpty || preemptPending s e.group || e.group.threads.any (·.handler) || !othersMeet e.group ls then .next s
    else if e.ctx.trvec == 0 then
      let s := ls.foldl (fun s l => modLane s gid l (endLane false)) s
      .next (settleGroup (takeExits s e ls) gid)
    else .next (ls.foldl (fun s l => modLane s gid l (enterHandler e.ctx.trvec)) s)

/-! ## Retirement (R299) -/

/-- The groups of a team. -/
def teamGroups (s : State) (tid : Nat) : List Group := s.groups.filter (·.tid == tid)

/-- The stream of a team has ended, or stopped on a fault whose handler does not restart it (R198, R345). -/
def streamDone (q : Sequencer) : Bool :=
  match q.status with
  | .ended | .faulted .. => true
  | _ => false

/-- A team has copies or requests that have not counted (R299). -/
def copiesLeft (s : State) (tid : Nat) : Bool := s.transfers.any (·.tid == tid) || s.requests.any (·.tid == tid)

/-- A team may retire. -/
def teamDone (s : State) (t : Team) : Bool :=
  t.resident && !t.retired && (teamGroups s t.tid).all (·.retired) && streamDone t.seq && !copiesLeft s t.tid

/-- GSTAT with a code, BUSY clear (Table 21.5). -/
def gangCode (s : State) (code : Nat) : State := { s with pf := { s.pf with gbusy := false, gcode := code } }

/-- A pre-emption that the operator asked for ends without an image: the gang is not resident any more (log 98). -/
def dropRequest (s : State) (k : Gang) : State :=
  match k.cause with
  | .image .. | .move .. => if k.status == .stopping then gangCode s 2 else s
  | _ => s

/-- A gang whose last team has retired returns its resources (R299). -/
def retireGang (s : State) (gang : Nat) : State :=
  match getGang s gang with
  | none => s
  | some k =>
    if (liveTeams s k).isEmpty then
      let s := modGang (dropRequest s k) gang fun k => { k with status := .retired }
      { s with teams := s.teams.map fun t => if k.teams.contains t.tid then { t with resident := false } else t }
    else s

/-- Kick entries of a team leave their queues. -/
def dropKicks (s : State) (tid : Nat) : State :=
  { s with dies := s.dies.map fun d => { d with kicks := d.kicks.filter (·.tid != tid) } }

/-- TEAM_RETIREMENT (R299): SPAWN falls by one; with the last team its gang retires. -/
def execTeamRetirement (tid : Nat) (s : State) : Host.Outcome State Fault Refusal :=
  match getTeam s tid with
  | none => .next s
  | some t =>
    if teamDone s t then
      let s := dropKicks (modTeam s tid fun t => { t with retired := true, kicks := [] }) tid
      let s := modGrid s t.grid fun g => { g with spawn := g.spawn - 1 }
      let s := retireGang s t.gang
      .next (postMail s 0x04 (16 + t.die) 2 (teamAsid s tid) [tid, t.gang])
    else .next s

/-- The grid-end flush of a grid may finish (R301): SPAWN is 0 and its network copies have finished and have written
DONE, after which no record of them is left. -/
def flushDone (s : State) (g : Grid) : Bool := !g.ended && g.spawn == 0 && s.ncopies.all (·.grid != g.key)

/-- The address of a timeline as seat 1 and seat 2 reach it: that of the queue as a command of it was taken (R317,
R320). -/
def queueTl (s : State) (asid : Nat) (qtl : DWord) : State × Option Nat :=
  match getCtx s asid with
  | none => (s, none)
  | some c => seatXlat s c (qtl.getLsbD 63) .write (bitsN qtl.toNat 47 0) 16

/-- TAG of a command. -/
def cmdTag (c : Cmd) : Nat := bitsN c.record 63 32

/-- A command fails: ERR of its timeline, and QSTAT where ERRV is 0 (R324). -/
def failCmd (s : State) (vf q : Nat) (c : Cmd) (code : Nat) : State :=
  match getFunc s vf with
  | none => s
  | some f =>
    let x := cmdQueue f q
    let r := queueTl s c.asid c.qtl
    let s := match r.2 with
      | some key => bankWrite r.1 c.asid (key + 8) 8 (getBytes r.1 (key + 8) 8 % 2 ^ 63 + 2 ^ 63)
      | none => r.1
    if x.qstat.getLsbD 0 then s else setQstat s vf q code (cmdTag c)

/-- A command, by its identity, finishes with a code, 0 for success (R324). -/
def finishCmd (s : State) (vf q id code : Nat) : State :=
  match (getFunc s vf).bind fun f => (cmdQueue f q).cmds.find? (·.id == id) with
  | none => s
  | some c =>
    let s := modCmdQueue s vf q fun x =>
      { x with cmds := modBy (·.id == id) (fun c => { c with status := .finished code }) x.cmds }
    if code == 0 then s else failCmd s vf q c code

/-- What the end of a grid signals: its join counter, or the finish of its command with the code that ended it. -/
def signalEnd (s : State) (g : Grid) : State :=
  match g.owner with
  | .join key => if g.joins == 0 then s else lowerJoin s key g.joins
  | .command q k id => postMail (finishCmd s g.vf q id (g.endCode.getD 0)) 0x05 2 1 g.asid [q, k, g.endCode.getD 0]

/-- GRID_END_FLUSH (R301, R224, R244): the grid ends and its heaps go. -/
def execGridEndFlush (grid : Nat) (s : State) : Host.Outcome State Fault Refusal :=
  match getGrid s grid with
  | none => .next s
  | some g =>
    if flushDone s g then
      let s := signalEnd s g
      .next (modGrid s grid fun g => { g with ended := true, gplace := [], blocks := [], joins := 0 })
    else .next s

end Sys2Proof.Machine
end

