-- ==== Sys2Proof/Machine/Commands.lean ====
section
/-!
DEFINITION. The commands of the queues (R319 to R326): seat 1 takes and checks them, seat 2 makes their grids, seat 3
accepts them, and seat 2 signals their completion.
-/

namespace Sys2Proof.Machine

/-! ## Taking (R319, R320) -/

/-- A command that holds back the later ones of its queue (R323). -/
def cmdHolds (c : Cmd) : Bool :=
  match c.status with
  | .taken | .checked | .waiting _ | .created _ => true
  | .accepted _ | .finished _ => false

/-- A queue of a function holds a record that seat 1 may take (R319, R320, R388); a binding on its way to the instances
is not yet acted on (R330). -/
def queueReady (s : State) (vf : Nat) (x : CQueue) : Bool :=
  x.en && x.head != x.tail && !x.cmds.any cmdHolds && !bindingPending s vf x.q x.asid &&
  (getCtx s x.asid).any fun c => c.live && !c.hold

/-- The next number after `last` in a list, in cyclic order below n. -/
def nextInTurn (n last : Nat) : List Nat → Option Nat
  | [] => none
  | a :: as =>
    match nextInTurn n last as with
    | none => some a
    | some b => if (a + n - last % n) % n ≤ (b + n - last % n) % n then some a else some b

/-- Ready queues of a band of a function. -/
def readyQueues (s : State) (f : VFunc) (band : Nat) : List Nat :=
  ((List.range 16).map (16 * band + ·)).filter fun q => queueReady s f.vf (cmdQueue f q)

/-- The queue whose head record seat 1 takes in this turn: function and queue (R319). -/
def nextQueue (s : State) : Option (Nat × Nat) :=
  [3, 2, 1, 0].findSome? fun band =>
    let vfs := (s.funcs.filter fun f => !(readyQueues s f band).isEmpty).map (·.vf)
    (nextInTurn 16 (tget 0 s.robin band) vfs).bind fun vf =>
      (getFunc s vf).bind fun f =>
        (nextInTurn 64 (tget 0 s.robin (100 + 4 * vf + band)) (readyQueues s f band)).map fun q => (vf, q)

/-- The round-robin pointers after a turn. -/
def passTurn (s : State) (vf q : Nat) : State :=
  let r := tput 0 s.robin (q / 16) (vf + 1)
  { s with robin := tput 0 r (100 + 4 * vf + q / 16) (q + 1) }

/-- The head record of a queue; `none` where the slot cannot be read. -/
def readSlot (s : State) (c : Context) (x : CQueue) : State × Option Nat :=
  let base := bitsN x.qbase.toNat 47 0
  if base % 128 != 0 then (s, none)
  else seatRead s c (x.qbase.getLsbD 63) (base + 128 * (x.head.toNat % 2 ^ x.log2)) 16

/-- Write ISSUED = k (R323). -/
def writeIssued (s : State) (x : CQueue) (k : Nat) : State :=
  match queueTl s x.asid x.qtl with
  | (s, none) => s
  | (s, some key) => bankWrite s x.asid (key + 8) 8 (k + getBytes s (key + 8) 8 / 2 ^ 63 * 2 ^ 63)

/-- COMMAND_TAKE (R319): seat 1 copies the head record of the queue that its turn gives. -/
def execCommandTake (s : State) : Host.Outcome State Fault Refusal :=
  match nextQueue s with
  | none => .next s
  | some (vf, q) =>
    match (getFunc s vf).bind fun f => (getCtx s (cmdQueue f q).asid).map fun c => (cmdQueue f q, c) with
    | none => .next s
    | some (x, c) =>
      let k := (x.issued + 1) % 2 ^ 63
      let r := readSlot (passTurn s vf q) c x
      let s := writeIssued r.1 x k
      let id := s.nextId
      let s := modCmdQueue { s with nextId := id + 1 } vf q fun x =>
        { x with head := x.head + 1, issued := k, cmds := x.cmds ++ [⟨k, r.2.getD 0, false, .taken, x.asid, x.qtl, id⟩] }
      let s := if r.2.isNone then finishCmd s vf q id 0x0C else s
      .next (postMail s 0x01 1 2 x.asid [vf, q, k])

/-! ## Checking (R321, R322, Table 20.5) -/

/-- OPC. -/
def cmdOpc (c : Cmd) : Nat := bitsN c.record 7 0
/-- The address of WTL, and whether it is in HST. -/
def cmdWtl (c : Cmd) : Nat × Bool := (bitsN c.record 175 128, c.record.testBit 11)

/-- A reserved bit of a record. -/
def recordReserved (x : Nat) : Bool :=
  bitsN x 511 384 != 0 || bitsN x 191 176 != 0 || bitsN x 127 112 != 0 || bitsN x 31 12 != 0

/-- A field that a wait or a nop does not use. -/
def unusedFields (x : Nat) : Bool := bitsN x 1023 512 != 0 || bitsN x 383 256 != 0 || bitsN x 111 64 != 0

/-- The key of a command's WTL: `none` where it does not serve as a timeline. -/
def wtlKey (s : State) (c : Context) (m : Cmd) : State × Option Nat :=
  let w := cmdWtl m
  if w.1 % 16 != 0 then (s, none) else seatXlat s c w.2 .read w.1 16

/-- The check of WTL: its code, or 0. -/
def checkWtl (s : State) (c : Context) (m : Cmd) : State × Nat :=
  if (cmdWtl m).1 == 0 then (s, 0)
  else
    let r := wtlKey s c m
    (r.1, if r.2.isSome then 0 else 0x03)

/-- The checks that every record passes: its code, or 0. -/
def checkRecord (q : Nat) (m : Cmd) : Nat :=
  let x := m.record
  if recordReserved x || cmdOpc m == 0 || 3 < cmdOpc m then 0x01
  else if cmdOpc m != 1 && unusedFields x then 0x01
  else if bitsN x 9 8 != q / 16 then 0x02
  else 0

/-- A size that a launch may not have. -/
def sizesBad (x : Nat) : Bool :=
  bitsN x 287 256 % 8 != 0 || 2 ^ 20 < bitsN x 287 256 || bitsN x 319 288 % 128 != 0 || bitsN x 383 320 % 128 != 0

/-- The checks of a launch: its code, or 0. -/
def checkLaunch (s : State) (c : Context) (m : Cmd) : State × Nat :=
  if c.tag == 2 then (s, 0x05)
  else
    match fetchDesc s c (bitsN m.record 111 64) with
    | (s, .error code) => (s, code)
    | (s, .ok _) => if sizesBad m.record then (s, 0x04) else checkWtl s c m

/-- The whole check of a command. -/
def checkCmd (s : State) (c : Context) (q : Nat) (m : Cmd) : State × Nat :=
  let code := checkRecord q m
  if code != 0 then (s, code) else if cmdOpc m == 1 then checkLaunch s c m else checkWtl s c m

/-! ## Progress of a command (R323) -/

/-- The command of a queue that seat 1 or 2 works on. -/
def activeCmd (x : CQueue) : Option Cmd :=
  x.cmds.find? fun c =>
    match c.status with
    | .taken | .checked | .waiting _ => true
    | _ => false

/-- Set the status of a command, by its identity. -/
def setCmd (s : State) (vf q id : Nat) (st : CmdStatus) : State :=
  modCmdQueue s vf q fun x => { x with cmds := modBy (·.id == id) (fun c => { c with status := st }) x.cmds }

/-- FENCE holds: every earlier command of the queue has finished and DONE shows it. -/
def fenceOpen (x : CQueue) (m : Cmd) : Bool := !m.record.testBit 10 || !(x.cmds.any fun c => c.id != m.id)

/-- What the WTL of a command says. -/
inductive Wtl where
  | open_ | shut | poisoned
  deriving DecidableEq, Repr

/-- The WTL wait (R323, Table 20.5 code 0x09). -/
def wtlState (s : State) (c : Context) (m : Cmd) (err0 : Bool) : State × Wtl :=
  if (cmdWtl m).1 == 0 then (s, .open_)
  else
    match wtlKey s c m with
    | (s, none) => (s, .shut)
    | (s, some key) =>
      let met : Bool := bitsN m.record 255 192 ≤ tlDone s key
      (s, if tlErr s key && (!err0 || !met) then .poisoned else if met then .open_ else .shut)

/-- ERR of the WTL as the wait begins: ERR with an awaited value that DONE has passed is no poison of this wait. -/
def wtlErr0 (s : State) (c : Context) (m : Cmd) : State × Bool :=
  if (cmdWtl m).1 == 0 then (s, false)
  else
    match wtlKey s c m with
    | (s, none) => (s, false)
    | (s, some key) => (s, tlErr s key)

/-- A launch whose waits are over: seat 2 creates its grid, with SPAWN = 1 (R15, R323). -/
def createGrid (s : State) (c : Context) (vf q : Nat) (m : Cmd) : State :=
  match fetchDesc s c (bitsN m.record 111 64) with
  | (s, .error code) => finishCmd s vf q m.id code
  | (s, .ok d) =>
    let x := m.record
    match newGrid s vf c.asid d (.command q m.k m.id) (bitsN x 9 8) (bitsN x 287 256) (bitsN x 383 320) (bitsN x 319 288) 1 with
    | none => finishCmd s vf q m.id 0x06
    | some (s, g) => postMail (setCmd s vf q m.id (.created g)) 0x02 2 3 c.asid [g]

/-- One step of the work on a command; `done`: what follows its waits. With PARSE the host has the record as a sealed
blob, and a request that has begun finishes so (R332, R333). -/
def stepCmd (s : State) (c : Context) (vf q : Nat) (x : CQueue) (m : Cmd) (done : State → State) : State :=
  match m.status with
  | .taken =>
    if !m.parsed && (getFunc s vf).any (dutyPending · 4 q m.id) then s
    else if !m.parsed && (getFunc s vf).any (dutyBit · 4) then
      postDuty s vf 4 q m.id [q, m.k, 128, gcmCipher c.ck m.id m.record 1024]
    else
      let r := checkCmd s c q m
      if r.2 == 0 then setCmd r.1 vf q m.id .checked else finishCmd r.1 vf q m.id r.2
  | .checked =>
    if fenceOpen x m then
      let r := wtlErr0 s c m
      setCmd r.1 vf q m.id (.waiting r.2)
    else s
  | .waiting err0 =>
    match wtlState s c m err0 with
    | (s, .open_) => done s
    | (s, .shut) => s
    | (s, .poisoned) => finishCmd s vf q m.id 0x09
  | _ => s

/-- The work on the active command of a queue, if its OPC is one of those of the step, in the context to which the queue
was bound as it was taken (R317). -/
def workCmd (vf q : Nat) (opc : Nat → Bool) (s : State) (done : State → Context → Cmd → State) :
    Host.Outcome State Fault Refusal :=
  match getFunc s vf with
  | none => .next s
  | some f =>
    let x := cmdQueue f q
    match (activeCmd x).bind fun m => (getCtx s m.asid).map fun c => (m, c) with
    | some (m, c) => if opc (cmdOpc m) then .next (stepCmd s c vf q x m fun s => done s c m) else .next s
    | none => .next s

/-- LAUNCH_COMMAND (R321 to R323): a launch, or a record with a reserved OPC. -/
def execLaunchCommand (vf q : Nat) (s : State) : Host.Outcome State Fault Refusal :=
  workCmd vf q (fun o => o != 2 && o != 3) s fun s c m => createGrid s c vf q m

/-- WAIT_COMMAND (R321, R324). -/
def execWaitCommand (vf q : Nat) (s : State) : Host.Outcome State Fault Refusal :=
  workCmd vf q (· == 2) s fun s _ m => finishCmd s vf q m.id 0

/-- NOP_COMMAND (R321, R324). -/
def execNopCommand (vf q : Nat) (s : State) : Host.Outcome State Fault Refusal :=
  workCmd vf q (· == 3) s fun s _ m => finishCmd s vf q m.id 0

/-- COMMAND_ACCEPT (R323, R292): the seed gang, team 0 alone, enters the placement queue. -/
def execCommandAccept (vf q : Nat) (s : State) : Host.Outcome State Fault Refusal :=
  match getFunc s vf with
  | none => .next s
  | some f =>
    match (cmdQueue f q).cmds.find? fun c => match c.status with | .created _ => true | _ => false with
    | none => .next s
    | some m =>
      match m.status with
      | .created g =>
        match getGrid s g with
        | none => .next s
        | some r =>
          let s := addTeams s g r.desc.entry 1 1 (fun _ => argWords (m.record / 2 ^ 512)) true
          .next (setCmd s vf q m.id (.accepted g))
      | _ => .next s

/-! ## Completion (R324 to R326) -/

/-- RISC-V core of a control core (log 1). -/
def controlCore (die core : Nat) : Nat := 32 + 4 * die + core

/-- A control core is signalled: the DONE write ends its `wrs`, or the identity is posted (R326). -/
def signalCore (s : State) (c vec key : Nat) : State :=
  let r := getRv s c
  if r.stalled && r.reserve == some key then putRv s c { r with stalled := false, reserve := none }
  else
    putRv s c { r with ints := if r.ints.contains vec then r.ints else r.ints ++ [vec],
                       reserve := if r.reserve == some key then none else r.reserve }

/-- The signal of QSIG after a write of DONE at a key (R325). -/
def signalQueue (s : State) (vf : Nat) (sig : DWord) (key : Nat) : State :=
  let n := sig.toNat
  if !sig.getLsbD 63 then s
  else if sig.getLsbD 62 then { s with msix := (vf, bitsN n 10 0) :: s.msix }
  else signalCore s (controlCore (bitsN n 23 20) (bitsN n 19 18)) (bitsN n 10 0) key

/-- COMMAND_FINISH (R324, R325): the oldest command has finished; DONE = k is written and signalled. -/
def execCommandFinish (vf q : Nat) (s : State) : Host.Outcome State Fault Refusal :=
  match getFunc s vf with
  | none => .next s
  | some f =>
    let x := cmdQueue f q
    match x.cmds with
    | [] => .next s
    | m :: rest =>
      match m.status with
      | .finished _ =>
        let s := modCmdQueue s vf q fun x => { x with cmds := rest }
        match queueTl s m.asid m.qtl with
        | (s, none) => .next s
        | (s, some key) => .next (signalQueue (bankWrite s m.asid key 8 m.k) vf x.qsig key)
      | _ => .next s

end Sys2Proof.Machine
end

