-- ==== Sys2Proof/Machine/Gangs.lean ====
section
/-!
DEFINITION. Stopping gangs (R72 to R76, R348), gang images and their restore (R349, R350), the gang control registers
(R347), the early end of a grid (R351), and the requests of the debug module (R373).
-/

namespace Sys2Proof.Machine

/-! ## Taking threads that wait (R73, R74) -/

/-- A lane has driven a start bit in a heat that runs, with an identifier that wins or loses (R73, R231, R233). -/
def inHeat (s : State) (gid lane : Nat) : Bool :=
  s.rlanes.any fun r => r.run.any fun h => (h.entrants ++ h.losers).any fun x =>
    match x.who with | .thread g l .. => g == gid && l == lane | _ => false

/-- How a pending pre-emption takes a thread that waits: `some false` at its block's header, `some true` at its word. -/
def takeKind (s : State) (g : Group) (asid : Nat) (t : Thread) : Option Bool :=
  let inBlock := t.status == .block
  match t.stall with
  | none => none
  | some (.xlate v) => if (tlbFind (getDie s g.die) asid v).isSome then some inBlock else none
  | some (.backing ..) | some (.line _) | some (.met (some _) _) => some inBlock
  | some .heat => if inHeat s g.gid t.lane then none else some false
  | some .ship | some .cross | some .acquire | some (.met none _) => none
  | some _ => some false

/-- A thread that stands at a header has fetched its word: it is held there or waits on WAIT. -/
def headerRead (t : Thread) : Bool := t.stall == some .held || t.stall == some .flags

/-- A thread is taken; an instruction that it has begun to wait in takes its stream elements anew (R21, R73). At a
header that it has not fetched it has no PMK, and all registers are kept (R72, R74). -/
def takeThread (n : Nat) (k : Bool) (t : Thread) : Thread :=
  if k then { t with status := .stopped true, stall := none, keep := n }
  else if t.status == .header then
    { t with status := .stopped false, stall := none, keep := if headerRead t then keepAt n t.hword else n }
  else
    { t with status := .stopped false, stall := none, pc := t.hdr, keep := keepAt n t.hword, sp := t.spBack.getD t.sp,
             spBack := none }

/-- What a waiting thread has entered elsewhere is undone: its heat, its barrier's count of waiters. -/
def leaveWaits (s : State) (g : Group) (t : Thread) : State :=
  match t.stall with
  | some .heat =>
    { s with rlanes := s.rlanes.map fun r =>
        { r with waiting := r.waiting.filter fun x =>
            match x.who with | .thread a l .. => !(a == g.gid && l == t.lane) | _ => true } }
  | some (.bar a _ _) =>
    let key := keyScr g.tid a
    let b := barRead s key
    barWrite s key { b with wtr := b.wtr + 2 ^ 13 - 1 }
  | some (.qpush q _) | some (.qpop q _) =>
    modQueue s g.tid q fun x => { x with waiters := x.waiters.filter fun w => w.key / 64 != g.gid }
  | _ => s

/-- The threads of a group that wait are taken by the pre-emption that is pending. -/
def takeGroup (s : State) (gid : Nat) : State :=
  match env s gid with
  | none => s
  | some e =>
    if !preemptPending s e.group then s
    else
      let n := e.grid.desc.regs
      let s := e.group.threads.foldl (fun s t =>
        match takeKind s e.group e.ctx.asid t with
        | none => s
        | some k => modLane (leaveWaits s e.group t) gid t.lane (takeThread n k)) s
      settleGroup s gid

/-- Every pre-emption that is pending takes the threads that wait. -/
def takeStopping (s : State) : State :=
  if s.gangs.any fun k => k.status == .stopping && !k.halted then (s.groups.map (·.gid)).foldl takeGroup s else s

/-! ## A gang that has stopped (R348) -/

/-- A thread has stopped. -/
def threadStopped (t : Thread) : Bool :=
  match t.status with
  | .exited | .stopped _ => true
  | .parked _ _ done _ => done
  | _ => false

/-- The groups of a gang's live teams. -/
def gangGroups (s : State) (k : Gang) : List Group :=
  let ts := (liveTeams s k).map (·.tid)
  s.groups.filter fun g => ts.contains g.tid

/-- Steps 2 to 5 of R348 are done. -/
def gangStopped (s : State) (k : Gang) : Bool :=
  k.status == .stopping &&
  (gangGroups s k).all (fun g => g.ops.isEmpty && g.ship.isNone && g.threads.all threadStopped) &&
  (liveTeams s k).all fun t =>
    !copiesLeft s t.tid && match t.seq.status with | .running | .faulted _ false => false | _ => true

/-! ## Images (R349) -/

/-- The 64-byte header of an image of a gang. -/
def imageHeader (s : State) (k : Gang) (g : Grid) (epoch size : Nat) : Nat :=
  let key := ((getCtx s g.asid).map (·.keyid)).getD 0
  let band : Bool := g.desc.scratch * 128 ≤ 262144
  0x5345414C + 2 ^ 32 * 1 + 2 ^ 192 * (Config.crypto 3 [k.key, epoch] % 2 ^ 96) +
  2 ^ 294 * (1 + 2 * band.toNat) + 2 ^ 296 * ((liveTeams s k).length % 16) + 2 ^ 300 * (g.vf % 16) +
  2 ^ 304 * (g.asid % 2 ^ 16) + 2 ^ 320 * (key % 256) + 2 ^ 328 * (k.index % 2 ^ 24) + 2 ^ 352 * (g.id % 2 ^ 32) +
  2 ^ 384 * (epoch % 2 ^ 64) + 2 ^ 448 * (size % 2 ^ 64)

/-- Bytes of an image: header, body and tag. -/
def imageSize (k : Gang) (epoch : Nat) : Nat := 80 + 8 * Config.imageQuads k.key epoch

/-- The quads of an image. -/
def imageQuadsOf (s : State) (k : Gang) (g : Grid) (epoch : Nat) : List Nat :=
  let h := imageHeader s k g epoch (imageSize k epoch)
  let body := (List.range (Config.imageQuads k.key epoch)).map fun i => (Config.imageQuad k.key epoch i).toNat
  let ck := ((getCtx s g.asid).map (·.ck)).getD 0
  numQuads 8 h ++ body ++ numQuads 2 (gcmTag ck (bitsN h 287 192) (quadsNum body) h)

/-- Every page of a range translates for writing. -/
def pagesWritable (s : State) (c : Context) (hst : Bool) (a n : Nat) : State × Bool :=
  (List.range ((n + 4095) / 4096)).foldl (fun acc i =>
    let r := seatXlat acc.1 c hst .write (a + 4096 * i) 8
    (r.1, acc.2 && r.2.isSome)) (s, true)

/-- Tiles and buffers that a split command counts as named: those of the words that it began with (R219). -/
def splitNames (q : Sequencer) : List Nat × List Nat :=
  match q.split, q.words with
  | some _, some x =>
    match decodeMatrix x.1 x.2 with
    | .ok (.mma x ..) | .ok (.mpma x ..) | .ok (.mmodma x) => ([x.mt.toNat], [x.bb.toNat])
    | _ => ([], [])
  | _, _ => ([], [])

/-- The sequencer as an image holds it (R219). -/
def saveSeq (q : Sequencer) : Sequencer :=
  match q.mark with
  | none => q
  | some (tm, bm) =>
    let n := splitNames q
    { q with tiles := q.tiles.filter fun t => tm.getLsbD t.1 || n.1.contains t.1,
             bufs := q.bufs.filter fun b => bm.getLsbD b.1 || n.2.contains b.1 }

/-- The gang's state leaves its cores: groups, kick entries, sequencers; its cores are free, those of its retired teams
too, which are neither saved nor restored (R197, R299, R348). -/
def unloadGang (s : State) (k : Gang) : State :=
  let ts := (liveTeams s k).map (·.tid)
  let kicks (t : Team) := (s.dies.flatMap (·.kicks)).filter (·.tid == t.tid) ++ t.kicks
  let save (t : Team) : Team := { t with resident := false, seq := saveSeq t.seq, kicks := kicks t }
  let gone (t : Team) : Team := { t with resident := false }
  let s := { s with teams := modBy (fun t => k.teams.contains t.tid && !ts.contains t.tid) gone
                               (modBy (fun t => ts.contains t.tid) save s.teams) }
  let s := ts.foldl dropKicks s
  { s with groups := s.groups.filter fun x => !ts.contains x.tid }

/-! ## Restore (R350) -/

/-- Dies that a restore admits. -/
def restoreDies (s : State) (g : Grid) (mask : Nat) : List Nat :=
  computeDies.filter fun d => mask.testBit d && (getFunc s g.vf).any (maskAllows · d) &&
    (d < 4 || g.desc.scratch * 128 ≤ 262144)

/-- A saved gang is restored from the image at an address of an image context; GSIZE tells the bytes of an image that was
read, also of one that is refused (R347, R350). -/
def restoreGang (s : State) (k : Gang) (g : Grid) (mask gimg : Nat) (c : Context) : State :=
  let want := imageQuadsOf s k g k.epoch
  let r := seatQuads c (gimg.testBit 63) (bitsN gimg 47 0) want.length s
  match r.2 with
  | none => gangCode r.1 6
  | some qs =>
    let s := { r.1 with pf := { r.1.pf with gsize := imageSize k k.epoch } }
    if qs != want then gangCode s 3
    else if (restoreDies s g mask).isEmpty then gangCode s 7
    else
      let s := modGang s k.key fun k => { k with status := .restoring mask, epoch := k.epoch + 1 }
      gangCode (modFunc s g.vf fun f => { f with placement := f.placement ++ [k.key] }) 0

/-! ## Resuming in place -/

/-- A thread goes on where it stopped, with all its registers. -/
def goOnThread (t : Thread) : Thread :=
  match t.status with
  | .stopped false => { reenter t with keep := 1024, holdWords := 0 }
  | .stopped true => { t with status := .block, keep := 1024, holdWords := 0 }
  | _ => t

/-- A stopped gang resumes on its cores (R373). -/
def goOnGang (s : State) (k : Gang) : State :=
  let ts := (liveTeams s k).map (·.tid)
  let s := modGang s k.key fun k => { k with status := .resident, halted := false }
  { s with groups := s.groups.map fun g => if ts.contains g.tid then { g with threads := g.threads.map goOnThread } else g,
           teams := s.teams.map fun t => if ts.contains t.tid then { t with seq := resumeSeq t.seq } else t }

/-! ## The early end of gangs and grids (R351, R356, R359) -/

/-- Network copies of a group that no engine has accepted. -/
def pendingNcopies (s : State) (gs : List Group) : List Nat :=
  let ids := gs.flatMap fun g => g.ops.flatMap fun o => o.parts.filterMap fun p =>
    match p with | .ncopy _ id => some id | _ => none
  (s.ncopies.filter fun n => n.number.isNone && ids.contains n.id).map (·.id)

/-- A gang's state is discarded; its teams count no longer (R351). -/
def discardGang (s : State) (gang : Nat) : State :=
  match getGang s gang with
  | none => s
  | some k =>
    let ts := (liveTeams s k).map (·.tid)
    let gs := s.groups.filter fun g => ts.contains g.tid
    let gids := gs.map (·.gid)
    let nc := pendingNcopies s gs
    let mine (x : Entry) : Bool :=
      match x.who with
      | .thread g .. => gids.contains g
      | .placement y => y == gang
      | .rekey _ => false
    let s := { s with
      groups := s.groups.filter fun g => !ts.contains g.tid,
      teams := s.teams.map fun t => if ts.contains t.tid then { t with retired := true, resident := false } else t,
      transfers := s.transfers.filter fun x => !ts.contains x.tid,
      requests := s.requests.filter fun x => !ts.contains x.tid,
      ncopies := s.ncopies.filter fun n => !nc.contains n.id,
      rlanes := s.rlanes.map fun r => { r with waiting := r.waiting.filter fun x => !mine x },
      funcs := s.funcs.map fun f => { f with placement := f.placement.filter (· != gang) },
      dies := s.dies.map fun d => { d with kicks := d.kicks.filter (fun e => !ts.contains e.tid), enq := d.enq.filter (· != gang) } }
    let s := modGang s gang fun k => { k with status := .retired, halted := false }
    modGrid s k.grid fun g => { g with spawn := g.spawn - ts.length }

/-- One gang of a grid that ends early: a resident one stops first (R351 step 2). -/
def endGang (s : State) (k : Gang) : State :=
  match k.status with
  | .retired => s
  | .resident => askStop s k.key .discard
  | .stopping => modGang (dropRequest s k) k.key fun k => { k with cause := .discard, halted := false }
  | .queued | .saved | .restoring _ => discardGang s k.key

/-- A grid ends with a code of Table 20.5 (R351 steps 2 to 4): its gangs stop and are discarded, then its flush runs. -/
def endGrid (s : State) (grid code : Nat) : State :=
  let s := modGrid s grid fun g => { g with endCode := g.endCode.or (some code) }
  let s := (s.gangs.filter (·.grid == grid)).foldl endGang s
  takeStopping s

/-! ## GANG_IMAGE_SEALED (R348) -/

/-- The image of a stopped gang is sealed into its address, or the address faults and the gang goes on. -/
def sealGang (s : State) (k : Gang) (g : Grid) (gimg : Nat) (c : Context) : State :=
  let epoch := k.epoch
  let hst := gimg.testBit 63
  let a := bitsN gimg 47 0
  let r := pagesWritable s c hst a (imageSize k epoch)
  if !r.2 then goOnGang (gangCode r.1 6) k
  else
    let s := seatWrite c hst a (imageQuadsOf r.1 k g epoch) r.1
    let gs := gangGroups s k
    let s := unloadGang s k
    let s := modGang s k.key fun k => { k with status := .saved }
    let s := { s with images := (k.key, epoch, gs, liveTeams s k) :: s.images.filter (·.1 != k.key),
                      pf := { s.pf with gsize := imageSize k epoch } }
    countEvent (gangCode s 0) g.asid 7 1

/-- GANG_IMAGE_SEALED (R348 step 6, R351, R373): what a pending pre-emption was for, once the gang has stopped. -/
def execGangImageSealed (gang : Nat) (s : State) : Host.Outcome State Fault Refusal :=
  match (getGang s gang).bind fun k => (getGrid s k.grid).map fun g => (k, g) with
  | none => .next s
  | some (k, g) =>
    if !gangStopped s k || k.halted then .next s
    else
      match k.cause with
      | .discard => .next (discardGang s gang)
      | .debug => .next (modGang s gang fun k => { k with halted := true })
      | .image gimg gasid =>
        match getCtx s gasid with
        | none => .next (goOnGang (gangCode s 6) k)
        | some c => .next (sealGang s k g gimg c)
      | .move mask gimg gasid =>
        match getCtx s gasid with
        | none => .next (goOnGang (gangCode s 6) k)
        | some c =>
          let s := sealGang s k g gimg c
          match getGang s gang with
          | some k => .next (if k.status == .saved then restoreGang s k g mask gimg c else s)
          | none => .next s

/-! ## GCMD (R347) -/

/-- A path reaches BAR 2 of the physical function. -/
def bar2Open (s : State) (path : Path) : Bool :=
  windowsUp s && (path == .pf || (path == .debug && s.boot.debugOpen))

/-- The gang that GSEL names, with its grid. -/
def selectedGang (s : State) : Option (Gang × Grid) :=
  let v := s.pf.gsel.toNat
  (s.grids.find? fun g => g.vf == bitsN v 7 4 && g.id == bitsN v 63 32).bind fun g =>
    (s.gangs.find? fun k => k.grid == g.key && k.index == bitsN v 31 8).map fun k => (k, g)

/-- The image context that GASID names, if it is a live OPR context. -/
def imageContext (s : State) : Option Context := (getCtx s s.pf.gasid).filter fun c => c.live && c.tag == 0

/-- The action of a GCMD write that is not refused for its form. -/
def gangAction (s : State) (op mask : Nat) (k : Gang) (g : Grid) (c : Context) : State :=
  let gimg := s.pf.gimg.toNat
  let a := bitsN gimg 47 0
  if op == 2 && k.keyGone then gangCode s 4
  else if k.status == .retired then gangCode s 1
  else
    let r := seatXlat s c (gimg.testBit 63) (if op == 2 then .read else .write) a 8
    if a % 4096 != 0 || r.2.isNone then gangCode r.1 6
    else if op == 2 then
      (if k.status == .saved then restoreGang r.1 k g mask gimg c else gangCode r.1 2)
    else if k.status != .resident then gangCode r.1 2
    else
      let s := gangCode r.1 0
      let s := { s with pf := { s.pf with gbusy := true } }
      takeStopping (askStop s k.key (if op == 1 then .image gimg s.pf.gasid else .move mask gimg s.pf.gasid))

/-- A write of GCMD (R347). -/
def gcmdWrite (s : State) (v : Word) : State :=
  let n := v.toNat
  let op := bitsN n 3 0
  if s.pf.gbusy then { s with pf := { s.pf with gcode := 5 } }
  else if op == 0 || 3 < op || bitsN n 31 16 != 0 || bitsN n 7 4 != 0 then gangCode s 8
  else
    match imageContext s with
    | none => gangCode s 6
    | some c =>
      match selectedGang s with
      | none => gangCode s 1
      | some (k, g) => gangAction s op (bitsN n 15 8) k g c

/-- A command word with its OP. -/
def withOp (v : Word) (op : Nat) : Word := v &&& ~~~0xF#32 ||| BitVec.ofNat 32 (op % 16)

/-- GANG_PREEMPT (R347, R348): a GCMD write with OP 1. -/
def execGangPreempt (path : Path) (v : Word) (s : State) : Host.Outcome State Fault Refusal :=
  .next (if bar2Open s path then gcmdWrite s (withOp v 1) else s)

/-- GANG_RESTORE (R347, R350): a GCMD write with OP 2. -/
def execGangRestore (path : Path) (v : Word) (s : State) : Host.Outcome State Fault Refusal :=
  .next (if bar2Open s path then gcmdWrite s (withOp v 2) else s)

/-- GANG_MOVE (R347, R348): a GCMD write with OP 3. -/
def execGangMove (path : Path) (v : Word) (s : State) : Host.Outcome State Fault Refusal :=
  .next (if bar2Open s path then gcmdWrite s (withOp v 3) else s)

/-! ## The debug module (R373) -/

/-- DEBUG_MODULE_REQUEST (R373): answered while the lock is open. A gang halts as a pre-emption stops it and keeps its
state on its cores. -/
def execDebugModuleRequest (r : DebugReq) (s : State) : Host.Outcome State Fault Refusal :=
  if !s.boot.debugOpen then .next s
  else
    match r with
    | .haltGang k => .next (takeStopping (askStop s k .debug))
    | .resumeGang k =>
      match getGang s k with
      | some g => .next (if g.halted && g.status == .stopping then goOnGang s g else s)
      | none => .next s
    | .haltCore c => .next (putRv s c { getRv s c with halted := true })
    | .resumeCore c => .next (putRv s c { getRv s c with halted := false })
    | .haltOnBreakpoint on => .next { s with boot := { s.boot with haltBkpt := on } }

end Sys2Proof.Machine
end

