-- ==== Sys2Proof/Machine/Dies.lean ====
section
/-!
DEFINITION. Time (R234, R235, R308, R395), re-homing (R304, R305), the failure of a die (R233, R312, R351, R374) and its
reset with key retirement (R359 to R361, R402).
-/

namespace Sys2Proof.Machine

/-! ## Time -/

/-- A die's share of one cox tick of 5 ns: its cycles at its clock (R395, log 12), and whether it reads the tick before
(R308). -/
def tickDie (lag : Bool) (d : Die) : Die :=
  if d.alive && !d.resetting then
    let n := d.frac + d.clk
    { d with cyc := d.cyc + n / 200, frac := n % 200, lag := lag }
  else { d with lag := lag }

/-- Slewing of %synt in one tick: at most 1 ns in 400,000 ticks, which is 500 ns in a second; whether it moves is the
time port's choice (R235, log 12). -/
def slew (cox : Nat) (free : Nat) (off : Int) : Int :=
  if cox % 400000 == 0 && free % 2 == 1 then (if 0 < off then 1 else if off < 0 then -1 else 0) else 0

/-- An error arises in a sector of the module's memory or SRAM, or none does (R382, log 93). -/
def arises (x : Option (Nat × Bool)) : List Upset := ((x.filter fun y => keyInside (y.1 * 32)).map fun y => ⟨y.1, y.2⟩).toList

/-- Blocks that a stream's key has carried after a tick (R365, log 85). -/
def tickStream (cox : Nat) (x : LinkStream) : LinkStream :=
  if x.keyed then { x with blocks := x.blocks + Config.linkBlocks x.id cox } else x

/-- One cox tick passes. -/
def tickState (s : State) : State :=
  let r := takeFree s
  let s := { r.1 with upsets := r.1.upsets ++ arises (Config.upset r.1.cox), streams := r.1.streams.map (tickStream r.1.cox) }
  let x := slew s.cox (r.2 / 512) s.syntOff
  { s with cox := s.cox + 1, dies := s.dies.zipIdx.map fun d => tickDie (r.2.testBit d.2) d.1,
           synt := if s.disciplined then (s.synt + 5 + x).toNat else s.synt,
           syntOff := if s.disciplined then s.syntOff - x else s.syntOff }

/-- SYNT_DISCIPLINE (R235): the offset from the grandmaster and the accuracy, both in ns. An offset of 1 ms or more is
one forward step; everything else is slewed, and a backward offset always is. -/
def execSyntDiscipline (offset : Int) (acc : Nat) (s : State) : Host.Outcome State Fault Refusal :=
  let s := { s with disciplined := true, syntAcc := acc }
  if 1000000 ≤ offset then .next { s with synt := s.synt + offset.toNat, syntOff := 0 }
  else .next { s with syntOff := offset }

/-! ## Re-homing (R304, R305) -/

/-- The home of a frame that is not interleaved. -/
def frameHome (x : FrameRec) : Nat := (x.place.head?.map (·.die)).getD 0

/-- The backed frames of the page that a frame belongs to. -/
def pageFramesOf (c : Context) (x : FrameRec) : List FrameRec := c.frames.filter (samePage x.pages x.home x.lfn)

/-- The counted accesses of a page from a die (Table 15.2). -/
def pageCount (c : Context) (x : FrameRec) (die : Nat) : Nat := ((pageFramesOf c x).map fun y => tget 0 y.counts die).sum

/-- All counted accesses of a page. -/
def pageTotal (c : Context) (x : FrameRec) : Nat := ((pageFramesOf c x).flatMap fun y => y.counts.map (·.2)).sum

/-- A page of the kinds and the rate of Table 15.2: device-placed, not of 1 GiB, not moved in the last four windows. -/
def rehomeable (window : Nat) (c : Context) (x : FrameRec) : Bool :=
  x.home == 2 && x.pages < 262144 && !(pageFramesOf c x).any fun y => y.moved.any fun m => window < m + 4

/-- Whole frames of a function that are free on a die. -/
def freeFrames (s : State) (f : VFunc) (asid die : Nat) : Nat := wholeFrames (freeRuns s f asid die)

/-- The die that triggers a re-home of a page in a window (Table 15.2). -/
def rehomeDie (s : State) (f : VFunc) (c : Context) (window : Nat) (x : FrameRec) : Option Nat :=
  if !rehomeable window c x then none
  else
    computeDies.find? fun d =>
      d != frameHome x && maskAllows f d && 1024 ≤ pageCount c x d && 3 * pageTotal c x ≤ 4 * pageCount c x d &&
      x.pages ≤ freeFrames s f c.asid d

/-- One page at the end of a window: seat 3 decides, or the host receives the free frames of each die and the page's
counts where PLACE is set (R304, Table 20.10). -/
def rehomePage (window : Nat) (f : VFunc) (c : Context) (s : State) (x : FrameRec) : State :=
  if dutyBit f 1 then
    (if rehomeable window c x && pageTotal c x != 0 && !dutyPending f 1 c.asid (x.lfn + 1) then
       postDuty s f.vf 1 c.asid (x.lfn + 1) (computeDies.map (freeFrames s f c.asid) ++ (computeDies ++ [8]).map (pageCount c x))
     else s)
  else
    match rehomeDie s f c window x with
    | none => s
    | some d => { s with rehomes := s.rehomes ++ [⟨c.asid, x.lfn, x.pages, d⟩] }

/-- One backed frame of each page of a context. -/
def pageHeads : List FrameRec → List FrameRec
  | [] => []
  | x :: xs => x :: (pageHeads xs).filter fun y => !samePage x.pages x.home x.lfn y

/-- The frames of one context at the end of a window. -/
def rehomeContext (window : Nat) (s : State) (c : Context) : State :=
  match getFunc s c.vf with
  | none => s
  | some f =>
    let s := (pageHeads c.frames).foldl (rehomePage window f c) s
    modCtx s c.asid fun c => { c with frames := c.frames.map fun x => { x with counts := [] } }

/-- REHOME_WINDOW_END (R304): windows end at multiples of 2^20 of the cox count. -/
def execRehomeWindowEnd (s : State) : Host.Outcome State Fault Refusal :=
  if s.cox % 2 ^ 20 != 0 then .next s else .next (s.contexts.foldl (rehomeContext (s.cox / 2 ^ 20)) s)

/-- Every translation of a page leaves every TLB of every die: of its backed and unbacked frames, and through the sealed
leaves of operator contexts too (R305, R358). -/
def dropPageTlb (s : State) (r : Rehome) : State :=
  let ofPage (x : TlbEnt) : Bool := pteMt x.leaf == 0 && x.lfn / max r.pages 1 == r.lfn / max r.pages 1
  let owned (x : TlbEnt) : Bool := (getCtx s x.asid).any fun c => ((sealedOwner s c x.leaf).getD c).asid == r.asid
  let gone (x : TlbEnt) : Bool := ofPage x && owned x
  { s with dies := s.dies.map fun d => { d with tlb := d.tlb.filter fun x => !gone x, l1 := d.l1.filter fun x => !gone x.2 } }

/-- Update the record of a frame. -/
def modFrame (s : State) (asid lfn : Nat) (f : FrameRec → FrameRec) : State :=
  modCtx s asid fun c => { c with frames := modBy (·.lfn == lfn) f c.frames }

/-- The frames of a page come to a die; `none` where one of them finds no room there. -/
def moveFrames (f : VFunc) (asid die window : Nat) : List Nat → State → Option State
  | [], s => some s
  | l :: ls, s =>
    (takeFrame die (freeRuns s f asid die)).bind fun place =>
      moveFrames f asid die window ls (modFrame s asid l fun x => { x with place := place, moved := some window })

/-- Backed frames of the page of a re-home. -/
def rehomeLfns (s : State) (r : Rehome) : List Nat :=
  ((getCtx s r.asid).map fun c => (c.frames.filter (samePage r.pages 2 r.lfn)).map (·.lfn)).getD []

/-- REHOME_COMPLETE (R305): the page as a whole stands on its new die and its translations are dropped; the message of
the home's move (Table 20.9). -/
def execRehomeComplete (asid lfn : Nat) (s : State) : Host.Outcome State Fault Refusal :=
  match s.rehomes.find? fun r => r.asid == asid && r.lfn == lfn with
  | none => .next s
  | some r =>
    let s := { s with rehomes := s.rehomes.filter fun x => !(x.asid == asid && x.lfn == lfn) }
    let ls := rehomeLfns s r
    match (ctxFunc s asid).bind fun f => moveFrames f asid r.die (s.cox / 2 ^ 20) ls s with
    | none => .next s
    | some s => .next (postMail (dropPageTlb s r) 0x20 3 (16 + r.die) asid [asid, lfn, r.die])

/-! ## A die fails during heats (R233) -/

/-- The value that an entry drives after the identifier phase: key, die, core, 60 bits. -/
def drivenValue (x : Entry) : Nat := heatValue x

/-- Bit time at which a value withdraws against the greatest one; `none` if they are equal (R231). -/
def withdrawsAt (v top : Nat) : Option Nat :=
  ((List.range 60).find? fun i => v.testBit (59 - i) != top.testBit (59 - i)).map (9 + ·)

/-- The present bit time of a heat: 8 ns each, 5 ns to a tick. -/
def bitTime (s : State) (h : HeatRun) : Nat := (s.cox + 112 - h.end_) * 5 / 8

/-- The bit time in which a die of a heat withdraws: in the identifier phase where it drives only identifiers that lose,
else against the winner; `none` for the winner's own (R231). -/
def dieWithdraws (r : RLane) (h : HeatRun) (die : Nat) : Option Nat :=
  match heatWinner h.entrants, heatWinner (h.entrants.filter (·.die == die)) with
  | some w, some x => withdrawsAt (drivenValue x) (drivenValue w)
  | _, _ => some (identWithdraws r.w h.ident h.losers die)

/-- A die drives in a heat. -/
def drivesIn (h : HeatRun) (die : Nat) : Bool := (h.entrants ++ h.losers).any (·.die == die)

/-- A die of a heat has withdrawn. -/
def hasWithdrawn (s : State) (r : RLane) (h : HeatRun) (die : Nat) : Bool :=
  (dieWithdraws r h die).any (· < bitTime s h)

/-- The contenders of a die leave a regatta lane; a heat in which it had not withdrawn is void. -/
def failLane (s : State) (die : Nat) (r : RLane) : RLane :=
  { r with waiting := r.waiting.filter (·.die != die),
           run := r.run.map fun h =>
             if drivesIn h die then
               { h with entrants := h.entrants.filter (·.die != die), losers := h.losers.filter (·.die != die),
                        void := h.void || !hasWithdrawn s r h die }
             else h }

/-- One heat in which the failed die drives: its fault goes to the log of the function whose identifier it is (R230,
R233, R343, log 99). -/
def planeFault (die : Nat) (s : State) (h : HeatRun) : State :=
  addSummary { s with planeFaults := s.planeFaults + 1 } (h.ident / 16)
    { cox := s.cox, asid := 0, cls := 0, kind := 3, die := die }

/-- Regatta-plane faults are recorded where heats run with the die in them (R233, R343). -/
def planeFaults (s : State) (die : Nat) : State :=
  ((s.rlanes.filterMap (·.run)).filter (drivesIn · die)).foldl (planeFault die) s

/-! ## Waiters on other dies (R312) -/

/-- The timelines on which a lane of a grid is blocked on a die other than `die`. -/
def awaitedTimelines (s : State) (grid die : Nat) : List Nat :=
  ((s.groups.filter fun g => g.die != die && (getTeam s g.tid).any (·.grid == grid)).flatMap fun g =>
    g.threads.filterMap fun t => match t.stall with | some (.timeline key _) => some key | _ => none).dedup

/-- The greatest value that a blocked lane awaits on a timeline. -/
def greatestAwaited (s : State) (key : Nat) : Nat :=
  (s.groups.flatMap fun g => g.threads.filterMap fun t =>
    match t.stall with | some (.timeline k n) => if k == key then some n else none | _ => none).foldl max 0

/-- Every lane blocked on a timeline wakes: its `tlwait` returns. -/
def wakeTimeline (s : State) (key : Nat) : State :=
  let here (t : Thread) : Bool := match t.stall with | some (.timeline k _) => k == key | _ => false
  s.groups.foldl (fun s g =>
    let ls := (g.threads.filter here).map (·.lane)
    let s := ls.foldl (fun s l => modLane s g.gid l fun t => nextWord { t with spBack := none }) s
    countEvent s (teamAsid s g.tid) 0 ls.length) s

/-- One timeline is poisoned: ERR, and ISSUED and DONE past every blocked lane, which then wakes (R195, R312). -/
def poisonTimeline (s : State) (key : Nat) : State :=
  let n := max (getBytes s (key + 8) 8 % 2 ^ 63) (greatestAwaited s key)
  let asid := key / 2 ^ 64 % 2 ^ 64
  wakeTimeline (bankWrite (bankWrite s asid key 8 n) asid (key + 8) 8 (n % 2 ^ 63 + 2 ^ 63)) key

/-! ## The end of the grids of a die (R351) -/

/-- A gang stands on a die: a group of it does, or it holds cores there. -/
def gangOn (s : State) (die : Nat) (k : Gang) : Bool :=
  holdsCores k && (if (gangGroups s k).isEmpty then k.die == die else (gangGroups s k).any (·.die == die))

/-- One grid with gangs on a die that is lost ends (R351 steps 1, 2; R312). -/
def loseGrid (die code : Nat) (s : State) (grid : Nat) : State :=
  let s := (awaitedTimelines s grid die).foldl poisonTimeline s
  let lost := (s.gangs.filter fun k => k.grid == grid && gangOn s die k)
  let s := lost.foldl (fun s k => discardGang (dropRequest s k) k.key) s
  endGrid s grid code

/-- Grids with a gang on a die. -/
def gridsOn (s : State) (die : Nat) : List Nat := ((s.gangs.filter (gangOn s die)).map (·.grid)).dedup

/-- Shipping toward a die that is lost starts anew (R229). -/
def dropShips (s : State) (die : Nat) : State :=
  { s with groups := s.groups.map fun g =>
      if g.ship.any (·.1 == die) then
        { g with ship := none, threads := g.threads.map fun t => if t.stall == some .ship then { t with stall := none } else t }
      else g }

/-- The compute domain of a die is gone: its heats, its translations, its queues. -/
def clearDie (s : State) (die : Nat) : State :=
  let s := { s with rlanes := s.rlanes.map (failLane s die) }
  let s := dropShips s die
  modDie s die fun d => { d with tlb := [], l1 := [], walks := [], wfaults := [], kicks := [], enq := [], newClk := none }

/-! ## Crash dumps (R374) -/

/-- A byte of a frame as it is stored (R362). -/
def storedByte (s : State) (c : Context) (f : FrameRec) (i : Nat) : Nat :=
  let key := keyGlb c.asid f.lfn i
  if f.cc == 0 then getBytes s key 1 else ((cipherBlock s c f key).extractLsb' (8 * (i % 16)) 8).toNat

/-- A context's state is dumped: an operator's is, an owner's only with the debug lock open. -/
def dumpsState (s : State) (c : Context) : Bool := c.tag == 0 || s.boot.debugOpen

/-- A frame's place of a dump. -/
def dumpFrame (s : State) (c : Context) (f : FrameRec) : DumpPlace :=
  if dumpsState s c then .frame c.asid f.lfn ((List.range 4096).map (storedByte s c f)) else .left c.asid 4096

/-- Gangs of a context with groups on a die, with those groups. -/
def gangsOnDie (s : State) (asid die : Nat) : List (Gang × List Group) :=
  (s.gangs.map fun k => (k, (gangGroups s k).filter fun g => g.die == die && teamAsid s g.tid == asid)).filter
    fun x => !x.2.isEmpty

/-- A gang's place of a dump; its length is that of its image (log 52). -/
def dumpGang (s : State) (c : Context) (x : Gang × List Group) : DumpPlace :=
  if dumpsState s c then .gang c.asid x.2 else .left c.asid (imageSize x.1 x.1.epoch)

/-- The places of a context in the dump of a die: frames with a line there, its gangs there, its records that wait. -/
def dumpContext (s : State) (die : Nat) (c : Context) : List DumpPlace :=
  let fs := c.frames.filter fun f => f.place.any (·.die == die)
  let rs := c.pending.filter (·.die == die)
  fs.map (dumpFrame s c) ++ (gangsOnDie s c.asid die).map (dumpGang s c) ++
  (if rs.isEmpty then [] else [if dumpsState s c then .records c.asid rs else .left c.asid (96 * rs.length)])

/-- The dump of a die's fatal error: what contexts have there, and the die's control cores. -/
def dumpOf (s : State) (die : Nat) : Dump :=
  { die := die, places := (s.contexts.flatMap (dumpContext s die)) ++
      (List.range 4).map fun i => .core (controlCore die i) (getRv s (controlCore die i)) }

/-! ## A die's fatal error -/

/-- DIE_FATAL_ERROR (R233, R312, R331, R351, R374), also of a thermal trip (R398). -/
def dieFails (s : State) (die : Nat) : State :=
  if !(getDie s die).alive || 8 ≤ die then s
  else
    let gs := gridsOn s die
    let d := dumpOf s die
    let s := planeFaults s die
    let s := addSummaryAll s { cox := s.cox, asid := 0, cls := 0, kind := 4, die := die }
    let s := dropInstance s die
    let s := gs.foldl (loseGrid die 0x07) s
    let s := clearDie s die
    let s := modDie s die fun d => { d with alive := false, resetting := false, resetWait := false }
    let s := { s with dumps := d :: s.dumps }
    postMail s 0x10 (16 + die) 4 0 [0, die, s.cox]

/-- DIE_FATAL_ERROR (R351). -/
def execDieFatalError (die : Nat) (s : State) : Host.Outcome State Fault Refusal := .next (dieFails s die)

/-- LINK_RETRY (R382, R384): LRT saturates. -/
def execLinkRetry (die : Nat) (s : State) : Host.Outcome State Fault Refusal :=
  .next (modDie s die fun d => { d with lrt := min (d.lrt + 1) (2 ^ 64 - 1) })

/-! ## Reset of a die with key retirement (R359 to R361) -/

/-- A 128-byte line of device memory is lost: it reads as 0, its four sectors are poisoned and its versions start
fresh (R360). -/
def loseLine (s : State) (key : Nat) : State :=
  let l := key / 128 * 128
  let s := zeroRange s l 128
  let ps := (List.range 4).map (l / 32 + ·)
  { s with poison := s.poison.filter (fun p => !ps.contains p) ++ ps,
           versions := s.versions.filter fun v => !(v.1 == l / 64 || v.1 == l / 64 + 1) }

/-- Lines of a frame that are homed on a die. -/
def linesOn (f : VFunc) (die : Nat) (x : FrameRec) : List Nat := (List.range 32).filter fun j => lineHome f x j == die

/-- What a context lost with a die: whole frames and lines of interleaved ones. -/
def lostCount (f : VFunc) (die : Nat) (c : Context) : Nat :=
  (c.frames.map fun x => let n := (linesOn f die x).length; if x.home == 0 then n else if n == 0 then 0 else 1).sum

/-- Heap lines of a context's live grids that are homed on a die: addresses. -/
def heapLinesOn (s : State) (f : VFunc) (die asid : Nat) : List Nat :=
  let ds := memSet f
  (s.grids.filter fun g => g.asid == asid && !g.ended).flatMap fun g =>
    ((List.range (g.gsize / 128)).map fun i => g.gbase + 128 * i).filter fun a => ds.getD (a / 128 % ds.length) 8 == die

/-- A notice joins those of a context: the 65th replaces the oldest (R361). -/
def addNotice (n : Notice) (c : Context) : Context :=
  let c := { c with noticeNo := c.noticeNo + 1 }
  if c.notices.length < 64 then { c with notices := c.notices ++ [n] }
  else { c with notices := c.notices.drop 1 ++ [n], noticeDropped := c.noticeDropped + 1 }

/-- One context at step 4 and 5 of R359. -/
def loseContext (die : Nat) (s : State) (c : Context) : State :=
  match getFunc s c.vf with
  | none => s
  | some f =>
    let keys := c.frames.flatMap fun x => (linesOn f die x).map fun j => keyGlb c.asid x.lfn (128 * j)
    let heap := heapLinesOn s f die c.asid
    let n : Notice := { number := c.noticeNo, die := die, cox := s.cox, synt := s.synt, lost := lostCount f die c + heap.length }
    let s := keys.foldl loseLine s
    let s := heap.foldl (fun s a => loseLine s (keyHeap c.asid a)) s
    if c.tag == 1 then modCtx s c.asid (addNotice n) else s

/-- Re-homes that touch a die are abandoned (R359 step 3): a page whose old home it is is lost with its frame. -/
def dropRehomes (s : State) (die : Nat) : State :=
  { s with rehomes := s.rehomes.filter fun r =>
      !(r.die == die || ((getCtx s r.asid).bind (frameOf · r.lfn)).any fun x => frameHome x == die) }

/-- The commons of a die are zeroed and their tags cleared (R401, R402). -/
def zeroCommons (s : State) (die : Nat) : State := zeroRange s (keyCmn die 0) (2 ^ 64)

/-- Steps 2 to 6 of R359. -/
def resetDieNow (s : State) (die : Nat) : State :=
  let s := (gridsOn s die).foldl (loseGrid die 0x08) s
  let s := dropRehomes s die
  let s := (s.contexts.filter (·.live)).foldl (loseContext die) s
  let s := zeroCommons (clearDie (dropInstance s die) die) die
  modDie s die fun d =>
    { d with alive := true, resetting := true, resetWait := false, cyc := 0, frac := 0, clk := 400 }

/-- A gang on a die is being stopped for an image (R359 step 1). -/
def imagePending (s : State) (die : Nat) : Bool :=
  s.gangs.any fun k => k.status == .stopping && gangOn s die k && match k.cause with | .image .. | .move .. => true | _ => false

/-- A reset of a compute die begins: where an image is being sealed there, it waits for it. -/
def resetDieBegin (s : State) (die : Nat) : State :=
  if imagePending s die then modDie s die fun d => { d with resetWait := true } else resetDieNow s die

/-- DIE_RESET_COMPLETE (R402, R331): a reset that waited goes on, or the die has repeated stage 3 and its instance
rejoins. -/
def execDieResetComplete (die : Nat) (s : State) : Host.Outcome State Fault Refusal :=
  let d := getDie s die
  if d.resetWait then .next (if imagePending s die then s else resetDieNow s die)
  else if d.resetting then .next (joinInstance (modDie s die fun d => { d with resetting := false }) die)
  else .next s

end Sys2Proof.Machine
end

