-- ==== Sys2Proof/Machine/Contexts.lean ====
section
/-!
DEFINITION. Creating, departing and resetting through the context registers (R353, R354, R356, R379, R381, R391), and the
debug lock (R372).
-/

namespace Sys2Proof.Machine

/-! ## Identifiers -/

/-- A key identifier is not free: a context holds it, or it is retired and scrub has not passed its frames (R356). -/
def keyTaken (s : State) (k : Nat) : Bool := s.contexts.any (·.keyid == k) || s.retired.contains k

/-- A free number from `lo` to `hi`: the one that the hint gives, or the lowest (log 5). -/
def pickFree (hint lo hi : Nat) (taken : Nat → Bool) : Option Nat :=
  let h := lo + hint % (hi - lo + 1)
  if !taken h then some h else ((List.range (hi - lo + 1)).map (lo + ·)).find? fun n => !taken n

/-- 4 KiB frames of a function's slices. -/
def sliceFrames (f : VFunc) : Nat := ((computeDies.map fun d => (memSlice f d).2).sum) / 32

/-- CSTAT with a code. -/
def ctxCode (s : State) (code : Nat) : State := { s with pf := { s.pf with ccode := code } }

/-- BUSY of CSTAT: a die is being reset. -/
def ccmdBusy (s : State) : Bool := s.dies.any fun d => d.resetting || d.resetWait

/-! ## Create (R354) -/

/-- The fault queue's control block as it is fixed (R341). -/
def fixQueue (s : State) (c : Context) : State :=
  seatWrite c false c.fqAddr ([0, 0, c.fqLog2] ++ List.replicate 13 0) s

/-- A new context of tag `tag`. -/
def newContext (s : State) (vf tag asid keyid ck : Nat) : Context :=
  let opr : Bool := tag == 0
  { asid := asid, tag := tag, keyid := keyid, vf := vf, live := opr, pool := s.pf.cpool.toNat,
    root := if opr then s.pf.croot.toNat else 0, measured := false, measurement := none, ck := if opr then ck else 0,
    stream := none, fqAddr := if opr then bitsN s.pf.cfq.toNat 47 0 else 0,
    fqLog2 := if opr then bitsN s.pf.cfq.toNat 51 48 + 4 else 4, seq := 0, pending := [], svcr := 0, trvec := 0,
    counts := [], notices := [], noticeNo := 0, noticeDropped := 0, frames := [], hold := false }

/-- A create (R354, R379). -/
def createContext (s : State) (vf tag : Nat) : State :=
  match getFunc s vf with
  | none => ctxCode s 2
  | some f =>
    if tag == 3 then ctxCode s 2
    else if sliceFrames f < s.pf.cpool.toNat then ctxCode s 5
    else if tag == 1 && s.contexts.any (fun c => c.vf == vf && c.tag == 1) then ctxCode s 1
    else
      let a := takeFree s
      let b := takeFree a.1
      let k := takeFree b.1
      match pickFree a.2 1 65535 (fun n => s.contexts.any (·.asid == n)), pickFree b.2 1 255 (keyTaken s) with
      | some asid, some keyid =>
        let c := newContext s vf tag asid keyid k.2
        let s := { k.1 with contexts := k.1.contexts ++ [c],
                            pf := { k.1.pf with ccode := 0, casid := asid, ckeyid := keyid } }
        if tag == 0 then fixQueue (postUpdate s vf (.context asid true)) c else s
      | _, _ => ctxCode s 1

/-! ## Quarantine (R391) -/

/-- Physical frames of chunks on a die. -/
def chunkFrames (die : Nat) (cs : List Chunk) : List Nat :=
  ((chunkLines false die cs).flatMap fun r => (List.range ((r.2 - r.1) / 32)).map (r.1 / 32 + ·)).dedup

/-- Add a frame to ranges: it extends a range of this departure or begins one. -/
def addFrame (vf keyid : Nat) : List QRange → Nat → List QRange
  | [], n => [⟨n, n, n, [keyid], some vf, false, []⟩]
  | q :: qs, n =>
    if q.keyids == [keyid] && !q.cleared && q.frontier == q.first && q.holes.isEmpty && (q.last + 1 == n || n + 1 == q.first) then
      { q with first := min q.first n, last := max q.last n, frontier := min q.first n } :: qs
    else q :: addFrame vf keyid qs n

/-- The gap between two ranges, in frames. -/
def rangeGap (a b : QRange) : Nat := if a.last < b.first then b.first - a.last - 1 else a.first - b.last - 1

/-- Every pair of ranges. -/
def rangePairs : List QRange → List (QRange × QRange)
  | [] => []
  | q :: qs => qs.map (fun r => (q, r)) ++ rangePairs qs

/-- The pair of ranges with the smallest gap. -/
def closest : List (QRange × QRange) → Option (QRange × QRange)
  | [] => none
  | p :: ps =>
    match closest ps with
    | none => some p
    | some x => if rangeGap p.1 p.2 ≤ rangeGap x.1 x.2 then some p else some x

/-- Frames of a die that contexts and live grids hold, or that lie in fenced devices, as runs. -/
def liveFrames (s : State) (die : Nat) : List (Nat × Nat) :=
  ((s.contexts.flatMap fun c => c.frames.flatMap fun f => chunkLines false die f.place) ++
    (s.grids.flatMap fun g => chunkLines false die g.gplace) ++ fencedLines s die).map fun r => (r.1 / 32, (r.2 + 31) / 32)

/-- Two ranges merge, and the free frames between them join: what else lies between its ends is a hole (R391). -/
def mergeRanges (live : List (Nat × Nat)) (a b : QRange) : QRange :=
  let lo := if a.first < b.first then a else b
  let hi := if a.first < b.first then b else a
  let gap := live.foldl (fun rs u => rs.flatMap (cutRun u)) (if lo.last + 1 < hi.first then [(lo.last + 1, hi.first)] else [])
  let own := rangeRuns a ++ rangeRuns b ++ gap
  let frontier := min a.frontier b.frontier
  let last := max a.last b.last
  { first := lo.first, last := last, frontier := frontier, keyids := a.keyids ++ b.keyids, vf := a.vf.or b.vf,
    cleared := a.cleared && b.cleared, holes := own.foldl (fun rs u => rs.flatMap (cutRun u)) [(frontier, last + 1)] }

/-- A table of at most 64 ranges (R391). -/
def fitRanges (live : List (Nat × Nat)) : Nat → List QRange → List QRange
  | 0, qs => qs
  | n + 1, qs =>
    if qs.length ≤ 64 then qs
    else
      match closest (rangePairs qs) with
      | none => qs
      | some (a, b) => fitRanges live n ((qs.filter fun q => q != a && q != b) ++ [mergeRanges live a b])

/-- Frames of a departing context join the quarantine of a die. -/
def quarantine (s : State) (die vf keyid : Nat) (cs : List Chunk) : State :=
  let ns := chunkFrames die cs
  modDie s die fun d =>
    let qs := ns.foldl (addFrame vf keyid) d.quar
    { d with quar := fitRanges (liveFrames s die) qs.length qs }

/-- Retired key identifiers whose ranges are all scrubbed are free (R356, R392). -/
def freeKeys (s : State) : State :=
  { s with retired := s.retired.filter fun k => s.dies.any fun d => d.quar.any fun q => q.keyids.contains k }

/-! ## Departure (R356) -/

/-- A grid ends at once: its queued writes are performed, its gangs discarded, its end signalled. -/
def killGrid (code : Nat) (s : State) (grid : Nat) : State :=
  let s := modGrid s grid fun g => { g with endCode := g.endCode.or (some code) }
  let ks := s.gangs.filter (·.grid == grid)
  let s := ks.foldl (fun s k => (gangGroups s k).foldl (fun s g =>
    match env s g.gid with
    | some e => drainGroup s e.ctx.asid g.gid
    | none => s) s) s
  let s := ks.foldl (fun s k => discardGang (dropRequest s k) k.key) s
  let s := { s with ncopies := s.ncopies.filter (·.grid != grid) }
  match getGrid s grid with
  | none => s
  | some g =>
    if g.ended then s
    else modGrid (signalEnd s g) grid fun g => { g with ended := true, gplace := [], blocks := [], joins := 0, spawn := 0 }

/-- Every command of a queue has finished: DONE passes them in order. -/
def finishAll (s : State) (vf q : Nat) : Nat → State
  | 0 => s
  | n + 1 =>
    match execCommandFinish vf q s with
    | .next s => finishAll s vf q n
    | _ => s

/-- A queue that is bound to a departing context, or is about to be, stops, and the commands that run in the context finish with code 0x08. -/
def closeQueue (vf asid : Nat) (s : State) (x : CQueue) : State :=
  let s := if boundTo s vf x == asid then modCmdQueue s vf x.q fun x => { x with en := false } else s
  let s := x.cmds.foldl (fun s c =>
    match c.status with
    | .finished _ => s
    | _ => if c.asid == asid then finishCmd s vf x.q c.id 0x08 else s) s
  finishAll s vf x.q x.cmds.length

/-- Bytes, poison and versions of a context's frames and heaps go. -/
def dropMemory (s : State) (asid : Nat) : State :=
  let mine (b : Nat) : Bool := (b / 2 ^ 128 == 1 || b / 2 ^ 128 == 2) && b / 2 ^ 64 % 2 ^ 64 == asid
  { s with mem := s.mem.filter fun c => !mine c.1, poison := s.poison.filter fun p => !mine (p * 32),
           versions := s.versions.filter fun v => !mine (v.1 * 64) }

/-- Commons lines that a departing OWN context last wrote are zeroed and their tags cleared (R379). -/
def dropCommons (s : State) (asid : Nat) : State :=
  let ls := (s.cmnTags.filter (·.2 == asid)).map (·.1)
  ls.foldl (fun s l => zeroRange s (l * 128) 128) s

/-- What else names a departed context goes. -/
def dropNames (s : State) (asid : Nat) : State :=
  { s with
    dies := s.dies.map fun d =>
      { d with tlb := d.tlb.filter (·.asid != asid), l1 := d.l1.filter (·.2.asid != asid), walks := d.walks.filter (·.1 != asid),
               wfaults := d.wfaults.filter (·.1 != asid) },
    backing := s.backing.filter (·.asid != asid), rehomes := s.rehomes.filter (·.asid != asid),
    ncopies := s.ncopies.filter (·.asid != asid),
    pf := match s.pf.ckwait with
      | some x => if x.asid == asid then { s.pf with ckwait := none, ckcode := if x.op == 3 then 9 else 7 } else s.pf
      | none => s.pf,
    sessions := s.sessions.map fun x => if x.asid == some asid then { x with asid := none } else x,
    rv := s.rv.map fun r => if r.2.asid == asid then (r.1, { r.2 with busy := false, join := none, asid := 0 }) else r }

/-- Step 3 of R356: the key is erased from every die and its identifier retired; images restore no more. -/
def retireKey (s : State) (c : Context) : State :=
  let grids := (s.grids.filter (·.asid == c.asid)).map (·.key)
  let gangs := (s.gangs.filter fun k => grids.contains k.grid).map (·.key)
  { s with gangs := s.gangs.map fun k => if gangs.contains k.key then { k with keyGone := true } else k,
           images := s.images.filter fun i => !gangs.contains i.1,
           retired := if s.retired.contains c.keyid then s.retired else s.retired ++ [c.keyid] }

/-- A context departs (R356). -/
def departContext (s : State) (asid : Nat) : State :=
  match getCtx s asid with
  | none => s
  | some c =>
    let heaps := (s.grids.filter fun g => g.asid == asid && !g.ended).flatMap (·.gplace)
    let gs := (s.grids.filter fun g => g.asid == asid && !g.ended).map (·.key)
    let s := gs.foldl (killGrid 0x08) s
    let qs := ((getFunc s c.vf).map fun f => f.queues.filter fun x => boundTo s c.vf x == asid || x.cmds.any (·.asid == asid)).getD []
    let s := qs.foldl (closeQueue c.vf asid) s
    let frames := (((getCtx s asid).map (·.frames)).getD []).flatMap (·.place)
    let s := retireKey s c
    let s := if c.tag == 1 then dropCommons s asid else s
    let s := dropNames (dropMemory s asid) asid
    let s := { s with contexts := s.contexts.filter (·.asid != asid) }
    let s := computeDies.foldl (fun s d => quarantine s d c.vf c.keyid (frames ++ heaps)) s
    freeKeys (postMail (postUpdate s c.vf (.context asid false)) 0x30 5 6 asid [c.keyid])

/-! ## CCMD (R353) -/

/-- The whole module is lost: the state that a cold boot begins with is made by the boot (R359, R399). -/
def ccmdWrite (s : State) (v : Word) (moduleReset : State → State) : State :=
  let n := v.toNat
  let op := bitsN n 3 0
  if ccmdBusy s then ctxCode s 4
  else if bitsN n 11 10 != 0 || op == 0 || 3 < op then ctxCode s 2
  else if op == 1 then createContext s (bitsN n 7 4) (bitsN n 9 8)
  else if op == 2 then
    (if (getCtx s (bitsN n 31 16)).isSome then ctxCode (departContext s (bitsN n 31 16)) 0 else ctxCode s 3)
  else if 8 < bitsN n 15 12 then ctxCode s 2
  else if bitsN n 15 12 == 8 then moduleReset s
  else ctxCode (resetDieBegin s (bitsN n 15 12)) 0

/-- CONTEXT_CREATE (R353, R354): a CCMD write with OP 1. -/
def execContextCreate (path : Path) (v : Word) (s : State) : Host.Outcome State Fault Refusal :=
  .next (if bar2Open s path then ccmdWrite s (withOp v 1) id else s)

/-- CONTEXT_DESTROY (R353, R356): a CCMD write with OP 2. -/
def execContextDestroy (path : Path) (v : Word) (s : State) : Host.Outcome State Fault Refusal :=
  .next (if bar2Open s path then ccmdWrite s (withOp v 2) id else s)

/-- FUNCTION_LEVEL_RESET (R381): every context of the function departs. -/
def execFunctionLevelReset (vf : Nat) (s : State) : Host.Outcome State Fault Refusal :=
  .next (((s.contexts.filter (·.vf == vf)).map (·.asid)).foldl departContext s)

/-! ## The debug lock (R372) -/

/-- A write of DBGLK (Table 22.2). -/
def dbglkWrite (s : State) (v : Word) : State :=
  if v.toNat / 4 != 0 then s
  else if v.getLsbD 1 then { s with boot := { s.boot with debugOpen := false } } else s

/-- DEBUG_LOCK_CLOSE (R372): a write of DBGLK with CLOSE set. -/
def execDebugLockClose (path : Path) (v : Word) (s : State) : Host.Outcome State Fault Refusal :=
  .next (if bar2Open s path then dbglkWrite s (v ||| 2) else s)

end Sys2Proof.Machine
end

