-- ==== Sys2Proof/Machine/Spdm.lean ====
section
/-!
DEFINITION. Seat 6 and seat 5: SPDM requests and secured sessions (R352, R368), binding (R355), measured code (R370,
R371), notices and counts (R361, R369), and the rekey of link streams (R365 to R367).
-/

namespace Sys2Proof.Machine

/-! ## Answers -/

/-- Seat 6 answers. -/
def reply (s : State) (r : Reply) : State := { s with replies := r :: s.replies }

/-- An open session. -/
def getSession (s : State) (id : Nat) : Option Session := s.sessions.find? (·.id == id)
/-- Update a session. -/
def modSession (s : State) (id : Nat) (f : Session → Session) : State :=
  { s with sessions := modBy (·.id == id) f s.sessions }

/-- A request outside sessions or in an open one, once SPDM answers (Table 25.4). -/
def onSpdm (s : State) (sess : Option Nat) (f : State → State) : Host.Outcome State Fault Refusal :=
  if !windowsUp s then .next s
  else
    match sess with
    | none => .next (f s)
    | some id => .next (if (getSession s id).isSome then f s else reply s .errorInvalid)

/-- A request in a session. -/
def inSession (s : State) (id : Nat) (f : Session → State) : Host.Outcome State Fault Refusal :=
  if !windowsUp s then .next s
  else
    match getSession s id with
    | none => .next (reply s .errorInvalid)
    | some x => .next (f x)

/-! ## Measurement blocks (Table 22.8) -/

/-- SHA-256 over numbers (log 7). -/
def sha (xs : List Nat) : Nat := Config.crypto 4 xs % 2 ^ 256

/-- The chain over the applied configuration records, in application order. -/
def recordChain (rs : List Nat) : Nat := rs.foldl (fun h r => sha [h, r]) 0

/-- A fenced unit in the list that block 4 covers: its kind, die and numbers; the list's form is not given (log 82). -/
def fenceWords : FenceUnit → List Nat
  | .core d c => [0, d, c, 0]
  | .lane d c l => [1, d, c, l]
  | .bank d b => [2, d, b, 0]
  | .memory d m => [3, d, m, 0]

/-- The bytes of a number, least significant first. -/
def natBytes (n x : Nat) : List Nat := (List.range n).map fun i => x / 256 ^ i % 256

/-- A measurement block; 0 for an index that has none. -/
def measureBlock (s : State) : Nat → Nat
  | 1 => sha (s.boot.image.map (·.toNat))
  | 2 => recordChain s.boot.records
  | 3 => s.boot.debugOpen.toNat
  | 4 => sha (s.boot.fenced.flatMap fenceWords)
  | _ => 0

/-- An RSASSA-3072 signature of the device key over numbers (log 7). -/
def sign (xs : List Nat) : Nat := Config.crypto 5 [sha xs] % 2 ^ 3072

/-! ## Requests of Table 22.7 -/

/-- GET_VERSION (R368). -/
def execGetVersion (sess : Option Nat) (s : State) : Host.Outcome State Fault Refusal := onSpdm s sess (reply · .version)
/-- GET_CAPABILITIES (R368). -/
def execGetCapabilities (sess : Option Nat) (s : State) : Host.Outcome State Fault Refusal :=
  onSpdm s sess (reply · .capabilities)
/-- NEGOTIATE_ALGORITHMS (R368). -/
def execNegotiateAlgorithms (sess : Option Nat) (s : State) : Host.Outcome State Fault Refusal :=
  onSpdm s sess (reply · .algorithms)
/-- The certificate chain of slot 0: that of a configuration record (Table 22.7), or where none gives it an unknown one
(log 7). -/
def certChain (s : State) : Nat := s.boot.certs.getD (Config.crypto 6 [])

/-- GET_DIGESTS (R368): the digest of the chain in slot 0. -/
def execGetDigests (sess : Option Nat) (s : State) : Host.Outcome State Fault Refusal :=
  onSpdm s sess fun s => reply s (.digests (sha [certChain s]))
/-- GET_CERTIFICATE (R368): slot 0 holds the only chain. -/
def execGetCertificate (sess : Option Nat) (slot : Nat) (s : State) : Host.Outcome State Fault Refusal :=
  onSpdm s sess fun s => reply s (if slot == 0 then .certificate (certChain s) else .errorInvalid)
/-- CHALLENGE (R368). -/
def execChallenge (sess : Option Nat) (nonce : Nat) (s : State) : Host.Outcome State Fault Refusal :=
  onSpdm s sess fun s => reply s (.challengeAuth (sign (nonce :: [1, 2, 3, 4].map (measureBlock s))))
/-- GET_MEASUREMENTS (R368, Table 22.8): one block, or all of them for index 0xFF. -/
def execGetMeasurements (sess : Option Nat) (index : Nat) (s : State) : Host.Outcome State Fault Refusal :=
  onSpdm s sess fun s =>
    if index == 0xFF || (1 ≤ index && index ≤ 4) then
      let bs := (if index == 0xFF then [1, 2, 3, 4] else [index]).map (measureBlock s)
      reply s (.measurements bs (sign bs))
    else reply s .errorInvalid

/-- KEY_EXCHANGE (R368): at most 32 sessions are open. -/
def execKeyExchange (req : Nat) (s : State) : Host.Outcome State Fault Refusal :=
  onSpdm s none fun s =>
    if 32 ≤ s.sessions.length then reply s .errorSessionLimit
    else
      let x : Session := { id := s.nextId, finished := false, secret := Config.crypto 7 [req, s.nextId], keyGen := 0,
                           streams := [], peer := Config.peerPort s.nextId, asid := none }
      reply { s with nextId := s.nextId + 1, sessions := s.sessions ++ [x] } (.keyExchangeRsp x.id)

/-- HEARTBEAT (R368). -/
def execHeartbeat (sess : Nat) (s : State) : Host.Outcome State Fault Refusal :=
  inSession s sess fun x => reply s (if x.finished then .heartbeatAck else .errorInvalid)
/-- END_SESSION (R355, R368): bindings stay. -/
def execEndSession (sess : Nat) (s : State) : Host.Outcome State Fault Refusal :=
  inSession s sess fun _ => reply { s with sessions := s.sessions.filter (·.id != sess) } .endSessionAck
/-- UNSUPPORTED_REQUEST (R368). -/
def execUnsupportedRequest (sess : Option Nat) (_code : Nat) (s : State) : Host.Outcome State Fault Refusal :=
  onSpdm s sess (reply · .errorUnsupported)

/-! ## Link streams (R365 to R367) -/

/-- The stream with an identifier. -/
def getStream (s : State) (id : Nat) : Option LinkStream := s.streams.find? (·.id == id)
/-- Update a stream, or add it: where no configuration record sets its limit, its key carries the most that R365 allows,
2^32 blocks; that default is the model's choice (log 85). -/
def putStream (s : State) (id : Nat) (f : LinkStream → LinkStream) : State :=
  if (getStream s id).isSome then { s with streams := modBy (·.id == id) f s.streams }
  else { s with streams := s.streams ++ [f ⟨id, false, 0, 0, 2 ^ 32, none, false⟩] }

/-- The rekey of a stream waits for its heat, or the heat runs. -/
def rekeyPending (s : State) (id : Nat) : Bool :=
  s.rlanes.any fun r => r.waiting.any (·.who == .rekey id) || r.run.any fun h => h.entrants.any (·.who == .rekey id)

/-- A part of an operation goes to the host aperture. -/
def partToHost : Part → Bool
  | .store _ key .. | .encode _ key .. | .rmw _ key .. => keyKind key == 6
  | _ => false

/-- A die has traffic toward a stream: stores of a context bound to it that wait, or copies of it to or from host pages. -/
def streamTraffic (s : State) (id die : Nat) : Bool :=
  let bound (asid : Nat) : Bool := (getCtx s asid).any (·.stream == some id)
  (s.groups.any fun g => g.die == die && bound (teamAsid s g.tid) &&
    g.ops.any fun o => !o.performed && o.parts.any partToHost) ||
  s.transfers.any fun x => (getTeam s x.tid).any (·.die == die) && bound (teamAsid s x.tid) &&
    x.pieces.any fun p => keyKind p.src == 6 || keyKind p.dst == 6

/-- The entry of a die, or of seat 5 on X, in the rekey heat of a stream: device identifier 0xF2 under function 0, the
stream's number in bits [7:0] (R366). -/
def rekeyEntry (id die : Nat) : Entry :=
  { who := .rekey id, ident := heatIdent 0 0xF2, cid := 0xF2, key := id % 256, die := die, core := 0xFF, slot := 0, lane := 0 }

/-- Seat 5 enters the rekey heat on lane 2, and every compute die with traffic toward the stream (R366). -/
def enterRekey (s : State) (id : Nat) : State :=
  (8 :: computeDies.filter (streamTraffic s id)).foldl (fun s d => register s 2 (rekeyEntry id d)) s

/-- An easy-all of a stream starts, by the device or with the host's choice of its time (R365, R366). -/
def startRekey (s : State) (id : Nat) : State :=
  match getStream s id with
  | none => s
  | some x => if !x.keyed || x.draining || rekeyPending s id then s else enterRekey s id

/-- An easy-all of a stream is asked for: with REKEY set the host chooses the start before the deadline that it receives,
told as the blocks that the key may carry at most (log 85); a request that stands there is the host's, be REKEY clear by
now (R333). -/
def askRekey (s : State) (stream : Nat) : State :=
  match getFunc s 0, getStream s stream with
  | some f, some x =>
    if !x.keyed || x.draining || rekeyPending s stream || dutyPending f 7 stream 0 then s
    else if dutyBit f 7 then postDuty s 0 7 stream 0 [stream, 2 ^ 32]
    else startRekey s stream
  | _, _ => s

/-- EASY_ALL (R365, R366): the stream's key has carried its blocks, or the peer asks. -/
def execEasyAll (stream : Nat) (s : State) : Host.Outcome State Fault Refusal := .next (askRekey s stream)

/-- A key of a stream is agreed: its first, or one that an easy-all brings in (R365). -/
def agreeKey (s : State) (stream : Nat) : State :=
  if (getStream s stream).any (·.keyed) then askRekey s stream
  else putStream s stream fun y => { y with keyed := true, gen := y.gen + 1 }

/-- The streams of the peer ports and of the scale-out ports, numbered after those of IDE (log 85). -/
def peerStream (port : Nat) : Nat := 256 + port % 16
def etherStream (port : Nat) : Nat := 272 + port % 4

/-- FINISH (R368): the session of a peer link sets the link's key (Table 22.6). -/
def execFinish (sess : Nat) (s : State) : Host.Outcome State Fault Refusal :=
  inSession s sess fun x =>
    let s := match x.peer with
      | some p => if x.finished then s else agreeKey s (peerStream p)
      | none => s
    reply (modSession s sess fun x => { x with finished := true }) .finishRsp

/-- KEY_UPDATE (R368): that of a peer link's session agrees a new key of the link (Table 22.6). -/
def execKeyUpdate (sess : Nat) (s : State) : Host.Outcome State Fault Refusal :=
  inSession s sess fun x =>
    if x.finished then
      let s := match x.peer with
        | some p => agreeKey s (peerStream p)
        | none => s
      reply (modSession s sess fun x => { x with keyGen := x.keyGen + 1 }) .keyUpdateAck
    else reply s .errorInvalid

/-- The peer of a scale-out port agrees a key by MKA (Table 22.6). -/
def mkaAgreed (s : State) (port : Nat) : State := agreeKey s (etherStream port)

/-- Both ends swap the key slot and the stream reopens (R366 steps 3 and 4). -/
def swapKey (s : State) (id : Nat) : State :=
  putStream s id fun x => { x with gen := x.gen + 1, blocks := 0, drain := none, draining := false }

/-- EASY_ALL_DRAINED (R366). -/
def execEasyAllDrained (stream : Nat) (s : State) : Host.Outcome State Fault Refusal :=
  .next (if (getStream s stream).any (·.draining) then swapKey s stream else s)

/-- EASY_ALL_TIMEOUT (R367): 10 ms after the drain began; seat 5 reports, retrains and swaps. -/
def execEasyAllTimeout (stream : Nat) (s : State) : Host.Outcome State Fault Refusal :=
  match getStream s stream with
  | none => .next s
  | some x =>
    if x.draining && x.drain.any (· + 2000000 ≤ s.cox) then
      .next (postMail (swapKey s stream) 0x10 5 4 0 [stream, s.cox])
    else .next s

/-- IDE_KM (R355, R365): the keys of a stream are set in a session; a stream that has a key changes it by an easy-all. -/
def execIdeKm (sess stream : Nat) (s : State) : Host.Outcome State Fault Refusal :=
  inSession s sess fun x =>
    if !x.finished then reply s .errorInvalid
    else
      let s := modSession s sess fun x => { x with streams := if x.streams.contains stream then x.streams else x.streams ++ [stream] }
      reply (agreeKey s stream) .ideKmAck

/-! ## Binding (R355) -/

/-- The context key of a session: HKDF-Expand of its export master secret (log 7). -/
def contextKey (secret asid keyid : Nat) : Nat := Config.crypto 8 [secret, asid, keyid] % 2 ^ 256

/-- A context becomes live under a session's key. -/
def bindContext (ck : Nat) (r : BindReq) (c : Context) : Context :=
  let c := { c with live := true, ck := ck, stream := some r.stream }
  if c.tag == 1 then
    { c with root := r.root.toNat, fqAddr := r.fq.toNat, fqLog2 := r.log2, measured := r.measured }
  else c

/-- BIND (R355). -/
def execBind (sess : Nat) (r : BindReq) (s : State) : Host.Outcome State Fault Refusal :=
  inSession s sess fun x =>
    match getCtx s r.asid with
    | none => reply s .errorInvalid
    | some c =>
      let taken := s.contexts.any fun o => o.live && o.stream == some r.stream
      let bad : Bool := c.tag == 1 && (r.log2 < 4 || 16 < r.log2 || r.fq.toNat % 128 != 0)
      if !x.finished || c.live || taken || !x.streams.contains r.stream || bad then reply s .errorInvalid
      else
        let s := modCtx s r.asid (bindContext (contextKey x.secret r.asid c.keyid) r)
        let s := modSession s sess fun x => { x with asid := some r.asid }
        let c := (getCtx s r.asid).getD c
        let s := if c.tag == 1 then fixQueue s c else s
        reply (postMail (postUpdate s c.vf (.context c.asid true)) 0x30 6 5 r.asid [c.keyid]) (.bound r.asid c.keyid c.vf c.tag c.measured)

/-- A request about the context that a session has bound. -/
def onBound (s : State) (sess asid : Nat) (f : Context → State) : Host.Outcome State Fault Refusal :=
  inSession s sess fun x =>
    if x.asid != some asid then reply s .errorInvalid
    else
      match getCtx s asid with
      | none => reply s .errorInvalid
      | some c => f c

/-- DEPART (R356). -/
def execDepart (sess asid : Nat) (s : State) : Host.Outcome State Fault Refusal :=
  onBound s sess asid fun _ => reply (departContext s asid) (.departed asid)

/-! ## Measured code (R370) -/

/-- Pages of the ranges: first address and bytes, in ascending address order. -/
def sortRanges (rs : List (Nat × Nat)) : List (Nat × Nat) :=
  rs.foldr (fun r l => l.filter (fun x => x.1 < r.1) ++ r :: l.filter fun x => !(x.1 < r.1)) []

/-- The pages of a range. -/
def rangePages (r : Nat × Nat) : List Nat := (List.range ((r.2 + 4095) / 4096)).map (r.1 + 4096 * ·)

/-- Read the plaintext of pages; `none` where one does not translate. -/
def readPages (c : Context) : List Nat → State → State × Option (List Nat)
  | [], s => (s, some [])
  | a :: as, s =>
    match seatRead s ((getCtx s c.asid).getD c) false a 512 with
    | (s, none) => (s, none)
    | (s, some x) =>
      let r := readPages c as s
      (r.1, r.2.map (x :: ·))

/-- What M covers: each range in ascending order, as the 8 bytes of its start address and its bytes (R370). `pages`: the
contents of all pages in that order. -/
def rangeBytes : List Nat → List (Nat × Nat) → List Nat
  | _, [] => []
  | pages, r :: rs =>
    let n := (rangePages r).length
    natBytes 8 r.1 ++ (pages.take n).flatMap (natBytes 4096) ++ rangeBytes (pages.drop n) rs

/-- A page's frame is measured, with its one leaf. -/
def markPage (c : Context) (s : State) (a : Nat) : State :=
  match walkVa s ((getCtx s c.asid).getD c) 8 a with
  | .leaf x => modFrame s c.asid x.lfn fun f => { f with measured := true, leaf := some (a / 4096) }
  | _ => s

/-- SEAL_CODE (R370). -/
def execSealCode (sess asid : Nat) (ranges : List (Nat × Nat)) (s : State) : Host.Outcome State Fault Refusal :=
  onBound s sess asid fun c =>
    let rs := sortRanges ranges
    if !c.measured || c.measurement.isSome || 256 < rs.length || rs.any (fun r => r.1 % 4096 != 0 || r.2 % 4096 != 0) then
      reply s .errorInvalid
    else
      match readPages c (rs.flatMap rangePages) s with
      | (s, none) => reply s .errorInvalid
      | (s, some xs) =>
        let m := sha (rangeBytes xs rs)
        let s := (rs.flatMap rangePages).foldl (markPage c) s
        let s := dropTlb (modCtx s asid fun c => { c with measurement := some m }) asid
        reply s (.sealedCode m)

/-! ## Notices and counts (R361, R369) -/

/-- A notice as it goes out: its number, and under CK with a nonce of ASID, 16 zero bits and that number, ASID, DIE, %cox,
%synt and the count lost, in a layout of the model's (R361, log 100). -/
def sealNotice (c : Context) (n : Notice) : Nat × Nat × Nat :=
  let text := c.asid % 2 ^ 16 + 2 ^ 16 * (n.die % 2 ^ 16) + 2 ^ 64 * (n.cox % 2 ^ 64) + 2 ^ 128 * (n.synt % 2 ^ 64) +
    2 ^ 192 * (n.lost % 2 ^ 64)
  let nonce := c.asid % 2 ^ 16 * 2 ^ 80 + n.number % 2 ^ 64
  let x := gcmCipher c.ck nonce text 256
  (n.number, x, gcmTag c.ck nonce x 0)

/-- GET_NOTICE (R361): the notices that seat 6 keeps are handed over, sealed. -/
def execGetNotice (sess asid : Nat) (s : State) : Host.Outcome State Fault Refusal :=
  onBound s sess asid fun c =>
    reply (modCtx s asid fun c => { c with notices := [] }) (.notices (c.notices.map (sealNotice c)) c.noticeDropped)

/-- The eight counts of Table 11.6. -/
def countList (c : Context) : List Nat := (List.range 8).map (tget 0 c.counts)

/-- GET_COUNTS (R369): in a session bound to an AUD context of the same function; with CNTEXP set the block is also
posted to the host. -/
def execGetCounts (sess asid : Nat) (s : State) : Host.Outcome State Fault Refusal :=
  inSession s sess fun x =>
    match x.asid.bind (getCtx s ·), getCtx s asid with
    | some a, some c =>
      if a.tag != 2 || a.vf != c.vf then reply s .errorInvalid
      else
        let m := c.measurement.getD 0
        let cs := countList c
        let fields := [asid, m] ++ cs ++ [s.cox, s.synt]
        let s := if (getFunc s c.vf).any (dutyBit · 6) then postDuty s c.vf 6 asid 0 (fields ++ [sign fields]) else s
        reply s (.counts asid m cs s.cox s.synt (sign fields))
    | _, _ => reply s .errorInvalid

end Sys2Proof.Machine
end

