-- ==== Sys2Proof/Machine/Fleet.lean ====
section
/-!
DEFINITION. Partitions (R377, R378, R380), scrub and quarantine (R391, R392, R401), and the patrol read (R384).
-/

namespace Sys2Proof.Machine

/-! ## The staged partition (R377) -/

/-- PSTAT with a code. -/
def partCode (s : State) (code : Nat) : State := { s with pf := { s.pf with pcode := code } }

/-- Banks of each die given to the last-level cache. -/
def llcOf (s : State) : List (Nat × Nat) := computeDies.map fun d => (d, (getDie s d).llc)

/-- A write of PSEL: the registers take the function's current partition. -/
def pselWrite (s : State) (v : Word) : State :=
  if v.toNat / 16 != 0 then s
  else
    let part := ((getFunc s v.toNat).map (·.part)).getD Partition.none
    { s with pf := { s.pf with psel := v.toNat, staged := part, llc := llcOf s } }

/-- 256 MiB units of a die. -/
def dieUnits (d : Nat) : Nat := if d < 4 then 192 else 384
/-- Commons banks of a die. -/
def dieBanks (d : Nat) : Nat := if d < 4 then 64 else 160
/-- Most banks that LLC takes. -/
def llcMost (d : Nat) : Nat := if d < 4 then 32 else 80

/-- Memory units of a partition on a die: first and count. -/
def partUnits (p : Partition) (d : Nat) : Nat × Nat := let w := tget 0 p.memory d; (w / 2 ^ 16, w % 2 ^ 16)
/-- Commons banks of a partition on a die: first and count. -/
def partBanks (p : Partition) (d : Nat) : Nat × Nat := let w := tget 0 p.commons d; (w % 2 ^ 16, w / 2 ^ 16)

/-- A reserved field or a value out of range (Table 24.1). -/
def partBad (p : Partition) (llc : List (Nat × Nat)) (d : Nat) : Bool :=
  let m := partUnits p d
  let c := partBanks p d
  (4 ≤ d && tget 0 p.quads d / 2 ^ 16 != 0) || 2 ^ 16 ≤ m.1 || (m.2 != 0 && dieUnits d < m.1 + m.2) ||
  (c.2 != 0 && dieBanks d < c.1 + c.2) || llcMost d < tget 0 llc d

/-- Two runs, by first and count, share a unit. -/
def runsMeet (a b : Nat × Nat) : Bool := a.1 < b.1 + b.2 && b.1 < a.1 + a.2 && a.2 != 0 && b.2 != 0

/-- Two partitions overlap on a die. -/
def partsMeet (p q : Partition) (d : Nat) : Bool :=
  tget 0 p.quads d &&& tget 0 q.quads d != 0 || runsMeet (partUnits p d) (partUnits q d) ||
  runsMeet (partBanks p d) (partBanks q d)

/-- The banks of a partition reach those of the last-level cache. -/
def partInLlc (p : Partition) (llc : List (Nat × Nat)) (d : Nat) : Bool :=
  let c := partBanks p d
  c.2 != 0 && dieBanks d < c.1 + c.2 + tget 0 llc d

/-- A frame of some context is backed on a die, one of a heap too, or a gang is resident there (R225, R380). -/
def dieHeld (s : State) (d : Nat) : Bool :=
  s.contexts.any (fun c => c.frames.any fun f => f.place.any (·.die == d)) ||
  s.grids.any (fun g => !g.ended && g.gplace.any (·.die == d)) || s.gangs.any (gangOn s d)

/-- A function has a live or pending context. -/
def hasContext (s : State) (vf : Nat) : Bool := s.contexts.any (·.vf == vf)

/-- Why an apply fails: the code of Table 24.1, or 0. -/
def applyCode (s : State) (x : PartOp) : Nat :=
  let p := x.staged
  if computeDies.any (partBad p x.llc) then 3
  else if hasContext s x.psel then 1
  else if s.funcs.any (fun f => f.vf != x.psel && computeDies.any (partsMeet p f.part)) ||
      computeDies.any (partInLlc p x.llc) then 2
  else if computeDies.any fun d => tget 0 x.llc d != (getDie s d).llc && dieHeld s d then 4
  else 0

/-- Apply what was staged (R378). -/
def partApply (s : State) (x : PartOp) : State :=
  let n := applyCode s x
  if n != 0 then partCode s n
  else
    let s := modFunc s x.psel fun f => { f with part := x.staged }
    partCode { s with dies := s.dies.zipIdx.map fun d =>
      if d.2 < 8 then { d.1 with llc := tget 0 x.llc d.2 } else d.1 } 0

/-- Release every resource of the function (R378). -/
def partRelease (s : State) (x : PartOp) : State :=
  if hasContext s x.psel then partCode s 1
  else partCode (modFunc s x.psel fun f => { f with part := Partition.none }) 0

/-- A write of PCMD: BUSY until the operation has ended, and a write meanwhile is discarded with code 5 (R377). -/
def pcmdWrite (s : State) (v : Word) : State :=
  if s.pf.pbusy.isSome then partCode s 5
  else if v == 1 || v == 2 then
    { s with pf := { s.pf with pbusy := some ⟨v.toNat, s.pf.psel, s.pf.staged, s.pf.llc⟩ } }
  else partCode s 3

/-- The operation of a PCMD write ends. -/
def partitionStep (s : State) : State :=
  match s.pf.pbusy with
  | none => s
  | some x =>
    let s := { s with pf := { s.pf with pbusy := none } }
    if x.op == 1 then partApply s x else partRelease s x

/-- PARTITION_SELECT (R377): a write of PSEL. -/
def execPartitionSelect (path : Path) (v : Word) (s : State) : Host.Outcome State Fault Refusal :=
  .next (if bar2Open s path then pselWrite s v else s)

/-- PARTITION_APPLY (R377, R378, R380): a write of PCMD with OP 1. -/
def execPartitionApply (path : Path) (v : Word) (s : State) : Host.Outcome State Fault Refusal :=
  .next (if bar2Open s path then pcmdWrite s (withOp v 1) else s)

/-- PARTITION_RELEASE (R378): a write of PCMD with OP 2. -/
def execPartitionRelease (path : Path) (v : Word) (s : State) : Host.Outcome State Fault Refusal :=
  .next (if bar2Open s path then pcmdWrite s (withOp v 2) else s)

/-! ## Scrub (R391, R392) -/

/-- The request for a range stands at its host. -/
def rangePosted (s : State) (die : Nat) (q : QRange) : Bool :=
  (q.vf.bind (getFunc s ·)).any (dutyPending · 2 die q.first)

/-- The scrub of a range is the host's to release, and no reply has come: its request stands there, be SCRUB clear by now
(R333), or the range has not begun and SCRUB is set. -/
def rangeAtHost (s : State) (die : Nat) (q : QRange) : Bool :=
  !q.cleared && (rangePosted s die q || q.frontier == q.first && (q.vf.bind (getFunc s ·)).any (dutyBit · 2))

/-- The frame of a range after the one at its frontier; past its end where there is none. -/
def nextFrontier (q : QRange) : Nat :=
  q.holes.foldl (fun n h => if h.1 ≤ n && n < h.2 then h.2 else n) (q.frontier + 1)

/-- The frontier of a range passes one frame: it is free. -/
def passFrontier (first : Nat) : List QRange → List QRange
  | [] => []
  | q :: qs =>
    if q.first == first then
      (if q.last < nextFrontier q then qs else { q with frontier := nextFrontier q } :: qs)
    else q :: passFrontier first qs

/-- SCRUBBING clears when no range remains on any die (R401). -/
def settleScrub (s : State) : State :=
  if s.boot.scrubbing && s.dies.all (·.quar.isEmpty) then { s with boot := { s.boot with scrubbing := false } } else s

/-- One frame is scrubbed (R392): its bytes, poison, versions and record went with its context, whose key is retired; the
frontier passes it. -/
def scrubOne (s : State) (die : Nat) (q : QRange) : State :=
  let done : Bool := q.last < nextFrontier q
  let s := modDie s die fun d => { d with quar := passFrontier q.first d.quar }
  settleScrub (freeKeys (if done then postMail s 0x50 8 3 0 [die, q.first, q.last] else s))

/-- SCRUB_FRAME (R392): the frame at the frontier of the die's first range that seat 8 may scrub. A range that waits for
its host is posted first, with its frames and its frontier (Table 20.10). -/
def execScrubFrame (die : Nat) (s : State) : Host.Outcome State Fault Refusal :=
  let qs := (getDie s die).quar
  match qs.find? fun q => rangeAtHost s die q && !rangePosted s die q with
  | some q =>
    match q.vf with
    | some vf => .next (postDuty s vf 2 die q.first [q.first, q.last, q.frontier])
    | none => .next s
  | none =>
    match qs.find? fun q => !rangeAtHost s die q with
    | some q => .next (scrubOne s die q)
    | none => .next s

/-! ## Patrol (R384) -/

/-- The number by which the patrol names a page of the heap window: a frame of a heap has none of its own (log 77). -/
def heapFrame (va : Nat) : Nat := 2 ^ 36 + va / 4096

/-- Frames backed on a die, by context: those of its pool, and those of the heaps of its live grids (R225). -/
def backedOn (s : State) (die : Nat) : List (Nat × Nat) :=
  s.contexts.flatMap fun c =>
    ((c.frames.filter fun f => f.place.any (·.die == die)).map fun f => (c.asid, f.lfn)) ++
    (((ctxFunc s c.asid).map fun f => (heapLinesOn s f die c.asid).map fun a => (c.asid, heapFrame a)).getD []).dedup

/-- The key of the first byte of a frame that the patrol names. -/
def patrolKey (asid lfn : Nat) : Nat := if lfn < 2 ^ 36 then keyGlb asid lfn 0 else keyHeap asid (4096 * (lfn - 2 ^ 36))

/-- Lines of such a frame that are homed on a die. -/
def patrolLines (s : State) (f : VFunc) (die asid lfn : Nat) : List Nat :=
  if lfn < 2 ^ 36 then (((getCtx s asid).bind (frameOf · lfn)).map (linesOn f die)).getD []
  else ((heapLinesOn s f die asid).filter fun a => heapFrame a == lfn).map (· % 4096 / 128)

/-- One finding in a frame: a corrected sector is written back and counted, an uncorrectable one poisoned and counted; a
count past its threshold is reported. -/
def patrolFind (die asid lfn : Nat) (s : State) (x : PatrolFind) : State :=
  match x with
  | .corrected _ => countCorrected s false die
  | .uncorrectable i => countPoisoned s ((patrolKey asid lfn + 32 * (i % 128)) / 32)

/-- A frame is read; the pass of the present 2^44 ticks is over with the last backed frame. -/
def patrolMark (s : State) (die asid lfn : Nat) : State :=
  let seen := (asid, lfn) :: (getDie s die).patrolled
  let ended := (backedOn s die).all seen.contains
  modDie s die fun d =>
    if ended then { d with patrolled := [], ppc := satCount d.ppc, patrolFor := s.cox / 2 ^ 44 + 1 }
    else { d with patrolled := seen }

/-- PATROL_READ (R384): seat 8 reads a backed frame of a die, and meets the errors that stand in its lines there and
those that it finds now. Only sectors of the frame that are homed there count. -/
def execPatrolRead (die asid lfn : Nat) (found : List PatrolFind) (s : State) : Host.Outcome State Fault Refusal :=
  match ctxFunc s asid with
  | some f =>
    if !(backedOn s die).contains (asid, lfn) then .next s
    else
      let ls := patrolLines s f die asid lfn
      let here (y : PatrolFind) : Bool :=
        match y with | .corrected i | .uncorrectable i => i < 128 && ls.contains (i / 4)
      let s := meetUpsets s (ls.map fun j => (patrolKey asid lfn + 128 * j, 128))
      .next (patrolMark ((found.filter here).foldl (patrolFind die asid lfn) s) die asid lfn)
  | none => .next s

end Sys2Proof.Machine
end

