-- ==== Sys2Proof/Machine/Checkpoint.lean ====
section
/-!
DEFINITION. Checkpoint, restore and verify (R383, R385 to R390): the tensor table, the elements of a piece, the stored
stream and its seals, and the three operations, each of which goes on by the segments of its stream.
-/

namespace Sys2Proof.Machine

/-! ## The tensor table (R385) -/

/-- Address of the tensor table. -/
def tableAddr : Nat := 0x0E00000000

/-- Four 32-bit fields from a bit on, the lowest first. -/
def fourWords (x bit : Nat) : List Nat := (List.range 4).map fun i => bitsN x (bit + 32 * i + 31) (bit + 32 * i)

/-- A piece entry of Table 24.4. -/
def pieceOf (x : Nat) : CkPiece :=
  { tid := bitsN x 31 0, dims := bitsN x 35 34 + 1, ety := bitsN x 39 36, eszc := bitsN x 41 40,
    esz := if bitsN x 39 36 == 0 then 2 ^ bitsN x 41 40 else 1, narrow := bitsN x 51 48, rz := x.testBit 42,
    lo := fourWords x 160, ext := fourWords x 288, addr := bitsN x 463 416,
    stride := (List.range 3).map fun i => sextN (bitsN x (512 + 64 * i + 63) (512 + 64 * i)) 64 }

/-- A reserved bit of an entry is set. -/
def pieceReserved (x : Nat) : Bool :=
  bitsN x 1023 704 != 0 || bitsN x 511 464 != 0 || bitsN x 159 52 != 0 || bitsN x 47 43 != 0 || bitsN x 33 32 != 0

/-- Extents of a piece in its dimensions. -/
def pieceExt (p : CkPiece) : List Nat := p.ext.take p.dims

/-- Elements of a piece. -/
def pieceCount (p : CkPiece) : Nat := (pieceExt p).foldl (· * ·) 1

/-- The coordinates of element `i` within extents, dimension 0 fastest. -/
def coordsAt : List Nat → Nat → List Nat
  | [], _ => []
  | e :: es, i => i % e :: coordsAt es (i / e)

/-- The number of an element from its coordinates within extents. -/
def coordIndex : List Nat → List Nat → Nat
  | e :: es, x :: xs => x + e * coordIndex es xs
  | _, _ => 0

/-- Address of the element with given coordinates in the box (R385). -/
def elemAddr (p : CkPiece) (xs : List Nat) : Int :=
  p.addr + (xs.headD 0 : Nat) * (p.esz : Int) + ((xs.drop 1).zip p.stride).foldl (fun a y => a + (y.1 : Int) * y.2) 0

/-- Two boxes of one tensor overlap. -/
def boxesMeet (p q : CkPiece) : Bool :=
  pieceCount p != 0 && pieceCount q != 0 &&
  (List.range 4).all fun k =>
    p.dims ≤ k || (p.lo.getD k 0 < q.lo.getD k 0 + q.ext.getD k 0 && q.lo.getD k 0 < p.lo.getD k 0 + p.ext.getD k 0)

/-- Pieces of one TID agree in their kind. -/
def sameKind (p q : CkPiece) : Bool :=
  p.dims == q.dims && p.ety == q.ety && p.eszc == q.eszc && p.narrow == q.narrow && p.rz == q.rz

/-- Two pieces that a table may not hold together. -/
def piecesClash (p q : CkPiece) : Bool := p.tid == q.tid && (!sameKind p q || boxesMeet p q)

/-- Some pair of a list clashes. -/
def anyClash : List CkPiece → Bool
  | [] => false
  | p :: ps => ps.any (piecesClash p) || anyClash ps

/-! ## Where an element stands -/

/-- The byte or element of a page as the engine reaches it: its key and the page's geometry. It is mapped, of the
context itself, of the piece's format, and no measured code. -/
def ckLoc (s : State) (c : Context) (ety : Nat) (va : Int) : Option (Nat × Nat) :=
  if va < 0 || (heapBase : Int) ≤ va then none
  else
    match walkVa s c 8 va.toNat with
    | .leaf x =>
      let loc := some (keyGlb c.asid x.lfn (va.toNat % 4096), pteGeom x.leaf)
      if pteMt x.leaf != 0 || (sealedOwner s c x.leaf).isSome || pteFmt x.leaf != ety then none
      else
        match frameOf c x.lfn with
        | none => loc
        | some f => if f.measured || !aliasOk f x.leaf then none else loc
    | _ => none

/-- Addresses of the bytes or of the element number of an element. -/
def elemSpan (p : CkPiece) (i : Nat) : List Int :=
  (List.range p.esz).map fun (b : Nat) => elemAddr p (coordsAt (pieceExt p) i) + (b : Int)

/-- Geometry of the pages of a piece: that of its first element. -/
def pieceGeom (s : State) (c : Context) (p : CkPiece) : Nat :=
  ((ckLoc s c p.ety (elemAddr p (coordsAt (pieceExt p) 0))).map (·.2)).getD 0

/-- A piece is invalid by itself (R385). -/
def pieceBad (s : State) (c : Context) (p : CkPiece) : Bool :=
  let n := pageBpN p.ety
  let step := if pageIsBp p.ety then 1024 else if p.ety == 3 then blockLen (pieceGeom s c p) else 1
  (List.range 4).any (fun k => p.dims ≤ k && (p.lo.getD k 0 != 0 || p.ext.getD k 0 != 0)) ||
  (if pageIsBp p.ety then n < p.narrow else p.narrow != 0) ||
  p.addr % step != 0 || p.lo.headD 0 % step != 0 || p.ext.headD 0 % step != 0 ||
  (List.range (pieceCount p)).any fun i => (elemSpan p i).any fun a => (ckLoc s c p.ety a).isNone

/-- Read the entries of a table. -/
def readEntries (c : Context) : Nat → Nat → State → State × Option (List Nat)
  | _, 0, s => (s, some [])
  | a, n + 1, s =>
    match seatRead s c false a 16 with
    | (s, none) => (s, none)
    | (s, some x) =>
      let r := readEntries c (a + 128) n s
      (r.1, r.2.map (x :: ·))

/-- Confidentiality class of the page that an address lies in. -/
def pageClass (s : State) (c : Context) (va : Nat) : Option Nat :=
  match walkVa s c 8 va with
  | .leaf x => some (pteCC x.leaf)
  | _ => none

/-- The header of a table: CKSEED and NPC, or the code of Table 24.5. -/
def readHeader (s : State) (c : Context) : State × Except Nat (Nat × Nat) :=
  match seatRead s c false tableAddr 8 with
  | (s, none) => (s, .error 3)
  | (s, some x) =>
    if !(pageClass s c tableAddr).any fun k => k == 1 || k == 2 then (s, .error 10)
    else if bitsN x 255 48 != 0 || bitsN x 31 0 != 1 then (s, .error 3)
    else (s, .ok (bitsN x 511 256, bitsN x 47 32))

/-! ## Whole-context mode (R386) -/

/-- Pages that an entry of a level maps. -/
def entryPages (l : Nat) : Nat := if l == 2 then 262144 else if l == 3 then 512 else 1

/-- The translations of a context, in ascending virtual pages: levels 4 − n to 4 from a table frame. -/
def mappedPages (s : State) (c : Context) : Nat → Nat → Nat → List TlbEnt
  | 0, _, _ => []
  | n + 1, lfn, base =>
    let l := 4 - n
    if !(frameOf c lfn).any fun f => tableFrame f && !f.measured then []
    else
      (List.range 512).flatMap fun i =>
        let va := base + i * 2 ^ (39 - 9 * (l - 1))
        let key := keyGlb c.asid lfn (8 * i)
        let w : DWord := if poisoned s key 8 then 0 else BitVec.ofNat 64 (getBytes s key 8)
        if !pteV w || pteReserved l w then []
        else if pteL w then
          (List.range (entryPages l)).filterMap fun k =>
            match walkLeaf s c (va + 4096 * k) l w with
            | .leaf x => some x
            | _ => none
        else mappedPages s c n (pteLfn w) va

/-- Backed pages of a context that the engine reaches: virtual page, format and geometry. -/
def backedPages (s : State) (c : Context) : List (Nat × Nat × Nat) :=
  ((mappedPages s c 4 c.root 0).filter fun x =>
    (frameOf c x.lfn).isSome && (ckLoc s c (pteFmt x.leaf) ((4096 * x.vpn : Nat) : Int)).isSome).map
      fun x => (x.vpn, pteFmt x.leaf, pteGeom x.leaf)

/-- Maximal runs of pages of one format, which for blocks is a format with its block size (log 54): first page, pages,
format, geometry. -/
def pageRuns : List (Nat × Nat × Nat) → List (Nat × Nat × Nat × Nat)
  | [] => []
  | (v, f) :: ps =>
    match pageRuns ps with
    | (v', n, f') :: rs => if v + 1 == v' && f == f' then (v, n + 1, f) :: rs else (v, 1, f) :: (v', n, f') :: rs
    | [] => [(v, 1, f)]

/-- The piece of a run. -/
def runPiece (r : Nat × Nat × Nat × Nat) : CkPiece :=
  { tid := 0xFFFFFFFF, dims := 1, ety := r.2.2.1, eszc := 0, esz := 1, narrow := 0, rz := false, lo := [4096 * r.1, 0, 0, 0],
    ext := [4096 * r.2.1, 0, 0, 0], addr := 4096 * r.1, stride := [0, 0, 0] }

/-- CKSEED and the pieces of a context, or the code of Table 24.5. -/
def readTable (s : State) (c : Context) (whole : Bool) : State × Except Nat (Nat × List CkPiece) :=
  match readHeader s c with
  | (s, .error n) => (s, .error n)
  | (s, .ok (seed, npc)) =>
    if whole then (s, .ok (seed, (pageRuns (backedPages s c)).map runPiece))
    else
      match readEntries c (tableAddr + 64) npc s with
      | (s, none) => (s, .error 3)
      | (s, some xs) =>
        let c := (getCtx s c.asid).getD c
        let ps := xs.map pieceOf
        if xs.any pieceReserved || ps.any (fun p => p.tid == 0xFFFFFFFF) || anyClash ps || ps.any (pieceBad s c) then
          (s, .error 3)
        else (s, .ok (seed, ps))

/-! ## The elements of a shard (R387) -/

/-- A stored byte, and whether its sector is poisoned. -/
def ckByte (s : State) (key : Nat) : Byte × Bool := (memGet s.mem key, poisoned s key 1)

/-- The bytes of a unit through their offsets. -/
def unitRd (s : State) (key o : Nat) : Nat := (memGet s.mem (unitBase key + o)).toNat

/-- Planes kept. -/
def keptPlanes (p : CkPiece) : Nat := if p.narrow == 0 then pageBpN p.ety else p.narrow

/-- Bits of one plane of eight elements from element `i`, as the byte that a plane block holds. -/
def planeByte (s : State) (c : Context) (p : CkPiece) (pl i : Nat) : Byte × Bool :=
  (List.range 8).foldl (fun acc b =>
    match ckLoc s c p.ety (elemAddr p (coordsAt (pieceExt p) (i + b))) with
    | none => acc
    | some (key, _) =>
      let x := planePlace (pageBpN p.ety) pl (key % 4096)
      let bit := unitRd s key x.1 / 2 ^ x.2 % 2
      (acc.1 + BitVec.ofNat 8 (bit * 2 ^ b), acc.2 || poisoned s (unitBase key + x.1) 1)) (0, false)

/-- The stored bytes of a piece, dimension 0 fastest: bytes, whole blocks, or the kept planes of plane blocks. -/
def shardBytes (s : State) (c : Context) (p : CkPiece) : List (Byte × Bool) :=
  if pageIsBp p.ety then
    (List.range (pieceCount p / 1024)).flatMap fun g =>
      (List.range (keptPlanes p)).flatMap fun pl =>
        (List.range 128).map fun m => planeByte s c p pl (1024 * g + 8 * m)
  else if p.ety == 3 then
    let geom := pieceGeom s c p
    let n := blockLen geom
    (List.range (pieceCount p / n)).flatMap fun g =>
      match ckLoc s c 3 (elemAddr p (coordsAt (pieceExt p) (n * g))) with
      | none => []
      | some (key, _) =>
        let b := key % 4096 / n
        (List.range (n / 2)).map (fun i => ckByte s (unitBase key + blockCodes b + i)) ++
        (List.range 8).map fun i => ckByte s (unitBase key + blockMeta geom b + i)
  else
    (List.range (pieceCount p)).flatMap fun i =>
      (elemSpan p i).filterMap fun a => (ckLoc s c p.ety a).map fun x => ckByte s x.1

/-- The bytes of a number, least significant first. -/
def numBytes (n x : Nat) : List Byte := (List.range n).map fun i => BitVec.ofNat 8 (x / 256 ^ i)

/-- Indices of the 32-byte sectors of a shard that hold a poisoned byte. -/
def poisonIndices (bs : List (Byte × Bool)) : List Nat :=
  (List.range ((bs.length + 31) / 32)).filter fun i => ((bs.drop (32 * i)).take 32).any (·.2)

/-- The plaintext of a shard: elements, then the indices of poisoned sectors; and NPOIS. -/
def shardText (s : State) (c : Context) (p : CkPiece) : List Byte × Nat :=
  let bs := shardBytes s c p
  let ix := poisonIndices bs
  (bs.map (·.1) ++ ix.flatMap (numBytes 4), ix.length)

/-! ## Seals -/

/-- KC of a checkpoint (log 7). -/
def ckKey (seed ckid salt : Nat) : Nat := Config.crypto 9 [seed, ckid, salt] % 2 ^ 256

/-- The ciphertext of segment `i`, and its tag. -/
def sealSegment (kc i : Nat) (text : List Byte) : List Byte × Nat :=
  let n := text.length
  let x := gcmCipher kc i (leNum text) (8 * n)
  (numBytes n x, gcmTag kc i x n)

/-- The tag of a stored segment. -/
def segmentTag (kc i : Nat) (cipher : List Byte) : Nat := gcmTag kc i (leNum cipher) cipher.length

/-- The plaintext of a stored segment. -/
def openSegment (kc i : Nat) (cipher : List Byte) : List Byte :=
  numBytes cipher.length (gcmCipher kc i (leNum cipher) (8 * cipher.length))

/-- One link of the chain: SHA-256 of the value so far and the ciphertext. -/
def chainNext (h : Nat) (cipher : List Byte) : Nat := sha [h, leNum cipher, cipher.length]

/-- The chain from a commit block whose H is zero over the ciphertexts. -/
def chainOf (commit : Nat) (cs : List (List Byte)) : Nat := cs.foldl chainNext (sha [commit % 2 ^ 768])

/-! ## The stream and its ports (R387) -/

/-- Storage ports of CKPORT, ascending. -/
def ckPorts (s : State) : List Nat := (List.range 8).filter s.pf.ckport.testBit

/-- The region that the registers name as an operation starts. -/
def ckRegion (s : State) : CkRegion := ⟨ckPorts s, s.pf.ckns.toNat, s.pf.cklba.toNat⟩

/-- Key of stream byte `b`. -/
def streamKey (r : CkRegion) (b : Nat) : Nat :=
  let u := b / 2 ^ 21
  let lba := r.lba + 512 * (u / r.ports.length) + b % 2 ^ 21 / 4096
  keyPort (r.ports.getD (u % r.ports.length) 0 + 256 * r.ns) (lba * 4096 % 2 ^ 64 + b % 4096)

/-- Write stream bytes from `b` on. -/
def writeStream (s : State) (r : CkRegion) (b : Nat) (bs : List Byte) : State :=
  { s with mem := bs.zipIdx.foldl (fun m x => memPut m (streamKey r (b + x.2)) x.1) s.mem }

/-- Read stream bytes. -/
def readStream (s : State) (r : CkRegion) (b n : Nat) : List Byte := (List.range n).map fun i => memGet s.mem (streamKey r (b + i))

/-- Bytes that a segment takes, to the next 4 KiB. -/
def segmentRoom (n : Nat) : Nat := (n + 4095) / 4096 * 4096

/-- Offsets of segments in the stream. -/
def segmentOffs : Nat → List Nat → List Nat
  | _, [] => []
  | b, n :: ns => b :: segmentOffs (b + segmentRoom n) ns

/-! ## The manifest -/

/-- LO and EXT of an entry: 32 bits each, or one 128-bit number for LO0 in whole-context mode (log 54). -/
def boxField (whole : Bool) (xs : List Nat) : Nat :=
  if whole then xs.headD 0 % 2 ^ 128
  else ((List.range 4).map fun i => xs.getD i 0 % 2 ^ 32 * 2 ^ (32 * i)).sum

/-- A 96-byte entry (log 54): the kind as Table 24.4 lays it out, LO, EXT, OFF, LEN, NPOIS, tag. -/
def shardEntry (x : CkShard) : Nat :=
  let p := x.box
  let w : Bool := p.tid == 0xFFFFFFFF
  p.tid % 2 ^ 32 + 2 ^ 34 * (p.dims - 1) + 2 ^ 36 * p.ety + 2 ^ 40 * (p.eszc % 4) +
  2 ^ 42 * p.rz.toNat + 2 ^ 48 * p.narrow + 2 ^ 64 * boxField w p.lo + 2 ^ 192 * boxField w p.ext +
  2 ^ 320 * (x.off % 2 ^ 48) + 2 ^ 368 * (x.len % 2 ^ 48) + 2 ^ 416 * (x.npois % 2 ^ 32) + 2 ^ 448 * (x.tag % 2 ^ 128)

/-- The four fields of a box. -/
def boxOf (whole : Bool) (x bit : Nat) : List Nat := if whole then [bitsN x (bit + 127) bit, 0, 0, 0] else fourWords x bit

/-- A shard from its entry. -/
def shardOf (x : Nat) : CkShard :=
  let w : Bool := bitsN x 31 0 == 0xFFFFFFFF
  { box := { tid := bitsN x 31 0, dims := bitsN x 35 34 + 1, ety := bitsN x 39 36, eszc := bitsN x 41 40,
             esz := if bitsN x 39 36 == 0 then 2 ^ bitsN x 41 40 else 1, narrow := bitsN x 51 48, rz := x.testBit 42,
             lo := boxOf w x 64, ext := boxOf w x 192, addr := 0, stride := [0, 0, 0] },
    off := bitsN x 367 320, len := bitsN x 415 368, npois := bitsN x 447 416, tag := bitsN x 575 448 }

/-- The manifest of shards: a 64-byte header with NSH, and the entries. -/
def manifestText (xs : List CkShard) : List Byte := numBytes 64 (xs.length % 2 ^ 32) ++ xs.flatMap fun x => numBytes 96 (shardEntry x)

/-- The commit block of Table 24.6. -/
def commitBlock (h mtag slen nseg salt ckid : Nat) : Nat :=
  0x4B434E58 + 2 ^ 352 * (ckid % 2 ^ 64) + 2 ^ 416 * (salt % 2 ^ 128) + 2 ^ 544 * (nseg % 2 ^ 32) +
  2 ^ 576 * (slen % 2 ^ 64) + 2 ^ 640 * (mtag % 2 ^ 128) + 2 ^ 768 * (h % 2 ^ 256)

/-! ## Codes and the hold -/

/-- CKSTAT with a code. -/
def ckCode (s : State) (code : Nat) : State := { s with pf := { s.pf with ckcode := code, ckpart := false } }

/-- The live OWN context that CKASID names. -/
def ckContext (s : State) : Option Context := (getCtx s s.pf.ckasid).filter fun c => c.live && c.tag == 1

/-- No grid of the context is unfinished and no image of its gangs is valid (R388). -/
def ckQuiet (s : State) (asid : Nat) : Bool :=
  let gs := (s.grids.filter (·.asid == asid)).map (·.key)
  !(s.grids.any fun g => g.asid == asid && !g.ended) &&
  !(s.gangs.any fun k => gs.contains k.grid && !k.keyGone && match k.status with | .saved | .restoring _ => true | _ => false)

/-! ## An operation under way -/

/-- The operation under way goes on as `f` says. -/
def ckSet (s : State) (f : CkOp → CkOp) : State := { s with pf := { s.pf with ckwait := s.pf.ckwait.map f } }

/-- Its next phase. -/
def ckPhase (s : State) (p : CkPhase) : State := ckSet s fun x => { x with phase := p }

/-- CKBYTES: each byte of the stream counts once, as it is written, or read in the check pass (log 79). -/
def ckMoved (s : State) (n : Nat) : State := { s with pf := { s.pf with ckbytes := n } }

/-- `n` more bytes have moved. -/
def ckMore (s : State) (n : Nat) : State := ckMoved s (s.pf.ckbytes + n)

/-- An operation ends with a code, and its hold of the context. -/
def ckEnd (s : State) (asid code : Nat) : State :=
  ckCode (modCtx { s with pf := { s.pf with ckwait := none } } asid fun c => { c with hold := false }) code

/-- A command of a drive (log 101): it fails, or a byte of the stream has become another. -/
def driveTurn (s : State) (r : CkRegion) : State × Bool :=
  let f := Config.storageFault s.fresh
  let s := { s with fresh := s.fresh + 1 }
  match f with
  | none => (s, true)
  | some 0 => (s, false)
  | some (n + 1) => (writeStream s r n [~~~(memGet s.mem (streamKey r n))], true)

/-! ## Checkpoint (R388) -/

/-- The segments of a checkpoint under a key, the manifest first: ciphertext and tag; and the bytes of the stream. -/
def makeSegments (s : State) (c : Context) (ps : List CkPiece) (kc : Nat) : List (List Byte × Nat) × Nat :=
  let ts := ps.map (shardText s c)
  let mlen := 64 + 96 * ps.length
  let offs := segmentOffs (4096 + segmentRoom mlen) (ts.map (·.1.length))
  let ss := ts.zipIdx.map fun t => sealSegment kc (t.2 + 1) t.1.1
  let shards := ((ps.zip offs).zip (ts.zip ss)).map fun x =>
    (⟨x.1.1, x.1.2, x.2.1.1.length, x.2.1.2, x.2.2.2⟩ : CkShard)
  let m := sealSegment kc 0 (manifestText shards)
  (m :: ss, 4096 + segmentRoom mlen + (ts.map fun t => segmentRoom t.1.length).sum)

/-- A segment at its offset, padded with zeros to 4 KiB. -/
def writeSegment (s : State) (r : CkRegion) (off : Nat) (bs : List Byte) : State :=
  writeStream s r off (bs ++ List.replicate (segmentRoom bs.length - bs.length) 0)

/-- The commit block is written and the hold released: code 0. -/
def commitStream (s : State) (x : CkOp) : State := ckEnd (writeStream s x.region 0 (numBytes 4096 x.commit)) x.asid 0

/-- The bytes of a segment as they are stored. -/
def storedSegment (s : State) (x : CkOp) (g : CkSeg) : List Byte := readStream s x.region g.off g.len

/-- The read-back of R388 over what the host has returned (R390): every tag and the chain are recomputed. -/
def readBackOk (s : State) (x : CkOp) : Bool :=
  let cs := x.segs.map (storedSegment s x)
  ((x.segs.zip cs).zipIdx.all fun y => segmentTag x.key y.2 y.1.2 == y.1.1.tag) &&
  chainOf x.commit cs == bitsN x.commit 1023 768

/-- The host receives a sealed segment for the storage ports: its offset in the stream, its bytes and the ciphertext
(Table 20.10, R390). -/
def stageBody (off : Nat) (bs : List Byte) : List Nat := [off, bs.length, leNum bs]

/-- The frames of a context that the elements of a piece stand in. -/
def pieceFrames (s : State) (c : Context) (p : CkPiece) : List Nat :=
  ((List.range (pieceCount p)).flatMap fun i => (elemSpan p i).filterMap fun a =>
    (ckLoc s c p.ety a).map fun x => x.1 % 2 ^ 64 / 4096).dedup

/-- The engine's reads meet the errors that stand in the frames of its pieces: a check that fails in class 2 poisons both
sectors of the line (R382, Table 24.2). -/
def ckReads (s : State) (c : Context) (ps : List CkPiece) : State :=
  meetUpsets s ((ps.flatMap (pieceFrames s c)).dedup.map fun l => (keyGlb c.asid l 0, 4096))

/-- An operation is under way: BUSY. -/
def ckOpen (s : State) (x : CkOp) : State := { s with pf := { s.pf with ckwait := some x } }

/-- A checkpoint or a restore holds its context's queues (R388, R390). -/
def ckHold (s : State) (x : CkOp) : State := modCtx (ckOpen s x) x.asid fun c => { c with hold := true }

/-- The start of a checkpoint of a quiet context: its table is read, its pieces are read and sealed, the stream is sized,
and zeros go over the commit block. With STAGE the segments go to the host. -/
def startCheckpoint (s : State) (c : Context) (whole : Bool) : State :=
  match readTable s c whole with
  | (s, .error n) => ckCode s n
  | (s, .ok (seed, ps)) =>
    let c := (getCtx s c.asid).getD c
    let r := takeFree (ckReads s c ps)
    let s := r.1
    let c := (getCtx s c.asid).getD c
    let salt := r.2 % 2 ^ 128
    let kc := ckKey seed s.pf.ckid.toNat salt
    let x := makeSegments s c ps kc
    let slen := x.2
    if (ckPorts s).length * s.pf.cknlb.toNat * 4096 < slen then ckCode s 4
    else
      let nseg := x.1.length
      let mtag := (x.1.headD ([], 0)).2
      let b0 := commitBlock 0 mtag slen nseg salt s.pf.ckid.toNat
      let commit := commitBlock (chainOf b0 (x.1.map (·.1))) mtag slen nseg salt s.pf.ckid.toNat
      let segs := ((segmentOffs 4096 (x.1.map (·.1.length))).zip x.1).map fun g =>
        (⟨g.1, g.2.1.length, g.2.2, leNum g.2.1⟩ : CkSeg)
      let staged := (getFunc s c.vf).any (dutyBit · 3)
      let op : CkOp := ⟨1, whole, c.asid, ckRegion s, kc, commit, segs, [], [], 0, if staged then .host else .write 0⟩
      let s := writeStream (ckMoved (ckHold s op) 4096) op.region 0 (List.replicate 4096 0)
      let s := postMail s 0x50 8 3 c.asid [1, slen]
      if staged then
        (segs.zip (x.1.map (·.1))).zipIdx.foldl (fun s g => postDuty s c.vf 3 c.asid g.2 (stageBody g.1.1.off g.1.2)) s
      else s

/-- Segment `i` is written; after the last the read-back begins. -/
def stepWrite (s : State) (x : CkOp) (i : Nat) : State :=
  match x.segs[i]? with
  | none => ckPhase s (.back 0 (chainOf x.commit []) true)
  | some g =>
    match driveTurn s x.region with
    | (s, false) => ckEnd s x.asid 5
    | (s, true) => ckPhase (ckMore (writeSegment s x.region g.off (numBytes g.len g.data)) (segmentRoom g.len)) (.write (i + 1))

/-- Segment `i` is read back; after the last the commit block is written, or, where a tag or the chain differs, code 6, and
the commit block stays zero. -/
def stepBack (s : State) (x : CkOp) (i chain : Nat) (ok : Bool) : State :=
  match driveTurn s x.region with
  | (s, false) => ckEnd s x.asid 5
  | (s, true) =>
    match x.segs[i]? with
    | none => if ok && chain == bitsN x.commit 1023 768 then commitStream s x else ckEnd s x.asid 6
    | some g =>
      let cs := storedSegment s x g
      ckPhase s (.back (i + 1) (chainNext chain cs) (ok && segmentTag x.key i cs == g.tag))

/-! ## Reading a stored checkpoint (R389) -/

/-- The commit block as stored. -/
def storedCommit (s : State) (r : CkRegion) : Nat := leNum (readStream s r 0 128)

/-- NSEG and MTAG of a commit block. -/
def commitSegs (b : Nat) : Nat := bitsN b 575 544
def commitTag (b : Nat) : Nat := bitsN b 767 640

/-- The shards that a manifest's plaintext lists. -/
def manifestShards (n : Nat) (text : List Byte) : List CkShard :=
  (List.range n).map fun i => shardOf (leNum ((text.drop (64 + 96 * i)).take 96))

/-- The key under which a stored checkpoint opens: the target's own CKSEED and the stored SALT. -/
def storedKey (seed b : Nat) : Nat := ckKey seed (bitsN b 415 352) (bitsN b 543 416)

/-- A stored checkpoint is about to be checked: its commit block has MAGIC and counts a manifest; else code 9. -/
def startCheck (s : State) (op asid : Nat) (whole : Bool) (seed : Nat) : State :=
  let r := ckRegion s
  let b := storedCommit s r
  let s := ckMoved s 4096
  if bitsN b 31 0 != 0x4B434E58 || commitSegs b == 0 || r.ports.isEmpty then ckCode s 9
  else (if op == 3 then ckOpen else ckHold) s ⟨op, whole, asid, r, storedKey seed b, b, [], [], [], 0, .check 0 (chainOf b []) true⟩

/-- CKSEED of the context that CKASID names. -/
def ckSeed (s : State) : State × Option Nat :=
  match ckContext s with
  | none => (s, none)
  | some c =>
    match readHeader s c with
    | (s, .ok x) => (s, some x.1)
    | (s, .error _) => (s, none)

/-- OP 3 (R388): the read-back and chain check of an existing checkpoint; its code is 0 or 9. -/
def startVerify (s : State) (whole : Bool) : State :=
  match ckSeed (ckMoved s 0) with
  | (s, none) => ckCode s 9
  | (s, some seed) => startCheck s 3 s.pf.ckasid whole seed

/-- OP 2 in a quiet context: the target's table must be there to seed the key; a wrong MAGIC is found before (R389). -/
def startRestore (s : State) (c : Context) (whole : Bool) : State :=
  if bitsN (storedCommit s (ckRegion s)) 31 0 != 0x4B434E58 then ckCode (ckMoved s 4096) 9
  else
    match readHeader s c with
    | (s, .error n) => ckCode s n
    | (s, .ok x) => startCheck s 2 c.asid whole x.1

/-! ## Restore (R389) -/

/-- What a restore gathers: writes of key, bytes, value; keys of bytes that are poisoned. -/
structure CkWrites where
  puts : List (Nat × Nat × Nat)
  bad  : List Nat

/-- Index within a shard of the element with coordinate list `x`, if its box holds it. -/
def inShard (b : CkPiece) (x : List Nat) : Option Nat :=
  let y := x.zip (b.lo.zip (pieceExt b))
  if y.all fun v => v.2.1 ≤ v.1 && v.1 < v.2.1 + v.2.2 then
    some (coordIndex (pieceExt b) (y.map fun v => v.1 - v.2.1))
  else none

/-- Tensor coordinates of element `i` of a piece. -/
def tensorCoords (p : CkPiece) (i : Nat) : List Nat := ((coordsAt (pieceExt p) i).zip p.lo).map fun v => v.1 + v.2

/-- The decrypted bytes of a shard and its poisoned sectors. -/
structure CkData where
  bytes : List Byte
  bad   : List Nat

/-- The data of a shard: the elements, and the sectors that its indices name. -/
def shardData (kc i : Nat) (x : CkShard) (cipher : List Byte) : CkData :=
  let text := openSegment kc i cipher
  let n := x.len - 4 * x.npois
  ⟨text.take n, (List.range x.npois).map fun j => leNum ((text.drop (n + 4 * j)).take 4)⟩

/-- Byte `o` of a shard's elements. -/
def dataByte (d : CkData) (o : Nat) : Byte := d.bytes.getD o 0
/-- Byte `o` lies in a poisoned sector of a shard. -/
def dataBad (d : CkData) (o : Nat) : Bool := d.bad.contains (o / 32)

/-- The geometry of a shard of blocks, from its length. -/
def shardGeom (x : CkShard) : Nat := if x.len - 4 * x.npois == pieceCount x.box then 0 else 1

/-- One byte at an address of the target. -/
def putElem (s : State) (c : Context) (p : CkPiece) (d : CkData) (o : Nat) (a : Int) (w : CkWrites) : CkWrites :=
  match ckLoc s c p.ety a with
  | none => w
  | some (key, _) => ⟨w.puts ++ [(key, 1, (dataByte d o).toNat)], if dataBad d o then w.bad ++ [key] else w.bad⟩

/-- Element `j` of a shard goes to element `i` of a piece (R54, R389). `cur`: the writes so far, which later elements of
one plane byte see. -/
def putOne (s : State) (c : Context) (p : CkPiece) (x : CkShard) (d : CkData) (i j : Nat) (w : CkWrites) : CkWrites :=
  let a := elemAddr p (coordsAt (pieceExt p) i)
  if pageIsBp p.ety then
    match ckLoc s c p.ety a with
    | none => w
    | some (key, _) =>
      let n := pageBpN p.ety
      let k := keptPlanes x.box
      let base := j / 1024 * 128 * k
      let v := bpElem n k (!x.box.rz) (fun o => (dataByte d (base + o)).toNat) (j % 1024)
      let rd (o : Nat) : Nat :=
        ((w.puts.reverse.find? fun e => e.1 == unitBase key + o).map (·.2.2)).getD (unitRd s key o)
      let bad := (List.range k).any fun pl => dataBad d (base + 128 * pl + j % 1024 / 8)
      let puts := (bpStore n rd (key % 4096) v).map fun e => (unitBase key + e.1, 1, e.2)
      ⟨w.puts ++ puts, if bad then w.bad ++ puts.map (·.1) else w.bad⟩
  else if p.ety == 3 then
    match ckLoc s c 3 a with
    | none => w
    | some (key, geom) =>
      let n := blockLen geom
      if j % n != 0 then w
      else
        let b := key % 4096 / n
        let base := j / n * (n / 2 + 8)
        let one (dst o : Nat) (w : CkWrites) : CkWrites :=
          ⟨w.puts ++ [(unitBase key + dst, 1, (dataByte d o).toNat)],
           if dataBad d o then w.bad ++ [unitBase key + dst] else w.bad⟩
        let w := (List.range (n / 2)).foldl (fun w m => one (blockCodes b + m) (base + m) w) w
        (List.range 8).foldl (fun w m => one (blockMeta geom b + m) (base + n / 2 + m) w) w
  else
    (List.range p.esz).foldl (fun w b => putElem s c p d (j * p.esz + b) (a + b) w) w

/-- The elements of one shard that a piece holds. -/
def putShard (s : State) (c : Context) (p : CkPiece) (x : CkShard) (d : CkData) (w : CkWrites) : CkWrites :=
  (List.range (pieceCount p)).foldl (fun w i =>
    match inShard x.box (tensorCoords p i) with
    | none => w
    | some j => putOne s c p x d i j w) w

/-- A piece and a shard of one tensor disagree (R389). -/
def shardClash (s : State) (c : Context) (p : CkPiece) (x : CkShard) : Bool :=
  x.box.tid == p.tid &&
  (x.box.dims != p.dims || x.box.ety != p.ety || x.box.eszc != p.eszc ||
   (p.ety == 3 && pieceCount x.box != 0 && pieceCount p != 0 && shardGeom x != pieceGeom s c p))

/-- The unbacked frames that a restore writes are backed. -/
def backPiece (c : Context) (s : State) (p : CkPiece) : State :=
  (List.range (pieceCount p)).foldl (fun s i => (elemSpan p i).foldl (fun s a =>
    match walkVa s ((getCtx s c.asid).getD c) 8 a.toNat with
    | .leaf x => let r := seatBack s (backReq s c.asid 8 x); r.1.getD r.2
    | _ => s) s) s

/-- Perform the writes of a restore: whole sectors lose their poison, poisoned ones are written back poisoned (R383). -/
def landWrites (s : State) (asid : Nat) (w : CkWrites) : State :=
  let s := clearPoison s (w.puts.map fun x => (x.1, x.2.1))
  let s := w.puts.foldl (fun s x => bankWrite s asid x.1 x.2.1 x.2.2) s
  dropTlb (w.bad.foldl (fun s k => addPoison s (k / 32)) s) asid

/-- Elements of the target in all. -/
def targetCount (x : CkOp) : Nat := (x.pieces.map pieceCount).sum

/-- A restore ends: CKUNC counts what it left unchanged, and PART shows that there is some, or that the copy pass broke
off (R389). -/
def endRestore (s : State) (x : CkOp) (code : Nat) : State :=
  let unc := targetCount x - x.copied
  let s := postMail (ckEnd s x.asid code) 0x50 8 3 x.asid [2, unc]
  { s with pf := { s.pf with ckunc := unc, ckpart := unc != 0 || code != 0 } }

/-- The check pass is over and nothing differs: a verify ends; a restore reads the target's pieces, which must agree with
the shards, before the copy pass begins. -/
def endCheck (s : State) (x : CkOp) : State :=
  if x.op == 3 then ckEnd s x.asid 0
  else
    match getCtx s x.asid with
    | none => ckEnd s x.asid 7
    | some c =>
      match readTable s c x.whole with
      | (s, .error n) => ckEnd s x.asid n
      | (s, .ok (_, ps)) =>
        let c := (getCtx s x.asid).getD c
        if ps.any fun p => x.shards.any (shardClash s c p) then ckEnd s x.asid 3
        else ckSet s fun x => { x with pieces := ps, phase := .copy 0 0 }

/-- The code of a drive's failure: a verify has none but 9. -/
def driveCode (x : CkOp) : Nat := if x.op == 3 then 9 else 5

/-- Segment `i` of the stored stream is read in the check pass, the manifest first: its tag and the chain are recomputed. -/
def stepCheck (s : State) (x : CkOp) (i chain : Nat) (ok : Bool) : State :=
  match driveTurn s x.region with
  | (s, false) => ckEnd s x.asid (driveCode x)
  | (s, true) =>
    match i with
    | 0 =>
      let n := commitSegs x.commit - 1
      let m := readStream s x.region 4096 (64 + 96 * n)
      let text := openSegment x.key 0 m
      let s := ckMore s (segmentRoom m.length)
      if segmentTag x.key 0 m == commitTag x.commit && leNum (text.take 4) == n then
        ckSet s fun x => { x with shards := manifestShards n text, phase := .check 1 (chainNext chain m) ok }
      else ckEnd s x.asid 9
    | k + 1 =>
      match x.shards[k]? with
      | none => if ok && chain == bitsN x.commit 1023 768 then endCheck s x else ckEnd s x.asid 9
      | some h =>
        let cs := readStream s x.region h.off h.len
        ckPhase (ckMore s (segmentRoom h.len)) (.check (k + 2) (chainNext chain cs) (ok && segmentTag x.key (k + 1) cs == h.tag))

/-- Elements of a piece that a shard holds. -/
def sharedCount (p : CkPiece) (h : CkShard) : Nat :=
  ((List.range (pieceCount p)).filter fun i => (inShard h.box (tensorCoords p i)).isSome).length

/-- Shard `j` is read again and copied into piece `i`; where its tag differs now, or a drive fails, the restore stops with
what it has written. -/
def stepCopy (s : State) (x : CkOp) (i j : Nat) : State :=
  match x.pieces[i]?, x.shards[j]? with
  | none, _ => endRestore s x 0
  | some _, none => ckPhase s (.copy (i + 1) 0)
  | some p, some h =>
    if h.box.tid != p.tid then ckPhase s (.copy i (j + 1))
    else
      match driveTurn s x.region with
      | (s, false) => endRestore s x 5
      | (s, true) =>
        let cs := readStream s x.region h.off h.len
        if segmentTag x.key (j + 1) cs != h.tag then endRestore s x 9
        else
          match getCtx s x.asid with
          | none => ckEnd s x.asid 7
          | some c =>
            let s := backPiece c s p
            let w := putShard s ((getCtx s x.asid).getD c) p h (shardData x.key (j + 1) h cs) ⟨[], []⟩
            ckSet (landWrites s x.asid w) fun x => { x with copied := x.copied + sharedCount p h, phase := .copy i (j + 1) }

/-- The operation under way goes on by one segment (R388, R389). -/
def checkpointStep (s : State) : State :=
  match s.pf.ckwait with
  | none => s
  | some x =>
    match x.phase with
    | .write i => stepWrite s x i
    | .back i chain ok => stepBack s x i chain ok
    | .host => s
    | .check i chain ok => stepCheck s x i chain ok
    | .copy i j => stepCopy s x i j

/-! ## CKCMD -/

/-- A checkpoint or a restore starts, with no byte moved. -/
def ckStart (s : State) (f : State → Context → State) : State :=
  match ckContext s with
  | none => ckCode (ckMoved s 0) 1
  | some c => if ckQuiet s c.asid then f (ckMoved s 0) c else ckCode (ckMoved s 0) 2

/-- A write of CKCMD (R386, R388, R390). -/
def ckcmdWrite (s : State) (v : Word) : State :=
  let n := v.toNat
  let op := bitsN n 3 0
  if s.pf.ckwait.isSome then { s with pf := { s.pf with ckcode := 8 } }
  else if n / 32 != 0 || op == 0 || 3 < op then s
  else if op == 1 then ckStart s fun s c => startCheckpoint s c (n.testBit 4)
  else if op == 2 then ckStart s fun s c => startRestore s c (n.testBit 4)
  else startVerify s (n.testBit 4)

/-- CHECKPOINT (R388): a write of CKCMD with OP 1. -/
def execCheckpoint (path : Path) (v : Word) (s : State) : Host.Outcome State Fault Refusal :=
  .next (if bar2Open s path then ckcmdWrite s (withOp v 1) else s)

/-- CHECKPOINT_RESTORE (R389): a write of CKCMD with OP 2. -/
def execCheckpointRestore (path : Path) (v : Word) (s : State) : Host.Outcome State Fault Refusal :=
  .next (if bar2Open s path then ckcmdWrite s (withOp v 2) else s)

/-- CHECKPOINT_VERIFY (R388): a write of CKCMD with OP 3. -/
def execCheckpointVerify (path : Path) (v : Word) (s : State) : Host.Outcome State Fault Refusal :=
  .next (if bar2Open s path then ckcmdWrite s (withOp v 3) else s)

end Sys2Proof.Machine
end

