-- ==== Sys2Proof/Machine/Duty.lean ====
section
/-!
DEFINITION. Replies to host-assisted duty requests, and their timeout (R332, R333).
-/

namespace Sys2Proof.Machine

/-- The seat that owns a duty (Table 20.10). -/
def dutySeat (d : Nat) : Nat := [3, 3, 8, 8, 1, 4, 6, 5].getD d 4

/-- A request that waits for its reply. -/
def getDuty (f : VFunc) (ix : Nat) : Option DutyReq := f.duties.find? (·.ix == ix)

/-- A request waits no longer. -/
def dropDuty (s : State) (vf ix : Nat) : State :=
  modFunc s vf fun f => { f with duties := f.duties.filter (·.ix != ix) }

/-- The seat posts a refused request again and records the refusal with seat 4 (R333). -/
def refuseReply (s : State) (vf : Nat) (d : DutyReq) : State :=
  postMail (postDuty s vf d.duty d.subject d.extra d.body) 0x10 (dutySeat d.duty) 4 0 [vf, d.duty, s.cox]

/-- A die for a gang, or the home of a page whose counts were posted: its present home moves nothing (R304). -/
def placeReply (s : State) (d : DutyReq) (die : Nat) : State :=
  if d.extra == 0 then grantGang s d.subject die
  else
    match (getCtx s d.subject).bind (frameOf · (d.extra - 1)) with
    | none => s
    | some x => if frameHome x == die then s else { s with rehomes := s.rehomes ++ [⟨d.subject, d.extra - 1, x.pages, die⟩] }

/-- The request for a frame that stands at the host. -/
def backAsked (s : State) (d : DutyReq) : Option BackReq := s.backing.find? fun r => r.asid == d.subject && r.lfn == d.extra

/-- A mapping for a frame that leaves its place to the device: seat 3 backs it (log 66). -/
def backReply (s : State) (d : DutyReq) : State :=
  match backAsked s d with
  | some r => answerBacking s r
  | none => s

/-- Lines of a place on a die. -/
def placeLines (cs : List Chunk) (die : Nat) : Nat := ((cs.filter (·.die == die)).map (·.lines)).sum

/-- A place that the host gives a frame: free lines, as many on each die as R336 has the frame take there. -/
def placeFits (s : State) (f : VFunc) (r : BackReq) (own place : List Chunk) : Bool :=
  computeDies.all (fun d => placeLines place d == placeLines own d) &&
  place.all (fun k => k.die < 8 && 0 < k.lines && (r.home == 0 || k.line % 32 == 0 && k.lines == 32) &&
    (freeRuns s f r.asid k.die).any fun u => u.1 ≤ k.line && k.line + k.lines ≤ u.2) &&
  decide (place.Pairwise fun a b => a.die ≠ b.die ∨ a.line + a.lines ≤ b.line ∨ b.line + b.lines ≤ a.line)

/-- The mapping that the host returns for a frame, unsealed: the frame is backed there. A place that does not serve fails
its check (R333); where the slice holds no room, the answer is that of R336. -/
def mapReply (s : State) (vf : Nat) (d : DutyReq) (place : List Chunk) : State :=
  match backAsked s d, getFunc s vf with
  | some r, some f =>
    match backPlace s f r with
    | none => answerBacking s r
    | some own =>
      if placeFits s f r own place then
        dropBacking ((backFrameAt s r fun _ => some place).getD s) r.asid r.lfn
      else refuseReply s vf d
  | _, _ => s

/-- A range that the host releases to the scrub stands behind the ranges that have begun or been released, so that the
host's order is kept (R392). -/
def releaseRange (first : Nat) (qs : List QRange) : List QRange :=
  let ahead (q : QRange) : Bool := q.first != first && (q.cleared || q.frontier != q.first)
  qs.filter ahead ++ ((qs.filter (·.first == first)).map fun q => { q with cleared := true }) ++
    qs.filter fun q => q.first != first && !ahead q

/-- The host's reply for a range. -/
def scrubReply (s : State) (d : DutyReq) : State :=
  modDie s d.subject fun x => { x with quar := releaseRange d.extra x.quar }

/-- The host has written what it was handed, a segment or the commit block, and returns it: as it was (`none`), or as the
bytes that it gives. After the last segment tags and chain are checked over what came back, and the commit block is
staged; after that the checkpoint is done (R390). -/
def stageReply (s : State) (vf : Nat) (d : DutyReq) (back : Option Nat) : State :=
  match s.pf.ckwait with
  | none => s
  | some x =>
    if x.asid != d.subject || x.phase != .host then s
    else if d.extra == x.segs.length then
      (if back.all (· == x.commit) then commitStream s x else ckEnd s x.asid 6)
    else
      let n := d.body.getD 1 0
      let s := ckMore (writeSegment s x.region (d.body.getD 0 0) (numBytes n (back.getD (d.body.getD 2 0)))) (segmentRoom n)
      if (getFunc s vf).any fun f => f.duties.any fun y => y.duty == 3 && y.subject == x.asid then s
      else if readBackOk s x then postDuty s vf 3 x.asid x.segs.length (stageBody 0 (numBytes 4096 x.commit))
      else ckEnd s x.asid 6

/-- A reply that its duty accepts is applied. -/
def applyReply (s : State) (vf : Nat) (d : DutyReq) : State :=
  match d.duty with
  | 0 => backReply s d
  | 2 => scrubReply s d
  | 3 => stageReply s vf d none
  | 4 => modCmdQueue s vf d.subject fun x => { x with cmds := modBy (·.id == d.extra) (fun c => { c with parsed := true }) x.cmds }
  | 7 => startRekey s d.subject
  | _ => s

/-- DUTY_REPLY (R333): a die that the placement mask allows for PLACE, a blob or a mapping that passes its check for
the other duties; anything else is refused. -/
def execDutyReply (vf ix : Nat) (a : DutyAnswer) (s : State) : Host.Outcome State Fault Refusal :=
  match getFunc s vf with
  | none => .next s
  | some f =>
    match getDuty f ix with
    | none => .next s
    | some d =>
      let s := dropDuty s vf ix
      match a with
      | .die x => .next (if d.duty == 1 && x < 8 && maskAllows f x then placeReply s d x else refuseReply s vf d)
      | .blob ok => .next (if d.duty != 1 && ok then applyReply s vf d else refuseReply s vf d)
      | .stored n => .next (if d.duty == 3 then stageReply s vf d (some n) else refuseReply s vf d)
      | .mapping ok place =>
        .next (if d.duty == 0 && ok then mapReply s vf d (place.map fun p => ⟨p.1, p.2.1, p.2.2⟩) else refuseReply s vf d)

/-- DUTY_TIMEOUT (R333): a request unanswered for 1 s is recorded with seat 4; the seat goes on waiting. -/
def execDutyTimeout (vf ix : Nat) (s : State) : Host.Outcome State Fault Refusal :=
  match (getFunc s vf).bind (getDuty · ix) with
  | none => .next s
  | some d =>
    if d.timedOut || s.cox < d.posted + 200000000 then .next s
    else
      let s := modFunc s vf fun f => { f with duties := modBy (·.ix == ix) (fun d => { d with timedOut := true }) f.duties }
      .next (postMail s 0x10 (dutySeat d.duty) 4 0 [vf, d.duty, s.cox])

end Sys2Proof.Machine
end

