-- ==== Sys2Proof/Machine/Power.lean ====
section
/-!
DEFINITION. Clocks, the power budget, peak current and thermal limits (R394 to R398).
-/

namespace Sys2Proof.Machine

/-! ## Clocks (R395) -/

/-- Seat 7 decides a clock for a die: the message of the change goes to its instance, and CLOCK_CHANGE takes it. -/
def decideClock (s : State) (die f : Nat) : State :=
  postMail (modDie s die fun d => { d with newClk := some f }) 0x40 7 (16 + die) 0 [die, f]

/-- The clock that a die has, or will have by the last decision. -/
def clockSet (d : Die) : Nat := d.newClk.getD d.clk

/-- A ceiling of CLK: 400 to 1,100 MHz in steps of 25. -/
def ceilingOk (f : Nat) : Bool := 400 ≤ f && f ≤ 1100 && f % 25 == 0

/-- A write of CLK: bits 31 to 16 are read only. A ceiling below the clock is a decision in itself. -/
def clkWrite (s : State) (die : Nat) (v : Word) : State :=
  let f := v.toNat % 2 ^ 16
  if !ceilingOk f || 8 ≤ die then s
  else
    let s := modDie s die fun d => { d with ceil := f }
    if f < (getDie s die).clk || f < clockSet (getDie s die) then decideClock s die f else s

/-- CLOCK_CEILING_WRITE (R394, R395). -/
def execClockCeilingWrite (path : Path) (die : Nat) (v : Word) (s : State) : Host.Outcome State Fault Refusal :=
  .next (if bar2Open s path then clkWrite s die v else s)

/-- CLOCK_CHANGE (R395): a decided change takes effect. -/
def execClockChange (die : Nat) (s : State) : Host.Outcome State Fault Refusal :=
  .next (modDie s die fun d => { d with clk := clockSet d, newClk := none })

/-! ## The budget (R396) -/

/-- A die as seat 7 plans for it: number, power over the window in W, activity, clock at present, clock planned, the
highest clock that it may have. Power and activity are what the window's counters and sensors give: how long a matrix unit
runs a command is no state of the model (log 55). -/
structure ClockPlan where
  die  : Nat
  pow  : Nat
  act  : Nat
  now  : Nat
  plan : Nat
  top  : Nat
  deriving DecidableEq, Repr

/-- Predicted power of a die at clock f. -/
def planPower (p : ClockPlan) (f : Nat) : Rat := (p.pow * f : Nat) / (p.now : Nat)

/-- Predicted power of the module: dies at their planned clocks, memory and X as measured. -/
def planTotal (ps : List ClockPlan) (rest : Nat) : Rat := (ps.map fun p => planPower p p.plan).foldl (· + ·) (rest : Rat)

/-- The clocks of 25 MHz steps from 400 to 1,100, descending. -/
def clockSteps : List Nat := (List.range 29).map fun i => 1100 - 25 * i

/-- Ascending activity, ties to the higher die number first. -/
def planFirst (a b : ClockPlan) : Bool := a.act < b.act || (a.act == b.act && b.die < a.die)

/-- Plans in the order in which clocks are lowered. -/
def sortPlans (ps : List ClockPlan) : List ClockPlan :=
  ps.foldr (fun p l => l.filter (fun q => planFirst q p) ++ p :: l.filter fun q => !planFirst q p) []

/-- One die is lowered as far as needed, down to 400 MHz; `excess` is what the plan has above the cap. -/
def lowerPlan (excess : Rat) (p : ClockPlan) : ClockPlan :=
  if excess ≤ 0 then p
  else
    let f := clockSteps.find? fun f => f ≤ p.plan && excess ≤ planPower p p.plan - planPower p f
    { p with plan := f.getD (min p.plan 400) }

/-- Lower clocks in order until the predicted total meets the cap. -/
def lowerPlans (cap : Nat) (rest : Rat) : List ClockPlan → List ClockPlan
  | [] => []
  | p :: ps =>
    let others := (ps.map fun q => planPower q q.plan).foldl (· + ·) rest
    let p' := lowerPlan (others + planPower p p.plan - cap) p
    p' :: lowerPlans cap (rest + planPower p' p'.plan) ps

/-- Raise clocks in order, each as far as the predicted total stays at or below the cap. -/
def raisePlans (cap : Nat) (rest : Rat) : List ClockPlan → List ClockPlan
  | [] => []
  | p :: ps =>
    let others := (ps.map fun q => planPower q q.plan).foldl (· + ·) rest
    let f := (clockSteps.find? fun f => f ≤ p.top && p.plan ≤ f && others + planPower p f ≤ cap).getD p.plan
    let p' := { p with plan := f }
    p' :: raisePlans cap (rest + planPower p f) ps

/-- Limits of R398 in °C × 16: of a die, and of its memory. -/
def dieLimit : Int := 1600
def memLimit : Int := 1520

/-- THROT at a window: it clears once each sensor that had reached its limit reads 3 °C below it. -/
def coolDie (d : Die) : Die := if d.throt && !d.hot && !d.mhot then { d with throt := false } else d

/-- The plan of a die as the window begins: its power was drawn at the clock that it has, and it keeps the clock decided
last. A die with THROT set steps down by 25 MHz and is raised no further than the clock in force when THROT was set. -/
def planOf (s : State) (i : Nat) (m : DieMeasure) : ClockPlan :=
  let d := getDie s i
  let set := clockSet d
  { die := i, pow := m.power, act := m.activity, now := d.clk, plan := if d.throt then max 400 (set - 25) else set,
    top := if d.throt then min (max 400 (set - 25)) (min d.ceil d.throtClk) else d.ceil }

/-- The clocks that seat 7 plans. -/
def planClocks (cap rest : Nat) (ps : List ClockPlan) : List ClockPlan :=
  let total := planTotal ps rest
  if (cap : Rat) < total then lowerPlans cap rest (sortPlans ps)
  else if total * 100 < (cap : Rat) * 95 then raisePlans cap rest (sortPlans ps).reverse
  else ps

/-- The dies that seat 7 plans for. -/
def plannedDies (s : State) : List Nat := computeDies.filter (dieUp s)

/-- Power of dies over a window. -/
def diesPower (m : List DieMeasure) (ds : List Nat) : Nat := (ds.map fun i => (m.getD i ⟨0, 0⟩).power).sum

/-- PWR after a window in which the module drew `total`: the mean of the windows of the last 1 ms, 24 of 40.96 µs. -/
def windowPower (total : Nat) (p : PfRegs) : PfRegs :=
  let ws := (total :: p.pwrs).take 24
  { p with pwrs := ws, pwr := ws.sum / ws.length % 2 ^ 16 }

/-- POWER_WINDOW (R394, R396, R398): at multiples of 2^13 of the cox count seat 7 plans from what it measured of dies 0 to
7, in order, and of the memory and X; what a die draws that is not up is taken as measured, too. -/
def execPowerWindow (m : List DieMeasure) (memory x : Nat) (s : State) : Host.Outcome State Fault Refusal :=
  if s.cox % 2 ^ 13 != 0 || s.boot.stage < 3 || !s.boot.powered then .next s
  else
    let s := { s with dies := s.dies.map coolDie, pf := windowPower (diesPower m computeDies + memory + x) s.pf }
    let rest := memory + x + diesPower m (computeDies.filter fun i => !dieUp s i)
    let ps := (plannedDies s).map fun i => planOf s i (m.getD i ⟨0, 0⟩)
    let plans := planClocks s.pf.pwrcap rest ps
    let s := plans.foldl (fun s p => if p.plan == clockSet (getDie s p.die) then s else decideClock s p.die p.plan) s
    .next (if (s.pf.pwrcap : Rat) < planTotal plans rest then postMail s 0x10 7 4 0 [0, s.cox] else s)

/-! ## Peak current (R397) -/

/-- FAST of every compute die. It halves the rate of the matrix units and changes no result. -/
def setFast (s : State) (on : Bool) : State :=
  { s with dies := s.dies.zipIdx.map fun d => if d.2 < 8 then { d.1 with fast := on } else d.1 }

/-- FAST_SET (R397). -/
def execFastSet (s : State) : Host.Outcome State Fault Refusal := .next (setFast s true)
/-- FAST_CLEAR (R397). -/
def execFastClear (s : State) : Host.Outcome State Fault Refusal := .next (setFast s false)

/-! ## Thermal limits (R398) -/

/-- A sensor that reads `temp` against a limit: it has reached it, or, once it has, not yet read 3 °C below. -/
def sensorHot (limit temp : Int) (hot : Bool) : Bool := limit ≤ temp || hot && limit - 48 < temp

/-- A sensor reads: of the die, or of its memory. -/
def readSensor (mem : Bool) (temp : Int) (d : Die) : Die :=
  let limit := if mem then memLimit else dieLimit
  let d := if mem then { d with mtemp := temp, mhot := sensorHot limit temp d.mhot }
           else { d with temp := temp, hot := sensorHot limit temp d.hot }
  if !d.throt && limit ≤ temp then { d with throt := true, throtClk := d.clk } else d

/-- A compute die, or its memory, reads its trip limit: 115 °C and 105 °C. -/
def dieTrips (d : Die) (i : Nat) : Bool := i < 8 && (1840 ≤ d.temp || 1680 ≤ d.mtemp)

/-- X reads 110 °C. -/
def moduleTrips (s : State) : Bool := 1760 ≤ (getDie s 8).temp

/-- THROT_SET (R398): a sensor of a die or of its memory reads, and at its limit sets THROT. -/
def execThrotSet (die : Nat) (mem : Bool) (temp : Int) (s : State) : Host.Outcome State Fault Refusal :=
  .next (modDie s die (readSensor mem temp))

/-- THERMAL_TRIP (R398): a die whose sensors read the trip limit: its compute domain stops, as a fatal error of the
die. -/
def execThermalTrip (die : Nat) (s : State) : Host.Outcome State Fault Refusal :=
  .next (if dieTrips (getDie s die) die then dieFails s die else s)

end Sys2Proof.Machine
end

