-- ==== Sys2Proof/Machine/Boot.lean ====
section
/-!
DEFINITION. Power loss, cold boot and the stages of bring-up (R4 to R6, R372, R398, R399, R401, R403), recovery mode
(R400), and the resets that CCMD asks for (R359, R399, R402).
-/

namespace Sys2Proof.Machine

/-! ## What outlasts the module's power -/

/-- Bytes of host memory and of storage, which the module's power does not hold. -/
def outsideMem (m : List Host.Cell) : List Host.Cell := m.filter fun c => 6 * 2 ^ 128 ≤ c.1

/-- The module as a cold boot starts: every key, every context and the quarantine table are gone; the firmware image,
host memory, storage and the always-on list of retired key identifiers stay (R356, R399, R403). -/
def coldState (s : State) : State :=
  { State.reset with
    mem := outsideMem s.mem, poison := s.poison.filter fun p => 6 * 2 ^ 128 ≤ p * 32, fresh := s.fresh,
    nextId := s.nextId, retired := s.retired, console := s.console, dumps := s.dumps, boot := { Boot.reset with image := s.boot.image } }

/-- The module without power. -/
def darkState (s : State) : State :=
  let s := coldState s
  { s with boot := { s.boot with powered := false } }

/-- POWER_LOSS (R403). -/
def execPowerLoss (s : State) : Host.Outcome State Fault Refusal := .next (darkState s)

/-- MODULE_THERMAL_TRIP (R398): where X reads its trip limit, as a power loss. -/
def execModuleThermalTrip (s : State) : Host.Outcome State Fault Refusal := .next (if moduleTrips s then darkState s else s)

/-- COLD_BOOT (R399): the return of power starts at stage 0. -/
def execColdBoot (s : State) : Host.Outcome State Fault Refusal := .next (if s.boot.powered then s else coldState s)

/-! ## Resets by CCMD (R359) -/

/-- RESET_DIE (R359, R402): a CCMD write with OP 3. -/
def execResetDie (path : Path) (v : Word) (s : State) : Host.Outcome State Fault Refusal :=
  .next (if bar2Open s path then ccmdWrite s (withOp v 3) coldState else s)

/-- A reset command word with DIE 8. -/
def withDie8 (v : Word) : Word := withOp v 3 &&& ~~~0xF000#32 ||| 0x8000#32

/-- MODULE_RESET (R359, R399): a CCMD write with OP 3 and DIE 8. -/
def execModuleReset (path : Path) (v : Word) (s : State) : Host.Outcome State Fault Refusal :=
  .next (if bar2Open s path then ccmdWrite s (withDie8 v) coldState else s)

/-! ## Stages (Table 25.4) -/

/-- The code of a stage that fails; stage 2 has none. -/
def stageCode (n : Nat) : Nat := [0, 1, 0, 2, 3, 4, 5].getD n 0

/-- The digest of an applied record, for the chain of Table 22.8 (log 7). -/
def recordDigest : ConfigRecord → Nat
  | .debugOpen => sha [1]
  | .fence u => sha (2 :: fenceWords u)
  | .rekeyBlocks st n => sha [3, st, n]
  | .threshold d n => sha [5, d, n]
  | .certChain c => sha [6, c]
  | .other d => sha [4, d]

/-- Seat 6 applies a record whose signature holds (R4, R6, R365, R372, R384, Table 22.7). -/
def applyRecord (s : State) (r : ConfigRecord) : State :=
  let s := { s with boot := { s.boot with records := s.boot.records ++ [recordDigest r] } }
  match r with
  | .debugOpen => { s with boot := { s.boot with debugOpen := true } }
  | .fence u => { s with boot := { s.boot with fenced := s.boot.fenced ++ [u] } }
  | .rekeyBlocks st n => putStream s st fun x => { x with limit := min n (2 ^ 32) }
  | .threshold d n => { s with boot := { s.boot with thresholds := (d, n) :: s.boot.thresholds.filter (·.1 != d) } }
  | .certChain c => { s with boot := { s.boot with certs := some c } }
  | .other _ => s

/-- The compute domain of a die starts: 400 MHz, %cyc 0. -/
def startDie (d : Die) : Die := { d with alive := true, clk := 400, cyc := 0, frac := 0 }

/-- Every frame of a die stands in quarantine as one range, and with it the key identifiers that are retired (R356,
R392). -/
def wholeRange (die : Nat) (keys : List Nat) : List QRange := [⟨0, dieUnits die * 65536 - 1, 0, keys, none, false, []⟩]

/-- The work of a stage. -/
def stageWork (s : State) (recs : List ConfigRecord) : Nat → State
  | 1 => modDie s 8 fun d => { d with alive := true }
  | 2 => recs.foldl applyRecord s
  | 3 =>
    let s := computeDies.foldl zeroCommons s
    computeDies.foldl (fun s d => modDie s d startDie) s
  | 5 =>
    let s := computeDies.foldl (fun s d => modDie s d fun x => { x with quar := wholeRange d s.retired }) s
    { s with liveInst := List.range 9, boot := { s.boot with scrubbing := true } }
  | 6 => { s with boot := { s.boot with recovery := false } }
  | _ => s

/-- The consoles emit a boot progress code (R373). -/
def bootProgress (s : State) : State := { s with console := .progress s.boot.stage s.boot.fail :: s.console }

/-- BOOT_STAGE_COMPLETE (R399): the stage in progress completes, or fails and stops the boot. `recs` are the records
whose signatures hold, for stage 2. -/
def execBootStageComplete (ok : Bool) (recs : List ConfigRecord) (s : State) : Host.Outcome State Fault Refusal :=
  let n := s.boot.stage + 1
  if !s.boot.powered || s.boot.fail != 0 || 6 < n then .next s
  else if !ok && stageCode n != 0 then .next (bootProgress { s with boot := { s.boot with fail := stageCode n } })
  else
    let s := stageWork s recs n
    .next (bootProgress { s with boot := { s.boot with stage := n } })

/-! ## Recovery mode (R400) -/

/-- Host port 0 answers in recovery mode, for its one physical function. -/
def recoveryOpen (s : State) (path : Path) : Bool := s.boot.powered && s.boot.recovery && path == .pf

/-- RCMD 1: the recovery buffer is emptied. -/
def beginLoad (s : State) : State :=
  { s with boot := { s.boot with buffer := [], begun := true, overflow := false, received := 0 } }

/-- RSTAT with a code. -/
def rstatCode (s : State) (code : Nat) : State := { s with boot := { s.boot with rcode := code } }

/-- A write of RDATA: eight bytes, up to 64 MiB. -/
def rdataWrite (s : State) (v : DWord) : State :=
  if !s.boot.begun then rstatCode s 3
  else if 2 ^ 26 < s.boot.buffer.length + 8 then
    rstatCode { s with boot := { s.boot with overflow := true } } 2
  else
    { s with boot := { s.boot with buffer := s.boot.buffer ++ numBytes 8 v.toNat, received := s.boot.received + 8 } }

/-- The boot restarts at stage 1 with a new image; the time since the cold boot and the counters of always-on storage
go on (R384, R400). -/
def restartBoot (s : State) : State :=
  let c := coldState s
  { c with
    cox := s.cox,
    dies := s.dies.map fun d =>
      { Die.reset with mce := d.mce, mue := d.mue, sce := d.sce, sue := d.sue, lrt := d.lrt, ppc := d.ppc, patrolFor := d.patrolFor },
    boot := { c.boot with image := s.boot.buffer, received := s.boot.received } }

/-- RCMD 2: seat 6 measures the buffer; `ok` is what it finds. -/
def endLoad (s : State) (ok : Bool) : State :=
  if !s.boot.begun then rstatCode s 3
  else if s.boot.overflow then rstatCode { s with boot := { s.boot with begun := false } } 2
  else if ok then restartBoot s
  else rstatCode { s with boot := { s.boot with begun := false } } 1

/-- A write of RCMD. -/
def rcmdWrite (s : State) (v : Word) (ok : Bool) : State :=
  if v == 1 then beginLoad s else if v == 2 then endLoad s ok else s

/-- RECOVERY_BEGIN_LOAD (R400): a write of RCMD with OP 1. -/
def execRecoveryBeginLoad (path : Path) (v : Word) (s : State) : Host.Outcome State Fault Refusal :=
  .next (if recoveryOpen s path then rcmdWrite s (withOp v 1) false else s)

/-- RECOVERY_DATA (R400). -/
def execRecoveryData (path : Path) (v : DWord) (s : State) : Host.Outcome State Fault Refusal :=
  .next (if recoveryOpen s path then rdataWrite s v else s)

/-- RECOVERY_END_LOAD (R400): a write of RCMD with OP 2. -/
def execRecoveryEndLoad (path : Path) (v : Word) (ok : Bool) (s : State) : Host.Outcome State Fault Refusal :=
  .next (if recoveryOpen s path then rcmdWrite s (withOp v 2) ok else s)

end Sys2Proof.Machine
end

