-- ==== Sys2Proof/Machine/Bulk.lean ====
section
/-!
DEFINITION. Bulk copies (R186 to R189, R191, R358): `kick`, the request engine's acceptance of a record, the landing of
its rows, and its status word; and the landing of every transfer.
-/

namespace Sys2Proof.Machine

/-! ## The kick queue (R186) -/

/-- `kick` (R186): a release; it does not issue while the core's queue is full. -/
def execKick (g : Guard) (a b : Reg) (s : State) : Host.Outcome State Fault Refusal :=
  withCur (releaseCur s) fun c e =>
    if kicksFull s e.group then s
    else uniformAt (releaseCur s) c e g anywhere [src false a, src false b] fun _ rd s =>
      let at_ := (rd a.toNat).toNat
      let n := (rd b.toNat).toNat
      match scratchCheck e.grid.desc.scratch at_ (64 * if 1 ≤ n && n ≤ 256 then n else 1) 64 with
      | some f => .fault f
      | none =>
        if n == 0 || 256 < n then .fault { cls := clsQueue }
        else .done (modDie { s with nextId := s.nextId + 1 } e.group.die fun d =>
          { d with kicks := d.kicks ++ [⟨s.nextId, e.group.core, e.team.tid, at_, n, 0⟩] }) {}

/-! ## The request record (Table 9.4) -/

/-- The record's fields. -/
structure BulkRec where
  bar    : Nat
  tile   : Nat
  tv     : Bool
  sealing : Bool
  rz     : Bool
  pln    : Nat
  dfmt   : Nat
  dspc   : Nat
  sspc   : Nat
  rows   : Nat
  rowLen : Nat
  dstr   : Int
  sstr   : Int
  dst    : Nat
  src    : Nat
  /-- a field that is reserved and zero is not zero -/
  bad    : Bool
  deriving DecidableEq, Repr

/-- The record in 64 bytes. -/
def readRecord (x : Nat) : BulkRec :=
  { bar := bitsN x 287 256, tile := bitsN x 251 246, tv := x.testBit 245, sealing := x.testBit 244, rz := x.testBit 243,
    pln := bitsN x 242 239, dfmt := bitsN x 238 235, dspc := bitsN x 234 232, sspc := bitsN x 231 229,
    rows := bitsN x 223 208, rowLen := bitsN x 207 192, dstr := sextN (bitsN x 191 160) 32,
    sstr := sextN (bitsN x 159 128) 32, dst := bitsN x 111 64, src := bitsN x 47 0,
    bad := bitsN x 447 288 != 0 || bitsN x 255 252 != 0 || bitsN x 228 224 != 0 || bitsN x 127 112 != 0 ||
      bitsN x 63 48 != 0 }

/-- The space of a code of Table 4.10 that a copy may name. -/
def bulkSpace : Nat → Option Space
  | 1 => some .scr | 2 => some .cmn | 3 => some .glb | 4 => some .hst | _ => none

/-- Bytes of an element of DFMT as it lands. -/
def dfmtBytes : Nat → Nat
  | 1 => 4 | 2 | 3 => 2 | 4 => 1 | 5 => 2 | 6 => 4 | _ => 1

/-- A record that copies nothing (R188, R189). -/
def recordIllegal (r : BulkRec) : Bool :=
  r.bad || r.rows == 0 || r.rowLen == 0 || 6 < r.dfmt || 8 < r.pln ||
  (bulkSpace r.sspc).isNone || (bulkSpace r.dspc).isNone || (r.sspc != 1 && r.dspc != 1) ||
  (r.dfmt != 0 && (r.dspc != 1 || r.sealing))

/-! ## Planning a request -/

/-- Why the plan of a request stops. -/
inductive BulkStop where
  | miss (vpn : Nat)
  | back (r : BackReq)
  | fail (cls sub level : Nat) (addr : Int)
  deriving DecidableEq, Repr

/-- The surroundings of a request. -/
structure BulkEnv where
  team : Team
  grid : Grid
  ctx  : Context

/-- The surroundings of a team. -/
def bulkEnv (s : State) (tid : Nat) : Option BulkEnv :=
  (getTeam s tid).bind fun t => (getGrid s t.grid).bind fun r => (getCtx s r.asid).map fun c => ⟨t, r, c⟩

/-- A place of one side of a request: key, format, geometry, and how many of its units lie there. -/
structure BulkPlace where
  key  : Nat
  fmt  : Nat
  geom : Nat
  room : Nat

/-- Where one side goes on at an address, in units of `w` bytes: within its limit and its page. -/
def bulkPlace (s : State) (e : BulkEnv) (sp : Space) (k : AccKind) (a : Int) (w : Nat) : Except BulkStop BulkPlace :=
  let lim := limitAt s e.ctx e.team.die e.grid.desc.scratch sp
  if a < 0 || (lim : Int) < a + w then .error (.fail clsSpace 0 0 a)
  else
    let n := a.toNat
    match locateAt s e.ctx e.team.die e.team.tid sp k n w with
    | .miss v => .error (.miss v)
    | .unbacked r => .error (.back r)
    | .fault cls sub level => .error (.fail cls sub level a)
    | .ok key fmt geom _ _ =>
      if formatReserved fmt geom then .error (.fail clsFormat 0x01 0 a)
      else .ok ⟨key, fmt, geom, min ((4096 - n % 4096) / w) ((lim - n) / w)⟩

/-- The format check of a decoding request (R46, R54, R188). A source without a format, an unformatted page as well as
scratch or commons, stops the request as a page-format failure at its first byte, with its record (log 42). -/
def bulkFormat (r : BulkRec) (fmt : Nat) : Option Nat :=
  if r.dfmt == 0 then none
  else if fmt == 0 || pageIsBp fmt != (4 ≤ r.dfmt : Bool) then some 0x02
  else if pageIsBp fmt && pageBpN fmt < r.pln then some 0x03
  else none

/-- The access kinds of a request's sides. -/
def bulkKinds (r : BulkRec) : AccKind × AccKind :=
  if r.sealing then (if r.sspc == 1 then (.read, .sealedWrite) else (.sealedRead, .write)) else (.read, .write)

/-- A piece of a row from element or byte `done` on. -/
def bulkPiece (s : State) (e : BulkEnv) (r : BulkRec) (sa da : Int) (left : Nat) : Except BulkStop Piece :=
  let w := dfmtBytes r.dfmt
  let ks := bulkKinds r
  match bulkPlace s e ((bulkSpace r.sspc).getD .scr) ks.1 sa 1, bulkPlace s e ((bulkSpace r.dspc).getD .scr) ks.2 da w with
  | .error x, _ => .error x
  | _, .error x => .error x
  | .ok x, .ok y =>
    match bulkFormat r x.fmt with
    | some sub => .error (.fail clsFormat sub 0 sa)
    | none =>
      if r.dfmt != 0 && da % w != 0 then .error (.fail clsAlign 0 0 da)
      else .ok ⟨x.key, y.key, min left (min x.room y.room), sa.toNat, x.fmt, x.geom⟩

/-- The pieces of one row, and where it stops. -/
def rowPieces (s : State) (e : BulkEnv) (r : BulkRec) (sa da : Int) : Nat → Nat → List Piece → List Piece × Option (BulkStop × Nat)
  | 0, _, acc => (acc.reverse, none)
  | fuel + 1, done, acc =>
    if r.rowLen ≤ done then (acc.reverse, none)
    else
      match bulkPiece s e r (sa + done) (da + done * dfmtBytes r.dfmt) (r.rowLen - done) with
      | .error x => (acc.reverse, some (x, done))
      | .ok p => rowPieces s e r sa da fuel (done + max p.n 1) (p :: acc)

/-- The rows of a request in order, up to the first failing byte (R189). -/
def bulkRows (s : State) (e : BulkEnv) (r : BulkRec) : List Nat → List (Nat × List Piece) →
    List (Nat × List Piece) × Option (BulkStop × Nat)
  | [], acc => (acc.reverse, none)
  | i :: rest, acc =>
    let w := dfmtBytes r.dfmt
    let x := rowPieces s e r (r.src + i * r.sstr) (r.dst + i * r.dstr) (r.rowLen + 1) 0 []
    let off := i * r.rowLen * w
    let acc := if x.1.isEmpty then acc else (off, x.1) :: acc
    match x.2 with
    | none => bulkRows s e r rest acc
    | some (st, done) => (acc.reverse, some (st, off + done * w))

/-! ## Acceptance -/

/-- The bounds of the scratch side of a request in its tile (R191): every row lies in the tile's lines. -/
def insideTile (r : BulkRec) (t : TileEnt) (into : Bool) : Bool :=
  let w := if into then dfmtBytes r.dfmt else 1
  (List.range r.rows).all fun i =>
    let a : Int := if into then r.dst + i * r.dstr else r.src + i * r.sstr
    (t.base : Int) ≤ a && a + r.rowLen * w ≤ (t.base + t.lines * 128 : Nat)

/-- The tile of a request: its number and whether it is filled, or `none` inside where the request may not have it. -/
def bulkTile (e : BulkEnv) (r : BulkRec) : Option (Option (Nat × Bool)) :=
  if !r.tv then some none
  else
    match teamTile e.team r.tile with
    | none => none
    | some t =>
      if r.dspc == 1 && t.state == 0 && insideTile r t true then some (some (r.tile, true))
      else if r.sspc == 1 && t.state == 2 && insideTile r t false then some (some (r.tile, false))
      else none

/-- The barrier of a request: none, its key, or the failure of its address. -/
def bulkBar (e : BulkEnv) (r : BulkRec) : Except LaneFault (Option Nat) :=
  if r.bar == 2 ^ 32 - 1 then .ok none
  else
    match scratchCheck e.grid.desc.scratch r.bar 16 16 with
    | some f => .error f
    | none => .ok (some (keyScr e.team.tid r.bar))

/-- The oldest kick entry of a core moves on to its next record; after its last one it leaves the queue (R186). -/
def nextRecord (s : State) (die core : Nat) : State :=
  modDie s die fun d =>
    match coreKicks d core with
    | [] => d
    | k :: _ =>
      if k.n ≤ k.next + 1 then { d with kicks := d.kicks.filter (·.id != k.id) }
      else { d with kicks := modBy (·.id == k.id) (fun x => { x with next := x.next + 1 }) d.kicks }

/-- Bytes of an element for the count: a reserved DFMT has no width (log 5). -/
def countWidth (s : State) (r : BulkRec) : Nat :=
  if 6 < r.dfmt then Config.freeValue s.fresh % 2 ^ 32 else dfmtBytes r.dfmt

/-- The request as it is accepted. -/
def newRequest (s : State) (e : BulkEnv) (addr : Nat) (r : BulkRec) (bar : Option Nat) (tile : Option (Nat × Bool))
    (fail : Option (Nat × Nat)) (due : Option (Nat × Nat × Int)) (rows : Nat) : Request :=
  { id := s.nextId, tid := e.team.tid, die := e.team.die, addr := addr, bar := bar, tile := tile,
    sealing := if r.sealing then (if r.sspc == 1 then 2 else 1) else 0, dfmt := r.dfmt, pln := r.pln, rz := r.rz,
    fail := fail, due := due, fmtFlag := false, counted := 0, total := r.rows * r.rowLen * countWidth s r, orphan := false,
    rows := rows }

/-- The transfers of an accepted request, one for each row. -/
def addRows (s : State) (q : Request) (scr : Bool) (rows : List (Nat × List Piece)) : State :=
  rows.foldl (fun s x =>
    let t : Transfer := { id := s.nextId, gid := 0, tid := q.tid, pieces := x.2, data := [], scr := scr, bar := q.bar,
                          bytes := (x.2.map (·.n)).sum * dfmtBytes q.dfmt, orphan := false, req := some q.id, row := x.1 }
    { s with nextId := s.nextId + 1, transfers := s.transfers ++ [t] }) s

/-- A request that is accepted joins the machine, with its tile on its way. -/
def addRequest (s : State) (q : Request) (scr : Bool) (rows : List (Nat × List Piece)) : State :=
  let s := { s with nextId := s.nextId + 1, fresh := s.fresh + 1, requests := s.requests ++ [q] }
  let s := match q.tile with
    | none => s
    | some (n, fill) => modTile s q.tid n fun t => { t with state := if fill then 1 else 3 }
  addRows s q scr rows

/-- The record of a request's failure, which goes out as it finishes: one, for its first failing byte (R189, R342). -/
def bulkRecord (s : State) (q : Request) : State :=
  match q.fail, q.due, bulkEnv s q.tid with
  | some (cls, _), some (sub, level, a), some e =>
    engineRecord s e.ctx.asid e.team.die e.team.index cls sub level a q.addr 0 2 false none
  | _, _, _ => s

/-- The plan has been made: the request is accepted with the rows before its first failing byte. -/
def acceptRows (s : State) (e : BulkEnv) (die core addr : Nat) (r : BulkRec) (bar : Option Nat)
    (tile : Option (Nat × Bool)) : State :=
  let x := bulkRows s e r (List.range r.rows) []
  match x.2 with
  | some (.miss v, _) => askWalk s die e.ctx.asid v
  | some (.back b, _) => askBacking s b
  | some (.fail cls sub level a, off) =>
    let s := dropWalkFaults s die e.ctx.asid [a.toNat / 4096]
    let q := newRequest s e addr r bar tile (some (cls, off)) (some (sub, level, a)) x.1.length
    addRequest (nextRecord s die core) q (r.dspc == 1) x.1
  | none => addRequest (nextRecord s die core) (newRequest s e addr r bar tile none none x.1.length) (r.dspc == 1) x.1

/-- The engine accepts the next record of a core's oldest kick (R187 to R189). -/
def acceptRecord (s : State) (e : BulkEnv) (die core addr : Nat) : State :=
  let r := readRecord (getBytes s (keyScr e.team.tid addr) 64)
  let simple (bar : Option Nat) (cls : Nat) (due : Option (Nat × Nat × Int)) : State :=
    addRequest (nextRecord s die core) (newRequest s e addr r bar none (some (cls, 0)) due 0) false []
  match bulkBar e r with
  | .error f => if recordIllegal r then simple none clsIllegal none else simple none f.cls (some (0, 0, f.addr))
  | .ok bar =>
    if recordIllegal r then simple bar clsIllegal none
    else
      match bulkTile e r with
      | none => simple bar clsTile none
      | some tile => acceptRows s e die core addr r bar tile

/-- A thread still runs: a pre-emption has not taken it, nor has it ended or parked. -/
def stillRuns (t : Thread) : Bool :=
  match t.status with
  | .header | .block | .exiting _ => true
  | _ => false

/-- A team's gang is being taken: its threads have stopped, and its kick entries are to be saved (R197). While one of them
runs on to its header the engine still accepts, so that a `kick` before a full queue issues. -/
def teamStopping (s : State) (t : Team) : Bool :=
  (getGang s t.gang).any fun k => k.status != .resident &&
    !(s.groups.any fun g => k.teams.contains g.tid && g.threads.any stillRuns)

/-- REQUEST_ACCEPT (R186 to R189): the next record of the core's oldest entry, restored ones in their order (R197). -/
def execRequestAccept (die core : Nat) (s : State) : Host.Outcome State Fault Refusal :=
  let s := refillKicks s die core
  match coreKicks (getDie s die) core with
  | [] => .next s
  | k :: _ =>
    match bulkEnv s k.tid with
    | none => .next s
    | some e =>
      if teamStopping s e.team then .next s
      else .next (acceptRecord s e die core (k.addr + 64 * k.next))

/-! ## Landing a row -/

/-- The element that piece `p` holds at `i`, as it lands: its code and its format flag. -/
def decodedElem (s : State) (q : Request) (p : Piece) (i : Nat) : Nat × Word :=
  let u := unitBase (p.src + i)
  let rd (j : Nat) : Nat := (memGet s.mem (u + j)).toNat
  let j := p.src + i - u
  if pageIsBp p.fmt then
    let n := pageBpN p.fmt
    (zextI (bpElem n (if q.pln == 0 then n else q.pln) (!q.rz) rd j) (8 * dfmtBytes q.dfmt), 0)
  else
    let v := pageFloat p.fmt p.geom rd j
    let t : FTy := match q.dfmt with | 1 => .f32 | 2 => .f16 | _ => .bf16
    ((fRound t .rn false v.1).code, v.2)

/-- A sector that the decoding of element i reads is poisoned. -/
def elemBad (s : State) (p : Piece) (i : Nat) : Bool :=
  let u := unitBase (p.src + i)
  (pageTouches p.fmt p.geom (p.src + i - u)).any fun r => poisoned s (u + r.1) r.2

/-- How many bytes or elements of a piece land before a poisoned sector. -/
def cleanUnits (s : State) (q : Request) (p : Piece) : Nat :=
  if q.sealing != 0 then p.n
  else ((List.range p.n).find? fun i => if q.dfmt == 0 then srcBad s p.src i else elemBad s p i).getD p.n

/-- Land the first `m` bytes or elements of a piece: the state and whether a format flag was raised. -/
def landUnits (s0 s : State) (asid : Nat) (q : Request) (p : Piece) (m : Nat) : State × Bool :=
  if q.sealing == 1 then (landBytes s asid p.dst m (cipherByte s0 p.src) (srcBad s0 p.src), false)
  else if q.sealing == 2 then (landCipher s p.dst m (srcByte s0 p.src) (srcBad s0 p.src), false)
  else if q.dfmt == 0 then (landBytes s asid p.dst m (srcByte s0 p.src) fun _ => false, false)
  else
    let w := dfmtBytes q.dfmt
    let es := (List.range m).map (decodedElem s0 q p)
    (landBytes s asid p.dst (m * w) (fun i => BitVec.ofNat 8 ((es.getD (i / w) (0, 0)).1 / 256 ^ (i % w))) fun _ => false,
      es.any fun x => x.2 &&& flFormat != 0)

/-- The result of landing a row: the state, bytes landed, a format flag, and the address of a poisoned sector. -/
structure RowAcc where
  s    : State
  n    : Nat
  flag : Bool
  bad  : Option Nat

/-- Land the pieces of a row up to a poisoned sector. The line within which a stopped request ends becomes full after a plan
failure and stays empty after a poisoned sector: the model's choice (log 112). -/
def landRow (s0 : State) (asid : Nat) (q : Request) (scr : Bool) : List Piece → RowAcc → RowAcc
  | [], a => a
  | p :: rest, a =>
    let w := dfmtBytes q.dfmt
    let m := cleanUnits s0 q p
    let r := landUnits s0 a.s asid q p m
    let s := if scr then fillLines r.1 (landedLines p (m * w) (m == p.n && rest.isEmpty)) else r.1
    let a := { a with s := s, n := a.n + m * w, flag := a.flag || r.2 }
    if m == p.n then landRow s0 asid q scr rest a else { a with bad := some (p.va + m) }

/-- Update a request. -/
def modReq (s : State) (id : Nat) (f : Request → Request) : State := { s with requests := modBy (·.id == id) f s.requests }

/-- Bytes that a piece of a request reads. -/
def pieceReads (q : Request) (p : Piece) : List (Nat × Nat) :=
  if q.dfmt == 0 then [(p.src, p.n)]
  else (List.range p.n).flatMap fun i =>
    let u := unitBase (p.src + i)
    (pageTouches p.fmt p.geom (p.src + i - u)).map fun r => (u + r.1, r.2)

/-- A row reads its source and lands: both count as accesses (R304), and the read meets what errors stand there (R382). -/
def touchRow (s : State) (q : Request) (ps : List Piece) : State :=
  ps.foldl (fun s p => meetUpsets (touchFrame (touchFrame s q.die p.src) q.die p.dst) (pieceReads q p)) s

/-- The landing of a row of a request: a poisoned sector ends the request there (R189); the last row counts only with
the status word. -/
def landReqRow (s0 : State) (x : Transfer) (q : Request) : State :=
  let asid := teamAsid s0 x.tid
  let s := touchRow s0 q x.pieces
  let r := landRow s asid q x.scr x.pieces ⟨s, 0, false, none⟩
  let s1 := { r.s with transfers := r.s.transfers.filter (·.id != x.id) }
  match r.bad with
  | some va =>
    modReq { s1 with transfers := s1.transfers.filter (·.req != some q.id) } q.id fun q =>
      { q with fail := some (clsPoison, x.row + r.n), due := some (0, 0, va), rows := 0, fmtFlag := q.fmtFlag || r.flag }
  | none =>
    let last := q.rows ≤ 1
    let s2 := modReq s1 q.id fun q =>
      { q with rows := q.rows - 1, fmtFlag := q.fmtFlag || r.flag, counted := if last then q.counted else q.counted + x.bytes }
    if last then s2 else countBytes s2 x.tid x.bytes q.orphan q.bar

/-- TRANSFER_LANDING (R179, R183, R184, R188): a per-lane transfer, or the next row of a request in its order. -/
def execTransferLanding (x : Nat) (s : State) : Host.Outcome State Fault Refusal :=
  match s.transfers.find? (·.id == x) with
  | none => .next s
  | some t =>
    match t.req with
    | none => .next (landTransfer s t)
    | some id =>
      match s.requests.find? (·.id == id) with
      | none => .next s
      | some q =>
        if (s.transfers.find? fun y => y.req == some id).any (·.id == x) then .next (landReqRow s t q) else .next s

/-- The status word of Table 9.4. -/
def statusWord (q : Request) : Nat :=
  let f := q.fail.getD (0, 0)
  1 + 2 * q.fail.isSome.toNat + 4 * q.fmtFlag.toNat + 2 ^ 8 * f.1 + 2 ^ 32 * (f.2 % 2 ^ 32)

/-- REQUEST_STATUS_WRITE (R189, R191): the record of a failure, the status word, then the tile's state and the rest of the count. -/
def execRequestStatusWrite (r : Nat) (s : State) : Host.Outcome State Fault Refusal :=
  match s.requests.find? fun q => q.id == r && q.rows == 0 with
  | none => .next s
  | some q =>
    let s := bulkRecord s q
    let s := bankWrite s (teamAsid s q.tid) (keyScr q.tid (q.addr + 56)) 8 (statusWord q)
    let s := match q.tile with
      | none => s
      | some (n, fill) => modTile s q.tid n fun t => { t with state := if fill then 2 else 0 }
    .next (countBytes { s with requests := s.requests.filter (·.id != r) } q.tid (q.total - q.counted) q.orphan q.bar)

end Sys2Proof.Machine
end

