-- ==== Sys2Proof/Machine/Matrix.lean ====
section
/-!
DEFINITION. The matrix sequencer (R198 to R219): fetching a stream word, the commands, their faults and their split
granules.
-/

namespace Sys2Proof.Machine

/-! ## Commands -/

/-- What a command does. -/
inductive SeqStep where
  /-- its effect is in the state; the stream goes on after it -/
  | done (s : State)
  /-- its effect, with the stream's position, is in the state; it is not complete -/
  | part (s : State)
  /-- it completes and the stream goes on at an address -/
  | jump (s : State) (pos : Nat)
  | fault (c : SeqCause) (addr : Nat)
  /-- it cannot begin yet -/
  | wait
  /-- its reads of byte ranges first meet the errors that stand there (R382) -/
  | meet (rs : List (Nat × Nat))

/-- A check of a command: it stops with a step, or goes on. -/
abbrev SeqM (α : Type) := Except SeqStep α

/-- A condition under which a command faults. -/
def faultIf (b : Bool) (c : SeqCause) (addr : Nat := 0) : SeqM Unit := if b then .error (.fault c addr) else .ok ()

/-- The step that a command's checks or its effect give. -/
def seqRun (x : SeqM SeqStep) : SeqStep := match x with | .ok y => y | .error y => y

/-- Update the sequencer of a team. -/
def modSeq (s : State) (tid : Nat) (f : Sequencer → Sequencer) : State := modTeam s tid fun t => { t with seq := f t.seq }

/-- The row of a cause in Table 10.9. -/
def seqRow : SeqCause → Nat
  | .encoding => 1 | .fetch => 2 | .tileKind => 3 | .format => 4 | .descriptor => 5 | .scratchBound => 6
  | .arithmetic => 7 | .table => 8 | .tileState => 9 | .loop => 10 | .poison => 11

/-- A sequencer fault: the stream stops at the command, and its record is made (R217, R342). -/
def seqFault (s : State) (e : BulkEnv) (c : SeqCause) (addr sub level : Nat) : State :=
  let s := modSeq s e.team.tid fun q => { q with status := .faulted c false }
  engineRecord s e.ctx.asid e.team.die e.team.index (seqClass c) sub level addr e.team.seq.pos (seqRow c) 1 true
    (some e.team.tid)

/-- A command has completed (event 2 of Table 11.6). -/
def seqDone (s : State) (e : BulkEnv) (pos : Nat) : State :=
  countEvent (modSeq s e.team.tid fun q => { q with pos := pos, split := none, words := none }) e.ctx.asid 2 1

/-- The effect of a step. -/
def applySeq (s : State) (e : BulkEnv) (next : Nat) : SeqStep → State
  | .done s => seqDone s e next
  | .part s => s
  | .jump s pos => seqDone s e pos
  | .fault c addr => seqFault s e c addr 0 0
  | .wait => s
  | .meet rs => meetUpsets s rs

/-- A command where its stream stands. -/
def seqOp (s : State) (f : BulkEnv → Nat → State → SeqStep) : Host.Outcome State Fault Refusal :=
  match s.seqCur with
  | none => .next s
  | some (tid, next) =>
    match bulkEnv s tid with
    | none => .next s
    | some e => .next (applySeq s e next (f e next s))

/-! ## Scratch as the sequencer reads and writes it (R200) -/

/-- Bytes of a team's scratch. -/
def scrBytes (e : BulkEnv) : Nat := e.grid.desc.scratch * 128

/-- A number in scratch. -/
def scrRead (s : State) (e : BulkEnv) (a n : Nat) : Nat := getBytes s (keyScr e.team.tid a) n

/-- Ranges lie within scratch. -/
def needRoom (e : BulkEnv) (c : SeqCause) (rs : List (Nat × Nat)) : SeqM Unit :=
  match rs.find? fun r => scrBytes e < r.1 + r.2 with
  | some r => .error (.fault c r.1)
  | none => .ok ()

/-- Reads wait on empty lines, and meet the errors that stand there. -/
def waitData (s : State) (e : BulkEnv) (rs : List (Nat × Nat)) : SeqM Unit :=
  let ks := rs.map fun r => (keyScr e.team.tid r.1, r.2)
  if ks.any fun r => (lineEmpty s r.1 r.2).isSome then .error .wait
  else if s.upsets.any (upsetIn ks) then .error (.meet ks)
  else .ok ()

/-- Reads of a command that has changed nothing yet: a poisoned sector faults. -/
def needData (s : State) (e : BulkEnv) (rs : List (Nat × Nat)) : SeqM Unit :=
  match waitData s e rs with
  | .error x => .error x
  | .ok _ =>
    match rs.find? fun r => poisoned s (keyScr e.team.tid r.1) r.2 with
    | some r => .error (.fault .poison r.1)
    | none => .ok ()

/-- A command that names a tile: its ranges lie in the tile's lines, and it waits until the tile is ready (R191, R212). -/
def needTile (e : BulkEnv) (tv : Bool) (tile : Nat) (rs : List (Nat × Nat)) : SeqM Unit :=
  if !tv then .ok ()
  else
    match teamTile e.team tile with
    | none => .error (.fault .tileState 0)
    | some t =>
      if rs.all fun r => t.base ≤ r.1 && r.1 + r.2 ≤ t.base + t.lines * 128 then
        if t.state == 2 then .ok () else .error .wait
      else .error (.fault .tileState ((rs.head?.map (·.1)).getD 0))

/-- Write a number to scratch; the full/empty bits stay. -/
def scrWrite (s : State) (e : BulkEnv) (a n v : Nat) : State :=
  landBytes s e.ctx.asid (keyScr e.team.tid a) n (fun i => BitVec.ofNat 8 (v / 256 ^ i)) fun _ => false

/-- The index of the innermost loop when IX is set (R204). -/
def loopIx (e : BulkEnv) (ix : Bool) : SeqM Nat :=
  if !ix then .ok 0
  else
    match e.team.seq.loops with
    | [] => .error (.fault .loop 0)
    | l :: _ => .ok l.index

/-- Bytes of an element (Table 10.3). -/
def ecBytes : ECode → Nat
  | .f32 | .i32 => 4
  | .f16 | .bf16 => 2
  | .n64 => 8
  | _ => 1

/-- n of a BP code, or 0. -/
def ecPlanes : ECode → Nat
  | .bp2 => 2 | .bp3 => 3 | .bp4 => 4 | .bp5 => 5 | .bp6 => 6 | .bp7 => 7 | .bp8 => 8 | _ => 0

/-- The float type of a code. -/
def ecFloat : ECode → Option FTy
  | .f32 => some .f32 | .e4m3 => some .e4m3 | .e5m2 => some .e5m2 | .e2m1x => some .e2m1x | .f16 => some .f16
  | .bf16 => some .bf16 | _ => none

/-- The element code of a descriptor's AF, 0x1 to 0x6 or 0x8. -/
def afCode : Nat → Option ECode
  | 1 => some .e4m3 | 2 => some .e5m2 | 3 => some .e2m1x | 4 => some .f16 | 5 => some .bf16 | 6 => some .i8
  | 8 => some .n64 | _ => none

/-! ## Control (R198, R204, R216, R219) -/

/-- `mnop` (R216). -/
def execMnop (s : State) : Host.Outcome State Fault Refusal := seqOp s fun _ _ s => .done s

/-- Every group of a team has arrived at phase k of mbN, or has retired (R185). -/
def mbArrived (s : State) (tid n k : Nat) : Bool :=
  s.groups.all fun g => g.tid != tid || g.retired || k < tget 0 g.mbArr n

/-- `mbwait` (R185, R216). -/
def execMbwait (n : BitVec 4) (s : State) : Host.Outcome State Fault Refusal :=
  seqOp s fun e _ s =>
    let k := tget 0 e.team.seq.mbTook n.toNat
    if mbArrived s e.team.tid n.toNat k then
      .done (modSeq s e.team.tid fun q => { q with mbTook := tput 0 q.mbTook n.toNat (k + 1) })
    else .wait

/-- `mbsig` (R185, R216). -/
def execMbsig (n : BitVec 4) (s : State) : Host.Outcome State Fault Refusal :=
  seqOp s fun e _ s =>
    .done (modSeq s e.team.tid fun q => { q with mbSig := tput 0 q.mbSig n.toNat (tget 0 q.mbSig n.toNat + 1) })

/-- `mloop` (R204). -/
def execMloop (count : BitVec 16) (s : State) : Host.Outcome State Fault Refusal :=
  seqOp s fun e next s =>
    if count == 0 || 4 ≤ e.team.seq.loops.length then .fault .loop 0
    else .done (modSeq s e.team.tid fun q => { q with loops := ⟨next, count.toNat, 0⟩ :: q.loops })

/-- `mend` (R198, R204). -/
def execMend (s : State) : Host.Outcome State Fault Refusal :=
  seqOp s fun e _ s =>
    match e.team.seq.loops with
    | [] => .done (modSeq s e.team.tid fun q => { q with status := .ended })
    | l :: rest =>
      if 1 < l.count then
        .jump (modSeq s e.team.tid fun q => { q with loops := ⟨l.body, l.count - 1, l.index + 1⟩ :: rest }) l.body
      else .done (modSeq s e.team.tid fun q => { q with loops := rest })

/-- `pmark` (R219). -/
def execPmark (tmask : BitVec 16) (bmask : BitVec 4) (s : State) : Host.Outcome State Fault Refusal :=
  seqOp s fun e _ s => .done (modSeq s e.team.tid fun q => { q with mark := some (tmask, bmask) })

/-- `mfence` (R200): earlier commands have completed and their writes are performed. -/
def execMfence (s : State) : Host.Outcome State Fault Refusal := seqOp s fun _ _ s => .done s

/-- QT[j]. -/
def seqQ (e : BulkEnv) (j : Nat) : Nat := tget 0 e.team.seq.qt j

/-- `msetq` (R211). -/
def execMsetq (c0 : BitVec 6) (cn : BitVec 7) (q : DWord) (s : State) : Host.Outcome State Fault Refusal :=
  seqOp s fun e _ s =>
    if !modulusOk q.toNat then .fault .arithmetic 0
    else .done (modSeq s e.team.tid fun x =>
      { x with qt := (List.range cn.toNat).foldl (fun t i => tput 0 t (c0.toNat + i) q.toNat) x.qt })

/-- `mfmt` (R212). -/
def execMfmt (rm : RMode) (sat : Bool) (s : State) : Host.Outcome State Fault Refusal :=
  seqOp s fun e _ s => .done (modSeq s e.team.tid fun q => { q with fmRm := rm, fmSat := sat })

/-- `mldu` (R205). -/
def execMldu (ud : BitVec 3) (addr : BitVec 16) (s : State) : Host.Outcome State Fault Refusal :=
  seqOp s fun e _ s =>
    let a := addr.toNat * 16
    if a % 32 != 0 then .fault .scratchBound a
    else .done (modSeq s e.team.tid fun q => { q with ud := tput (32 * ud.toNat) q.ud ud.toNat a })

/-- The address that udN is bound to (Table 10.1). -/
def seqUd (e : BulkEnv) (n : Nat) : Nat := tget (32 * n) e.team.seq.ud n

/-! ## Tiles (R212, R213) -/

/-- An undefined tile. -/
def noTile : Tile := ⟨none, []⟩
/-- Tile mt. -/
def seqTile (e : BulkEnv) (mt : BitVec 4) : Tile := tget noTile e.team.seq.tiles mt.toNat
/-- Write tile mt. -/
def putTile (s : State) (e : BulkEnv) (mt : BitVec 4) (t : Tile) : State :=
  modSeq s e.team.tid fun q => { q with tiles := tput noTile q.tiles mt.toNat t }

/-- A defined tile: its kind and elements. -/
def needKind (e : BulkEnv) (mt : BitVec 4) : SeqM (MKind × List Nat) :=
  match (seqTile e mt).kind with
  | none => .error (.fault .tileKind 0)
  | some k => .ok (k, (seqTile e mt).el)

/-- A tile of one kind. -/
def needThis (e : BulkEnv) (mt : BitVec 4) (k : MKind) : SeqM (List Nat) :=
  match needKind e mt with
  | .error x => .error x
  | .ok x => if x.1 == k then .ok x.2 else .error (.fault .tileKind 0)

/-- Bytes of an element of a kind. -/
def kindBytes : MKind → Nat
  | .res => 8
  | _ => 4

/-- Element (i, j) of a tile. -/
def tileAt (el : List Nat) (i j : Nat) : Nat := el.getD (64 * i + j) 0

/-- A tile from a function of row and column. -/
def tileBy (f : Nat → Nat → Nat) : List Nat := (List.range 64).flatMap fun i => (List.range 64).map (f i)

/-- `mzero` (R212). -/
def execMzero (kind : MKind) (mt : BitVec 4) (s : State) : Host.Outcome State Fault Refusal :=
  seqOp s fun e _ s => .done (putTile s e mt ⟨some kind, List.replicate 4096 0⟩)

/-- Ranges of 64 rows. -/
def rowRanges (a pitch n : Nat) : List (Nat × Nat) := (List.range 64).map fun i => (a + i * pitch, n)

/-- Elements of a row of bytes as one number. -/
def splitRow (n x : Nat) : List Nat := (List.range 64).map fun j => x / 2 ^ (8 * n * j) % 2 ^ (8 * n)

/-- A row of elements as one number. -/
def joinRow (n : Nat) : List Nat → Nat
  | [] => 0
  | x :: t => x % 2 ^ (8 * n) + 2 ^ (8 * n) * joinRow n t

/-- `mlda` (R212). -/
def mldaStep (e : BulkEnv) (s : State) (kind : MKind) (mt : BitVec 4) (x : MRange) : SeqM SeqStep := do
  let n := kindBytes kind
  let rs := rowRanges (x.addr.toNat * 16) (x.pitch.toNat * 16) (64 * n)
  needRoom e .scratchBound rs
  needTile e x.tv x.tile.toNat rs
  needData s e rs
  return .done (putTile s e mt ⟨some kind, rs.flatMap fun r => splitRow n (scrRead s e r.1 r.2)⟩)

/-- `mlda` (R212). -/
def execMlda (kind : MKind) (mt : BitVec 4) (x : MRange) (s : State) : Host.Outcome State Fault Refusal :=
  seqOp s fun e _ s => seqRun (mldaStep e s kind mt x)

/-- The pairs of `mst` (R212). -/
def mstPair (k : MKind) (ec : ECode) : Bool :=
  match k with
  | .f32 => ec == .f32 || ec == .e4m3 || ec == .e5m2 || ec == .f16 || ec == .bf16
  | .i32 => ec == .i32 || ec == .i8
  | .res => ec == .n64

/-- An element as `mst` converts it. -/
def mstElem (q : Sequencer) (k : MKind) (ec : ECode) (v : Nat) : Nat :=
  match k, ec with
  | .i32, .i8 => if q.fmSat then zextI (clampI .i8 (sextN v 32)) 8 else v % 256
  | .f32, .f32 => v
  | .f32, _ => (fRound ((ecFloat ec).getD .f32) q.fmRm q.fmSat (fDecode .f32 v)).code
  | _, _ => v

/-- `mst` (R212). -/
def mstStep (e : BulkEnv) (s : State) (ec : ECode) (mt : BitVec 4) (x : MRange) : SeqM SeqStep := do
  let t ← needKind e mt
  faultIf (!mstPair t.1 ec) .format
  let n := ecBytes ec
  let rs := rowRanges (x.addr.toNat * 16) (x.pitch.toNat * 16) (64 * n)
  needRoom e .scratchBound rs
  needTile e x.tv x.tile.toNat rs
  let row (i : Nat) : Nat := joinRow n (((t.2.drop (64 * i)).take 64).map (mstElem e.team.seq t.1 ec))
  return .done (rs.zipIdx.foldl (fun s r => scrWrite s e r.1.1 r.1.2 (row r.2)) s)

/-- `mst` (R212). -/
def execMst (ec : ECode) (mt : BitVec 4) (x : MRange) (s : State) : Host.Outcome State Fault Refusal :=
  seqOp s fun e _ s => seqRun (mstStep e s ec mt x)

/-- A command from one tile to another. -/
def tileMap (e : BulkEnv) (s : State) (mt src : BitVec 4) (f : List Nat → List Nat) : SeqM SeqStep := do
  let t ← needKind e src
  return .done (putTile s e mt ⟨some t.1, f t.2⟩)

/-- `mcopy` (R212). -/
def execMcopy (mt src : BitVec 4) (s : State) : Host.Outcome State Fault Refusal :=
  seqOp s fun e _ s => seqRun (tileMap e s mt src id)

/-- `mtrn` (R212). -/
def execMtrn (mt src : BitVec 4) (s : State) : Host.Outcome State Fault Refusal :=
  seqOp s fun e _ s => seqRun (tileMap e s mt src fun el => tileBy fun i j => tileAt el j i)

/-- An f32 element as an i32 one (R212). -/
def mcvtInt (rm : RMode) (v : Nat) : Nat := zextI (cvtToInt .i32 ⟨rm, false, true⟩ (fDecode .f32 v)).1 32
/-- An i32 element as an f32 one (R212). -/
def mcvtFloat (rm : RMode) (v : Nat) : Nat := (fRound .f32 rm false (fOfInt (sextN v 32))).code

/-- `mcvt` (R212). -/
def mcvtStep (e : BulkEnv) (s : State) (toI32 : Bool) (mt : BitVec 4) : SeqM SeqStep := do
  let t ← needKind e mt
  let rm := e.team.seq.fmRm
  faultIf (t.1 == .res || t.1 == (if toI32 then .i32 else .f32)) .format
  return .done (putTile s e mt (if toI32 then ⟨some .i32, t.2.map (mcvtInt rm)⟩ else ⟨some .f32, t.2.map (mcvtFloat rm)⟩))

/-- `mcvt` (R212). -/
def execMcvt (toI32 : Bool) (mt : BitVec 4) (s : State) : Host.Outcome State Fault Refusal :=
  seqOp s fun e _ s => seqRun (mcvtStep e s toI32 mt)

/-! ## Element-wise commands (R213) -/

/-- Every element, its operand and its column's modulus pass the checks of R211. -/
def resOk (e : BulkEnv) (el other : List Nat) : Bool :=
  (List.range 64).all fun j => modulusOk (seqQ e j) &&
    (List.range 64).all fun i => tileAt el i j < seqQ e j && tileAt other i j < seqQ e j

/-- One element of `mtadd`, `mhad`, `mscl` or `mbias`. -/
def ewElem (e : BulkEnv) (k : MKind) (mul : Bool) (j x y : Nat) : Nat :=
  match k with
  | .f32 => if mul then (fmulCode .f32 fPlain x y).code else (faddCode .f32 fPlain x y).code
  | .i32 => (if mul then x * y else x + y) % 2 ^ 32
  | .res => (if mul then x * y else x + y) % seqQ e j

/-- An element-wise command with the elements of its other operand. -/
def ewStep (e : BulkEnv) (s : State) (mt : BitVec 4) (mul : Bool) (k : MKind) (el other : List Nat) : SeqM SeqStep := do
  faultIf (k == .res && !resOk e el other) .arithmetic
  return .done (putTile s e mt ⟨some k, tileBy fun i j => ewElem e k mul j (tileAt el i j) (tileAt other i j)⟩)

/-- `mtadd` and `mhad`. -/
def ewTiles (e : BulkEnv) (s : State) (mt src : BitVec 4) (mul : Bool) : SeqM SeqStep := do
  let t ← needKind e mt
  let x ← needThis e src t.1
  ewStep e s mt mul t.1 t.2 x

/-- `mtadd` (R213). -/
def execMtadd (mt src : BitVec 4) (s : State) : Host.Outcome State Fault Refusal :=
  seqOp s fun e _ s => seqRun (ewTiles e s mt src false)

/-- `mhad` (R213). -/
def execMhad (mt src : BitVec 4) (s : State) : Host.Outcome State Fault Refusal :=
  seqOp s fun e _ s => seqRun (ewTiles e s mt src true)

/-- `mscl` (R202, R213). -/
def msclStep (e : BulkEnv) (s : State) (mt : BitVec 4) (v : DWord) : SeqM SeqStep := do
  let t ← needKind e mt
  ewStep e s mt true t.1 t.2 (List.replicate 4096 (if t.1 == .res then v.toNat else v.toNat % 2 ^ 32))

/-- `mscl` (R213). -/
def execMscl (mt : BitVec 4) (v : DWord) (s : State) : Host.Outcome State Fault Refusal :=
  seqOp s fun e _ s => seqRun (msclStep e s mt v)

/-- `mbias` (R213). Poison of its addends comes before what they hold (log 43). -/
def mbiasStep (e : BulkEnv) (s : State) (mt : BitVec 4) (addr : BitVec 16) : SeqM SeqStep := do
  let t ← needKind e mt
  let n := kindBytes t.1
  let rs := [(addr.toNat * 16, 64 * n)]
  needRoom e .scratchBound rs
  needData s e rs
  let v := splitRow n (scrRead s e (addr.toNat * 16) (64 * n))
  ewStep e s mt false t.1 t.2 ((List.range 64).flatMap fun _ => v)

/-- `mbias` (R213). -/
def execMbias (mt : BitVec 4) (addr : BitVec 16) (s : State) : Host.Outcome State Fault Refusal :=
  seqOp s fun e _ s => seqRun (mbiasStep e s mt addr)

/-- One element of `mclamp`. -/
def clampElem (lo hi v : Nat) : Nat :=
  if fIsNan (fDecode .f32 v) then fNanCode .f32
  else (fminmaxCode .f32 false true lo (fminmaxCode .f32 false false hi v).code).code

/-- `mclamp` (R213). -/
def mclampStep (e : BulkEnv) (s : State) (mt : BitVec 4) (lo hi : Word) : SeqM SeqStep := do
  let el ← needThis e mt .f32
  let r := relF (fDecode .f32 lo.toNat) (fDecode .f32 hi.toNat)
  faultIf (r == .gt || r == .unordered) .format
  return .done (putTile s e mt ⟨some .f32, el.map (clampElem lo.toNat hi.toNat)⟩)

/-- `mclamp` (R213). -/
def execMclamp (mt : BitVec 4) (lo hi : Word) (s : State) : Host.Outcome State Fault Refusal :=
  seqOp s fun e _ s => seqRun (mclampStep e s mt lo hi)

/-- The greatest magnitude of a tile. -/
def tileAmax (el : List Nat) : Nat :=
  if el.any fun v => fIsNan (fDecode .f32 v) then fNanCode .f32
  else (el.map (· % 2 ^ 31)).foldl max 0

/-- `mamax` (R213). -/
def mamaxStep (e : BulkEnv) (s : State) (mt : BitVec 4) (addr : BitVec 16) : SeqM SeqStep := do
  let el ← needThis e mt .f32
  needRoom e .scratchBound [(addr.toNat * 16, 4)]
  return .done (scrWrite s e (addr.toNat * 16) 4 (tileAmax el))

/-- `mamax` (R213). -/
def execMamax (mt : BitVec 4) (addr : BitVec 16) (s : State) : Host.Outcome State Fault Refusal :=
  seqOp s fun e _ s => seqRun (mamaxStep e s mt addr)

/-! ## B buffers (R207) -/

/-- Kb of Table 10.5. -/
def bufDepth : ECode → Nat
  | .f16 | .bf16 => 64
  | .n64 => 16
  | .e4m3 | .e5m2 | .i8 | .e2m1x => 128
  | _ => 1024

/-- An unloaded buffer. -/
def noBuf : BBuf := ⟨none, 0, []⟩

/-- A loaded buffer: its code. -/
def needBuf (e : BulkEnv) (b : BitVec 2) : SeqM (ECode × BBuf) :=
  let x := tget noBuf e.team.seq.bufs b.toNat
  match x.code with
  | none => .error (.fault .tileKind 0)
  | some c => .ok (c, x)

/-- `mldb` (R207). -/
def mldbStep (e : BulkEnv) (s : State) (x : MldbOp) : SeqM SeqStep := do
  let i ← loopIx e x.ix
  let n := ecPlanes x.ec
  faultIf (x.ec == .f32 || x.ec == .i32 || (if n == 0 then x.pl != 0 else n ≤ x.pl.toNat)) .format
  let base := x.addr.toNat * 16 + i * 128 * max n 1 + 128 * x.pl.toNat
  let rs := rowRanges base (x.pitch.toNat * 16) 128
  needRoom e .scratchBound rs
  needTile e x.tv x.tile.toNat rs
  needData s e rs
  let col (r : Nat × Nat) : List Byte := (List.range 128).map fun k => memGet s.mem (keyScr e.team.tid (r.1 + k))
  return .done (modSeq s e.team.tid fun q =>
    { q with bufs := tput noBuf q.bufs x.bb.toNat ⟨some x.ec, x.pl.toNat, rs.map col⟩ })

/-- `mldb` (R207). -/
def execMldb (x : MldbOp) (s : State) : Host.Outcome State Fault Refusal :=
  seqOp s fun e _ s => seqRun (mldbStep e s x)

/-- Byte i of a column. -/
def colByte (c : List Byte) (i : Nat) : Nat := (c.getD i 0).toNat
/-- `n` bytes of a column. -/
def colNum (c : List Byte) (i : Nat) : Nat → Nat
  | 0 => 0
  | n + 1 => colByte c i + 256 * colNum c (i + 1) n

/-- Element k of a column as a float. -/
def colFloat (ec : ECode) (c : List Byte) (k : Nat) : FVal :=
  match ec with
  | .e2m1x => (blockElem 0 (colByte c) (k / 16) (k % 16)).1
  | _ => fDecode ((ecFloat ec).getD .f32) (colNum c (ecBytes ec * k) (ecBytes ec))

/-- Element k of a column as an integer. -/
def colInt (ec : ECode) (c : List Byte) (k : Nat) : Int :=
  match ec with
  | .n64 => colNum c (8 * k) 8
  | _ => sextN (colByte c k) 8

/-- The digit of element k of a plane (R210). -/
def planeDigit (n p : Nat) (mid : Bool) (c : List Byte) (k : Nat) : Int :=
  let w : Int := if p == 0 then -(2 ^ (n - 1) : Nat) else (2 ^ (n - 1 - p) : Nat)
  (if (colByte c (k / 8)).testBit (k % 8) then w else 0) + if mid then (2 ^ (n - 2 - p) : Nat) else 0

/-! ## Operand A (R205, R206) -/

/-- The descriptor of Table 10.4. -/
structure ADesc where
  base : Nat
  af   : ECode
  c    : Nat
  h    : Nat
  w    : Nat
  oh   : Nat
  ow   : Nat
  kh   : Nat
  kw   : Nat
  sy   : Nat
  sx   : Nat
  dy   : Nat
  dx   : Nat
  py   : Nat
  px   : Nat
  pp   : Nat
  deriving DecidableEq, Repr

/-- The alignment of BASE and PP. -/
def afAlign (c : ECode) : Nat := if c == .e2m1x then 16 else ecBytes c

/-- A descriptor word, if its fields are within Table 10.4. -/
def readDesc (x : Nat) : Option ADesc :=
  (afCode (bitsN x 35 32)).bind fun af =>
    let d : ADesc :=
      { base := bitsN x 31 0, af := af, c := bitsN x 55 40, h := bitsN x 71 56, w := bitsN x 87 72, oh := bitsN x 103 88,
        ow := bitsN x 119 104, kh := bitsN x 127 120, kw := bitsN x 135 128, sy := bitsN x 143 136,
        sx := bitsN x 151 144, dy := bitsN x 159 152, dx := bitsN x 167 160, py := bitsN x 175 168,
        px := bitsN x 183 176, pp := bitsN x 215 184 }
    let full := [d.c, d.h, d.w, d.oh, d.ow, d.kh, d.kw, d.sy, d.sx, d.dy, d.dx].all (· != 0)
    if full && bitsN x 255 216 == 0 && bitsN x 39 36 == 0 && d.base % afAlign af == 0 && d.pp % afAlign af == 0 &&
        d.c * ecBytes af ≤ d.pp && (af != .e2m1x || d.c % 16 == 0) then some d
    else none

/-- K of a descriptor. -/
def descK (d : ADesc) : Nat := d.kh * d.kw * d.c

/-- The scratch bytes of element (p, k), or none where it is 0 (R206). -/
def aPlace (d : ADesc) (p k : Nat) : Option (Nat × Nat) :=
  if d.oh * d.ow ≤ p || descK d ≤ k then none
  else
    let c := k % d.c
    let y : Int := (p / d.ow * d.sy + k / d.c / d.kw * d.dy : Nat) - (d.py : Int)
    let x : Int := (p % d.ow * d.sx + k / d.c % d.kw * d.dx : Nat) - (d.px : Int)
    if y < 0 || (d.h : Int) ≤ y || x < 0 || (d.w : Int) ≤ x then none
    else
      let at_ := d.base + (y.toNat * d.w + x.toNat) * d.pp
      if d.af == .e2m1x then some (at_ + 16 * (c / 16), 16) else some (at_ + c * ecBytes d.af, ecBytes d.af)

/-- Element (p, k) as a float. -/
def aFloat (s : State) (e : BulkEnv) (d : ADesc) (p k : Nat) : FVal :=
  match aPlace d p k with
  | none => .fin false 0 0
  | some (a, n) =>
    if d.af == .e2m1x then (blockElem 0 (fun i => (memGet s.mem (keyScr e.team.tid (a + i))).toNat) 0 (k % d.c % 16)).1
    else fDecode ((ecFloat d.af).getD .f32) (scrRead s e a n)

/-- Element (p, k) as an integer. -/
def aInt (s : State) (e : BulkEnv) (d : ADesc) (p k : Nat) : Int :=
  match aPlace d p k with
  | none => 0
  | some (a, n) => if d.af == .n64 then scrRead s e a 8 else sextN (scrRead s e a n) 8

/-- The scratch ranges of rows p0 to p0 + 63 and columns k0 to k0 + kb − 1. -/
def aRanges (d : ADesc) (p0 k0 kb : Nat) : List (Nat × Nat) :=
  (List.range 64).flatMap fun i => (List.range kb).filterMap fun k => aPlace d (p0 + i) (k0 + k)

/-- The descriptor that a command names, with the ranges it reads checked. -/
def needA (s : State) (e : BulkEnv) (x : MmaOp) (k0 kb : Nat) (ok : ADesc → Bool) : SeqM (Nat × ADesc) := do
  let a := seqUd e x.ud.toNat
  needRoom e .scratchBound [(a, 32)]
  needData s e [(a, 32)]
  let w := scrRead s e a 32
  match readDesc w with
  | none => .error (.fault .descriptor a)
  | some d =>
    faultIf (!ok d) .format
    needRoom e .descriptor (aRanges d x.p0.toNat k0 kb)
    needData s e (aRanges d x.p0.toNat k0 kb)
    return (w, d)

/-! ## The multiplying commands (R57, R58, R209 to R211, R218) -/

/-- A product rounded to FP32 (R57). -/
def mmaProduct (x y : FVal) : Nat := (fRound .f32 .rn false (fMul x y).1).code
/-- An addition rounded to FP32. -/
def mmaAdd (x y : Nat) : Nat := (faddCode .f32 fPlain x y).code

/-- One k-block folded into an accumulator (R57). -/
def foldBlock (acc : Nat) (p : Nat → Nat) : Nat :=
  mmaAdd acc (mmaAdd (mmaAdd (mmaAdd (p 0) (p 1)) (mmaAdd (p 2) (p 3))) (mmaAdd (mmaAdd (p 4) (p 5)) (mmaAdd (p 6) (p 7))))

/-- Blocks lo to lo + n − 1 of a command on an f32 element: `a` and `b` give the operands by k within the command; of
`K` elements that are left, the last block is filled with products +0, and there is no block after it. -/
def accFloat (K : Nat) (a b : Nat → FVal) (lo n acc : Nat) : Nat :=
  (List.range (min n ((K + 7) / 8 - lo))).foldl (fun acc g => foldBlock acc fun i =>
    let k := 8 * (lo + g) + i
    if K ≤ k then 0 else mmaProduct (a k) (b k)) acc

/-- The same on integers, exactly. -/
def accInt (a b : Nat → Int) (lo n : Nat) : Int :=
  ((List.range (8 * n)).map fun i => a (8 * lo + i) * b (8 * lo + i)).sum

/-- Blocks of a granule: GRAN g gives 2^(g−1), and 0 the whole command (R218). -/
def granBlocks (gran : BitVec 3) (total : Nat) : Nat := if gran == 0 then total else 2 ^ (gran.toNat - 1)

/-- One granule of a command of `total` units, of which `lo` are done: `f lo n` is its effect. -/
def granStep (e : BulkEnv) (gran : BitVec 3) (total lo desc : Nat) (s : State) (f : Nat → Nat → State) : SeqStep :=
  let n := min (granBlocks gran total) (total - lo)
  let s' := f lo n
  if total ≤ lo + n then .done s' else .part (modSeq s' e.team.tid fun q => { q with split := some (lo + n, desc) })

/-- Columns of operand A that the blocks of a granule from block `lo` read. -/
def granRanges (d : ADesc) (x : MmaOp) (k0 total lo : Nat) : List (Nat × Nat) :=
  aRanges d x.p0.toNat (k0 + 8 * lo) (8 * min (granBlocks x.gran total) (total - lo))

/-- A multiplying command: begun after its checks, which give its descriptor word, or gone on with at its boundary, where
the lines that its next granule reads are waited for again (R200). DESIGN CHOICE: no fault is left for a sector that became
poisoned after the command began (R199), and its bytes are read as they stand (log 89). -/
def mulStep (e : BulkEnv) (x : MmaOp) (k0 total : Nat) (s : State) (checks : SeqM (Nat × ADesc))
    (f : ADesc → Nat → Nat → State) : SeqM SeqStep :=
  match e.team.seq.split with
  | some (lo, w) =>
    match readDesc w with
    | some d =>
      match waitData s e (granRanges d x k0 total lo) with
      | .error y => .error y
      | .ok _ => .ok (granStep e x.gran total lo w s (f d))
    | none => .error (.fault .descriptor 0)
  | none =>
    match checks with
    | .error x => .error x
    | .ok (w, d) => .ok (granStep e x.gran total 0 w s (f d))

/-- The pairs of `mma` (R209). -/
def mmaPair (af bf : ECode) : Bool :=
  ((af == .e4m3 || af == .e5m2) && (bf == .e4m3 || bf == .e5m2)) ||
  (af == bf && (af == .e2m1x || af == .f16 || af == .bf16 || af == .i8))

/-- A tile row by row: `f i j v` from the element v at (i, j). -/
def tileRows (el : List Nat) (f : Nat → Nat → Nat → Nat) : List Nat :=
  el.zipIdx.map fun x => f (x.2 / 64) (x.2 % 64) x.1

/-- The accumulator after blocks lo to lo + n − 1 of a float command. -/
def mulFloat (s : State) (e : BulkEnv) (x : MmaOp) (d : ADesc) (k0 : Nat) (col : Nat → Nat → FVal) (lo n : Nat) : State :=
  putTile s e x.mt ⟨some .f32, tileRows (seqTile e x.mt).el fun i j v =>
    accFloat (descK d - k0) (fun k => aFloat s e d (x.p0.toNat + i) (k0 + k)) (col j) lo n v⟩

/-- The accumulator after blocks of an integer command. -/
def mulInt (s : State) (e : BulkEnv) (x : MmaOp) (d : ADesc) (k0 : Nat) (col : Nat → Nat → Int) (lo n : Nat) : State :=
  putTile s e x.mt ⟨some .i32, tileRows (seqTile e x.mt).el fun i j v =>
    zextI (v + accInt (fun k => aInt s e d (x.p0.toNat + i) (k0 + k)) (col j) lo n) 32⟩

/-- Column j of a buffer. -/
def bufCol (b : BBuf) (j : Nat) : List Byte := b.cols.getD j []

/-- `mma` (R209). The order in which its causes are looked for, and that of the other commands, is log 43's. -/
def mmaStep (e : BulkEnv) (s : State) (x : MmaOp) (af bf : ECode) : SeqM SeqStep := do
  let i ← loopIx e x.ix
  let b ← needBuf e x.bb
  let kb := bufDepth bf
  let k0 := x.k0.toNat + i * kb
  let checks : SeqM (Nat × ADesc) := do
    let _ ← needThis e x.mt (if af == .i8 then .i32 else .f32)
    faultIf (b.1 != bf || !mmaPair af bf) .format
    needA s e x k0 kb (·.af == af)
  mulStep e x k0 (kb / 8) s checks fun d lo n =>
    if af == .i8 then mulInt s e x d k0 (fun j k => colInt bf (bufCol b.2 j) k) lo n
    else mulFloat s e x d k0 (fun j k => colFloat bf (bufCol b.2 j) k) lo n

/-- `mma` (R209). -/
def execMma (x : MmaOp) (af bf : ECode) (s : State) : Host.Outcome State Fault Refusal :=
  seqOp s fun e _ s => seqRun (mmaStep e s x af bf)

/-- `mpma` (R210). -/
def mpmaStep (e : BulkEnv) (s : State) (x : MmaOp) (af : ECode) (mid : Bool) : SeqM SeqStep := do
  let i ← loopIx e x.ix
  let b ← needBuf e x.bb
  let n := ecPlanes b.1
  let k0 := x.k0.toNat + i * 1024
  let checks : SeqM (Nat × ADesc) := do
    let _ ← needThis e x.mt (if af == .i8 then .i32 else .f32)
    faultIf (n == 0 || !(af == .i8 || af == .e4m3 || af == .e5m2) || (mid && b.2.pl + 1 == n)) .format
    needA s e x k0 1024 (·.af == af)
  let digit (j k : Nat) : Int := planeDigit n b.2.pl mid (bufCol b.2 j) k
  mulStep e x k0 128 s checks fun d lo m =>
    if af == .i8 then mulInt s e x d k0 digit lo m
    else mulFloat s e x d k0 (fun j k => fOfInt (digit j k)) lo m

/-- `mpma` (R210). -/
def execMpma (x : MmaOp) (af : ECode) (mid : Bool) (s : State) : Host.Outcome State Fault Refusal :=
  seqOp s fun e _ s => seqRun (mpmaStep e s x af mid)

/-- The checks of `mmodma` on its data (R211). -/
def modmaOk (s : State) (e : BulkEnv) (x : MmaOp) (d : ADesc) (k0 : Nat) (el : List Nat) (b : BBuf) : Bool :=
  (List.range 64).all fun j =>
    let q := seqQ e j
    modulusOk q && ((List.range 16).all fun k => colInt .n64 (bufCol b j) k < (q : Int)) &&
    (List.range 64).all fun i => tileAt el i j < q &&
      (List.range 16).all fun k => aInt s e d (x.p0.toNat + i) (k0 + k) < (q : Int)

/-- `mmodma` (R211). -/
def mmodmaStep (e : BulkEnv) (s : State) (x : MmaOp) : SeqM SeqStep := do
  let i ← loopIx e x.ix
  let b ← needBuf e x.bb
  let k0 := x.k0.toNat + i * 16
  let checks : SeqM (Nat × ADesc) := do
    let el ← needThis e x.mt .res
    faultIf (b.1 != .n64) .format
    let w ← needA s e x k0 16 (·.af == .n64)
    faultIf (!modmaOk s e x w.2 k0 el b.2) .arithmetic
    return w
  mulStep e x k0 2 s checks fun d lo n =>
    putTile s e x.mt ⟨some .res, tileRows (seqTile e x.mt).el fun i j v =>
      modq (v + accInt (fun k => aInt s e d (x.p0.toNat + i) (k0 + k)) (fun k => colInt .n64 (bufCol b.2 j) k) lo n)
        (seqQ e j)⟩

/-- `mmodma` (R211). -/
def execMmodma (x : MmaOp) (s : State) : Host.Outcome State Fault Refusal :=
  seqOp s fun e _ s => seqRun (mmodmaStep e s x)

/-! ## Transforms (R214, R215) -/

/-- One stage of `mntt` with half-length `t`: element k from the data before the stage. -/
def nttStage (q t m : Nat) (w : Nat → Nat) (a : Nat → Nat) (k : Nat) : Nat :=
  let i := k / (2 * t)
  if k % (2 * t) < t then modq (a k + modq (a (k + t) * w (m + i)) q) q
  else modq (a (k - t) - modq (a k * w (m + i)) q) q

/-- One stage of `mintt`. -/
def inttStage (q t h : Nat) (w : Nat → Nat) (a : Nat → Nat) (k : Nat) : Nat :=
  let i := k / (2 * t)
  if k % (2 * t) < t then modq ((a k : Int) + a (k + t)) q else modq (((a (k - t) : Int) - a k) * w (h + i)) q

/-- Stages lo to lo + n − 1 of a transform of 2^j residues, on a list of them. -/
def nttStages (inverse : Bool) (q j : Nat) (w : Nat → Nat) (lo : Nat) : Nat → List Nat → List Nat
  | 0, xs => xs
  | n + 1, xs =>
    let a (k : Nat) : Nat := xs.getD k 0
    let ys := (List.range (2 ^ j)).map fun k =>
      if inverse then inttStage q (2 ^ lo) (2 ^ (j - 1 - lo)) w a k else nttStage q (2 ^ (j - 1 - lo)) (2 ^ lo) w a k
    nttStages inverse q j w (lo + 1) n ys

/-- Two ranges overlap. -/
def overlap (a n b m : Nat) : Bool := a < b + m && b < a + n

/-- The checks of R215. Poison of the table comes before what the table holds (log 43). -/
def nttChecks (e : BulkEnv) (s : State) (a t j : Nat) : SeqM Unit := do
  let N := 2 ^ j
  needRoom e .scratchBound [(a, 8 * N), (t, 32 + 16 * N)]
  faultIf (overlap a (8 * N) t (32 + 16 * N)) .table t
  needData s e [(a, 8 * N), (t, 32 + 16 * N)]
  let q := scrRead s e t 8
  faultIf (scrRead s e (t + 8) 8 != j || !modulusOk q) .table t
  faultIf (q ≤ scrRead s e (t + 16) 8 || (List.range (2 * N)).any fun i => q ≤ scrRead s e (t + 32 + 8 * i) 8) .arithmetic t
  faultIf ((List.range N).any fun k => q ≤ scrRead s e (a + 8 * k) 8) .arithmetic a

/-- Stages of a transform performed in scratch; the last of `mintt` multiplies by N⁻¹. -/
def nttEffect (e : BulkEnv) (s : State) (inverse : Bool) (a t j lo n : Nat) : State :=
  let N := 2 ^ j
  let q := scrRead s e t 8
  let w (i : Nat) : Nat := scrRead s e (t + 32 + 8 * (if inverse then N + i else i)) 8
  let xs := (List.range N).map fun k => scrRead s e (a + 8 * k) 8
  let ys := nttStages inverse q j w lo n xs
  let zs := if inverse && j ≤ lo + n then ys.map fun (y : Nat) => modq ((y * scrRead s e (t + 16) 8 : Nat) : Int) q else ys
  scrWrite s e a (8 * N) (joinRow 8 zs)

/-- Ranges that the stages of a granule from stage `lo` read: the data, the table's header with q and N⁻¹, and their
entries of the table. -/
def stageRanges (inverse : Bool) (x : NttOp) (lo : Nat) : List (Nat × Nat) :=
  let j := x.j.toNat
  let hi := lo + min (granBlocks x.gran j) (j - lo)
  let first := if inverse then 2 ^ j + 2 ^ (j - hi) else 2 ^ lo
  let last := if inverse then 2 ^ j + 2 ^ (j - lo) else 2 ^ hi
  [(x.addr.toNat * 16, 8 * 2 ^ j), (x.tab.toNat * 16, 24), (x.tab.toNat * 16 + 32 + 8 * first, 8 * (last - first))]

/-- A transform (R215, R218); at a boundary the lines that its next stages read are waited for again (R200). -/
def nttStep (e : BulkEnv) (s : State) (inverse : Bool) (x : NttOp) : SeqM SeqStep := do
  let a := x.addr.toNat * 16
  let t := x.tab.toNat * 16
  let j := x.j.toNat
  match e.team.seq.split with
  | some (lo, _) =>
    waitData s e (stageRanges inverse x lo)
    return granStep e x.gran j lo 0 s (nttEffect e s inverse a t j)
  | none =>
    nttChecks e s a t j
    return granStep e x.gran j 0 0 s (nttEffect e s inverse a t j)

/-- `mntt` (R215). -/
def execMntt (x : NttOp) (s : State) : Host.Outcome State Fault Refusal :=
  seqOp s fun e _ s => seqRun (nttStep e s false x)

/-- `mintt` (R215). -/
def execMintt (x : NttOp) (s : State) : Host.Outcome State Fault Refusal :=
  seqOp s fun e _ s => seqRun (nttStep e s true x)

/-- A command word with an unassigned MOP (R92, R217). -/
def execUnassignedMop (_mop : BitVec 6) (s : State) : Host.Outcome State Fault Refusal :=
  seqOp s fun _ _ _ => .fault .encoding 0

/-! ## Fetching a stream word (R198, R217) -/

/-- What the sequencer of a team does next. -/
inductive SeqTurn where
  /-- nothing, or something other than a command -/
  | rest (s : State)
  /-- a command, in a state where it is in progress -/
  | go (i : Instr) (s : State)

/-- A word of the stream is not at hand, or does not come. A page of a reserved format code is a page-format fault (R44),
whose cause is then Format, of class 0x07 (R346; log 106). -/
def seqNoWord (s : State) (e : BulkEnv) (x : Xlat) (pc : Nat) : State :=
  match x with
  | .miss v => askWalk s e.team.die e.ctx.asid v
  | .unbacked r => askBacking s r
  | .fault cls sub level =>
    dropWalkFaults (seqFault s e (if cls == clsFormat then .format else .fetch) 0 sub level) e.team.die e.ctx.asid [pc / 4096]
  | .ok .. => s

/-- An extension word follows a command word (R81). -/
def hasExt (w : DWord) : Bool := w.getLsbD 0 && !w.getLsbD 63

/-- A command of a stream, from its words. -/
def seqGo (s : State) (e : BulkEnv) (w ext : DWord) : SeqTurn :=
  match decodeMatrix w ext with
  | .error _ => .rest (seqFault s e .encoding 0 0 0)
  | .ok i =>
    .go i { modSeq s e.team.tid (fun q => { q with words := some (w, ext) }) with
            seqCur := some (e.team.tid, e.team.seq.pos + if hasExt w then 16 else 8) }

/-- The next command of a stream that runs: a command that stands at a boundary goes on with the words that it began
with (R199, R218). Where an extension word does not fetch, that is the fault, be the command word invalid too (log 43). -/
def seqFetch (s : State) (e : BulkEnv) : SeqTurn :=
  let pc := e.team.seq.pos
  match e.team.seq.split, e.team.seq.words with
  | some _, some x => seqGo s e x.1 x.2
  | _, _ =>
    match fetchWord s e.ctx e.team.die pc with
    | (.ok .., w) =>
      if hasExt w then
        match fetchWord s e.ctx e.team.die (pc + 8) with
        | (.ok .., ext) => seqGo (countFetch (countFetch s e.ctx e.team.die pc) e.ctx e.team.die (pc + 8)) e w ext
        | (x, _) => .rest (seqNoWord s e x (pc + 8))
      else seqGo (countFetch s e.ctx e.team.die pc) e w 0
    | (x, _) => .rest (seqNoWord s e x pc)

/-- The turn of a team's sequencer: a pending pre-emption takes it between commands or at a boundary (R218). -/
def seqTurn (s : State) (tid : Nat) : SeqTurn :=
  match bulkEnv s tid with
  | none => .rest s
  | some e =>
    if e.team.seq.status != .running || !e.team.resident then .rest s
    else if (getGang s e.team.gang).any fun k => k.status == .stopping then
      .rest (modSeq s tid fun q => { q with status := .stopped })
    else seqFetch s e

end Sys2Proof.Machine
end

