-- ==== Sys2Proof/Machine/Windows.lean ====
section
/-!
DEFINITION. BAR 2 of the physical function (Tables 21.5, 22.2, 24.1, 24.3, 24.5, 24.8, 25.2, 25.5), writes of any window
register, and window reads (R26, R316, R400, R404). A write that sets a bit that its table marks zero is discarded
(log 56).
-/

namespace Sys2Proof.Machine

/-! ## The registers of BAR 2 -/

/-- A register of BAR 2. -/
inductive PReg where
  | gsel | gcmd | gimg | gstat | gsize | gasid
  | ccmd | cpool | croot | cfq | cstat | dbglk
  | psel | pcmd | pquad (d : Nat) | pmem (d : Nat) | pcmn (d : Nat) | llc (d : Nat) | pstat
  | ckcmd | ckasid | ckid | ckport | ckns | cklba | cknlb | ckstat | ckbytes | ckunc
  | scrq (d : Nat) | scrate | err (d k : Nat)
  | pwrcap | clk (d : Nat) | temp (d : Nat) | pwr | bootst
  deriving DecidableEq, Repr

/-- The registers that stand once, by offset. -/
def pregSingle (off : Nat) : Option PReg :=
  match off with
  | 0x000 => some .gsel | 0x008 => some .gcmd | 0x010 => some .gimg | 0x018 => some .gstat | 0x020 => some .gsize
  | 0x028 => some .gasid
  | 0x100 => some .ccmd | 0x108 => some .cpool | 0x110 => some .croot | 0x118 => some .cfq | 0x120 => some .cstat
  | 0x128 => some .dbglk
  | 0x200 => some .psel | 0x208 => some .pcmd | 0x310 => some .pstat
  | 0x400 => some .ckcmd | 0x408 => some .ckasid | 0x410 => some .ckid | 0x418 => some .ckport | 0x420 => some .ckns
  | 0x428 => some .cklba | 0x430 => some .cknlb | 0x438 => some .ckstat | 0x440 => some .ckbytes | 0x448 => some .ckunc
  | 0x540 => some .scrate | 0x900 => some .pwrcap | 0x990 => some .pwr | 0x998 => some .bootst
  | _ => none

/-- The number of an offset in an array of `n` registers at `base`. -/
def inArray (base step n off : Nat) : Option Nat :=
  if base ≤ off && (off - base) % step == 0 && (off - base) / step < n then some ((off - base) / step) else none

/-- The error counter at an offset (Table 24.3). -/
def errAt (off : Nat) : Option PReg :=
  if 0x600 ≤ off && (off - 0x600) % 8 == 0 && (off - 0x600) / 0x40 < 9 && (off - 0x600) % 0x40 / 8 < 6 then
    some (.err ((off - 0x600) / 0x40) ((off - 0x600) % 0x40 / 8))
  else none

/-- The register at an offset of BAR 2. -/
def pregAt (off : Nat) : Option PReg :=
  (pregSingle off).or <| ((inArray 0x210 8 8 off).map .pquad).or <| ((inArray 0x250 8 8 off).map .pmem).or <|
  ((inArray 0x290 8 8 off).map .pcmn).or <| ((inArray 0x2D0 8 8 off).map .llc).or <|
  ((inArray 0x500 8 8 off).map .scrq).or <| (errAt off).or <| ((inArray 0x908 8 8 off).map .clk).or <|
  (inArray 0x948 8 9 off).map .temp

/-- The OPR cell of a register: every access to BAR 2 acts as OPR (Table 22.1). -/
def pregCell : PReg → List Right
  | .gcmd | .ccmd | .pcmd | .ckcmd => [.p]
  | .gstat | .gsize | .cstat | .pstat | .ckstat | .ckbytes | .ckunc | .scrq _ | .err .. | .temp _ | .pwr | .bootst => [.r]
  | _ => [.r, .w]

/-- A register of 64 bits. -/
def pregWide : PReg → Bool
  | .gsel | .gimg | .gsize | .cpool | .croot | .cfq | .cstat | .pmem _ | .ckid | .cklba | .cknlb | .ckstat | .ckbytes
  | .ckunc | .scrq _ | .err .. => true
  | _ => false

/-! ## Reads -/

/-- BOOTST (Table 25.2). -/
def bootstOf (s : State) : Nat := s.boot.stage % 16 + 2 ^ 8 * (s.boot.fail % 256) + 2 ^ 16 * s.boot.scrubbing.toNat

/-- TEMP of a die. -/
def tempOf (d : Die) (i : Nat) : Nat :=
  zextI (if i == 8 then d.temp else max d.temp d.mtemp) 16 + 2 ^ 16 * d.throt.toNat + 2 ^ 17 * d.fast.toNat

/-- Frames of a die that are not yet scrubbed. -/
def unscrubbed (d : Die) : Nat := (d.quar.map fun q => runLinesSum (rangeRuns q)).sum

/-- An error counter; MCE is 0 on X. -/
def errCount (d : Die) (i k : Nat) : Nat :=
  if k == 0 && i == 8 then 0 else [d.mce, d.mue, d.sce, d.sue, d.lrt, d.ppc].getD k 0

/-- What a read of a register gives. -/
def pregRead (s : State) : PReg → Nat
  | .gsel => s.pf.gsel.toNat
  | .gimg => s.pf.gimg.toNat
  | .gstat => s.pf.gbusy.toNat + 2 ^ 8 * s.pf.gcode
  | .gsize => s.pf.gsize
  | .gasid => s.pf.gasid
  | .cpool => s.pf.cpool.toNat
  | .croot => s.pf.croot.toNat
  | .cfq => s.pf.cfq.toNat
  | .cstat => (ccmdBusy s).toNat + 2 ^ 8 * s.pf.ccode + 2 ^ 16 * s.pf.casid + 2 ^ 32 * s.pf.ckeyid
  | .dbglk => s.boot.debugOpen.toNat
  | .psel => s.pf.psel
  | .pquad d => tget 0 s.pf.staged.quads d
  | .pmem d => tget 0 s.pf.staged.memory d
  | .pcmn d => tget 0 s.pf.staged.commons d
  | .llc d => tget 0 s.pf.llc d
  | .pstat => s.pf.pbusy.isSome.toNat + 2 ^ 8 * s.pf.pcode
  | .ckasid => s.pf.ckasid
  | .ckid => s.pf.ckid.toNat
  | .ckport => s.pf.ckport
  | .ckns => s.pf.ckns.toNat
  | .cklba => s.pf.cklba.toNat
  | .cknlb => s.pf.cknlb.toNat
  | .ckstat => s.pf.ckwait.isSome.toNat + 2 * s.pf.ckpart.toNat + 2 ^ 8 * s.pf.ckcode
  | .ckbytes => s.pf.ckbytes
  | .ckunc => s.pf.ckunc
  | .scrq d => 2 ^ 56 * (getDie s d).quar.length + unscrubbed (getDie s d) % 2 ^ 36
  | .scrate => s.pf.scrate
  | .err d k => errCount (getDie s d) d k
  | .pwrcap => s.pf.pwrcap
  | .clk d => 2 ^ 16 * (getDie s d).clk + (getDie s d).ceil
  | .temp d => tempOf (getDie s d) d
  | .pwr => s.pf.pwr
  | .bootst => bootstOf s
  | .gcmd | .ccmd | .pcmd | .ckcmd => 0

/-! ## Writes -/

/-- A write sets a bit marked zero, or a value outside the stated range (R394, Table 24.8). -/
def pregReserved (r : PReg) (n : Nat) : Bool :=
  match r with
  | .gsel => n % 16 != 0
  | .gimg => bitsN n 62 48 != 0
  | .gasid | .ckasid => n / 2 ^ 16 != 0
  | .cpool | .croot => n / 2 ^ 36 != 0
  | .cfq => n / 2 ^ 52 != 0
  | .ckport => n / 2 ^ 8 != 0
  | .scrate => n < 1 || 50 < n
  | .pwrcap => n < 1200 || 2400 < n
  | _ => false

/-- A staged field of a die. -/
def stagePart (s : State) (f : Partition → Partition) : State := { s with pf := { s.pf with staged := f s.pf.staged } }

/-- A write of a register that its cell allows. -/
def pregStore (s : State) (r : PReg) (v : DWord) : State :=
  let n := v.toNat
  let w : Word := v.setWidth 32
  match r with
  | .gsel => { s with pf := { s.pf with gsel := v } }
  | .gcmd => gcmdWrite s w
  | .gimg => { s with pf := { s.pf with gimg := v } }
  | .gasid => { s with pf := { s.pf with gasid := n } }
  | .ccmd => ccmdWrite s w coldState
  | .cpool => { s with pf := { s.pf with cpool := v } }
  | .croot => { s with pf := { s.pf with croot := v } }
  | .cfq => { s with pf := { s.pf with cfq := v } }
  | .dbglk => dbglkWrite s w
  | .psel => pselWrite s w
  | .pcmd => pcmdWrite s w
  | .pquad d => stagePart s fun p => { p with quads := tput 0 p.quads d n }
  | .pmem d => stagePart s fun p => { p with memory := tput 0 p.memory d n }
  | .pcmn d => stagePart s fun p => { p with commons := tput 0 p.commons d n }
  | .llc d => { s with pf := { s.pf with llc := tput 0 s.pf.llc d n } }
  | .ckcmd => ckcmdWrite s w
  | .ckasid => { s with pf := { s.pf with ckasid := n } }
  | .ckid => { s with pf := { s.pf with ckid := v } }
  | .ckport => { s with pf := { s.pf with ckport := n } }
  | .ckns => { s with pf := { s.pf with ckns := w } }
  | .cklba => { s with pf := { s.pf with cklba := v } }
  | .cknlb => { s with pf := { s.pf with cknlb := v } }
  | .scrate => { s with pf := { s.pf with scrate := n } }
  | .pwrcap => { s with pf := { s.pf with pwrcap := n } }
  | .clk d => clkWrite s d w
  | .gstat | .gsize | .cstat | .pstat | .ckstat | .ckbytes | .ckunc | .scrq _ | .err .. | .temp _ | .pwr | .bootst => s

/-- A write of BAR 2 in full operation. -/
def fullWrite (s : State) (off : Nat) (v : DWord) : State :=
  match pregAt off with
  | none => s
  | some r =>
    if !canWrite (pregCell r) then denyBar2 s off true
    else
      let v : DWord := if pregWide r then v else BitVec.ofNat 64 (v.toNat % 2 ^ 32)
      if pregReserved r v.toNat then s else pregStore s r v

/-- A read of BAR 2 in full operation. -/
def fullRead (s : State) (off : Nat) : State × DWord :=
  match pregAt off with
  | none => (s, 0)
  | some r => if canRead (pregCell r) then (s, BitVec.ofNat 64 (pregRead s r)) else (denyBar2 s off false, 0)

/-- A write of BAR 2 in recovery mode (R400): what seat 6 finds of an image is a free value here. -/
def recoveryWrite (s : State) (off : Nat) (v : DWord) : State :=
  match off with
  | 0xA00 =>
    let r := takeFree s
    if v.toNat % 2 ^ 32 == 2 then rcmdWrite r.1 (v.setWidth 32) (r.2 % 2 == 1) else rcmdWrite s (v.setWidth 32) false
  | 0xA08 => rdataWrite s v
  | 0xA10 | 0x998 => denyBar2 s off true
  | _ => s

/-- A read of BAR 2 in recovery mode. -/
def recoveryRead (s : State) (off : Nat) : State × DWord :=
  match off with
  | 0x998 => (s, BitVec.ofNat 64 (bootstOf s))
  | 0xA10 => (s, BitVec.ofNat 64 (2 ^ 8 * s.boot.rcode + 2 ^ 32 * s.boot.received))
  | 0xA00 | 0xA08 => (denyBar2 s off false, 0)
  | _ => (s, 0)

/-- A write of BAR 2. -/
def bar2Write (s : State) (path : Path) (off : Nat) (v : DWord) : State :=
  if recoveryOpen s path then recoveryWrite s off v else if bar2Open s path then fullWrite s off v else s

/-- A read of BAR 2. -/
def bar2Read (s : State) (path : Path) (off : Nat) : State × DWord :=
  if recoveryOpen s path then recoveryRead s off else if bar2Open s path then fullRead s off else (s, 0)

/-! ## Configuration space (R404) -/

/-- A path that comes from the host's PCIe hierarchy. -/
def hostPath (path : Path) : Bool :=
  match path with
  | .pf | .stream .. | .plain _ => true
  | .ctx _ | .debug => false

/-- Configuration space answers a path: in recovery mode there are no virtual functions (R400). -/
def cfgAnswers (s : State) (path : Path) (vf : Nat) : Bool :=
  s.boot.powered && hostPath path && !(s.boot.recovery && (capOf path vf).isSome)

/-- REGISTER_WRITE (R316, R347, R353, R377, R394): a write of any register of a window, checked against its rights row;
the registers with a row of their own act as that row says. -/
def execRegisterWrite (path : Path) (bar : Bar) (vf off : Nat) (v : DWord) (s : State) : Host.Outcome State Fault Refusal :=
  match bar with
  | .bar0 => .next (bar0Write s path vf off v)
  | .bar2 => .next (bar2Write s path off v)
  | .cfg => .next (if cfgAnswers s path vf then capWrite s (capOf path vf) off else s)

/-- DENIED_WINDOW_READ (R26, R404): a read of a window. One that R26 denies, or an SVCR read on a path bound to no context,
returns 0 and counts; any other returns the register. -/
def execDeniedWindowRead (path : Path) (bar : Bar) (vf off : Nat) (s : State) : Host.Outcome State Fault Refusal :=
  let r := match bar with
    | .bar0 => bar0Read s path vf off
    | .bar2 => bar2Read s path off
    | .cfg => (s, if cfgAnswers s path vf then BitVec.ofNat 64 (capRead s (capOf path vf) off) else 0)
  .next { r.1 with lastRead := r.2 }

end Sys2Proof.Machine
end

