-- ==== Sys2Proof/Machine/Dispatch.lean ====
section
/-!
DEFINITION. The meaning of every instruction and device step: one arm per constructor.
-/

namespace Sys2Proof.Machine

/-- What an instruction does in a state. -/
def exec (i : Instr) (s : State) : Host.Outcome State Fault Refusal :=
  match i with
  | .nop g => Sys2Proof.Machine.execNop g s
  | .bra g imm => Sys2Proof.Machine.execBra g imm s
  | .brx g a => Sys2Proof.Machine.execBrx g a s
  | .callI g d imm => Sys2Proof.Machine.execCallI g d imm s
  | .callR g d a => Sys2Proof.Machine.execCallR g d a s
  | .ret g d => Sys2Proof.Machine.execRet g d s
  | .exit g => Sys2Proof.Machine.execExit g s
  | .yield g => Sys2Proof.Machine.execYield g s
  | .sleep g n => Sys2Proof.Machine.execSleep g n s
  | .waitf g mask => Sys2Proof.Machine.execWaitf g mask s
  | .trap g n => Sys2Proof.Machine.execTrap g n s
  | .rte g kill => Sys2Proof.Machine.execRte g kill s
  | .bkpt g n => Sys2Proof.Machine.execBkpt g n s
  | .svc g p n => Sys2Proof.Machine.execSvc g p n s
  | .iaddR g ty sat d a b => Sys2Proof.Machine.execIaddR g ty sat d a b s
  | .iaddc g w64 d a b p => Sys2Proof.Machine.execIaddc g w64 d a b p s
  | .isubR g ty sat d a b => Sys2Proof.Machine.execIsubR g ty sat d a b s
  | .isubc g w64 d a b p => Sys2Proof.Machine.execIsubc g w64 d a b p s
  | .imulR g ty hw d a b => Sys2Proof.Machine.execImulR g ty hw d a b s
  | .imadR g ty hw d a b c => Sys2Proof.Machine.execImadR g ty hw d a b c s
  | .iminR g ty d a b => Sys2Proof.Machine.execIminR g ty d a b s
  | .imaxR g ty d a b => Sys2Proof.Machine.execImaxR g ty d a b s
  | .iabs g ty sat d a => Sys2Proof.Machine.execIabs g ty sat d a s
  | .ineg g ty sat d a => Sys2Proof.Machine.execIneg g ty sat d a s
  | .dot4R g sgn sa sb sat d a b c => Sys2Proof.Machine.execDot4R g sgn sa sb sat d a b c s
  | .dot2 g sgn sa sb hi sat d a b c => Sys2Proof.Machine.execDot2 g sgn sa sb hi sat d a b c s
  | .popc g ty d a => Sys2Proof.Machine.execPopc g ty d a s
  | .clz g ty d a => Sys2Proof.Machine.execClz g ty d a s
  | .brev g ty d a => Sys2Proof.Machine.execBrev g ty d a s
  | .andR g ty d a b => Sys2Proof.Machine.execAndR g ty d a b s
  | .orR g ty d a b => Sys2Proof.Machine.execOrR g ty d a b s
  | .xorR g ty d a b => Sys2Proof.Machine.execXorR g ty d a b s
  | .not g ty d a => Sys2Proof.Machine.execNot g ty d a s
  | .lop3Lo g tt d a b c => Sys2Proof.Machine.execLop3Lo g tt d a b c s
  | .lop3Hi g tt d a b c => Sys2Proof.Machine.execLop3Hi g tt d a b c s
  | .shlR g ty d a b => Sys2Proof.Machine.execShlR g ty d a b s
  | .shrR g ty d a b => Sys2Proof.Machine.execShrR g ty d a b s
  | .shf g left d a b c => Sys2Proof.Machine.execShf g left d a b c s
  | .bfxR g ty d a b => Sys2Proof.Machine.execBfxR g ty d a b s
  | .bfiR g ty d a b c => Sys2Proof.Machine.execBfiR g ty d a b c s
  | .selR g p w64 d a b => Sys2Proof.Machine.execSelR g p w64 d a b s
  | .mov g ty d a => Sys2Proof.Machine.execMov g ty d a s
  | .lea g sgn sh d a b => Sys2Proof.Machine.execLea g sgn sh d a b s
  | .sbind g x => Sys2Proof.Machine.execSbind g x s
  | .iaddI g ty sat d a imm => Sys2Proof.Machine.execIaddI g ty sat d a imm s
  | .isubI g ty sat d a imm => Sys2Proof.Machine.execIsubI g ty sat d a imm s
  | .imulI g ty hw d a imm => Sys2Proof.Machine.execImulI g ty hw d a imm s
  | .iminI g ty d a imm => Sys2Proof.Machine.execIminI g ty d a imm s
  | .imaxI g ty d a imm => Sys2Proof.Machine.execImaxI g ty d a imm s
  | .andI g ty d a imm => Sys2Proof.Machine.execAndI g ty d a imm s
  | .orI g ty d a imm => Sys2Proof.Machine.execOrI g ty d a imm s
  | .xorI g ty d a imm => Sys2Proof.Machine.execXorI g ty d a imm s
  | .shlI g ty d a imm => Sys2Proof.Machine.execShlI g ty d a imm s
  | .shrI g ty d a imm => Sys2Proof.Machine.execShrI g ty d a imm s
  | .bfxI g ty d a ctl => Sys2Proof.Machine.execBfxI g ty d a ctl s
  | .bfiI g ty d a ctl => Sys2Proof.Machine.execBfiI g ty d a ctl s
  | .isetI g ty cmp p a imm => Sys2Proof.Machine.execIsetI g ty cmp p a imm s
  | .selI g p w64 d a imm => Sys2Proof.Machine.execSelI g p w64 d a imm s
  | .movi g w64 d imm => Sys2Proof.Machine.execMovi g w64 d imm s
  | .isetR g ty cmp p a b => Sys2Proof.Machine.execIsetR g ty cmp p a b s
  | .pset g op na nb d a b => Sys2Proof.Machine.execPset g op na nb d a b s
  | .pmov g m => Sys2Proof.Machine.execPmov g m s
  | .lit g w32 d v => Sys2Proof.Machine.execLit g w32 d v s
  | .iaddL g ty sat d a v => Sys2Proof.Machine.execIaddL g ty sat d a v s
  | .isubL g ty sat d a v => Sys2Proof.Machine.execIsubL g ty sat d a v s
  | .imulL g ty hw d a v => Sys2Proof.Machine.execImulL g ty hw d a v s
  | .imadL g ty hw d a c v => Sys2Proof.Machine.execImadL g ty hw d a c v s
  | .iminL g ty d a v => Sys2Proof.Machine.execIminL g ty d a v s
  | .imaxL g ty d a v => Sys2Proof.Machine.execImaxL g ty d a v s
  | .andL g ty d a v => Sys2Proof.Machine.execAndL g ty d a v s
  | .orL g ty d a v => Sys2Proof.Machine.execOrL g ty d a v s
  | .xorL g ty d a v => Sys2Proof.Machine.execXorL g ty d a v s
  | .isetL g ty cmp p a v => Sys2Proof.Machine.execIsetL g ty cmp p a v s
  | .selL g p w64 d a v => Sys2Proof.Machine.execSelL g p w64 d a v s
  | .dot4L g sgn sa sb sat d a c v => Sys2Proof.Machine.execDot4L g sgn sa sb sat d a c v s
  | .maddmR g d a b c => Sys2Proof.Machine.execMaddmR g d a b c s
  | .msubmR g d a b c => Sys2Proof.Machine.execMsubmR g d a b c s
  | .mmulmR g d a b c => Sys2Proof.Machine.execMmulmR g d a b c s
  | .mmacmR g d a b c => Sys2Proof.Machine.execMmacmR g d a b c s
  | .mredR g wide d a c => Sys2Proof.Machine.execMredR g wide d a c s
  | .bflyR g gs d a b c => Sys2Proof.Machine.execBflyR g gs d a b c s
  | .maddmL g d a b q => Sys2Proof.Machine.execMaddmL g d a b q s
  | .msubmL g d a b q => Sys2Proof.Machine.execMsubmL g d a b q s
  | .mmulmL g d a b q => Sys2Proof.Machine.execMmulmL g d a b q s
  | .mmacmL g d a b q => Sys2Proof.Machine.execMmacmL g d a b q s
  | .mredL g wide d a q => Sys2Proof.Machine.execMredL g wide d a q s
  | .bflyL g gs d a b q => Sys2Proof.Machine.execBflyL g gs d a b q s
  | .elect g rot p => Sys2Proof.Machine.execElect g rot p s
  | .ldg g m => Sys2Proof.Machine.execLdg g m s
  | .stg g m => Sys2Proof.Machine.execStg g m s
  | .ldp g m => Sys2Proof.Machine.execLdp g m s
  | .stp g m => Sys2Proof.Machine.execStp g m s
  | .lds g m => Sys2Proof.Machine.execLds g m s
  | .sts g m => Sys2Proof.Machine.execSts g m s
  | .ldc g m => Sys2Proof.Machine.execLdc g m s
  | .stc g m => Sys2Proof.Machine.execStc g m s
  | .ldh g m => Sys2Proof.Machine.execLdh g m s
  | .sth g m => Sys2Proof.Machine.execSth g m s
  | .ldio g m => Sys2Proof.Machine.execLdio g m s
  | .stio g m => Sys2Proof.Machine.execStio g m s
  | .prefGlb g llc a off => Sys2Proof.Machine.execPrefGlb g llc a off s
  | .prefHst g llc a off => Sys2Proof.Machine.execPrefHst g llc a off s
  | .fence g kind scope spc => Sys2Proof.Machine.execFence g kind scope spc s
  | .ats g x => Sys2Proof.Machine.execAts g x s
  | .atc g x => Sys2Proof.Machine.execAtc g x s
  | .atg g x => Sys2Proof.Machine.execAtg g x s
  | .redc g x => Sys2Proof.Machine.execRedc g x s
  | .redg g x => Sys2Proof.Machine.execRedg g x s
  | .amxsCmn g x => Sys2Proof.Machine.execAmxsCmn g x s
  | .amxsGlb g x => Sys2Proof.Machine.execAmxsGlb g x s
  | .faddR g t m d a b => Sys2Proof.Machine.execFaddR g t m d a b s
  | .fsubR g t m d a b => Sys2Proof.Machine.execFsubR g t m d a b s
  | .fmulR g t m d a b => Sys2Proof.Machine.execFmulR g t m d a b s
  | .ffmaR g t m d a b c => Sys2Proof.Machine.execFfmaR g t m d a b c s
  | .fminR g t ftz d a b => Sys2Proof.Machine.execFminR g t ftz d a b s
  | .fmaxR g t ftz d a b => Sys2Proof.Machine.execFmaxR g t ftz d a b s
  | .fsetR g t cmp p a b => Sys2Proof.Machine.execFsetR g t cmp p a b s
  | .fclass g t d a => Sys2Proof.Machine.execFclass g t d a s
  | .frcp g t m d a => Sys2Proof.Machine.execFrcp g t m d a s
  | .frsq g t m d a => Sys2Proof.Machine.execFrsq g t m d a s
  | .fsqrt g t m d a => Sys2Proof.Machine.execFsqrt g t m d a s
  | .fex2 g t m d a => Sys2Proof.Machine.execFex2 g t m d a s
  | .flg2 g t m d a => Sys2Proof.Machine.execFlg2 g t m d a s
  | .fsin g t m d a => Sys2Proof.Machine.execFsin g t m d a s
  | .fcos g t m d a => Sys2Proof.Machine.execFcos g t m d a s
  | .ftanh g t m d a => Sys2Proof.Machine.execFtanh g t m d a s
  | .faddI g m d a imm => Sys2Proof.Machine.execFaddI g m d a imm s
  | .fmulI g m d a imm => Sys2Proof.Machine.execFmulI g m d a imm s
  | .fminI g ftz d a imm => Sys2Proof.Machine.execFminI g ftz d a imm s
  | .fmaxI g ftz d a imm => Sys2Proof.Machine.execFmaxI g ftz d a imm s
  | .fsetI g cmp p a imm => Sys2Proof.Machine.execFsetI g cmp p a imm s
  | .faddL g t m d a v => Sys2Proof.Machine.execFaddL g t m d a v s
  | .fsubL g t m d a v => Sys2Proof.Machine.execFsubL g t m d a v s
  | .fmulL g t m d a v => Sys2Proof.Machine.execFmulL g t m d a v s
  | .ffmaL g t m d a c v => Sys2Proof.Machine.execFfmaL g t m d a c v s
  | .fminL g t ftz d a v => Sys2Proof.Machine.execFminL g t ftz d a v s
  | .fmaxL g t ftz d a v => Sys2Proof.Machine.execFmaxL g t ftz d a v s
  | .fsetL g t cmp p a v => Sys2Proof.Machine.execFsetL g t cmp p a v s
  | .hfma2R g t m d a b c => Sys2Proof.Machine.execHfma2R g t m d a b c s
  | .hadd2 g t m d a b => Sys2Proof.Machine.execHadd2 g t m d a b s
  | .hmul2 g t m d a b => Sys2Proof.Machine.execHmul2 g t m d a b s
  | .hfma2L g t m d a c v => Sys2Proof.Machine.execHfma2L g t m d a c v s
  | .cvt g dt st m d a => Sys2Proof.Machine.execCvt g dt st m d a s
  | .pack g t m k d a b => Sys2Proof.Machine.execPack g t m k d a b s
  | .unpack g t ftz k d a => Sys2Proof.Machine.execUnpack g t ftz k d a s
  | .bscale g x => Sys2Proof.Machine.execBscale g x s
  | .shflIdxR g p d a b f => Sys2Proof.Machine.execShflIdxR g p d a b f s
  | .shflUpR g p d a b f => Sys2Proof.Machine.execShflUpR g p d a b f s
  | .shflDownR g p d a b f => Sys2Proof.Machine.execShflDownR g p d a b f s
  | .shflXorR g p d a b f => Sys2Proof.Machine.execShflXorR g p d a b f s
  | .shflIdxC g p d a n f => Sys2Proof.Machine.execShflIdxC g p d a n f s
  | .shflUpC g p d a n f => Sys2Proof.Machine.execShflUpC g p d a n f s
  | .shflDownC g p d a n f => Sys2Proof.Machine.execShflDownC g p d a n f s
  | .shflXorC g p d a n f => Sys2Proof.Machine.execShflXorC g p d a n f s
  | .vote g x a na => Sys2Proof.Machine.execVote g x a na s
  | .redux g op t d a => Sys2Proof.Machine.execRedux g op t d a s
  | .scan g op t d a => Sys2Proof.Machine.execScan g op t d a s
  | .matchv g m w64 d a => Sys2Proof.Machine.execMatchv g m w64 d a s
  | .acopy g x nt raw => Sys2Proof.Machine.execAcopy g x nt raw s
  | .kick g a b => Sys2Proof.Machine.execKick g a b s
  | .barinit g a n => Sys2Proof.Machine.execBarinit g a n s
  | .barexpI g a n => Sys2Proof.Machine.execBarexpI g a n s
  | .barexpR g a b => Sys2Proof.Machine.execBarexpR g a b s
  | .bararr g grp a => Sys2Proof.Machine.execBararr g grp a s
  | .barwait g p a x => Sys2Proof.Machine.execBarwait g p a x s
  | .bartest g p a x rg cr => Sys2Proof.Machine.execBartest g p a x rg cr s
  | .barinv g a => Sys2Proof.Machine.execBarinv g a s
  | .bararrMb g n => Sys2Proof.Machine.execBararrMb g n s
  | .barwaitMb g p n => Sys2Proof.Machine.execBarwaitMb g p n s
  | .qpush g q all cred a => Sys2Proof.Machine.execQpush g q all cred a s
  | .qpop g q all keep d => Sys2Proof.Machine.execQpop g q all keep d s
  | .qtry g q p x => Sys2Proof.Machine.execQtry g q p x s
  | .tilest g x => Sys2Proof.Machine.execTilest g x s
  | .tileq g d a => Sys2Proof.Machine.execTileq g d a s
  | .fewait g a b => Sys2Proof.Machine.execFewait g a b s
  | .feclr g set a b => Sys2Proof.Machine.execFeclr g set a b s
  | .tlwaitR g sc h a b => Sys2Proof.Machine.execTlwaitR g sc h a b s
  | .tlwaitI g sc h a n => Sys2Proof.Machine.execTlwaitI g sc h a n s
  | .tlread g sc acq iss h ss d a => Sys2Proof.Machine.execTlread g sc acq iss h ss d a s
  | .ncopy g x sealing => Sys2Proof.Machine.execNcopy g x sealing s
  | .enq g p a b => Sys2Proof.Machine.execEnq g p a b s
  | .allocGlbR g d p b => Sys2Proof.Machine.execAllocGlbR g d p b s
  | .allocGlbI g d p n => Sys2Proof.Machine.execAllocGlbI g d p n s
  | .allocCmnR g d p b => Sys2Proof.Machine.execAllocCmnR g d p b s
  | .allocCmnI g d p n => Sys2Proof.Machine.execAllocCmnI g d p n s
  | .freeGlb g a => Sys2Proof.Machine.execFreeGlb g a s
  | .freeCmn g a => Sys2Proof.Machine.execFreeCmn g a s
  | .migr g tr p a => Sys2Proof.Machine.execMigr g tr p a s
  | .contend g sync d p a cid => Sys2Proof.Machine.execContend g sync d p a cid s
  | .sysr g d n => Sys2Proof.Machine.execSysr g d n s
  | .sysw g a n => Sys2Proof.Machine.execSysw g a n s
  | .cntr g d ev => Sys2Proof.Machine.execCntr g d ev s
  | .mnop => Sys2Proof.Machine.execMnop s
  | .mbwait n => Sys2Proof.Machine.execMbwait n s
  | .mbsig n => Sys2Proof.Machine.execMbsig n s
  | .mloop count => Sys2Proof.Machine.execMloop count s
  | .mend => Sys2Proof.Machine.execMend s
  | .pmark tmask bmask => Sys2Proof.Machine.execPmark tmask bmask s
  | .mfence => Sys2Proof.Machine.execMfence s
  | .msetq c0 cn q => Sys2Proof.Machine.execMsetq c0 cn q s
  | .mfmt rm sat => Sys2Proof.Machine.execMfmt rm sat s
  | .mzero kind mt => Sys2Proof.Machine.execMzero kind mt s
  | .mldb x => Sys2Proof.Machine.execMldb x s
  | .mldu ud addr => Sys2Proof.Machine.execMldu ud addr s
  | .mlda kind mt x => Sys2Proof.Machine.execMlda kind mt x s
  | .mst ec mt x => Sys2Proof.Machine.execMst ec mt x s
  | .mcopy mt sr => Sys2Proof.Machine.execMcopy mt sr s
  | .mtrn mt sr => Sys2Proof.Machine.execMtrn mt sr s
  | .mcvt toI32 mt => Sys2Proof.Machine.execMcvt toI32 mt s
  | .mma x af bf => Sys2Proof.Machine.execMma x af bf s
  | .mpma x af mid => Sys2Proof.Machine.execMpma x af mid s
  | .mmodma x => Sys2Proof.Machine.execMmodma x s
  | .mntt x => Sys2Proof.Machine.execMntt x s
  | .mintt x => Sys2Proof.Machine.execMintt x s
  | .mtadd mt sr => Sys2Proof.Machine.execMtadd mt sr s
  | .mhad mt sr => Sys2Proof.Machine.execMhad mt sr s
  | .mscl mt v => Sys2Proof.Machine.execMscl mt v s
  | .mbias mt addr => Sys2Proof.Machine.execMbias mt addr s
  | .mclamp mt lo hi => Sys2Proof.Machine.execMclamp mt lo hi s
  | .mamax mt addr => Sys2Proof.Machine.execMamax mt addr s
  | .xspawn n rs2 rs1 rd => Sys2Proof.Machine.execXspawn n rs2 rs1 rd s
  | .xdisp n rs2 rs1 rd => Sys2Proof.Machine.execXdisp n rs2 rs1 rd s
  | .xjoin rs1 rd => Sys2Proof.Machine.execXjoin rs1 rd s
  | .xwaitc rs2 rs1 rd => Sys2Proof.Machine.execXwaitc rs2 rs1 rd s
  | .xdispTaskEnd core => Sys2Proof.Machine.execXdispTaskEnd core s
  | .enterHeader => Sys2Proof.Machine.execEnterHeader s
  | .flagCompletion gid op => Sys2Proof.Machine.execFlagCompletion gid op s
  | .progressRuleRelease gid => Sys2Proof.Machine.execProgressRuleRelease gid s
  | .issueAgeLimit gid => Sys2Proof.Machine.execIssueAgeLimit gid s
  | .preemptWordLimit gid => Sys2Proof.Machine.execPreemptWordLimit gid s
  | .preemptSecondLimit gid => Sys2Proof.Machine.execPreemptSecondLimit gid s
  | .sleepExpiry gid lane => Sys2Proof.Machine.execSleepExpiry gid lane s
  | .exitTakesEffect gid lane => Sys2Proof.Machine.execExitTakesEffect gid lane s
  | .faultRecordWrite asid => Sys2Proof.Machine.execFaultRecordWrite asid s
  | .handlerEntry gid => Sys2Proof.Machine.execHandlerEntry gid s
  | .teamRetirement tid => Sys2Proof.Machine.execTeamRetirement tid s
  | .gridEndFlush grid => Sys2Proof.Machine.execGridEndFlush grid s
  | .transferLanding x => Sys2Proof.Machine.execTransferLanding x s
  | .bankStoreEncode gid op => Sys2Proof.Machine.execBankStoreEncode gid op s
  | .bankRmw gid op => Sys2Proof.Machine.execBankRmw gid op s
  | .requestAccept die core => Sys2Proof.Machine.execRequestAccept die core s
  | .requestStatusWrite r => Sys2Proof.Machine.execRequestStatusWrite r s
  | .ncopyAccept n => Sys2Proof.Machine.execNcopyAccept n s
  | .ncopyFinish n => Sys2Proof.Machine.execNcopyFinish n s
  | .gangPlacement vf => Sys2Proof.Machine.execGangPlacement vf s
  | .heatStart lane => Sys2Proof.Machine.execHeatStart lane s
  | .heatResult lane => Sys2Proof.Machine.execHeatResult lane s
  | .migrationResume gid => Sys2Proof.Machine.execMigrationResume gid s
  | .migrPontoonRetry die => Sys2Proof.Machine.execMigrPontoonRetry die s
  | .syntDiscipline offset acc => Sys2Proof.Machine.execSyntDiscipline offset acc s
  | .rehomeWindowEnd => Sys2Proof.Machine.execRehomeWindowEnd s
  | .rehomeComplete asid lfn => Sys2Proof.Machine.execRehomeComplete asid lfn s
  | .translationWalk die => Sys2Proof.Machine.execTranslationWalk die s
  | .frameBacking => Sys2Proof.Machine.execFrameBacking s
  | .commandTake => Sys2Proof.Machine.execCommandTake s
  | .launchCommand vf q => Sys2Proof.Machine.execLaunchCommand vf q s
  | .waitCommand vf q => Sys2Proof.Machine.execWaitCommand vf q s
  | .nopCommand vf q => Sys2Proof.Machine.execNopCommand vf q s
  | .commandAccept vf q => Sys2Proof.Machine.execCommandAccept vf q s
  | .commandFinish vf q => Sys2Proof.Machine.execCommandFinish vf q s
  | .qtailWrite path vf q v => Sys2Proof.Machine.execQtailWrite path vf q v s
  | .queueEnable path vf q v => Sys2Proof.Machine.execQueueEnable path vf q v s
  | .queueDisable path vf q v => Sys2Proof.Machine.execQueueDisable path vf q v s
  | .qstatWrite path vf q v => Sys2Proof.Machine.execQstatWrite path vf q v s
  | .cntselWrite path vf v => Sys2Proof.Machine.execCntselWrite path vf v s
  | .dutyWrite path vf v => Sys2Proof.Machine.execDutyWrite path vf v s
  | .pmaskWrite path vf v => Sys2Proof.Machine.execPmaskWrite path vf v s
  | .registerWrite path bar vf off v => Sys2Proof.Machine.execRegisterWrite path bar vf off v s
  | .denialClear vf => Sys2Proof.Machine.execDenialClear vf s
  | .mailboxDoorbell m => Sys2Proof.Machine.execMailboxDoorbell m s
  | .msgCommandTaken => Sys2Proof.Machine.execMsgCommandTaken s
  | .msgSeedGangReady => Sys2Proof.Machine.execMsgSeedGangReady s
  | .msgGangPlaced => Sys2Proof.Machine.execMsgGangPlaced s
  | .msgTeamOrGangRetired => Sys2Proof.Machine.execMsgTeamOrGangRetired s
  | .msgCommandFinished => Sys2Proof.Machine.execMsgCommandFinished s
  | .msgErrorReport => Sys2Proof.Machine.execMsgErrorReport s
  | .msgPageHome seat => Sys2Proof.Machine.execMsgPageHome seat s
  | .msgKeySlot seat => Sys2Proof.Machine.execMsgKeySlot seat s
  | .msgClockPowerBudget inst => Sys2Proof.Machine.execMsgClockPowerBudget inst s
  | .msgCheckpointStep seat => Sys2Proof.Machine.execMsgCheckpointStep seat s
  | .nak seat => Sys2Proof.Machine.execNak seat s
  | .multikernelUpdate home inst => Sys2Proof.Machine.execMultikernelUpdate home inst s
  | .dutyReply vf ix a => Sys2Proof.Machine.execDutyReply vf ix a s
  | .dutyTimeout vf ix => Sys2Proof.Machine.execDutyTimeout vf ix s
  | .gangPreempt path v => Sys2Proof.Machine.execGangPreempt path v s
  | .gangImageSealed gang => Sys2Proof.Machine.execGangImageSealed gang s
  | .gangRestore path v => Sys2Proof.Machine.execGangRestore path v s
  | .gangMove path v => Sys2Proof.Machine.execGangMove path v s
  | .contextCreate path v => Sys2Proof.Machine.execContextCreate path v s
  | .contextDestroy path v => Sys2Proof.Machine.execContextDestroy path v s
  | .resetDie path v => Sys2Proof.Machine.execResetDie path v s
  | .dieResetComplete die => Sys2Proof.Machine.execDieResetComplete die s
  | .moduleReset path v => Sys2Proof.Machine.execModuleReset path v s
  | .debugLockClose path v => Sys2Proof.Machine.execDebugLockClose path v s
  | .getVersion sess => Sys2Proof.Machine.execGetVersion sess s
  | .getCapabilities sess => Sys2Proof.Machine.execGetCapabilities sess s
  | .negotiateAlgorithms sess => Sys2Proof.Machine.execNegotiateAlgorithms sess s
  | .getDigests sess => Sys2Proof.Machine.execGetDigests sess s
  | .getCertificate sess slot => Sys2Proof.Machine.execGetCertificate sess slot s
  | .challenge sess nonce => Sys2Proof.Machine.execChallenge sess nonce s
  | .getMeasurements sess index => Sys2Proof.Machine.execGetMeasurements sess index s
  | .keyExchange req => Sys2Proof.Machine.execKeyExchange req s
  | .finish sess => Sys2Proof.Machine.execFinish sess s
  | .heartbeat sess => Sys2Proof.Machine.execHeartbeat sess s
  | .keyUpdate sess => Sys2Proof.Machine.execKeyUpdate sess s
  | .endSession sess => Sys2Proof.Machine.execEndSession sess s
  | .unsupportedRequest sess code => Sys2Proof.Machine.execUnsupportedRequest sess code s
  | .bind sess r => Sys2Proof.Machine.execBind sess r s
  | .depart sess asid => Sys2Proof.Machine.execDepart sess asid s
  | .sealCode sess asid ranges => Sys2Proof.Machine.execSealCode sess asid ranges s
  | .getNotice sess asid => Sys2Proof.Machine.execGetNotice sess asid s
  | .getCounts sess asid => Sys2Proof.Machine.execGetCounts sess asid s
  | .easyAll stream => Sys2Proof.Machine.execEasyAll stream s
  | .easyAllDrained stream => Sys2Proof.Machine.execEasyAllDrained stream s
  | .easyAllTimeout stream => Sys2Proof.Machine.execEasyAllTimeout stream s
  | .partitionSelect path v => Sys2Proof.Machine.execPartitionSelect path v s
  | .partitionApply path v => Sys2Proof.Machine.execPartitionApply path v s
  | .partitionRelease path v => Sys2Proof.Machine.execPartitionRelease path v s
  | .functionLevelReset vf => Sys2Proof.Machine.execFunctionLevelReset vf s
  | .checkpoint path v => Sys2Proof.Machine.execCheckpoint path v s
  | .checkpointRestore path v => Sys2Proof.Machine.execCheckpointRestore path v s
  | .checkpointVerify path v => Sys2Proof.Machine.execCheckpointVerify path v s
  | .scrubFrame die => Sys2Proof.Machine.execScrubFrame die s
  | .patrolRead die asid lfn found => Sys2Proof.Machine.execPatrolRead die asid lfn found s
  | .linkRetry die => Sys2Proof.Machine.execLinkRetry die s
  | .dieFatalError die => Sys2Proof.Machine.execDieFatalError die s
  | .powerWindow m memory x => Sys2Proof.Machine.execPowerWindow m memory x s
  | .clockCeilingWrite path die v => Sys2Proof.Machine.execClockCeilingWrite path die v s
  | .clockChange die => Sys2Proof.Machine.execClockChange die s
  | .fastSet => Sys2Proof.Machine.execFastSet s
  | .fastClear => Sys2Proof.Machine.execFastClear s
  | .throtSet die mem temp => Sys2Proof.Machine.execThrotSet die mem temp s
  | .thermalTrip die => Sys2Proof.Machine.execThermalTrip die s
  | .moduleThermalTrip => Sys2Proof.Machine.execModuleThermalTrip s
  | .powerLoss => Sys2Proof.Machine.execPowerLoss s
  | .coldBoot => Sys2Proof.Machine.execColdBoot s
  | .bootStageComplete ok recs => Sys2Proof.Machine.execBootStageComplete ok recs s
  | .recoveryBeginLoad path v => Sys2Proof.Machine.execRecoveryBeginLoad path v s
  | .recoveryData path v => Sys2Proof.Machine.execRecoveryData path v s
  | .recoveryEndLoad path v ok => Sys2Proof.Machine.execRecoveryEndLoad path v ok s
  | .unassignedOpcode g op => Sys2Proof.Machine.execUnassignedOpcode g op s
  | .unassignedMop mop => Sys2Proof.Machine.execUnassignedMop mop s
  | .reservedCustom0 core w => Sys2Proof.Machine.execReservedCustom0 core w s
  | .debugModuleRequest r => Sys2Proof.Machine.execDebugModuleRequest r s
  | .deniedWindowRead path bar vf off => Sys2Proof.Machine.execDeniedWindowRead path bar vf off s
  | .ideKm sess stream => Sys2Proof.Machine.execIdeKm sess stream s

end Sys2Proof.Machine
end

