-- ==== Sys2Proof/Machine/RvExpand.lean ====
section
/-!
DEFINITION. The compressed words of the RISC-V cores (extension C, R314), each as the 32-bit word that it stands for
(PRESUMED, log 9: RISC-V's own encoding).
-/

namespace Sys2Proof.Machine

/-! ## Words of 32 bits by their fields -/

/-- An immediate as `n` bits. -/
def rvImm (x : Int) (n : Nat) : Nat := zextI x n
/-- R-type. -/
def rvR (op f3 f7 rd rs1 rs2 : Nat) : Nat := op + 2 ^ 7 * rd + 2 ^ 12 * f3 + 2 ^ 15 * rs1 + 2 ^ 20 * rs2 + 2 ^ 25 * f7
/-- I-type. -/
def rvI (op f3 rd rs1 : Nat) (x : Int) : Nat := op + 2 ^ 7 * rd + 2 ^ 12 * f3 + 2 ^ 15 * rs1 + 2 ^ 20 * rvImm x 12
/-- S-type. -/
def rvS (op f3 rs1 rs2 : Nat) (x : Int) : Nat :=
  let n := rvImm x 12
  op + 2 ^ 7 * bitsN n 4 0 + 2 ^ 12 * f3 + 2 ^ 15 * rs1 + 2 ^ 20 * rs2 + 2 ^ 25 * bitsN n 11 5
/-- B-type. -/
def rvB (f3 rs1 rs2 : Nat) (x : Int) : Nat :=
  let n := rvImm x 13
  0x63 + 2 ^ 7 * (bitsN n 11 11 + 2 * bitsN n 4 1) + 2 ^ 12 * f3 + 2 ^ 15 * rs1 + 2 ^ 20 * rs2 +
    2 ^ 25 * (bitsN n 10 5 + 2 ^ 6 * bitsN n 12 12)
/-- J-type. -/
def rvJ (rd : Nat) (x : Int) : Nat :=
  let n := rvImm x 21
  0x6F + 2 ^ 7 * rd + 2 ^ 12 * bitsN n 19 12 + 2 ^ 20 * bitsN n 11 11 + 2 ^ 21 * bitsN n 10 1 + 2 ^ 31 * bitsN n 20 20

/-! ## Quadrant 0 -/

/-- A register of a three-bit field. -/
def rvSmall (n : Nat) : Nat := 8 + n % 8

/-- Offsets of the doubleword and of the word forms. -/
def rvOffD (w : Nat) : Nat := 8 * bitsN w 12 10 + 64 * bitsN w 6 5
def rvOffW (w : Nat) : Nat := 8 * bitsN w 12 10 + 4 * bitsN w 6 6 + 64 * bitsN w 5 5

/-- Quadrant 0; `fp`: the core has F and D. -/
def rvQuad0 (fp : Bool) (w : Nat) : Option Nat :=
  let rd := rvSmall (bitsN w 4 2)
  let rs := rvSmall (bitsN w 9 7)
  let sp := 16 * bitsN w 12 11 + 64 * bitsN w 10 7 + 4 * bitsN w 6 6 + 8 * bitsN w 5 5
  match bitsN w 15 13 with
  | 0 => if sp = 0 then none else some (rvI 0x13 0 rd 2 sp)
  | 1 => if fp then some (rvI 0x07 3 rd rs (rvOffD w)) else none
  | 2 => some (rvI 0x03 2 rd rs (rvOffW w))
  | 3 => some (rvI 0x03 3 rd rs (rvOffD w))
  | 5 => if fp then some (rvS 0x27 3 rs rd (rvOffD w)) else none
  | 6 => some (rvS 0x23 2 rs rd (rvOffW w))
  | 7 => some (rvS 0x23 3 rs rd (rvOffD w))
  | _ => none

/-! ## Quadrant 1 -/

/-- The six-bit immediate of bit 12 and bits 6 to 2, signed. -/
def rvImm6 (w : Nat) : Int := sextN (32 * bitsN w 12 12 + bitsN w 6 2) 6
/-- The shift amount. -/
def rvShamt (w : Nat) : Nat := 32 * bitsN w 12 12 + bitsN w 6 2

/-- The offset of `c.j`. -/
def rvOffJ (w : Nat) : Int :=
  sextN (2 ^ 11 * bitsN w 12 12 + 2 ^ 4 * bitsN w 11 11 + 2 ^ 8 * bitsN w 10 9 + 2 ^ 10 * bitsN w 8 8 +
    2 ^ 6 * bitsN w 7 7 + 2 ^ 7 * bitsN w 6 6 + 2 * bitsN w 5 3 + 2 ^ 5 * bitsN w 2 2) 12

/-- The offset of `c.beqz` and `c.bnez`. -/
def rvOffB (w : Nat) : Int :=
  sextN (2 ^ 8 * bitsN w 12 12 + 2 ^ 3 * bitsN w 11 10 + 2 ^ 6 * bitsN w 6 5 + 2 * bitsN w 4 3 + 2 ^ 5 * bitsN w 2 2) 9

/-- The arithmetic words. -/
def rvAlu16 (w : Nat) : Option Nat :=
  let rd := rvSmall (bitsN w 9 7)
  let rs := rvSmall (bitsN w 4 2)
  match bitsN w 11 10 with
  | 0 => some (rvI 0x13 5 rd rd (rvShamt w))
  | 1 => some (rvI 0x13 5 rd rd (0x400 + rvShamt w))
  | 2 => some (rvI 0x13 7 rd rd (rvImm6 w))
  | _ =>
    match 4 * bitsN w 12 12 + bitsN w 6 5 with
    | 0 => some (rvR 0x33 0 0x20 rd rd rs)
    | 1 => some (rvR 0x33 4 0 rd rd rs)
    | 2 => some (rvR 0x33 6 0 rd rd rs)
    | 3 => some (rvR 0x33 7 0 rd rd rs)
    | 4 => some (rvR 0x3B 0 0x20 rd rd rs)
    | 5 => some (rvR 0x3B 0 0 rd rd rs)
    | _ => none

/-- Quadrant 1. -/
def rvQuad1 (w : Nat) : Option Nat :=
  let rd := bitsN w 11 7
  let sp := sextN (2 ^ 9 * bitsN w 12 12 + 2 ^ 4 * bitsN w 6 6 + 2 ^ 6 * bitsN w 5 5 + 2 ^ 7 * bitsN w 4 3 + 2 ^ 5 * bitsN w 2 2) 10
  match bitsN w 15 13 with
  | 0 => some (rvI 0x13 0 rd rd (rvImm6 w))
  | 1 => if rd = 0 then none else some (rvI 0x1B 0 rd rd (rvImm6 w))
  | 2 => some (rvI 0x13 0 rd 0 (rvImm6 w))
  | 3 =>
    if rd = 2 then (if sp = 0 then none else some (rvI 0x13 0 2 2 sp))
    else if rvImm6 w = 0 then none
    else some (0x37 + 2 ^ 7 * rd + 2 ^ 12 * rvImm (rvImm6 w) 20)
  | 4 => rvAlu16 w
  | 5 => some (rvJ 0 (rvOffJ w))
  | 6 => some (rvB 0 (rvSmall (bitsN w 9 7)) 0 (rvOffB w))
  | _ => some (rvB 1 (rvSmall (bitsN w 9 7)) 0 (rvOffB w))

/-! ## Quadrant 2 -/

/-- Jumps, moves and sums of quadrant 2. -/
def rvMove16 (w : Nat) : Option Nat :=
  let rd := bitsN w 11 7
  let rs := bitsN w 6 2
  if bitsN w 12 12 = 0 then
    (if rs = 0 then (if rd = 0 then none else some (rvI 0x67 0 0 rd 0)) else some (rvR 0x33 0 0 rd 0 rs))
  else if rs = 0 then (if rd = 0 then some 0x00100073 else some (rvI 0x67 0 1 rd 0))
  else some (rvR 0x33 0 0 rd rd rs)

/-- Quadrant 2; `fp`: the core has F and D. -/
def rvQuad2 (fp : Bool) (w : Nat) : Option Nat :=
  let rd := bitsN w 11 7
  let rs := bitsN w 6 2
  let ld := 32 * bitsN w 12 12 + 8 * bitsN w 6 5 + 64 * bitsN w 4 2
  let lw := 32 * bitsN w 12 12 + 4 * bitsN w 6 4 + 64 * bitsN w 3 2
  let sd := 8 * bitsN w 12 10 + 64 * bitsN w 9 7
  let sw := 4 * bitsN w 12 9 + 64 * bitsN w 8 7
  match bitsN w 15 13 with
  | 0 => some (rvI 0x13 1 rd rd (rvShamt w))
  | 1 => if fp then some (rvI 0x07 3 rd 2 ld) else none
  | 2 => if rd = 0 then none else some (rvI 0x03 2 rd 2 lw)
  | 3 => if rd = 0 then none else some (rvI 0x03 3 rd 2 ld)
  | 4 => rvMove16 w
  | 5 => if fp then some (rvS 0x27 3 2 rs sd) else none
  | 6 => some (rvS 0x23 2 2 rs sw)
  | _ => some (rvS 0x23 3 2 rs sd)

/-- The word that a compressed word stands for; `none` for a reserved or illegal one. -/
def rvExpand (fp : Bool) (w : Nat) : Option Nat :=
  match w % 4 with
  | 0 => rvQuad0 fp w
  | 1 => rvQuad1 w
  | 2 => rvQuad2 fp w
  | _ => some w

end Sys2Proof.Machine
end

