-- ==== Sys2Proof/Machine/RvFloat.lean ====
section
/-!
DEFINITION. The F and D arithmetic of the control and service cores (R314): single and double precision with the five
rounding modes of RISC-V. R9 and R314 name the extensions and state none of their words: what stands here is RISC-V's
(PRESUMED, log 9). The exact sums, products and orderings are those of `Float`.
-/

namespace Sys2Proof.Machine

/-- Single precision, or double for `d`. -/
def rvFmt (d : Bool) : FFmt := if d then ⟨11, 52, 1023, .ieee⟩ else ⟨8, 23, 127, .ieee⟩

/-- Bits of a code. -/
def rvWidth (d : Bool) : Nat := if d then 64 else 32
/-- The sign of a code. -/
def rvSign (d neg : Bool) : Nat := if neg then 2 ^ (rvWidth d - 1) else 0
/-- The infinity of a sign. -/
def rvInf (d neg : Bool) : Nat := rvSign d neg + (2 ^ (rvFmt d).eb - 1) * 2 ^ (rvFmt d).fb
/-- The canonical NaN. -/
def rvNan (d : Bool) : Nat := rvInf d false + 2 ^ ((rvFmt d).fb - 1)

/-- The value of a code. -/
def rvDecode (d : Bool) (c : Nat) : FVal :=
  let f := rvFmt d
  let neg := c.testBit (f.eb + f.fb)
  let ex := c / 2 ^ f.fb % 2 ^ f.eb
  let fr := c % 2 ^ f.fb
  if ex = 2 ^ f.eb - 1 then (if fr = 0 then .inf neg else .nan (!fr.testBit (f.fb - 1)))
  else if ex = 0 then .fin neg fr (fMinExp f - f.fb)
  else .fin neg (2 ^ f.fb + fr) ((ex : Int) - f.bias - f.fb)

/-- Whether a mode rounds up: 0 to nearest even, 1 to zero, 2 down, 3 up, 4 to nearest with ties away; `n`: the truncated
integer, `r` of `2 ^ k`: what is left. -/
def rvRoundsUp (rm : Nat) (neg : Bool) (n r k : Nat) : Bool :=
  match rm with
  | 0 => 2 ^ k < 2 * r || (2 * r == 2 ^ k && n % 2 == 1)
  | 1 => false
  | 2 => neg && r != 0
  | 3 => !neg && r != 0
  | _ => 2 ^ k ≤ 2 * r

/-- m × 2^e as a multiple of 2^q, and whether it changed. -/
def rvQuant (rm : Nat) (neg : Bool) (m : Nat) (e q : Int) : Nat × Bool :=
  if q ≤ e then (m * 2 ^ (e - q).toNat, false)
  else
    let k := (q - e).toNat
    let n := m / 2 ^ k
    (if rvRoundsUp rm neg n (m % 2 ^ k) k then n + 1 else n, m % 2 ^ k != 0)

/-- Whether an overflow delivers the infinity. -/
def rvToInf (rm : Nat) (neg : Bool) : Bool :=
  match rm with
  | 1 => false
  | 2 => neg
  | 3 => !neg
  | _ => true

/-- A value rounded to a format: its code and flags; tininess is found after rounding. -/
def rvRound (d : Bool) (rm : Nat) (x : FVal) : Nat × Word :=
  let f := rvFmt d
  match x with
  | .nan s => (rvNan d, flagIf s flInvalid)
  | .inf neg => (rvInf d neg, 0)
  | .fin neg m e =>
    if m = 0 then (rvSign d neg, 0)
    else
      let q0 := (Nat.log2 m : Int) + e - f.fb
      let q := max q0 (fMinExp f - f.fb)
      let r := rvQuant rm neg m e q
      let tiny : Bool := q0 < q && decide ((rvQuant rm neg m e q0).1 < 2 ^ (f.fb + (q - q0).toNat))
      let code := r.1 + (q + f.fb + f.bias - 1).toNat * 2 ^ f.fb
      if (2 ^ f.eb - 1) * 2 ^ f.fb ≤ code then
        (if rvToInf rm neg then rvInf d neg else rvInf d neg - 1, flOverflow ||| flInexact)
      else (rvSign d neg + code, flagIf r.2 flInexact ||| flagIf (r.2 && tiny) flUnderflow)

/-- The mode of the exact sum of `Float`: it decides the sign of an exact zero. -/
def rvZeroMode (rm : Nat) : RMode := if rm == 2 then .rm else .rn

/-- A formed value delivered, with the flags of its forming. -/
def rvDeliver (d : Bool) (rm : Nat) (x : FOut) : Nat × Word :=
  let r := rvRound d rm x.1
  (r.1, x.2 ||| r.2)

/-- x ÷ y to more bits than a format keeps. -/
def rvDivide (x y : FVal) : FOut :=
  let neg := fSignBit x != fSignBit y
  if fIsNan x || fIsNan y then (.nan false, fSignals [x, y])
  else
    match x, y with
    | .inf _, .inf _ => (.nan false, flInvalid)
    | .inf _, _ => (.inf neg, 0)
    | _, .inf _ => (.fin neg 0 0, 0)
    | .fin _ m e, .fin _ n k =>
      if n = 0 then (if m = 0 then (.nan false, flInvalid) else (.inf neg, flDivZero))
      else
        let j := Nat.log2 n + 80
        (withTail neg (m * 2 ^ j / n) (e - k - j) (m * 2 ^ j % n != 0), 0)
    | x, _ => (x, 0)

/-- √x to more bits than a format keeps. -/
def rvRoot (x : FVal) : FOut :=
  match x with
  | .nan s => (.nan false, flagIf s flInvalid)
  | .inf n => if n then (.nan false, flInvalid) else (x, 0)
  | .fin n m e =>
    if m = 0 then (x, 0)
    else if n then (.nan false, flInvalid)
    else
      let odd := (e % 2).toNat
      let big := m * 2 ^ (160 + odd)
      let r := isqrt big
      (withTail false r ((e - odd - 160) / 2) (r * r != big), 0)

/-- `fmin` and `fmax` on codes: a NaN gives way to a number, −0 is below +0. -/
def rvMinMax (d mx : Bool) (a b : Nat) : Nat × Word :=
  let x := rvDecode d a
  let y := rvDecode d b
  let fl := fSignals [x, y]
  if fIsNan x && fIsNan y then (rvNan d, fl)
  else if fIsNan x then (b, fl)
  else if fIsNan y then (a, fl)
  else if (if mx then fBelow x y else fBelow y x) then (b, fl) else (a, fl)

/-- `feq` (2), `flt` (1) and `fle` (0): the result and its flags. -/
def rvCompare (d : Bool) (k a b : Nat) : Bool × Word :=
  let x := rvDecode d a
  let y := rvDecode d b
  let r := relF x y
  if k == 2 then (r == .eq, fSignals [x, y])
  else (r == .lt || (k == 0 && r == .eq), flagIf (fIsNan x || fIsNan y) flInvalid)

/-- `fclass`: the mask of RISC-V. -/
def rvClassify (d : Bool) (c : Nat) : Nat :=
  match rvDecode d c with
  | .nan s => if s then 2 ^ 8 else 2 ^ 9
  | .inf n => if n then 2 ^ 0 else 2 ^ 7
  | .fin n m _ =>
    if m = 0 then (if n then 2 ^ 3 else 2 ^ 4)
    else if m < 2 ^ (rvFmt d).fb then (if n then 2 ^ 2 else 2 ^ 5)
    else if n then 2 ^ 1 else 2 ^ 6

/-- A value to an integer of `w` bits: out of range it is the nearest bound, and a NaN the greatest. -/
def rvToInt (rm w : Nat) (sgn : Bool) (x : FVal) : Int × Word :=
  let lo : Int := if sgn then -(2 ^ (w - 1) : Nat) else 0
  let hi : Int := if sgn then (2 ^ (w - 1) : Nat) - 1 else (2 ^ w : Nat) - 1
  match x with
  | .nan _ => (hi, flInvalid)
  | .inf n => (if n then lo else hi, flInvalid)
  | .fin n m e =>
    let r := rvQuant rm n m e 0
    let v : Int := if n then -(r.1 : Int) else r.1
    if v < lo then (lo, flInvalid) else if hi < v then (hi, flInvalid) else (v, flagIf r.2 flInexact)

/-- An operand of single precision in a 64-bit register: one that is not NaN-boxed reads as the canonical NaN. -/
def rvUnbox (d : Bool) (v : DWord) : Nat :=
  if d then v.toNat else if v.toNat / 2 ^ 32 = 2 ^ 32 - 1 then v.toNat % 2 ^ 32 else rvNan false

/-- A code as a register holds it. -/
def rvBox (d : Bool) (c : Nat) : DWord := BitVec.ofNat 64 (if d then c else (2 ^ 32 - 1) * 2 ^ 32 + c % 2 ^ 32)

end Sys2Proof.Machine
end

