-- ==== Sys2Proof/Machine/RiscV.lean ====
section
/-!
DEFINITION. The RISC-V cores (R93, R249, R271, R314, R326): the crew cores run RV64IMAC with Zawrs in M mode, the control
cores RV64GC with Zawrs and Zicbom, the service cores RV64GC with Zawrs and Xvexrus, in M, S and U mode. The spec names
the extensions and states none of their words, so what each of them does is RISC-V's own (PRESUMED, log 9). A core's
accesses go through the tables of its context, one after another and each at once, which is one of the orders that RVWMO
allows; a `fence`, aq and rl then find nothing left to order (R271).
-/

namespace Sys2Proof.Machine

/-! ## Cores -/

/-- x[n]. -/
def rx (r : RvCore) (n : Nat) : DWord := rvReg r (BitVec.ofNat 5 n)
/-- Write x[n]. -/
def rxSet (r : RvCore) (n : Nat) (v : DWord) : RvCore := rvPut r (BitVec.ofNat 5 n) v
/-- The sign-extended low word. -/
def sext32 (v : DWord) : DWord := (v.setWidth 32).signExtend 64
/-- The value of a flag. -/
def dwIf (b : Bool) : DWord := if b then 1 else 0

/-! ## Interrupts -/

/-- The identity of highest priority that the interrupt file of a control or service core offers: delivery enabled,
pending, enabled, and below the threshold where one is set; 0 for none. -/
def rvTop (r : RvCore) : Nat :=
  let th := (tget 0 r.csr 0x10072).toNat
  let ok := r.ints.filter fun i => r.intEn.contains i && (th == 0 || i < th)
  if tget 0 r.csr 0x10070 != 1 then 0 else ok.foldl (fun m i => if m == 0 || i < m then i else m) 0

/-- The pending interrupts: bit 11 of a crew core is its mailbox's (Table 20.1), bit 9 the interrupt file's. -/
def rvPending (s : State) (c : Nat) (r : RvCore) : DWord :=
  if rvCrew c then (if s.mailInt.contains (c - 63) then 0x800 else 0)
  else (tget 0 r.csr 0x344 &&& 0x222) ||| (if rvTop r == 0 then 0 else 0x200)

/-- The interrupt that a core takes now: the highest of 11, 9, 1 and 5 that is enabled, M mode's first. -/
def rvTaken (s : State) (c : Nat) (r : RvCore) : Option Nat :=
  let on := rvPending s c r &&& tget 0 r.csr 0x304
  let deleg := tget 0 r.csr 0x303
  let m := r.mode < 3 || r.mstatus.getLsbD 3
  let sm := r.mode < 1 || (r.mode == 1 && r.mstatus.getLsbD 1)
  ([11, 9, 1, 5].find? fun i => on.getLsbD i && m && (rvCrew c || !deleg.getLsbD i)).or
    ([9, 1, 5].find? fun i => on.getLsbD i && sm && !rvCrew c && deleg.getLsbD i)

/-- A core takes an interrupt. -/
def rvInterrupt (s : State) (c : Nat) : Option State :=
  let r := getRv s c
  (rvTaken s c r).map fun i => putRv s c (rvTrap c r true i 0)

/-- The fetch of a core's word does not translate: an instruction access fault. -/
def rvFetchFault (s : State) (c : Nat) : State :=
  let r := getRv s c
  putRv s c (rvTrap c r false 1 r.pc)

/-! ## Control and status registers -/

/-- Registers that every core has. -/
def csrBase : List Nat :=
  [0x300, 0x301, 0x304, 0x305, 0x320, 0x340, 0x341, 0x342, 0x343, 0x344, 0xB00, 0xB02, 0xF11, 0xF12, 0xF13, 0xF14, 0xF15]
/-- Registers of the cores with F, D, S and U. -/
def csrFull : List Nat :=
  [0x001, 0x002, 0x003, 0x302, 0x303, 0x306, 0x30A, 0x100, 0x104, 0x105, 0x106, 0x10A, 0x140, 0x141, 0x142, 0x143, 0x144,
   0x180, 0x150, 0x151, 0x15C, 0xDB0]

/-- A register of a core. -/
def csrKnown (c n : Nat) : Bool := csrBase.contains n || (!rvCrew c && csrFull.contains n)

/-- FS of mstatus: the floating-point registers are off where it is 0. -/
def rvFpOff (c : Nat) (r : RvCore) : Bool := rvCrew c || bitsN r.mstatus.toNat 14 13 == 0

/-- Bits of mstatus that sstatus shows. -/
def sstatusMask : DWord := 0xC6122

/-- mstatus as it reads: XLEN 64 in S and U mode, SD, and M as the only mode of a crew core. -/
def rvMstatus (c : Nat) (r : RvCore) : DWord :=
  if rvCrew c then r.mstatus ||| 0x1800
  else r.mstatus ||| 0xA00000000 ||| (if bitsN r.mstatus.toNat 14 13 == 3 then 0x8000000000000000 else 0)

/-- Identities of a pair of 32-identity words of the interrupt file, as bits. -/
def identBits (is : List Nat) (k : Nat) : DWord :=
  is.foldl (fun (v : DWord) i => if 32 * k ≤ i && i < 32 * k + 64 then v ||| (1 <<< (i - 32 * k)) else v) 0

/-- Identities with those bits replaced; identity 0 is none, and 2,047 is the last. -/
def setIdents (is : List Nat) (k : Nat) (v : DWord) : List Nat :=
  is.filter (fun i => i < 32 * k || 32 * k + 64 ≤ i) ++
    (((List.range 64).filter fun j => v.getLsbD j).map (32 * k + ·)).filter fun i => 1 ≤ i && i ≤ 2047

/-- A register of the interrupt file by its number: delivery, threshold, pending and enabled identities. -/
def fileRead (r : RvCore) (n : Nat) : Option DWord :=
  if n == 0x70 || n == 0x72 then some (tget 0 r.csr (0x10000 + n))
  else if 0x80 ≤ n && n ≤ 0xBF && n % 2 == 0 then some (identBits r.ints (n - 0x80))
  else if 0xC0 ≤ n && n ≤ 0xFF && n % 2 == 0 then some (identBits r.intEn (n - 0xC0))
  else none

/-- A write of a register of the interrupt file. -/
def fileWrite (r : RvCore) (n : Nat) (v : DWord) : RvCore :=
  if n == 0x70 then { r with csr := tput 0 r.csr 0x10070 (v &&& 1) }
  else if n == 0x72 then { r with csr := tput 0 r.csr 0x10072 (v &&& 0x7FF) }
  else if n < 0xC0 then { r with ints := setIdents r.ints (n - 0x80) v }
  else { r with intEn := setIdents r.intEn (n - 0xC0) v }

/-- `misa`. -/
def rvMisa (c : Nat) : DWord := if rvCrew c then 0x8000000000001105 else 0x800000000014112D

/-- The greatest pending and enabled interrupt of S mode, as `stopi` shows it. -/
def rvStopi (s : State) (c : Nat) (r : RvCore) : DWord :=
  let on := rvPending s c r &&& tget 0 r.csr 0x304 &&& tget 0 r.csr 0x303
  match [9, 1, 5].find? (on.getLsbD ·) with
  | some i => BitVec.ofNat 64 (i * 2 ^ 16 + 1)
  | none => 0

/-- A register as a core reads it; `none` where there is none. -/
def csrRead (s : State) (c : Nat) (r : RvCore) (n : Nat) : Option DWord :=
  let x := tget 0 r.csr n
  match n with
  | 0x001 => some (tget 0 r.csr 3 &&& 0x1F)
  | 0x002 => some (tget 0 r.csr 3 >>> 5)
  | 0x100 => some (rvMstatus c r &&& (sstatusMask ||| 0x8000000200000000))
  | 0x300 => some (rvMstatus c r)
  | 0x301 => some (rvMisa c)
  | 0x104 => some (tget 0 r.csr 0x304 &&& tget 0 r.csr 0x303)
  | 0x144 => some (rvPending s c r &&& tget 0 r.csr 0x303)
  | 0x344 => some (rvPending s c r)
  | 0x305 => some r.mtvec
  | 0x341 => some r.mepc
  | 0x342 => some r.mcause
  | 0x151 => fileRead r (tget 0 r.csr 0x150).toNat
  | 0x15C => some (BitVec.ofNat 64 (rvTop r * (2 ^ 16 + 1)))
  | 0xDB0 => some (rvStopi s c r)
  | 0xB00 => some (BitVec.ofNat 64 (getDie s (rvDie c)).cyc + x)
  | 0xF14 => some (BitVec.ofNat 64 c)
  | 0x180 | 0xF11 | 0xF12 | 0xF13 | 0xF15 => some 0
  | _ => some x

/-- A write of mstatus within a mask. -/
def putMstatus (r : RvCore) (mask v : DWord) : RvCore :=
  let x := (r.mstatus &&& ~~~mask) ||| (v &&& mask)
  { r with mstatus := if bitsN x.toNat 12 11 == 2 then x &&& ~~~0x1800#64 else x }

/-- Bits of the interrupt registers that a core has. -/
def intMask (c : Nat) : DWord := if rvCrew c then 0x888 else 0xAAA

/-- The floating-point state has been written. -/
def rvDirty (r : RvCore) : RvCore := { r with mstatus := r.mstatus ||| 0x6000 }

/-- A write of a register: bits that the core does not have stay as they read. -/
def csrWrite (s : State) (c : Nat) (r : RvCore) (n : Nat) (v : DWord) : RvCore :=
  let put (m : Nat) (v : DWord) : RvCore := { r with csr := tput 0 r.csr m v }
  match n with
  | 0x001 => rvDirty (put 3 ((tget 0 r.csr 3 &&& 0xE0) ||| (v &&& 0x1F)))
  | 0x002 => rvDirty (put 3 ((tget 0 r.csr 3 &&& 0x1F) ||| ((v &&& 7) <<< 5)))
  | 0x003 => rvDirty (put 3 (v &&& 0xFF))
  | 0x100 => putMstatus r sstatusMask v
  | 0x300 => putMstatus r (if rvCrew c then 0x88 else 0x7E79AA) v
  | 0x302 => put n (v &&& 0xB3FF)
  | 0x303 => put n (v &&& 0x222)
  | 0x304 => put n (v &&& intMask c)
  | 0x104 => put 0x304 ((tget 0 r.csr 0x304 &&& ~~~(tget 0 r.csr 0x303)) ||| (v &&& tget 0 r.csr 0x303))
  | 0x344 => if rvCrew c then r else put n (v &&& 0x222)
  | 0x144 =>
    let m := tget 0 r.csr 0x303 &&& 2
    put 0x344 ((tget 0 r.csr 0x344 &&& ~~~m) ||| (v &&& m))
  | 0x305 => { r with mtvec := v &&& ~~~2#64 }
  | 0x105 => put n (v &&& ~~~2#64)
  | 0x341 => { r with mepc := v &&& ~~~1#64 }
  | 0x141 => put n (v &&& ~~~1#64)
  | 0x342 => { r with mcause := v }
  | 0x106 | 0x306 | 0x320 => put n (v &&& 7)
  | 0x10A | 0x30A => put n (v &&& (if rvControl c then 0x71 else 1))
  | 0x151 => fileWrite r (tget 0 r.csr 0x150).toNat v
  | 0x15C => { r with ints := r.ints.filter (· != rvTop r) }
  | 0xB00 => put n (v - BitVec.ofNat 64 (getDie s (rvDie c)).cyc)
  | 0x301 | 0x180 | 0xDB0 => r
  | _ => put n v

/-! ## What an instruction comes to -/

/-- What a word comes to: a state and the core after it, its program counter set, or a trap. -/
inductive RvOut where
  | ok (s : State) (r : RvCore)
  | trap (s : State) (cause : Nat) (tval : DWord)

/-- Illegal instruction. -/
def rvBad (s : State) (w : Nat) : RvOut := .trap s 2 (BitVec.ofNat 64 w)

/-- The core with its program counter past the word. -/
def rvNext (r : RvCore) (len : Nat) : RvCore := { r with pc := r.pc + BitVec.ofNat 64 len }

/-! ## Integer instructions -/

/-- The signed immediate of an I-type word. -/
def immI (w : Nat) : DWord := BitVec.ofInt 64 (sextN (w / 2 ^ 20) 12)
/-- Of an S-type word. -/
def immS (w : Nat) : DWord := BitVec.ofInt 64 (sextN (bitsN w 11 7 + 32 * bitsN w 31 25) 12)
/-- Of a B-type word. -/
def immB (w : Nat) : DWord :=
  BitVec.ofInt 64 (sextN (2 * bitsN w 11 8 + 2 ^ 5 * bitsN w 30 25 + 2 ^ 11 * bitsN w 7 7 + 2 ^ 12 * bitsN w 31 31) 13)
/-- Of a U-type word. -/
def immU (w : Nat) : DWord := BitVec.ofInt 64 (sextN (w / 2 ^ 12 * 2 ^ 12) 32)
/-- Of a J-type word. -/
def immJ (w : Nat) : DWord :=
  BitVec.ofInt 64
    (sextN (2 * bitsN w 30 21 + 2 ^ 11 * bitsN w 20 20 + 2 ^ 12 * bitsN w 19 12 + 2 ^ 20 * bitsN w 31 31) 21)

/-- The operations of I by funct3; `alt`: subtraction or the arithmetic shift; `k`: the shift amount. -/
def rvAlu (f3 : Nat) (alt : Bool) (a b : DWord) (k : Nat) : DWord :=
  match f3 with
  | 0 => if alt then a - b else a + b
  | 1 => a <<< k
  | 2 => dwIf (a.slt b)
  | 3 => dwIf (a.ult b)
  | 4 => a ^^^ b
  | 5 => if alt then a.sshiftRight k else a >>> k
  | 6 => a ||| b
  | _ => a &&& b

/-- Division and remainder by the signed reading: by 0 the quotient is −1 and the remainder the dividend; the most
negative number by −1 gives itself and 0. -/
def rvDivS (n : Nat) (a b : BitVec n) (rem : Bool) : BitVec n :=
  if b == 0 then (if rem then a else BitVec.allOnes n)
  else BitVec.ofInt n (if rem then a.toInt.tmod b.toInt else a.toInt.tdiv b.toInt)
/-- By the unsigned reading. -/
def rvDivU (n : Nat) (a b : BitVec n) (rem : Bool) : BitVec n :=
  if b == 0 then (if rem then a else BitVec.allOnes n) else if rem then a % b else a / b

/-- The operations of M by funct3. -/
def rvMulDiv (f3 : Nat) (a b : DWord) : DWord :=
  match f3 with
  | 0 => a * b
  | 1 => BitVec.ofInt 64 (a.toInt * b.toInt / 2 ^ 64)
  | 2 => BitVec.ofInt 64 (a.toInt * (b.toNat : Int) / 2 ^ 64)
  | 3 => BitVec.ofNat 64 (a.toNat * b.toNat / 2 ^ 64)
  | 4 => rvDivS 64 a b false
  | 5 => rvDivU 64 a b false
  | 6 => rvDivS 64 a b true
  | _ => rvDivU 64 a b true

/-- The word operations of M. -/
def rvMulDivW (f3 : Nat) (a b : Word) : Option Word :=
  match f3 with
  | 0 => some (a * b)
  | 4 => some (rvDivS 32 a b false)
  | 5 => some (rvDivU 32 a b false)
  | 6 => some (rvDivS 32 a b true)
  | 7 => some (rvDivU 32 a b true)
  | _ => none

/-- The word operations of I. -/
def rvAluW (f3 : Nat) (alt : Bool) (a b : Word) (k : Nat) : Option Word :=
  match f3 with
  | 0 => some (if alt then a - b else a + b)
  | 1 => if alt then none else some (a <<< k)
  | 5 => some (if alt then a.sshiftRight k else a >>> k)
  | _ => none

/-- Register and immediate operations of 64 bits; `none` for a reserved word. -/
def rvOpImm (r : RvCore) (w : Nat) : Option DWord :=
  let f3 := bitsN w 14 12
  let top := bitsN w 31 26
  let a := rx r (bitsN w 19 15)
  if f3 == 1 && top != 0 then none
  else if f3 == 5 && top != 0 && top != 0x10 then none
  else some (rvAlu f3 (f3 == 5 && top == 0x10) a (immI w) (bitsN w 25 20))

/-- Register operations of 64 bits. -/
def rvOp (r : RvCore) (w : Nat) : Option DWord :=
  let f3 := bitsN w 14 12
  let a := rx r (bitsN w 19 15)
  let b := rx r (bitsN w 24 20)
  match bitsN w 31 25 with
  | 0 => some (rvAlu f3 false a b (b.toNat % 64))
  | 1 => some (rvMulDiv f3 a b)
  | 0x20 => if f3 == 0 || f3 == 5 then some (rvAlu f3 true a b (b.toNat % 64)) else none
  | _ => none

/-- Immediate operations of a word. -/
def rvOpImm32 (r : RvCore) (w : Nat) : Option DWord :=
  let f3 := bitsN w 14 12
  let f7 := bitsN w 31 25
  let a := (rx r (bitsN w 19 15)).setWidth 32
  let b := (immI w).setWidth 32
  if f3 == 0 then (rvAluW 0 false a b 0).map (·.signExtend 64)
  else if f7 != 0 && f7 != 0x20 then none
  else (rvAluW f3 (f7 == 0x20) a b (bitsN w 24 20)).map (·.signExtend 64)

/-- Register operations of a word. -/
def rvOp32 (r : RvCore) (w : Nat) : Option DWord :=
  let f3 := bitsN w 14 12
  let a := (rx r (bitsN w 19 15)).setWidth 32
  let b := (rx r (bitsN w 24 20)).setWidth 32
  match bitsN w 31 25 with
  | 0 => (rvAluW f3 false a b (b.toNat % 32)).map (·.signExtend 64)
  | 1 => (rvMulDivW f3 a b).map (·.signExtend 64)
  | 0x20 => (rvAluW f3 true a b (b.toNat % 32)).map (·.signExtend 64)
  | _ => none

/-- A branch is taken. -/
def rvBranch (f3 : Nat) (a b : DWord) : Option Bool :=
  match f3 with
  | 0 => some (a == b)
  | 1 => some (a != b)
  | 4 => some (a.slt b)
  | 5 => some (!a.slt b)
  | 6 => some (a.ult b)
  | 7 => some (!a.ult b)
  | _ => none

/-! ## Memory -/

/-- Where an access of a core lands: it comes from the core's die (R303), and the leaf says whether the page is the
module's or the host's (R271; log 9). -/
def rvXlat (s : State) (c : Nat) (r : RvCore) (k : AccKind) (va n : Nat) : State × Option Nat :=
  match getCtx s r.asid with
  | none => (s, none)
  | some x => agentXlat s x (rvDie c) none k va n

/-- A store of a core: its bytes, and the translations that a table page held (R338). -/
def rvStore (s : State) (r : RvCore) (key n v : Nat) : State :=
  let s := bankWrite s r.asid key n (v % 2 ^ (8 * n))
  if (keyFrame s key).any (·.2.tbl) then dropTlb s r.asid else s

/-- An access of `n` bytes: misaligned and unreachable addresses trap, and a read of a poisoned sector takes the access
fault; else `f` has the state, with the access counted (R304), and the key of the place. `store`: the causes of a store. -/
def rvAccess (s : State) (c : Nat) (r : RvCore) (store reads : Bool) (va : DWord) (n : Nat) (f : State → Nat → RvOut) : RvOut :=
  if va.toNat % n != 0 then .trap s (if store then 6 else 4) va
  else
    match rvXlat s c r (if store then .write else .read) va.toNat n with
    | (s, none) => .trap s (if store then 7 else 5) va
    | (s, some key) => if reads && poisoned s key n then .trap s (if store then 7 else 5) va
      else f (rvTouch s c key) key

/-- `n` bytes as a register receives them. -/
def rvLoaded (n : Nat) (sgn : Bool) (v : Nat) : DWord := if sgn then BitVec.ofInt 64 (sextN v (8 * n)) else BitVec.ofNat 64 v

/-- A load. -/
def rvLoad (s : State) (c : Nat) (r : RvCore) (w len : Nat) : RvOut :=
  let f3 := bitsN w 14 12
  if f3 == 7 then rvBad s w
  else
    let n := 2 ^ (f3 % 4)
    rvAccess s c r false true (rx r (bitsN w 19 15) + immI w) n fun s key =>
      .ok s (rvNext (rxSet r (bitsN w 11 7) (rvLoaded n (f3 < 4) (getBytes s key n))) len)

/-- A store. -/
def rvStoreOp (s : State) (c : Nat) (r : RvCore) (w len : Nat) : RvOut :=
  let f3 := bitsN w 14 12
  if 4 ≤ f3 then rvBad s w
  else
    let n := 2 ^ f3
    rvAccess s c r true false (rx r (bitsN w 19 15) + immS w) n fun s key =>
      .ok (rvStore s r key n (rx r (bitsN w 24 20)).toNat) (rvNext r len)

/-- The combination of an AMO of `n` bytes, by funct5. -/
def rvAmoNew (f5 n : Nat) (old b : Nat) : Option Nat :=
  let w := 8 * n
  let sx := sextN old w
  let sy := sextN b w
  match f5 with
  | 0 => some ((old + b) % 2 ^ w)
  | 1 => some b
  | 4 => some (old ^^^ b)
  | 8 => some (old ||| b)
  | 0xC => some (old &&& b)
  | 0x10 => some (if sx < sy then old else b)
  | 0x14 => some (if sy < sx then old else b)
  | 0x18 => some (min old b)
  | 0x1C => some (max old b)
  | _ => none

/-- The eight bytes that a reservation covers, by the key of the first. -/
def reserveKey (key : Nat) : Nat := key / 8 * 8

/-- `lr`, `sc` and the AMOs; the aq and rl bits find nothing left to order. -/
def rvAmo (s : State) (c : Nat) (r : RvCore) (w len : Nat) : RvOut :=
  let f3 := bitsN w 14 12
  let f5 := bitsN w 31 27
  let n := if f3 == 2 then 4 else 8
  let va := rx r (bitsN w 19 15)
  let b := (rx r (bitsN w 24 20)).toNat % 2 ^ (8 * n)
  let give (r : RvCore) (v : DWord) : RvCore := rvNext (rxSet r (bitsN w 11 7) v) len
  if f3 != 2 && f3 != 3 then rvBad s w
  else if f5 == 2 then
    if bitsN w 24 20 != 0 then rvBad s w
    else rvAccess s c r false true va n fun s key =>
      .ok s (give { r with reserve := some (reserveKey key) } (rvLoaded n true (getBytes s key n)))
  else if f5 == 3 then
    rvAccess s c r true false va n fun s key =>
      if r.reserve == some (reserveKey key) then .ok (rvStore s r key n b) (give { r with reserve := none } 0)
      else .ok s (give { r with reserve := none } 1)
  else if (rvAmoNew f5 n 0 0).isNone then rvBad s w
  else
    rvAccess s c r true true va n fun s key =>
      let old := getBytes s key n
      .ok (rvStore s r key n ((rvAmoNew f5 n old b).getD old)) (give r (rvLoaded n true old))

/-! ## Cache blocks, fences -/

/-- A cache-block operation of Zicbom: a mode that its enables do not allow takes the illegal-instruction exception;
memory is one, so nothing else follows but the translation's check. -/
def rvCbo (s : State) (c : Nat) (r : RvCore) (w len : Nat) : RvOut :=
  let k := bitsN w 31 20
  let on (n : Nat) : Bool :=
    let x := (tget 0 r.csr n).toNat
    if k == 0 then bitsN x 5 4 != 0 else bitsN x 6 6 != 0
  if !rvControl c || 2 < k || bitsN w 11 7 != 0 then rvBad s w
  else if (r.mode < 3 && !on 0x30A) || (r.mode < 1 && !on 0x10A) then rvBad s w
  else
    match rvXlat s c r .read (rx r (bitsN w 19 15)).toNat 1 with
    | (s, none) => .trap s 7 (rx r (bitsN w 19 15))
    | (s, some _) => .ok s (rvNext r len)

/-- `fence`, `fence.i` and the cache-block operations. -/
def rvFence (s : State) (c : Nat) (r : RvCore) (w len : Nat) : RvOut :=
  match bitsN w 14 12 with
  | 0 => .ok s (rvNext r len)
  | 1 => if rvCrew c then rvBad s w else .ok s (rvNext r len)
  | 2 => rvCbo s c r w len
  | _ => rvBad s w

/-! ## System -/

/-- `mret`. -/
def rvMret (r : RvCore) : RvCore :=
  let m := bitsN r.mstatus.toNat 12 11
  let kept : DWord := r.mstatus &&& ~~~0x1888#64
  let mprv : DWord := if m < 3 then kept &&& ~~~0x20000#64 else kept
  { r with pc := r.mepc, mode := m, mstatus := mprv ||| ((r.mstatus &&& 0x80) >>> 4) ||| 0x80 }

/-- `sret`. -/
def rvSret (r : RvCore) : RvCore :=
  let kept : DWord := r.mstatus &&& ~~~0x20122#64
  { r with pc := tget 0 r.csr 0x141, mode := bitsN r.mstatus.toNat 8 8,
           mstatus := kept ||| ((r.mstatus &&& 0x20) >>> 4) ||| 0x20 }

/-- `wrs.nto` and `wrs.sto`: the core stalls at the word while its reservation stands and no interrupt that mie enables is
pending, be MIE or SIE clear; the stall of `wrs.sto` may end at any turn. -/
def rvWrs (s : State) (c : Nat) (r : RvCore) (sto : Bool) (len : Nat) : RvOut :=
  if r.reserve.isNone || rvPending s c r &&& tget 0 r.csr 0x304 != 0 then .ok s (rvNext { r with stalled := false } len)
  else if sto then
    let f := takeFree s
    if f.2 % 2 == 1 then .ok f.1 (rvNext { r with stalled := false } len) else .ok f.1 { r with stalled := true }
  else .ok s { r with stalled := true }

/-- A read and write of a control and status register. -/
def rvCsrOp (s : State) (c : Nat) (r : RvCore) (w len : Nat) : RvOut :=
  let n := bitsN w 31 20
  let f3 := bitsN w 14 12
  let rs1 := bitsN w 19 15
  let v : DWord := if 4 ≤ f3 then BitVec.ofNat 64 rs1 else rx r rs1
  let writes : Bool := f3 % 4 == 1 || rs1 != 0
  if !csrKnown c n || r.mode < bitsN n 9 8 || (writes && bitsN n 11 10 == 3) || (n ≤ 3 && rvFpOff c r) then rvBad s w
  else
    match csrRead s c r n with
    | none => rvBad s w
    | some old =>
      let new : DWord := if f3 % 4 == 1 then v else if f3 % 4 == 2 then old ||| v else old &&& ~~~v
      let r1 := if writes then csrWrite s c r n new else r
      .ok s (rvNext (rxSet r1 (bitsN w 11 7) old) len)

/-- Environment calls, breakpoints, returns, waits and fences of translation. -/
def rvSystem (s : State) (c : Nat) (r : RvCore) (w len : Nat) : RvOut :=
  let full := !rvCrew c
  if bitsN w 14 12 == 4 then rvBad s w
  else if bitsN w 14 12 != 0 then rvCsrOp s c r w len
  else if bitsN w 31 25 == 9 && bitsN w 11 7 == 0 then
    if full && 1 ≤ r.mode && !(r.mode == 1 && r.mstatus.getLsbD 20) then .ok s (rvNext r len) else rvBad s w
  else if bitsN w 11 7 != 0 || bitsN w 19 15 != 0 then rvBad s w
  else
    match bitsN w 31 20 with
    | 0x000 => .trap s (8 + r.mode) 0
    | 0x001 => .trap s 3 r.pc
    | 0x00D => rvWrs s c r false len
    | 0x01D => rvWrs s c r true len
    | 0x102 => if full && 1 ≤ r.mode && !(r.mode == 1 && r.mstatus.getLsbD 22) then .ok s (rvSret r) else rvBad s w
    | 0x302 => if r.mode == 3 then .ok s (if rvCrew c then { rvMret r with mode := 3 } else rvMret r) else rvBad s w
    | 0x105 => if r.mode < 3 && r.mstatus.getLsbD 21 then rvBad s w else .ok s (rvNext r len)
    | _ => rvBad s w

/-! ## Floating point -/

/-- f[n]. -/
def rf (r : RvCore) (n : Nat) : DWord := tget 0 r.f n

/-- f[n] written, with flags. -/
def rfSet (r : RvCore) (n : Nat) (v : DWord) (fl : Word) : RvCore :=
  rvDirty { r with f := tput 0 r.f n v, csr := tput 0 r.csr 3 (tget 0 r.csr 3 ||| fl.setWidth 64) }

/-- x[n] written, with flags. -/
def rxFlags (r : RvCore) (n : Nat) (v : DWord) (fl : Word) : RvCore :=
  let r := rxSet r n v
  if fl == 0 then r else rvDirty { r with csr := tput 0 r.csr 3 (tget 0 r.csr 3 ||| fl.setWidth 64) }

/-- The rounding mode of a word: its own, or that of fcsr; `none` for a reserved one. -/
def rvMode (r : RvCore) (w : Nat) : Option Nat :=
  let m := bitsN w 14 12
  let m := if m == 7 then bitsN (tget 0 r.csr 3).toNat 7 5 else m
  if m ≤ 4 then some m else none

/-- Loads and stores of floating-point registers. -/
def rvFpMem (s : State) (c : Nat) (r : RvCore) (w len : Nat) (store : Bool) : RvOut :=
  let f3 := bitsN w 14 12
  let n := 2 ^ f3
  if rvFpOff c r || (f3 != 2 && f3 != 3) then rvBad s w
  else if store then
    rvAccess s c r true false (rx r (bitsN w 19 15) + immS w) n fun s key =>
      .ok (rvStore s r key n (rf r (bitsN w 24 20)).toNat) (rvNext r len)
  else
    rvAccess s c r false true (rx r (bitsN w 19 15) + immI w) n fun s key =>
      .ok s (rvNext (rfSet r (bitsN w 11 7) (rvBox (f3 == 3) (getBytes s key n)) 0) len)

/-- The fused products: `k` is 0 to 3 for `fmadd`, `fmsub`, `fnmsub` and `fnmadd`. -/
def rvFused (d : Bool) (rm k : Nat) (a b c : Nat) : Nat × Word :=
  let x := rvDecode d a
  let x := if 2 ≤ k then fNeg x else x
  let z := rvDecode d c
  let z := if k == 1 || k == 3 then fNeg z else z
  rvDeliver d rm (fFma (rvZeroMode rm) x (rvDecode d b) z)

/-- The sign operations: `fsgnj`, `fsgnjn` and `fsgnjx`. -/
def rvSignOp (d : Bool) (k a b : Nat) : Nat :=
  let p := rvWidth d - 1
  let neg := match k with
    | 0 => b.testBit p
    | 1 => !b.testBit p
    | _ => a.testBit p != b.testBit p
  a % 2 ^ p + rvSign d neg

/-- Results of the arithmetic that has a rounding mode, by funct5. -/
def rvArith (d : Bool) (rm f5 a b : Nat) : Nat × Word :=
  let x := rvDecode d a
  let y := rvDecode d b
  match f5 with
  | 0 => rvDeliver d rm (fAdd (rvZeroMode rm) x y)
  | 1 => rvDeliver d rm (fAdd (rvZeroMode rm) x (fNeg y))
  | 2 => rvDeliver d rm (fMul x y)
  | 3 => rvDeliver d rm (rvDivide x y)
  | _ => rvDeliver d rm (rvRoot x)

/-- A conversion to an integer register: `k` is 0 to 3 for W, WU, L and LU. -/
def rvFpToInt (d : Bool) (rm k a : Nat) : DWord × Word :=
  let w := if k < 2 then 32 else 64
  let x := rvToInt rm w (k % 2 == 0) (rvDecode d a)
  (if k < 2 then sext32 (BitVec.ofInt 64 x.1) else BitVec.ofInt 64 x.1, x.2)

/-- The integer of a register that a conversion reads. -/
def rvIntOf (k : Nat) (v : DWord) : Int :=
  match k with
  | 0 => (v.setWidth 32).toInt
  | 1 => ((v.setWidth 32).toNat : Int)
  | 2 => v.toInt
  | _ => (v.toNat : Int)

/-- The words of OP-FP that need no rounding mode; `none` where the word is reserved or rounds. -/
def rvFpPlain (r : RvCore) (d : Bool) (w : Nat) : Option RvCore :=
  let rd := bitsN w 11 7
  let rm := bitsN w 14 12
  let v := rf r (bitsN w 19 15)
  let a := rvUnbox d v
  let b := rvUnbox d (rf r (bitsN w 24 20))
  let rs2 := bitsN w 24 20
  match bitsN w 31 27 with
  | 4 => if rm ≤ 2 then some (rfSet r rd (rvBox d (rvSignOp d rm a b)) 0) else none
  | 5 =>
    if rm ≤ 1 then
      let x := rvMinMax d (rm == 1) a b
      some (rfSet r rd (rvBox d x.1) x.2)
    else none
  | 0x14 =>
    if rm ≤ 2 then
      let x := rvCompare d rm a b
      some (rxFlags r rd (dwIf x.1) x.2)
    else none
  | 0x1C =>
    if rs2 != 0 then none
    else if rm == 0 then some (rxSet r rd (if d then v else sext32 v))
    else if rm == 1 then some (rxSet r rd (BitVec.ofNat 64 (rvClassify d a)))
    else none
  | 0x1E =>
    if rs2 == 0 && rm == 0 then
      some (rfSet r rd (rvBox d ((rx r (bitsN w 19 15)).toNat % 2 ^ rvWidth d)) 0)
    else none
  | _ => none

/-- The words of OP-FP that round. -/
def rvFpRound (r : RvCore) (d : Bool) (rm w : Nat) : Option RvCore :=
  let rd := bitsN w 11 7
  let a := rvUnbox d (rf r (bitsN w 19 15))
  let b := rvUnbox d (rf r (bitsN w 24 20))
  let rs2 := bitsN w 24 20
  let put (x : Nat × Word) : RvCore := rfSet r rd (rvBox d x.1) x.2
  match bitsN w 31 27 with
  | 0 => some (put (rvArith d rm 0 a b))
  | 1 => some (put (rvArith d rm 1 a b))
  | 2 => some (put (rvArith d rm 2 a b))
  | 3 => some (put (rvArith d rm 3 a b))
  | 0xB => if rs2 == 0 then some (put (rvArith d rm 0xB a b)) else none
  | 8 =>
    if rs2 == (if d then 0 else 1) then
      some (put (rvRound d rm (rvDecode (!d) (rvUnbox (!d) (rf r (bitsN w 19 15))))))
    else none
  | 0x18 =>
    if rs2 ≤ 3 then
      let x := rvFpToInt d rm rs2 a
      some (rxFlags r rd x.1 x.2)
    else none
  | 0x1A => if rs2 ≤ 3 then some (put (rvRound d rm (fOfInt (rvIntOf rs2 (rx r (bitsN w 19 15)))))) else none
  | _ => none

/-- A floating-point word. -/
def rvFp (s : State) (c : Nat) (r : RvCore) (w len : Nat) : RvOut :=
  let d := bitsN w 26 25 == 1
  if rvFpOff c r || 1 < bitsN w 26 25 then rvBad s w
  else
    match (rvFpPlain r d w).or ((rvMode r w).bind fun rm => rvFpRound r d rm w) with
    | some r => .ok s (rvNext r len)
    | none => rvBad s w

/-- A fused product. -/
def rvFma (s : State) (c : Nat) (r : RvCore) (w len k : Nat) : RvOut :=
  let d := bitsN w 26 25 == 1
  let arg (n : Nat) : Nat := rvUnbox d (rf r n)
  if rvFpOff c r || 1 < bitsN w 26 25 then rvBad s w
  else
    match rvMode r w with
    | none => rvBad s w
    | some rm =>
      let x := rvFused d rm k (arg (bitsN w 19 15)) (arg (bitsN w 24 20)) (arg (bitsN w 31 27))
      .ok s (rvNext (rfSet r (bitsN w 11 7) (rvBox d x.1) x.2) len)

/-! ## One word -/

/-- A result for x[rd], or a reserved word. -/
def rvResult (s : State) (r : RvCore) (w len : Nat) (x : Option DWord) : RvOut :=
  match x with
  | some v => .ok s (rvNext (rxSet r (bitsN w 11 7) v) len)
  | none => rvBad s w

/-- A jump, with the address after the word in x[rd]. -/
def rvJump (s : State) (r : RvCore) (w len : Nat) (to_ : DWord) : RvOut :=
  .ok s { rxSet r (bitsN w 11 7) (r.pc + BitVec.ofNat 64 len) with pc := to_ }

/-- A word of 32 bits, which takes `len` bytes in memory, by its major opcode. -/
def rvWord (s : State) (c : Nat) (r : RvCore) (w len : Nat) : RvOut :=
  match bitsN w 6 0 with
  | 0x37 => rvResult s r w len (some (immU w))
  | 0x17 => rvResult s r w len (some (r.pc + immU w))
  | 0x6F => rvJump s r w len (r.pc + immJ w)
  | 0x67 => if bitsN w 14 12 != 0 then rvBad s w else rvJump s r w len ((rx r (bitsN w 19 15) + immI w) &&& ~~~1#64)
  | 0x63 =>
    match rvBranch (bitsN w 14 12) (rx r (bitsN w 19 15)) (rx r (bitsN w 24 20)) with
    | none => rvBad s w
    | some t => .ok s (if t then { r with pc := r.pc + immB w } else rvNext r len)
  | 0x03 => rvLoad s c r w len
  | 0x23 => rvStoreOp s c r w len
  | 0x13 => rvResult s r w len (rvOpImm r w)
  | 0x1B => rvResult s r w len (rvOpImm32 r w)
  | 0x33 => rvResult s r w len (rvOp r w)
  | 0x3B => rvResult s r w len (rvOp32 r w)
  | 0x0F => rvFence s c r w len
  | 0x73 => rvSystem s c r w len
  | 0x2F => rvAmo s c r w len
  | 0x07 => rvFpMem s c r w len false
  | 0x27 => rvFpMem s c r w len true
  | 0x43 => rvFma s c r w len 0
  | 0x47 => rvFma s c r w len 1
  | 0x4B => rvFma s c r w len 2
  | 0x4F => rvFma s c r w len 3
  | 0x53 => rvFp s c r w len
  | _ => rvBad s w

/-- A core executes the word at its program counter; an instruction that retires counts on minstret. -/
def rvExec (s : State) (c w : Nat) : State :=
  let r := getRv s c
  let out := match rvExpand (!rvCrew c) w with
    | none => rvBad s w
    | some x => rvWord s c r x (if w % 4 == 3 then 4 else 2)
  match out with
  | .ok s r1 => putRv s c { r1 with csr := if r1.stalled then r1.csr else tput 0 r1.csr 0xB02 (tget 0 r1.csr 0xB02 + 1) }
  | .trap s cause tval => putRv s c (rvTrap c r false cause tval)

/-! ## Reservations (R326) -/

/-- A reservation goes with a write into its eight bytes, be the value what they held, and a core that stalls on it goes on
(R271, R326). -/
def breakReservations (s : State) : State :=
  if s.written.isEmpty then s
  else
    { s with written := [], rv := s.rv.map fun r =>
        if r.2.reserve.any s.written.contains then (r.1, { r.2 with reserve := none, stalled := false }) else r }

end Sys2Proof.Machine
end

