-- ==== Sys2Proof/Machine/Schedule.lean ====
section
/-!
DEFINITION. Which turn comes next and what it does (log 1): readiness and the choice of a program counter (R295 to R298,
R140), fetching a group's word (R59, R60, R82), the events that are due, and what follows at once from a turn.
-/

namespace Sys2Proof.Machine

/-! ## Readiness (R295) -/

/-- The mask of the `waitf` at which a thread stands, where its word is at hand. -/
def waitfMask (s : State) (e : Env) (pc : Nat) : Option (BitVec 12) :=
  match fetchWord s e.ctx e.group.die pc with
  | (.ok .., w) => (match decodeThread w none with | .ok (.waitf _ m) => some m | _ => none)
  | _ => none

/-- Threads that stand at one word of one block: an execution is of lanes of one block, since the block's header says
where the word ends it and which flag it counts on. Lanes of another block at that address follow in the same slot
(R59, R62, R296; log 1). -/
def sameWord (t x : Thread) : Bool := x.status == t.status && x.pc == t.pc && x.hdr == t.hdr && x.hword == t.hword

/-- Lanes that stand at one word in one wait, lowest first. -/
def sameWait (g : Group) (t : Thread) : List Nat :=
  (g.threads.filter fun x => sameWord t x && x.stall == t.stall).map (·.lane)

/-- A queue serves the waiter of `k` entries that a thread belongs to (R192). -/
def queueTurn (e : Env) (t : Thread) (q k : Nat) (push : Bool) : Bool :=
  let x := teamQueue e.team q
  !waiterBefore x ((sameWait e.group t).map (e.group.gid * 64 + ·)) push && (if push then canPush x k else canPop x k)

/-- Lanes that stand at a cross-lane word. -/
def crossLanes (g : Group) (pc : Nat) : List Nat :=
  (g.threads.filter fun t => t.status == .block && t.pc == pc && (t.stall.isNone || t.stall == some .cross)).map (·.lane)

/-- The walk that a thread waits for has ended, or was never taken and can be taken now (R339). -/
def walkOver (s : State) (e : Env) (v : Nat) : Bool :=
  let d := getDie s e.group.die
  (tlbFind d e.ctx.asid v).isSome || d.wfaults.any (fun w => w.1 == e.ctx.asid && w.2.1 == v) ||
  (!d.walks.contains (e.ctx.asid, v) && d.walks.length < walkRoom)

/-- The instruction at which a thread waits may issue again. The waits that end by an event are not among these. -/
def stallOver (s : State) (e : Env) (t : Thread) : Stall → Bool
  | .held | .flags | .sleep _ | .bar .. | .pontoon _ | .ship | .heat => false
  | .cross => mayMeet e.group (crossLanes e.group t.pc) t.pc
  | .xlate v => walkOver s e v
  | .backing asid lfn _ =>
    ((getCtx s asid).bind (frameOf · lfn)).isSome || !s.backing.any fun b => b.asid == asid && b.lfn == lfn
  | .line k | .met (some k) _ => !s.empties.contains k
  | .met none m => !e.group.threads.any fun x => m.testBit x.lane && acquiring e.group x.lane
  | .acquire => !acquiring e.group t.lane
  | .waitf => !(waitfMask s e t.pc).any fun m => maskBusy e.group m.toNat
  | .barMb n k => k < tget 0 e.team.seq.mbSig n || streamOver e.team.seq
  | .qpush q k => queueTurn e t q k true
  | .qpop q k => queueTurn e t q k false
  | .fewait key n => (lineEmpty s key n).isNone
  | .timeline key n => tlOver s e.grid key n
  | .migr => othersMeet e.group (sameWait e.group t)
  | .migrFlags => !maskBusy e.group 0xFFF

/-- Opcodes of the long-latency instructions of R67, whose SS is bit 0. -/
def opCounts (op : Nat) : Bool :=
  (0x60 ≤ op && op ≤ 0x6B && op != 0x64 && op != 0x65) || (0x70 ≤ op && op ≤ 0x76) || op == 0xC6

/-- The word at which a thread stands does not issue: its flag's counter is at 255 (R69), or it is a `kick` and the
core's kick queue is full (R186). -/
def wordHeld (s : State) (e : Env) (t : Thread) : Bool :=
  let full := kicksFull s e.group
  t.status == .block && (full || e.group.flags.any fun f => 255 ≤ f.2) &&
  match fetchWord s e.ctx e.group.die t.pc with
  | (.ok .., w) =>
    (full && fOp w == 0xB1) || (opCounts (fOp w).toNat && flagFull e.group (slotFlag t (w.getLsbD 0)))
  | _ => false

/-- A thread can issue its next word (R65, R67, R69, R73, R140). One that stands at a header has entered none, and one that
has come to a word that may wait has tried it as the die cycle began (`attemptTurn`). -/
def ready (s : State) (e : Env) (t : Thread) : Bool :=
  t.status == .block && !wordHeld s e t && t.stall.all (stallOver s e t)

/-- A thread has come to a header, and its word can be fetched. -/
def canEnter (s : State) (e : Env) (t : Thread) : Bool :=
  t.status == .header && match t.stall with
  | none => true
  | some (.xlate v) => walkOver s e v
  | some (.backing a l v) => stallOver s e t (.backing a l v)
  | some _ => false

/-- A group stands on a core whose die runs (R229, R359). -/
def canIssue (s : State) (g : Group) : Bool := !g.retired && g.ship.isNone && dieUp s g.die

/-- A thread comes before another: longest without issue, lowest lane (R296). -/
def comesFirst (a b : Thread) : Bool := a.lastIssue < b.lastIssue || (a.lastIssue == b.lastIssue && a.lane ≤ b.lane)

/-- The first of the ready threads. -/
def firstThread : List Thread → Option Thread
  | [] => none
  | t :: ts =>
    match firstThread ts with
    | none => some t
    | some x => if comesFirst t x then some t else some x

/-- The lanes that issue together with a thread: every ready one at its word of its block (R296). -/
def issueLanes (s : State) (e : Env) (t : Thread) : List Nat :=
  (e.group.threads.filter fun x => ready s e x && sameWord t x).map (·.lane)

/-- The first ready lane inside another block at the program counter of a thread: the slot serves it too (R296). -/
def alsoLane (s : State) (e : Env) (t : Thread) : Option Nat :=
  (e.group.threads.find? fun x => x.pc == t.pc && !sameWord t x && ready s e x).map (·.lane)

/-! ## A group's issue -/

/-- What a turn does: nothing more, an instruction in a state where it is in progress, or a stop. -/
inductive TurnPlan where
  | rest (s : State)
  | go (i : Instr) (s : State)
  /-- an instruction that is tried in the second state: what it waits for begins; one that would issue leaves the first -/
  | attempt (s0 : State) (i : Instr) (s : State)
  /-- a step of the device, done -/
  | did (o : Host.Outcome State Fault Refusal)

/-- The next issue stamp: each execution has its own (R296, R313). -/
def markIssue (s : State) : State := { s with stamp := s.stamp + 1 }

/-- A word that is not at hand, or does not come (R339, R340, R336). -/
def fetchStall (s : State) (c : Cur) (e : Env) (x : Xlat) (pc : Nat) : State :=
  match x with
  | .ok .. => s
  | .miss v => stallXlate s c e [v]
  | .unbacked r =>
    c.lanes.foldl (fun s l => modLane s c.gid l fun t => { t with stall := some (.backing r.asid r.lfn r.vpn) }) (askBacking s r)
  | .fault cls sub level =>
    dropWalkFaults
      (raise s e c.pc c.lanes (c.lanes.map fun l => (l, { cls := cls, sub := sub, level := level, addr := pc })) false)
      e.group.die e.ctx.asid [pc / 4096]

/-- The instruction of a word: one that the decoder refuses is an illegal instruction (R82). -/
def threadInstr (w : DWord) (lit : Option DWord) : Instr :=
  match decodeThread w lit with
  | .ok i => i
  | .error _ => .unassignedOpcode (fGuard w) (fOp w)

/-- An execution of `n` words at `pc` in a block from `h` to `stop`. -/
def curOf (gid : Nat) (lanes : List Nat) (pc n h stop : Nat) : Cur :=
  { gid := gid, lanes := lanes, pc := pc, next := pc + 8 * n, first := pc == h + 8, last := pc + 8 * n == stop }

/-- The word of a block for the lanes that stand at it. Whether it is two words long is read from its opcode alone, for a
word with bit 63 set too, which is no instruction: a lane whose guard is false passes both of its words (R59, R82;
log 103). -/
def issueWord (s : State) (e : Env) (lanes : List Nat) (t : Thread) : TurnPlan :=
  let gid := e.group.gid
  let c1 := curOf gid lanes t.pc 1 t.hdr (blockEnd t)
  match fetchWord s e.ctx e.group.die t.pc with
  | (.ok .., w) =>
    if opLong (fOp w) && t.pc + 8 < blockEnd t then
      match fetchWord s e.ctx e.group.die (t.pc + 8) with
      | (.ok .., lit) =>
        .go (threadInstr w (some lit))
          { countFetch (countFetch s e.ctx e.group.die t.pc) e.ctx e.group.die (t.pc + 8) with
            cur := some (curOf gid lanes t.pc 2 t.hdr (blockEnd t)) }
      | (x, _) => .rest (fetchStall s c1 e x (t.pc + 8))
    else .go (threadInstr w none) { countFetch s e.ctx e.group.die t.pc with cur := some c1 }
  | (x, _) => .rest (fetchStall s c1 e x t.pc)

/-- A group issues for a thread and for those that stand with it; the lanes of another block at that program counter
come next. -/
def issueFor (s : State) (e : Env) (t : Thread) : TurnPlan :=
  let more := ((alsoLane s e t).map fun l => Turn.also e.group.gid l t.pc).toList
  issueWord (markIssue { s with agenda := more ++ s.agenda }) e (issueLanes s e t) t

/-- A group's turn (R296). -/
def issueTurn (s : State) (gid : Nat) : TurnPlan :=
  match env s gid with
  | none => .rest s
  | some e =>
    if !canIssue s e.group then .rest s
    else
      match firstThread (e.group.threads.filter (ready s e)) with
      | none => .rest s
      | some t => issueFor s e t

/-- The slot of a group goes on with the block of a lane, if it still stands at the slot's program counter. -/
def alsoTurn (s : State) (gid lane pc : Nat) : TurnPlan :=
  match env s gid with
  | none => .rest s
  | some e =>
    match e.group.threads.find? (·.lane == lane) with
    | none => .rest s
    | some t => if canIssue s e.group && ready s e t && t.pc == pc then issueFor s e t else .rest s

/-! ## What goes before the slots of a die cycle -/

/-- The threads of a group that have come to a header enter it: the core reads the header's word, and no slot is used
(R65, R295). -/
def enterTurn (s : State) (gid pc : Nat) : TurnPlan :=
  match env s gid with
  | none => .rest s
  | some e =>
    let lanes := (e.group.threads.filter fun t => canEnter s e t && t.pc == pc).map (·.lane)
    if canIssue s e.group && !lanes.isEmpty then .go .enterHeader { s with cur := some (curOf gid lanes pc 1 pc pc) }
    else .rest s

/-- The instructions that may wait where a thread stands: those of R73, and the cross-lane ones (R140). -/
def mayWait : Instr → Bool
  | .barwait .. | .barwaitMb .. | .qpush .. | .qpop .. | .waitf .. | .sleep .. | .fewait .. | .tlwaitR .. | .tlwaitI ..
  | .migr .. | .contend ..
  | .shflIdxR .. | .shflUpR .. | .shflDownR .. | .shflXorR .. | .shflIdxC .. | .shflUpC .. | .shflDownC .. | .shflXorC ..
  | .vote .. | .redux .. | .scan .. | .matchv .. | .elect .. => true
  | _ => false

/-- A thread that has come to such a word tries it: if the word would not issue, the thread begins to wait there, and
otherwise it stands ready (R73, R140, R295). -/
def attemptTurn (s : State) (gid lane : Nat) : TurnPlan :=
  match env s gid with
  | none => .rest s
  | some e =>
    match e.group.threads.find? (·.lane == lane) with
    | none => .rest s
    | some t =>
      if canIssue s e.group && t.stall.isNone && ready s e t then
        match issueWord s e (issueLanes s e t) t with
        | .go i s1 => if mayWait i then .attempt s i s1 else .rest s
        | _ => .rest s
      else .rest s

/-! ## The slots of a die cycle (R295) -/

/-- A group is ready: one of its threads can issue. -/
def groupReady (s : State) (g : Group) : Bool :=
  canIssue s g && (env s g.gid).any fun e => g.threads.any (ready s e)

/-- The band of a group: that of its grid (R295). -/
def groupBand (s : State) (g : Group) : Nat := (((getTeam s g.tid).bind fun t => getGrid s t.grid).map (·.band)).getD 0

/-- Groups that stand on a core. -/
def standingOn (s : State) (die core : Nat) : List Group :=
  s.groups.filter fun g => g.die == die && g.core == core && !g.retired

/-- How long a group of a core has stood ready, as a die cycle begins. -/
def markReady (s : State) (cycle : Nat) (g : Group) : Group :=
  if groupReady s g then ageMark cycle { g with since := g.since.or (some cycle) }
  else { g with since := none, aged := none, passed := 0 }

/-- The groups of a core as a die cycle begins. -/
def beginCycle (s : State) (die core cycle : Nat) : State :=
  { s with groups := s.groups.map fun g =>
      if g.die == die && g.core == core && !g.retired then markReady s cycle g else g }

/-- Stamp of a group's last issue. -/
def lastTurn (g : Group) : Nat := (g.threads.map (·.lastIssue)).foldl max 0

/-- The rank of a group in the order of R295: by rule 1, the cycle in which it reached its limit and its age; by rule 2,
its age; by rule 3, its band, its age, and its last slot. The lowest comes first. -/
def slotRank (s : State) (g : Group) : List Nat :=
  match g.aged with
  | some c => [0, c, g.born, g.gid]
  | none =>
    if 64 ≤ g.passed then [1, g.born, g.gid]
    else [2, 3 - min 3 (groupBand s g), g.born, lastTurn g, g.gid]

/-- A rank is below another. -/
def rankBelow : List Nat → List Nat → Bool
  | x :: xs, y :: ys => x < y || (x == y && rankBelow xs ys)
  | _, _ => false

/-- The group of lowest rank. -/
def firstGroup (s : State) : List Group → Option Group
  | [] => none
  | g :: gs =>
    match firstGroup s gs with
    | none => some g
    | some x => if rankBelow (slotRank s x) (slotRank s g) then some x else some g

/-- Lanes of the core on which a group's next slot would issue for a thread that has yielded (R101). -/
def yieldedOn (s : State) (g : Group) : List Nat :=
  match env s g.gid with
  | none => []
  | some e =>
    match firstThread (g.threads.filter (ready s e)) with
    | none => []
    | some t =>
      let ls := issueLanes s e t
      (g.threads.filter fun x => x.yielded && ls.contains x.lane).map (g.base + ·.lane)

/-- A group has a ready thread on a lane of its core. -/
def readyOn (s : State) (lanes : List Nat) (g : Group) : Bool :=
  (env s g.gid).any fun e => g.threads.any fun t => lanes.contains (g.base + t.lane) && ready s e t

/-- The other ready groups of the core that have a ready thread on a lane whose thread of this group has yielded. -/
def yieldsTo (s : State) (rs : List Group) (g : Group) : List Nat :=
  match yieldedOn s g with
  | [] => []
  | ys => (rs.filter fun x => x.gid != g.gid && readyOn s ys x).map (·.gid)

/-- The group that a slot goes to, of the ready ones of a core that have not been served in the die cycle: the first in
rank. By rule 3, one whose lanes have yielded comes after the groups that it yields to, and where one of those has been
served it gets no slot in this die cycle (R101; log 1). -/
def pickGroup (s : State) (rs : List Group) (served : List Nat) : Option Group :=
  let cs := rs.filter fun g => !served.contains g.gid
  match firstGroup s cs with
  | none => none
  | some g =>
    if g.aged.isSome || 64 ≤ g.passed then some g
    else
      let ds := cs.filter fun x => !(yieldsTo s rs x).any served.contains
      (firstGroup s (ds.filter fun x => (yieldsTo s rs x).isEmpty)).or
        (firstGroup s (ds.filter fun x => (yieldsTo s rs x).all fun y => ds.any (·.gid == y)))

/-- A slot is granted: the group's counts of readiness begin anew, and the other ready groups of its band on the core
have stood through one slot more. -/
def grantSlot (s : State) (rs : List Group) (g : Group) : State :=
  { s with groups := s.groups.map fun x =>
      if x.gid == g.gid then { x with since := none, aged := none, passed := 0 }
      else if rs.any (·.gid == x.gid) && groupBand s x == groupBand s g then { x with passed := x.passed + 1 }
      else x }

/-- The groups of a core that are ready. -/
def readyGroups (s : State) (die core : Nat) : List Group := (standingOn s die core).filter fun g => groupReady s g

/-- Headers that threads of a group have come to. -/
def entersOf (s : State) (g : Group) : List Turn :=
  match env s g.gid with
  | none => []
  | some e => ((g.threads.filter (canEnter s e)).map (·.pc)).dedup.map (.enter g.gid)

/-- A word that may wait. -/
def waitWord (w : DWord) : Bool := mayWait (threadInstr w none)

/-- Threads of a group, one for each word, that have come to a word that may wait. -/
def attemptsOf (s : State) (g : Group) : List Turn :=
  match env s g.gid with
  | none => []
  | some e =>
    let ts := g.threads.filter fun t => t.status == .block && t.stall.isNone &&
      match fetchWord s e.ctx g.die t.pc with | (.ok .., w) => waitWord w | _ => false
    (ts.filter fun t => (ts.find? (sameWord t)).any (·.lane == t.lane)).map fun t => .attempt g.gid t.lane

/-- The part of a core's die cycle that comes next: headers are entered, words that may wait are tried, and then the
core grants its four slots, each to another ready group. -/
def slotTurn (s : State) (die core cycle left : Nat) (served : List Nat) : State :=
  let goOn (ts : List Turn) (left : Nat) : State := { s with agenda := ts ++ .slots die core cycle left served :: s.agenda }
  match left with
  | 0 => s
  | 6 => goOn ((standingOn s die core).flatMap (entersOf s)) 5
  | 5 => goOn ((standingOn s die core).flatMap (attemptsOf s)) 4
  | n =>
    let s := if n == 4 then beginCycle s die core cycle else s
    match pickGroup s (readyGroups s die core) served with
    | none => s
    | some g => { s with agenda := .issue g.gid :: .slots die core cycle (n - 1) (g.gid :: served) :: s.agenda }

/-- A group's slot comes back where no word was issued in it: the core may serve the group for another program counter. -/
def giveBack (gid : Nat) : List Turn → List Turn
  | .also g l p :: ts => if g == gid then giveBack gid ts else .also g l p :: ts
  | .slots d c y left served :: ts =>
    if served.contains gid then .slots d c y (left + 1) (served.filter (· != gid)) :: ts else .slots d c y left served :: ts
  | ts => ts

/-! ## The device's own steps -/

/-- The receiver of a mailbox takes its oldest message, by the step of its type. -/
def runMail (b : Nat) (s : State) : Host.Outcome State Fault Refusal :=
  match (mailAt s b).head? with
  | none => .next s
  | some m =>
    if m.type == 0xFF || !(mailTypes b).contains m.type.toNat then execNak b s
    else
      match m.type.toNat with
      | 0x01 => execMsgCommandTaken s | 0x02 => execMsgSeedGangReady s | 0x03 => execMsgGangPlaced s
      | 0x04 => execMsgTeamOrGangRetired s | 0x05 => execMsgCommandFinished s | 0x10 => execMsgErrorReport s
      | 0x20 => execMsgPageHome b s | 0x30 => execMsgKeySlot b s | 0x40 => execMsgClockPowerBudget (b - 16) s
      | 0x50 => execMsgCheckpointStep b s | _ => execNak b s

/-- The work on a queue's active command, by its OPC. -/
def runCommand (vf q : Nat) (s : State) : Host.Outcome State Fault Refusal :=
  match (getFunc s vf).bind fun f => activeCmd (cmdQueue f q) with
  | none => .next s
  | some m =>
    if cmdOpc m == 2 then execWaitCommand vf q s else if cmdOpc m == 3 then execNopCommand vf q s
    else execLaunchCommand vf q s

/-- The meaning of a step that is due: that of its row of the opcode table. -/
def runDue (d : Due) (s : State) : Host.Outcome State Fault Refusal :=
  match d with
  | .doorbell m => execMailboxDoorbell m s
  | .mail b => runMail b s
  | .update h i => execMultikernelUpdate h i s
  | .commandTake => execCommandTake s
  | .command vf q => runCommand vf q s
  | .commandAccept vf q => execCommandAccept vf q s
  | .commandFinish vf q => execCommandFinish vf q s
  | .gangPlacement vf => execGangPlacement vf s
  | .dutyTimeout vf ix => execDutyTimeout vf ix s
  | .heatStart l => execHeatStart l s
  | .heatResult l => execHeatResult l s
  | .ncopyAccept n => execNcopyAccept n s
  | .ncopyFinish n => execNcopyFinish n s
  | .bankStore g o => execBankStoreEncode g o s
  | .bankRmw g o => execBankRmw g o s
  | .flagCompletion g o => execFlagCompletion g o s
  | .sleepExpiry g l => execSleepExpiry g l s
  | .exitTakesEffect g l => execExitTakesEffect g l s
  | .progressRule g => execProgressRuleRelease g s
  | .ageLimit g => execIssueAgeLimit g s
  | .wordLimit g => execPreemptWordLimit g s
  | .secondLimit g => execPreemptSecondLimit g s
  | .handlerEntry g => execHandlerEntry g s
  | .migrationResume g => execMigrationResume g s
  | .pontoonRetry d => execMigrPontoonRetry d s
  | .transferLanding x => execTransferLanding x s
  | .requestAccept d c => execRequestAccept d c s
  | .requestStatus r => execRequestStatusWrite r s
  | .recordWrite a => execFaultRecordWrite a s
  | .teamRetirement t => execTeamRetirement t s
  | .gridEndFlush g => execGridEndFlush g s
  | .imageSealed k => execGangImageSealed k s
  | .walk d => execTranslationWalk d s
  | .backing => execFrameBacking s
  | .rehomeWindow => execRehomeWindowEnd s
  | .rehomeComplete a l => execRehomeComplete a l s
  | .scrub d => execScrubFrame d s
  | .patrol d a l => execPatrolRead d a l [] s
  | .clock d => execClockChange d s
  | .dieReset d => execDieResetComplete d s
  | .trip d => execThermalTrip d s
  | .moduleTrip => execModuleThermalTrip s
  | .partition => .next (partitionStep s)
  | .checkpoint => .next (checkpointStep s)
  | .easyAll x => execEasyAll x s
  | .easyDrained x => execEasyAllDrained x s
  | .easyTimeout x => execEasyAllTimeout x s

/-! ## The other turns -/

/-- The die of a RISC-V core runs. -/
def rvUp (s : State) (c : Nat) : Bool := dieUp s (rvDie c)

/-- A RISC-V core's turn: an interrupt, the end of its task, or the word at its program counter: a custom-0 word is an
instruction of the table, and every other one is RISC-V's (R93, R94, R245, R314). -/
def coreTurn (s : State) (c : Nat) : TurnPlan :=
  let r := getRv s c
  if !r.busy || r.halted || !rvUp s c then .rest s
  else
    match rvInterrupt s c with
    | some s => .rest s
    | none =>
      if c < 32 && r.pc == 0 then .go (.xdispTaskEnd c) s
      else
        match rvFetch s c with
        | (s, none) => .rest (rvFetchFault s c)
        | (s, some w) =>
          match decodeXvexrus c w with
          | some i => .go i { s with rvCur := some c }
          | none => .rest (rvExec s c w.toNat)

/-- The host or a peer writes bytes of one frame of host memory as a posted write (R249, R272); a write outside the
context's host aperture reaches nothing. Its reads change nothing here, so they are no turn (log 2). -/
def hostWrite (s : State) (asid lfn off n v : Nat) : State :=
  if lfn < Config.hostFrames asid && off + n ≤ 4096 then
    let key := keyHst asid lfn off
    clearPoison (noteWrite { s with mem := memWrite s.mem key n v } key n) [(key, n)]
  else s

/-- What a turn does. -/
def planTurn (s : State) : Turn → TurnPlan
  | .issue gid => issueTurn s gid
  | .also gid lane pc => alsoTurn s gid lane pc
  | .enter gid pc => enterTurn s gid pc
  | .attempt gid lane => attemptTurn s gid lane
  | .slots die core cycle left served => .rest (slotTurn s die core cycle left served)
  | .sequencer tid =>
    (match Sys2Proof.Machine.seqTurn s tid with
     | .rest s => .rest s
     | .go i s => .go i s)
  | .due d => .did (runDue d s)
  | .core c => coreTurn s c
  | .event i => .go i s
  | .host asid lfn off n v => .rest (hostWrite s asid lfn off n v)
  | .mka port => .rest (mkaAgreed s port)
  | .tick => .rest (if s.boot.powered then tickState s else s)

/-! ## What follows from a turn -/

/-- A wait that begins as its instruction issues and that an event ends. -/
def stallBegun : Stall → Bool
  | .sleep _ | .bar .. | .pontoon _ | .ship | .heat => true
  | _ => false

/-- The word of the execution in progress was issued: a lane left it, or began at it a wait that an event ends. -/
def wordIssued (s : State) (c : Cur) : Bool :=
  c.lanes.any fun l => !(getLane s c.gid l).any fun t =>
    t.status == .block && t.pc == c.pc && !t.stall.any stallBegun

/-- Lanes of an execution that it parked, with a record or until a frame is backed (R313, R336). -/
def parkedLanes (s : State) (c : Cur) : Nat :=
  laneMask (c.lanes.filter fun l => (getLane s c.gid l).any fun t =>
    t.pc == c.pc && match t.status with | .parked .. => true | _ => t.stall.any stallBacking)

/-- The operations that an execution issued name the lanes that it parked: what their banks find poisoned is of the same
execution (R160, R313). -/
def shareOps (stamp more : Nat) (g : Group) : Group :=
  { g with ops := g.ops.map fun o =>
      if o.exec.stamp == stamp then { o with exec := { o.exec with parked := o.exec.parked ||| more } } else o }

/-- The counts of R76 and R298 after an issued word. -/
def countWords (s : State) (c : Cur) : State :=
  let n := (c.next - c.pc) / 8
  modGroup s c.gid fun g =>
    { g with words := g.words + n,
             threads := g.threads.map fun t =>
               if (t.stall == some .held || t.stall == some .cross) && !c.lanes.contains t.lane then
                 { t with holdWords := t.holdWords + n }
               else t }

/-- An instruction makes a lane give way: a `yield` or `sleep 0` whose guard is true there (R101, R103). -/
def givesWay (i : Instr) (t : Thread) : Bool :=
  match i with
  | .yield g => guardOf g t
  | .sleep g n => n == 0 && guardOf g t
  | _ => false

/-- The lanes of an execution, a meeting's others included (R140). -/
def issuedLanes (s : State) (c : Cur) (g : Group) : List Nat :=
  (g.threads.filter fun t => c.lanes.contains t.lane || t.lastIssue == s.stamp).map (·.lane)

/-- Lanes of a core have had a turn (R101, R296): its stamp, and the ways that other threads of those lanes gave are met. -/
def spendTurns (i : Instr) (s : State) (c : Cur) : State :=
  match getGroup s c.gid with
  | none => s
  | some g0 =>
    let ls := issuedLanes s c g0
    let own (t : Thread) : Thread :=
      if ls.contains t.lane then { t with lastIssue := s.stamp, yielded := t.yielded && givesWay i t } else t
    let other (g : Group) (t : Thread) : Thread :=
      if ls.any (fun l => g0.base + l == g.base + t.lane) then { t with yielded := false } else t
    { s with groups := s.groups.map fun g =>
        if g.gid == c.gid then { g with threads := g.threads.map own }
        else if g.die == g0.die && g.core == g0.core then { g with threads := g.threads.map (other g) }
        else g }

/-- After a word: its counts, its lanes' turns, the lanes that it parked toward the records of its poisoned reads (R160,
R313), and the errors of its lanes' register files, which it has read (R382; log 93). Entering a header issues no word. -/
def afterWord (i : Instr) (s : State) : State :=
  match s.cur with
  | none => s
  | some c =>
    if i == .enterHeader || !wordIssued s c then s
    else
      let m := parkedLanes s c
      let s := modGroup (spendTurns i (countWords s c) c) c.gid fun g => shareOps s.stamp m (shareDue s.stamp m g)
      meetUpsets s (c.lanes.map fun l => (keyRegs c.gid l, 8192))

/-- The slot of a group issued a word. -/
def slotUsed (s : State) (gid : Nat) : Bool := s.cur.any fun c => c.gid == gid && wordIssued s c

/-- After a group's slot, taken at `s`: it counts as granted if a word was issued in it; if the thread that it was for now
waits, the slot comes back (R295). -/
def closeSlot (s s' : State) (gid : Nat) : State :=
  match env s gid with
  | none => s'
  | some e =>
    if slotUsed s' gid then
      grantSlot s' ((readyGroups s e.group.die e.group.core).filter fun x => x.gid != gid) e.group
    else
      let waits := (firstThread (e.group.threads.filter (ready s e))).all fun t =>
        !((env s' gid).any fun e => (getLane s' gid t.lane).any (ready s' e))
      if waits then { s' with agenda := giveBack gid s'.agenda } else s'

/-- Nothing is in progress; holds, waits and pending pre-emptions that are over end, and the barriers of die cycles that
have ended are tested. -/
def settle (s : State) : State :=
  let s := runTests { s with cur := none, seqCur := none, rvCur := none }
  takeStopping ((s.groups.map (·.gid)).foldl settleGroup s)

/-! ## Events that are due -/

/-- The first message of each receiver. -/
def firstMails : List Mail → List Mail
  | [] => []
  | m :: ms => m :: (firstMails ms).filter fun x => mailBoxOf x != mailBoxOf m

/-- Doorbells, messages and updates. -/
def mailDue (s : State) : List Due :=
  (firstMails s.outbox).map .doorbell ++ (s.mail.filterMap fun b => b.2.head?.map fun _ => .mail b.1) ++
  ((s.updates.map (·.home)).dedup.flatMap fun h => s.liveInst.map (.update h))

/-- The work on a queue's commands. -/
def queueDue (vf : Nat) (x : CQueue) : List Due :=
  (if (activeCmd x).isSome then [.command vf x.q] else []) ++
  (if x.cmds.any fun c => match c.status with | .created _ => true | _ => false then [.commandAccept vf x.q] else []) ++
  (match x.cmds.head? with
   | some m => (match m.status with | .finished _ => [.commandFinish vf x.q] | _ => [])
   | none => [])

/-- Commands, placement and duty timeouts. -/
def commandDue (s : State) : List Due :=
  (if (nextQueue s).isSome then [.commandTake] else []) ++
  (s.funcs.flatMap fun f =>
    f.queues.flatMap (queueDue f.vf) ++ (if f.placement.isEmpty then [] else [.gangPlacement f.vf]) ++
    (f.duties.filter fun d => !d.timedOut && d.posted + 200000000 ≤ s.cox).map fun d => .dutyTimeout f.vf d.ix)

/-- Heats. -/
def heatDue (s : State) : List Due :=
  s.rlanes.zipIdx.flatMap fun r =>
    match r.1.run with
    | none => if r.1.waiting.isEmpty then [] else [.heatStart r.2]
    | some h => if h.end_ ≤ s.cox then [.heatResult r.2] else []

/-- The next step of a long-latency operation: a plain store is performed as it completes. -/
def opDue (gid : Nat) (o : LongOp) : List Due :=
  if isNcopyOp o then o.parts.filterMap fun p => match p with | .ncopy _ id => some (.ncopyAccept id) | _ => none
  else if !o.performed && hasRmw o then [.bankRmw gid o.id]
  else if !o.performed && hasEncode o then [.bankStore gid o.id]
  else [.flagCompletion gid o.id]

/-- The due events of a thread. -/
def threadDue (s : State) (g : Group) (t : Thread) : List Due :=
  (match t.stall with
   | some (.sleep n) => if n ≤ coxAt s g.die then [.sleepExpiry g.gid t.lane] else []
   | _ => []) ++
  match t.status with
  | .exiting _ => if t.reads == 0 then [.exitTakesEffect g.gid t.lane] else []
  | _ => []

/-- The due events of a group. -/
def groupDue (s : State) (g : Group) : List Due :=
  g.ops.flatMap (opDue g.gid) ++ g.threads.flatMap (threadDue s g) ++
  (if g.stack.any (entryOverdue g) || g.threads.any (fun t => t.stall == some .cross && 1024 ≤ t.holdWords) then
     [.progressRule g.gid] else []) ++
  (if preemptPending s g && g.limit == 0 && 65536 ≤ g.words then [.wordLimit g.gid] else []) ++
  (if preemptPending s g && g.limit == 1 && 69632 ≤ g.words then [.secondLimit g.gid] else []) ++
  (if g.aged.isNone && g.since.any (· + 256 ≤ (getDie s g.die).cyc) && groupReady s g then [.ageLimit g.gid] else []) ++
  (if g.threads.any readyToEnter then [.handlerEntry g.gid] else []) ++
  (if g.ship.isSome then [.migrationResume g.gid] else [])

/-- Transfers, requests and network copies. -/
def copyDue (s : State) : List Due :=
  s.transfers.map (fun x => .transferLanding x.id) ++
  ((s.requests.filter (·.rows == 0)).map fun q => .requestStatus q.id) ++
  ((s.ncopies.filter fun n => n.number.isSome && !n.finished).map fun n => .ncopyFinish n.id) ++
  s.dies.zipIdx.flatMap fun d =>
    ((d.1.kicks ++ (s.teams.filter fun t => t.resident && t.die == d.2).flatMap (·.kicks)).map (·.core)).dedup.map
      (.requestAccept d.2)

/-- Records, retirement, images. -/
def endDue (s : State) : List Due :=
  ((s.contexts.filter fun c => !c.pending.isEmpty).map fun c => .recordWrite c.asid) ++
  ((s.teams.filter (teamDone s)).map fun t => .teamRetirement t.tid) ++
  ((s.grids.filter (flushDone s)).map fun g => .gridEndFlush g.key) ++
  ((s.gangs.filter fun k => gangStopped s k && !k.halted).map fun k => .imageSealed k.key)

/-- The frame that the patrol reads next on a die: one each round, while the pass of the present 2^44 ticks has frames
left (R384). -/
def patrolDue (s : State) (d : Die) (i : Nat) : List Due :=
  if d.patrolFor ≤ s.cox / 2 ^ 44 && dieUp s i then
    (((backedOn s i).find? fun f => !d.patrolled.contains f).map fun f => Due.patrol i f.1 f.2).toList
  else []

/-- The due events of a die. -/
def dieDue (d : Die) (i : Nat) : List Due :=
  (if d.walks.isEmpty then [] else [.walk i]) ++ (if d.quar.isEmpty then [] else [.scrub i]) ++
  (if d.newClk.isSome then [.clock i] else []) ++
  (if d.resetting || d.resetWait then [.dieReset i] else []) ++ (if dieTrips d i && d.alive then [.trip i] else [])

/-- Dies, pages and streams. -/
def moduleDue (s : State) : List Due :=
  (s.dies.zipIdx.flatMap fun d => dieDue d.1 d.2 ++ patrolDue s d.1 d.2) ++ (if s.backing.isEmpty then [] else [.backing]) ++
  (if s.cox % 2 ^ 20 == 0 && s.contexts.any (fun c => c.frames.any fun f => !f.counts.isEmpty) then [.rehomeWindow] else []) ++
  (s.rehomes.map fun r => .rehomeComplete r.asid r.lfn) ++ (if moduleTrips s then [.moduleTrip] else []) ++
  (if s.pf.pbusy.isSome then [.partition] else []) ++
  (if s.pf.ckwait.any (·.phase != .host) then [.checkpoint] else []) ++
  ((s.groups.flatMap fun g => g.threads.filterMap fun t =>
    match t.stall with | some (.pontoon d) => some d | _ => none).dedup.map .pontoonRetry) ++
  (s.streams.flatMap fun x =>
    (if x.draining then
       [if x.drain.any (· + 2000000 ≤ s.cox) then .easyTimeout x.id else .easyDrained x.id] else []) ++
    (if x.keyed && x.limit ≤ x.blocks then [.easyAll x.id] else []))

/-- The slots of the die cycles of the tick that comes, for the cores on which groups stand: each die runs its cycles at
its clock (R295, R395; log 1). -/
def slotsOf (s : State) : List Turn :=
  s.dies.zipIdx.flatMap fun d =>
    if d.1.alive && !d.1.resetting then
      (List.range ((d.1.frac + d.1.clk) / 200)).flatMap fun j =>
        (((s.groups.filter fun g => g.die == d.2 && !g.retired).map (·.core)).dedup).map fun c =>
          .slots d.2 c (d.1.cyc + j + 1) 6 []
    else []

/-- One round: what is due, the issue slots of a tick's die cycles, every stream, every busy core, and the tick
(log 1). -/
def roundOf (s : State) : List Turn :=
  ((mailDue s ++ commandDue s ++ heatDue s ++ s.groups.flatMap (groupDue s) ++ copyDue s ++ endDue s ++ moduleDue s).map
    .due) ++
  slotsOf s ++
  ((s.teams.filter fun t => t.resident && t.seq.status == .running).map fun t => .sequencer t.tid) ++
  ((s.rv.filter fun r => r.2.busy).map fun r => .core r.1) ++ [.tick]

/-- A step of a seat that waits for a frame which the host is to back leaves only its request; a step of the outside
world comes again after the next round (R332). -/
def putOff (t : Turn) (s s' : State) : State :=
  match t with
  | .due _ | .core _ => seatHold s s'
  | .event _ =>
    if (seatWaits s).length < (seatWaits s').length then
      let s := seatHold s s'
      { s with agenda := (if s.agenda.isEmpty then roundOf s else s.agenda) ++ [t] }
    else s'
  | _ => s'

/-- What follows from a turn that was taken at `s` and led to `s'`: the reservations that it broke are gone (R326). -/
def afterTurn (t : Turn) (s s' : State) : State :=
  let s' := match t with
    | .issue gid => closeSlot s s' gid
    | _ => s'
  breakReservations (putOff t s s')

/-- The turn that comes next, and the machine with it taken. -/
def takeTurn (s : State) : Turn × State :=
  match (if s.agenda.isEmpty then roundOf s else s.agenda) with
  | [] => (.tick, s)
  | t :: ts => (t, { s with agenda := ts, cur := none, seqCur := none, rvCur := none })

/-! ## Placing an instruction (log 13) -/

/-- The descriptor of the laboratory kernel: every register, one group of 16 lanes, scratch, queues and tiles. -/
def labDesc : KDesc :=
  { entry := 0x1000, stream := 0, width := 16, regs := 1024, team := 1, paired := false, solo := false, gang := 1,
    scratch := 32, queues := List.replicate 8 (4, 4), tiles := [] }

/-- Frames of the laboratory context: tables 0 to 3, code 4. -/
def labFrame (lfn : Nat) : FrameRec :=
  { lfn := lfn, cc := 0, keyid := 0, fmt := 0, geom := 0, mt := 0, home := 0, tbl := lfn < 4, pages := 1, place := [],
    measured := false, leaf := none, counts := [], moved := none }

/-- The leaf that maps the code page: valid, writable, executable. -/
def labLeaf : DWord := BitVec.ofNat 64 (15 + 4 * 2 ^ 20)

/-- The laboratory context. -/
def labContext (asid : Nat) : Context :=
  { asid := asid, tag := 1, keyid := 1, vf := 0, live := true, pool := 16, root := 0, measured := false,
    measurement := none, ck := 0, stream := none, fqAddr := 0, fqLog2 := 4, seq := 0, pending := [], svcr := 0, trvec := 0,
    counts := [], notices := [], noticeNo := 0, noticeDropped := 0, frames := (List.range 5).map labFrame, hold := false }

/-- Words of its tables and of its code page: a header, and two words. -/
def labMem (m : List Host.Cell) (asid : Nat) (hdr w lit : Nat) : List Host.Cell :=
  let code := keyGlb asid 4 0
  let m := memWrite m (keyGlb asid 0 0) 8 (1 + 1 * 2 ^ 20)
  let m := memWrite m (keyGlb asid 1 0) 8 (1 + 2 * 2 ^ 20)
  let m := memWrite m (keyGlb asid 2 0) 8 (1 + 3 * 2 ^ 20)
  let m := memWrite m (keyGlb asid 3 8) 8 labLeaf.toNat
  memWrite (memWrite (memWrite m code 8 hdr) (code + 8) 8 w) (code + 16) 8 lit

/-- A free address-space identifier. -/
def labAsid (s : State) : Nat := 1 + (s.contexts.map (·.asid)).foldl max 0

/-- Header word of a block of `n` words (Table 4.1): no reconvergence, no waits, SETA and SETB name no flag. -/
def labHeader (n : Nat) : DWord := BitVec.ofNat 64 (2 ^ 63 + 2 ^ 55 * n + 2 ^ 13 * 15 + 2 ^ 9 * 15)

/-- The machine with the context and its pages. -/
def labBase (s : State) (asid n w lit : Nat) : State :=
  { s with contexts := s.contexts ++ [labContext asid], mem := labMem s.mem asid (labHeader n).toNat w lit }

/-- A service core that stands at a 32-bit word. -/
def labCore (s : State) (w : Nat) : State :=
  let asid := labAsid s
  let s := labBase s asid 1 0 0
  let s := { s with mem := memWrite s.mem (keyGlb asid 4 8) 4 w }
  let s := { s with dies := s.dies.modify 8 fun d => { d with alive := true, resetting := false } }
  { putRv s 0 { RvCore.reset with pc := 0x1008, asid := asid, busy := true } with agenda := [.core 0] }

/-- The thread of a lane inside the laboratory block. -/
def labThread (n lane : Nat) : Thread :=
  { newThread 0x1000 lane with pc := 0x1008, hword := labHeader n, status := .block }

/-- The group of the laboratory. -/
def labGroup (gid tid n : Nat) : Group :=
  { gid := gid, tid := tid, index := 0, width := 16, die := 0, core := 0, slot := 0, base := 0,
    threads := (List.range 16).map (labThread n), u := [], flags := [], stack := [], ops := [], rot := 0, mbArr := [],
    mbRet := [], words := 0, limit := 0, born := 0, since := none, aged := none, passed := 0, ship := none, crossFree := [], retired := false }

/-- The team, the gang and the grid of the laboratory. -/
def labTeam (tid grid gang : Nat) : Team :=
  { tid := tid, grid := grid, gang := gang, index := 0, die := 0, core := 0, entry := 0x1000, args := [], orphan := 0,
    tiles := [], queues := labDesc.queues.map fun q => ⟨q.1, q.2, [], []⟩, seq := Sequencer.fresh 0, kicks := [],
    resident := true, retired := false }
def labGang (key grid tid : Nat) : Gang :=
  { key := key, grid := grid, index := 0, teams := [tid], status := .resident, cause := .debug, epoch := 1, die := 0,
    core := 0, halted := false, keyGone := false }
def labGrid (key asid : Nat) : Grid :=
  { key := key, vf := 0, id := 0, asid := asid, desc := labDesc, owner := .command 0 0 0, band := 0, spawn := 1,
    nextTeam := 1, nextGang := 1, priv := 4096, gbase := 0, gsize := 0, gplace := [], csize := 0, cbase := [], blocks := [],
    endCode := none, first := 0, joins := 0, ended := false }

/-- A die that runs and holds the translation of the code page. -/
def labDie (asid : Nat) (d : Die) : Die :=
  { d with alive := true, resetting := false, tlb := ⟨asid, 1, 4, labLeaf, 4⟩ :: d.tlb }

/-- A group whose lanes stand at a word, with a second word after it when it takes a literal. -/
def labIssue (s : State) (w lit : Nat) : State :=
  let asid := labAsid s
  let n := if opLong (fOp (BitVec.ofNat 64 w)) then 2 else 1
  let k := s.nextId
  let s := labBase s asid n w lit
  { s with nextId := k + 4, groups := s.groups ++ [labGroup k (k + 1) n], teams := s.teams ++ [labTeam (k + 1) (k + 3) (k + 2)],
           gangs := s.gangs ++ [labGang (k + 2) (k + 3) (k + 1)], grids := s.grids ++ [labGrid (k + 3) asid],
           dies := s.dies.modify 0 (labDie asid), agenda := [.issue k] }

/-- The machine with an instruction placed where the next step fetches. -/
def placeWord (s : State) (nbits w : Nat) : State :=
  if nbits ≤ 32 then labCore s (w % 2 ^ 32) else labIssue s (w % 2 ^ 64) (w / 2 ^ 64 % 2 ^ 64)

end Sys2Proof.Machine
end

