-- ==== Sys2Proof/Machine/Step.lean ====
section
/-!
DEFINITION. One step of the machine: the next turn, its instruction or device step, and what follows at once (log 1).
-/

namespace Sys2Proof.Machine

/-- What follows from the outcome of a turn that was taken at `s`: a next state settles. -/
def settled (t : Turn) (s : State) : Host.Outcome State Fault Refusal → Host.Outcome State Fault Refusal
  | .next s' => .next (settle (afterTurn t s s'))
  | .fault f => .fault f
  | .refused r => .refused r

/-- The instruction of a turn runs, and its words are counted. -/
def runInstr (i : Instr) (s : State) : Host.Outcome State Fault Refusal :=
  match exec i s with
  | .next s' => .next (afterWord i s')
  | .fault f => .fault f
  | .refused r => .refused r

/-- An instruction is tried: what it waits for has begun, or it would issue and nothing has happened. -/
def tryInstr (s0 : State) (i : Instr) (s : State) : Host.Outcome State Fault Refusal :=
  match exec i s with
  | .next s' => .next (if s'.cur.any (wordIssued s') then s0 else s')
  | .fault f => .fault f
  | .refused r => .refused r

/-- What a turn's plan comes to. -/
def runPlan : TurnPlan → Host.Outcome State Fault Refusal
  | .rest s => .next s
  | .go i s => runInstr i s
  | .attempt s0 i s => tryInstr s0 i s
  | .did o => o

/-- One step: the turn at the head of the agenda. -/
def step (s : State) : Host.Outcome State Fault Refusal :=
  settled (takeTurn s).1 (takeTurn s).2 (runPlan (planTurn (takeTurn s).2 (takeTurn s).1))

/-- The machine with an instruction stored where the next step fetches it (log 13). -/
def State.withFetchWord (s : State) (nbits w : Nat) : State := placeWord s nbits w

end Sys2Proof.Machine
end

