-- ==== Sys2Proof/Safety.lean ====
section
/-!
DEFINITION. The terms in which the claims are stated: a sound state, a step that goes on, the lanes of an execution,
what a lane writes, and numbers as R96 reads and delivers them, written with bit vectors.
-/

namespace Sys2Proof.Machine

/-! ## States -/

/-- Memory is in its canonical form. -/
def State.MemOk (s : State) : Prop := Memory.wf s.mem = true

/-- No execution is in progress. -/
def State.Idle (s : State) : Prop := s.cur = none ∧ s.seqCur = none ∧ s.rvCur = none

/-- An outcome is a next state with a property. -/
def Answers (o : Host.Outcome State Fault Refusal) (p : State → Prop) : Prop := ∃ t, o = .next t ∧ p t

/-- The next step takes turn `t`, and stands at `s0` then: the turn at the head of the agenda, or of a new round. -/
def TakesTurn (s s0 : State) (t : Turn) : Prop :=
  ∃ rest, (s.agenda = t :: rest ∨ (s.agenda = [] ∧ roundOf s = t :: rest)) ∧
    s0 = { s with agenda := rest, cur := none, seqCur := none, rvCur := none }

/-- A word that a fetch delivers. -/
def Fetches (s : State) (c : Context) (die pc : Nat) (w : DWord) : Prop :=
  ∃ key fmt geom tbl mt, fetchWord s c die pc = (.ok key fmt geom tbl mt, w)

/-! ## Thread instructions in their lanes -/

/-- An execution in progress whose lanes can all retire: it has an environment, each lane a thread, and in each lane
whose guard is true the register checks of R18 and R21 pass, the stream operands are at hand (R122), and `pre` holds of
the operands. Stream elements are read where `settleStreams` has brought what the group itself had stored on them. -/
structure Ready (s : State) (c : Cur) (e : Env) (g : Guard) (us : List RegUse) (pre : (Nat → Word) → Thread → Prop) :
    Prop where
  cur   : s.cur = some c
  env   : env s c.gid = some e
  nodup : c.lanes.Nodup
  pairs : pairIllegal e.grid.desc.regs us = false
  lane  : ∀ l ∈ c.lanes, ∃ t, getLane (settleStreams s c e g us) c.gid l = some t ∧
    (guardOf g t = true → ∃ ov t0,
      operandsOf (settleStreams s c e g us) e (execRec s c e g) t us = .ok ov t0 ∧ pre (readOver ov t) t0)

/-- A state differs from another only in the threads of an execution's lanes and in the count of retired
instructions, which rises by one for each lane whose guard is true (R406). -/
def OnlyLanes (s s' : State) (c : Cur) (e : Env) (g : Guard) : Prop :=
  s' = { s with groups := s'.groups, contexts := s'.contexts } ∧
  s'.contexts = (countEvent s e.ctx.asid 0 (activeLanes s c g).length).contexts ∧
  (∀ gid l, ¬(gid = c.gid ∧ l ∈ c.lanes) → getLane s' gid l = getLane s gid l) ∧
  (∀ gid, (getGroup s' gid).map (fun x => { x with threads := [] }) =
    (getGroup s gid).map (fun x => { x with threads := [] }))

/-- In every execution of `i` at a place in its block that `place` allows, whose lanes are ready, `i` answers a next
state in which each lane whose guard is true has the thread that `post` says, standing after the word; each other lane
only goes on; and nothing else has changed, beside the group's own stores on stream elements, performed before they are
read (R122, R153). `post` has the operands, the thread once its stream elements are taken, and the thread after. -/
def EachLaneAt (place : Cur → Bool) (i : Instr) (g : Guard) (us : List RegUse) (pre : (Nat → Word) → Thread → Prop)
    (post : (Nat → Word) → Thread → Thread → Prop) : Prop :=
  ∀ s c e, place c = true → Ready s c e g us pre →
    let r := settleStreams s c e g us
    ∃ s', exec i s = .next s' ∧ OnlyLanes r s' c e g ∧
    ∀ l ∈ c.lanes, ∀ t, getLane r c.gid l = some t →
      (guardOf g t = true → ∀ ov t0, operandsOf r e (execRec s c e g) t us = .ok ov t0 →
        ∃ t1, getLane s' c.gid l = some (goOn c.next t1) ∧ post (readOver ov t) t0 t1) ∧
      (guardOf g t = false → getLane s' c.gid l = some (goOn c.next t))

/-- `EachLaneAt` anywhere in a block. -/
def EachLane (i : Instr) (g : Guard) (us : List RegUse) (pre : (Nat → Word) → Thread → Prop)
    (post : (Nat → Word) → Thread → Thread → Prop) : Prop := EachLaneAt anywhere i g us pre post

/-- No condition on the operands. -/
def anyOperands : (Nat → Word) → Thread → Prop := fun _ _ => True

/-- A thread writes the listed registers and predicates and raises the listed flags of %fpstat, and changes nothing
else: every other register, predicate and field is as it was; p0 is true whatever was written (R17, R43). -/
def Sets (rs : List (Nat × Word)) (ps : List (PredIx × Bool)) (fl : Word) (t0 t1 : Thread) : Prop :=
  (∀ n, rdReg t1 n = (rs.lookup n).getD (rdReg t0 n)) ∧
  (∀ q, rdPred t1 q = if q = 0 then true else (ps.lookup q).getD (rdPred t0 q)) ∧
  t1.fpstat = t0.fpstat ||| fl ∧
  t1 = { t0 with v := t1.v, p := t1.p, fpstat := t1.fpstat }

/-- Each lane whose guard is true writes what `w` gives from its operands and its thread. -/
def Writes (i : Instr) (g : Guard) (us : List RegUse) (pre : (Nat → Word) → Thread → Prop)
    (w : (Nat → Word) → Thread → List (Nat × Word) × List (PredIx × Bool) × Word) : Prop :=
  EachLane i g us pre fun rd t0 t1 => Sets (w rd t0).1 (w rd t0).2.1 (w rd t0).2.2 t0 t1

/-- An execution in progress in which the guard is true in one lane only, `l`, whose operands are at hand, with no store
of its own group and no error on stream elements: `t` is its thread, `t0` its thread once its stream elements are taken,
`rd` reads its operands. -/
structure Lone (s : State) (c : Cur) (e : Env) (g : Guard) (us : List RegUse) (l : Nat) (t t0 : Thread)
    (rd : Nat → Word) : Prop where
  cur   : s.cur = some c
  env   : env s c.gid = some e
  nodup : c.lanes.Nodup
  all   : ∀ k ∈ c.lanes, (getLane s c.gid k).isSome = true
  pairs : pairIllegal e.grid.desc.regs us = false
  only  : activeLanes s c g = [l]
  lane  : getLane s c.gid l = some t
  still : settleStreams s c e g us = s
  taken : ∃ ov, operandsOf s e (execRec s c e g) t us = .ok ov t0 ∧ rd = readOver ov t

/-- The lanes after an execution in which lane `l` alone acted: `t1` is its thread, each other lane of the execution
has only gone on, and every other thread is as it was. -/
def LaneBecomes (s s' : State) (c : Cur) (l : Nat) (t1 : Thread) : Prop :=
  getLane s' c.gid l = some t1 ∧
  ∀ gid k, ¬(gid = c.gid ∧ k = l) →
    getLane s' gid k = if gid = c.gid ∧ k ∈ c.lanes then (getLane s gid k).map (goOn c.next) else getLane s gid k

/-- A uniform instruction that may act (R173): its checks pass in every lane whose guard is true, with no store of its
own group and no error on stream elements; `l` is the lowest of them, `t` its thread, `t0` its thread once its stream
elements are taken, and `rd` reads its operands. -/
structure Uniform (s : State) (c : Cur) (e : Env) (g : Guard) (us : List RegUse) (l : Nat) (t t0 : Thread)
    (rd : Nat → Word) : Prop where
  cur   : s.cur = some c
  env   : env s c.gid = some e
  nodup : c.lanes.Nodup
  all   : ∀ k ∈ c.lanes, (getLane s c.gid k).isSome = true
  pairs : pairIllegal e.grid.desc.regs us = false
  range : rangeFault e.grid.desc.regs us = false
  bound : ∀ k ∈ c.lanes, ∀ x, getLane s c.gid k = some x → boundFault x us = false
  head  : (activeLanes s c g).head? = some l
  lane  : getLane s c.gid l = some t
  still : settleStreams s c e g us = s
  taken : ∃ ov, takeStreams s e (execRec s c e g) t us = .ok ov t0 ∧ rd = readOver ov t0

/-- Every lane whose guard is true receives one result and goes on; `l` alone has taken stream elements; the other lanes
go on. -/
def AllReceive (s s' : State) (c : Cur) (g : Guard) (l : Nat) (t0 : Thread) (rs : List (Nat × Word))
    (ps : List (PredIx × Bool)) : Prop :=
  ∀ k ∈ c.lanes, ∀ t, getLane s c.gid k = some t →
    if guardOf g t then ∃ t1, getLane s' c.gid k = some (goOn c.next t1) ∧ Sets rs ps 0 (if k = l then t0 else t) t1
    else getLane s' c.gid k = some (goOn c.next t)

/-- Every lane whose guard is true waits at the word; the others go on. -/
def AllWait (s s' : State) (c : Cur) (g : Guard) (w : Stall) : Prop :=
  ∀ k ∈ c.lanes, getLane s' c.gid k = (getLane s c.gid k).map fun t =>
    if guardOf g t then { t with stall := some w } else goOn c.next t

/-- What every group keeps when only threads, long operations, flags, numbered-barrier counts, the reconvergence stack and
the cross-lane words that the progress rule has released may change. -/
def groupFrame (x : Group) : Group :=
  { x with threads := [], ops := [], flags := [], stack := [], mbArr := [], mbRet := [], crossFree := [] }
/-- What every context keeps when only counts, access counts of frames and waiting records may change: its special
registers among them. -/
def ctxFrame (x : Context) : Context :=
  { x with counts := [], pending := [], frames := x.frames.map fun f => { f with counts := [] } }
/-- Groups and contexts are as they were but for what their frames leave out. -/
def Framed (s s' : State) : Prop :=
  (∀ gid, (getGroup s' gid).map groupFrame = (getGroup s gid).map groupFrame) ∧
  (∀ a, (getCtx s' a).map ctxFrame = (getCtx s a).map ctxFrame)

/-- Only threads, flags, operations, stacks and counts differ: every byte of memory and every device register is as it
was. -/
def OnlyThreads (s s' : State) : Prop :=
  s' = { s with groups := s'.groups, contexts := s'.contexts, nextId := s'.nextId } ∧ Framed s s'

/-- A state without the parts that a thread instruction may always change. -/
def bare (s : State) : State := { s with groups := [], contexts := [], nextId := 0, written := [] }
/-- As `OnlyThreads`, and the parts that `m` hides may also have changed. -/
def Besides (m : State → State) (s s' : State) : Prop := m (bare s') = m (bare s) ∧ Framed s s'

/-- Dies differ only in translations kept in their TLBs. -/
def DiesKeep (s s' : State) : Prop :=
  s'.dies.map (fun d => { d with tlb := [], l1 := [] }) = s.dies.map fun d => { d with tlb := [], l1 := [] }

/-- No error stands in the bytes (R382), and none of their sectors is poisoned (R160). -/
def Clean (s : State) (key n : Nat) : Prop := (∀ u ∈ s.upsets, upsetIn [(key, n)] u = false) ∧ poisoned s key n = false

/-- `n` bytes of memory at `key` hold `v`; every other byte reads as before. -/
def Puts (s s' : State) (key n v : Nat) : Prop :=
  ∀ a, memGet s'.mem a = if key ≤ a ∧ a < key + n then BitVec.ofNat 8 (v / 256 ^ (a - key)) else memGet s.mem a

/-- As `OnlyThreads`, and `n` bytes of memory at `key` hold `v`; every other byte reads as before. Tags of commons
lines, versions of class 2 lines and translations of tables may change with the bytes, and so may the list of the sets
written in this round, by which reservations break (log 9). -/
def StoresAt (s s' : State) (key n v : Nat) : Prop :=
  Puts s s' key n v ∧
  s' = { s with groups := s'.groups, contexts := s'.contexts, nextId := s'.nextId, mem := s'.mem,
                cmnTags := s'.cmnTags, versions := s'.versions, dies := s'.dies, written := s'.written } ∧ Framed s s' ∧
  DiesKeep s s'

/-- The line's version of class 2 can rise once more (R364). -/
def Fresh (s : State) (key : Nat) : Prop := keyClass2 s key = true → tget 0 s.versions (key / 64) < 2 ^ 56 - 1

/-- A target at which a transfer may arrive: aligned, with a header there whose code the lane may fetch (R62). -/
def GoodTarget (s : State) (e : Env) (tgt : Nat) : Prop :=
  tgt % 8 = 0 ∧ ∃ key fmt geom tbl mt w, fetchWord s e.ctx e.group.die tgt = (.ok key fmt geom tbl mt, w) ∧
    w.getLsbD 63 = true

/-- A grid that no join counter owns, so that the retirement of a group writes no memory (R244). -/
def Unjoined (e : Env) : Prop := ∀ key, e.grid.owner ≠ .join key

/-- A lane after a fault of a class with INFO: parked at its word, or, in handler mode, ended as `rte.kill` ends it
(R241). -/
def faulted (c : Cur) (cls info : Nat) (t : Thread) : Thread :=
  if t.handler then { t with pc := c.pc, status := .exiting false, stall := none, handler := false }
  else { t with pc := c.pc, status := .parked cls info false false, stall := none }

/-- What a fault record says (Table 21.3): class, subclass, INFO, lane, program counter, access address; masks of the
lanes that executed and that parked; team, group, die, `%cox` and the nested mark. -/
def recordFields (r : FaultRec) : List Int :=
  [r.cls, r.sub, r.info, r.lane, r.pc, r.addr, r.active, r.parked, r.team, r.group, r.die, r.cox, r.nested.toNat]

/-- Every lane whose guard is true takes one fault, with none of the instruction's effects: it parks, and its record
joins those of its context in ascending lanes; the other lanes go on. -/
def FaultsAlike (place : Cur → Bool) (i : Instr) (g : Guard) (cls info : Nat) : Prop :=
  ∀ s c e, s.cur = some c → env s c.gid = some e → c.lanes.Nodup → (∀ l ∈ c.lanes, (getLane s c.gid l).isSome = true) →
    place c = true → ∃ s', exec i s = .next s' ∧ OnlyThreads s s' ∧
      (∀ l ∈ c.lanes, getLane s' c.gid l = (getLane s c.gid l).map fun t =>
        if guardOf g t then faulted c cls info t else goOn c.next t) ∧
      ∃ rs, (getCtx s' e.ctx.asid).map (·.pending) = (getCtx s e.ctx.asid).map (fun x => x.pending ++ rs) ∧
        rs.map recordFields = (activeLanes s c g).map fun (l : Nat) =>
          ([(cls : Int), 0, (info : Int), (l : Int), (c.pc : Int), 0, (laneMask (activeLanes s c g) : Int),
            (laneMask (activeLanes s c g) : Int), (e.team.index : Int), (e.group.index : Int), (e.group.die : Int),
            (coxAt s e.group.die : Int), ((((getLane s c.gid l).map Thread.handler).getD false).toNat : Int)] : List Int)

/-! ## Meetings (R140) -/

/-- An execution at a cross-lane word that may issue: every thread that waits at the word is in it, every other thread of
the group stands in a state of R140, and `ms` are its participants in ascending lanes, with their operands at hand. -/
structure Meets (s : State) (c : Cur) (e : Env) (g : Guard) (us : List RegUse) (ms : List Member) : Prop where
  cur   : s.cur = some c
  env   : env s c.gid = some e
  asc   : c.lanes.Pairwise (· < ·)
  low   : ∀ l ∈ c.lanes, l < 64
  all   : ∀ l ∈ c.lanes, (getLane s c.gid l).isSome = true
  whole : (meetCur e.group c).lanes = c.lanes
  met   : ∀ t ∈ e.group.threads, t.lane ∈ c.lanes ∨ meetState t = true
  fresh : metLanes e.group c = none
  still : settleStreams s c e g us = s
  pairs : pairIllegal e.grid.desc.regs us = false
  lanes : ms.map (·.lane) = activeLanes s c g
  taken : ∀ m ∈ ms, ∃ t ov, getLane s c.gid m.lane = some t ∧
    operandsOf s e (execRec s c e g) t us = .ok ov m.t ∧ m.rd = readOver ov t

/-- At a meeting, every participant writes what `f` gives from the participants and itself, as one execution; the
group's rotation index becomes `rot`; the other lanes of the execution only go on, and nothing else changes. -/
def CrossDoes (i : Instr) (g : Guard) (us : List RegUse) (rot : Nat → List Member → Group → Nat)
    (f : Nat → List Member → Member → List (Nat × Word) × List (PredIx × Bool) × Word) : Prop :=
  ∀ s c e ms, Meets s c e g us ms → ∃ s', exec i s = .next s' ∧
    s' = { s with groups := s'.groups, contexts := s'.contexts } ∧
    s'.contexts = (countEvent s e.ctx.asid 0 ms.length).contexts ∧
    (∀ gid, gid ≠ c.gid → getGroup s' gid = getGroup s gid) ∧
    (getGroup s' c.gid).map (fun x => { x with threads := [] }) =
      some { e.group with threads := [], rot := rot e.group.rot ms e.group,
                          crossFree := e.group.crossFree.filter (· != c.pc) } ∧
    (∀ l, l ∉ c.lanes → getLane s' c.gid l = getLane s c.gid l) ∧
    (∀ l ∈ c.lanes, l ∉ ms.map (·.lane) → getLane s' c.gid l = (getLane s c.gid l).map fun t => { goOn c.next t with lastIssue := s.stamp }) ∧
    ∀ m ∈ ms, ∃ t1, getLane s' c.gid m.lane = some { goOn c.next t1 with lastIssue := s.stamp } ∧
      Sets (f e.group.rot ms m).1 (f e.group.rot ms m).2.1 (f e.group.rot ms m).2.2 m.t t1

/-- `CrossDoes` with the rotation index unchanged. -/
def CrossWrites (i : Instr) (g : Guard) (us : List RegUse)
    (f : List Member → Member → List (Nat × Word) × List (PredIx × Bool) × Word) : Prop :=
  CrossDoes i g us (fun k _ _ => k) fun _ => f

/-- A 64-bit mask: bit i is set when `p` holds of a participant at lane i. -/
def maskBits (ms : List Member) (p : Member → Bool) : BitVec 64 :=
  BitVec.ofBoolListLE ((List.range 64).map fun i => ms.any fun m => m.lane == i && p m)

/-- A 6-bit constant or a register as the lane operand of `shfl`. -/
def shuffled (src : Int → Int → Int) (p : PredIx) (d a f : Reg) (n : (Nat → Word) → Int) :
    List Member → Member → List (Nat × Word) × List (PredIx × Bool) × Word := fun ms x =>
  match ms.find? fun y => (y.lane : Int) = src x.lane (n x.rd) with
  | some y => ([(d.toNat, y.rd a.toNat)], [(p, true)], 0)
  | none => ([(d.toNat, x.rd f.toNat)], [(p, false)], 0)

/-! ## Numbers (R36, R96) -/

/-- 64 bits of a register pair; the low half is register r (Table 2.7). -/
def pair64 (rd : Nat → Word) (r : Reg) : BitVec 64 := rd (r.toNat + 1) ++ rd r.toNat
/-- The two registers of a pair. -/
def toPair (d : Reg) (x : BitVec 64) : List (Nat × Word) := [(d.toNat, x.setWidth 32), (d.toNat + 1, x.extractLsb' 32 32)]

/-- The bits of an integer operand: the low w bits of a register or a pair. -/
def intBits (ty : ITy) (rd : Nat → Word) (r : Reg) : BitVec (itW ty) :=
  if ty.is64 then (pair64 rd r).setWidth _ else (rd r.toNat).setWidth _
/-- Bits as the integer of a type. -/
def intVal (ty : ITy) (x : BitVec (itW ty)) : Int := if ty.signed then x.toInt else x.toNat
/-- An integer operand of a register. -/
def intOperand (ty : ITy) (rd : Nat → Word) (r : Reg) : Int := intVal ty (intBits ty rd r)
/-- An operand of a 20-bit field extended as signed. -/
def intSigned (ty : ITy) (imm : BitVec 20) : Int := intVal ty ((imm.signExtend 64).setWidth _)
/-- An operand of a literal. -/
def intLiteral (ty : ITy) (v : DWord) : Int := intVal ty (v.setWidth _)

/-- Bits delivered as a result: a pair, or one register extended by the type. -/
def deliverBits (ty : ITy) (d : Reg) (x : BitVec (itW ty)) : List (Nat × Word) :=
  if ty.is64 then toPair d (x.setWidth 64)
  else [(d.toNat, if ty.signed then x.signExtend 32 else x.setWidth 32)]
/-- An integer delivered modulo 2^w. -/
def deliverInt (ty : ITy) (d : Reg) (n : Int) : List (Nat × Word) := deliverBits ty d (BitVec.ofInt _ n)
/-- An integer held to the range of its type when SAT is set (R111). -/
def held (sat : Bool) (ty : ITy) (n : Int) : Int :=
  let lo : Int := if ty.signed then -2 ^ (itW ty - 1) else 0
  let hi : Int := if ty.signed then 2 ^ (itW ty - 1) - 1 else 2 ^ itW ty - 1
  if sat then (if n < lo then lo else if hi < n then hi else n) else n

/-- Both operand forms of a result: nothing but registers. -/
def onlyRegs (rs : List (Nat × Word)) : List (Nat × Word) × List (PredIx × Bool) × Word := (rs, [], 0)
/-- Nothing but predicates. -/
def onlyPreds (ps : List (PredIx × Bool)) : List (Nat × Word) × List (PredIx × Bool) × Word := ([], ps, 0)

/-- Product, by HW: the low w bits with the addend, the high half, or 64 bits with the 64-bit addend (R113). -/
def product (ty : ITy) (hw : HW) (d : Reg) (a b c c64 : Int) : List (Nat × Word) :=
  match hw with
  | .lo => deliverInt ty d (a * b + c)
  | .hi => deliverBits ty d ((BitVec.ofInt (2 * itW ty) (a * b)).extractLsb' (itW ty) (itW ty))
  | .wide => toPair d (BitVec.ofInt 64 (a * b + c64))
/-- The 64-bit addend of `imad.wide`. -/
def addend64 (ty : ITy) (rd : Nat → Word) (r : Reg) : Int :=
  if ty.signed then (pair64 rd r).toInt else (pair64 rd r).toNat

/-- A packed element of w bits. -/
def element (sgn : Bool) (w i : Nat) (x : Word) : Int :=
  if sgn then (x.extractLsb' (w * i) w).toInt else (x.extractLsb' (w * i) w).toNat

/-- The relations of `iset` (Table 5.5). -/
def intHolds (cmp : Cmp) (a b : Int) : Bool :=
  match cmp with
  | .eq => a = b
  | .ne => a ≠ b
  | .lt => a < b
  | .le => a ≤ b
  | .gt => a > b
  | .ge => a ≥ b
  | _ => false

/-- Values combined as R145 says: a sum modulo 2^w, bitwise, or the least or greatest by the sign of the type. -/
def combined (op : ROp) (ty : ITy) (xs : List (BitVec (itW ty))) : BitVec (itW ty) :=
  match op with
  | .add | .xadd => xs.foldl (· + ·) 0
  | .and => xs.foldl (· &&& ·) (BitVec.allOnes _)
  | .or => xs.foldl (· ||| ·) 0
  | .xor => xs.foldl (· ^^^ ·) 0
  | .min => BitVec.ofInt _ (((xs.map (intVal ty)).min?).getD 0)
  | .max => BitVec.ofInt _ (((xs.map (intVal ty)).max?).getD 0)

/-- The fixed tree of a float `redux`: position k of level n + 1 combines positions 2k and 2k + 1 of level n; an absent
position passes the other one through. -/
def treePos (f : FRes → FRes → FRes) (leaf : Nat → Option FRes) : Nat → Nat → Option FRes
  | 0, k => leaf k
  | n + 1, k =>
    match treePos f leaf n (2 * k), treePos f leaf n (2 * k + 1) with
    | some x, some y => some (f x y)
    | some x, none => some x
    | none, y => y

/-- The number of ones. -/
def ones {w : Nat} (x : BitVec w) : Nat := (List.range w).countP x.getLsbD
/-- The zeros above the highest one. -/
def leadingZeros {w : Nat} (x : BitVec w) : Nat := ((List.range w).map x.getMsbD).findIdx id

/-- `lop3` bit by bit (R116). -/
def lop3Bits (tt : BitVec 8) (a b c : Word) : Word :=
  (List.range 32).foldl (fun r j =>
    let k := (a.getLsbD j).toNat + 2 * (b.getLsbD j).toNat + 4 * (c.getLsbD j).toNat
    if tt.getLsbD k then r ||| 1#32 <<< j else r) 0

/-- The bits of a field: position, length held to the type's width (R119); none is an empty field. -/
def bitField (w ctl : Nat) : Option (Nat × Nat) :=
  if w ≤ ctl % 256 ∨ ctl / 256 % 256 = 0 then none else some (ctl % 256, min (ctl / 256 % 256) (w - ctl % 256))
/-- A field taken out and extended by the type. -/
def fieldOf (ty : ITy) (x : BitVec (itW ty)) (ctl : Nat) : BitVec (itW ty) :=
  match bitField (itW ty) ctl with
  | none => 0
  | some (pos, len) =>
    if ty.signed then (x.extractLsb' pos len).signExtend _ else (x.extractLsb' pos len).setWidth _
/-- A field put into a base. -/
def fieldInto (ty : ITy) (base x : BitVec (itW ty)) (ctl : Nat) : BitVec (itW ty) :=
  match bitField (itW ty) ctl with
  | none => base
  | some (pos, len) =>
    let mask := (BitVec.allOnes len).setWidth (itW ty) <<< pos
    (base &&& ~~~mask) ||| (x <<< pos &&& mask)

/-- A valid modulus (R56). -/
def Modulus (q : BitVec 64) : Prop := q.toNat % 2 = 1 ∧ 3 ≤ q.toNat ∧ q.toNat < 2 ^ 62
/-- Operands of a modular instruction that pass the checks of R124. -/
def residues (q : (Nat → Word) → BitVec 64) (ops : List Reg) : (Nat → Word) → Thread → Prop :=
  fun rd _ => Modulus (q rd) ∧ ∀ r ∈ ops, (pair64 rd r).toNat < (q rd).toNat
/-- An integer reduced modulo q, in a pair. -/
def reduced (d : Reg) (n : Int) (q : BitVec 64) : List (Nat × Word) := toPair d (BitVec.ofInt 64 (n % q.toNat))

/-! ## Long-latency operations (R67 to R69) -/

/-- The address of an access: a register, or a pair in GLB and HST, plus the offset (R79). -/
def accessAt (sp : Space) (rd : Nat → Word) (a : Reg) (off : BitVec 16) : Int :=
  ((if sp = .glb ∨ sp = .hst then (pair64 rd a).toNat else (rd a.toNat).toNat : Nat) : Int) + off.toInt

/-- An access of n bytes passes the checks of R90 and lands on plain bytes at `key`. -/
def LandsAt (s : State) (e : Env) (l : Nat) (sp : Space) (k : AccKind) (ea : Int) (n key : Nat) : Prop :=
  acquiring e.group l = false ∧ 0 ≤ ea ∧ ea + n ≤ spaceLimit s e sp ∧ ea % n = 0 ∧
  ∃ tbl mt, locate s e l sp k ea.toNat n = .ok key 0 0 tbl mt

/-- No operation in the group's store queue touches the bytes. -/
def Unqueued (e : Env) (key n : Nat) : Prop := ∀ o ∈ queueOf e.group, ∀ p ∈ o.parts, partHits key n p = false

/-- No lane of the group has a poison fault due for the execution that issued the operation (R160). -/
def Undue (e : Env) (op : LongOp) : Prop :=
  ∀ t ∈ e.group.threads, (t.poison.any fun d => d.exec.stamp == op.exec.stamp) = false

/-- Nothing that the group issued waits to be performed: its store queue and its per-lane copies (R154, R248). -/
def AllPerformed (s : State) (e : Env) : Prop := queueOf e.group = [] ∧ copiesOf s e.group.gid = []

/-- The group issued one operation on a flag: it stands behind the others, and the flag's counter rose by one. -/
def Issued (s s' : State) (gid : Nat) (flag : Option Nat) (op : LongOp) : Prop :=
  op.flag = flag ∧ ∃ g g', getGroup s gid = some g ∧ getGroup s' gid = some g' ∧ g'.ops = g.ops ++ [op] ∧
    ∀ n, flagCount g' n = flagCount g n + if flag = some n then 1 else 0

/-- Registers of a load of bytes, by width and type (R151). -/
def loaded (m : MemOp) (x : Nat) : List (Nat × Word) :=
  match m.wid with
  | .w16 => toPair m.d (BitVec.ofNat 64 x) ++
      [(m.d.toNat + 2, BitVec.ofNat 32 (x / 2 ^ 64)), (m.d.toNat + 3, BitVec.ofNat 32 (x / 2 ^ 96))]
  | .w8 => toPair m.d (BitVec.ofNat 64 x)
  | w =>
    let b := BitVec.ofNat (8 * widBytes w) x
    [(m.d.toNat, if m.ty = .signed then b.signExtend 32 else b.setWidth 32)]

/-- The bytes that a store takes from its registers (R151). -/
def stored (m : MemOp) (rd : Nat → Word) : Nat :=
  let n := m.d.toNat
  (rd n).toNat % 2 ^ (8 * widBytes m.wid) +
    (if m.wid = .w8 ∨ m.wid = .w16 then 2 ^ 32 * (rd (n + 1)).toNat else 0) +
    (if m.wid = .w16 then 2 ^ 64 * (rd (n + 2)).toNat + 2 ^ 96 * (rd (n + 3)).toNat else 0)

/-- A thread but for where it stands. -/
def apart (t : Thread) : Thread := { t with pc := 0, status := .block, stall := none, arrival := .entry, keep := 0 }

/-- A thread with its outstanding reads and a due poison fault set. -/
def awaits (t : Thread) (reads : Nat) (poison : Option PoisonDue) : Thread := { t with reads := reads, poison := poison }

/-- The new value of an integer atomic (Table 8.3). -/
def intAtomic (sgn : Bool) (op : AOp) {w : Nat} (old b c : BitVec w) : BitVec w :=
  let less := fun (x y : BitVec w) => if sgn then x.slt y else x.ult y
  match op with
  | .add => old + b
  | .min => if less b old then b else old
  | .max => if less old b then b else old
  | .and => old &&& b
  | .or => old ||| b
  | .xor => old ^^^ b
  | .exch => b
  | .cas => if old = c then b else old
  | .inc => if b ≤ old then 0 else old + 1
  | .dec => if old = 0 ∨ b < old then b else old - 1
  | .amax => old

/-- The new value of a floating atomic (Table 8.3): rounded to nearest, subnormals kept. -/
def floatAtomic (t : FTy) (op : AOp) (old b : Nat) : Nat :=
  match op with
  | .add => (faddCode t fPlain old b).code
  | .min => (fminmaxCode t false false old b).code
  | .max => (fminmaxCode t false true old b).code
  | .amax =>
    if fIsNan (fDecode t old) || fIsNan (fDecode t b) then fNanCode t
    else (fminmaxCode t false true old (b % 2 ^ (fWidth t - 1))).code
  | _ => b

/-! ## Floating values -/

/-- The rational that a finite value stands for. -/
def FVal.rat : FVal → Rat
  | .fin neg m e => (if neg then -1 else 1) * m * (2 : Rat) ^ e
  | _ => 0
/-- A value is finite. -/
def FVal.Finite : FVal → Prop
  | .fin .. => True
  | _ => False

/-- The integer that a rational rounds to by a mode (R136). -/
def RoundsInt (rm : RMode) (q : Rat) (n : Int) : Prop :=
  match rm with
  | .rn => |q - n| ≤ 1 / 2 ∧ (|q - n| = 1 / 2 → n % 2 = 0)
  | .rz => |(n : Rat)| ≤ |q| ∧ |q| < |(n : Rat)| + 1 ∧ 0 ≤ q * n
  | .rm => n ≤ q ∧ q < n + 1
  | .rp => q ≤ n ∧ n < q + 1

/-- A float result: a code in the low bits of one register, zeros above, and flags. -/
def floatResult (d : Reg) (r : FRes) : List (Nat × Word) × List (PredIx × Bool) × Word :=
  ([(d.toNat, BitVec.ofNat 32 r.code)], [], r.flags)
/-- The bits of a float operand. -/
def floatBits (t : FTy) (rd : Nat → Word) (r : Reg) : Nat := ((rd r.toNat).extractLsb' 0 (fWidth t)).toNat
/-- The operand of a floating I form: 20 bits at the top of an FP32 (R87). -/
def floatImm (imm : BitVec 20) : Nat := (imm ++ 0#12).toNat
/-- A half of a packed register. -/
def halfBits (x : Word) (e : Nat) : Nat := (x.extractLsb' (16 * e) 16).toNat
/-- Two halves computed alike. -/
def packed (d : Reg) (f : Nat → FRes) : List (Nat × Word) × List (PredIx × Bool) × Word :=
  ([(d.toNat, BitVec.ofNat 16 (f 1).code ++ BitVec.ofNat 16 (f 0).code)], [], (f 0).flags ||| (f 1).flags)

/-! ## Sequencer commands (R198 to R219) -/

/-- A command of a team's stream is in progress: `e` is its surroundings and `next` the word after it. -/
def Commands (s : State) (e : BulkEnv) (next : Nat) : Prop :=
  s.seqCur = some (e.team.tid, next) ∧ bulkEnv s e.team.tid = some e

/-- A command completes: the stream goes on at `pos`, the sequencer of its team changes by `f`, the command counts, and
nothing else changes. -/
def SeqCompletes (i : Instr) (s : State) (e : BulkEnv) (pos : Nat) (f : Sequencer → Sequencer) : Prop :=
  ∃ s', exec i s = .next s' ∧ s' = { s with teams := s'.teams, contexts := s'.contexts } ∧
    s'.contexts = (countEvent s e.ctx.asid 2 1).contexts ∧
    ∀ k, getTeam s' k = (getTeam s k).map fun t =>
      if k = e.team.tid then { t with seq := { f t.seq with pos := pos, split := none, words := none } } else t

/-- A command faults: the stream stops where it stands, one record of the sequencer joins those of the context, and
nothing else changes (R217). -/
def SeqFaults (i : Instr) (s : State) (e : BulkEnv) (c : SeqCause) : Prop :=
  ∃ s', exec i s = .next s' ∧ s' = { s with teams := s'.teams, contexts := s'.contexts } ∧
    (∀ k, getTeam s' k = (getTeam s k).map fun t =>
      if k = e.team.tid then { t with seq := { t.seq with status := .faulted c false } } else t) ∧
    ∃ r, (getCtx s' e.ctx.asid).map (·.pending) = (getCtx s e.ctx.asid).map (fun x => x.pending ++ [r]) ∧
      r.cls = seqClass c ∧ r.info = seqRow c ∧ r.src = 1 ∧ r.pc = e.team.seq.pos ∧ r.team = e.team.index ∧ r.repl = true

/-- A command completes with tile `mt` of a kind: element (i, j) is `f i j`. -/
def TileBecomes (i : Instr) (s : State) (e : BulkEnv) (next : Nat) (mt : BitVec 4) (kind : MKind)
    (f : Nat → Nat → Nat) : Prop :=
  ∃ el : List Nat, el.length = 4096 ∧ (∀ r < 64, ∀ c < 64, el.getD (64 * r + c) 0 = f r c) ∧
    SeqCompletes i s e next fun q => { q with tiles := tput noTile q.tiles mt.toNat ⟨some kind, el⟩ }

/-- Tile `mt` is defined with a kind and its elements. -/
def HoldsTile (e : BulkEnv) (mt : BitVec 4) (kind : MKind) (el : List Nat) : Prop :=
  tget noTile e.team.seq.tiles mt.toNat = ⟨some kind, el⟩ ∧ el.length = 4096

/-- A command may use 64 rows of `n` bytes of scratch: they lie in scratch, and in the named tile, which is ready. -/
def RowsAtHand (e : BulkEnv) (x : MRange) (n : Nat) : Prop :=
  (∀ i < 64, x.addr.toNat * 16 + i * (x.pitch.toNat * 16) + n ≤ e.grid.desc.scratch * 128) ∧
  (x.tv = true → ∃ t, e.team.tiles[x.tile.toNat]? = some t ∧ t.state = 2 ∧
    ∀ i < 64, t.base ≤ x.addr.toNat * 16 + i * (x.pitch.toNat * 16) ∧
      x.addr.toNat * 16 + i * (x.pitch.toNat * 16) + n ≤ t.base + t.lines * 128)

/-- The sum of a k-block of eight FP32 products (R57). -/
def blockSum (p : Nat → Nat) : Nat :=
  let add := fun x y => (faddCode .f32 fPlain x y).code
  add (add (add (p 0) (p 1)) (add (p 2) (p 3))) (add (add (p 4) (p 5)) (add (p 6) (p 7)))

/-- k-blocks lo to lo + n − 1 folded into an FP32 accumulator: each product is rounded once; the last block of `K`
elements is filled with products +0, and no block after it is folded (R57). -/
def dotFloat (K : Nat) (a b : Nat → FVal) (lo : Nat) : Nat → Nat → Nat
  | 0, acc => acc
  | n + 1, acc =>
    if K ≤ 8 * (lo + n) then dotFloat K a b lo n acc
    else (faddCode .f32 fPlain (dotFloat K a b lo n acc) (blockSum fun i =>
      if K ≤ 8 * (lo + n) + i then 0
      else (fRound .f32 .rn false (fMul (a (8 * (lo + n) + i)) (b (8 * (lo + n) + i))).1).code)).code

/-- The exact sum of products of k-blocks lo to lo + n − 1. -/
def dotInt (a b : Nat → Int) (lo n : Nat) : Int :=
  ((List.range (8 * n)).map fun i => a (8 * lo + i) * b (8 * lo + i)).sum

/-- A multiplying command with its operands at hand: descriptor `d` (its word `w`), buffer `b` with code `bc`, loop index
`ix`, `lo` k-blocks already folded. -/
structure Multiplies (s : State) (e : BulkEnv) (next : Nat) (x : MmaOp) (d : ADesc) (w : Nat) (bc : ECode) (b : BBuf)
    (kb k0 lo : Nat) : Prop where
  on     : Commands s e next
  index  : k0 = x.k0.toNat + kb * (if x.ix then ((e.team.seq.loops.head?.map (·.index)).getD 0) else 0)
  loop   : x.ix = true → e.team.seq.loops ≠ []
  buf    : tget noBuf e.team.seq.bufs x.bb.toNat = b
  code   : b.code = some bc
  desc   : w = memRead s.mem (keyScr e.team.tid (tget (32 * x.ud.toNat) e.team.seq.ud x.ud.toNat)) 32
  read   : readDesc w = some d
  room   : tget (32 * x.ud.toNat) e.team.seq.ud x.ud.toNat + 32 ≤ e.grid.desc.scratch * 128
  ranges : ∀ r ∈ aRanges d x.p0.toNat k0 kb, r.1 + r.2 ≤ e.grid.desc.scratch * 128
  full   : s.empties = []
  clean  : s.poison = []
  calm   : s.upsets = []
  split  : e.team.seq.split = if lo = 0 then none else some (lo, w)

/-- A multiplying command folds its next granule (R218): the accumulator becomes `f lo n`, and the command completes or
stands at its boundary. -/
def FoldsGranule (i : Instr) (s : State) (e : BulkEnv) (next : Nat) (x : MmaOp) (w kb lo : Nat) (kind : MKind)
    (f : Nat → Nat → Nat → Nat) : Prop :=
  let n := if x.gran = 0 then kb / 8 - lo else min (2 ^ (x.gran.toNat - 1)) (kb / 8 - lo)
  if kb / 8 ≤ lo + n then TileBecomes i s e next x.mt kind (f n)
  else ∃ el : List Nat, el.length = 4096 ∧ (∀ r < 64, ∀ c < 64, el.getD (64 * r + c) 0 = f n r c) ∧
    ∃ s', exec i s = .next s' ∧ s' = { s with teams := s'.teams } ∧
      ∀ k, getTeam s' k = (getTeam s k).map fun t => if k = e.team.tid then
        { t with seq := { t.seq with tiles := tput noTile t.seq.tiles x.mt.toNat ⟨some kind, el⟩, split := some (lo + n, w) } }
        else t

/-! ## Service cores (R93, R94, R244 to R247) -/

/-- A service core of X executes a word for a context whose tag may use Xvexrus. -/
structure Serves (s : State) (n : Nat) (x : Context) : Prop where
  cur  : s.rvCur = some n
  core : n < 32
  ctx  : getCtx s (getRv s n).asid = some x
  tag  : x.tag ≠ 2

/-- Every core but one is as it was. -/
def OtherCores (s s' : State) (n : Nat) : Prop := ∀ m, m ≠ n → getRv s' m = getRv s m

/-- A core's instruction ends: rd holds the status, x0 reads 0, and the core stands at the next word. -/
def CoreEnds (s s' : State) (n : Nat) (rd : BitVec 5) (status : Nat) : Prop :=
  (∀ r, rvReg (getRv s' n) r = if r = rd ∧ r ≠ 0 then BitVec.ofNat 64 status else rvReg (getRv s n) r) ∧
  getRv s' n = { getRv s n with x := (getRv s' n).x, pc := (getRv s n).pc + 4 }

/-- A core's instruction ends with a status and has no other effect. -/
def OnlyStatus (i : Instr) (s : State) (n : Nat) (rd : BitVec 5) (status : Nat) : Prop :=
  ∃ s', exec i s = .next s' ∧ s' = { s with rv := s'.rv } ∧ CoreEnds s s' n rd status ∧ OtherCores s s' n

/-- A core takes the illegal-instruction exception at its word `w`: in machine mode at the base of its vector, or in
supervisor mode where a control or service core below machine mode has it delegated (log 8). -/
def CoreTraps (i : Instr) (s : State) (n : Nat) (w : DWord) : Prop :=
  let r := getRv s n
  ∃ s', exec i s = .next s' ∧ s' = { s with rv := s'.rv } ∧ OtherCores s s' n ∧
    let r' := getRv s' n
    let csr := tget 0 r'.csr
    r'.x = r.x ∧
    (if n < 64 ∧ r.mode ≤ 1 ∧ (tget 0 r.csr 0x302).getLsbD 2 = true then
      r'.mode = 1 ∧ r'.pc = tget 0 r.csr 0x105 &&& ~~~3#64 ∧ csr 0x141 = r.pc ∧ csr 0x142 = 2 ∧ csr 0x143 = w ∧
        r'.mepc = r.mepc ∧ r'.mcause = r.mcause
    else
      r'.mode = 3 ∧ r'.pc = r.mtvec &&& ~~~3#64 ∧ r'.mepc = r.pc ∧ r'.mcause = 2 ∧ csr 0x343 = w)

end Sys2Proof.Machine
end

