-- ==== Sys2Proof/Certificates/Slice0/Obligations.lean ====
section
/-!
DEFINITION. The statements for the provers. A statement of several parts is named after what they all say; its parts stand
before it as `Parts.<Name>`.
-/

open Sys2Proof Sys2Proof.Machine

/-! ## Register-only instructions and numbers -/

/-- R111, Table 6.3: the exact sum, difference, minimum, maximum, magnitude or negation, held to the type's range with
SAT, delivered modulo 2^w; nothing else changes, and no flag is set. All fourteen forms. -/
def Parts.IntegerArithmeticDeliversTheExactResultModuloTheWidth : Prop :=
  ∀ (g : Guard) (ty : ITy) (sat : Bool) (d a b : Reg) (imm : BitVec 20) (v : DWord),
    let W := fun (i : Instr) (us : List RegUse) (n : (Nat → Word) → Int) =>
      Writes i g us anyOperands fun rd _ => onlyRegs (deliverInt ty d (n rd))
    let A := fun rd => intOperand ty rd a
    let B := fun rd => intOperand ty rd b
    let r := useDAB ty.is64 d a b
    let k := useDA ty.is64 d a
    W (.iaddR g ty sat d a b) r (fun rd => held sat ty (A rd + B rd)) ∧
    W (.iaddI g ty sat d a imm) k (fun rd => held sat ty (A rd + intSigned ty imm)) ∧
    W (.iaddL g ty sat d a v) k (fun rd => held sat ty (A rd + intLiteral ty v)) ∧
    W (.isubR g ty sat d a b) r (fun rd => held sat ty (A rd - B rd)) ∧
    W (.isubI g ty sat d a imm) k (fun rd => held sat ty (A rd - intSigned ty imm)) ∧
    W (.isubL g ty sat d a v) k (fun rd => held sat ty (A rd - intLiteral ty v)) ∧
    W (.iminR g ty d a b) r (fun rd => min (A rd) (B rd)) ∧
    W (.iminI g ty d a imm) k (fun rd => min (A rd) (intSigned ty imm)) ∧
    W (.iminL g ty d a v) k (fun rd => min (A rd) (intLiteral ty v)) ∧
    W (.imaxR g ty d a b) r (fun rd => max (A rd) (B rd)) ∧
    W (.imaxI g ty d a imm) k (fun rd => max (A rd) (intSigned ty imm)) ∧
    W (.imaxL g ty d a v) k (fun rd => max (A rd) (intLiteral ty v)) ∧
    W (.iabs g ty sat d a) k (fun rd => held sat ty |A rd|) ∧
    W (.ineg g ty sat d a) k (fun rd => held sat ty (-A rd))

/-- R112: the carry and the borrow go through the predicate named in C: it is read as 0 or 1 and then set when the exact
result leaves the width. The words have the predicate in C and ITY 0 or 2. -/
def Parts.CarryChainsGoThroughTheNamedPredicate : Prop :=
  ∀ (g : Guard) (w64 : Bool) (d a b : Reg) (p : PredIx),
    let ty : ITy := if w64 then .n64 else .n32
    let cin := fun (t : Thread) => if rdPred t p then (1 : Int) else 0
    (Writes (.iaddc g w64 d a b p) g (useDAB w64 d a b) anyOperands fun rd t =>
      let x := intOperand ty rd a + intOperand ty rd b + cin t
      (deliverInt ty d x, [(p, decide (x ≥ 2 ^ itW ty))], 0)) ∧
    (Writes (.isubc g w64 d a b p) g (useDAB w64 d a b) anyOperands fun rd t =>
      let x := intOperand ty rd a - intOperand ty rd b - cin t
      (deliverInt ty d x, [(p, decide (x < 0))], 0)) ∧
    (let word := fun (op : Byte) => Words.thread (0#1 ++ op ++ g.p ++ BitVec.ofBool g.neg ++ d ++ a ++ b ++ (0#4 ++ p) ++
        ((if w64 then 2#3 else 0#3) ++ 0#4) ++ 0#1) none
     encode (.iaddc g w64 d a b p) = word 0x11 ∧ encode (.isubc g w64 d a b p) = word 0x13)

/-- Integer sums, differences, extremes and magnitudes are exact modulo the width, and carries go through the named predicate -/
def Obligations.IntegerResultsAreExactModuloTheWidthWithCarries : Prop :=
  Parts.IntegerArithmeticDeliversTheExactResultModuloTheWidth ∧
  Parts.CarryChainsGoThroughTheNamedPredicate

/-- R113 and R114: products by HW with their addends, and the small dot products with SAT. -/
def Parts.ProductsAndDotProductsAccumulateExactly : Prop :=
  ∀ (g : Guard) (ty : ITy) (hw : HW) (d a b c : Reg) (imm : BitVec 20) (v : DWord) (sgn sa sb hi sat : Bool),
    let A := fun rd => intOperand ty rd a
    let B := fun rd => intOperand ty rd b
    let C := fun rd => intOperand ty rd c
    let D := dst (ty.is64 || hw == .wide) d
    let S := fun r => src ty.is64 r
    let SC := src (ty.is64 || hw == .wide) c
    let dty : ITy := if sgn then .i32 else .n32
    let dot := fun (n : Nat) (f : Nat → Int) => ((List.range n).map f).sum
    (Writes (.imulR g ty hw d a b) g [D, S a, S b] anyOperands fun rd _ =>
      onlyRegs (product ty hw d (A rd) (B rd) 0 0)) ∧
    (Writes (.imulI g ty hw d a imm) g [D, S a] anyOperands fun rd _ =>
      onlyRegs (product ty hw d (A rd) (intSigned ty imm) 0 0)) ∧
    (Writes (.imulL g ty hw d a v) g [D, S a] anyOperands fun rd _ =>
      onlyRegs (product ty hw d (A rd) (intLiteral ty v) 0 0)) ∧
    (hw ≠ .hi → Writes (.imadR g ty hw d a b c) g [D, S a, S b, SC] anyOperands fun rd _ =>
      onlyRegs (product ty hw d (A rd) (B rd) (C rd) (addend64 ty rd c))) ∧
    (hw ≠ .hi → Writes (.imadL g ty hw d a c v) g [D, S a, SC] anyOperands fun rd _ =>
      onlyRegs (product ty hw d (A rd) (intLiteral ty v) (C rd) (addend64 ty rd c))) ∧
    (Writes (.dot4R g sgn sa sb sat d a b c) g (fUses d [a, b, c]) anyOperands fun rd _ =>
      onlyRegs (deliverInt dty d (held sat dty (intOperand dty rd c +
        dot 4 fun i => element sa 8 i (rd a.toNat) * element sb 8 i (rd b.toNat))))) ∧
    (Writes (.dot4L g sgn sa sb sat d a c v) g (fUses d [a, c]) anyOperands fun rd _ =>
      onlyRegs (deliverInt dty d (held sat dty (intOperand dty rd c +
        dot 4 fun i => element sa 8 i (rd a.toNat) * element sb 8 i (v.setWidth 32))))) ∧
    (Writes (.dot2 g sgn sa sb hi sat d a b c) g (fUses d [a, b, c]) anyOperands fun rd _ =>
      onlyRegs (deliverInt dty d (held sat dty (intOperand dty rd c +
        dot 2 fun i => element sa 16 i (rd a.toNat) * element sb 8 (i + if hi then 2 else 0) (rd b.toNat)))))

/-- R124 and R125: with a valid modulus and operands below it, each modular instruction and butterfly delivers the exact
result reduced once, from a modulus in a register pair or a literal; a lane whose check fails takes a precise arithmetic
fault with no effect. -/
def Parts.ModularInstructionsReduceTheExactResultOnce : Prop :=
  ∀ (g : Guard) (d a b c : Reg) (q : DWord) (wide gs : Bool),
    let Z := fun (rd : Nat → Word) (r : Reg) => ((pair64 rd r).toNat : Int)
    let three := [dst true d, src true a, src true b]
    let Fails := fun (i : Instr) (us : List RegUse) (pre : (Nat → Word) → Thread → Prop) =>
      ∀ s c e l t t0 rd, Lone s c e g us l t t0 rd → ¬pre rd t0 → ∃ s', exec i s = .next s' ∧ OnlyThreads s s' ∧
        LaneBecomes s s' c l (faulted c 0x0A 0 t)
    let both := fun (iR iL : Instr) (us : List RegUse) (ops : List Reg)
        (x : (Nat → Word) → BitVec 64 → List (Nat × Word)) =>
      (iR.wf = true → Writes iR g (us.take 3 ++ [src true c] ++ us.drop 3) (residues (pair64 · c) ops)
          (fun rd _ => onlyRegs (x rd (pair64 rd c))) ∧
        Fails iR (us.take 3 ++ [src true c] ++ us.drop 3) (residues (pair64 · c) ops)) ∧
      (iL.wf = true → Writes iL g us (residues (fun _ => q) ops) (fun rd _ => onlyRegs (x rd q)) ∧
        Fails iL us (residues (fun _ => q) ops))
    let wideSrc := fun (rd : Nat → Word) => if wide then Z rd a + 2 ^ 64 * Z rd (a + 2) else Z rd a
    let mreds := [dst true d, if wide then ⟨a.toNat, 4, true, false⟩ else src true a]
    both (.maddmR g d a b c) (.maddmL g d a b q) three [a, b] (fun rd q => reduced d (Z rd a + Z rd b) q) ∧
    both (.msubmR g d a b c) (.msubmL g d a b q) three [a, b] (fun rd q => reduced d (Z rd a - Z rd b) q) ∧
    both (.mmulmR g d a b c) (.mmulmL g d a b q) three [a, b] (fun rd q => reduced d (Z rd a * Z rd b) q) ∧
    both (.mmacmR g d a b c) (.mmacmL g d a b q) (three ++ [src true d]) [a, b, d]
      (fun rd q => reduced d (Z rd a * Z rd b + Z rd d) q) ∧
    both (.mredR g wide d a c) (.mredL g wide d a q) mreds [] (fun rd q => reduced d (wideSrc rd) q) ∧
    ((Instr.bflyR g gs d a b c).wf = true →
      Writes (.bflyR g gs d a b c) g (bflyUses d a b ++ [src true c]) (residues (pair64 · c) [d, a, b]) fun rd _ =>
        let q := pair64 rd c
        onlyRegs (if gs then reduced d (Z rd d + Z rd a) q ++ reduced a ((Z rd d - Z rd a) * Z rd b) q
          else reduced d (Z rd d + Z rd b * Z rd a) q ++ reduced a (Z rd d - Z rd b * Z rd a) q)) ∧
    ((Instr.bflyR g gs d a b c).wf = true →
      Fails (.bflyR g gs d a b c) (bflyUses d a b ++ [src true c]) (residues (pair64 · c) [d, a, b])) ∧
    ((Instr.bflyL g gs d a b q).wf = true → Fails (.bflyL g gs d a b q) (bflyUses d a b) (residues (fun _ => q) [d, a, b])) ∧
    ((Instr.bflyL g gs d a b q).wf = true →
      Writes (.bflyL g gs d a b q) g (bflyUses d a b) (residues (fun _ => q) [d, a, b]) fun rd _ =>
        onlyRegs (if gs then reduced d (Z rd d + Z rd a) q ++ reduced a ((Z rd d - Z rd a) * Z rd b) q
          else reduced d (Z rd d + Z rd b * Z rd a) q ++ reduced a (Z rd d - Z rd b * Z rd a) q))

/-- Products, dot products and modular results are computed exactly and reduced once; a failed modular check is an arithmetic fault -/
def Obligations.ProductsAndResiduesAreComputedExactlyOnce : Prop :=
  Parts.ProductsAndDotProductsAccumulateExactly ∧
  Parts.ModularInstructionsReduceTheExactResultOnce

/-- R115 and R116: the logical operations on the operand's bits, the counts, the reversal and the three-input table. -/
def Parts.LogicalOperationsActBitByBit : Prop :=
  ∀ (g : Guard) (ty : ITy) (d a b c : Reg) (imm : BitVec 20) (v : DWord) (tt : BitVec 7), ty.signed = false →
    let W := fun (i : Instr) (us : List RegUse) (x : (Nat → Word) → BitVec (itW ty)) =>
      Writes i g us anyOperands fun rd _ => onlyRegs (deliverBits ty d (x rd))
    let A := fun rd => intBits ty rd a
    let B := fun rd => intBits ty rd b
    let I : BitVec (itW ty) := imm.setWidth _
    let L : BitVec (itW ty) := v.setWidth _
    let r := useDAB ty.is64 d a b
    let k := useDA ty.is64 d a
    W (.andR g ty d a b) r (fun rd => A rd &&& B rd) ∧
    W (.andI g ty d a imm) k (fun rd => A rd &&& I) ∧
    W (.andL g ty d a v) k (fun rd => A rd &&& L) ∧
    W (.orR g ty d a b) r (fun rd => A rd ||| B rd) ∧
    W (.orI g ty d a imm) k (fun rd => A rd ||| I) ∧
    W (.orL g ty d a v) k (fun rd => A rd ||| L) ∧
    W (.xorR g ty d a b) r (fun rd => A rd ^^^ B rd) ∧
    W (.xorI g ty d a imm) k (fun rd => A rd ^^^ I) ∧
    W (.xorL g ty d a v) k (fun rd => A rd ^^^ L) ∧
    W (.not g ty d a) k (fun rd => ~~~A rd) ∧
    W (.brev g ty d a) k (fun rd => (A rd).reverse) ∧
    (Writes (.popc g ty d a) g [dst false d, src ty.is64 a] anyOperands fun rd _ =>
      onlyRegs [(d.toNat, BitVec.ofNat 32 (ones (A rd)))]) ∧
    (Writes (.clz g ty d a) g [dst false d, src ty.is64 a] anyOperands fun rd _ =>
      onlyRegs [(d.toNat, BitVec.ofNat 32 (leadingZeros (A rd)))]) ∧
    (Writes (.lop3Lo g tt d a b c) g (fUses d [a, b, c]) anyOperands fun rd _ =>
      onlyRegs [(d.toNat, lop3Bits (0#1 ++ tt) (rd a.toNat) (rd b.toNat) (rd c.toNat))]) ∧
    (Writes (.lop3Hi g tt d a b c) g (fUses d [a, b, c]) anyOperands fun rd _ =>
      onlyRegs [(d.toNat, lop3Bits (1#1 ++ tt) (rd a.toNat) (rd b.toNat) (rd c.toNat))])

/-- R117 to R119: shifts whose amount is never taken modulo the width, the funnel shift, and the fields taken out and
put in. -/
def Parts.ShiftsAndFieldsNeverReduceTheirAmounts : Prop :=
  ∀ (g : Guard) (ty : ITy) (left : Bool) (d a b c : Reg) (imm : BitVec 20) (ctl : BitVec 16),
    let W := fun (i : Instr) (us : List RegUse) (x : (Nat → Word) → BitVec (itW ty)) =>
      Writes i g us anyOperands fun rd _ => onlyRegs (deliverBits ty d (x rd))
    let A := fun rd => intBits ty rd a
    let amount := fun (rd : Nat → Word) => (rd b.toNat).toNat
    let right := fun (x : BitVec (itW ty)) (n : Nat) => if ty.signed then x.sshiftRight n else x >>> n
    let r := [dst ty.is64 d, src ty.is64 a, src false b]
    (ty.signed = false → W (.shlR g ty d a b) r (fun rd => A rd <<< amount rd)) ∧
    (ty.signed = false → W (.shlI g ty d a imm) (useDA ty.is64 d a) (fun rd => A rd <<< imm.toNat)) ∧
    W (.shrR g ty d a b) r (fun rd => right (A rd) (amount rd)) ∧
    W (.shrI g ty d a imm) (useDA ty.is64 d a) (fun rd => right (A rd) imm.toNat) ∧
    (Writes (.shf g left d a b c) g (fUses d [a, b, c]) anyOperands fun rd _ =>
      let x : BitVec 64 := rd c.toNat ++ rd a.toNat
      let n := min (amount rd) 32
      onlyRegs [(d.toNat, if left then (x <<< n).extractLsb' 32 32 else (x >>> n).extractLsb' 0 32)]) ∧
    W (.bfxR g ty d a b) r (fun rd => fieldOf ty (A rd) (amount rd)) ∧
    W (.bfxI g ty d a ctl) (useDA ty.is64 d a) (fun rd => fieldOf ty (A rd) ctl.toNat) ∧
    (ty.signed = false → W (.bfiR g ty d a b c) (r ++ [src ty.is64 c])
      (fun rd => fieldInto ty (intBits ty rd c) (A rd) (amount rd))) ∧
    (ty.signed = false → W (.bfiI g ty d a ctl) [dst ty.is64 d, src ty.is64 d, src ty.is64 a]
      (fun rd => fieldInto ty (intBits ty rd d) (A rd) ctl.toNat))

/-- Logical operations, counts, shifts, the funnel shift and fields act on the bits of their operands; no amount is reduced -/
def Obligations.LogicShiftsAndFieldsActOnTheirBits : Prop :=
  Parts.LogicalOperationsActBitByBit ∧
  Parts.ShiftsAndFieldsNeverReduceTheirAmounts

/-- R110 and R120: moves, constants and `lea`, with the words of the moves. -/
def Parts.MovesConstantsAndAddressesAreDelivered : Prop :=
  ∀ (g : Guard) (ty : ITy) (w : Bool) (d a b : Reg) (imm : BitVec 20) (v : DWord) (sgn : Bool) (sh : BitVec 4),
    let value := fun (w64 : Bool) (x : BitVec 64) => onlyRegs (if w64 then toPair d x else [(d.toNat, x.setWidth 32)])
    (Writes (.mov g ty d a) g (useDA ty.is64 d a) anyOperands fun rd _ => onlyRegs (deliverBits ty d (intBits ty rd a))) ∧
    (Writes (.movi g w d imm) g [dst w d] anyOperands fun _ _ => value w (imm.signExtend 64)) ∧
    (Writes (.lit g w d v) g [dst (!w) d] anyOperands fun _ _ => value (!w) v) ∧
    (Writes (.lea g sgn sh d a b) g [dst true d, src true a, src false b] anyOperands fun rd _ =>
      let ix : BitVec 64 := if sgn then (rd b.toNat).signExtend 64 else (rd b.toNat).setWidth 64
      onlyRegs (toPair d (pair64 rd a + ix <<< sh.toNat))) ∧
    (let head := fun (op : Byte) => 0#1 ++ op ++ g.p ++ BitVec.ofBool g.neg ++ d
     encode (.mov g ty d a) = .thread (head 0x2C ++ a ++ 0#10 ++ 0#10 ++ (ty.bits ++ 0#4) ++ 0#1) none ∧
     encode (.movi g w d imm) = .thread (head 0x3E ++ 0#10 ++ imm ++ (0#6 ++ BitVec.ofBool w) ++ 0#1) none ∧
     encode (.lit g w d v) = .thread (head 0x43 ++ 0#10 ++ 0#10 ++ 0#10 ++ (0#6 ++ BitVec.ofBool w) ++ 0#1) (some v)) ∧
    ((Instr.movi g true d imm).wf = true ↔ d.toNat % 2 = 0) ∧ ((Instr.lit g false d v).wf = true ↔ d.toNat % 2 = 0)

/-- R106 to R109: comparison into a predicate, predicate logic, the three modes of `pmov`, and selection with its words. A
write to p0 is discarded. -/
def Parts.PredicatesAreComparedCombinedSavedAndSelected : Prop :=
  ∀ (g : Guard) (ty : ITy) (cmp : Cmp) (p : PredIx) (d a b : Reg) (imm : BitVec 20) (v : DWord) (w64 : Bool)
    (op : BOp) (na nb : Bool) (pd pa pb : PredIx),
    let A := fun rd => intOperand ty rd a
    let bop := fun (x y : Bool) => match op with | .and => x && y | .or => x || y | .xor => x ^^ y
    let value := fun (x : BitVec 64) => onlyRegs (if w64 then toPair d x else [(d.toNat, x.setWidth 32)])
    let chosen := fun (rd : Nat → Word) (t : Thread) (y : BitVec 64) =>
      value (if rdPred t p then (if w64 then pair64 rd a else (rd a.toNat).setWidth 64) else y)
    (cmp.integer = true →
      (Writes (.isetR g ty cmp p a b) g [src ty.is64 a, src ty.is64 b] anyOperands fun rd _ =>
        onlyPreds [(p, intHolds cmp (A rd) (intOperand ty rd b))]) ∧
      (Writes (.isetI g ty cmp p a imm) g [src ty.is64 a] anyOperands fun rd _ =>
        onlyPreds [(p, intHolds cmp (A rd) (intSigned ty imm))]) ∧
      (Writes (.isetL g ty cmp p a v) g [src ty.is64 a] anyOperands fun rd _ =>
        onlyPreds [(p, intHolds cmp (A rd) (intLiteral ty v))])) ∧
    (Writes (.pset g op na nb pd pa pb) g [] anyOperands fun _ t =>
      onlyPreds [(pd, bop (rdPred t pa ^^ na) (rdPred t pb ^^ nb))]) ∧
    (Writes (.pmov g (.copy pd pa na)) g [] anyOperands fun _ t => onlyPreds [(pd, rdPred t pa ^^ na)]) ∧
    (Writes (.pmov g (.save d)) g [dst true d] anyOperands fun _ t => onlyRegs (toPair d (t.p ||| 1))) ∧
    (Writes (.pmov g (.load a)) g [src true a] anyOperands fun rd _ =>
      onlyPreds ((List.range 63).map fun k => (BitVec.ofNat 6 (k + 1), (pair64 rd a).getLsbD (k + 1)))) ∧
    (Writes (.selR g p w64 d a b) g (useDAB w64 d a b) anyOperands fun rd t =>
      chosen rd t (if w64 then pair64 rd b else (rd b.toNat).setWidth 64)) ∧
    (Writes (.selI g p w64 d a imm) g (useDA w64 d a) anyOperands fun rd t => chosen rd t (imm.signExtend 64)) ∧
    (Writes (.selL g p w64 d a v) g (useDA w64 d a) anyOperands fun rd t => chosen rd t v) ∧
    (let head := fun (op : Byte) => 0#1 ++ op ++ g.p ++ BitVec.ofBool g.neg ++ d ++ a
     let tail := p ++ BitVec.ofBool w64 ++ 0#1
     encode (.selR g p w64 d a b) = .thread (head 0x2B ++ b ++ 0#10 ++ tail) none ∧
     encode (.selI g p w64 d a imm) = .thread (head 0x3D ++ imm ++ tail) none ∧
     encode (.selL g p w64 d a v) = .thread (head 0x4E ++ 0#10 ++ 0#10 ++ tail) (some v)) ∧
    ((Instr.selR g p true d a b).wf = true ↔ d.toNat % 2 = 0 ∧ a.toNat % 2 = 0 ∧ b.toNat % 2 = 0) ∧
    ((Instr.selI g p true d a imm).wf = true ↔ d.toNat % 2 = 0 ∧ a.toNat % 2 = 0) ∧
    ((Instr.selL g p true d a v).wf = true ↔ d.toNat % 2 = 0 ∧ a.toNat % 2 = 0)

/-- Moves, constants, addresses, comparisons, predicate logic and selections deliver their results; p0 stays true -/
def Obligations.MovesSelectionsAndPredicatesAreDelivered : Prop :=
  Parts.MovesConstantsAndAddressesAreDelivered ∧
  Parts.PredicatesAreComparedCombinedSavedAndSelected

/-- R130 and R135: the four arithmetic instructions and the packed halves compute the exact result of their operands and
round it once. The exact result: a finite sum, product or fused product and sum has the rational value that arithmetic
gives it, whatever the mode. -/
def Parts.FloatArithmeticRoundsTheExactResultOnce : Prop :=
  (∀ rm x y z, x.Finite → y.Finite → z.Finite →
    ((fAdd rm x y).1.Finite ∧ (fAdd rm x y).1.rat = x.rat + y.rat ∧ (fAdd rm x y).2 = 0) ∧
    ((fMul x y).1.Finite ∧ (fMul x y).1.rat = x.rat * y.rat ∧ (fMul x y).2 = 0) ∧
    ((fFma rm x y z).1.Finite ∧ (fFma rm x y z).1.rat = x.rat * y.rat + z.rat ∧ (fFma rm x y z).2 = 0)) ∧
  ∀ (g : Guard) (t : FTy) (m : FMod) (d a b c : Reg) (imm : BitVec 20) (v : DWord),
    let W := fun (i : Instr) (us : List Reg) (r : (Nat → Word) → FRes) =>
      Writes i g (fUses d us) anyOperands fun rd _ => floatResult d (r rd)
    let H := fun (i : Instr) (us : List Reg) (r : (Nat → Word) → Nat → FRes) => t.half = true →
      Writes i g (fUses d us) anyOperands fun rd _ => packed d (r rd)
    let op := fun (t : FTy) (x : Nat) => fOperand t m.ftz x
    let fin := fun (t : FTy) (x : FOut) => fFinish t m x
    let A := fun rd => op t (floatBits t rd a)
    let B := fun rd => op t (floatBits t rd b)
    let C := fun rd => op t (floatBits t rd c)
    let L := op t (v.extractLsb' 0 (fWidth t)).toNat
    let h := fun (x : Word) (e : Nat) => op t (halfBits x e)
    W (.faddR g t m d a b) [a, b] (fun rd => fin t (fAdd m.rm (A rd) (B rd))) ∧
    W (.faddI g m d a imm) [a] (fun rd => fin .f32 (fAdd m.rm (op .f32 (floatBits .f32 rd a)) (op .f32 (floatImm imm)))) ∧
    W (.faddL g t m d a v) [a] (fun rd => fin t (fAdd m.rm (A rd) L)) ∧
    W (.fsubR g t m d a b) [a, b] (fun rd => fin t (fAdd m.rm (A rd) (fNeg (B rd)))) ∧
    W (.fsubL g t m d a v) [a] (fun rd => fin t (fAdd m.rm (A rd) (fNeg L))) ∧
    W (.fmulR g t m d a b) [a, b] (fun rd => fin t (fMul (A rd) (B rd))) ∧
    W (.fmulI g m d a imm) [a] (fun rd => fin .f32 (fMul (op .f32 (floatBits .f32 rd a)) (op .f32 (floatImm imm)))) ∧
    W (.fmulL g t m d a v) [a] (fun rd => fin t (fMul (A rd) L)) ∧
    W (.ffmaR g t m d a b c) [a, b, c] (fun rd => fin t (fFma m.rm (A rd) (B rd) (C rd))) ∧
    W (.ffmaL g t m d a c v) [a, c] (fun rd => fin t (fFma m.rm (A rd) L (C rd))) ∧
    H (.hadd2 g t m d a b) [a, b] (fun rd e => fin t (fAdd m.rm (h (rd a.toNat) e) (h (rd b.toNat) e))) ∧
    H (.hmul2 g t m d a b) [a, b] (fun rd e => fin t (fMul (h (rd a.toNat) e) (h (rd b.toNat) e))) ∧
    H (.hfma2R g t m d a b c) [a, b, c]
      (fun rd e => fin t (fFma m.rm (h (rd a.toNat) e) (h (rd b.toNat) e) (h (rd c.toNat) e))) ∧
    H (.hfma2L g t m d a c v) [a, c]
      (fun rd e => fin t (fFma m.rm (h (rd a.toNat) e) (h (v.setWidth 32) e) (h (rd c.toNat) e)))

/-- R131 to R133. The order is that of the numbers, with the infinities at its ends and every NaN unordered. `fmin`
delivers the lesser and `fmax` the greater operand after FTZ, −0 below +0; the other operand beside one NaN, the canonical
NaN for two; invalid for a signalling NaN. `fset` sets the relation of Table 5.5; `.lt`, `.le`, `.gt` and `.ge` set
invalid for any NaN, the others for a signalling one. `fclass` sets the bits of Table 7.2. -/
def Parts.FloatsAreOrderedComparedAndClassified : Prop :=
  (∀ x y : FVal, x.Finite → y.Finite →
    relF x y = (if x.rat < y.rat then .lt else if x.rat = y.rat then .eq else .gt) ∧
    (∀ n, relF (.inf n) x = (if n then .lt else .gt) ∧ relF x (.inf n) = if n then .gt else .lt)) ∧
  (∀ m n, relF (.inf m) (.inf n) = if m = n then .eq else if m then .lt else .gt) ∧
  (∀ n x, relF (.nan n) x = .unordered ∧ relF x (.nan n) = .unordered) ∧
  ∀ (g : Guard) (t : FTy) (ftz : Bool) (cmp : Cmp) (p : PredIx) (d a b : Reg) (imm : BitVec 20) (v : DWord),
    let L := (v.extractLsb' 0 (fWidth t)).toNat
    let code := fun rd r => floatBits t rd r
    let A := fun rd => floatBits .f32 rd a
    let extreme := fun (t : FTy) (mx : Bool) (p q : Nat) =>
      let x := fOperand t ftz p
      let y := fOperand t ftz q
      let below := fun (x y : FVal) => match x, y with
        | .fin true 0 _, .fin false 0 _ => true
        | x, y => relF x y == .lt
      let operand := fun (x : FVal) (c : Nat) => match x with
        | .fin neg 0 _ => fZeroCode t neg
        | _ => c % 2 ^ fWidth t
      let fl : Word := if x = .nan true ∨ y = .nan true then flInvalid else 0
      (match x, y with
        | .nan _, .nan _ => ⟨fNanCode t, fl⟩
        | .nan _, y => ⟨operand y q, fl⟩
        | x, .nan _ => ⟨operand x p, fl⟩
        | x, y => ⟨if (below x y && mx) || (below y x && !mx) then operand y q else operand x p, fl⟩ : FRes)
    let trueFor : List Rel := match cmp with
      | .eq => [.eq] | .ne => [.lt, .gt] | .lt => [.lt] | .le => [.lt, .eq] | .gt => [.gt] | .ge => [.gt, .eq]
      | .num => [.lt, .eq, .gt] | .equ => [.eq, .unordered] | .neu => [.lt, .gt, .unordered]
      | .ltu => [.lt, .unordered] | .leu => [.lt, .eq, .unordered] | .gtu => [.gt, .unordered]
      | .geu => [.gt, .eq, .unordered] | .nan => [.unordered]
    let compared := fun (x y : FVal) =>
      let bad := if cmp ∈ [.lt, .le, .gt, .ge] then [.nan false, .nan true] else [FVal.nan true]
      (([], [(p, decide (relF x y ∈ trueFor))], if x ∈ bad ∨ y ∈ bad then flInvalid else 0) :
        List (Nat × Word) × List (PredIx × Bool) × Word)
    let classes := fun (x : FVal) =>
      let fin := fun (n : Bool) (p : Rat → Bool) => match x with
        | .fin neg m e => neg == n && p |(FVal.fin neg m e).rat|
        | _ => false
      let huge := fun (p : Rat → Bool) => match x with
        | .inf _ => true
        | .nan _ => false
        | y => p |y.rat|
      let least : Rat := if t = .f16 then 2 ^ (-14 : Int) else 2 ^ (-126 : Int)
      [x == .nan true, x == .nan false, x == .inf true, fin true (least ≤ ·), fin true (fun q => 0 < q ∧ q < least),
        fin true (· = 0), fin false (· = 0), fin false (fun q => 0 < q ∧ q < least), fin false (least ≤ ·),
        x == .inf false, huge (464 < ·), huge (61440 ≤ ·), huge (65520 ≤ ·)]
    (Writes (.fminR g t ftz d a b) g (fUses d [a, b]) anyOperands fun rd _ =>
      floatResult d (extreme t false (code rd a) (code rd b))) ∧
    (Writes (.fminI g ftz d a imm) g (fUses d [a]) anyOperands fun rd _ =>
      floatResult d (extreme .f32 false (A rd) (floatImm imm))) ∧
    (Writes (.fminL g t ftz d a v) g (fUses d [a]) anyOperands fun rd _ =>
      floatResult d (extreme t false (code rd a) L)) ∧
    (Writes (.fmaxR g t ftz d a b) g (fUses d [a, b]) anyOperands fun rd _ =>
      floatResult d (extreme t true (code rd a) (code rd b))) ∧
    (Writes (.fmaxI g ftz d a imm) g (fUses d [a]) anyOperands fun rd _ =>
      floatResult d (extreme .f32 true (A rd) (floatImm imm))) ∧
    (Writes (.fmaxL g t ftz d a v) g (fUses d [a]) anyOperands fun rd _ =>
      floatResult d (extreme t true (code rd a) L)) ∧
    (Writes (.fsetR g t cmp p a b) g [src false a, src false b] anyOperands fun rd _ =>
      compared (fDecode t (code rd a)) (fDecode t (code rd b))) ∧
    (Writes (.fsetI g cmp p a imm) g [src false a] anyOperands fun rd _ =>
      compared (fDecode .f32 (A rd)) (fDecode .f32 (floatImm imm))) ∧
    (Writes (.fsetL g t cmp p a v) g [src false a] anyOperands fun rd _ =>
      compared (fDecode t (code rd a)) (fDecode t L)) ∧
    ((Instr.fclass g t d a).wf = true → Writes (.fclass g t d a) g (fUses d [a]) anyOperands fun rd _ =>
      onlyRegs [(d.toNat, BitVec.ofNat 32
        (((classes (fDecode t (code rd a))).mapIdx fun i b => if b then 2 ^ i else 0).sum))])

/-- Float arithmetic rounds the exact result once; extremes, comparisons and classes follow their tables -/
def Obligations.FloatsAreRoundedOnceOrderedAndClassified : Prop :=
  Parts.FloatArithmeticRoundsTheExactResultOnce ∧
  Parts.FloatsAreOrderedComparedAndClassified

/-- R41, R43, R134: a finite value that does not overflow is delivered to nearest: no code of the format stands for a
nearer finite value; and inexact is raised exactly when the value delivered is not the exact one. The same of the exact
1 ÷ x and √x, which `frcp` and `fsqrt` round once. -/
def Obligations.RoundToNearestDeliversANearestValue : Prop :=
  ∀ (t : FTy) (neg : Bool) (m : Nat) (e : Int),
    let x := FVal.fin neg m e
    let nearest := fun (r : FRes) (q : ℝ) => r.flags &&& flOverflow = 0 →
      (fDecode t r.code).Finite ∧
      (∀ code, code < 2 ^ fWidth t → (fDecode t code).Finite →
        |q - ((fDecode t r.code).rat : ℝ)| ≤ |q - ((fDecode t code).rat : ℝ)|) ∧
      (r.flags &&& flInexact ≠ 0 ↔ ((fDecode t r.code).rat : ℝ) ≠ q)
    nearest (fRound t .rn false x) (x.rat : ℝ) ∧
    (m ≠ 0 → nearest (fFinish t fPlain (fRcp x)) (1 / (x.rat : ℝ))) ∧
    (m ≠ 0 → neg = false → nearest (fFinish t fPlain (fSqrt x)) (Real.sqrt (x.rat : ℝ)))

/-- R134 and Table 7.3: what `frsq`, `fex2`, `flg2`, `fsin`, `fcos` and `ftanh` deliver lies within the error of its row
about the true value, in FP32, and within one unit in the last place in FP16. Which code within it is log 6; this holds for
every choice. -/
def Obligations.BoundedFunctionsKeepTheErrorsOfTheirTable : Prop :=
  ∀ (m : FMod) (c : Nat),
    let unit := fun (least : Int) (bits : Int) (y : ℝ) => (2 : ℝ) ^ (max ⌊Real.logb 2 |y|⌋ least - bits)
    let within := fun (t : FTy) (fn : SFn) (y b : ℝ) =>
      let r := fDecode t (sfnCodeOf fn t m c).code
      r.Finite ∧ |(r.rat : ℝ) - y| ≤ b
    (∀ q : ℝ, (fOperand .f32 m.ftz c).Finite → q = ((fOperand .f32 m.ftz c).rat : ℝ) →
      let two := fun (y : ℝ) => 2 * unit (-126) 23 y
      let is := within .f32
      (0 < q → is .rsq (1 / √q) (two (1 / √q))) ∧
      (m.ftz = false → q < 128 → is .ex2 (2 ^ q) (two (2 ^ q))) ∧
      (0 < q → is .lg2 (Real.logb 2 q) (if 1 / 2 ≤ q ∧ q ≤ 2 then 2 ^ (-22 : ℤ) else two (Real.logb 2 q))) ∧
      is .sin (Real.sin q) (2 ^ (-21 : ℤ) + |q| * 2 ^ (-24 : ℤ)) ∧
      is .cos (Real.cos q) (2 ^ (-21 : ℤ) + |q| * 2 ^ (-24 : ℤ)) ∧
      is .tanh (Real.tanh q) (2 ^ (-21 : ℤ))) ∧
    (∀ q : ℝ, m.ftz = false → m.rm = .rn → (fOperand .f16 false c).Finite → q = ((fOperand .f16 false c).rat : ℝ) →
      let is := fun fn y => within .f16 fn y (unit (-14) 10 y)
      (0 < q → is .rsq (1 / √q) ∧ is .lg2 (Real.logb 2 q)) ∧ (q < 16 → is .ex2 (2 ^ q)) ∧
      is .sin (Real.sin q) ∧ is .cos (Real.cos q) ∧ is .tanh (Real.tanh q))

/-- R134 and Table 7.3: `frcp`, `frsq`, `fsqrt`, `fex2`, `flg2`, `fsin`, `fcos` and `ftanh` complete (`exec` answers a
next state) in every execution whose lanes are ready, for every operand, with the results of their rows: what each gives for a NaN, a zero, an infinity, a negative
operand, and the operands whose result is exact; any other finite operand of the six bounded ones sets inexact. Their
errors are `BoundedFunctionsKeepTheErrorsOfTheirTable`. -/
def Parts.SpecialFunctionsDeliverTheTableResults : Prop :=
  ∀ (g : Guard) (t : FTy) (m : FMod) (d a : Reg), t.special = true →
    let rcp := fun x => fFinish t m (fRcp (fOperand t m.ftz x))
    let sqrt := fun x => fFinish t m (fSqrt (fOperand t m.ftz x))
    let W := fun (i : Instr) (r : Nat → FRes) =>
      Writes i g (fUses d [a]) anyOperands fun rd _ => floatResult d (r (floatBits t rd a))
    (W (.frcp g t m d a) rcp ∧ W (.fsqrt g t m d a) sqrt ∧
      W (.frsq g t m d a) (sfnCodeOf .rsq t m) ∧ W (.fex2 g t m d a) (sfnCodeOf .ex2 t m) ∧
      W (.flg2 g t m d a) (sfnCodeOf .lg2 t m) ∧ W (.fsin g t m d a) (sfnCodeOf .sin t m) ∧
      W (.fcos g t m d a) (sfnCodeOf .cos t m) ∧ W (.ftanh g t m d a) (sfnCodeOf .tanh t m)) ∧
    ∀ c, c < 2 ^ fWidth t →
      let x := fOperand t m.ftz c
      let nan : FRes := ⟨fNanCode t, flInvalid⟩
      let inf := fun (neg : Bool) (fl : Word) => (⟨fInfCode t neg, fl⟩ : FRes)
      let zero := fun (neg : Bool) => (⟨fZeroCode t neg, 0⟩ : FRes)
      let is := fun (r : FRes) (q : Rat) => (fDecode t r.code).Finite ∧ (fDecode t r.code).rat = q ∧ r.flags = 0
      let of := fun fn => sfnCodeOf fn t m c
      let least : Int := if t = .f16 then -24 else -149
      let most : Int := if t = .f16 then 15 else 127
      let unlike := fun (p : Int → Rat) => ∀ k : Int, least ≤ k → k ≤ most → x.rat ≠ p k
      (∀ s, x = .nan s → ∀ r ∈ [rcp c, sqrt c, of .rsq, of .ex2, of .lg2, of .sin, of .cos, of .tanh],
        r = ⟨fNanCode t, if s then flInvalid else 0⟩) ∧
      (∀ n, x = .inf n → rcp c = zero n ∧ (sqrt c = if n then nan else inf false 0) ∧
        (of .rsq = if n then nan else zero false) ∧ (of .ex2 = if n then zero false else inf false 0) ∧
        (of .lg2 = if n then nan else inf false 0) ∧ of .sin = nan ∧ of .cos = nan ∧ is (of .tanh) (if n then -1 else 1)) ∧
      (∀ n e, x = .fin n 0 e → rcp c = inf n flDivZero ∧ sqrt c = zero n ∧ of .rsq = inf n flDivZero ∧ is (of .ex2) 1 ∧
        of .lg2 = inf true flDivZero ∧ of .sin = zero n ∧ is (of .cos) 1 ∧ of .tanh = zero n) ∧
      (x.rat < 0 → sqrt c = nan ∧ of .rsq = nan ∧ of .lg2 = nan) ∧
      (m.ftz = false → ∀ k : Int, (x.rat = 4 ^ k → is (of .rsq) (2 ^ (-k))) ∧
        (x.Finite → x.rat = k → least ≤ k → k ≤ most → is (of .ex2) (2 ^ k)) ∧ (x.rat = 2 ^ k → is (of .lg2) k) ∧
        (x.Finite → 901 ≤ 100 * |x.rat| → is (of .tanh) (if x.rat < 0 then -1 else 1))) ∧
      (x.Finite → let inexact := fun fn => (of fn).flags &&& flInexact ≠ 0
        (0 < x.rat → (∀ k : Int, x.rat ≠ 4 ^ k) → inexact .rsq) ∧
        (unlike (fun k => (k : Rat)) → inexact .ex2) ∧
        (0 < x.rat → (∀ k : Int, x.rat ≠ 2 ^ k) → inexact .lg2) ∧
        (x.rat ≠ 0 → inexact .sin ∧ inexact .cos) ∧ (x.rat ≠ 0 → 100 * |x.rat| < 901 → inexact .tanh))

/-- R136 to R139: `cvt`, `pack`, `unpack` and `bscale` complete (`exec` answers a next state) in every execution whose
lanes are ready, for every operand: conversion between integer types modulo the width or clamped, from a float to the integer that RM
gives, with a NaN, an infinity and an integer out of range as the rule says, and to a float by one rounding; packing into
adjacent elements; widening, which is exact, with FTZ too for what is subnormal in a narrower type (the reading of log 102); and block scales applied
and derived. -/
def Parts.ConversionsPackAndScale : Prop :=
  (∀ (t : FTy) (c : Nat), t ≠ .f32 → c < 2 ^ fWidth t → (fDecode t c).Finite →
    let r := fRound .f32 .rn false (fDecode t c)
    (fDecode .f32 r.code).Finite ∧ (fDecode .f32 r.code).rat = (fDecode t c).rat ∧ r.flags = 0) ∧
  (∀ (k : Int) (x : FVal), x.Finite → (fScale2 k x).Finite ∧ (fScale2 k x).rat = x.rat * 2 ^ k) ∧
  ∀ (g : Guard) (m : FMod) (t : FTy) (ftz : Bool) (k : BitVec 2) (d a b : Reg),
    let f := fun rd r => floatBits .f32 rd r
    let source := fun (t : FTy) (ftz : Bool) (c : Nat) =>
      if t = .e2m1x ∧ c = 8 then ((.nan false, flFormat) : FOut) else (fOperand t ftz c, 0)
    (∀ di si, Writes (.cvt g (.int di) (.int si) m d a) g [dst di.is64 d, src si.is64 a] anyOperands fun rd _ =>
      onlyRegs (deliverInt di d (held m.sat di (intOperand si rd a)))) ∧
    (∀ di sf, EachLane (.cvt g (.int di) (.flt sf) m d a) g [dst di.is64 d, src false a] anyOperands fun rd t0 t1 =>
      let x := source sf m.ftz (floatBits sf rd a)
      match x.1 with
      | .nan _ => Sets (deliverInt di d 0) [] (x.2 ||| flInvalid) t0 t1
      | .inf neg => Sets (deliverInt di d (held true di (if neg then -2 ^ 64 else 2 ^ 64))) [] flInvalid t0 t1
      | y => ∃ n : Int, RoundsInt m.rm y.rat n ∧ Sets (deliverInt di d (held m.sat di n)) []
          ((if (n : Rat) = y.rat then 0 else flInexact) ||| if held true di n = n then 0 else flInvalid) t0 t1) ∧
    (∀ df si, Writes (.cvt g (.flt df) (.int si) m d a) g [dst false d, src si.is64 a] anyOperands fun rd _ =>
      floatResult d (fDeliver df m (fOfInt (intOperand si rd a)))) ∧
    (∀ df sf, df ≠ sf → Writes (.cvt g (.flt df) (.flt sf) m d a) g [dst false d, src false a] anyOperands fun rd _ =>
      let x := source sf m.ftz (floatBits sf rd a)
      floatResult d (fFinish df m x)) ∧
    (∀ df, EachLane (.cvt g (.flt df) (.flt df) m d a) g [dst false d, src false a] anyOperands fun rd t0 t1 =>
      let x := source df m.ftz (floatBits df rd a)
      let puts := fun (y : FVal) (fl : Word) =>
        Sets [(d.toNat, BitVec.ofNat 32 (fDeliver df m y).code)] [] ((fDeliver df m y).flags ||| fl) t0 t1
      match x.1 with
      | .fin neg c e => ∃ n : Int, RoundsInt m.rm (FVal.fin neg c e).rat n ∧
          puts (.fin neg n.natAbs 0) (if (n : Rat) = (FVal.fin neg c e).rat then 0 else flInexact)
      | y => puts y x.2) ∧
    ((Instr.pack g t m k d a b).wf = true → Writes (.pack g t m k d a b) g (fUses d [a, b]) anyOperands fun rd t0 =>
      let p := fDeliver t m (fOperand .f32 m.ftz (f rd a))
      let q := fDeliver t m (fOperand .f32 m.ftz (f rd b))
      let w := fWidth t
      let mask : Word := (BitVec.allOnes (2 * w)).setWidth 32 <<< (2 * w * k.toNat)
      let new : Word := BitVec.ofNat 32 (p.code + 2 ^ w * q.code) <<< (2 * w * k.toNat)
      ([(d.toNat, (rdReg t0 d.toNat &&& ~~~mask) ||| new)], [], p.flags ||| q.flags)) ∧
    ((Instr.unpack g t ftz k d a).wf = true → Writes (.unpack g t ftz k d a) g [dst true d, src false a] anyOperands
      fun rd _ =>
      let w := fWidth t
      let c := fun (i : Nat) => (rd a.toNat).toNat / 2 ^ (w * (2 * k.toNat + i)) % 2 ^ w
      let x := fun (i : Nat) => fFinish .f32 ⟨.rn, ftz, false⟩ (source t false (c i))
      ([(d.toNat, BitVec.ofNat 32 (x 0).code), (d.toNat + 1, BitVec.ofNat 32 (x 1).code)], [],
        (x 0).flags ||| (x 1).flags)) ∧
    (Writes (.bscale g (.apply m d a b)) g (fUses d [a, b]) anyOperands fun rd _ =>
      let sc := (rd b.toNat).toNat % 256
      floatResult d (if sc = 255 then ⟨0x7FC00000, flFormat⟩
        else fDeliver .f32 m (fScale2 ((sc : Int) - 127) (fOperand .f32 m.ftz (f rd a))))) ∧
    (t = .e4m3 ∨ t = .e5m2 ∨ t = .e2m1x → EachLane (.bscale g (.derive t d a)) g (fUses d [a]) anyOperands fun rd t0 t1 =>
      let most : Rat := if t = .e4m3 then 448 else if t = .e5m2 then 57344 else 6
      let puts := fun (n : Int) (fl : Word) => Sets [(d.toNat, BitVec.ofInt 32 n)] [] fl t0 t1
      match fDecode .f32 (f rd a) with
      | .fin neg c e => if c = 0 then puts 0 0 else ∃ e0 : Int,
          (∀ k : Int, |(FVal.fin neg c e).rat| ≤ most * 2 ^ k ↔ e0 ≤ k) ∧ puts (max (-127) (min 127 e0) + 127) 0
      | _ => puts 255 flInvalid)

/-- The eight special functions, cvt, pack, unpack and bscale complete in every ready lane with the results of their tables.
Choices and readings of the model that it rests on: log 102. -/
def Obligations.SpecialFunctionsAndConversionsFollowTheirTables : Prop :=
  Parts.SpecialFunctionsDeliverTheTableResults ∧
  Parts.ConversionsPackAndScale

/-! ## Control -/

/-- R101 and R161: `nop`, `yield`, `sleep 0`, `prefGlb` and `prefHst` complete (`exec` answers a next state) in every
execution whose lanes are ready, and change nothing an agent can read; the lane goes on, and
after `yield` and `sleep 0` it gives its next turn away. -/
def Parts.HintsOnlyGoOn : Prop :=
  ∀ (g : Guard) (llc : Bool) (a : Reg) (off : BitVec 16),
    EachLane (.nop g) g [] anyOperands (fun _ t0 t1 => t1 = t0) ∧
    EachLane (.yield g) g [] anyOperands (fun _ t0 t1 => t1 = { t0 with yielded := true }) ∧
    EachLaneAt firstWord (.sleep g 0) g [] anyOperands (fun _ t0 t1 => t1 = { t0 with yielded := true }) ∧
    EachLane (.prefGlb g llc a off) g [src true a] anyOperands (fun _ t0 t1 => t1 = t0) ∧
    EachLane (.prefHst g llc a off) g [src true a] anyOperands (fun _ t0 t1 => t1 = t0)

/-- R103 and R104: `sleep n` completes and holds its lanes until %cox of their die has reached the value at issue plus n, and the
expiry then retires it, not before; `waitf` completes, holds its lanes while a flag of its mask is busy, and blocks nothing
otherwise. -/
def Parts.SleepAndWaitfHoldTheirLanes : Prop :=
  (∀ (g : Guard) (n : BitVec 20) (mask : BitVec 12) s c e, firstWord c = true → Ready s c e g [] anyOperands →
    (n ≠ 0 → ∃ s', exec (.sleep g n) s = .next s' ∧ OnlyThreads s s' ∧
      ∀ l ∈ c.lanes, getLane s' c.gid l = (getLane s c.gid l).map fun t =>
        if guardOf g t then { t with stall := some (.sleep (coxAt s e.group.die + n.toNat)) } else goOn c.next t) ∧
    ∃ s', exec (.waitf g mask) s = .next s' ∧ OnlyThreads s s' ∧
      ∀ l ∈ c.lanes, getLane s' c.gid l = (getLane s c.gid l).map fun t =>
        if guardOf g t && (List.range 12).any fun i => mask.getLsbD i && flagCount e.group i != 0 then
          { t with stall := some .waitf } else goOn c.next t) ∧
  (∀ s gid lane e t cox, env s gid = some e → getLane s gid lane = some t → t.stall = some (.sleep cox) →
    (coxAt s e.group.die < cox → exec (.sleepExpiry gid lane) s = .next s) ∧
    (cox ≤ coxAt s e.group.die → ∃ s', exec (.sleepExpiry gid lane) s = .next s' ∧ OnlyThreads s s' ∧
      getLane s' gid lane = some (goOn (t.pc + 8) t) ∧
      s'.contexts = (countEvent s e.ctx.asid 0 1).contexts ∧
      ∀ gid' k, ¬(gid' = gid ∧ k = lane) → getLane s' gid' k = getLane s gid' k))

/-- R102, R160 and R406: an `exit` first has the group's store queue performed, retires as it issues where no poison fault
is due, and takes effect in a lane whose reads have been written, with its stream bindings released; in a lane with reads
outstanding it takes effect later, when EXIT_TAKES_EFFECT comes. A due poison fault is raised instead: the lane parks at the
`exit`, or ends where it is in handler mode, and the record names the reading instruction. A lane that `rte.kill` or a
nested fault ends is reported so and ends. -/
def Parts.ExitEndsALaneOnceItsReadsAreWritten : Prop :=
  let left := fun (own : Bool) (t : Thread) =>
    if t.reads ≠ 0 then { t with status := .exiting own, stall := none }
    else match t.poison with
      | none => { t with status := .exited, stall := none, sp := [] }
      | some _ =>
        let t := { t with poison := none, stall := none }
        if own = false then { t with status := .exited, sp := [] }
        else if t.handler then { t with status := .exiting false, handler := false }
        else { t with status := .parked 0x13 0 false false }
  let reports := fun (q s' : State) (e : Env) (l : Nat) (t : Thread) => t.reads = 0 → ∀ d, t.poison = some d →
    ∃ r, (getCtx s' e.ctx.asid).map (·.pending) = (getCtx q e.ctx.asid).map (fun x => x.pending ++ [r]) ∧
      r.cls = 0x13 ∧ r.pc = d.pc ∧ r.addr = d.ea ∧ r.lane = l
  (∀ (g : Guard) s c e l t t0 rd, Lone s c e g [] l t t0 rd →
    let q := drainGroup s e.ctx.asid c.gid
    ∀ t, getLane q c.gid l = some t → ∃ s', exec (.exit g) s = .next s' ∧ (Unjoined e → s'.mem = q.mem) ∧
      (getCtx s' e.ctx.asid).map (·.counts) =
        (getCtx (countEvent q e.ctx.asid 0 (if t.poison = none then 1 else 0)) e.ctx.asid).map (·.counts) ∧
      getLane s' c.gid l = some (left true t) ∧ reports q s' e l t) ∧
  (∀ s gid lane e t own, env s gid = some e → getLane s gid lane = some t → t.stall = none → t.status = .exiting own →
    let q := if t.reads = 0 then settleReds s e [lane] else s
    ∀ t, getLane q gid lane = some t → ∃ s', exec (.exitTakesEffect gid lane) s = .next s' ∧
      (Unjoined e → s'.mem = q.mem) ∧ getLane s' gid lane = some (left own t) ∧ reports q s' e lane t)

/-- Hints only go on, sleep and waitf hold their lanes until their time or their flags, and exit ends a lane once its reads are written -/
def Obligations.HintsGoOnWaitsHoldAndExitEndsTheirLanes : Prop :=
  Parts.HintsOnlyGoOn ∧
  Parts.SleepAndWaitfHoldTheirLanes ∧
  Parts.ExitEndsALaneOnceItsReadsAreWritten

/-- R98 and R66: `bra` takes each lane whose guard is true to the header at pc + 8 × IMM; the others go on at the next
word. The lanes stand in one block; where they do not all reach one address, its RECONV is not 0 and the stack has room, the entry with
the mask of the lanes that reached the transfer is pushed; else the stack stays. -/
def Parts.BranchesReachTheirTargetAndPushTheReconvergenceEntry : Prop :=
  ∀ (g : Guard) (imm : BitVec 20) s c e (tgt : Nat), lastWord c = true → Ready s c e g [] anyOperands →
    queueOf e.group = [] → (c.pc : Int) + 8 * imm.toInt = tgt → GoodTarget s e tgt →
    (∀ t ∈ e.group.threads, t.lane ∈ c.lanes → blockEnd t = c.next) →
    ∃ s', exec (.bra g imm) s = .next s' ∧ OnlyThreads s s' ∧
      s'.contexts = (countEvent s e.ctx.asid 0 (activeLanes s c g).length).contexts ∧
      (∀ l ∈ c.lanes, getLane s' c.gid l = (getLane s c.gid l).map fun t =>
        if guardOf g t then { t with pc := tgt, status := .header, arrival := .entry, stall := none }
        else goOn c.next t) ∧
      ∀ l0 t0, c.lanes.head? = some l0 → getLane s c.gid l0 = some t0 →
        (getGroup s' c.gid).map (·.stack) = some (
          if hReconv t0.hword ≠ 0 ∧ activeLanes s c g ≠ [] ∧ (activeLanes s c g).length < c.lanes.length ∧
              tgt ≠ c.next ∧ e.group.stack.length < 16 then
            ⟨(((t0.hdr : Int) + 8 * hReconv t0.hword) % 2 ^ 64).toNat, c.lanes, []⟩ :: e.group.stack
          else e.group.stack)

/-- R98 and R99: `brx`, both forms of `call` and `ret` in a lane: an indirect branch reaches the address in its pair; a
call pushes pc + 8 to private memory below the stack register, which it lowers by 8; a return pops the address and raises
the register by 8. Nothing else is written. Behind a store queue that is not empty, an outstanding `stp` in it, each of
the five transfers acts as it does once the queue has been performed in program order, which leaves it empty: a pop reads
what the `stp` wrote. -/
def Parts.CallsPushAndReturnsPopThePrivateStack : Prop :=
  (∀ (g : Guard) (d a : Reg) (imm : BitVec 20) s c e, s.cur = some c → env s c.gid = some e →
    let r := drainGroup s e.ctx.asid c.gid
    r.cur = some c ∧ (∃ e', env r c.gid = some e' ∧ queueOf e'.group = []) ∧
    ∀ i ∈ [Instr.bra g imm, .brx g a, .callI g d imm, .callR g d a, .ret g d], exec i s = exec i r) ∧
  ∀ (g : Guard) (d a : Reg) (imm : BitVec 20) s c e l t t0 rd (tgt : Nat), lastWord c = true → queueOf e.group = [] →
    GoodTarget s e tgt →
    let there := fun (t : Thread) => { t with pc := tgt, status := .header, arrival := .entry, stall := none }
    let sp := (rd d.toNat).toNat
    (Lone s c e g [src true a] l t t0 rd → (pair64 rd a).toNat = tgt →
      ∃ s', exec (.brx g a) s = .next s' ∧ OnlyThreads s s' ∧ LaneBecomes s s' c l (there t0)) ∧
    (Lone s c e g [dst false d, src false d] l t t0 rd → sp % 8 = 0 → 8 ≤ sp → sp ≤ e.grid.priv →
      (c.pc : Int) + 8 * imm.toInt = tgt →
      ∃ s', exec (.callI g d imm) s = .next s' ∧ StoresAt s s' (keyPriv c.gid l (sp - 8)) 8 (c.pc + 8) ∧
        LaneBecomes s s' c l (there (wrReg t0 d.toNat (rd d.toNat - 8)))) ∧
    (Lone s c e g [dst false d, src false d, src true a] l t t0 rd → sp % 8 = 0 → 8 ≤ sp → sp ≤ e.grid.priv →
      (pair64 rd a).toNat = tgt →
      ∃ s', exec (.callR g d a) s = .next s' ∧ StoresAt s s' (keyPriv c.gid l (sp - 8)) 8 (c.pc + 8) ∧
        LaneBecomes s s' c l (there (wrReg t0 d.toNat (rd d.toNat - 8)))) ∧
    (Lone s c e g [dst false d, src false d] l t t0 rd → sp % 8 = 0 → sp + 8 ≤ e.grid.priv →
      getBytes s (keyPriv c.gid l sp) 8 = tgt →
      ∃ s', exec (.ret g d) s = .next s' ∧ OnlyThreads s s' ∧
        LaneBecomes s s' c l (there (wrReg t0 d.toNat (rd d.toNat + 8))))

/-- Branches, calls and returns reach their targets, push the reconvergence entry and keep the private stack -/
def Obligations.TransfersReachTheirTargetsAndKeepTheirStacks : Prop :=
  Parts.BranchesReachTheirTargetAndPushTheReconvergenceEntry ∧
  Parts.CallsPushAndReturnsPopThePrivateStack

/-- R84, R105, R240, R241, R313: an unassigned opcode, `bkpt` with no halt on breakpoint, and `trap` take their
precise fault in each lane whose guard is true: the lane parks at its word, or ends where it is in handler mode, the
record carries the code, and nothing else changes. With halt on breakpoint open, that the lanes go on past the word while
their gang stops is the reading of log 32. -/
def Parts.TrapsBreakpointsAndUnassignedWordsTakeTheirFault : Prop :=
  ∀ (g : Guard) (n : BitVec 16) (op : Byte),
    FaultsAlike anywhere (.unassignedOpcode g op) g 0x01 0 ∧ FaultsAlike anywhere (.trap g n) g 0x15 n.toNat ∧
    ∀ s c e, s.cur = some c → env s c.gid = some e → c.lanes.Nodup → (∀ l ∈ c.lanes, (getLane s c.gid l).isSome = true) →
      ((s.boot.debugOpen && s.boot.haltBkpt) = false → ∃ s', exec (.bkpt g n) s = .next s' ∧ OnlyThreads s s' ∧
        ∀ l ∈ c.lanes, getLane s' c.gid l = (getLane s c.gid l).map fun t =>
          if guardOf g t then faulted c 0x14 n.toNat t else goOn c.next t) ∧
      ((s.boot.debugOpen && s.boot.haltBkpt) = true → ∀ k, getGang s e.team.gang = some k → k.status = .resident →
        activeLanes s c g ≠ [] → ∃ s', exec (.bkpt g n) s = .next s' ∧
          (getGang s' e.team.gang).map (·.status) = some .stopping ∧
          ∀ l ∈ c.lanes, getLane s' c.gid l = (getLane s c.gid l).map (goOn c.next))

/-- R241 and R242: the parked lanes of a group whose records are written enter the handler together with %trpc,
%trcause and the header at %trvec; `rte` leaves it at %trpc, at the word after for a breakpoint or a trap, and
`rte.kill` ends the lane. -/
def Parts.HandlersAreEnteredAndLeft : Prop :=
  (∀ s gid e, env s gid = some e → preemptPending s e.group = false → e.group.threads.any (·.handler) = false →
    e.ctx.trvec ≠ 0 → e.group.threads.any readyToEnter = true →
    othersMeet e.group ((e.group.threads.filter readyToEnter).map (·.lane)) = true →
    (e.group.threads.map (·.lane)).Nodup →
    ∃ s', exec (.handlerEntry gid) s = .next s' ∧ OnlyThreads s s' ∧ s'.contexts = s.contexts ∧
      ∀ t ∈ e.group.threads, getLane s' gid t.lane = some (
        match t.status with
        | .parked cls info true hdr =>
          { t with trpc := BitVec.ofNat 64 t.pc, trcause := BitVec.ofNat 32 (cls + info * 2 ^ 16), handler := true,
                   trHdr := t.hdr, trHword := t.hword, trIn := !hdr, trArr := t.arrival, seqResume := none,
                   pc := e.ctx.trvec.toNat, status := .header, arrival := .entry, stall := none }
        | _ => t)) ∧
  (∀ (g : Guard) s c e l t t0 rd, Lone s c e g [] l t t0 rd → lastWord c = true → t.seqResume = none →
    c.lanes = [l] → e.group.stack = [] → e.group.threads.all (fun x => x.stall.isNone) = true →
    (t.handler = true → ∃ s', exec (.rte g false) s = .next s' ∧ s'.mem = s.mem ∧
      ∃ t', getLane s' c.gid l = some t' ∧ t'.handler = false ∧ t'.hdr = t.trHdr ∧ t'.hword = t.trHword ∧
        t'.v = t.v ∧ t'.p = t.p ∧
        t'.pc = if t.trcause.toNat % 256 = 0x14 ∨ t.trcause.toNat % 256 = 0x15 then t.trpc.toNat + 8 else t.trpc.toNat) ∧
    (t.handler = true → t.reads = 0 → t.poison = none → reducing e.group l = false → ∃ s', exec (.rte g true) s = .next s' ∧
      (Unjoined e → s'.mem = s.mem) ∧
      ∃ t', getLane s' c.gid l = some t' ∧ t'.status = .exited ∧ t'.handler = false) ∧
    (t.handler = false → ∀ kill, ∃ s', exec (.rte g kill) s = .next s' ∧ s'.mem = s.mem ∧
      getLane s' c.gid l = some (faulted c 0x01 0 t)))

/-- Unassigned words, breakpoints and traps park their lanes with a record; handlers are entered and left.
Choices and readings of the model that it rests on: log 32. -/
def Obligations.FaultsParkTheirLanesAndHandlersAreEnteredAndLeft : Prop :=
  Parts.TrapsBreakpointsAndUnassignedWordsTakeTheirFault ∧
  Parts.HandlersAreEnteredAndLeft

/-! ## Cross-lane instructions -/

/-- R143: each participant of a `shfl` receives V[a] of the lane its mode names where that lane is a participant, with
the predicate true, and its own fallback with the predicate false otherwise; every V[a] is read before any write. All
four modes, both operand forms, with the words that opcodes 0xA4 to 0xAB give them. -/
def Obligations.ShufflesDeliverTheNamedLaneOrTheFallback : Prop :=
  ∀ (g : Guard) (p : PredIx) (d a b f : Reg) (n : BitVec 6),
    let R := [dst false d, src false a, src false f, src false b]
    let C := [dst false d, src false a, src false f]
    let reg := fun (rd : Nat → Word) => ((rd b.toNat).toNat : Int)
    let con := fun (_ : Nat → Word) => (n.toNat : Int)
    let xor := fun (i k : Int) => ((i.toNat ^^^ k.toNat : Nat) : Int)
    CrossWrites (.shflIdxR g p d a b f) g R (shuffled (fun _ k => k) p d a f reg) ∧
    CrossWrites (.shflUpR g p d a b f) g R (shuffled (fun i k => i - k) p d a f reg) ∧
    CrossWrites (.shflDownR g p d a b f) g R (shuffled (fun i k => i + k) p d a f reg) ∧
    CrossWrites (.shflXorR g p d a b f) g R (shuffled xor p d a f reg) ∧
    CrossWrites (.shflIdxC g p d a n f) g C (shuffled (fun _ k => k) p d a f con) ∧
    CrossWrites (.shflUpC g p d a n f) g C (shuffled (fun i k => i - k) p d a f con) ∧
    CrossWrites (.shflDownC g p d a n f) g C (shuffled (fun i k => i + k) p d a f con) ∧
    CrossWrites (.shflXorC g p d a n f) g C (shuffled xor p d a f con) ∧
    (let word := fun (op : Byte) (x : BitVec 10) =>
        Words.thread (0#1 ++ op ++ g.p ++ BitVec.ofBool g.neg ++ d ++ a ++ x ++ f ++ (0#1 ++ p) ++ 0#1) none
     [encode (.shflIdxR g p d a b f), encode (.shflUpR g p d a b f), encode (.shflDownR g p d a b f),
        encode (.shflXorR g p d a b f), encode (.shflIdxC g p d a n f), encode (.shflUpC g p d a n f),
        encode (.shflDownC g p d a n f), encode (.shflXorC g p d a n f)] =
        [word 0xA4 b, word 0xA5 b, word 0xA6 b, word 0xA7 b, word 0xA8 (0#4 ++ n), word 0xA9 (0#4 ++ n),
          word 0xAA (0#4 ++ n), word 0xAB (0#4 ++ n)])

/-- R144, R146, R147: the six votes over the participants, the three modes of `match`, and the election of the
lowest participant, or with ROT of the lowest one at or above the rotation index, which then moves past it. -/
def Parts.VotesMatchesAndElectionsAgreeOverTheParticipants : Prop :=
  ∀ (g : Guard) (a q : PredIx) (na : Bool) (d r : Reg) (w64 : Bool),
    let yes := fun (m : Member) => rdPred m.t a != na
    let key := fun (m : Member) => if w64 then (pair64 m.rd r).toNat else (m.rd r.toNat).toNat
    let M := [dst true d, src w64 r]
    let W := fun (i : Instr) (us : List RegUse) f => CrossWrites i g us f
    W (.vote g (.every q) a na) [] (fun ms _ => onlyPreds [(q, ms.all yes)]) ∧
    W (.vote g (.some q) a na) [] (fun ms _ => onlyPreds [(q, ms.any yes)]) ∧
    W (.vote g (.same q) a na) [] (fun ms _ => onlyPreds [(q, ms.all fun x => ms.all fun y => yes x == yes y)]) ∧
    W (.vote g (.mask d) a na) [dst true d] (fun ms _ => onlyRegs (toPair d (maskBits ms yes))) ∧
    W (.vote g (.count d) a na) [dst false d]
      (fun ms _ => onlyRegs [(d.toNat, BitVec.ofNat 32 (ms.countP yes))]) ∧
    W (.vote g (.first d) a na) [dst false d]
      (fun ms _ => onlyRegs [(d.toNat, (((ms.filter yes).map (·.lane)).min?.map (BitVec.ofNat 32)).getD 0xFFFFFFFF)]) ∧
    W (.matchv g .peers w64 d r) M (fun ms x => onlyRegs (toPair d (maskBits ms fun y => key y == key x))) ∧
    W (.matchv g .uniform w64 d r) M
      (fun ms x => onlyRegs (toPair d (if ms.all fun y => key y == key x then maskBits ms fun _ => true else 0))) ∧
    W (.matchv g .leader w64 d r) M
      (fun ms x => onlyRegs [(d.toNat, BitVec.ofNat 32 ((((ms.filter fun y => key y == key x).map (·.lane)).min?).getD 0)),
                             (d.toNat + 1, BitVec.ofNat 32 (ms.countP fun y => key y == key x))]) ∧
    W (.elect g false q) [] (fun ms x => onlyPreds [(q, ms.all fun y => x.lane ≤ y.lane)]) ∧
    CrossDoes (.elect g true q) g []
      (fun k ms grp => if ms = [] then k else
        let c := ms.filter fun m => k ≤ m.lane
        (((if c = [] then ms else c).map (·.lane)).min?.getD 0 + 1) % grp.width)
      (fun k ms x =>
        let c := ms.filter fun m => k ≤ m.lane
        onlyPreds [(q, x.lane = ((if c = [] then ms else c).map (·.lane)).min?.getD 0)])

/-- R140: at a cross-lane word whose meeting has not come, while a thread of the group that is elsewhere is neither in a
state of R140 nor blocked (R298), the threads wait with no effect. -/
def Parts.CrossLaneWordsWaitForTheirMeeting : Prop :=
  ∀ (g : Guard) (rot na w64 : Bool) (x : Vote) (p a : PredIx) (op : ROp) (t : RTy) (mm : MatchMode) (d r f : Reg)
    (n : BitVec 6) s c e, s.cur = some c → env s c.gid = some e → c.pc ∉ e.group.crossFree → metLanes e.group c = none →
    (∃ t ∈ e.group.threads, t.lane ∉ (meetCur e.group c).lanes ∧ meetState t = false ∧ blockedOther t = false) →
    ∀ i ∈ [Instr.vote g x a na, .elect g rot p, .redux g op t d r, .scan g op t d r, .matchv g mm w64 d r,
           .shflIdxR g p d r f f, .shflUpR g p d r f f, .shflDownR g p d r f f, .shflXorR g p d r f f,
           .shflIdxC g p d r n f, .shflUpC g p d r n f, .shflDownC g p d r n f, .shflXorC g p d r n f], ∃ s', exec i s = .next s' ∧
      s' = { s with groups := s'.groups } ∧
      ∀ l, ∃ n : Nat, getLane s' c.gid l = (getLane s c.gid l).map fun t =>
        { t with stall := if l ∈ (meetCur e.group c).lanes then some .cross else t.stall, holdWords := n }

/-- Votes, matches and elections act over the participants of a meeting, and wait with no effect before it -/
def Obligations.VotesMatchesAndElectionsActAtTheirMeeting : Prop :=
  Parts.VotesMatchesAndElectionsAgreeOverTheParticipants ∧
  Parts.CrossLaneWordsWaitForTheirMeeting

/-- R145: `redux` gives every participant the combination of all, `scan` that of the participants at its lane and
below, or only below it for `.xadd`; integers modulo 2^w, floats over the fixed tree, or folded in ascending lanes, each
step rounded, with the flags of the steps; a NaN result is the canonical one (R39), which with no flag of its own for a lone
or a first operand that is a NaN is the choice of log 95. -/
def Obligations.ReductionsAndScansCombineInTheirFixedOrder : Prop :=
  ∀ (g : Guard) (op : ROp) (ty : ITy) (d a : Reg),
    let U := [dst ty.is64 d, src ty.is64 a]
    let F := [dst false d, src false a]
    let bits := fun (ms : List Member) => ms.map fun m => intBits ty m.rd a
    let leaf := fun (m : Member) => (⟨(m.rd a.toNat).toNat, 0⟩ : FRes)
    let upTo := fun (ms : List Member) (m : Member) =>
      ms.filter fun y => if op = .xadd then y.lane < m.lane else y.lane ≤ m.lane
    let res := fun (x : Option FRes) =>
      let r := x.getD ⟨0, 0⟩
      floatResult d (if fIsNan (fDecode .f32 r.code) then ⟨0x7FC00000, r.flags⟩ else r)
    CrossWrites (.redux g op (.int ty) d a) g U (fun ms _ => onlyRegs (deliverBits ty d (combined op ty (bits ms)))) ∧
    CrossWrites (.scan g op (.int ty) d a) g U
      (fun ms m => onlyRegs (deliverBits ty d (combined op ty (bits (upTo ms m))))) ∧
    CrossWrites (.redux g op .f32 d a) g F
      (fun ms _ => res (treePos (ropFloat op) (fun k => (ms.find? fun m => m.lane = k).map leaf) 6 0)) ∧
    CrossWrites (.scan g op .f32 d a) g F (fun ms m =>
      match upTo ms m with
      | [] => res none
      | x :: xs => res (some (xs.foldl (fun r y => ropFloat op r (leaf y)) (leaf x))))

/-! ## Memory -/

/-- R67, R68, R151, R160: a load from PRIV, CMN, GLB or HST reads its bytes, little-endian, at the address of R79 and
counts on the flag of its block; its registers are written when the flag falls. A poisoned sector delivers 0 and makes a
poison fault due. The lane goes on; no byte changes. That the bytes are those at issue is the choice of log 2. -/
def Parts.LoadsReadTheirBytesAndCountOnTheFlagOfTheirBlock : Prop :=
  ∀ (g : Guard) (m : MemOp), ∀ x ∈ [(Space.glb, Instr.ldg g m), (.priv, .ldp g m), (.cmn, .ldc g m), (.hst, .ldh g m)],
    ∀ s c e l t t0 rd key, Lone s c e g (memUses false x.1 m) l t t0 rd →
      let n := widBytes m.wid
      let ea := accessAt x.1 rd m.a m.off
      let bad := poisoned s key n
      flagFull e.group (curFlag e.group c m.ss) = false → LandsAt s e l x.1 .read ea n key → Unqueued e key n →
      (x.1 = .hst → queueOf e.group = []) → (∀ u ∈ s.upsets, upsetIn [(key, n)] u = false) →
      ∃ s' op, exec x.2 s = .next s' ∧ OnlyThreads s s' ∧
        LaneBecomes s s' c l (goOn c.next
          (awaits t0 (t0.reads + 1) (if bad then t0.poison.or (some ⟨c.pc, ea.toNat, execRec s c e g⟩) else t0.poison))) ∧
        Issued s s' c.gid (curFlag e.group c m.ss) op ∧ op.queued = false ∧ op.performed = true ∧
        op.acquire = (m.ord == .acq) ∧
        op.parts = [.load l (loaded m (if bad then 0 else memRead s.mem key n)) 0]

/-- R153, R155: `lds` and `sts` are short: a load from a full scratch line delivers its bytes at once, and a store
writes them at once; neither changes a full/empty bit. A load of an empty line waits for it. -/
def Parts.ScratchLoadsAndStoresAreShort : Prop :=
  ∀ (g : Guard) (m : MemOp) s c e l t t0 rd key,
    let n := widBytes m.wid
    let ea := accessAt .scr rd m.a m.off
    (Lone s c e g (memUses false .scr m) l t t0 rd → LandsAt s e l .scr .read ea n key → Unqueued e key n →
      (lineEmpty s key n = none → Clean s key n → ∃ s' t1, exec (.lds g m) s = .next s' ∧ OnlyThreads s s' ∧
        Sets (loaded m (memRead s.mem key n)) [] 0 t0 t1 ∧ LaneBecomes s s' c l (goOn c.next t1)) ∧
      (∀ line, lineEmpty s key n = some line → ∃ s', exec (.lds g m) s = .next s' ∧ OnlyThreads s s' ∧
        LaneBecomes s s' c l { t with stall := some (.line line) })) ∧
    (Lone s c e g (memUses true .scr m) l t t0 rd → LandsAt s e l .scr .write ea n key → queueOf e.group = [] →
      (m.ord = .rel → copiesOf s c.gid = []) →
      ∃ s', exec (.sts g m) s = .next s' ∧ StoresAt s s' key n (stored m rd) ∧
        LaneBecomes s s' c l (goOn c.next t0))

/-- Loads read the bytes they name and count on their flag; scratch loads and stores are short.
Choices and readings of the model that it rests on: log 2. -/
def Obligations.LoadsReadTheirBytesAndCountOnTheirFlag : Prop :=
  Parts.LoadsReadTheirBytesAndCountOnTheFlagOfTheirBlock ∧
  Parts.ScratchLoadsAndStoresAreShort

/-- R68, R151, R153, R154: a store to PRIV, CMN, GLB or HST takes its bytes from its registers, enters the store queue
behind the group's earlier operations and counts on its flag; no byte changes yet. A release is performed after every
earlier access of the thread: as it issues, the queue is performed and the group's copies land, so that it stands alone. -/
def Parts.StoresEnterTheStoreQueueInProgramOrder : Prop :=
  ∀ (g : Guard) (m : MemOp), ∀ x ∈ [(Space.glb, Instr.stg g m), (.priv, .stp g m), (.cmn, .stc g m), (.hst, .sth g m)],
    ∀ s c e l t t0 rd key, Lone s c e g (memUses true x.1 m) l t t0 rd →
      let n := widBytes m.wid
      let ea := accessAt x.1 rd m.a m.off
      flagFull e.group (curFlag e.group c m.ss) = false → LandsAt s e l x.1 .write ea n key →
      ((m.ord = .rel → AllPerformed s e) → ∃ s' op tbl, exec x.2 s = .next s' ∧ OnlyThreads s s' ∧ LaneBecomes s s' c l (goOn c.next t0) ∧
        Issued s s' c.gid (curFlag e.group c m.ss) op ∧ op.queued = true ∧ op.performed = false ∧
        op.parts = [.store l key n (stored m rd) tbl]) ∧
      (m.ord = .rel → ∃ s' op tbl, exec x.2 s = .next s' ∧ s'.mem = (releaseGroup s e.ctx.asid c.gid).mem ∧
        copiesOf s' c.gid = [] ∧ (getGroup s' c.gid).map queueOf = some [op] ∧ op.flag = curFlag e.group c m.ss ∧
        op.parts = [.store l key n (stored m rd) tbl] ∧
        (getLane s' c.gid l).map (fun t => { t with poison := none }) = some { goOn c.next t0 with poison := none })

/-- R168, R169: a `fence` has every store, reduction and atomic of the group performed before the lane goes on, and with
`.rel` and `.full` every per-lane copy (R248); with none outstanding it changes nothing. -/
def Parts.FencesPerformWhatStandsInTheQueue : Prop :=
  ∀ (g : Guard) (k : FenceKind) (sc : Scope) (spc : BitVec 4) s c e, Ready s c e g [] anyOperands →
    ∃ s', exec (.fence g k sc spc) s = .next s' ∧
      (activeLanes s c g ≠ [] → (getGroup s' c.gid).map queueOf = some [] ∧ (k ≠ .acq → copiesOf s' c.gid = [])) ∧
      (k = .acq ∨ copiesOf s c.gid = [] → ∀ l ∈ c.lanes, (getLane s' c.gid l).map (fun t => { t with poison := none }) =
        (getLane s c.gid l).map fun t => { goOn c.next t with poison := none }) ∧
      (queueOf e.group = [] → k = .acq ∨ copiesOf s c.gid = [] → OnlyThreads s s' ∧ ∀ gid l, getLane s' gid l =
        if gid = c.gid ∧ l ∈ c.lanes then (getLane s gid l).map (goOn c.next) else getLane s gid l)

/-- Stores enter the store queue in program order; fences perform what stands in it -/
def Obligations.StoresAndFencesFollowTheStoreQueue : Prop :=
  Parts.StoresEnterTheStoreQueueInProgramOrder ∧
  Parts.FencesPerformWhatStandsInTheQueue

/-- R68, R69: the completion of a long-latency operation lowers its flag's counter by one and ends its reads. A load's
registers are then written; a store at the head of the queue is then in memory. -/
def Obligations.CompletionWritesTheResultAndLowersTheFlag : Prop :=
  ∀ s gid e op l t, env s gid = some e → getLane s gid l = some t → op ∈ e.group.ops →
    (e.group.ops.map (·.id)).Nodup → (∃ x ∈ e.group.threads, x.status ≠ .exited) →
    let done := fun (s' : State) =>
      (getGroup s' gid).map (fun x => x.ops.map (·.id)) = some ((e.group.ops.filter (·.id != op.id)).map (·.id)) ∧
      ∀ n, (getGroup s' gid).map (flagCount · n) =
        some (flagCount e.group n - if op.flag = some n then 1 else 0)
    (∀ rs fl, op.performed = true → op.parts = [.load l rs fl] → (rs.map (·.1)).Nodup →
      ∃ s', exec (.flagCompletion gid op.id) s = .next s' ∧ OnlyThreads s s' ∧ done s' ∧
        (∃ t1, Sets rs [] fl (awaits t (t.reads - 1) t.poison) t1 ∧ (getLane s' gid l).map apart = some (apart t1)) ∧
        ∀ g k, ¬(g = gid ∧ k = l) → (getLane s' g k).map apart = (getLane s g k).map apart) ∧
    (∀ rest key n v, queueOf e.group = op :: rest → op.parts = [.store l key n v false] → n ≤ 16 → Fresh s key →
      Undue e op →
      ∃ s', exec (.flagCompletion gid op.id) s = .next s' ∧ StoresAt s s' key n v ∧ done s' ∧
        ∀ g k, (getLane s' g k).map apart = (getLane s g k).map apart)

/-- R164, R165, R166: an atomic, a reduction or an `amxs` passes its checks, enters the store queue and counts on its
flag; an acquire or a release orders as a load or a store does: as a release issues, the queue is performed and the
group's copies land (R154). Several lanes enter as one operation, its parts in the order of the lanes. -/
def Parts.AtomicsAreCheckedAndQueuedForTheirBank : Prop :=
  ∀ (g : Guard) (x : AtomOp) (y : AmxOp),
    let w := x.aty = .n64 ∨ x.aty = .i64
    let w64 := decide w
    let us := fun (sp : Space) (red : Bool) => (if red then [] else [dst w64 x.d]) ++
      [src (sp == .glb) x.a, src w64 x.b] ++ (if x.aop = .cas then [src w64 x.c] else [])
    let val := fun (rd : Nat → Word) (r : Reg) => if w then (pair64 rd r).toNat else (rd r.toNat).toNat
    let queued := fun (i : Instr) (us : List RegUse) (sp : Space) (n : Nat) (ss acq rel : Bool) (a : Reg)
        (off : BitVec 16) (k : RmwKind) (b c0 : (Nat → Word) → Nat) (d : Option Nat) =>
      ∀ s c e l t t0 rd key, Lone s c e g us l t t0 rd → flagFull e.group (curFlag e.group c ss) = false →
        let ea := accessAt sp rd a off
        LandsAt s e l sp .write ea n key → locate s e l sp .write ea.toNat n = .ok key 0 0 false 0 →
        (sp = .scr → lineEmpty s key n = none) →
        ((rel = true → AllPerformed s e) → ∃ s' op, exec i s = .next s' ∧ OnlyThreads s s' ∧
          LaneBecomes s s' c l (goOn c.next (awaits t0 (t0.reads + if d.isSome then 1 else 0) t0.poison)) ∧
          Issued s s' c.gid (curFlag e.group c ss) op ∧ op.queued = true ∧ op.performed = false ∧ op.acquire = acq ∧
          op.parts = [.rmw l key n k (b rd) (c0 rd) d c.pc ea.toNat]) ∧
        (rel = true → ∃ s' op, exec i s = .next s' ∧ s'.mem = (releaseGroup s e.ctx.asid c.gid).mem ∧
          copiesOf s' c.gid = [] ∧ (getGroup s' c.gid).map queueOf = some [op] ∧ op.acquire = acq ∧
          op.parts = [.rmw l key n k (b rd) (c0 rd) d c.pc ea.toNat])
    let several := fun (i : Instr) (us : List RegUse) (sp : Space) (n : Nat) (ss rel : Bool) (a : Reg) (off : BitVec 16) =>
      ∀ s c e, s.cur = some c → env s c.gid = some e → c.lanes.Nodup → pairIllegal e.grid.desc.regs us = false →
        (∀ l ∈ c.lanes, (getLane s c.gid l).isSome = true) → settleStreams s c e g us = s → activeLanes s c g ≠ [] →
        flagFull e.group (curFlag e.group c ss) = false → (rel = true → AllPerformed s e) →
        (∀ l ∈ activeLanes s c g, ∃ t t0 ov key, getLane s c.gid l = some t ∧
          operandsOf s e (execRec s c e g) t us = .ok ov t0 ∧
          LandsAt s e l sp .write (accessAt sp (readOver ov t) a off) n key ∧
          locate s e l sp .write (accessAt sp (readOver ov t) a off).toNat n = .ok key 0 0 false 0 ∧
          (sp = .scr → lineEmpty s key n = none)) →
        ∃ s' op, exec i s = .next s' ∧ OnlyThreads s s' ∧ Issued s s' c.gid (curFlag e.group c ss) op ∧
          op.queued = true ∧ op.performed = false ∧ op.parts.map partLane = activeLanes s c g
    let at' := fun (i : Instr) (sp : Space) (red : Bool) =>
      queued i (us sp red) sp (if w then 8 else 4) x.ss (x.ord == .acq || x.ord == .ar) (x.ord == .rel || x.ord == .ar)
        x.a x.off (.atom x.aop x.aty) (fun rd => val rd x.b) (fun rd => if x.aop = .cas then val rd x.c else 0)
        (if red then none else some x.d.toNat) ∧
      several i (us sp red) sp (if w then 8 else 4) x.ss (x.ord == .rel || x.ord == .ar) x.a x.off
    at' (.ats g x) .scr false ∧ at' (.atc g x) .cmn false ∧ at' (.atg g x) .glb false ∧
    at' (.redc g x) .cmn true ∧ at' (.redg g x) .glb true ∧
    several (.amxsCmn g y) [dst false y.d, src false y.a] .cmn 4 y.ss (y.ord == .rel) y.a y.off ∧
    several (.amxsGlb g y) [dst false y.d, src true y.a] .glb 4 y.ss (y.ord == .rel) y.a y.off ∧
    queued (.amxsCmn g y) [dst false y.d, src false y.a] .cmn 4 y.ss (y.ord == .acq) (y.ord == .rel) y.a y.off .amxs
      (fun _ => 0) (fun _ => 0) (some y.d.toNat) ∧
    queued (.amxsGlb g y) [dst false y.d, src true y.a] .glb 4 y.ss (y.ord == .acq) (y.ord == .rel) y.a y.off .amxs
      (fun _ => 0) (fun _ => 0) (some y.d.toNat)

/-- R164, R166: the bank reads the old value, writes the value of Table 8.3 in one step, zero for `amxs`, and hands
the old value to the destination. Integer operations wrap and compare by their type; floating ones round to
nearest. Where several lanes name one address, each lane in turn reads what the lanes before it have left. -/
def Parts.BanksPerformReadModifyWritesInOneStep : Prop :=
  ∀ s gid e op rest key n k d pc (xs : List (Nat × Nat × Nat × Nat)), env s gid = some e →
    (e.group.ops.map (·.id)).Nodup → queueOf e.group = op :: rest → xs ≠ [] →
    op.parts = xs.map (fun x => .rmw x.1 key n k x.2.1 x.2.2.1 d pc x.2.2.2) →
    Clean s key n → n = 4 ∨ n = 8 → (keyClass2 s key = true → tget 0 s.versions (key / 64) + xs.length < 2 ^ 56) →
    Undue e op →
    let new := fun (old b c : Nat) => match k with
      | .amxs => 0
      | .atom a .n32 => (intAtomic false a (BitVec.ofNat 32 old) (BitVec.ofNat 32 b) (BitVec.ofNat 32 c)).toNat
      | .atom a .i32 => (intAtomic true a (BitVec.ofNat 32 old) (BitVec.ofNat 32 b) (BitVec.ofNat 32 c)).toNat
      | .atom a .n64 => (intAtomic false a (BitVec.ofNat 64 old) (BitVec.ofNat 64 b) (BitVec.ofNat 64 c)).toNat
      | .atom a .i64 => (intAtomic true a (BitVec.ofNat 64 old) (BitVec.ofNat 64 b) (BitVec.ofNat 64 c)).toNat
      | .atom a .f32 => floatAtomic .f32 a old b
      | .atom a .f16x2 => floatAtomic .f16 a (old % 2 ^ 16) (b % 2 ^ 16) + 2 ^ 16 * floatAtomic .f16 a (old / 2 ^ 16 % 2 ^ 16) (b / 2 ^ 16 % 2 ^ 16)
      | .atom a .bf16x2 => floatAtomic .bf16 a (old % 2 ^ 16) (b % 2 ^ 16) + 2 ^ 16 * floatAtomic .bf16 a (old / 2 ^ 16 % 2 ^ 16) (b / 2 ^ 16 % 2 ^ 16)
    let after := fun (i : Nat) => (xs.take i).foldl (fun v x => new v x.2.1 x.2.2.1) (memRead s.mem key n)
    (∀ x ∈ xs, match k with
      | .atom _ ty => n = (if ty = .n64 ∨ ty = .i64 then 8 else 4) ∧ x.2.1 < 2 ^ (8 * n) ∧ x.2.2.1 < 2 ^ (8 * n)
      | .amxs => n = 4) →
    ∃ s', exec (.bankRmw gid op.id) s = .next s' ∧ StoresAt s s' key n (after xs.length) ∧
      (∀ g k, getLane s' g k = getLane s g k) ∧
      (getGroup s' gid).map (fun x => x.ops.filter (·.id = op.id)) = some [⟨op.id, op.flag, op.queued, true, op.acquire, op.exec,
        match d with
        | some r => xs.mapIdx fun i x => .load x.1 (if n = 8 then
            [(r, BitVec.ofNat 32 (after i)), (r + 1, BitVec.ofNat 32 (after i / 2 ^ 32))]
            else [(r, BitVec.ofNat 32 (after i))]) 0
        | none => op.parts⟩]

/-- Atomics are checked and queued for their bank, which performs each read-modify-write in one step -/
def Obligations.AtomicsAreQueuedAndPerformedInOneStep : Prop :=
  Parts.AtomicsAreCheckedAndQueuedForTheirBank ∧
  Parts.BanksPerformReadModifyWritesInOneStep

/-- R46, R47, R52, R158: a load from a formatted page decodes one element and rounds it to its register type, with
the flags; a store names one element and the bank encodes it, saturating, with no flag: only the bytes of the element's
place change. That a load decodes the bytes at issue is the choice of log 2. -/
def Parts.FormattedPagesHoldElements : Prop :=
  (∀ (g : Guard) (m : MemOp) s c e l t t0 rd key fmt geom tbl ft,
    let n := widBytes m.wid
    let ea := accessAt .glb rd m.a m.off
    let rdU := fun i => (memGet s.mem (unitBase key + i)).toNat
    let v := pageFloat fmt geom rdU (key - unitBase key)
    let r := fRound ft .rn false v.1
    flagFull e.group (curFlag e.group c m.ss) = false → acquiring e.group l = false → 0 ≤ ea → ea + n ≤ 2 ^ 48 →
    1 ≤ fmt → fmt ≤ 3 → (fmt = 3 ∨ geom = 0) → geom ≤ 1 → m.raw = false → elemFloat m.ty m.wid = some ft →
    (Lone s c e g (memUses false .glb m) l t t0 rd → locate s e l .glb .read ea.toNat n = .ok key fmt geom tbl 0 →
      (∀ p ∈ accRanges m ⟨ea.toNat, key, fmt, geom, tbl, 0, true, 0, 0⟩, Clean s p.1 p.2 ∧ Unqueued e p.1 p.2) →
      ∃ s' op, exec (.ldg g m) s = .next s' ∧ OnlyThreads s s' ∧
        LaneBecomes s s' c l (goOn c.next (awaits t0 (t0.reads + 1) t0.poison)) ∧
        Issued s s' c.gid (curFlag e.group c m.ss) op ∧
        op.parts = [.load l [(m.d.toNat, BitVec.ofNat 32 r.code)] (v.2 ||| r.flags)]) ∧
    (Lone s c e g (memUses true .glb m) l t t0 rd → locate s e l .glb .write ea.toNat n = .ok key fmt geom tbl 0 →
      (m.ord = .rel → AllPerformed s e) →
      ∃ s' op, exec (.stg g m) s = .next s' ∧ OnlyThreads s s' ∧ LaneBecomes s s' c l (goOn c.next t0) ∧
        Issued s s' c.gid (curFlag e.group c m.ss) op ∧
        op.parts = [.encode l key fmt geom m.ty m.wid (BitVec.ofNat 32 (stored m rd))])) ∧
  (∀ (g : Guard) (m : MemOp) s c e l t t0 rd key fmt tbl,
    let ea := accessAt .glb rd m.a m.off
    let j := key % 4096
    let bit := fun p => (memGet s.mem (key / 4096 * 4096 + 128 * (fmt - 7) * (j / 1024) + 128 * p + j % 1024 / 8)).getLsbD (j % 8)
    let v := BitVec.ofBoolListBE ((List.range (fmt - 7)).map bit)
    flagFull e.group (curFlag e.group c m.ss) = false → acquiring e.group l = false → 0 ≤ ea →
    ea + widBytes m.wid ≤ 2 ^ 48 → 9 ≤ fmt → fmt ≤ 15 → m.raw = false → m.ty = .signed →
    m.wid = .w1 ∨ m.wid = .w2 ∨ m.wid = .w4 → Lone s c e g (memUses false .glb m) l t t0 rd → s.poison = [] →
    s.upsets = [] → locate s e l .glb .read ea.toNat (widBytes m.wid) = .ok key fmt 0 tbl 0 → queueOf e.group = [] →
    ∃ s' op, exec (.ldg g m) s = .next s' ∧ OnlyThreads s s' ∧ Issued s s' c.gid (curFlag e.group c m.ss) op ∧
      op.parts = [.load l [(m.d.toNat, BitVec.ofInt 32 v.toInt)] 0]) ∧
  (∀ s gid e op l t rest key fmt ty wid v, env s gid = some e → getLane s gid l = some t →
    (e.group.ops.map (·.id)).Nodup → queueOf e.group = op :: rest → op.parts = [.encode l key fmt 0 ty wid v] →
    fmt = 1 ∨ fmt = 2 → Fresh s key → s.poison = [] → Undue e op →
    ∃ s', exec (.bankStoreEncode gid op.id) s = .next s' ∧
      StoresAt s s' key 1 (fRound (if fmt = 1 then .e4m3 else .e5m2) .rn true (storeVal ty wid v).1).code ∧
      (∀ g k, getLane s' g k = getLane s g k))

/-- R45, R49, R51, R53, R55: a store to a BPn page writes one bit in each plane of its element, of the value saturated to
n bits; a store to an E2M1X page re-encodes the element's block from the exact values of its elements. Only these bytes
change, and the unit's reserved bytes become zero. The encoding of a block: at most two candidates, NaNs and infinities
first, then the greatest; the least scale at which the others keep within 6; the candidates that do not are outliers,
with FP16 entries; a third NaN or infinity is an escape with no entry; every other element is rounded once. -/
def Parts.ElementStoresEncodeTheirPlanesAndBlocks : Prop :=
  (∀ s gid e op l t rest key fmt geom ty wid v, env s gid = some e → getLane s gid l = some t →
    (e.group.ops.map (·.id)).Nodup → queueOf e.group = op :: rest → op.parts = [.encode l key fmt geom ty wid v] →
    (∀ a, a / 4096 = key / 4096 → Fresh s a) → s.poison = [] → s.upsets = [] → Undue e op →
    let u := key / 4096 * 4096
    let j := key % 4096
    let holds := fun (used : Nat) (byte : Nat → Option Byte) => ∃ s', exec (.bankStoreEncode gid op.id) s = .next s' ∧
      s' = { s with groups := s'.groups, contexts := s'.contexts, mem := s'.mem, versions := s'.versions,
                    cmnTags := s'.cmnTags, written := s'.written } ∧
      Framed s s' ∧ (∀ g k, getLane s' g k = getLane s g k) ∧
      ∀ a, memGet s'.mem a = if a < u ∨ u + 4096 ≤ a then memGet s.mem a else if u + used ≤ a then 0
        else (byte (a - u)).getD (memGet s.mem a)
    let rdU := fun i => (memGet s.mem (u + i)).toNat
    (9 ≤ fmt → fmt ≤ 15 → ty = .signed →
      let n := fmt - 7
      let x := max (-(2 : Int) ^ (n - 1)) (min (2 ^ (n - 1) - 1) (storeVal ty wid v).2)
      let bits := BitVec.ofInt n x
      holds (512 * n) fun i => ((List.range n).find? fun p => i = 128 * n * (j / 1024) + 128 * p + j % 1024 / 8).map fun p =>
        let old := memGet s.mem (u + i)
        let m : Byte := 1#8 <<< (j % 8)
        if bits.getLsbD (n - 1 - p) then old ||| m else old &&& ~~~m) ∧
    (fmt = 3 → geom ≤ 1 →
      let B := if geom = 0 then 16 else 32
      let b := j / B
      let r := encE2m1x ((List.range B).map fun k =>
        (k, if k = j % B then (storeVal ty wid v).1 else (blockElem geom rdU b k).1))
      let meta0 := if geom = 0 then 16 * b + 8 else 2048 + 8 * b
      holds (if geom = 0 then 4096 else 3072) fun i =>
        if 16 * b ≤ i ∧ i < 16 * b + B / 2 then
          some (BitVec.ofNat 8 (r.1.getD (2 * (i - 16 * b)) 0 + 16 * r.1.getD (2 * (i - 16 * b) + 1) 0))
        else if meta0 ≤ i ∧ i < meta0 + 8 then some (BitVec.ofNat 8 (r.2 / 256 ^ (i - meta0))) else none)) ∧
  (∀ (n : Nat) (x : Nat → FVal), n = 16 ∨ n = 32 →
    let r := encE2m1x ((List.range n).map fun j => (j, x j))
    let special := fun (j : Nat) => fIsNan (x j) || fIsInf (x j)
    let mag := fun (j : Nat) => |(x j).rat|
    let before := fun (i j : Nat) => decide (i ≠ j) &&
      if special i then !special j || decide (i < j)
      else !special j && (decide (mag j < mag i) || (decide (mag i = mag j) && decide (i < j)))
    let cand := fun (j : Nat) => (special j || decide (0 < mag j)) && decide (((List.range n).filter (before · j)).length < 2)
    let kept := fun (j : Nat) => j < n ∧ special j = false ∧ cand j = false
    ∃ e : Int, ((∀ j, kept j → mag j = 0) → e = -127) ∧
      ((∃ j, kept j ∧ mag j ≠ 0) →
        ∃ k : Int, (∀ i : Int, (∀ j, kept j → mag j ≤ 6 * 2 ^ i) ↔ k ≤ i) ∧ e = max (-127) (min 127 k)) ∧
      let out := (List.range n).filter fun j => cand j && (special j || decide (6 * (2 : Rat) ^ e < mag j))
      let entry := fun (i : Nat) => match out[i]? with
        | none => 0
        | some j => j + 2 ^ 5 * (match x j with
          | .nan _ => 0x7E00
          | .inf neg => if neg then 0xFC00 else 0x7C00
          | y => (fRound .f16 .rn true (fScale2 (-e) y)).code)
      out.length ≤ 2 ∧ r.2 = (e + 127).toNat + 2 ^ 8 * out.length + 2 ^ 10 * entry 0 + 2 ^ 31 * entry 1 ∧
      r.1.length = n ∧ ∀ j, j < n → r.1[j]? = some (if j ∈ out ∨ special j = true then 8
        else if mag j = 0 then 0 else (fRound .e2m1x .rn true (fScale2 (-e) (x j))).code))

/-- Loads and stores of formatted pages decode and encode their elements.
Choices and readings of the model that it rests on: log 2. -/
def Obligations.FormattedPagesHoldElements : Prop :=
  Parts.FormattedPagesHoldElements ∧
  Parts.ElementStoresEncodeTheirPlanesAndBlocks

/-! ## Streams of registers and special registers -/

/-- R121: `sbind` binds a stream pattern register with its count and position checked, releases every other binding of
the same register, and `sbind.off` releases it. -/
def Parts.StreamBindingsAreMadeCheckedAndReleased : Prop :=
  ∀ (g : Guard) (k : BitVec 3) (ew8 : Bool) (d a : Reg),
    EachLane (.sbind g (.off k)) g [] anyOperands (fun _ t0 t1 =>
      t1 = { t0 with sp := t1.sp } ∧ ∀ j, rdStream t1 j = if j = k.toNat then StreamReg.unbound else rdStream t0 j) ∧
    ∀ s c e l t t0 rd, Lone s c e g [srcRun a 3] l t t0 rd → d.toNat + (if ew8 then 1 else 0) < e.grid.desc.regs →
      let cnt := (rd (a.toNat + 2)).toNat % 2 ^ 16
      let pos := (rd (a.toNat + 2)).toNat / 2 ^ 16
      (cnt = 0 ∨ cnt ≤ pos → ∃ s', exec (.sbind g (.bind k ew8 d a)) s = .next s' ∧ OnlyThreads s s' ∧
        LaneBecomes s s' c l (faulted c 0x0D 0 t)) ∧
      (0 < cnt → pos < cnt → ∃ s' t1, exec (.sbind g (.bind k ew8 d a)) s = .next s' ∧ OnlyThreads s s' ∧
        LaneBecomes s s' c l (goOn c.next t1) ∧ t1 = { t0 with sp := t1.sp } ∧
        ∀ j < 8, rdStream t1 j =
          if j = k.toNat then ⟨rd a.toNat, rd (a.toNat + 1), cnt, pos, d, ew8, true⟩
          else if (rdStream t0 j).bnd = true ∧ (rdStream t0 j).vreg = d then StreamReg.unbound else rdStream t0 j)

/-- R122, R21: a read of a bound register takes its element from team scratch at BASE + POS × STRIDE and advances POS
modulo COUNT; a misaligned element is an alignment fault, one outside scratch a space-bound fault, both with POS as it
was; an empty line and an outstanding acquire are waited for. -/
def Parts.BoundRegistersDeliverScratchElements : Prop :=
  ∀ (s : State) (e : Env) (r : ExecRec) (t : Thread) (k : Nat) (x : StreamReg), boundStreams t = [(k, x)] →
    x.vreg.toNat < e.grid.desc.regs →
    let got := operandsOf s e r t [src false x.vreg]
    let w : Nat := if x.ew8 then 8 else 4
    let a : Int := x.base.toNat + x.pos * x.stride.toInt
    let key := keyScr e.team.tid a.toNat
    (acquiring e.group t.lane = true → got = .wait .acquire) ∧
    (acquiring e.group t.lane = false →
      (a % w ≠ 0 → got = .fault { cls := 0x08, addr := a }) ∧
      (a % w = 0 → a < 0 ∨ (e.grid.desc.scratch * 128 : Nat) < a + w → got = .fault { cls := 0x05, addr := a }) ∧
      (a % w = 0 → 0 ≤ a → a + w ≤ (e.grid.desc.scratch * 128 : Nat) →
        (∀ line, lineEmpty s key w = some line → got = .wait (.line line)) ∧
        (lineEmpty s key w = none → poisoned s key w = false → ∃ ov,
          got = .ok ov (wrStream t k { x with pos := (x.pos + 1) % x.count }) ∧
          readOver ov t x.vreg.toNat = BitVec.ofNat 32 (memRead s.mem key w) ∧
          (x.ew8 = true → readOver ov t (x.vreg.toNat + 1) = BitVec.ofNat 32 (memRead s.mem key w / 2 ^ 32)))))

/-- Stream registers are bound, checked and released, and deliver the elements of scratch they name -/
def Obligations.StreamRegistersAreBoundAndDeliverElements : Prop :=
  Parts.StreamBindingsAreMadeCheckedAndReleased ∧
  Parts.BoundRegistersDeliverScratchElements

/-- R27, R29, R237, R238, R407, Table 2.5: `sysr` reads every system register that the context's tag may read, and a
register that it may not read is a rights fault, a number that the table does not list an illegal instruction; `cntr`
reads a count of the context. -/
def Parts.SystemRegistersAndCountsAreReadByTheirRows : Prop :=
  ∀ (g : Guard) (d : Reg) (n : BitVec 12) (ev : BitVec 4) s c e l t t0 rd, e.ctx.tag ≤ 1 →
    let own := fun (x : Nat) => [(0, x), (1, x)]
    let rows : List (Nat × Bool × List (Nat × Nat)) := [
      (0x000, false, own t.lane), (0x001, false, own e.group.width),
      (0x002, false, own (e.group.index * e.group.width + t.lane)), (0x003, false, own e.group.slot),
      (0x004, false, own e.group.index), (0x005, false, own e.team.index),
      (0x006, false, own (((getGang s e.team.gang).map (·.index)).getD 0)), (0x007, false, own e.grid.id),
      (0x008, false, own e.group.die), (0x009, false, own e.group.core), (0x00A, false, own e.ctx.vf),
      (0x00B, false, own e.ctx.tag), (0x00C, false, [(0, e.ctx.asid)]), (0x010, true, [(1, (getDie s e.group.die).cyc)]),
      (0x011, true, own (coxAt s e.group.die)), (0x012, true, own s.synt), (0x013, false, own (errbOf s)),
      (0x014, true, own (tget 0 e.ctx.counts 0 + 1)), (0x015, false, own t.fpstat.toNat),
      (0x016, true, own e.ctx.trvec.toNat), (0x017, false, own t.trcause.toNat), (0x018, true, own t.trpc.toNat),
      (0x019, false, own e.team.orphan), (0x01A, false, own e.grid.spawn),
      (0x01B, false, [(0, ((getFunc s e.ctx.vf).map fun f => (pmaskRead s f).toNat).getD 0)])]
    let put := fun (w : Bool) (x : Nat) =>
      if w then toPair d (BitVec.ofNat 64 x) else [(d.toNat, BitVec.ofNat 32 x)]
    (∀ w vs, (n.toNat, w, vs) ∈ rows → (w = true → d.toNat % 2 = 0) → Lone s c e g [dst w d] l t t0 rd →
      match vs.lookup e.ctx.tag with
      | some x => ∃ s' t1, exec (.sysr g d n) s = .next s' ∧ OnlyThreads s s' ∧ Sets (put w x) [] 0 t0 t1 ∧
          LaneBecomes s s' c l (goOn c.next t1)
      | none => ∃ s', exec (.sysr g d n) s = .next s' ∧ OnlyThreads s s' ∧
          LaneBecomes s s' c l (faulted c 0x02 0 t)) ∧
    (n.toNat ∉ rows.map (·.1) → FaultsAlike anywhere (.sysr g d n) g 0x01 0) ∧
    (Lone s c e g [dst true d] l t t0 rd → ∃ s' t1, exec (.cntr g d ev) s = .next s' ∧ OnlyThreads s s' ∧
      Sets (put true (tget 0 e.ctx.counts ev.toNat + if ev = 0 then 1 else 0)) [] 0 t0 t1 ∧
      LaneBecomes s s' c l (goOn c.next t1))

/-- R27, R30, R237: `sysw` writes %fpstat, %trvec and, for an operator context, %pmask; a value with a reserved bit and
a register that no authority may write are illegal instructions that change nothing; %pmask from an owner context is a
rights fault. -/
def Parts.SystemRegistersAreWrittenByTheirRows : Prop :=
  ∀ (g : Guard) (a : Reg) s c e l t t0 rd, e.ctx.tag ≤ 1 →
    (Lone s c e g [src false a] l t t0 rd →
      let v := rd a.toNat
      (v.toNat < 64 → ∃ s', exec (.sysw g a 0x015) s = .next s' ∧ OnlyThreads s s' ∧
        LaneBecomes s s' c l (goOn c.next { t0 with fpstat := v })) ∧
      (64 ≤ v.toNat → ∃ s', exec (.sysw g a 0x015) s = .next s' ∧ OnlyThreads s s' ∧
        LaneBecomes s s' c l (faulted c 0x01 0 t)) ∧
      (e.ctx.tag = 0 → v.toNat < 256 → (s.liveInst = [] → s.updates = []) → ∀ f, getFunc s e.ctx.vf = some f → ∃ s' f', exec (.sysw g a 0x01B) s = .next s' ∧
        Besides (fun x => { x with funcs := [], updates := [], instSeq := [] }) s s' ∧
        getFunc s' e.ctx.vf = some f' ∧ { f' with pmask := f.pmask } = f ∧ (pmaskRead s' f').toNat = v.toNat ∧
        LaneBecomes s s' c l (goOn c.next t0)) ∧
      (e.ctx.tag = 0 → 256 ≤ v.toNat → ∃ s', exec (.sysw g a 0x01B) s = .next s' ∧ OnlyThreads s s' ∧
        LaneBecomes s s' c l (faulted c 0x01 0 t)) ∧
      (e.ctx.tag = 1 → ∃ s', exec (.sysw g a 0x01B) s = .next s' ∧ OnlyThreads s s' ∧
        LaneBecomes s s' c l (faulted c 0x02 0 t))) ∧
    (Lone s c e g [src true a] l t t0 rd → a.toNat % 2 = 0 →
      ∃ s', exec (.sysw g a 0x016) s = .next s' ∧ bare s' = bare s ∧
        (∀ gid, (getGroup s' gid).map groupFrame = (getGroup s gid).map groupFrame) ∧
        (∀ x, x ≠ e.ctx.asid → getCtx s' x = getCtx s x) ∧
        (getCtx s' e.ctx.asid).map ctxFrame = some (ctxFrame { e.ctx with trvec := pair64 rd a }) ∧
        LaneBecomes s s' c l (goOn c.next t0)) ∧
    ∀ n : BitVec 12, n ∉ [0x015, 0x016, 0x01B] → FaultsAlike anywhere (.sysw g a n) g 0x01 0

/-- System registers and counts are read and written as their rows allow -/
def Obligations.SystemRegistersFollowTheirRows : Prop :=
  Parts.SystemRegistersAndCountsAreReadByTheirRows ∧
  Parts.SystemRegistersAreWrittenByTheirRows

/-- R157, R316: `ldio` reads the device register at its offset in the context's window at its own width, 0 where no
register stands or none answers, and `stio` writes it, both counted on their flag; a register whose row denies the
access is a rights fault with no effect. Both come behind what the group has outstanding; here nothing is. That the value
is the one at issue is the choice of log 2, and that a 4-byte store keeps the other half of an 8-byte register that of
log 46. -/
def Obligations.DeviceRegistersAreReachedByTheirRows : Prop :=
  ∀ (g : Guard) (m : MemOp) s c e l t t0 rd,
    let n := widBytes m.wid
    let ea := accessAt .ios rd m.a m.off
    let a := actorOf s (.ctx e.ctx.asid)
    let off := ea.toNat
    flagFull e.group (curFlag e.group c m.ss) = false → acquiring e.group l = false → AllPerformed s e → 0 ≤ ea →
    ea + n ≤ iosLimit →
    m.wid = .w4 ∨ m.wid = .w8 →
    let reg := if windowsUp s then wregAt off else none
    (Lone s c e g (memUses false .ios m) l t t0 rd → ∀ f, getFunc s e.ctx.vf = some f →
      (∀ r, reg = some r → wregDenied f a r false 0 = true → ∃ s', exec (.ldio g m) s = .next s' ∧
        Besides (fun x => { x with dies := [] }) s s' ∧ LaneBecomes s s' c l (faulted c 0x02 0 t)) ∧
      (ea % n = 0 → (∀ r, reg = some r → wregDenied f a r false 0 = false) →
        ∃ s' op, exec (.ldio g m) s = .next s' ∧ OnlyThreads s s' ∧
          LaneBecomes s s' c l (goOn c.next (awaits t0 (t0.reads + 1) t0.poison)) ∧
          Issued s s' c.gid (curFlag e.group c m.ss) op ∧
          op.parts = [.load l (loaded m ((reg.map fun r => (wregRead s f a r).toNat % 2 ^ (8 * n)).getD 0)) 0])) ∧
    (Lone s c e g (memUses true .ios m) l t t0 rd → ∀ f, getFunc s e.ctx.vf = some f → f.vf = e.ctx.vf →
      ea % n = 0 →
      (∀ r, reg = some r → canWrite (wregCell a r) = false → ∃ s', exec (.stio g m) s = .next s' ∧
        Besides (fun x => { x with dies := [] }) s s' ∧ LaneBecomes s s' c l (faulted c 0x02 0 t)) ∧
      (reg = none → ∃ s' op, exec (.stio g m) s = .next s' ∧ OnlyThreads s s' ∧
        LaneBecomes s s' c l (goOn c.next t0) ∧ Issued s s' c.gid (curFlag e.group c m.ss) op) ∧
      (∀ q : Nat, q < 64 → ea = queueOff q 0x00 → windowsUp s = true → e.ctx.tag = 1 → getCtx s e.ctx.asid = some e.ctx →
        let v : DWord := if m.wid = .w8 then BitVec.ofNat 64 (stored m rd)
          else (cmdQueue f q).qbase.extractLsb' 32 32 ++ BitVec.ofNat 32 (stored m rd)
        v.toNat / 2 ^ 48 % 2 ^ 15 = 0 → ∃ s' op f', exec (.stio g m) s = .next s' ∧
          Besides (fun x => { x with funcs := [] }) s s' ∧ getFunc s' e.ctx.vf = some f' ∧
          cmdQueue f' q = { cmdQueue f q with qbase := v } ∧ LaneBecomes s s' c l (goOn c.next t0) ∧
          Issued s s' c.gid (curFlag e.group c m.ss) op))

/-! ## Barriers, queues, lines and tiles -/

/-- R180 to R183: in a lane, `barinit` starts phase 0, `barexp` adds to the signed byte count, `bararr` takes an
arrival, and the barrier is to be tested. The test comes once, as the die cycle ends: where arrivals and bytes are both 0,
GEN rises, PARR is EXP again and every lane whose generation is now complete wakes with its predicate true. Only the 16
bytes of the barrier change. -/
def Parts.TransactionBarriersCountArrivalsAndBytes : Prop :=
  (∀ (g : Guard) (a b : Reg) (grp : Bool) (n : BitVec 13) (k : BitVec 20) s c e l t t0 rd,
    let off := (rd a.toNat).toNat
    let key := keyScr e.team.tid off
    let x := barRead s key
    let ok := off % 16 = 0 ∧ off + 16 ≤ e.grid.desc.scratch * 128 ∧ queueOf e.group = [] ∧ acquiring e.group l = false
    let elsewhere := fun (s' : State) => ∀ m, ¬(key ≤ m ∧ m < key + 16) → memGet s'.mem m = memGet s.mem m
    let noted := fun (s' : State) => ∀ k, k ∈ s'.tests ↔ k = key ∨ k ∈ s.tests
    let does := fun (i : Instr) (y : Barrier) =>
      ∃ s', exec i s = .next s' ∧ Besides (fun x => { x with mem := [], tests := [] }) s s' ∧ elsewhere s' ∧
        barRead s' key = y ∧ noted s' ∧ LaneBecomes s s' c l (goOn c.next t0)
    let rests := fun (i : Instr) (t1 : Thread) =>
      ∃ s', exec i s = .next s' ∧ OnlyThreads s s' ∧ LaneBecomes s s' c l t1
    ok →
    (Lone s c e g [src false a] l t t0 rd →
      (x.wtr = 0 → n.toNat ≤ 4096 → ∃ s', exec (.barinit g a n) s = .next s' ∧ Besides (fun x => { x with mem := [] }) s s' ∧
        elsewhere s' ∧ barRead s' key = ⟨0, 0, n.toNat, n.toNat, true, false, 0⟩ ∧ LaneBecomes s s' c l (goOn c.next t0)) ∧
      (x.v = true → x.inv = false → does (.barexpI g a k) { x with pbytes := (x.pbytes + k.toNat) % 2 ^ 32 }) ∧
      (x.v = true → x.inv = false → 0 < x.parr → does (.bararr g grp a) { x with parr := x.parr - 1 }) ∧
      (x.wtr ≠ 0 → rests (.barinit g a n) (faulted c 0x0F 0 t)) ∧
      (x.v = false → ∀ i ∈ [Instr.barexpI g a k, .bararr g grp a], rests i (faulted c 0x0E 0 t)) ∧
      (x.v = true → x.inv = true → ∀ i ∈ [Instr.barexpI g a k, .bararr g grp a], ∃ s', exec i s = .next s' ∧
        Besides (fun x => { x with tests := [] }) s s' ∧ noted s' ∧ LaneBecomes s s' c l (goOn c.next t0)) ∧
      (x.v = true → x.inv = false → x.parr = 0 → rests (.bararr g grp a) (faulted c 0x10 0 t))) ∧
    (Lone s c e g [src false a, src false b] l t t0 rd → x.v = true → x.inv = false →
      does (.barexpR g a b) { x with pbytes := ((BitVec.ofNat 32 x.pbytes + rd b.toNat : Word)).toNat })) ∧
  ∀ s tid off, tid < 2 ^ 64 → off < 2 ^ 64 → (s.groups.map (·.gid)).Nodup →
    (∀ y ∈ s.groups, (y.threads.map (·.lane)).Nodup) → s.tests = [keyScr tid off] →
    let key := keyScr tid off
    let x := barRead s key
    let y := if x.v = true ∧ x.inv = false ∧ x.parr = 0 ∧ x.pbytes = 0 then
      { x with gen := (x.gen + 1) % 2 ^ 32, parr := x.exp } else x
    (cycleOpen s tid = true → runTests s = s) ∧
    (cycleOpen s tid = false → let s' := runTests s
      s'.tests = [] ∧ Besides (fun x => { x with mem := [], tests := [] }) s s' ∧
      (∀ m, ¬(key ≤ m ∧ m < key + 16) → memGet s'.mem m = memGet s.mem m) ∧
      { barRead s' key with wtr := 0 } = { y with wtr := 0 } ∧
      ∀ gid j u, getLane s gid j = some u → getLane s' gid j = some (match u.stall with
        | some (.bar o h p) =>
          if (getGroup s gid).map (·.tid) = some tid ∧ o = off ∧ y.gen ≠ x.gen ∧ genDone y.gen h.toNat = true
          then goOn (u.pc + 8) (wrPred { u with spBack := none } p true) else u
        | _ => u))

/-- R182: `barwait` sets its predicate false on a barrier without V or with INV, true on a complete generation, and
otherwise blocks with WTR one higher; `bartest` computes the same without blocking and can give GEN. -/
def Parts.BarrierWaitsReturnTheStateOfTheirGeneration : Prop :=
  ∀ (g : Guard) (p : PredIx) (a cr : Reg) (x : Gen) (rg : Bool) s c e l t t0 rd,
    let off := (rd a.toNat).toNat
    let key := keyScr e.team.tid off
    let y := barRead s key
    let gen : Word := match x with | .reg b => rd b.toNat | .const n => n.setWidth 32
    let us := src false a :: (match x with | .reg b => [src false b] | .const _ => [])
    let d := (BitVec.ofNat 32 y.gen - gen).toNat
    let complete := 1 ≤ d ∧ d ≤ 2 ^ 31
    off % 16 = 0 → off + 16 ≤ e.grid.desc.scratch * 128 → queueOf e.group = [] → acquiring e.group l = false →
    (firstWord c = true → Lone s c e g us l t t0 rd →
      (¬(y.v = true ∧ y.inv = false ∧ ¬complete) → ∃ s' t1, exec (.barwait g p a x) s = .next s' ∧ OnlyThreads s s' ∧
        Sets [] [(p, decide (y.v = true ∧ y.inv = false))] 0 t0 t1 ∧ LaneBecomes s s' c l (goOn c.next t1)) ∧
      (y.v = true → y.inv = false → ¬complete → ∃ s', exec (.barwait g p a x) s = .next s' ∧
        Besides (fun x => { x with mem := [] }) s s' ∧
        (∀ m, ¬(key ≤ m ∧ m < key + 16) → memGet s'.mem m = memGet s.mem m) ∧
        barRead s' key = { y with wtr := (y.wtr + 1) % 2 ^ 13 } ∧
        LaneBecomes s s' c l { t0 with stall := some (.bar off gen p), spBack := some t.sp })) ∧
    (Lone s c e g (us ++ if rg then [dst false cr] else []) l t t0 rd → ∃ s' t1,
      exec (.bartest g p a x rg cr) s = .next s' ∧ OnlyThreads s s' ∧
        Sets (if rg then [(cr.toNat, BitVec.ofNat 32 y.gen)] else [])
          [(p, decide (y.v = true ∧ y.inv = false ∧ complete))] 0 t0 t1 ∧ LaneBecomes s s' c l (goOn c.next t1))

/-- Transaction barriers count arrivals and bytes, and waits return the state of their generation -/
def Obligations.BarriersCountArrivalsAndReleaseTheirWaiters : Prop :=
  Parts.TransactionBarriersCountArrivalsAndBytes ∧
  Parts.BarrierWaitsReturnTheStateOfTheirGeneration

/-- R181, R184: `barinv` invalidates: every lane blocked on the barrier wakes with its predicate false, and every
completion outstanding for it is orphaned. -/
def Parts.InvalidationWakesEveryWaiterAndOrphansTheBytes : Prop :=
  ∀ (g : Guard) (a : Reg) s c e l t t0 rd, Lone s c e g [src false a] l t t0 rd →
    let off := (rd a.toNat).toNat
    let key := keyScr e.team.tid off
    off % 16 = 0 → off + 16 ≤ e.grid.desc.scratch * 128 → (barRead s key).v = true → e.team.tid < 2 ^ 64 →
    queueOf e.group = [] → acquiring e.group l = false → (∀ o h p, t.stall ≠ some (.bar o h p)) →
    ∃ s', exec (.barinv g a) s = .next s' ∧
      Besides (fun x => { x with mem := [], transfers := [], requests := [] }) s s' ∧
      (∀ m, ¬(key ≤ m ∧ m < key + 16) → memGet s'.mem m = memGet s.mem m) ∧
      barRead s' key = { barRead s key with inv := true, wtr := 0 } ∧
      s'.transfers = s.transfers.map (fun x => if x.bar = some key then { x with orphan := true } else x) ∧
      s'.requests = s.requests.map (fun x => if x.bar = some key then { x with orphan := true } else x) ∧
      getLane s' c.gid l = some (goOn c.next t0) ∧
      ∀ gid j u o h p, ¬(gid = c.gid ∧ j ∈ c.lanes) → getLane s gid j = some u → u.stall = some (.bar o h p) →
        (getGroup s gid).map (·.tid) = some e.team.tid → o = off →
        getLane s' gid j = some (goOn (u.pc + 8) (wrPred { u with spBack := none } p false))

/-- R185, R217: `bararr mbN` is one arrival of the group; `barwait mbN` returns true for the phase after the last one
it returned for, once that phase has been signalled, false once the stream is over, and waits otherwise. That a `barwait` which
returns false does not count for its phase is the choice of log 38. -/
def Parts.NumberedBarriersCountPhasesOfTheGroup : Prop :=
  ∀ (g : Guard) (p : PredIx) (n : BitVec 4) s c e, Ready s c e g [] anyOperands → activeLanes s c g ≠ [] →
    (AllPerformed s e → ∃ s', exec (.bararrMb g n) s = .next s' ∧ OnlyThreads s s' ∧
      (∀ m, (getGroup s' c.gid).map (fun x => tget 0 x.mbArr m) =
        some (tget 0 e.group.mbArr m + if m = n.toNat then 1 else 0)) ∧
      ∀ k ∈ c.lanes, getLane s' c.gid k = (getLane s c.gid k).map (goOn c.next)) ∧
    (firstWord c = true → (∀ k ∈ activeLanes s c g, ∀ t, getLane s c.gid k = some t → t.stall = none) →
      let ret := tget 0 e.group.mbRet n.toNat
      let sig := tget 0 e.team.seq.mbSig n.toNat
      let got := fun (v : Bool) (next : Nat) => ∃ s', exec (.barwaitMb g p n) s = .next s' ∧ OnlyThreads s s' ∧
        (getGroup s' c.gid).map (fun x => tget 0 x.mbRet n.toNat) = some next ∧
        ∀ k ∈ c.lanes, ∀ t, getLane s c.gid k = some t →
          if guardOf g t then ∃ t1, getLane s' c.gid k = some (goOn c.next t1) ∧ Sets [] [(p, v)] 0 t t1
          else getLane s' c.gid k = some (goOn c.next t)
      (ret < sig → got true (ret + 1)) ∧ (sig ≤ ret → streamOver e.team.seq = true → got false ret) ∧
      (sig ≤ ret → streamOver e.team.seq = false → ∃ s', exec (.barwaitMb g p n) s = .next s' ∧ OnlyThreads s s' ∧
        AllWait s s' c g (.barMb n.toNat ret)))

/-- Invalidation wakes every waiter and orphans its bytes; numbered barriers count the phases of a group.
Choices and readings of the model that it rests on: log 38. -/
def Obligations.InvalidationAndNumberedBarriersWakeTheirWaiters : Prop :=
  Parts.InvalidationWakesEveryWaiterAndOrphansTheBytes ∧
  Parts.NumberedBarriersCountPhasesOfTheGroup

/-- R192: the queue steps that can go on: `qpush` appends and takes an allowance, `qpop` removes the oldest entry for
every lane and gives an allowance back unless `.keep`, `qpush.cred` raises the allowance up to DEPTH, and `qtry` does as
the first two, or with its predicate false does nothing where they would wait. That the lowest lane alone takes stream
elements is the choice of log 97. -/
def Parts.QueueStepsMoveOneEntryAndItsAllowance : Prop :=
  ∀ (g : Guard) (q : BitVec 3) (keep : Bool) (d a : Reg) (p : PredIx) s c e l t t0 rd (x : NQueue),
    e.team.queues[q.toNat]? = some x → x.depth ≠ 0 → x.waiters = [] → firstWord c = true → AllPerformed s e →
    let becomes := fun (s' : State) (y : NQueue) => Besides (fun z => { z with teams := [] }) s s' ∧
      ∀ k, getTeam s' k = if k = e.team.tid then
        (getTeam s k).map (fun z => { z with queues := z.queues.set q.toNat y }) else getTeam s k
    let canPush := 1 ≤ x.allow ∧ x.items.length + 1 ≤ x.depth
    let pushed := fun (v : Word) => { x with allow := x.allow - 1, items := x.items ++ [v] }
    let popped := fun (k : Bool) =>
      (⟨x.depth, if k then x.allow else min x.depth (x.allow + 1), x.items.tail, []⟩ : NQueue)
    (Uniform s c e g [src false a] l t t0 rd →
      (canPush → ∃ s', exec (.qpush g q false false a) s = .next s' ∧ becomes s' (pushed (rd a.toNat)) ∧
        AllReceive s s' c g l t0 [] []) ∧
      (∃ s', exec (.qpush g q false true a) s = .next s' ∧
        becomes s' { x with allow := min x.depth (x.allow + (rd a.toNat).toNat) } ∧ AllReceive s s' c g l t0 [] []) ∧
      (canPush → ∃ s', exec (.qtry g q p (.push a)) s = .next s' ∧ becomes s' (pushed (rd a.toNat)) ∧
        AllReceive s s' c g l t0 [] [(p, true)]) ∧
      (¬canPush → ∃ s', exec (.qtry g q p (.push a)) s = .next s' ∧ OnlyThreads s s' ∧
        AllReceive s s' c g l t0 [] [(p, false)])) ∧
    (Uniform s c e g [dst false d] l t t0 rd →
      (∀ v, x.items.head? = some v → ∃ s', exec (.qpop g q false keep d) s = .next s' ∧ becomes s' (popped keep) ∧
        AllReceive s s' c g l t0 [(d.toNat, v)] []) ∧
      (∀ v, x.items.head? = some v → ∃ s', exec (.qtry g q p (.pop d)) s = .next s' ∧ becomes s' (popped false) ∧
        AllReceive s s' c g l t0 [(d.toNat, v)] [(p, true)]) ∧
      (x.items = [] → ∃ s', exec (.qtry g q p (.pop d)) s = .next s' ∧ OnlyThreads s s' ∧
        AllReceive s s' c g l t0 [] [(p, false)]) ∧
      (x.items = [] → ∃ s', exec (.qpop g q false keep d) s = .next s' ∧
        Besides (fun z => { z with teams := [] }) s s' ∧ AllWait s s' c g (.qpop q.toNat 1)))

/-- R192: with `.all` every participant's entry is appended in ascending lanes, or the i-th lane receives the i-th
entry, in one step, where the queue admits them all. -/
def Parts.QueueStepsOfAllLanesGoInAscendingLanes : Prop :=
  ∀ (g : Guard) (q : BitVec 3) (keep : Bool) (d a : Reg) s c e (x : NQueue),
    e.team.queues[q.toNat]? = some x → x.depth ≠ 0 → x.waiters = [] → firstWord c = true → AllPerformed s e →
    Ready s c e g [src false a] anyOperands → (∀ k t, getLane s c.gid k = some t → boundStreams t = []) →
    let act := activeLanes s c g
    let vals := act.map fun k => ((getLane s c.gid k).map fun t => rdReg t a.toNat).getD 0
    let becomes := fun (s' : State) (y : NQueue) => Besides (fun z => { z with teams := [] }) s s' ∧
      ∀ k, getTeam s' k = if k = e.team.tid then
        (getTeam s k).map (fun z => { z with queues := z.queues.set q.toNat y }) else getTeam s k
    act.length ≤ x.depth →
    (act.length ≤ x.allow → x.items.length + act.length ≤ x.depth →
      ∃ s', exec (.qpush g q true false a) s = .next s' ∧
        becomes s' ⟨x.depth, x.allow - act.length, x.items ++ vals, []⟩ ∧
        ∀ k ∈ c.lanes, getLane s' c.gid k = (getLane s c.gid k).map (goOn c.next)) ∧
    (∃ s', exec (.qpush g q true true a) s = .next s' ∧
      becomes s' { x with allow := min x.depth (x.allow + (vals.map (·.toNat)).sum) } ∧
      ∀ k ∈ c.lanes, getLane s' c.gid k = (getLane s c.gid k).map (goOn c.next)) ∧
    (Ready s c e g [dst false d] anyOperands → act.length ≤ x.items.length →
      ∃ s', exec (.qpop g q true keep d) s = .next s' ∧
        becomes s' ⟨x.depth, if keep then x.allow else min x.depth (x.allow + act.length), x.items.drop act.length, []⟩ ∧
        ∀ k ∈ c.lanes, ∀ t, getLane s c.gid k = some t →
          if guardOf g t then ∃ t1, getLane s' c.gid k = some (goOn c.next t1) ∧
            Sets [(d.toNat, x.items.getD (act.findIdx (· == k)) 0)] [] 0 t t1
          else getLane s' c.gid k = some (goOn c.next t))

/-- Queue steps move entries in order with their allowance, one or one per lane.
Choices and readings of the model that it rests on: log 97. -/
def Obligations.QueuesMoveEntriesAndAllowances : Prop :=
  Parts.QueueStepsMoveOneEntryAndItsAllowance ∧
  Parts.QueueStepsOfAllLanesGoInAscendingLanes

/-- R176, R177: `feclr` marks every line of its range empty, `feclr.set` full, and no other; `fewait` goes on when
every line of its range is full and waits otherwise. -/
def Parts.FullAndEmptyLinesAreMarkedAndAwaited : Prop :=
  ∀ (g : Guard) (set : Bool) (a b : Reg) s c e l t t0 rd, Lone s c e g [src false a, src false b] l t t0 rd →
    let off := (rd a.toNat).toNat
    let n := (rd b.toNat).toNat
    let key := keyScr e.team.tid off
    off % 128 = 0 → n % 128 = 0 → 128 ≤ n → off + n ≤ e.grid.desc.scratch * 128 →
    (queueOf e.group = [] → ∃ s', exec (.feclr g set a b) s = .next s' ∧
      Besides (fun x => { x with empties := [] }) s s' ∧ LaneBecomes s s' c l (goOn c.next t0) ∧
      ∀ line, line ∈ s'.empties ↔
        if key / 128 ≤ line ∧ line < (key + n) / 128 then set = false else line ∈ s.empties) ∧
    (firstWord c = true → ((∀ line ∈ s.empties, ¬(key / 128 ≤ line ∧ line < (key + n) / 128)) →
        ∃ s', exec (.fewait g a b) s = .next s' ∧ OnlyThreads s s' ∧ LaneBecomes s s' c l (goOn c.next t0)) ∧
      ((∃ line ∈ s.empties, key / 128 ≤ line ∧ line < (key + n) / 128) →
        ∃ s', exec (.fewait g a b) s = .next s' ∧ OnlyThreads s s' ∧
          LaneBecomes s s' c l { t with stall := some (.fewait key n) }))

/-- R190, R191, Table 9.6: `tilest` makes only the changes of the table, `tilest.def` gives an empty entry its place,
and any other change is a tile-state fault in every lane; `tileq` reads an entry. That the lowest lane alone takes stream
elements is the choice of log 97. -/
def Parts.TilesChangeOnlyByTheTable : Prop :=
  ∀ (g : Guard) (d a b n : Reg) s c e l t t0 rd (x : TileEnt),
    let i := (rd a.toNat).toNat
    let becomes := fun (s' : State) (y : TileEnt) => Besides (fun z => { z with teams := [] }) s s' ∧
      ∀ k, getTeam s' k = if k = e.team.tid then
        (getTeam s k).map (fun z => { z with tiles := z.tiles.set i y }) else getTeam s k
    let refused := fun (j : Instr) => ∃ s', exec j s = .next s' ∧ OnlyThreads s s' ∧
      ∀ k ∈ c.lanes, getLane s' c.gid k = (getLane s c.gid k).map fun u =>
        if guardOf g u then faulted c 0x12 0 u else goOn c.next u
    e.team.tiles[i]? = some x →
    (Uniform s c e g [src false a] l t t0 rd →
      (x.state = 0 → ∃ s', exec (.tilest g (.ready a)) s = .next s' ∧ becomes s' { x with state := 2 } ∧
        AllReceive s s' c g l t0 [] []) ∧
      (x.state ≠ 0 → refused (.tilest g (.ready a))) ∧
      (x.state = 2 → ∃ s', exec (.tilest g (.empty a)) s = .next s' ∧ becomes s' { x with state := 0 } ∧
        AllReceive s s' c g l t0 [] []) ∧
      (x.state ≠ 2 → refused (.tilest g (.empty a)))) ∧
    (Uniform s c e g [src false a, src false b, src false n] l t t0 rd →
      let base := (rd b.toNat).toNat
      let lines := (rd n.toNat).toNat
      base + lines * 128 ≤ e.grid.desc.scratch * 128 → base % 128 = 0 →
      (x.state = 0 → 1 ≤ lines → lines ≤ 4096 → ∃ s', exec (.tilest g (.tdef a b n)) s = .next s' ∧
        becomes s' { x with base := base, lines := lines } ∧ AllReceive s s' c g l t0 [] []) ∧
      (x.state ≠ 0 → refused (.tilest g (.tdef a b n)))) ∧
    (Lone s c e g [dst true d, src false a] l t t0 rd → x.base < 2 ^ 32 → x.lines < 2 ^ 16 → x.state < 4 →
      ∃ s' t1, exec (.tileq g d a) s = .next s' ∧ OnlyThreads s s' ∧
        Sets (toPair d (BitVec.ofNat 64 (x.base + 2 ^ 32 * x.lines + 2 ^ 48 * x.state))) [] 0 t0 t1 ∧
        LaneBecomes s s' c l (goOn c.next t1))

/-- Full and empty lines are marked and awaited, and tiles change only by their table.
Choices and readings of the model that it rests on: log 97. -/
def Obligations.LinesAndTilesFollowTheirStates : Prop :=
  Parts.FullAndEmptyLinesAreMarkedAndAwaited ∧
  Parts.TilesChangeOnlyByTheTable

/-! ## Copies, launches from a kernel, heaps, migration -/

/-- R193, R195: `tlwait` goes on once DONE has reached its value and waits until then; `tlread` delivers DONE, or
ISSUED with ERR in bit 63, as a long-latency load. That a timeline on a formatted page is read as its bytes is the reading
of log 39, that the value is the one at issue the choice of log 2. -/
def Parts.TimelinesAreAwaitedAndRead : Prop :=
  ∀ (g : Guard) (sc : Scope) (h acq iss ss : Bool) (d a b : Reg) (n : BitVec 20) s c e l t t0 rd key fmt geom tbl mt,
    formatReserved fmt geom = false →
    let sp : Space := if h then .hst else .glb
    let at_ := (pair64 rd a).toNat
    let done := memRead s.mem key 8
    let waits := fun (i : Instr) (us : List RegUse) (v : Nat) => Lone s c e g us l t t0 rd → firstWord c = true →
      (v ≤ done → ∃ s', exec i s = .next s' ∧ OnlyThreads s s' ∧ LaneBecomes s s' c l (goOn c.next t0)) ∧
      (done < v → e.grid.endCode = none → ∃ s', exec i s = .next s' ∧ OnlyThreads s s' ∧
        LaneBecomes s s' c l { t with stall := some (.timeline key v) })
    acquiring e.group l = false → at_ % 16 = 0 → at_ + 16 ≤ 2 ^ 48 → AllPerformed s e →
    locate s e l sp .read at_ 16 = .ok key fmt geom tbl mt →
    waits (.tlwaitR g sc h a b) [src true a, src true b] (pair64 rd b).toNat ∧
    waits (.tlwaitI g sc h a n) [src true a] n.toNat ∧
    (Lone s c e g [dst true d, src true a] l t t0 rd → flagFull e.group (curFlag e.group c ss) = false →
      Clean s key 16 → ∃ s' op, exec (.tlread g sc acq iss h ss d a) s = .next s' ∧ OnlyThreads s s' ∧
        LaneBecomes s s' c l (goOn c.next (awaits t0 (t0.reads + 1) t0.poison)) ∧
        Issued s s' c.gid (curFlag e.group c ss) op ∧ op.acquire = acq ∧
        op.parts = [.load l (toPair d (BitVec.ofNat 64 (memRead s.mem (if iss then key + 8 else key) 8))) 0])

/-- R194, R196: `ncopy` checks source, destination and timeline, page by page, and enters the store queue; the engine
numbers it as it accepts it and copies its bytes, those of a sealed one as they are stored; when it has finished, DONE
passes its number, and a failed one sets ERR. That bytes of formatted pages are copied as they stand is the reading of
log 39. -/
def Parts.NetworkCopiesAreNumberedPerformedAndFinished : Prop :=
  (∀ (g : Guard) (x : CopyOp) (sealing : Bool) (SK DK : Nat → Nat) s c e l t t0 rd tk f3 g3 b3 m3,
    Lone s c e g (ncopyUses x) l t t0 rd → acquiring e.group l = false →
    let sa := (pair64 rd x.sa).toNat
    let da := (pair64 rd x.da).toNat
    let ta := (pair64 rd x.ba).toNat
    let n := (rd (x.sa.toNat + 2)).toNat
    let w := widBytes x.wid
    let hst := x.dspc == .hst
    let pages := fun (hst : Bool) (k : AccKind) (lo : Nat) (K : Nat → Nat) => ∀ a m, lo ≤ a → a + m ≤ lo + n → 1 ≤ m →
      a = lo ∨ a % 4096 = 0 → a + m = lo + n ∨ (a + m) % 4096 = 0 → a % 4096 + m ≤ 4096 →
      ∃ f g b mt, formatReserved f g = false ∧
        translate s e.ctx e.group.die hst k a m = .ok (K (a / 4096) + a % 4096) f g b mt
    formatReserved f3 g3 = false → 1 ≤ n → n ≤ 2 ^ 24 → sa + n ≤ 2 ^ 48 → da + n ≤ 2 ^ 48 → ta + 16 ≤ 2 ^ 48 →
    sa % w = 0 → n % w = 0 → da % w = 0 → ta % 16 = 0 →
    pages false (if sealing then .sealedRead else .read) sa SK → pages hst .write da DK →
    translate s e.ctx e.group.die hst .write ta 16 = .ok tk f3 g3 b3 m3 →
    ∃ s' op cp, exec (.ncopy g x sealing) s = .next s' ∧ Besides (fun z => { z with ncopies := [] }) s s' ∧
      LaneBecomes s s' c l (goOn c.next t0) ∧ s'.ncopies = s.ncopies ++ [cp] ∧ cp.asid = e.ctx.asid ∧ cp.tl = tk ∧
      cp.len = n ∧ cp.sealing = sealing ∧ cp.number = none ∧ cp.finished = false ∧
      (cp.pieces.flatMap fun p => (List.range p.n).map fun i => (p.src + i, p.dst + i, p.va + i)) =
        (List.range n).map (fun i => (SK ((sa + i) / 4096) + (sa + i) % 4096, DK ((da + i) / 4096) + (da + i) % 4096, sa + i)) ∧
      (getGroup s' c.gid).map (·.ops) = some (e.group.ops ++ [op]) ∧ op.queued = true ∧ op.performed = false ∧
      op.parts = [.ncopy l cp.id]) ∧
  (∀ s gid e op rest l (x : NCopy), env s gid = some e → queueOf e.group = op :: rest →
    ncopyOp s x.id = some (gid, op.id) → op.flag = none → op.parts = [.ncopy l x.id] →
    s.ncopies.find? (·.id == x.id) = some x → x.number = none →
    s.poison = [] → s.upsets = [] → (∃ y ∈ e.group.threads, y.status ≠ .exited) → (e.group.ops.map (·.id)).Nodup →
    (∀ m, keyClass2 s m = false) → (∀ p ∈ x.pieces, p.dst + p.n ≤ x.tl ∨ x.tl + 16 ≤ p.dst) →
    x.pieces.Pairwise (fun p q => p.dst + p.n ≤ q.dst ∨ q.dst + q.n ≤ p.dst) →
    let w := memRead s.mem (x.tl + 8) 8
    let n := (w % 2 ^ 63 + 1) % 2 ^ 63
    let r := (takeNumber (x.pieces.foldl (touchPiece 8) s) x.asid x.tl).1
    ∃ s', exec (.ncopyAccept x.id) s = .next s' ∧ memRead s'.mem (x.tl + 8) 8 = n + w / 2 ^ 63 * 2 ^ 63 ∧
      (∀ p ∈ x.pieces, ∀ i < p.n, memGet s'.mem (p.dst + i) =
        if x.sealing then cipherByte r p.src i else memGet r.mem (p.src + i)) ∧
      (∀ m, ¬(x.tl + 8 ≤ m ∧ m < x.tl + 16) → memGet r.mem m = memGet s.mem m ∧
        ((∀ p ∈ x.pieces, ¬(p.dst ≤ m ∧ m < p.dst + p.n)) → memGet s'.mem m = memGet s.mem m)) ∧
      s'.ncopies.find? (·.id == x.id) = some { x with number := some n, failed := none } ∧
      (getGroup s' gid).map (·.ops) = some (e.group.ops.filter (·.id ≠ op.id))) ∧
  (∀ s (x : NCopy) k, s.ncopies = [x] → x.number = some k → x.finished = false → 0 < k → k < 2 ^ 63 →
    (∀ m, keyClass2 s m = false) →
    ∃ s', exec (.ncopyFinish x.id) s = .next s' ∧ memRead s'.mem x.tl 8 = k ∧ s'.ncopies = [] ∧
      (∀ m, ¬(x.tl ≤ m ∧ m < x.tl + 16) → memGet s'.mem m = memGet s.mem m) ∧
      memRead s'.mem (x.tl + 8) 8 = (if x.failed.isSome then memRead s.mem (x.tl + 8) 8 % 2 ^ 63 + 2 ^ 63
        else memRead s.mem (x.tl + 8) 8))

/-- Timelines are awaited and read; network copies are numbered, performed and finished.
Choices and readings of the model that it rests on: logs 2, 39. -/
def Obligations.TimelinesAndNetworkCopiesAdvanceInOrder : Prop :=
  Parts.TimelinesAreAwaitedAndRead ∧
  Parts.NetworkCopiesAreNumberedPerformedAndFinished

/-- R157, R178, R179, R183, R184: `acopy` checks both ranges and its barrier, reads its source and issues a transfer
operation; on an uncached host page it lands at once. When an operation lands, its bytes are written, lines of scratch that
it fills become full, and its bytes count on the barrier, which is to be tested; on an orphaned or invalidated barrier they
are discarded and %orphan rises. That the source is read as the copy leaves the queue is the choice of log 37. -/
def Obligations.PerLaneCopiesLandAndCountOnTheirBarrier : Prop :=
  (∀ (g : Guard) (x : CopyOp) (nt raw : Bool) s c e l t t0 rd sk dk mt1 mt2 tb1 tb2,
    Lone s c e g (acopyUses x) l t t0 rd →
    let n := widBytes x.wid
    let sa := accessAt x.sspc rd x.sa 0
    let da := accessAt x.dspc rd x.da 0
    let ba := (rd x.ba.toNat).toNat
    let bar := keyScr e.team.tid ba
    acquiring e.group l = false → 0 ≤ sa → sa + n ≤ spaceLimit s e x.sspc → 0 ≤ da → da + n ≤ spaceLimit s e x.dspc →
    ba + 16 ≤ e.grid.desc.scratch * 128 → sa % n = 0 → da % n = 0 → ba % 16 = 0 → queueOf e.group = [] →
    locate s e l x.sspc .read sa.toNat n = .ok sk 0 0 tb1 mt1 → locate s e l x.dspc .write da.toNat n = .ok dk 0 0 tb2 mt2 →
    (∀ u ∈ s.upsets, upsetIn [(sk, n)] u = false) →
    ((barRead s bar).v = true → mt1 < 2 → mt2 < 2 → ∃ s', exec (.acopy g x nt raw) s = .next s' ∧
      Besides (fun z => { z with transfers := [] }) s s' ∧ LaneBecomes s s' c l (goOn c.next t0) ∧
      s'.transfers = s.transfers ++ [⟨s.nextId, c.gid, e.team.tid, [⟨sk, dk, n, sa.toNat, 0, 0⟩],
        [(List.range n).map fun i => (memGet s.mem (sk + i), poisoned s (sk + i) 1)], x.dspc == .scr,
        some bar, n, false, none, 0⟩]) ∧
    ((barRead s bar).v = true → (barRead s bar).inv = false → 2 ≤ mt1 ∨ 2 ≤ mt2 → s.poison = [] → Fresh s dk →
      dk % n = 0 → dk + n ≤ bar ∨ bar + 16 ≤ dk → (∀ y ∈ s.transfers, y.id ≠ s.nextId) →
      ∃ s', exec (.acopy g x nt raw) s = .next s' ∧ s'.transfers = s.transfers ∧ bar ∈ s'.tests ∧
        LaneBecomes s s' c l (goOn c.next t0) ∧
        barRead s' bar = { barRead s bar with
          pbytes := (BitVec.ofNat 32 (barRead s bar).pbytes - BitVec.ofNat 32 n : Word).toNat } ∧
        ∀ m, ¬(bar ≤ m ∧ m < bar + 16) → memGet s'.mem m =
          if dk ≤ m ∧ m < dk + n then memGet s.mem (sk + (m - dk)) else memGet s.mem m) ∧
    ((barRead s bar).v = false → ∃ s', exec (.acopy g x nt raw) s = .next s' ∧
      Besides (fun z => { z with dies := [] }) s s' ∧ LaneBecomes s s' c l (faulted c 0x0E 0 t))) ∧
  (∀ s (x : Transfer) (p : Piece) (d : List (Byte × Bool)) bar, s.transfers.find? (·.id == x.id) = some x →
    x.req = none → x.pieces = [p] → x.data = [d] → d.length = p.n → (∀ y ∈ d, y.2 = false) →
    x.scr = true → x.bar = some bar → x.bytes = p.n → s.poison = [] → 0 < p.n → p.n < 2 ^ 32 →
    p.dst / 2 ^ 128 = 4 → (p.dst + p.n - 1) / 2 ^ 128 = 4 → p.dst + p.n ≤ bar ∨ bar + 16 ≤ p.dst →
    let b := barRead s bar
    let left := (BitVec.ofNat 32 b.pbytes - BitVec.ofNat 32 p.n : Word).toNat
    ∃ s', exec (.transferLanding x.id) s = .next s' ∧ s'.transfers = s.transfers.filter (·.id ≠ x.id) ∧
      (∀ m, ¬(bar ≤ m ∧ m < bar + 16) → memGet s'.mem m =
        if p.dst ≤ m ∧ m < p.dst + p.n then (d.getD (m - p.dst) (0, false)).1 else memGet s.mem m) ∧
      (∀ line, p.dst / 128 ≤ line → line ≤ (p.dst + p.n - 1) / 128 → line ∉ s'.empties) ∧
      (x.orphan = false → b.inv = false → barRead s' bar = { b with pbytes := left } ∧ bar ∈ s'.tests) ∧
      (x.orphan = true ∨ b.inv = true → barRead s' bar = b ∧ s'.tests = s.tests ∧
        ∀ tm, getTeam s x.tid = some tm → (getTeam s' x.tid).map (·.orphan) = some (min (2 ^ 32 - 1) (tm.orphan + 1))))

/-- R186 to R189: `kick` enters its records into the core's queue, and does not issue while it is full; the engine
accepts the oldest record: a malformed one finishes with the illegal-instruction class and still counts its bytes, a copy
between scratch ranges becomes one transfer; the status word is written with DONE before the last bytes count, and the
tile's state follows. That the lowest lane alone takes a `kick`'s stream elements is the choice of log 97. -/
def Obligations.BulkRequestsAreKickedAcceptedAndFinished : Prop :=
  (∀ (g : Guard) (a b : Reg) s c e l t t0 rd, Uniform s c e g [src false a, src false b] l t t0 rd →
    AllPerformed s e →
    let at_ := (rd a.toNat).toNat
    let n := (rd b.toNat).toNat
    let q := (getDie s e.group.die).kicks
    let used := (q.filter (·.core == e.group.core)).length + (savedKicks s e.group.die e.group.core).length
    (16 ≤ used → exec (.kick g a b) s = .next s) ∧
    (used < 16 → at_ % 64 = 0 → 1 ≤ n → n ≤ 256 →
      at_ + 64 * n ≤ e.grid.desc.scratch * 128 → e.group.die < s.dies.length →
      ∃ s', exec (.kick g a b) s = .next s' ∧ Besides (fun z => { z with dies := [] }) s s' ∧
        AllReceive s s' c g l t0 [] [] ∧
        (getDie s' e.group.die).kicks = q ++ [⟨s.nextId, e.group.core, e.team.tid, at_, n, 0⟩])) ∧
  (∀ s die core k rest e, coreKicks (getDie s die) core = k :: rest → bulkEnv s k.tid = some e →
    teamStopping s e.team = false → die < s.dies.length → e.team.tid = k.tid → savedKicks s die core = [] →
    ((coreKicks (getDie s die) core).map (·.id)).Nodup →
    let addr := k.addr + 64 * k.next
    let x := readRecord (memRead s.mem (keyScr k.tid addr) 64)
    let moved := fun (s' : State) => coreKicks (getDie s' die) core =
      if k.n ≤ k.next + 1 then rest else { k with next := k.next + 1 } :: rest
    x.bar = 2 ^ 32 - 1 →
    (x.rows = 0 ∨ x.rowLen = 0 ∨ x.bad = true → x.dfmt ≤ 6 → ∃ s' q, exec (.requestAccept die core) s = .next s' ∧
      moved s' ∧ s'.requests = s.requests ++ [q] ∧ s'.transfers = s.transfers ∧ s'.mem = s.mem ∧ q.tid = k.tid ∧
      q.addr = addr ∧ q.fail = some (0x01, 0) ∧ q.rows = 0 ∧ q.total = x.rows * x.rowLen * dfmtBytes x.dfmt) ∧
    (x.bad = false → x.rows = 1 → 1 ≤ x.rowLen → x.dfmt = 0 → x.sealing = false → x.tv = false → x.sspc = 1 → x.dspc = 1 →
      x.pln ≤ 8 → x.src + x.rowLen ≤ e.grid.desc.scratch * 128 → x.dst + x.rowLen ≤ e.grid.desc.scratch * 128 →
      x.src % 4096 + x.rowLen ≤ 4096 → x.dst % 4096 + x.rowLen ≤ 4096 →
      ∃ s' q y, exec (.requestAccept die core) s = .next s' ∧ moved s' ∧ s'.requests = s.requests ++ [q] ∧
        s'.mem = s.mem ∧ q.tid = k.tid ∧ q.addr = addr ∧ q.fail = none ∧ q.rows = 1 ∧ q.total = x.rowLen ∧
        s'.transfers = s.transfers ++ [y] ∧ y.req = some q.id ∧ y.bytes = x.rowLen ∧ y.scr = true ∧
        y.pieces = [⟨keyScr k.tid x.src, keyScr k.tid x.dst, x.rowLen, x.src, 0, 0⟩])) ∧
  (∀ s (q : Request), s.requests.find? (fun y => y.id == q.id && y.rows == 0) = some q → q.bar = none →
    let key := keyScr q.tid (q.addr + 56)
    let f := q.fail.getD (0, 0)
    f.1 < 2 ^ 8 → f.2 < 2 ^ 32 → ∃ s', exec (.requestStatusWrite q.id) s = .next s' ∧
      memRead s'.mem key 8 = 1 + 2 * q.fail.isSome.toNat + 4 * q.fmtFlag.toNat + 2 ^ 8 * f.1 + 2 ^ 32 * f.2 ∧
      (∀ m, ¬(key ≤ m ∧ m < key + 8) → memGet s'.mem m = memGet s.mem m) ∧
      s'.requests = s.requests.filter (·.id ≠ q.id) ∧ s'.transfers = s.transfers ∧
      ∀ k, getTeam s' k = (getTeam s k).map fun tm =>
        match q.tile with
        | some (n, fill) => if k = q.tid then { tm with tiles := tm.tiles.modify n fun y => { y with state := if fill then 2 else 0 } } else tm
        | none => tm)

/-- R223, R224: `enq` with a record at hand creates its teams in gangs of the kernel's size, from the grid's next
unused indexes, adds them to SPAWN and delivers true; where SPAWN or the die's queue (whose entries are the model's, log
48) would overflow it delivers false and creates nothing; a count that is zero or no multiple, or an ENTRY outside the kernel's thread code (whose end without a
stream behind ENTRY is the model's choice, log 47), is a spawn fault in every lane. That a record on a formatted page is
read as its bytes is the reading of log 39, that the lowest lane alone takes stream elements the choice of log 97. -/
def Parts.EnqueueCreatesTeamsOrDeliversFalse : Prop :=
  ∀ (g : Guard) (p : PredIx) (a b : Reg) s c e l t t0 rd key fmt geom tbl mt,
    Uniform s c e g [src true a, src false b] l t t0 rd → AllPerformed s e → getGrid s e.grid.key = some e.grid →
    let at_ := (pair64 rd a).toNat
    let n := (rd b.toNat).toNat
    let x := memRead s.mem key 128
    let entry := x % 2 ^ 48
    let inCode := e.grid.desc.entry ≤ entry ∧
      entry < codeEnd (touchFrame s e.group.die key) e.ctx e.group.die e.grid.desc
    at_ % 128 = 0 → at_ + 128 ≤ 2 ^ 48 → translate s e.ctx e.group.die false .read at_ 128 = .ok key fmt geom tbl mt →
    formatReserved fmt geom = false → Clean s key 128 → 1 ≤ e.grid.desc.gang → e.group.die < s.dies.length →
    (n ≠ 0 → n % e.grid.desc.gang = 0 → inCode → e.grid.spawn + n ≤ 0x00FFFFFF →
      (getDie s e.group.die).enq.length < 256 → ∃ s', exec (.enq g p a b) s = .next s' ∧
        AllReceive s s' c g l t0 [] [(p, true)] ∧ s'.mem = s.mem ∧
        (getGrid s' e.grid.key).map (fun r => (r.spawn, r.nextTeam, r.nextGang)) =
          some (e.grid.spawn + n, e.grid.nextTeam + n, e.grid.nextGang + n / e.grid.desc.gang) ∧
        (s'.teams.drop s.teams.length).map (fun y => (y.grid, y.index, y.entry)) =
          (List.range n).map (fun i => (e.grid.key, e.grid.nextTeam + i, entry)) ∧
        s'.teams.take s.teams.length = s.teams ∧ s'.gangs.length = s.gangs.length + n / e.grid.desc.gang ∧
        (getDie s' e.group.die).enq.length = (getDie s e.group.die).enq.length + 1) ∧
    (n ≠ 0 → n % e.grid.desc.gang = 0 → inCode →
      0x00FFFFFF < e.grid.spawn + n ∨ 256 ≤ (getDie s e.group.die).enq.length → ∃ s', exec (.enq g p a b) s = .next s' ∧
        AllReceive s s' c g l t0 [] [(p, false)] ∧ Besides (fun z => { z with dies := [] }) s s') ∧
    (¬(n ≠ 0 ∧ n % e.grid.desc.gang = 0 ∧ inCode) → ∃ s', exec (.enq g p a b) s = .next s' ∧
      Besides (fun z => { z with dies := [] }) s s' ∧ ∀ k ∈ c.lanes, getLane s' c.gid k =
        (getLane s c.gid k).map fun u => if guardOf g u then faulted c 0x17 0 u else goOn c.next u)

/-- R243, R327: `svc` writes its 64-byte message into the next slot of the context's service ring, raises the tail and
delivers true; with no ring or a full one it delivers false and writes nothing. That a ring on a formatted page is reached
as its bytes is the reading of log 39, and what the message holds of a mask beyond 32 lanes the choice of log 114. -/
def Parts.ServiceCallsPostOneMessage : Prop :=
  ∀ (g : Guard) (p : PredIx) (n : BitVec 16) s c e l t t0 rd, Uniform s c e g [] l t t0 rd → AllPerformed s e →
    (e.ctx.svcr = 0 → ∃ s', exec (.svc g p n) s = .next s' ∧ AllReceive s s' c g l t0 [] [(p, false)] ∧ s'.mem = s.mem) ∧
    ∀ key f1 g1 b1 m1, e.ctx.svcr ≠ 0 → e.ctx.svcr % 64 = 0 → e.ctx.svcr + 64 ≤ 2 ^ 48 → s.poison = [] → s.upsets = [] →
      formatReserved f1 g1 = false →
      translate s e.ctx e.group.die false .write e.ctx.svcr 64 = .ok key f1 g1 b1 m1 →
      let head := memRead s.mem key 4
      let tail := memRead s.mem (key + 8) 4
      let log2 := memRead s.mem (key + 16) 2
      let used := (BitVec.ofNat 32 tail - BitVec.ofNat 32 head : Word).toNat
      (2 ≤ log2 → log2 ≤ 16 → used = 2 ^ log2 → ∃ s', exec (.svc g p n) s = .next s' ∧
        AllReceive s s' c g l t0 [] [(p, false)] ∧ s'.mem = s.mem) ∧
      ∀ k f2 g2 b2 m2, 2 ≤ log2 → log2 ≤ 16 → used ≠ 2 ^ log2 → (∀ m, keyClass2 s m = false) →
        let slot := e.ctx.svcr + 64 + 64 * (tail % 2 ^ log2)
        slot + 64 ≤ 2 ^ 48 → formatReserved f2 g2 = false →
        translate (touchFrame s e.group.die key) e.ctx e.group.die false .write slot 64 = .ok k f2 g2 b2 m2 →
        k + 64 ≤ key ∨ key + 64 ≤ k → e.ctx.svcr + 64 + 64 * 2 ^ 16 ≤ 2 ^ 48 →
        ∃ s', exec (.svc g p n) s = .next s' ∧ AllReceive s s' c g l t0 [] [(p, true)] ∧
          memRead s'.mem (key + 8) 4 = (tail + 1) % 2 ^ 32 ∧ memRead s'.mem k 2 = n.toNat ∧
          memRead s'.mem (k + 2) 2 = e.group.index % 2 ^ 16 ∧ memRead s'.mem (k + 4) 4 = e.team.index % 2 ^ 32 ∧
          memRead s'.mem (k + 8) 4 = e.grid.id % 2 ^ 32 ∧
          memRead s'.mem (k + 12) 4 = laneMask (activeLanes s c g) % 2 ^ 32 ∧
          (∀ i < 12, memRead s'.mem (k + 16 + 4 * i) 4 = (rdUniform e.group i).toNat) ∧
          ∀ m, ¬(k ≤ m ∧ m < k + 64) → ¬(key + 8 ≤ m ∧ m < key + 12) → memGet s'.mem m = memGet s.mem m

/-- An enqueue creates its teams or delivers false, and a service call posts one message or delivers false.
Choices and readings of the model that it rests on: logs 39, 47, 48, 97, 114. -/
def Obligations.EnqueuesAndServiceCallsPostTheirWork : Prop :=
  Parts.EnqueueCreatesTeamsOrDeliversFalse ∧
  Parts.ServiceCallsPostOneMessage

/-- R225 to R227: `alloc` returns the 128-aligned address of a free run of its heap with true, or 0 with false exactly
where no such run exists or the size is 0; `free` gives a block back, does nothing for 0, and faults for anything else. -/
def Obligations.HeapsGiveAndTakeBackBlocks : Prop :=
  ∀ (g : Guard) (d a b : Reg) (p : PredIx) (n : BitVec 20) s c e l t t0 rd, getGrid s e.grid.key = some e.grid →
    let gives := fun (i : Instr) (glb : Bool) (us : List RegUse) (size : Nat) => Lone s c e g (dst glb d :: us) l t t0 rd →
      let kind := if glb then 0 else e.group.die + 1
      (∀ r ∈ heapRuns e.grid kind, r.1 % 128 = 0 ∧ 0 < r.1 ∧ r.2 < (if glb then 2 ^ 64 else 2 ^ 32)) →
        let m := (size + 127) / 128 * 128
        let fits := fun (x : Nat) => x % 128 = 0 ∧ (∃ r ∈ heapRuns e.grid kind, r.1 ≤ x ∧ x + m ≤ r.2) ∧
          ∀ y ∈ e.grid.blocks, y.1 = kind → x + m ≤ y.2.1 ∨ y.2.1 + y.2.2 ≤ x
        let put := fun (x : Nat) => if glb then toPair d (BitVec.ofNat 64 x) else [(d.toNat, BitVec.ofNat 32 x)]
        ∃ s' t1 x, exec i s = .next s' ∧ LaneBecomes s s' c l (goOn c.next t1) ∧
          Besides (fun z => { z with grids := [], fresh := 0 }) s s' ∧ Sets (put x) [(p, decide (x ≠ 0))] 0 t0 t1 ∧
          ((x = 0 ∧ (size = 0 ∨ ∀ y, ¬fits y) ∧ s'.grids = s.grids) ∨
           (x ≠ 0 ∧ size ≠ 0 ∧ fits x ∧ getGrid s' e.grid.key = some { e.grid with blocks := e.grid.blocks ++ [(kind, x, m)] }))
    let takes := fun (i : Instr) (glb : Bool) => Lone s c e g [src glb a] l t t0 rd → AllPerformed s e →
      let kind := if glb then 0 else e.group.die + 1
      let x := if glb then (pair64 rd a).toNat else (rd a.toNat).toNat
      (x = 0 → ∃ s', exec i s = .next s' ∧ OnlyThreads s s' ∧ LaneBecomes s s' c l (goOn c.next t0)) ∧
      (∀ y, x ≠ 0 → e.grid.blocks.find? (fun y => y.1 == kind && y.2.1 == x) = some y → ∃ s', exec i s = .next s' ∧
        Besides (fun z => { z with grids := [] }) s s' ∧ LaneBecomes s s' c l (goOn c.next t0) ∧
        getGrid s' e.grid.key = some { e.grid with blocks := e.grid.blocks.erase y }) ∧
      (x ≠ 0 → (∀ y ∈ e.grid.blocks, ¬(y.1 = kind ∧ y.2.1 = x)) → ∃ s', exec i s = .next s' ∧ OnlyThreads s s' ∧
        LaneBecomes s s' c l (faulted c 0x16 0 t))
    gives (.allocGlbR g d p b) true [src false b] (rd b.toNat).toNat ∧ gives (.allocGlbI g d p n) true [] n.toNat ∧
    gives (.allocCmnR g d p b) false [src false b] (rd b.toNat).toNat ∧ gives (.allocCmnI g d p n) false [] n.toNat ∧
    takes (.freeGlb g a) true ∧ takes (.freeCmn g a) false

/-- R228, R229: `migr` in a kernel that may move: with no die to go to it delivers false, at home true, and where the
home die has a free pontoon slot and every flag is clear it reserves one and the group ships, to resume there after the
word with true; without a free slot `migr.try` delivers false and `migr` waits, to be tried again; while a flag is busy it
waits. The target is the home where the function may use it, else the nearest die that it may use, the lower of two; the
core is the least loaded of the function's with a free slot, the lower of two. -/
def Parts.MigrationMovesTheGroupToTheHomeDie : Prop :=
  (∀ (f : VFunc) (home : Nat),
    let A := fun (d : Nat) => d < 8 ∧ f.pmask.getLsbD d = true ∧ funcQuads f d ≠ []
    ((∀ d, ¬A d) → migrTarget f home = none) ∧ (A home → migrTarget f home = some home) ∧
    (¬A home → ∀ h, migrTarget f home = some h ↔ A h ∧ ∀ d, A d → d ≠ h →
      hops h home < hops d home ∨ (hops h home = hops d home ∧ h < d))) ∧
  (∀ s f die w,
    (pontoonCore s f die w = none ↔ ∀ c ∈ funcCores s f die, freePontoon s die c w = none) ∧
    ∀ c n, pontoonCore s f die w = some (c, n) → c ∈ funcCores s f die ∧ freePontoon s die c w = some n ∧
      ∀ d ∈ funcCores s f die, d ≠ c → (freePontoon s die d w).isSome = true →
        coreLoad s die c < coreLoad s die d ∨ (coreLoad s die c = coreLoad s die d ∧ c < d)) ∧
  (∀ (g : Guard) (try_ : Bool) (p : PredIx) (a : Reg) s c e l t t0 rd f key fmt geom tbl mt,
    Lone s c e g [src true a] l t t0 rd → firstWord c = true → migrKernel e.grid.desc = true → boundStreams t = [] →
    othersMeet e.group c.lanes = true → getFunc s e.ctx.vf = some f → AllPerformed s e →
    formatReserved fmt geom = false → let va := (pair64 rd a).toNat
    va < 2 ^ 48 → translate s e.ctx e.group.die false .read va 1 = .ok key fmt geom tbl mt →
    let target := migrTarget f (byteHome s e.ctx f e.group.die va (.ok key fmt geom tbl mt))
    let answers := fun (v : Bool) => ∃ s' t1, exec (.migr g try_ p a) s = .next s' ∧ OnlyThreads s s' ∧
      Sets [] [(p, v)] 0 t t1 ∧ LaneBecomes s s' c l (goOn c.next t1)
    (target = none → answers false) ∧ (target = some e.group.die → answers true) ∧
    ∀ h, target = some h → h ≠ e.group.die →
      (pontoonCore s f h e.group.width = none → try_ = true → answers false) ∧
      (pontoonCore s f h e.group.width = none → try_ = false → ∃ s', exec (.migr g try_ p a) s = .next s' ∧ OnlyThreads s s' ∧
        LaneBecomes s s' c l { t with stall := some (.pontoon h) }) ∧
      (pontoonCore s f h e.group.width ≠ none → (∃ n < 12, flagCount e.group n ≠ 0) →
        ∃ s', exec (.migr g try_ p a) s = .next s' ∧ OnlyThreads s s' ∧
          LaneBecomes s s' c l { t with stall := some .migrFlags }) ∧
      (∀ core slot, pontoonCore s f h e.group.width = some (core, slot) → (∀ n < 12, flagCount e.group n = 0) →
        ∃ s' t1, exec (.migr g try_ p a) s = .next s' ∧ getLane s' c.gid l = some { t1 with stall := some .ship } ∧
          Sets [] [(p, true)] 0 t t1 ∧ (getGroup s' c.gid).map (·.ship) = some (some (h, core, slot)) ∧ s'.mem = s.mem)) ∧
  (∀ s gid e die core slot, env s gid = some e → e.group.ship = some (die, core, slot) →
    e.group.stack = [] → (∃ t ∈ e.group.threads, t.status ≠ .exited) → (e.group.threads.map (·.lane)).Nodup →
    (∀ t ∈ e.group.threads, t.stall ≠ some .flags) → e.grid.csize = 0 →
    ∃ s', exec (.migrationResume gid) s = .next s' ∧ s'.mem = s.mem ∧
      (∀ x, getGroup s' gid = some x → x.die = die ∧ x.core = core ∧ x.slot = slot ∧ x.ship = none) ∧
      (getGroup s' gid).isSome = true ∧
      (∀ t ∈ e.group.threads, getLane s' gid t.lane =
        some (if t.stall = some .ship then goOn (t.pc + 8) t else t)) ∧
      (getCtx s' e.ctx.asid).map (fun x => tget 0 x.counts 5) = some (tget 0 e.ctx.counts 5 + 1)) ∧
  (∀ s die, (s.groups.map (·.gid)).Nodup → (∀ x ∈ s.groups, (x.threads.map (·.lane)).Nodup) →
    ∃ s', exec (.migrPontoonRetry die) s = .next s' ∧ s' = { s with groups := s'.groups } ∧
    ∀ gid l t, getLane s gid l = some t → getLane s' gid l = some (
      if t.stall = some (.pontoon die) ∧
          ((env s gid).any fun e => (getFunc s e.ctx.vf).any fun f => (pontoonCore s f die e.group.width).isSome) = true then { t with stall := none } else t))

/-- R230, R231: `contend` registers the lane, with bits 47 to 0 of its key, on the regatta lane of its contest and
waits for a heat. -/
def Parts.ContendersRegisterAndWaitForAHeat : Prop :=
  ∀ (g : Guard) (sync : Bool) (d a : Reg) (p : PredIx) (cid : Byte) s c e l t t0 rd,
    Lone s c e g [dst true d, src true a] l t t0 rd → firstWord c = true → (sync = true → AllPerformed s e) →
    cid.toNat % 16 < s.rlanes.length →
    ∃ s' x, exec (.contend g sync d p a cid) s = .next s' ∧ Besides (fun z => { z with rlanes := [] }) s s' ∧
      LaneBecomes s s' c l { t0 with stall := some .heat, spBack := some t.sp } ∧
      x.who = .thread c.gid l sync d p ∧ x.ident = e.ctx.vf * 16 + cid.toNat / 16 ∧ x.cid = cid.toNat ∧
      x.key = (pair64 rd a).toNat % 2 ^ 48 ∧ x.die = e.group.die ∧ x.core = e.group.core ∧ x.slot = e.group.slot ∧
      x.lane = e.group.base + l ∧
      ∀ k, s'.rlanes[k]? = (s.rlanes[k]?).map fun r =>
        if k = cid.toNat % 16 then { r with waiting := r.waiting ++ [x] } else r

/-- Migration moves a group to the home die; contenders register and wait for a heat -/
def Obligations.MigrationMovesGroupsAndContendersWaitForAHeat : Prop :=
  Parts.MigrationMovesTheGroupToTheHomeDie ∧
  Parts.ContendersRegisterAndWaitForAHeat

/-! ## The matrix sequencer -/

/-- R198, R200, R204, R205, R211, R212, R216, R219: the commands that act on the sequencer alone: barriers in both
directions, loops, marks, moduli, drain state and bindings, with the loop fault, the arithmetic fault of an invalid
modulus, the alignment fault of a binding, and the encoding fault of a code that Table 5.7 leaves unassigned. The terms are
well-formed: `msetq` names 1 to 64 columns. -/
def Obligations.StreamControlFollowsLoopsBarriersAndBindings : Prop :=
  ∀ s e next, Commands s e next → ∀ (n tm : BitVec 4) (count tmask addr : BitVec 16) (c0 : BitVec 6) (cn : BitVec 7)
      (q : DWord) (rm : RMode) (sat : Bool) (ud : BitVec 3),
    let seq := e.team.seq
    let took := tget 0 seq.mbTook n.toNat
    SeqCompletes .mnop s e next id ∧ SeqCompletes .mfence s e next id ∧
    SeqCompletes (.pmark tmask tm) s e next (fun x => { x with mark := some (tmask, tm) }) ∧
    SeqCompletes (.mfmt rm sat) s e next (fun x => { x with fmRm := rm, fmSat := sat }) ∧
    SeqCompletes (.mbsig n) s e next (fun x => { x with mbSig := tput 0 x.mbSig n.toNat (tget 0 x.mbSig n.toNat + 1) }) ∧
    ((∀ g ∈ s.groups, g.tid = e.team.tid → g.retired = true ∨ took < tget 0 g.mbArr n.toNat) →
      SeqCompletes (.mbwait n) s e next (fun x => { x with mbTook := tput 0 x.mbTook n.toNat (took + 1) })) ∧
    ((∃ g ∈ s.groups, g.tid = e.team.tid ∧ g.retired = false ∧ tget 0 g.mbArr n.toNat ≤ took) →
      exec (.mbwait n) s = .next s) ∧
    (count ≠ 0 → seq.loops.length < 4 →
      SeqCompletes (.mloop count) s e next (fun x => { x with loops := ⟨next, count.toNat, 0⟩ :: x.loops })) ∧
    (count = 0 ∨ 4 ≤ seq.loops.length → SeqFaults (.mloop count) s e .loop) ∧
    (seq.loops = [] → SeqCompletes .mend s e next (fun x => { x with status := .ended })) ∧
    (∀ l rest, seq.loops = l :: rest →
      (1 < l.count → SeqCompletes .mend s e l.body (fun x => { x with loops := ⟨l.body, l.count - 1, l.index + 1⟩ :: rest })) ∧
      (l.count ≤ 1 → SeqCompletes .mend s e next (fun x => { x with loops := rest }))) ∧
    ((Instr.msetq c0 cn q).wf = true → Modulus q → ∃ qt, (∀ j, tget 0 qt j = if c0.toNat ≤ j ∧ j < c0.toNat + cn.toNat then q.toNat else tget 0 seq.qt j) ∧
      SeqCompletes (.msetq c0 cn q) s e next (fun x => { x with qt := qt })) ∧
    ((Instr.msetq c0 cn q).wf = true → ¬Modulus q → SeqFaults (.msetq c0 cn q) s e .arithmetic) ∧
    (addr.toNat % 2 = 0 → SeqCompletes (.mldu ud addr) s e next
      (fun x => { x with ud := tput (32 * ud.toNat) x.ud ud.toNat (16 * addr.toNat) })) ∧
    (addr.toNat % 2 = 1 → SeqFaults (.mldu ud addr) s e .scratchBound) ∧
    (∀ mop, (Instr.unassignedMop mop).wf = true → SeqFaults (.unassignedMop mop) s e .encoding)

/-- R207, R212: tiles are zeroed, read from and written to 64 rows of scratch, copied, transposed and converted, and
buffers loaded, each as its rule says; a tile with no kind is a tile-kind fault. The terms are well-formed: no pitch is 0.
That `mst` of an f32 tile as .f32 stores the codes as they are, NaN payloads kept, is the reading of log 44. -/
def Obligations.TilesAndBuffersAreLoadedStoredAndConverted : Prop :=
  ∀ s e next, Commands s e next → s.empties = [] → s.poison = [] → s.upsets = [] → e.team.tid < 2 ^ 64 →
    ∀ (kind : MKind) (mt src : BitVec 4) (x : MRange) (y : MldbOp) (ec : ECode) (el : List Nat),
    let at_ := fun (a i pitch n j : Nat) => memRead s.mem (keyScr e.team.tid (a * 16 + i * (pitch * 16) + n * j)) n
    let n := if kind = .res then 8 else 4
    let q := e.team.seq
    TileBecomes (.mzero kind mt) s e next mt kind (fun _ _ => 0) ∧
    ((Instr.mlda kind mt x).wf = true → RowsAtHand e x (64 * n) →
      TileBecomes (.mlda kind mt x) s e next mt kind fun i j => at_ x.addr.toNat i x.pitch.toNat n j) ∧
    (HoldsTile e src kind el →
      TileBecomes (.mcopy mt src) s e next mt kind (fun i j => el.getD (64 * i + j) 0) ∧
      TileBecomes (.mtrn mt src) s e next mt kind (fun i j => el.getD (64 * j + i) 0)) ∧
    (HoldsTile e mt .f32 el → TileBecomes (.mcvt true mt) s e next mt .i32 fun i j =>
      (BitVec.ofInt 32 (cvtToInt .i32 ⟨q.fmRm, false, true⟩ (fDecode .f32 (el.getD (64 * i + j) 0))).1).toNat) ∧
    (HoldsTile e mt .i32 el → (∀ v ∈ el, v < 2 ^ 32) → TileBecomes (.mcvt false mt) s e next mt .f32 fun i j =>
      (fRound .f32 q.fmRm false (fOfInt (BitVec.ofNat 32 (el.getD (64 * i + j) 0)).toInt)).code) ∧
    (HoldsTile e mt .res el → ∀ b, SeqFaults (.mcvt b mt) s e .format) ∧
    ((tget noTile q.tiles src.toNat).kind = none → SeqFaults (.mcopy mt src) s e .tileKind) ∧
    (∀ c, HoldsTile e mt c el → (∀ v ∈ el, v < 2 ^ (if c = .res then 64 else 32)) →
      let w := match ec with | .f32 | .i32 => 4 | .f16 | .bf16 => 2 | .n64 => 8 | _ => 1
      let drained := fun (v : Nat) => match c, ec with
        | .i32, .i8 => (BitVec.ofInt 8 (if q.fmSat then max (-128) (min 127 (BitVec.ofNat 32 v).toInt) else v)).toNat
        | .f32, .e4m3 => (fRound .e4m3 q.fmRm q.fmSat (fDecode .f32 v)).code
        | .f32, .e5m2 => (fRound .e5m2 q.fmRm q.fmSat (fDecode .f32 v)).code
        | .f32, .f16 => (fRound .f16 q.fmRm q.fmSat (fDecode .f32 v)).code
        | .f32, .bf16 => (fRound .bf16 q.fmRm q.fmSat (fDecode .f32 v)).code
        | _, _ => v
      let may := (c = .f32 ∧ (ec = .f32 ∨ ec = .e4m3 ∨ ec = .e5m2 ∨ ec = .f16 ∨ ec = .bf16)) ∨
        (c = .i32 ∧ (ec = .i32 ∨ ec = .i8)) ∨ (c = .res ∧ ec = .n64)
      ((Instr.mst ec mt x).wf = true → ¬may → SeqFaults (.mst ec mt x) s e .format) ∧
      ((Instr.mst ec mt x).wf = true → may → RowsAtHand e x (64 * w) → 64 * w ≤ x.pitch.toNat * 16 → ∃ s', exec (.mst ec mt x) s = .next s' ∧
        s' = { s with teams := s'.teams, contexts := s'.contexts, mem := s'.mem, written := s'.written } ∧
        (∀ k, getTeam s' k = (getTeam s k).map fun t =>
          if k = e.team.tid then { t with seq := { t.seq with pos := next, split := none, words := none } } else t) ∧
        (∀ i < 64, ∀ j < 64, memRead s'.mem (keyScr e.team.tid (x.addr.toNat * 16 + i * (x.pitch.toNat * 16) + w * j)) w =
          drained (el.getD (64 * i + j) 0)) ∧
        ∀ m, (∀ i < 64, ¬(keyScr e.team.tid (x.addr.toNat * 16 + i * (x.pitch.toNat * 16)) ≤ m ∧
            m < keyScr e.team.tid (x.addr.toNat * 16 + i * (x.pitch.toNat * 16)) + 64 * w)) →
          memGet s'.mem m = memGet s.mem m)) ∧
    (let p := match y.ec with
        | .bp2 => 2 | .bp3 => 3 | .bp4 => 4 | .bp5 => 5 | .bp6 => 6 | .bp7 => 7 | .bp8 => 8 | _ => 0
      let i := if y.ix then ((q.loops.head?.map (·.index)).getD 0) else 0
      let base := y.addr.toNat * 16 + i * (if p = 0 then 128 else 128 * p) + 128 * y.pl.toNat
      (Instr.mldb y).wf = true → (y.ix = true → q.loops ≠ []) →
      (y.ec = .f32 ∨ y.ec = .i32 ∨ (p = 0 ∧ y.pl ≠ 0) ∨ (p ≠ 0 ∧ p ≤ y.pl.toNat) → SeqFaults (.mldb y) s e .format) ∧
      (y.ec ≠ .f32 → y.ec ≠ .i32 → (p = 0 → y.pl = 0) → (p ≠ 0 → y.pl.toNat < p) → y.tv = false →
        (∀ c < 64, base + c * (y.pitch.toNat * 16) + 128 ≤ e.grid.desc.scratch * 128) →
        ∃ cols : List (List Byte), cols.length = 64 ∧ (∀ c < 64, ∀ k < 128, (cols.getD c []).getD k 0 =
            memGet s.mem (keyScr e.team.tid (base + c * (y.pitch.toNat * 16) + k))) ∧
          SeqCompletes (.mldb y) s e next fun z =>
            { z with bufs := tput noBuf z.bufs y.bb.toNat ⟨some y.ec, y.pl.toNat, cols⟩ }))

/-- R211, R213: the element-wise commands act on every element: sums and products, rounded to nearest for f32, modulo
2^32 for i32, and reduced by the modulus of the column for res, where every operand is below it and an arithmetic fault
follows otherwise; clamps keep a NaN; `mamax` writes the greatest magnitude to scratch. That `mclamp` takes its bounds as
`fmin` and `fmax` do, −0 below +0, is the reading of log 44. -/
def Obligations.ElementwiseCommandsActOnEveryElement : Prop :=
  ∀ s e next, Commands s e next → s.empties = [] → s.poison = [] → s.upsets = [] → e.team.tid < 2 ^ 64 →
    ∀ (mt src : BitVec 4) (v : DWord) (lo hi : Word) (addr : BitVec 16) (kind : MKind) (el fl : List Nat),
    let Q := fun j => tget 0 e.team.seq.qt j
    let n := if kind = .res then 8 else 4
    let a := 16 * addr.toNat
    let A := fun i j => el.getD (64 * i + j) 0
    let sum := fun j (x y : Nat) => match kind with
      | .f32 => (faddCode .f32 fPlain x y).code
      | .i32 => (x + y) % 2 ^ 32
      | .res => (x + y) % Q j
    let prod := fun j (x y : Nat) => match kind with
      | .f32 => (fmulCode .f32 fPlain x y).code
      | .i32 => x * y % 2 ^ 32
      | .res => x * y % Q j
    let valid := fun (B : Nat → Nat → Nat) => kind = .res → ∀ j < 64, Q j % 2 = 1 ∧ 3 ≤ Q j ∧ Q j < 2 ^ 62 ∧
      ∀ i < 64, A i j < Q j ∧ B i j < Q j
    HoldsTile e mt kind el →
    (HoldsTile e src kind fl →
      let B := fun i j => fl.getD (64 * i + j) 0
      (valid B → TileBecomes (.mtadd mt src) s e next mt kind (fun i j => sum j (A i j) (B i j)) ∧
        TileBecomes (.mhad mt src) s e next mt kind (fun i j => prod j (A i j) (B i j))) ∧
      (¬valid B → SeqFaults (.mtadd mt src) s e .arithmetic ∧ SeqFaults (.mhad mt src) s e .arithmetic)) ∧
    (∀ k, k ≠ kind → HoldsTile e src k fl → SeqFaults (.mtadd mt src) s e .tileKind) ∧
    (let c := if kind = .res then v.toNat else v.toNat % 2 ^ 32
     valid (fun _ _ => c) → TileBecomes (.mscl mt v) s e next mt kind (fun i j => prod j (A i j) c)) ∧
    (let B := fun (_ j : Nat) => memRead s.mem (keyScr e.team.tid (a + n * j)) n
     a + 64 * n ≤ e.grid.desc.scratch * 128 → valid B →
        TileBecomes (.mbias mt addr) s e next mt kind (fun i j => sum j (A i j) (B i j))) ∧
    (kind ≠ .f32 → SeqFaults (.mclamp mt lo hi) s e .tileKind ∧ SeqFaults (.mamax mt addr) s e .tileKind) ∧
    (kind = .f32 →
      let f := fun (w : Nat) => fDecode .f32 w
      (fIsNan (f lo.toNat) = true ∨ fIsNan (f hi.toNat) = true ∨ relF (f lo.toNat) (f hi.toNat) = .gt →
        SeqFaults (.mclamp mt lo hi) s e .format) ∧
      (fIsNan (f lo.toNat) = false → fIsNan (f hi.toNat) = false → relF (f lo.toNat) (f hi.toNat) ≠ .gt →
        TileBecomes (.mclamp mt lo hi) s e next mt .f32 fun i j =>
          if fIsNan (f (A i j)) then 0x7FC00000
          else (fminmaxCode .f32 false true lo.toNat (fminmaxCode .f32 false false hi.toNat (A i j)).code).code) ∧
      (a + 4 ≤ e.grid.desc.scratch * 128 → (∀ w ∈ el, w < 2 ^ 32) → ∃ s', exec (.mamax mt addr) s = .next s' ∧
        s' = { s with teams := s'.teams, contexts := s'.contexts, mem := s'.mem, written := s'.written } ∧
        (∀ k, getTeam s' k = (getTeam s k).map fun t =>
          if k = e.team.tid then { t with seq := { t.seq with pos := next, split := none, words := none } } else t) ∧
        (let r := memRead s'.mem (keyScr e.team.tid a) 4
         if ∃ w ∈ el, fIsNan (f w) = true then r = 0x7FC00000
          else (∀ w ∈ el, w % 2 ^ 31 ≤ r) ∧ ∃ w ∈ el, w % 2 ^ 31 = r) ∧
        ∀ m, ¬(keyScr e.team.tid a ≤ m ∧ m < keyScr e.team.tid a + 4) → memGet s'.mem m = memGet s.mem m))

/-- R57, R58, R209 to R211, R218: the multiplying commands fold their k-blocks, one granule at a time, into the
accumulator: FP32 products rounded once and added in the fixed tree, integer sums modulo 2^32, residues reduced by the
modulus of the column after exact sums. -/
def Obligations.MultiplyingCommandsFoldTheirBlocksInOrder : Prop :=
  ∀ s e next (x : MmaOp) (d : ADesc) (w : Nat) (bc : ECode) (b : BBuf) (k0 lo : Nat) (el : List Nat),
    let A := fun i k => aFloat s e d (x.p0.toNat + i) (k0 + k)
    let I := fun i k => aInt s e d (x.p0.toNat + i) (k0 + k)
    let K := descK d - k0
    let v := fun i j => el.getD (64 * i + j) 0
    let col := fun j => b.cols.getD j []
    (Multiplies s e next x d w bc b (bufDepth bc) k0 lo →
      (∀ af, d.af = af → af ≠ .i8 → ((af = .e4m3 ∨ af = .e5m2) ∧ (bc = .e4m3 ∨ bc = .e5m2)) ∨
          (af = bc ∧ (af = .e2m1x ∨ af = .f16 ∨ af = .bf16)) → HoldsTile e x.mt .f32 el → lo < bufDepth bc / 8 →
        FoldsGranule (.mma x af bc) s e next x w (bufDepth bc) lo .f32 fun n i j =>
          dotFloat K (A i) (colFloat bc (col j)) lo n (v i j)) ∧
      (d.af = .i8 → bc = .i8 → HoldsTile e x.mt .i32 el → lo < 16 →
        FoldsGranule (.mma x .i8 .i8) s e next x w 128 lo .i32 fun n i j =>
          (BitVec.ofInt 32 (v i j + dotInt (I i) (fun k => ((col j).getD k 0).toInt) lo n)).toNat)) ∧
    (∀ mid, Multiplies s e next x d w bc b 1024 k0 lo → ∀ n, ecPlanes bc = n → n ≠ 0 → b.pl < n → (mid = true → b.pl + 1 < n) →
      lo < 128 →
      let digit := fun j k => (if ((col j).getD (k / 8) 0).getLsbD (k % 8) then
          (if b.pl = 0 then -2 ^ (n - 1) else 2 ^ (n - 1 - b.pl) : Int) else 0) + (if mid then 2 ^ (n - 2 - b.pl) else 0)
      (d.af = .i8 → HoldsTile e x.mt .i32 el → FoldsGranule (.mpma x .i8 mid) s e next x w 1024 lo .i32 fun n i j =>
        (BitVec.ofInt 32 (v i j + dotInt (I i) (digit j) lo n)).toNat) ∧
      (∀ af, af = .e4m3 ∨ af = .e5m2 → d.af = af → HoldsTile e x.mt .f32 el →
        FoldsGranule (.mpma x af mid) s e next x w 1024 lo .f32 fun n i j =>
          dotFloat K (A i) (fun k => fOfInt (digit j k)) lo n (v i j))) ∧
    (Multiplies s e next x d w .n64 b 16 k0 lo → d.af = .n64 → HoldsTile e x.mt .res el → lo < 2 →
      let Q := fun j => tget 0 e.team.seq.qt j
      let B := fun j k => (colInt .n64 (col j) k : Int)
      (∀ j < 64, Q j % 2 = 1 ∧ 3 ≤ Q j ∧ Q j < 2 ^ 62 ∧ (∀ k < 16, B j k < Q j) ∧
        ∀ i < 64, v i j < Q j ∧ ∀ k < 16, I i k < Q j) →
      FoldsGranule (.mmodma x) s e next x w 16 lo .res fun n i j => ((v i j + dotInt (I i) (B j) lo n) % Q j).toNat) ∧
    (lo = 0 → Multiplies s e next x d w bc b (bufDepth bc) k0 lo → ∀ af, HoldsTile e x.mt (if af = .i8 then .i32 else .f32) el →
      d.af ≠ af → SeqFaults (.mma x af bc) s e .format)

/-- R214, R215: a transform of 2^j residues goes through its j stages of butterflies in order, in place in scratch, and
`mintt` multiplies by the inverse of N at the end; only the data's bytes change. The terms are well-formed: N is 2^4 to
2^16. -/
def Obligations.TransformsGoThroughTheirStagesOfButterflies : Prop :=
  ∀ s e next, Commands s e next → s.empties = [] → s.poison = [] → s.upsets = [] → e.team.tid < 2 ^ 64 → ∀ x : NttOp, x.gran = 0 →
    e.team.seq.split = none → (Instr.mntt x).wf = true →
    let j := x.j.toNat
    let N := 2 ^ j
    let a := 16 * x.addr.toNat
    let t := 16 * x.tab.toNat
    let rd := fun (m : Nat) => memRead s.mem (keyScr e.team.tid m) 8
    let q := rd t
    let at_ := fun (s' : State) (k : Nat) => memRead s'.mem (keyScr e.team.tid (a + 8 * k)) 8
    let does := fun (i : Instr) (p : State → Prop) => ∃ s', exec i s = .next s' ∧ p s' ∧
      s' = { s with teams := s'.teams, contexts := s'.contexts, mem := s'.mem, written := s'.written } ∧
      (∀ k, getTeam s' k = (getTeam s k).map fun u =>
        if k = e.team.tid then { u with seq := { u.seq with pos := next, split := none, words := none } } else u) ∧
      ∀ m, ¬(keyScr e.team.tid a ≤ m ∧ m < keyScr e.team.tid a + 8 * N) → memGet s'.mem m = memGet s.mem m
    a + 8 * N ≤ e.grid.desc.scratch * 128 → t + 32 + 16 * N ≤ e.grid.desc.scratch * 128 →
    (rd (t + 8) ≠ j → a + 8 * N ≤ t ∨ t + 32 + 16 * N ≤ a →
      SeqFaults (.mntt x) s e .table ∧ SeqFaults (.mintt x) s e .table) ∧
    (a + 8 * N ≤ t ∨ t + 32 + 16 * N ≤ a → rd (t + 8) = j → q % 2 = 1 → 3 ≤ q → q < 2 ^ 62 → rd (t + 16) < q →
      (∀ i < 2 * N, rd (t + 32 + 8 * i) < q) → (∀ k < N, rd (a + 8 * k) < q) →
      (does (.mntt x) fun s' => ∃ X : Nat → Nat → Nat, (∀ k < N, X 0 k = rd (a + 8 * k)) ∧ (∀ k < N, at_ s' k = X j k) ∧
        ∀ st < j, ∀ i < 2 ^ st, ∀ r < 2 ^ (j - 1 - st),
          let h := 2 ^ (j - 1 - st)
          let k := 2 * i * h + r
          let z := X st (k + h) * rd (t + 32 + 8 * (2 ^ st + i)) % q
          X (st + 1) k = (X st k + z) % q ∧ (X (st + 1) (k + h) : Int) = ((X st k : Int) - z) % q) ∧
      (does (.mintt x) fun s' => ∃ X : Nat → Nat → Nat, (∀ k < N, X 0 k = rd (a + 8 * k)) ∧
        (∀ k < N, at_ s' k = X j k * rd (t + 16) % q) ∧
        ∀ st < j, ∀ i < 2 ^ (j - 1 - st), ∀ r < 2 ^ st,
          let k := 2 * i * 2 ^ st + r
          X (st + 1) k = (X st k + X st (k + 2 ^ st)) % q ∧ (X (st + 1) (k + 2 ^ st) : Int) =
            ((X st k : Int) - X st (k + 2 ^ st)) * rd (t + 32 + 8 * (N + 2 ^ (j - 1 - st) + i)) % q))

/-! ## Service cores -/

/-- R94, R244 to R247: on a service core `xspawn` makes all its teams at once, with the argument words, and raises the
join counter by one for each of their groups; `xdisp` starts a task on the lowest idle core and raises its counter, and
reports 1 where none is idle (rs1 is the address of the task's first instruction, the target the lowest idle core of
the context: the model's readings, logs 104, 60); `xjoin` and `xwaitc` wait until their counter meets its condition; the end of a task lowers
its counter; statuses 2 and 3 come with no other effect; and any other word of custom-0, or a core without Xvexrus, takes
the illegal-instruction exception, RISC-V's own (log 8). -/
def Obligations.ServiceCoresSpawnDispatchJoinAndWait : Prop :=
  ∀ (n : BitVec 4) (rs2 rs1 rd : BitVec 5) (w32 : Word) s c,
    let r := getRv s c
    let a1 := (rvReg r rs1).toNat
    let a2 := (rvReg r rs2).toNat
    (∀ x s1 s2 s3 s4 w d key g, Serves s c x → a1 % 64 = 0 → a2 % 8 = 0 → seatRead s x false a1 8 = (s1, some w) →
      fetchDesc s1 x (bitsN w 63 0) = (s2, .ok d) → seatXlat s2 x false .write a2 8 = (s3, some key) →
      spawnReserved w = false →
      let T := bitsN w 95 64
      let priv := bitsN w 127 96
      let cheap := bitsN w 159 128
      let gheap := bitsN w 255 192
      let y := (getCtx s3 x.asid).getD x
      1 ≤ T → T ≤ 65535 → T % d.gang = 0 → priv % 8 = 0 → priv ≤ 2 ^ 20 → cheap % 128 = 0 → gheap % 128 = 0 →
      spawnWaiting s3 y.vf < 1 + Config.spawnQueue →
      newGrid s3 y.vf y.asid d (.join key) (bitsN w 161 160) priv gheap cheap T = some (s4, g) →
      (∀ z ∈ s3.grids, z.key ≠ g) → Fresh s4 key →
      ∃ s', exec (.xspawn n rs2 rs1 rd) s = .next s' ∧ CoreEnds s s' c rd 0 ∧ OtherCores s s' c ∧
        Puts s4 s' key 8 ((memRead s4.mem key 8 + T * d.team) % 2 ^ 64) ∧
        (getGrid s' g).map (fun z => (z.spawn, z.nextTeam, z.nextGang)) = some (T, T, T / d.gang) ∧
        s'.teams.take s.teams.length = s.teams ∧
        (s'.teams.drop s.teams.length).map (fun z => (z.grid, z.index, z.entry, z.args)) =
          (List.range T).map fun i => (g, i, d.entry, (List.range n.toNat).flatMap fun j =>
            [(tget 0 r.x (10 + j)).setWidth 32, (tget 0 r.x (10 + j)).extractLsb' 32 32])) ∧
    (∀ x s1 s2 k1 key, Serves s c x → a1 % 2 = 0 → a2 % 8 = 0 → seatXlat s x false .fetch a1 2 = (s1, some k1) →
      seatXlat s1 x false .write a2 8 = (s2, some key) →
      let idle := fun (i : Nat) => i < 32 ∧ i ≠ c ∧ (getRv s i).asid = x.asid ∧ (getRv s i).busy = false ∧ (getRv s i).halted = false
      (∀ i, idle i → (∀ j < i, ¬idle j) → Fresh s2 key →
        ∃ s', exec (.xdisp n rs2 rs1 rd) s = .next s' ∧ CoreEnds s s' c rd 0 ∧
          (∀ m, m ≠ c → m ≠ i → getRv s' m = getRv s m) ∧
          Puts s2 s' key 8 ((memRead s2.mem key 8 + 1) % 2 ^ 64) ∧ (getRv s' i).busy = true ∧
          (getRv s' i).pc = BitVec.ofNat 64 a1 ∧ (getRv s' i).join = some key ∧ rvReg (getRv s' i) 1 = 0 ∧
          ∀ j < n.toNat, tget 0 (getRv s' i).x (10 + j) = tget 0 r.x (10 + j)) ∧
      ((∀ i, ¬idle i) → ∃ s', exec (.xdisp n rs2 rs1 rd) s = .next s' ∧ s' = { s2 with rv := s'.rv } ∧
        CoreEnds s s' c rd 1 ∧ OtherCores s s' c)) ∧
    (∀ x s1 key, Serves s c x → a1 % 8 = 0 → seatXlat s x false .read a1 8 = (s1, some key) →
      let v := memRead s1.mem key 8
      let waits := fun (i : Instr) (ok : Prop) =>
        (ok → ∃ s', exec i s = .next s' ∧ s' = { s1 with rv := s'.rv } ∧ CoreEnds s s' c rd 0 ∧ OtherCores s s' c) ∧
        (¬ok → exec i s = .next s1)
      waits (.xjoin rs1 rd) (v = 0) ∧ waits (.xwaitc rs2 rs1 rd) (a2 ≤ v)) ∧
    (∀ x, Serves s c x → (a1 % 64 ≠ 0 → OnlyStatus (.xspawn n rs2 rs1 rd) s c rd 2) ∧
      (a1 % 2 ≠ 0 → OnlyStatus (.xdisp n rs2 rs1 rd) s c rd 2) ∧
      (a1 % 8 ≠ 0 → OnlyStatus (.xjoin rs1 rd) s c rd 2 ∧ OnlyStatus (.xwaitc rs2 rs1 rd) s c rd 2)) ∧
    (∀ x, s.rvCur = some c → c < 32 → getCtx s r.asid = some x → x.tag = 2 →
      OnlyStatus (.xdisp n rs2 rs1 rd) s c rd 3 ∧ OnlyStatus (.xjoin rs1 rd) s c rd 3 ∧
      OnlyStatus (.xwaitc rs2 rs1 rd) s c rd 3) ∧
    (∀ w, s.rvCur = some c → 32 ≤ c → (rvFetch s c).2 = some w →
      let v := w.setWidth 64
      CoreTraps (.xspawn n rs2 rs1 rd) s c v ∧ CoreTraps (.xdisp n rs2 rs1 rd) s c v ∧
      CoreTraps (.xjoin rs1 rd) s c v ∧ CoreTraps (.xwaitc rs2 rs1 rd) s c v) ∧
    CoreTraps (.reservedCustom0 c w32) s c (w32.setWidth 64) ∧
    (∀ key, r.busy = true → r.pc = 0 → r.join = some key → Fresh s key →
      ∃ s', exec (.xdispTaskEnd c) s = .next s' ∧ Puts s s' key 8 ((memRead s.mem key 8 + (2 ^ 64 - 1)) % 2 ^ 64) ∧
        getRv s' c = { r with busy := false, join := none } ∧ OtherCores s s' c)

/-! ## Headers, limits, records, retirement -/

/-- R60, R62, R64 to R66: a thread that arrives at a header is held there by the top reconvergence entry that names it
while another thread is still awaited, else waits while a flag of WAIT is busy, else goes into the block; an address that
is no multiple of 8 or a word that is no header is a branch or fall fault, and a reserved header word an illegal
instruction. -/
def Parts.HeadersHoldDelayOrAdmitThreads : Prop :=
  ∀ s c e l t, s.cur = some c → env s c.gid = some e → c.lanes = [l] → getLane s c.gid l = some t →
    t.handler = false → t.poison = none → (e.team.seq.status = .running ∨ e.team.seq.status = .ended) →
    preemptPending s e.group = false → (e.group.threads.map (·.lane)).Nodup →
    (∀ u ∈ e.group.threads, u.lane ≠ l → u.stall ≠ some .flags ∧ u.stall ≠ some .held) →
    let becomes := fun (p : State → Prop) (t1 : Thread) => ∃ s', exec .enterHeader s = .next s' ∧ OnlyThreads s s' ∧
      getLane s' c.gid l = some t1 ∧ (∀ gid k, ¬(gid = c.gid ∧ k = l) → getLane s' gid k = getLane s gid k) ∧ p s'
    let parks := fun (cls : Nat) => becomes (fun _ => True)
      { t with status := .parked cls 0 false true, stall := none }
    let keeps := fun (s' : State) => (getGroup s' c.gid).map (·.stack) = some e.group.stack
    (e.group.stack = [] → t.pc % 8 ≠ 0 → parks 0x0B) ∧
    ∀ key fmt geom tbl mt w, t.pc % 8 = 0 → fetchWord s e.ctx e.group.die t.pc = (.ok key fmt geom tbl mt, w) →
      let u := { t with hdr := t.pc, hword := w }
      (e.group.stack = [] → w.getLsbD 63 = false → ∃ s', exec .enterHeader s = .next s' ∧
        (getLane s' c.gid l).map (·.status) = some (.parked (if t.arrival = .fall ∨ t.arrival = .released true then 0x0C else 0x0B) 0 false true)) ∧
      (e.group.stack = [] → w.getLsbD 63 = true → headerBad w = true → ∃ s', exec .enterHeader s = .next s' ∧
        (getLane s' c.gid l).map (·.status) = some (.parked 0x01 0 false true)) ∧
      (w.getLsbD 63 = true → headerBad w = false →
        ((∀ u ∈ s.upsets, upsetIn [(key, 8)] u = false) → (∀ r ∈ e.group.stack, r.arrived = []) → (∀ r, e.group.stack.head? = some r → r.addr ≠ t.pc) →
          becomes keeps (
            if (List.range 12).any (fun i => (hWait w).testBit i && flagCount e.group i != 0) then
              { u with status := .header, stall := some .flags }
            else { u with status := .block, stall := none, pc := t.pc + 8 })) ∧
        (∀ r rest, (∀ u ∈ s.upsets, upsetIn [(key, 8)] u = false) → e.group.stack = r :: rest → r.addr = t.pc → (∀ x ∈ r :: rest, x.arrived = []) → (∀ b, t.arrival ≠ .released b) →
          (∃ y ∈ e.group.threads, y.lane ≠ l ∧ y.lane ∈ r.mask ∧ y.status = .block ∧ y.stall = none) →
          becomes (fun s' => (getGroup s' c.gid).map (·.stack) = some ({ r with arrived := [l] } :: rest))
            { u with stall := some .held, holdWords := 0 }))

/-- R76, R295, R298: after 1,024 words of the group an overdue hold is released, and its threads' headers are checked
anew; a group that has stood ready for 256 die cycles is marked; the next slot goes first to the group marked longest,
then to one passed over 64 times, then to the highest band; a pending pre-emption takes every thread that would wait at its
header or stands at one of kind 1, from 65,536 words on those at ordinary headers too, and from 69,632 those at any. -/
def Parts.LimitsOfWaitingAreEnforced : Prop :=
  ∀ s gid g, getGroup s gid = some g →
    (∀ r, g.stack = [r] → preemptPending s g = false → (g.threads.map (·.lane)).Nodup →
      (∀ t ∈ g.threads, t.stall ≠ some .flags) → (∀ t ∈ g.threads, t.stall = some .cross → t.holdWords < 1024) →
      (∃ t ∈ g.threads, heldBy r t = true) →
      (∀ t ∈ g.threads, heldBy r t = true → 1024 ≤ t.holdWords ∧ t.status = .header) →
      ∃ s', exec (.progressRuleRelease gid) s = .next s' ∧ OnlyThreads s s' ∧
        (getGroup s' gid).map (·.stack) = some [] ∧
        ∀ t ∈ g.threads, getLane s' gid t.lane = some (
          if heldBy r t then { t with stall := none, arrival := .released (t.arrival == .fall) } else t)) ∧
    (∃ s', exec (.issueAgeLimit gid) s = .next s' ∧ s' = { s with groups := s'.groups } ∧
      (∀ c, g.since = some c → c + 256 ≤ (getDie s g.die).cyc → getGroup s' gid = some { g with aged := some (c + 256) }) ∧
      ((∀ c, g.since = some c → (getDie s g.die).cyc < c + 256) → getGroup s' gid = some g)) ∧
    (∀ gs x, firstGroup s gs = some x → x ∈ gs ∧
      (∀ y ∈ gs, ∀ m, y.aged = some m → ∃ n, x.aged = some n ∧ n ≤ m) ∧
      ((∀ y ∈ gs, y.aged = none) → (∃ y ∈ gs, 64 ≤ y.passed) → 64 ≤ x.passed) ∧
      ((∀ y ∈ gs, y.aged = none ∧ y.passed < 64) → ∀ y ∈ gs, min 3 (groupBand s y) ≤ min 3 (groupBand s x))) ∧
    (∀ pmk waits, takesAt g pmk waits = true ↔ waits = true ∨ pmk = 1 ∨ (pmk = 0 ∧ (1 ≤ g.limit ∨ 65536 ≤ g.words)) ∨
      2 ≤ g.limit ∨ 69632 ≤ g.words) ∧
    (preemptPending s g = true → 65536 ≤ g.words → ∃ s', exec (.preemptWordLimit gid) s = .next s' ∧
      getGroup s' gid = some { g with limit := max g.limit 1 } ∧ s' = { s with groups := s'.groups }) ∧
    (preemptPending s g = true → 69632 ≤ g.words → ∃ s', exec (.preemptSecondLimit gid) s = .next s' ∧
      getGroup s' gid = some { g with limit := max g.limit 2 } ∧ s' = { s with groups := s'.groups })

/-- Headers hold, delay, admit or fault threads, and the limits of waiting are enforced -/
def Obligations.HeadersAndLimitsHoldOrReleaseThreads : Prop :=
  Parts.HeadersHoldDelayOrAdmitThreads ∧
  Parts.LimitsOfWaitingAreEnforced

/-- R299, R301, R341 to R345: the oldest record of a context is written, numbered and counted, and its lane may then be
handled; where there is no handler, the parked lanes end at the moment at which they would enter it; the last of a team's work retires it and lowers SPAWN, and with its last team
a gang retires, and a retired team's kick entries have left the queues (the model's reading, log 61); a grid at SPAWN 0
ends with its flush, which lowers its join counter or finishes its command. -/
def Obligations.RecordsAreWrittenAndTeamsAndGridsRetire : Prop :=
  (∀ s asid c r rest gid e t cls info done hdr, s.upsets = [] → getCtx s asid = some c → c.pending = r :: rest → r.seqOf = none →
    r.gid = some gid → r.nested = false → env s gid = some e → (e.group.threads.map (·.lane)).Nodup →
    getLane s gid r.lane = some t → t.status = .parked cls info done hdr → e.group.stack = [] →
    let w := queueRecord s c r
    ∃ s', exec (.faultRecordWrite asid) s = .next s' ∧ s'.mem = w.1.mem ∧
      (getCtx s' asid).map (fun x => (x.pending, x.seq, tget 0 x.counts 6)) =
        some (rest, c.seq + 1, tget 0 c.counts 6 + if w.2 then 1 else 0) ∧
      getLane s' gid r.lane = some { t with status := .parked cls info true hdr } ∧
      s'.outbox.length = s.outbox.length + 1) ∧
  (∀ s gid e, env s gid = some e → e.ctx.trvec = 0 → preemptPending s e.group = false → e.group.stack = [] →
    (e.group.threads.map (·.lane)).Nodup → (∀ t ∈ e.group.threads, t.handler = false) →
    e.group.threads.any readyToEnter = true →
    othersMeet e.group ((e.group.threads.filter readyToEnter).map (·.lane)) = true →
    (∀ t ∈ e.group.threads, readyToEnter t = true → t.reads = 0 ∧ t.poison = none ∧
      reducing e.group t.lane = false) →
    ∃ s', exec (.handlerEntry gid) s = .next s' ∧ ∀ t ∈ e.group.threads, readyToEnter t = true →
      getLane s' gid t.lane = some { t with status := .exited, stall := none, handler := false, sp := [] }) ∧
  (∀ s tid t g k, getTeam s tid = some t → getGrid s t.grid = some g → getGang s t.gang = some k → tid ∈ k.teams →
    (s.teams.map (·.tid)).Nodup → t.resident = true → t.retired = false → (∀ x ∈ s.groups, x.tid = tid → x.retired = true) →
    (t.seq.status = .ended ∨ ∃ c d, t.seq.status = .faulted c d) → (∀ x ∈ s.transfers, x.tid ≠ tid) →
    (∀ x ∈ s.requests, x.tid ≠ tid) → ∃ s', exec (.teamRetirement tid) s = .next s' ∧ s'.mem = s.mem ∧
      (getTeam s' tid).map (·.retired) = some true ∧ getGrid s' t.grid = some { g with spawn := g.spawn - 1 } ∧
      (getGang s' t.gang).map (·.status) = some (
        if s.teams.all (fun u => !k.teams.contains u.tid || u.tid == tid || u.retired) then .retired else k.status) ∧
      (∀ d ∈ s'.dies, ∀ x ∈ d.kicks, x.tid ≠ tid) ∧ s'.outbox.length = s.outbox.length + 1) ∧
  (∀ s grid g, getGrid s grid = some g → g.ended = false → g.spawn = 0 →
    (∀ n ∈ s.ncopies, n.grid ≠ g.key) →
    let ends := fun (s' : State) => getGrid s' grid = some { g with ended := true, gplace := [], blocks := [], joins := 0 }
    (∀ key, g.owner = .join key → 0 < g.joins → g.joins < 2 ^ 64 → Fresh s key →
      ∃ s', exec (.gridEndFlush grid) s = .next s' ∧ ends s' ∧
        Puts s s' key 8 ((memRead s.mem key 8 + (2 ^ 64 - g.joins)) % 2 ^ 64)) ∧
    (∀ q k id f m, g.owner = .command q k id → g.endCode = none → getFunc s g.vf = some f → m ∈ (cmdQueue f q).cmds → m.id = id →
      ∃ s', exec (.gridEndFlush grid) s = .next s' ∧ ends s' ∧ s'.mem = s.mem ∧
        (getFunc s' g.vf).map (fun f => (cmdQueue f q).cmds) =
          some ((cmdQueue f q).cmds.map fun c => if c.id = id then { c with status := .finished 0 } else c)))

/-! ## Placement and translation -/

/-- R230 to R233, R235, R292, R293: the gang at the head of a placement queue is offered, on regatta lane 0, to every
die with capacity for it; an idle lane starts a heat of the identifier that comes next after its last winner, with each die's capacity at that
moment; at its end
the greatest value wins, every lane entered receives it and whether it won, and a void heat registers its entrants anew;
an offset of 1 ms or more steps %synt forward, any other is left to slewing. Where PLACE is set the gang is posted to the
host, as a list of the fields that Table 20.10 gives it (the model's form of a request, log 66). -/
def Obligations.GangsAreOfferedAndHeatsAreDecided : Prop :=
  (∀ s vf f k rest, getFunc s vf = some f → f.placement = k :: rest → placementPending s k = false →
    dutyPending f 1 k 0 = false →
    let able := (List.range 8).filter fun d => freeCapacity s f k d ≠ 0
    (able = [] → exec (.gangPlacement vf) s = .next s) ∧
    (able ≠ [] → f.duty.getLsbD 1 = false → ∃ s', exec (.gangPlacement vf) s = .next s' ∧ s' = { s with rlanes := s'.rlanes } ∧
      ∀ j, s'.rlanes[j]? = (s.rlanes[j]?).map fun r => if j ≠ 0 then r else
        { r with waiting := r.waiting ++ able.map fun d =>
          { who := .placement k, ident := f.vf * 16 + 15, cid := 0xF0, key := freeCapacity s f k d % 2 ^ 48, die := d,
            core := 0xFF, slot := 0, lane := 0 } }) ∧
    (able ≠ [] → f.duty.getLsbD 1 = true → ∃ s', exec (.gangPlacement vf) s = .next s' ∧ s' = { s with funcs := s'.funcs } ∧
      (getFunc s' vf).map (·.duties) =
        some (f.duties ++ [⟨f.nextDuty, 1, s.cox, false, k, 0, (List.range 8).map (freeCapacity s f k)⟩]))) ∧
  (∀ s lane r, s.rlanes[lane]? = some r → r.run = none →
    let ws := entriesNow s r.waiting
    ws ≠ [] → ∃ s' i, exec (.heatStart lane) s = .next s' ∧ s' = { s with rlanes := s'.rlanes } ∧ i ∈ ws.map (·.ident) ∧
      (∀ j ∈ ws.map (·.ident), (i + 256 - (r.w + 1) % 256) % 256 ≤ (j + 256 - (r.w + 1) % 256) % 256) ∧
      ∀ j, s'.rlanes[j]? = (s.rlanes[j]?).map fun x => if j ≠ lane then x else
        ⟨r.w, ws.filter (·.ident ≠ i), some ⟨ws.filter (·.ident = i), i, s.cox + 112, false, ws.filter (·.ident ≠ i)⟩⟩) ∧
  (∀ s lane r h, s.rlanes[lane]? = some r → r.run = some h →
    (s.cox < h.end_ → exec (.heatResult lane) s = .next s) ∧
    (h.end_ ≤ s.cox → h.void = true → ∃ s', exec (.heatResult lane) s = .next s' ∧ s' = { s with rlanes := s'.rlanes } ∧
      ∀ j, s'.rlanes[j]? = (s.rlanes[j]?).map fun x => if j ≠ lane then x else ⟨r.w, r.waiting ++ h.entrants, none⟩) ∧
    (h.end_ ≤ s.cox → h.void = false → h.entrants ≠ [] →
      let places := h.entrants.filterMap fun x => match x.who with | .thread g l .. => some (g, l) | _ => none
      places.length = h.entrants.length → places.Nodup →
      (∀ p ∈ places, (env s p.1).isSome = true ∧ (getLane s p.1 p.2).map (·.stall) = some (some .heat)) →
      ∃ s' w, exec (.heatResult lane) s = .next s' ∧ w ∈ h.entrants ∧ (∀ x ∈ h.entrants, entryBeats w x = true) ∧
        (∀ j, s'.rlanes[j]? = (s.rlanes[j]?).map fun x => if j ≠ lane then x else ⟨h.ident, r.waiting, none⟩) ∧
        s'.mem = s.mem ∧
        ∀ x ∈ h.entrants, ∀ gid l sync d p t, x.who = .thread gid l sync d p → getLane s gid l = some t →
          ∃ t1, getLane s' gid l = some (goOn (t.pc + 8) t1) ∧
            Sets (toPair d ((BitVec.ofNat 48 w.key ++ BitVec.ofNat 4 w.die ++ BitVec.ofNat 8 w.core : BitVec 60).setWidth 64))
              [(p, decide (x = w))] 0 { t with spBack := none } t1)) ∧
  ∀ s (offset : Int) (acc : Nat), exec (.syntDiscipline offset acc) s = .next
    (if 1000000 ≤ offset then { s with disciplined := true, syntAcc := acc, synt := s.synt + offset.toNat, syntOff := 0 }
     else { s with disciplined := true, syntAcc := acc, syntOff := offset })

/-- R302 to R305, R334 to R340, R375: a walk reads four entries in tables of the context and its leaf enters the TLBs,
or its fault waits for the instruction; a frame is backed at its place and its requests are answered, or meet SUB 0x09;
at the end of a window a page that another die used most is sent to it, and counts start anew; a re-home moves all frames
of the page, or none, and drops their translations. What the TLBs keep is the model's choice (log 22), and so are the form
of a posted request and the counting and moving of a page as a whole (log 66). -/
def Obligations.WalksBackingAndRehomesFollowThePageRules : Prop :=
  (∀ s die asid vpn rest c, s.upsets = [] → (getDie s die).walks = (asid, vpn) :: rest → getCtx s asid = some c → die < s.dies.length →
    let d := getDie s die
    let va := vpn * 4096
    let left := d.walks.filter (· ≠ (asid, vpn))
    (∀ l2 l3 l4 f1 f2 f3 f4 (w : DWord),
      let isTable := fun (n : Nat) (f : FrameRec) => frameOf c n = some f ∧ f.tbl = true ∧ f.cc = 0 ∧ f.fmt = 0 ∧ f.measured = false
      let word := fun (n l : Nat) => memRead s.mem (keyGlb asid n (8 * (va / 2 ^ (39 - 9 * (l - 1)) % 512))) 8
      isTable c.root f1 → isTable l2 f2 → isTable l3 f3 → isTable l4 f4 → s.poison = [] → c.root < c.pool → l2 < c.pool →
      l3 < c.pool → l4 < c.pool → l2 < 2 ^ 36 → l3 < 2 ^ 36 → l4 < 2 ^ 36 → c.asid = asid →
      word c.root 1 = 1 + 2 ^ 20 * l2 → word l2 2 = 1 + 2 ^ 20 * l3 → word l3 3 = 1 + 2 ^ 20 * l4 →
      word l4 4 = w.toNat → pteV w = true → pteL w = true → pteReserved 4 w = false → pteS64 w = false → pteMt w = 0 →
      pteCC w = 0 → pteKey w = 0 → pteLfn w < c.pool →
      ∃ s', exec (.translationWalk die) s = .next s' ∧ s' = { s with dies := s'.dies } ∧
        (∀ k, k ≠ die → getDie s' k = getDie s k) ∧
        let kept := d.tlb.filter fun y => ¬(y.asid = asid ∧ y.vpn = vpn)
        let x : TlbEnt := ⟨asid, vpn, pteLfn w, w, 4⟩
        let one := (d.l1.filter fun y => ¬(y.2.asid = asid ∧ y.2.vpn = vpn)) ++ (walkCores s die asid vpn).map fun k => (k, x)
        getDie s' die = { d with walks := left, tlb := kept ++ [x], l1 := one }) ∧
    (∀ sub l, walkVa s c die va = .fault sub l → ∃ s', exec (.translationWalk die) s = .next s' ∧
      s' = { s with dies := s'.dies } ∧
      getDie s' die = { d with walks := left, wfaults := d.wfaults ++ [(asid, vpn, sub, l)] }) ∧
    (∀ b l, walkVa s c die va = .table b l → ∃ s', exec (.translationWalk die) s = .next s' ∧
      s' = { s with dies := s'.dies, backing := s'.backing } ∧ (∃ y ∈ s'.backing, y.asid = b.asid ∧ y.lfn = b.lfn) ∧
      getDie s' die = { d with walks := left, wfaults := d.wfaults ++ [(asid, vpn, 0x01, l)] }) ∧
    (∀ f, c.root < c.pool → frameOf c c.root = some f → f.measured = false → f.tbl = true → f.cc = 0 → f.fmt = 0 →
      (memRead s.mem (keyGlb c.asid c.root (8 * (va / 2 ^ 39 % 512))) 8) % 2 = 0 → walkVa s c die va = .fault 0x01 1)) ∧
  (∀ s r rest c f, s.backing = r :: rest → getCtx s r.asid = some c → getFunc s c.vf = some f → f.duties = [] →
    frameOf c r.lfn = none →
    let others := s.backing.filter fun b => ¬(b.asid = r.asid ∧ b.lfn = r.lfn)
    (f.duty.getLsbD 0 = true → ∃ s', exec .frameBacking s = .next s' ∧ s' = { s with funcs := s'.funcs } ∧
      (getFunc s' c.vf).map (·.duties) = some [⟨f.nextDuty, 0, s.cox, false, r.asid, r.lfn, [r.asid, 0x06, r.vpn * 4096]⟩]) ∧
    (∀ place, f.duty.getLsbD 0 = false → backPlace s f r = some place → ∃ s', exec .frameBacking s = .next s' ∧
      s'.backing = others ∧ s'.mem = s.mem ∧ s'.dies = s.dies ∧
      (getCtx s' r.asid).map (·.frames) = some (c.frames ++ [⟨r.lfn, r.cc, if r.cc = 0 then 0 else c.keyid,
        r.fmt, r.geom, 0, r.home, r.tbl, r.pages, place, false, none, [], none⟩]) ∧
      (getFunc s' c.vf).map (·.errlog) = some (f.errlog ++ [⟨r.cox, r.asid, 0x06, 5, r.die⟩])) ∧
    (f.duty.getLsbD 0 = false → backPlace s f r = none → ∃ s', exec .frameBacking s = .next s' ∧
      s'.backing = others ∧ s' = { s with backing := others, dies := s'.dies } ∧
      (∀ g ∈ s.groups, ∀ t ∈ g.threads, ∀ v, g.die < s.dies.length → t.stall = some (.backing r.asid r.lfn v) →
        (r.asid, v, 0x09, 0) ∈ (getDie s' g.die).wfaults) ∧
      ((∀ g ∈ s.groups, ∀ t ∈ g.threads, ∀ v, t.stall ≠ some (.backing r.asid r.lfn v)) → r.walk = false → r.seat = false → r.die < 8 →
        r.die < s.dies.length → (r.asid, r.vpn, 0x09, 0) ∈ (getDie s' r.die).wfaults))) ∧
  (∀ s c f x d, s.contexts = [c] → getFunc s c.vf = some f → c.frames = [x] →
    let total := (x.counts.map (·.2)).sum
    let wants := fun (j : Nat) => j < 8 ∧ j ≠ (x.place.head?.map (·.die)).getD 0 ∧ f.pmask.getLsbD j = true ∧
      1024 ≤ tget 0 x.counts j ∧ 3 * total ≤ 4 * tget 0 x.counts j ∧ x.pages ≤ freeFrames s f c.asid j
    s.cox % 2 ^ 20 = 0 → x.home = 2 → (∀ m, x.moved = some m → m + 4 ≤ s.cox / 2 ^ 20) → x.pages < 262144 → f.duty.getLsbD 1 = false →
    wants d → (∀ j < d, ¬wants j) → ∃ s', exec .rehomeWindowEnd s = .next s' ∧
      s' = { s with rehomes := s.rehomes ++ [⟨c.asid, x.lfn, x.pages, d⟩], contexts := [{ c with frames := [{ x with counts := [] }] }] }) ∧
  ∀ s r, r ∈ s.rehomes → (∀ y ∈ s.rehomes, y.asid = r.asid → y.lfn = r.lfn → y = r) →
    ∃ s', exec (.rehomeComplete r.asid r.lfn) s = .next s' ∧ s'.mem = s.mem ∧ r ∉ s'.rehomes ∧
      let ls := rehomeLfns s r
      let stale := fun (y : TlbEnt) => pteMt y.leaf = 0 ∧ y.lfn / max r.pages 1 = r.lfn / max r.pages 1 ∧
        ∃ c, getCtx s y.asid = some c ∧ ((sealedOwner s c y.leaf).getD c).asid = r.asid
      let dropped := ∀ k, (∀ y ∈ (getDie s' k).tlb, ¬stale y) ∧ ∀ y ∈ (getDie s' k).l1, ¬stale y.2
      (s'.contexts = s.contexts ∨
        (∀ l ∈ ls, ∃ y a, (getCtx s' r.asid).bind (frameOf · l) = some y ∧ y.place = [⟨r.die, a, 32⟩] ∧
          y.moved = some (s.cox / 2 ^ 20)) ∧ dropped) ∧
      ∀ c f x place, getCtx s r.asid = some c → getFunc s c.vf = some f → ls = [r.lfn] → frameOf c r.lfn = some x →
        takeFrame r.die (freeRuns s f r.asid r.die) = some place →
        (getCtx s' r.asid).bind (frameOf · r.lfn) = some { x with place := place, moved := some (s.cox / 2 ^ 20) } ∧ dropped

/-! ## Commands -/

/-- R292, R317, R319 to R326, R330: seat 1 takes the head record of a ready queue of the highest band that has one, numbers it and
writes ISSUED; a record that fails its check finishes with its code in QSTAT; a command waits for its FENCE and its WTL;
then a launch makes its grid, whose seed team joins the placement queue, and a wait or a nop finishes; a finished command
writes DONE with its number and is signalled. That a nop waits for its FENCE and its WTL as a launch does is the model's
reading (log 28). -/
def Obligations.CommandsAreTakenCheckedAndFinished : Prop :=
  (∀ s vf q f c s1 s2 rec key, s.upsets = [] → nextQueue s = some (vf, q) → getFunc s vf = some f →
    let x := cmdQueue f q
    let k := (x.issued + 1) % 2 ^ 63
    getCtx s x.asid = some c → readSlot (passTurn s vf q) c x = (s1, some rec) → queueTl s1 x.asid x.qtl = (s2, some key) →
    Fresh s2 (key + 8) → ∃ s' m, exec .commandTake s = .next s' ∧
      Puts s2 s' (key + 8) 8 (k + memRead s2.mem (key + 8) 8 / 2 ^ 63 * 2 ^ 63) ∧
      (getFunc s' vf).map (cmdQueue · q) =
        some { x with head := x.head + 1, issued := k, cmds := x.cmds ++ [⟨k, rec, false, .taken, x.asid, x.qtl, s2.nextId⟩] } ∧
      s'.outbox = s.outbox ++ [m] ∧ m.type = 0x01 ∧ m.src = 1 ∧ m.dst = 2) ∧
  (∀ s vf q, (s.funcs.map (·.vf)).Nodup → nextQueue s = some (vf, q) →
    ∀ f ∈ s.funcs, ∀ p < 64, queueReady s f.vf (cmdQueue f p) = true → p / 16 ≤ q / 16) ∧
  (∀ s vf x, queueReady s vf x = true → x.en = true ∧ x.head ≠ x.tail ∧ (∀ m ∈ x.cmds, cmdHolds m = false) ∧
    bindingPending s vf x.q x.asid = false) ∧
  (∀ s vf q f m c, getFunc s vf = some f →
    let x := cmdQueue f q
    activeCmd x = some m → getCtx s m.asid = some c → (x.cmds.map (·.id)).Nodup →
    let becomes := fun (s' : State) (st : CmdStatus) (qs : DWord) => (getFunc s' vf).map (cmdQueue · q) =
      some { x with qstat := qs, cmds := x.cmds.map fun y => if y.id = m.id then { y with status := st } else y }
    let wtl := bitsN m.record 175 128
    let goal := bitsN m.record 255 192
    let unparsed := m.parsed = true ∨ (f.duty.getLsbD 4 = false ∧ dutyPending f 4 q m.id = false)
    let fenced := m.record.testBit 10 = true ∧ ∃ y ∈ x.cmds, y.id ≠ m.id
    (∀ i opc, (i, opc) ∈ [(Instr.launchCommand vf q, 1), (.waitCommand vf q, 2), (.nopCommand vf q, 3)] →
      m.record % 256 = opc →
      (∀ s1, m.status = .taken → unparsed → checkCmd s c q m = (s1, 0) →
        ∃ s', exec i s = .next s' ∧ s'.mem = s1.mem ∧ becomes s' .checked x.qstat) ∧
      (∀ n, m.status = .taken → unparsed → checkRecord q m = n → n ≠ 0 → x.qstat = 0 →
        ∃ s', exec i s = .next s' ∧
          becomes s' (.finished n) (BitVec.ofNat 64 (1 + 2 ^ 8 * n + 2 ^ 32 * bitsN m.record 63 32))) ∧
      (m.status = .checked → fenced → exec i s = .next s) ∧
      (m.status = .checked → ¬fenced → wtl = 0 → ∃ s', exec i s = .next s' ∧ s'.mem = s.mem ∧ becomes s' (.waiting false) x.qstat) ∧
      (∀ e0 s1 key, m.status = .waiting e0 → wtl ≠ 0 → wtlKey s c m = (s1, some key) → memRead s1.mem (key + 8) 8 < 2 ^ 63 →
        memRead s1.mem key 8 < goal → exec i s = .next s1) ∧
      (∀ e0, m.status = .waiting e0 → wtl = 0 → opc ≠ 1 → ∃ s', exec i s = .next s' ∧ s'.mem = s.mem ∧
        becomes s' (.finished 0) x.qstat)) ∧
    (∀ e0 s1 s2 d g, m.record % 256 = 1 → m.status = .waiting e0 → wtl = 0 →
      fetchDesc s c (bitsN m.record 111 64) = (s1, .ok d) →
      newGrid s1 vf c.asid d (.command q m.k m.id) (bitsN m.record 9 8) (bitsN m.record 287 256) (bitsN m.record 383 320)
        (bitsN m.record 319 288) 1 = some (s2, g) →
      ∃ s', exec (.launchCommand vf q) s = .next s' ∧ s'.mem = s2.mem ∧ s'.grids = s2.grids ∧ becomes s' (.created g) x.qstat)) ∧
  (∀ s vf q f m g r, getFunc s vf = some f → m ∈ (cmdQueue f q).cmds → m.status = .created g →
    (∀ y ∈ (cmdQueue f q).cmds, (∃ h, y.status = .created h) → y = m) → getGrid s g = some r → r.vf = vf →
    (∀ y ∈ s.gangs, y.key ≠ s.nextId) → ∃ s' t, exec (.commandAccept vf q) s = .next s' ∧ s'.mem = s.mem ∧
      s'.teams = s.teams ++ [t] ∧ t.grid = g ∧ t.index = r.nextTeam ∧ t.entry = r.desc.entry ∧ t.gang = s.nextId ∧
      t.args = (List.range 16).map (fun i => BitVec.ofNat 32 (m.record / 2 ^ (512 + 32 * i))) ∧
      (getFunc s' vf).map (·.placement) = some (f.placement ++ [s.nextId]) ∧
      (getFunc s' vf).map (fun y => (cmdQueue y q).cmds) =
        some ((cmdQueue f q).cmds.map fun y => if y.id = m.id then { y with status := .accepted g } else y)) ∧
  (∀ s vf q f m rest code s1 key, getFunc s vf = some f →
    let x := cmdQueue f q
    x.cmds = m :: rest → m.status = .finished code →
    queueTl (modCmdQueue s vf q fun y => { y with cmds := rest }) m.asid m.qtl = (s1, some key) → Fresh s1 key →
    ∃ s', exec (.commandFinish vf q) s = .next s' ∧ Puts s1 s' key 8 m.k ∧
      (getFunc s' vf).map (cmdQueue · q) = some { x with cmds := rest } ∧
      (x.qsig.getLsbD 63 = false → s'.msix = s.msix ∧ s'.rv = s.rv) ∧
      (x.qsig.getLsbD 63 = true → x.qsig.getLsbD 62 = true → s'.msix = (vf, bitsN x.qsig.toNat 10 0) :: s.msix))

/-! ## Register windows -/

/-- R26, R30, R316 to R318, R320, R330, R332, R347, R352, R404, R405: in full operation a window write by an actor whose
cell allows it takes effect as its register says: QTAIL within the ring, EN of a queue, QSTAT by a write of 0, CNTSEL, DUTY
and PMASK by the operator; a binding and a mask go to the live instances first; a denied access writes nothing, reads 0 and counts in DENCNT and DENLAST, which any write
clears. That a write of a reserved bit is discarded whole is the model's reading (log 56), and so is the form of an update
of a binding or a mask to the live instances (log 65). -/
def Obligations.WindowsAreReadAndWrittenByTheirRows : Prop :=
  ∀ s vf f, windowsUp s = true → getFunc s vf = some f →
    let funcIs := fun (s' : State) (f' : VFunc) => s' = { s with funcs := s'.funcs } ∧ getFunc s' vf = some f' ∧
      ∀ v, v ≠ vf → getFunc s' v = getFunc s v
    let queueIs := fun (s' : State) (q : Nat) (x : CQueue) => s' = { s with funcs := s'.funcs } ∧
      (∀ v, v ≠ vf → getFunc s' v = getFunc s v) ∧ ∃ f', getFunc s' vf = some f' ∧ cmdQueue f' q = x ∧
        (∀ p, p ≠ q → cmdQueue f' p = cmdQueue f p) ∧ { f' with queues := [] } = { f with queues := [] }
    let sent := fun (r : Replica) => (⟨8, vf, r, s.liveInst.map fun i => (i, tget 0 s.instSeq (8 * 16 + i) % 2 ^ 16), []⟩ : Update)
    let denied := fun (i : Instr) (off : Nat) (wr : Bool) (last : DWord) => ∃ s', exec i s = .next s' ∧
      s' = { s with funcs := s'.funcs, lastRead := last } ∧
      let n := if f.dencnt = BitVec.allOnes 32 then f.dencnt else f.dencnt + 1
      getFunc s' vf = some { f with dencnt := n, denlast := BitVec.ofNat 32 (2 ^ 31 + 2 ^ 30 * wr.toNat + off) }
    (∀ st c q (v : Word) (d : DWord), q < 64 → streamCtx s vf st = some c → c.tag = 1 →
      let x := cmdQueue f q
      let p := Path.stream vf st
      let log2 := v.toNat / 2 % 32
      ((v - x.head).toNat ≤ 2 ^ x.log2 → ∃ s', exec (.qtailWrite p vf q v) s = .next s' ∧ queueIs s' q { x with tail := v }) ∧
      (2 ^ x.log2 < (v - x.head).toNat → ∃ s', exec (.qtailWrite p vf q v) s = .next s' ∧ queueIs s' q { x with qstat := 0x0A01 }) ∧
      (x.en = false → v.toNat < 64 → 4 ≤ log2 → log2 ≤ 16 → x.qtl ≠ 0 → getCtx s c.asid = some c → c.live = true →
        (∀ k, bitsN x.qtl.toNat 47 0 % 16 = 0 → seatXlat s c (x.qtl.getLsbD 63) .write (bitsN x.qtl.toNat 47 0) 16 = (s, some k) →
          seatXlat s c (x.qtl.getLsbD 63) .read (bitsN x.qtl.toNat 47 0) 16 = (s, some k) →
          let y := { x with en := true, log2 := log2, head := x.tail, issued := memRead s.mem (k + 8) 8 % 2 ^ 63 }
          ∃ s', exec (.queueEnable p vf q v) s = .next s' ∧
            (s.liveInst = [] → queueIs s' q { y with asid := c.asid }) ∧
            (s.liveInst ≠ [] → (getFunc s' vf).map (cmdQueue · q) = some { y with asid := 0 } ∧
              s'.updates = s.updates ++ [sent (.binding q c.asid)])) ∧
        (bitsN x.qtl.toNat 47 0 % 16 ≠ 0 → ∃ s', exec (.queueEnable p vf q v) s = .next s' ∧
          queueIs s' q { x with qstat := 0x0B01 })) ∧
      (v.toNat < 64 → ∃ s', exec (.queueDisable p vf q v) s = .next s' ∧ queueIs s' q { x with en := false, log2 := log2 }) ∧
      (∃ s', exec (.qstatWrite p vf q d) s = .next s' ∧ queueIs s' q (if d = 0 then { x with qstat := 0 } else x)) ∧
      (bitsN d.toNat 62 48 = 0 → ∃ s', exec (.registerWrite p .bar0 vf (0x1000 + 0x40 * q) d) s = .next s' ∧
        queueIs s' q { x with qbase := d }) ∧
      (∃ s', exec (.deniedWindowRead p .bar0 vf (0x1000 + 0x40 * q)) s = .next s' ∧ s' = { s with lastRead := x.qbase })) ∧
    (∀ q (v : Word), q < 64 →
      let p := Path.plain vf
      denied (.qtailWrite p vf q v) (0x1010 + 0x40 * q) true s.lastRead ∧
      denied (.deniedWindowRead p .bar0 vf (0x1010 + 0x40 * q)) (0x1010 + 0x40 * q) false 0 ∧
      denied (.deniedWindowRead p .bar0 vf 0x0020) 0x0020 false 0 ∧
      (v.toNat < 2 ^ 16 → ∃ s', exec (.cntselWrite p vf v) s = .next s' ∧ funcIs s' { f with cntsel := tput 0 f.cntsel 0 v.toNat }) ∧
      (v.toNat < 2 ^ 8 → ∃ s', exec (.dutyWrite p vf v) s = .next s' ∧ funcIs s' { f with duty := v.setWidth 8 }) ∧
      (2 ^ 8 ≤ v.toNat → exec (.dutyWrite p vf v) s = .next s ∧ exec (.pmaskWrite p vf v) s = .next s) ∧
      (v.toNat < 2 ^ 8 → s.liveInst = [] → ∃ s', exec (.pmaskWrite p vf v) s = .next s' ∧
        funcIs s' { f with pmask := v.setWidth 8 }) ∧
      (v.toNat < 2 ^ 8 → s.liveInst ≠ [] → ∃ s', exec (.pmaskWrite p vf v) s = .next s' ∧ s'.funcs = s.funcs ∧
        s'.updates = s.updates ++ [sent (.mask (v.setWidth 8))]) ∧
      (∃ s', exec (.deniedWindowRead p .bar0 vf 0x0008) s = .next s' ∧ s' = { s with lastRead := f.duty.setWidth 64 })) ∧
    (∀ (v : DWord), let at_ := fun (off : Nat) => exec (.registerWrite .pf .bar2 vf off v) s
      at_ 0x108 = .next (if v.toNat < 2 ^ 36 then { s with pf := { s.pf with cpool := v } } else s) ∧
      at_ 0x118 = .next (if v.toNat < 2 ^ 52 then { s with pf := { s.pf with cfq := v } } else s) ∧
      at_ 0x900 = .next (if 1200 ≤ v.toNat % 2 ^ 32 ∧ v.toNat % 2 ^ 32 ≤ 2400 then
        { s with pf := { s.pf with pwrcap := v.toNat % 2 ^ 32 } } else s) ∧
      let n := if s.pf.dencnt = BitVec.allOnes 32 then s.pf.dencnt else s.pf.dencnt + 1
      at_ 0x018 = .next { s with pf := { s.pf with dencnt := n, denlast := 0xE0000018 } } ∧
      exec (.deniedWindowRead .pf .bar2 vf 0x108) s = .next { s with lastRead := s.pf.cpool } ∧
      exec (.registerWrite (.plain vf) .bar2 vf 0x108 v) s = .next s) ∧
    (s.boot.powered = true → (∃ s', exec (.denialClear (some vf)) s = .next s' ∧ funcIs s' { f with dencnt := 0, denlast := 0 }) ∧
      exec (.denialClear none) s = .next { s with pf := { s.pf with dencnt := 0, denlast := 0 } } ∧
      ∀ v, ∃ s', exec (.registerWrite (.plain vf) .cfg vf 0x0C v) s = .next s' ∧ funcIs s' { f with dencnt := 0, denlast := 0 })

/-! ## Messages -/

/-- R315, R328, R329, R331: a doorbell queues its message in the receiver's mailbox and the doorbell of its buffer reads
back 0, or 1 with no effect where 32 stand in it; a message is taken by its receiver, oldest first, and the interrupt bit
falls with the last; a type that the receiver does not know is answered with NAK, which names the answering instance; an
instance outside the live set answers nothing. The interrupt bit and what a NAK carries are the model's readings (log 63),
and so is which instances answer (log 26). -/
def Parts.MessagesAreQueuedTakenAndRefused : Prop :=
  (∀ s (m : Mail), let b := if m.dst = 9 then 16 + m.pay.toNat % 16 else m.dst.toNat
    let q := tget [] s.mail b
    let from_ := if m.src = 9 then 16 + m.pay.toNat % 16 else m.src.toNat
    let rings := fun (s' : State) (v : Nat) => ∀ k, tget 0 s'.doorbell k = if k = from_ * 64 + b then v else tget 0 s.doorbell k
    (32 ≤ q.length → ∃ s', exec (.mailboxDoorbell m) s = .next s' ∧ s' = { s with doorbell := s'.doorbell } ∧ rings s' 1) ∧
    (q.length < 32 → ∃ s', exec (.mailboxDoorbell m) s = .next s' ∧
      s' = { s with mail := s'.mail, mailInt := s'.mailInt, doorbell := s'.doorbell, outbox := s.outbox.erase m } ∧ rings s' 0 ∧
      (∀ k, tget [] s'.mail k = if k = b then q ++ [m] else tget [] s.mail k) ∧
      s'.mailInt = if q = [] ∧ b ∉ s.mailInt then s.mailInt ++ [b] else s.mailInt)) ∧
  (∀ s seat inst m rest i b (type : Byte),
    (i, b, type) ∈ [(Instr.msgCommandTaken, 2, 0x01), (.msgSeedGangReady, 3, 0x02), (.msgGangPlaced, 2, 0x03),
      (.msgTeamOrGangRetired, 2, 0x04), (.msgCommandFinished, 1, 0x05), (.msgErrorReport, 4, 0x10),
      (.msgPageHome seat, seat, 0x20), (.msgKeySlot seat, seat, 0x30), (.msgClockPowerBudget inst, 16 + inst, 0x40),
      (.msgCheckpointStep seat, seat, 0x50), (.nak seat, seat, 0xFF)] →
    tget [] s.mail b = m :: rest → m.type = type → (16 ≤ b → b - 16 ∉ s.liveInst → exec i s = .next s) ∧
    ((16 ≤ b → b - 16 ∈ s.liveInst) → ∃ s', exec i s = .next s' ∧
      s' = { s with mail := s'.mail, mailInt := s'.mailInt } ∧
      (∀ k, tget [] s'.mail k = if k = b then rest else tget [] s.mail k) ∧
      s'.mailInt = if rest = [] then s.mailInt.filter (· ≠ b) else s.mailInt)) ∧
  (∀ s b m rest, tget [] s.mail b = m :: rest → m.type ≠ 0xFF → m.type.toNat ∉ mailTypes b →
    (16 ≤ b → b - 16 ∈ s.liveInst) →
    ∃ s' r, exec (.nak b) s = .next s' ∧ s' = { s with mail := s'.mail, mailInt := s'.mailInt, outbox := s.outbox ++ [r] } ∧
      (∀ k, tget [] s'.mail k = if k = b then rest else tget [] s.mail k) ∧
      r.type = 0xFF ∧ r.seq = m.seq ∧ r.dst = m.src ∧ r.src.toNat = (if 16 ≤ b then 9 else b % 16) ∧
      (16 ≤ b → b < 32 → m.src ≠ 9 → r.pay.toNat = b - 16))

/-- R294, R330, R332, R333: a live instance applies and acknowledges its home's next update, which is committed when all
have; a die that the mask allows places the gang or the page of a PLACE request, a blob that passes its check serves any
other duty, and any other reply is refused and posted again with a report; an unanswered request is reported after 1 s. A
mapping that the host returns for a frame is the frame's place; a released range stands behind those that were released or
have begun. The form of updates and of replies is the model's (logs 26, 65, 66, 78). -/
def Parts.UpdatesAndDutyRepliesAreApplied : Prop :=
  (∀ s inst u f, s.updates = [u] → inst ∈ s.liveInst → inst ∉ u.acks → getFunc s u.vf = some f →
    ((∀ j ∈ s.liveInst, j = inst ∨ j ∈ u.acks) → ∃ s', exec (.multikernelUpdate u.home inst) s = .next s' ∧
      s' = { s with funcs := s'.funcs, updates := [] } ∧
      (∀ v, u.obj = .mask v → getFunc s' u.vf = some { f with pmask := v }) ∧
      ∀ q a, u.obj = .binding q a → (getFunc s' u.vf).map (cmdQueue · q) = some { cmdQueue f q with
        asid := if (getCtx s a).isSome then a else (cmdQueue f q).asid }) ∧
    ((∃ j ∈ s.liveInst, j ≠ inst ∧ j ∉ u.acks) → exec (.multikernelUpdate u.home inst) s =
      .next { s with updates := [{ u with acks := u.acks ++ [inst] }] })) ∧
  (∀ s vf ix f d x n, getFunc s vf = some f → f.duties.find? (·.ix == ix) = some d →
    let left := f.duties.filter (·.ix ≠ ix)
    let dropped := fun (s' : State) => (getFunc s' vf).map (·.duties) = some left
    (d.duty = 1 → x < 8 → f.pmask.getLsbD x = true →
      (∀ c y, d.extra = n + 1 → getCtx s d.subject = some c → frameOf c n = some y →
        ∃ s', exec (.dutyReply vf ix (.die x)) s = .next s' ∧ dropped s' ∧
          s' = { s with funcs := s'.funcs,
                        rehomes := s.rehomes ++ if frameHome y = x then [] else [⟨d.subject, n, y.pages, x⟩] }) ∧
      (∀ k g h, d.extra = 0 → getGang s d.subject = some k → k.status = .queued → getGrid s k.grid = some g →
        getFunc s g.vf = some h → ableQuads s h x g.desc (liveTeams s k).length ≠ [] → liveTeams s k ≠ [] →
        (s.teams.map (·.tid)).Nodup →
        ∃ s', exec (.dutyReply vf ix (.die x)) s = .next s' ∧
          (getGang s' d.subject).map (fun y => (y.status, y.die)) = some (.resident, x) ∧
          (∀ y ∈ s'.funcs, y.vf = g.vf → d.subject ∉ y.placement) ∧
          ∃ j ∈ funcQuads h x, ∀ t ∈ liveTeams s k, (getTeam s' t.tid).any (fun y =>
            y.resident && y.die == x && decide (4 * j ≤ y.core) && decide (y.core < 4 * j + 4)) = true)) ∧
    (d.duty ≠ 1 ∨ 8 ≤ x ∨ f.pmask.getLsbD x = false → ∃ s', exec (.dutyReply vf ix (.die x)) s = .next s' ∧
      s'.mem = s.mem ∧ s'.outbox.length = s.outbox.length + 1 ∧
      (getFunc s' vf).map (·.duties) = some (left ++ [⟨f.nextDuty, d.duty, s.cox, false, d.subject, d.extra, d.body⟩])) ∧
    (d.duty = 1 → ∀ ok, ∃ s', exec (.dutyReply vf ix (.blob ok)) s = .next s' ∧
      (getFunc s' vf).map (·.duties) = some (left ++ [⟨f.nextDuty, d.duty, s.cox, false, d.subject, d.extra, d.body⟩])) ∧
    (d.duty = 4 → ∃ s', exec (.dutyReply vf ix (.blob true)) s = .next s' ∧ dropped s' ∧ s' = { s with funcs := s'.funcs } ∧
      ((cmdQueue f d.subject).cmds ≠ [] → (getFunc s' vf).map (fun y => (cmdQueue y d.subject).cmds) =
        some ((cmdQueue f d.subject).cmds.map fun c => if c.id = d.extra then { c with parsed := true } else c))) ∧
    (d.duty = 2 → d.subject < s.dies.length → ∃ s', exec (.dutyReply vf ix (.blob true)) s = .next s' ∧ dropped s' ∧
      s' = { s with funcs := s'.funcs, dies := s'.dies } ∧
      let qs := (getDie s d.subject).quar
      let ahead := fun (q : QRange) => q.first ≠ d.extra ∧ (q.cleared = true ∨ q.frontier ≠ q.first)
      getDie s' d.subject = { getDie s d.subject with
        quar := qs.filter ahead ++ ((qs.filter (·.first = d.extra)).map fun q => { q with cleared := true }) ++
          qs.filter fun q => q.first ≠ d.extra ∧ ¬ahead q }) ∧
    (∀ r c own (place : List Chunk), d.duty = 0 → s.backing.find? (fun r => r.asid == d.subject && r.lfn == d.extra) = some r →
      getCtx s r.asid = some c → c.vf = vf → frameOf c r.lfn = none → backPlace s f r = some own →
      placeFits s f r own place = true →
      ∃ s', exec (.dutyReply vf ix (.mapping true (place.map fun k => (k.die, k.line, k.lines)))) s = .next s' ∧
        s'.mem = s.mem ∧ (getCtx s' r.asid).map (·.frames) = some (c.frames ++ [newFrame c r place]) ∧
        s'.backing = s.backing.filter fun b => ¬(b.asid = r.asid ∧ b.lfn = r.lfn)) ∧
    (∀ a, (∃ ok l, a = .mapping ok l ∧ (d.duty ≠ 0 ∨ ok = false)) ∨ (∃ b, a = .stored b ∧ d.duty ≠ 3) →
      ∃ s', exec (.dutyReply vf ix a) s = .next s' ∧ s'.mem = s.mem ∧ s'.outbox.length = s.outbox.length + 1 ∧
        (getFunc s' vf).map (·.duties) = some (left ++ [⟨f.nextDuty, d.duty, s.cox, false, d.subject, d.extra, d.body⟩])) ∧
    (d.timedOut = false → s.cox < d.posted + 200000000 → exec (.dutyTimeout vf ix) s = .next s) ∧
    (d.timedOut = false → d.posted + 200000000 ≤ s.cox → ∃ s' m, exec (.dutyTimeout vf ix) s = .next s' ∧
      s'.outbox = s.outbox ++ [m] ∧ m.type = 0x10 ∧ m.dst = 4 ∧
      (getFunc s' vf).map (·.duties) = some (f.duties.map fun y => if y.ix = ix then { y with timedOut := true } else y)))

/-- Messages are queued, taken or refused; updates and duty replies are applied.
Choices and readings of the model that it rests on: logs 26, 63, 65, 66, 78. -/
def Obligations.MessagesUpdatesAndDutyRepliesAreApplied : Prop :=
  Parts.MessagesAreQueuedTakenAndRefused ∧
  Parts.UpdatesAndDutyRepliesAreApplied

/-! ## Gang control -/

/-- R347 to R351, R373: an operator's command on a gang asks for its stop, restores its saved image or is refused with
its code; a gang that has stopped is sealed and leaves its cores, or is discarded, or stays halted for the debug module,
as its stop was asked for; a restored gang waits for placement with a higher epoch; the debug module acts while its lock is open. The order of GCMD's codes (log 27), the debug stop that saves no image (log 32),
and what EPOCH and GSIZE count (log 71) are the model's readings. -/
def Obligations.GangsAreStoppedSealedRestoredAndHalted : Prop :=
  (∀ s (v : Word), windowsUp s = true →
    let mask := v.toNat / 256 % 256
    let a := bitsN s.pf.gimg.toNat 47 0
    let hst := s.pf.gimg.getLsbD 63
    let coded := fun (i : Instr) (n : Nat) => ∃ s', exec i s = .next s' ∧ s'.pf = { s.pf with gbusy := false, gcode := n } ∧
      s'.gangs = s.gangs ∧ s'.groups = s.groups
    (s.pf.gbusy = true → ∀ i ∈ [Instr.gangPreempt .pf v, .gangMove .pf v, .gangRestore .pf v],
      exec i s = .next { s with pf := { s.pf with gcode := 5 } }) ∧
    (s.pf.gbusy = false → v.toNat / 2 ^ 16 ≠ 0 ∨ v.toNat / 16 % 16 ≠ 0 →
      ∀ i ∈ [Instr.gangPreempt .pf v, .gangMove .pf v, .gangRestore .pf v], coded i 8) ∧
    (s.pf.gbusy = false → v.toNat / 2 ^ 16 = 0 → v.toNat / 16 % 16 = 0 → ∀ c, imageContext s = some c →
      (selectedGang s = none → ∀ i ∈ [Instr.gangPreempt .pf v, .gangMove .pf v, .gangRestore .pf v], coded i 1) ∧
      ∀ k g s1 key, selectedGang s = some (k, g) → getGang s k.key = some k → k.status ≠ .retired → a % 4096 = 0 →
        seatXlat s c hst .write a 8 = (s1, some key) →
        (k.status = .resident →
          (∃ s', exec (.gangPreempt .pf v) s = .next s' ∧ s'.pf = { s.pf with gbusy := true, gcode := 0 } ∧
            (getGang s' k.key).map (fun y => (y.status, y.cause)) = some (.stopping, .image s.pf.gimg.toNat s.pf.gasid)) ∧
          (∃ s', exec (.gangMove .pf v) s = .next s' ∧ s'.pf = { s.pf with gbusy := true, gcode := 0 } ∧
            (getGang s' k.key).map (fun y => (y.status, y.cause)) =
              some (.stopping, .move mask s.pf.gimg.toNat s.pf.gasid)) ∧
          (k.keyGone = false → (seatXlat s c hst .read a 8).2.isSome = true → coded (.gangRestore .pf v) 2)) ∧
        (k.status ≠ .resident → coded (.gangPreempt .pf v) 2 ∧ coded (.gangMove .pf v) 2) ∧
        ∀ s1 key s2 qs f, seatXlat s c hst .read a 8 = (s1, some key) → k.status = .saved → k.keyGone = false →
          getFunc s g.vf = some f → seatQuads c hst a (imageQuadsOf s1 k g k.epoch).length s1 = (s2, some qs) →
          let pf := { s.pf with gbusy := false, gsize := imageSize k k.epoch }
          (qs ≠ imageQuadsOf s1 k g k.epoch → ∃ s', exec (.gangRestore .pf v) s = .next s' ∧
            s'.pf = { pf with gcode := 3 } ∧ s'.gangs = s.gangs ∧ s'.groups = s.groups) ∧
          (qs = imageQuadsOf s1 k g k.epoch → restoreDies s2 g mask ≠ [] → ∃ s', exec (.gangRestore .pf v) s = .next s' ∧
            s'.pf = { pf with gcode := 0 } ∧
            (getGang s' k.key).map (fun y => (y.status, y.epoch)) = some (.restoring mask, k.epoch + 1) ∧
            (getFunc s' g.vf).map (·.placement) = some (f.placement ++ [k.key])))) ∧
  (∀ s k g, getGang s k.key = some k → getGrid s k.grid = some g → gangStopped s k = true → k.halted = false →
    let ts := (s.teams.filter fun t => k.teams.contains t.tid && !t.retired).map (·.tid)
    (k.cause = .debug → ∃ s', exec (.gangImageSealed k.key) s = .next s' ∧ s' = { s with gangs := s'.gangs } ∧
      (getGang s' k.key) = some { k with halted := true }) ∧
    (k.cause = .discard → ∃ s', exec (.gangImageSealed k.key) s = .next s' ∧ s'.mem = s.mem ∧
      (getGang s' k.key).map (·.status) = some .retired ∧ (∀ x ∈ s'.groups, x.tid ∉ ts) ∧
      (getGrid s' k.grid).map (·.spawn) = some (g.spawn - ts.length)) ∧
    ∀ gimg gasid c x s1, k.cause = .image gimg gasid → getCtx s gasid = some c → getCtx s g.asid = some x →
      let size := 80 + 8 * Config.imageQuads k.key k.epoch
      let a := gimg % 2 ^ 48
      (pagesWritable s c (gimg.testBit 63) a size = (s1, true) → ∃ s', exec (.gangImageSealed k.key) s = .next s' ∧
        s'.mem = (seatWrite c (gimg.testBit 63) a (imageQuadsOf s1 k g k.epoch) s1).mem ∧
        (getGang s' k.key).map (fun y => (y.status, y.epoch)) = some (.saved, k.epoch) ∧
        (∀ y ∈ s'.groups, y.tid ∉ ts) ∧ s'.pf = { s.pf with gbusy := false, gcode := 0, gsize := size } ∧
        (getCtx s' g.asid).map (fun y => tget 0 y.counts 7) = some (tget 0 x.counts 7 + 1)) ∧
      (pagesWritable s c (gimg.testBit 63) a size = (s1, false) → ∃ s', exec (.gangImageSealed k.key) s = .next s' ∧
        s'.mem = s1.mem ∧ s'.pf = { s.pf with gbusy := false, gcode := 6 } ∧
        (getGang s' k.key).map (·.status) = some .resident)) ∧
  (∀ s c k b, (s.boot.debugOpen = false → ∀ r, exec (.debugModuleRequest r) s = .next s) ∧
    (s.boot.debugOpen = true →
      (∃ s', exec (.debugModuleRequest (.haltCore c)) s = .next s' ∧ s' = { s with rv := s'.rv } ∧ OtherCores s s' c ∧
        getRv s' c = { getRv s c with halted := true }) ∧
      (∃ s', exec (.debugModuleRequest (.resumeCore c)) s = .next s' ∧ s' = { s with rv := s'.rv } ∧ OtherCores s s' c ∧
        getRv s' c = { getRv s c with halted := false }) ∧
      exec (.debugModuleRequest (.haltOnBreakpoint b)) s = .next { s with boot := { s.boot with haltBkpt := b } } ∧
      ∀ g, getGang s k = some g →
        (g.status = .resident → ∃ s', exec (.debugModuleRequest (.haltGang k)) s = .next s' ∧
          (getGang s' k).map (fun y => (y.status, y.cause)) = some (.stopping, .debug)) ∧
        (g.status = .stopping → g.halted = true → g.key = k → ∃ s', exec (.debugModuleRequest (.resumeGang k)) s = .next s' ∧
          (getGang s' k).map (fun y => (y.status, y.halted)) = some (.resident, false))))

/-! ## Contexts and resets -/

/-- R353, R354, R356, R379, R381, R391: a create gives a context with a free address-space and key identifier, or is
refused with its code; a departure by CCMD, by a session or with its function leaves nothing of the context: no grid, no
queue, no translation, no byte of its frames and heaps. -/
def Obligations.ContextsAreCreatedAndDepart : Prop :=
  ∀ s, windowsUp s = true → ccmdBusy s = false →
    let coded := fun (i : Instr) (n : Nat) => exec i s = .next { s with pf := { s.pf with ccode := n } }
    let gone := fun (s' : State) (asid : Nat) => getCtx s' asid = none ∧
      (∀ g ∈ s'.grids, g.asid = asid → g.ended = true) ∧ (∀ d ∈ s'.dies, (∀ x ∈ d.tlb, x.asid ≠ asid) ∧ ∀ x ∈ d.l1, x.2.asid ≠ asid) ∧
      ∀ m, m / 2 ^ 128 = 1 ∨ m / 2 ^ 128 = 2 → m / 2 ^ 64 % 2 ^ 64 = asid → memGet s'.mem m = 0
    (∀ (v : Word) f, v.toNat / 2 ^ 10 % 4 = 0 →
      let vf := v.toNat / 16 % 16
      let tag := v.toNat / 256 % 4
      getFunc s vf = some f →
      (tag = 3 → coded (.contextCreate .pf v) 2) ∧
      (tag ≠ 3 → sliceFrames f < s.pf.cpool.toNat → coded (.contextCreate .pf v) 5) ∧
      (tag = 1 → s.pf.cpool.toNat ≤ sliceFrames f → (∃ c ∈ s.contexts, c.vf = vf ∧ c.tag = 1) →
        coded (.contextCreate .pf v) 1) ∧
      (tag ≠ 3 → s.pf.cpool.toNat ≤ sliceFrames f → (tag = 1 → ∀ c ∈ s.contexts, c.vf = vf → c.tag ≠ 1) →
        (∃ n, 1 ≤ n ∧ n ≤ 65535 ∧ getCtx s n = none) → (∃ n, 1 ≤ n ∧ n ≤ 255 ∧ keyTaken s n = false) →
        ∃ s' x, exec (.contextCreate .pf v) s = .next s' ∧ 1 ≤ x.asid ∧ x.asid ≤ 65535 ∧ getCtx s x.asid = none ∧
          1 ≤ x.keyid ∧ x.keyid ≤ 255 ∧ keyTaken s x.keyid = false ∧ getCtx s' x.asid = some x ∧ x.vf = vf ∧ x.tag = tag ∧
          x.live = decide (tag = 0) ∧ x.pool = s.pf.cpool.toNat ∧ x.counts = [] ∧ x.trvec = 0 ∧ x.svcr = 0 ∧
          s'.pf = { s.pf with ccode := 0, casid := x.asid, ckeyid := x.keyid })) ∧
    (∀ (v : Word), v.toNat / 2 ^ 10 % 4 = 0 → getCtx s (v.toNat / 2 ^ 16) = none → coded (.contextDestroy .pf v) 3) ∧
    (∀ (v : Word), v.toNat / 2 ^ 10 % 4 ≠ 0 → coded (.contextDestroy .pf v) 2 ∧ coded (.contextCreate .pf v) 2) ∧
    ((s.grids.map (·.key)).Nodup →
      (∀ (v : Word) c, v.toNat / 2 ^ 10 % 4 = 0 → getCtx s (v.toNat / 2 ^ 16) = some c →
        ∃ s', exec (.contextDestroy .pf v) s = .next s' ∧ gone s' c.asid ∧ s'.pf.ccode = 0) ∧
      (∀ sess x c, getSession s sess = some x → x.asid = some c.asid → getCtx s c.asid = some c →
        ∃ s', exec (.depart sess c.asid) s = .next s' ∧ gone s' c.asid ∧ s'.replies.head? = some (.departed c.asid))) ∧
    ∀ vf, ∃ s', exec (.functionLevelReset vf) s = .next s' ∧ (∀ c ∈ s'.contexts, c.vf ≠ vf) ∧
      ∀ c ∈ s.contexts, c.vf = vf → ∀ d ∈ s'.dies, ∀ x ∈ d.tlb, x.asid ≠ c.asid

/-- R331, R356, R359, R372, R399, R402: a reset of a compute die waits for an image that is being sealed there; else its
compute domain restarts at 400 MHz with %cyc 0, no translation and zeroed commons, and its instance rejoins when it is
complete; a module reset leaves the state of a cold boot, with the retired key identifiers; a write of CLOSE closes the debug lock. That host memory and storage keep their bytes over a
module reset is the model's reading (log 80). -/
def Obligations.DiesAndTheModuleAreReset : Prop :=
  ∀ s (v : Word), windowsUp s = true → s.dies.length = 9 →
    (ccmdBusy s = true → ∀ i ∈ [Instr.resetDie .pf v, .moduleReset .pf v],
      exec i s = .next { s with pf := { s.pf with ccode := 4 } }) ∧
    (ccmdBusy s = false → v.toNat / 2 ^ 10 % 4 = 0 →
      let die := v.toNat / 2 ^ 12 % 16
      (8 < die → exec (.resetDie .pf v) s = .next { s with pf := { s.pf with ccode := 2 } }) ∧
      (die < 8 → imagePending s die = true → ∃ s', exec (.resetDie .pf v) s = .next s' ∧
        s' = { s with dies := s'.dies, pf := { s.pf with ccode := 0 } } ∧
        getDie s' die = { getDie s die with resetWait := true }) ∧
      (die < 8 → imagePending s die = false → ∃ s', exec (.resetDie .pf v) s = .next s' ∧ s'.pf.ccode = 0 ∧
        (let d := getDie s' die
         d.alive = true ∧ d.resetting = true ∧ d.cyc = 0 ∧ d.clk = 400 ∧ d.tlb = [] ∧ d.l1 = [] ∧ d.walks = [] ∧ d.kicks = [] ∧ d.enq = []) ∧
        die ∉ s'.liveInst ∧ ∀ off < 2 ^ 64, memGet s'.mem (keyCmn die off) = 0) ∧
      (∃ s', exec (.moduleReset .pf v) s = .next s' ∧ s'.contexts = [] ∧ s'.groups = [] ∧ s'.grids = [] ∧ s'.sessions = [] ∧
        s'.boot = { Boot.reset with image := s.boot.image } ∧ s'.dies = State.reset.dies ∧ s'.funcs = State.reset.funcs ∧
        s'.retired = s.retired ∧
        ∀ m, memGet s'.mem m = if 6 * 2 ^ 128 ≤ m then memGet s.mem m else 0)) ∧
    (∀ die < 8, (getDie s die).resetWait = false → (getDie s die).resetting = true →
      ∃ s', exec (.dieResetComplete die) s = .next s' ∧ s' = { s with dies := s'.dies, liveInst := s'.liveInst, updates := s'.updates } ∧
        getDie s' die = { getDie s die with resetting := false } ∧ die ∈ s'.liveInst) ∧
    (v.toNat < 4 → exec (.debugLockClose .pf v) s = .next { s with boot := { s.boot with debugOpen := false } }) ∧
    (4 ≤ v.toNat → exec (.debugLockClose .pf v) s = .next s)

/-! ## Attestation -/

/-- R352, R368: in full operation SPDM answers each request outside sessions or in an open one; a session opens with its
key exchange while fewer than 32 are open, finishes, answers heartbeats and key updates once finished, and ends; a request
in a session that is not open is an error. The session of a peer link sets the link's key as it finishes, and its key update
asks for an easy-all. Which error a session that is not open gets (log 84), the form of block 4 (log 82) and the numbers of
the links' streams (log 85) are the model's. -/
def Obligations.SpdmRequestsAreAnswered : Prop :=
  ∀ s, windowsUp s = true → ∀ (sess : Option Nat) id (slot nonce index code req stream asid : Nat) (b : BindReq) rs,
    let gives := fun (i : Instr) (r : Reply) => exec i s = .next { s with replies := r :: s.replies }
    let block := fun (n : Nat) => match n with
      | 1 => sha (s.boot.image.map (·.toNat))
      | 2 => s.boot.records.foldl (fun h r => sha [h, r]) 0
      | 3 => s.boot.debugOpen.toNat
      | _ => sha (s.boot.fenced.flatMap fenceWords)
    ((∀ n, sess = some n → (getSession s n).isSome = true) →
      gives (.getVersion sess) .version ∧ gives (.getCapabilities sess) .capabilities ∧
      gives (.negotiateAlgorithms sess) .algorithms ∧ gives (.unsupportedRequest sess code) .errorUnsupported ∧
      (∃ c, (∀ x, s.boot.certs = some x → c = x) ∧ gives (.getCertificate sess 0) (.certificate c) ∧ gives (.getDigests sess) (.digests (sha [c]))) ∧
      (slot ≠ 0 → gives (.getCertificate sess slot) .errorInvalid) ∧
      (∃ sig, gives (.challenge sess nonce) (.challengeAuth sig)) ∧
      (∃ sig, gives (.getMeasurements sess 0xFF) (.measurements [block 1, block 2, block 3, block 4] sig)) ∧
      (1 ≤ index → index ≤ 4 → ∃ sig, gives (.getMeasurements sess index) (.measurements [block index] sig)) ∧
      (index ≠ 0xFF → index = 0 ∨ 4 < index → gives (.getMeasurements sess index) .errorInvalid)) ∧
    (32 ≤ s.sessions.length → gives (.keyExchange req) .errorSessionLimit) ∧
    (s.sessions.length < 32 → ∃ s' x, exec (.keyExchange req) s = .next s' ∧
      s' = { s with nextId := s.nextId + 1, sessions := s.sessions ++ [x], replies := .keyExchangeRsp x.id :: s.replies } ∧
      x.id = s.nextId ∧ x.finished = false ∧ x.asid = none ∧ x.streams = []) ∧
    (∀ x, getSession s id = some x →
      (x.peer = none ∨ x.finished = true → ∃ s', exec (.finish id) s = .next s' ∧
        s' = { s with sessions := s'.sessions, replies := .finishRsp :: s.replies } ∧
        getSession s' id = some { x with finished := true }) ∧
      (∀ p, x.peer = some p → x.finished = false → (∀ y, getStream s (256 + p % 16) = some y → y.keyed = false) →
        ∃ s', exec (.finish id) s = .next s' ∧
          s' = { s with sessions := s'.sessions, streams := s'.streams, replies := .finishRsp :: s.replies } ∧
          getSession s' id = some { x with finished := true } ∧
          (getStream s' (256 + p % 16)).map (·.keyed) = some true ∧
          ∀ n, n ≠ 256 + p % 16 → getStream s' n = getStream s n) ∧
      gives (.heartbeat id) (if x.finished then .heartbeatAck else .errorInvalid) ∧
      (x.finished = true → x.peer = none → ∃ s', exec (.keyUpdate id) s = .next s' ∧
        s' = { s with sessions := s'.sessions, replies := .keyUpdateAck :: s.replies } ∧
        getSession s' id = some { x with keyGen := x.keyGen + 1 }) ∧
      (∀ p y t, x.finished = true → x.peer = some p → getStream s (256 + p % 16) = some y → y.keyed = true →
        exec (.easyAll (256 + p % 16)) s = .next t → ∃ s', exec (.keyUpdate id) s = .next s' ∧
          s' = { t with sessions := s'.sessions, replies := .keyUpdateAck :: s.replies } ∧
          getSession s' id = some { x with keyGen := x.keyGen + 1 }) ∧
      (x.finished = false → gives (.keyUpdate id) .errorInvalid ∧ gives (.ideKm id stream) .errorInvalid ∧
        gives (.bind id b) .errorInvalid) ∧
      (∃ s', exec (.endSession id) s = .next s' ∧ s' = { s with sessions := s'.sessions, replies := .endSessionAck :: s.replies } ∧
        getSession s' id = none ∧ ∀ n, n ≠ id → getSession s' n = getSession s n)) ∧
    (getSession s id = none → ∀ i ∈ [Instr.getVersion (some id), .finish id, .heartbeat id, .keyUpdate id, .endSession id,
      .bind id b, .depart id asid, .sealCode id asid rs, .getNotice id asid, .getCounts id asid, .ideKm id stream],
      gives i .errorInvalid)

/-- R355, R361, R365 to R367, R369 to R371: a finished session sets the key of a stream and binds a pending context to
it, which becomes live; the bound session seals code once, takes its notices, sealed under its key, and, bound to an auditor, reads counts; a
stream that has a key changes it by an easy-all; a
stream that has carried its blocks enters the rekey heat with every die that has traffic toward it, swaps its key when drained, and is reported after 10 ms. That GET_NOTICE hands the notices over (log 84), the limit that no
record sets and the entries of the rekey heat (log 85), and the form of posted requests (log 66) are the model's. -/
def Obligations.ContextsAreBoundMeasuredAuditedAndRekeyed : Prop :=
  (∀ s sess x, windowsUp s = true → getSession s sess = some x →
    (∀ stream, x.finished = true → getStream s stream = none → ∃ s' y, exec (.ideKm sess stream) s = .next s' ∧
      s' = { s with sessions := s'.sessions, streams := s.streams ++ [y], replies := .ideKmAck :: s.replies } ∧
      y.id = stream ∧ y.keyed = true ∧ y.blocks = 0 ∧ (getSession s' sess).map (·.streams.contains stream) = some true) ∧
    (∀ stream y t, x.finished = true → getStream s stream = some y → y.keyed = true → exec (.easyAll stream) s = .next t →
      ∃ s', exec (.ideKm sess stream) s = .next s' ∧ s' = { t with sessions := s'.sessions, replies := .ideKmAck :: s.replies } ∧
        (getSession s' sess).map (·.streams.contains stream) = some true) ∧
    (∀ (r : BindReq) c, x.finished = true → getCtx s r.asid = some c → c.live = false → r.stream ∈ x.streams →
      (∀ o ∈ s.contexts, o.live = true → o.stream ≠ some r.stream) →
      (c.tag = 1 → 4 ≤ r.log2 ∧ r.log2 ≤ 16 ∧ r.fq.toNat % 128 = 0) →
      ∃ s' y, exec (.bind sess r) s = .next s' ∧ getCtx s' r.asid = some y ∧ y.live = true ∧ y.stream = some r.stream ∧
        (c.tag = 1 → y.root = r.root.toNat ∧ y.fqAddr = r.fq.toNat ∧ y.fqLog2 = r.log2 ∧ y.measured = r.measured) ∧
        (getSession s' sess).map (·.asid) = some (some r.asid) ∧
        s'.replies.head? = some (.bound r.asid c.keyid c.vf c.tag y.measured)) ∧
    (∀ c, x.asid = some c.asid → getCtx s c.asid = some c →
      (∃ s', exec (.getNotice sess c.asid) s = .next s' ∧
        s' = { s with contexts := s'.contexts, replies := .notices (c.notices.map (sealNotice c)) c.noticeDropped :: s.replies } ∧
        getCtx s' c.asid = some { c with notices := [] }) ∧
      (∀ n, (sealNotice c n).1 = n.number ∧
        (sealNotice c n).2.2 = gcmTag c.ck (c.asid % 2 ^ 16 * 2 ^ 80 + n.number % 2 ^ 64) (sealNotice c n).2.1 0) ∧
      (c.measured = false ∨ c.measurement.isSome = true → ∀ rs, exec (.sealCode sess c.asid rs) s =
        .next { s with replies := .errorInvalid :: s.replies }) ∧
      (∀ a s1 xs y f, c.measured = true → c.measurement = none → a % 4096 = 0 → readPages c [a] s = (s1, some xs) →
        walkVa s1 ((getCtx s1 c.asid).getD c) 8 a = .leaf y → (getCtx s1 c.asid).bind (frameOf · y.lfn) = some f →
        let m := sha (natBytes 8 a ++ xs.flatMap (natBytes 4096))
        ∃ s', exec (.sealCode sess c.asid [(a, 4096)]) s = .next s' ∧ s'.replies = .sealedCode m :: s.replies ∧
          (getCtx s' c.asid).map (·.measurement) = some (some m) ∧
          (getCtx s' c.asid).bind (frameOf · y.lfn) = some { f with measured := true, leaf := some (a / 4096) })) ∧
    (∀ au c f, x.asid = some au.asid → getCtx s au.asid = some au → getCtx s c.asid = some c → au.tag = 2 → au.vf = c.vf →
      getFunc s c.vf = some f → ∃ s' sig, exec (.getCounts sess c.asid) s = .next s' ∧
        let m := c.measurement.getD 0
        let cs := (List.range 8).map (tget 0 c.counts)
        s' = { s with funcs := s'.funcs, replies := .counts c.asid m cs s.cox s.synt sig :: s.replies } ∧
        (f.duty.getLsbD 6 = false → s'.funcs = s.funcs) ∧
        (f.duty.getLsbD 6 = true → (getFunc s' c.vf).map (·.duties) =
          some (f.duties ++ [⟨f.nextDuty, 6, s.cox, false, c.asid, 0, [c.asid, m] ++ cs ++ [s.cox, s.synt, sig]⟩]))) ∧
    (∀ au asid, x.asid = some au.asid → getCtx s au.asid = some au → au.tag ≠ 2 →
      exec (.getCounts sess asid) s = .next { s with replies := .errorInvalid :: s.replies })) ∧
  (∀ s stream f y, getFunc s 0 = some f → getStream s stream = some y → y.keyed = true →
    (f.duty.getLsbD 7 = false → y.draining = false → rekeyPending s stream = false → dutyPending f 7 stream 0 = false → ∃ s', exec (.easyAll stream) s = .next s' ∧
      s' = { s with rlanes := s'.rlanes } ∧ ∀ j, s'.rlanes[j]? = (s.rlanes[j]?).map fun r => if j ≠ 2 then r else
        { r with waiting := r.waiting ++ (8 :: (List.range 8).filter (streamTraffic s stream)).map fun d =>
            ⟨.rekey stream, 15, 0xF2, stream % 256, d, 0xFF, 0, 0⟩ }) ∧
    (f.duty.getLsbD 7 = true → y.draining = false → rekeyPending s stream = false → dutyPending f 7 stream 0 = false → ∃ s', exec (.easyAll stream) s = .next s' ∧
      s' = { s with funcs := s'.funcs } ∧
      (getFunc s' 0).map (·.duties) = some (f.duties ++ [⟨f.nextDuty, 7, s.cox, false, stream, 0, [stream, 2 ^ 32]⟩])) ∧
    (y.draining = true ∨ rekeyPending s stream = true ∨ dutyPending f 7 stream 0 = true → exec (.easyAll stream) s = .next s) ∧
    (y.draining = true →
      let z := { y with gen := y.gen + 1, blocks := 0, drain := none, draining := false }
      (∃ s', exec (.easyAllDrained stream) s = .next s' ∧ s' = { s with streams := s'.streams } ∧
        getStream s' stream = some z) ∧
      ∀ c, y.drain = some c → (s.cox < c + 2000000 → exec (.easyAllTimeout stream) s = .next s) ∧
        (c + 2000000 ≤ s.cox → ∃ s' m, exec (.easyAllTimeout stream) s = .next s' ∧ getStream s' stream = some z ∧
          s'.outbox = s.outbox ++ [m] ∧ m.type = 0x10 ∧ m.dst = 4)))

/-! ## Partitions, checkpoints, integrity -/

/-- R377, R378, R380, R384, R391, R392, R401: a function's partition is staged, applied where it is in range, free of
others' and of the cache's banks, and no context of the function lives, and released; the scrub passes a range frame by
frame and over its holes, and a range's end is reported and may clear SCRUBBING; a patrol read counts what it finds and
poisons an uncorrectable sector, or both sectors of its class 2 line. The order of the apply codes (log 75), what a range is
posted with (log 76) and what the patrol reads (log 77) are the model's readings. -/
def Obligations.PartitionsAreAppliedAndMemoryIsScrubbedAndPatrolled : Prop :=
  (∀ s (v : Word) f, windowsUp s = true →
    let coded := fun (i : Instr) (n : Nat) => exec i s = .next { s with pf := { s.pf with pcode := n } }
    let p := s.pf.staged
    (v.toNat < 16 → getFunc s v.toNat = some f → ∃ s', exec (.partitionSelect .pf v) s = .next s' ∧
      s'.pf.psel = v.toNat ∧ s'.pf.staged = f.part ∧ s' = { s with pf := s'.pf } ∧
      ∀ d < 8, tget 0 s'.pf.llc d = (getDie s d).llc) ∧
    (16 ≤ v.toNat → exec (.partitionSelect .pf v) s = .next s) ∧
    (∀ i n, (i, n) ∈ [(Instr.partitionApply .pf v, 1), (.partitionRelease .pf v, 2)] →
      (∀ x, s.pf.pbusy = some x → coded i 5) ∧
      (s.pf.pbusy = none → 16 ≤ v.toNat → coded i 3) ∧
      (s.pf.pbusy = none → v.toNat < 16 →
        exec i s = .next { s with pf := { s.pf with pbusy := some ⟨n, s.pf.psel, p, s.pf.llc⟩ } }))) ∧
  (∀ s op psel p llc f, s.pf.pbusy = some ⟨op, psel, p, llc⟩ → getFunc s psel = some f →
    let ends := fun (n : Nat) => partitionStep s = { s with pf := { s.pf with pbusy := none, pcode := n } }
    (op = 1 → (∃ d < 8, partBad p llc d = true) → ends 3) ∧
    (op = 1 → (∀ d < 8, partBad p llc d = false) →
      ((∃ c ∈ s.contexts, c.vf = psel) → ends 1) ∧
      ((∀ c ∈ s.contexts, c.vf ≠ psel) →
        ((∃ g ∈ s.funcs, g.vf ≠ psel ∧ ∃ d < 8, partsMeet p g.part d = true) ∨ (∃ d < 8, partInLlc p llc d = true) → ends 2) ∧
        ((∀ g ∈ s.funcs, g.vf ≠ psel → ∀ d < 8, partsMeet p g.part d = false) → (∀ d < 8, partInLlc p llc d = false) →
          ((∃ d < 8, tget 0 llc d ≠ (getDie s d).llc ∧ dieHeld s d = true) → ends 4) ∧
          ((∀ d < 8, tget 0 llc d = (getDie s d).llc ∨ dieHeld s d = false) → s.dies.length = 9 →
            let s' := partitionStep s
            s' = { s with funcs := s'.funcs, dies := s'.dies, pf := { s.pf with pbusy := none, pcode := 0 } } ∧
              getFunc s' psel = some { f with part := p } ∧
              ∀ d < 8, getDie s' d = { getDie s d with llc := tget 0 llc d })))) ∧
    (op = 2 → ((∃ c ∈ s.contexts, c.vf = psel) → ends 1) ∧
      ((∀ c ∈ s.contexts, c.vf ≠ psel) → let s' := partitionStep s
        s' = { s with funcs := s'.funcs, pf := { s.pf with pbusy := none, pcode := 0 } } ∧
          getFunc s' psel = some { f with part := ⟨[], [], []⟩ }))) ∧
  (∀ s die q rest, die < s.dies.length → (getDie s die).quar = q :: rest →
    (∀ n, rangeAtHost s die q = false → (∀ r ∈ rest, rangeAtHost s die r = false) →
      (∀ h ∈ q.holes, h.1 < h.2) → q.holes.Pairwise (fun a b => a.2 ≤ b.1) →
      q.frontier < n → (∀ h ∈ q.holes, n < h.1 ∨ h.2 ≤ n) →
      (∀ m, q.frontier < m → m < n → ∃ h ∈ q.holes, h.1 ≤ m ∧ m < h.2) →
      (n ≤ q.last → ∃ s', exec (.scrubFrame die) s = .next s' ∧
        getDie s' die = { getDie s die with quar := { q with frontier := n } :: rest } ∧
        s'.outbox = s.outbox ∧ s'.mem = s.mem) ∧
      (q.last < n → ∃ s' m, exec (.scrubFrame die) s = .next s' ∧
        getDie s' die = { getDie s die with quar := rest } ∧ s'.outbox = s.outbox ++ [m] ∧ m.type = 0x50 ∧ m.dst = 3 ∧
        (rest = [] → (∀ k, k ≠ die → (getDie s k).quar = []) → s'.boot.scrubbing = false))) ∧
    ((∀ r ∈ q :: rest, r.cleared = false ∧ rangePosted s die r = true) → exec (.scrubFrame die) s = .next s) ∧
    (∀ vf f, q.vf = some vf → getFunc s vf = some f → f.duty.getLsbD 2 = true → q.cleared = false → q.frontier = q.first →
      dutyPending f 2 die q.first = false → ∃ s', exec (.scrubFrame die) s = .next s' ∧ s' = { s with funcs := s'.funcs } ∧
        (getFunc s' vf).map (·.duties) = some (f.duties ++ [⟨f.nextDuty, 2, s.cox, false, die, q.first, [q.first, q.last, q.frontier]⟩]))) ∧
  (∀ s die asid lfn c f x i, s.upsets = [] → asid < 2 ^ 16 → lfn < 2 ^ 36 → getCtx s asid = some c → getFunc s c.vf = some f → frameOf c lfn = some x →
    (∃ k ∈ x.place, k.die = die) → i < 128 → lineHome f x (i / 4) = die → die < s.dies.length →
    (∃ y ∈ backedOn s die, y ≠ (asid, lfn) ∧ y ∉ (getDie s die).patrolled) →
    let d := getDie s die
    let seen := (asid, lfn) :: d.patrolled
    (∃ s', exec (.patrolRead die asid lfn []) s = .next s' ∧ s' = { s with dies := s'.dies } ∧
      getDie s' die = { d with patrolled := seen }) ∧
    let reports := fun (s' : State) => ∃ m, s'.outbox = s.outbox ++ [m] ∧ m.type = 0x10 ∧ m.dst = 4
    (∃ s', exec (.patrolRead die asid lfn [.corrected i]) s = .next s' ∧ s'.mem = s.mem ∧ s'.poison = s.poison ∧
      let n := min (d.mce + 1) (2 ^ 64 - 1)
      getDie s' die = { d with patrolled := seen, mce := n } ∧
      if errorThreshold s die < n then reports s' else s'.outbox = s.outbox) ∧
    (∃ s', exec (.patrolRead die asid lfn [.uncorrectable i]) s = .next s' ∧ s'.mem = s.mem ∧
      (let k := keyGlb asid lfn (32 * i) / 32
       k ∈ s'.poison ∧ (∀ p ∈ s.poison, p ∈ s'.poison) ∧
       if x.cc = 2 then k / 2 * 2 ∈ s'.poison ∧ k / 2 * 2 + 1 ∈ s'.poison ∧ reports s' else s'.outbox = s.outbox) ∧
      getDie s' die = { d with patrolled := seen, mue := min (d.mue + if x.cc = 2 then 2 else 1) (2 ^ 64 - 1) }))

/-- R386, R388 to R390: an operation of CKCMD needs a live OWN context, and a checkpoint or a restore one with no unfinished
grid and no valid image, else it ends with code 1 or 2, a verify with 9; another write meanwhile is code 8. A checkpoint
reads its pieces, zeroes the commit block and holds the context's queues, and begins with its segments, or hands them to the
host; a stream too large for its region is code 4. A restore or a verify begins with the check of the stored stream, code 9
where there is no commit block. That a verify without a live OWN context answers 9 and what STAGE hands over are the
model's readings (log 79). -/
def Parts.CheckpointOperationsBeginOrAreRefused : Prop :=
  ∀ s (v : Word), windowsUp s = true →
    (∀ x, s.pf.ckwait = some x → ∀ i ∈ [Instr.checkpoint .pf v, .checkpointRestore .pf v, .checkpointVerify .pf v],
      exec i s = .next { s with pf := { s.pf with ckcode := 8 } }) ∧
    (s.pf.ckwait = none → v.toNat < 32 →
      let whole := v.getLsbD 4
      let s0 := { s with pf := { s.pf with ckbytes := 0 } }
      let refused := fun (i : Instr) (n : Nat) (m : List Host.Cell) => ∃ s', exec i s = .next s' ∧ s'.pf.ckcode = n ∧
        s'.pf.ckpart = false ∧ s'.pf.ckwait = none ∧ s'.mem = m ∧ s'.groups = s.groups
      let region : CkRegion := ⟨(List.range 8).filter s.pf.ckport.testBit, s.pf.ckns.toNat, s.pf.cklba.toNat⟩
      let magic := fun (t : State) => storedCommit t region % 2 ^ 32 = 0x4B434E58
      let checks := fun (i : Instr) (op asid seed : Nat) (s1 : State) =>
        let b := storedCommit s1 region
        if magic s1 ∧ commitSegs b ≠ 0 ∧ region.ports ≠ [] then ∃ s' x, exec i s = .next s' ∧ s'.mem = s1.mem ∧
          s'.pf.ckwait = some x ∧ x.op = op ∧ x.asid = asid ∧ x.whole = whole ∧ x.region = region ∧ x.commit = b ∧
          x.key = storedKey seed b ∧ x.copied = 0 ∧ x.phase = .check 0 (chainOf b []) true ∧ s'.pf.ckbytes = 4096 ∧
          (op = 2 → ∀ c, getCtx s' asid = some c → c.hold = true)
        else refused i 9 s1.mem
      (ckContext s = none → refused (.checkpoint .pf v) 1 s.mem ∧ refused (.checkpointRestore .pf v) 1 s.mem ∧
        refused (.checkpointVerify .pf v) 9 s.mem) ∧
      (∀ c, ckContext s = some c → ckQuiet s c.asid = false →
        refused (.checkpoint .pf v) 2 s.mem ∧ refused (.checkpointRestore .pf v) 2 s.mem) ∧
      (∀ c, ckContext s = some c → ckQuiet s c.asid = true →
        (¬magic s → refused (.checkpointRestore .pf v) 9 s.mem) ∧
        (∀ s1 n, magic s → readHeader s0 c = (s1, .error n) → refused (.checkpointRestore .pf v) n s1.mem) ∧
        (∀ s1 seed npc, magic s → readHeader s0 c = (s1, .ok (seed, npc)) → checks (.checkpointRestore .pf v) 2 c.asid seed s1) ∧
        (∀ s1 n, readTable s0 c whole = (s1, .error n) → refused (.checkpoint .pf v) n s1.mem) ∧
        ∀ s1 seed ps f, readTable s0 c whole = (s1, .ok (seed, ps)) → s1.upsets = [] → getFunc s1 c.vf = some f →
          let r := takeFree s1
          let y := makeSegments r.1 ((getCtx s1 c.asid).getD c) ps (ckKey seed s.pf.ckid.toNat (r.2 % 2 ^ 128))
          (region.ports.length * s.pf.cknlb.toNat * 4096 < y.2 → refused (.checkpoint .pf v) 4 s1.mem) ∧
          (y.2 ≤ region.ports.length * s.pf.cknlb.toNat * 4096 → ∃ s' x, exec (.checkpoint .pf v) s = .next s' ∧
            s'.pf.ckwait = some x ∧ x.op = 1 ∧ x.asid = c.asid ∧ x.region = region ∧
            x.segs.map (fun g => (numBytes g.len g.data, g.tag)) = y.1 ∧ x.commit % 2 ^ 32 = 0x4B434E58 ∧
            (∀ b < 4096, memGet s'.mem (streamKey region b) = 0) ∧ (∀ m < 7 * 2 ^ 128, memGet s'.mem m = memGet s1.mem m) ∧
            (∀ z, getCtx s' c.asid = some z → z.hold = true) ∧ s'.pf.ckbytes = 4096 ∧
            (f.duty.getLsbD 3 = false → x.phase = .write 0 ∧ s'.funcs = s1.funcs) ∧
            (f.duty.getLsbD 3 = true → x.phase = .host ∧ (getFunc s' c.vf).map (fun h => h.duties.map (·.body)) =
              some (f.duties.map (·.body) ++ x.segs.map fun g => [g.off, g.len, g.data])))) ∧
      (∀ s1 seed c, ckContext s = some c → ckSeed s0 = (s1, some seed) →
        checks (.checkpointVerify .pf v) 3 s.pf.ckasid seed s1))

/-- R386, R388, R389: an operation of CKCMD goes on by the segments of its stream. A checkpoint writes each segment, reads
each back, and writes its commit block last, code 0, or leaves it zero, code 6; a restore or a verify first checks every tag
and the chain, code 9; then a restore reads the target's table, and copies shard by shard: a tag that differs now is code 9
with PART, and what no shard covers is counted and shown by PART. A failing drive is code 5, for a verify 9. The steps
(log 79) and what a drive does (log 101) are the model's. -/
def Parts.CheckpointOperationsGoOnBySegments : Prop :=
  ∀ s x, s.pf.ckwait = some x →
    let s' := checkpointStep s
    let t := { s with fresh := s.fresh + 1 }
    let fine := Config.storageFault s.fresh = none
    let broken := Config.storageFault s.fresh = some 0
    let ends := fun (n : Nat) => s'.pf.ckwait = none ∧ s'.pf.ckcode = n ∧
      ∀ c, getCtx s x.asid = some c → (getCtx s' x.asid).map (·.hold) = some false
    let goes := fun (u : State) (p : CkPhase) => s' = { u with pf := { u.pf with ckwait := some { x with phase := p } } }
    let moved := fun (u : State) (n : Nat) => { u with pf := { u.pf with ckbytes := s.pf.ckbytes + n } }
    let shows := fun (n : Nat) => s'.pf.ckunc = (x.pieces.map pieceCount).sum - x.copied ∧
      s'.pf.ckpart = decide (s'.pf.ckunc ≠ 0 ∨ n ≠ 0)
    (∀ i, x.phase = .write i →
      (x.segs[i]? = none → goes s (.back 0 (chainOf x.commit []) true)) ∧
      ∀ g, x.segs[i]? = some g → (broken → ends 5 ∧ s'.mem = s.mem) ∧
        (fine → goes (moved (writeSegment t x.region g.off (numBytes g.len g.data)) (segmentRoom g.len)) (.write (i + 1)))) ∧
    (∀ i chain ok, x.phase = .back i chain ok → (broken → ends 5 ∧ s'.mem = s.mem) ∧
      (∀ g, fine → x.segs[i]? = some g → let cs := storedSegment s x g
        goes t (.back (i + 1) (chainNext chain cs) (ok && segmentTag x.key i cs == g.tag))) ∧
      (fine → x.segs[i]? = none →
        (ok = true → chain = bitsN x.commit 1023 768 → ends 0 ∧
          s'.mem = (writeStream s x.region 0 (numBytes 4096 x.commit)).mem) ∧
        (ok = false ∨ chain ≠ bitsN x.commit 1023 768 → ends 6 ∧ s'.mem = s.mem))) ∧
    (x.phase = .host → s' = s) ∧
    (∀ i chain ok, x.phase = .check i chain ok →
      (broken → ends (if x.op = 3 then 9 else 5) ∧ s'.mem = s.mem) ∧
      (fine → i = 0 →
        let n := commitSegs x.commit - 1
        let m := readStream s x.region 4096 (64 + 96 * n)
        let text := openSegment x.key 0 m
        if segmentTag x.key 0 m = commitTag x.commit ∧ leNum (text.take 4) = n then
          let y := { x with shards := manifestShards n text, phase := .check 1 (chainNext chain m) ok }
          s' = moved { t with pf := { t.pf with ckwait := some y } } (segmentRoom m.length)
        else ends 9 ∧ s'.mem = s.mem) ∧
      ∀ k, fine → i = k + 1 →
        (∀ h, x.shards[k]? = some h → let cs := readStream s x.region h.off h.len
          goes (moved t (segmentRoom h.len)) (.check (k + 2) (chainNext chain cs) (ok && segmentTag x.key (k + 1) cs == h.tag))) ∧
        (x.shards[k]? = none →
          (ok = false ∨ chain ≠ bitsN x.commit 1023 768 → ends 9 ∧ s'.mem = s.mem) ∧
          (ok = true → chain = bitsN x.commit 1023 768 →
            (x.op = 3 → ends 0 ∧ s'.mem = s.mem) ∧
            ∀ c, x.op ≠ 3 → getCtx s x.asid = some c →
              (∀ u n, readTable t c x.whole = (u, .error n) → ends n ∧ s'.mem = u.mem) ∧
              ∀ u seed ps, readTable t c x.whole = (u, .ok (seed, ps)) → u.pf.ckwait = some x →
                ((∃ p ∈ ps, ∃ h ∈ x.shards, shardClash u ((getCtx u x.asid).getD c) p h = true) → ends 3 ∧ s'.mem = u.mem) ∧
                ((∀ p ∈ ps, ∀ h ∈ x.shards, shardClash u ((getCtx u x.asid).getD c) p h = false) →
                  s' = { u with pf := { u.pf with ckwait := some { x with pieces := ps, phase := .copy 0 0 } } })))) ∧
    ∀ i j, x.phase = .copy i j →
      (x.pieces[i]? = none → ends 0 ∧ s'.mem = s.mem ∧ shows 0) ∧
      ∀ p, x.pieces[i]? = some p → (x.shards[j]? = none → goes s (.copy (i + 1) 0)) ∧
        ∀ h, x.shards[j]? = some h → (h.box.tid ≠ p.tid → goes s (.copy i (j + 1))) ∧
          (h.box.tid = p.tid → let cs := readStream s x.region h.off h.len
            (broken → ends 5 ∧ s'.mem = s.mem ∧ shows 5) ∧
            (fine → segmentTag x.key (j + 1) cs ≠ h.tag → ends 9 ∧ s'.mem = s.mem ∧ shows 9) ∧
            ∀ c, fine → segmentTag x.key (j + 1) cs = h.tag → getCtx s x.asid = some c →
              let u := backPiece c t p
              let w := putShard u ((getCtx u x.asid).getD c) p h (shardData x.key (j + 1) h cs) ⟨[], []⟩
              s'.mem = (landWrites u x.asid w).mem ∧ s'.pf = { s.pf with ckwait := some { x with
                copied := x.copied + ((List.range (pieceCount p)).filter fun e => (inShard h.box (tensorCoords p e)).isSome).length,
                phase := .copy i (j + 1) } })

/-- Checkpoints are written, restored and verified with their codes.
Choices and readings of the model that it rests on: logs 79, 101. -/
def Obligations.CheckpointsAreWrittenRestoredAndVerified : Prop :=
  Parts.CheckpointOperationsBeginOrAreRefused ∧
  Parts.CheckpointOperationsGoOnBySegments

/-! ## Dies and power -/

/-- R233, R312, R331, R351, R374, R382, R394 to R398: a fatal error or a thermal trip of a die stops its compute domain,
ends the grids with a gang there with code 0x07, withdraws its contenders and dumps it, of an owner's state only the places while the debug lock is closed; every 2^13 ticks seat 7 brings the
predicted power to its cap or every clock to 400 MHz, and leaves clocks alone from 95% on, and a throttled die steps down;
a ceiling bounds the clock, a decided clock takes effect, PWR is the mean of the windows of the last 1 ms, and FAST, THROT and
LRT are set as their rules say. When THROT clears and how far a throttled die is raised are the model's readings (log 81);
what a die draws and does in a window is measured, not computed (log 55). -/
def Obligations.DiesFailThrottleAndKeepTheirBudget : Prop :=
  (∀ s die, die < 8 → s.dies.length = 9 →
    (1840 ≤ (getDie s die).temp ∨ 1680 ≤ (getDie s die).mtemp →
      exec (.thermalTrip die) s = exec (.dieFatalError die) s) ∧
    ((getDie s die).temp < 1840 → (getDie s die).mtemp < 1680 → exec (.thermalTrip die) s = .next s) ∧
    ((getDie s die).alive = false → exec (.dieFatalError die) s = .next s) ∧
    ((getDie s die).alive = true → ∃ s', exec (.dieFatalError die) s = .next s' ∧ (getDie s' die).alive = false ∧
      (getDie s' die).tlb = [] ∧ (getDie s' die).l1 = [] ∧ die ∉ s'.liveInst ∧ s'.dumps = dumpOf s die :: s.dumps ∧
      (s.boot.debugOpen = false → ∀ c, c.tag ≠ 0 → ∀ p ∈ dumpContext s die c, ∃ n, p = .left c.asid n) ∧
      (∀ r ∈ s'.rlanes, (∀ x ∈ r.waiting, x.die ≠ die) ∧ ∀ h, r.run = some h → ∀ x ∈ h.entrants ++ h.losers, x.die ≠ die) ∧
      ∀ k g, k ∈ s.gangs → gangOn s die k = true → getGrid s k.grid = some g →
        (getGrid s' k.grid).map (·.endCode) = some (some (g.endCode.getD 0x07))) ∧
    (∃ s', exec (.linkRetry die) s = .next s' ∧ s' = { s with dies := s'.dies } ∧
      getDie s' die = { getDie s die with lrt := min ((getDie s die).lrt + 1) (2 ^ 64 - 1) }) ∧
    (∃ s', exec (.clockChange die) s = .next s' ∧ s' = { s with dies := s'.dies } ∧
      getDie s' die = { getDie s die with clk := (getDie s die).newClk.getD (getDie s die).clk, newClk := none }) ∧
    (∀ (v : Word), windowsUp s = true →
      let f := v.toNat % 2 ^ 16
      let d := getDie s die
      (f < 400 ∨ 1100 < f ∨ f % 25 ≠ 0 → exec (.clockCeilingWrite .pf die v) s = .next s) ∧
      (400 ≤ f → f ≤ 1100 → f % 25 = 0 → ∃ s', exec (.clockCeilingWrite .pf die v) s = .next s' ∧ s'.mem = s.mem ∧
        getDie s' die = { d with ceil := f, newClk := if f < d.clk ∨ f < d.newClk.getD d.clk then some f else d.newClk })) ∧
    (∀ mem temp, let d := getDie s die
      let limit : Int := if mem then 95 * 16 else 100 * 16
      let hot := fun (was : Bool) => decide (limit ≤ temp) || was && decide (limit - 3 * 16 < temp)
      let d1 := if mem then { d with mtemp := temp, mhot := hot d.mhot } else { d with temp := temp, hot := hot d.hot }
      ∃ s', exec (.throtSet die mem temp) s = .next s' ∧ s' = { s with dies := s'.dies } ∧ getDie s' die =
        if d.throt = false ∧ limit ≤ temp then { d1 with throt := true, throtClk := d.clk } else d1) ∧
    (∃ s', exec .fastSet s = .next s' ∧ s' = { s with dies := s'.dies } ∧ getDie s' die = { getDie s die with fast := true }) ∧
    (∃ s', exec .fastClear s = .next s' ∧ s' = { s with dies := s'.dies } ∧ getDie s' die = { getDie s die with fast := false })) ∧
  (∀ s m memory x, s.dies.length = 9 →
    (s.cox % 2 ^ 13 ≠ 0 → exec (.powerWindow m memory x) s = .next s) ∧
    (s.cox % 2 ^ 13 = 0 → 3 ≤ s.boot.stage → s.boot.powered = true → ∃ s', exec (.powerWindow m memory x) s = .next s' ∧
      s'.mem = s.mem ∧
      let up := (List.range 8).filter fun i => (getDie s i).alive && !(getDie s i).resetting
      let pow := fun (i : Nat) => (m.getD i ⟨0, 0⟩).power
      let clk := fun (i : Nat) => (getDie s i).clk
      let old := fun (i : Nat) => (getDie s i).newClk.getD (clk i)
      let new := fun (i : Nat) => (getDie s' i).newClk.getD (getDie s' i).clk
      let rest := memory + x + (((List.range 8).filter fun i => i ∉ up).map pow).sum
      let total := (up.map fun i => ((pow i * old i : Nat) : Rat) / (clk i : Nat)).sum + rest
      let after := (up.map fun i => ((pow i * new i : Nat) : Rat) / (clk i : Nat)).sum + rest
      (let ws := ((((List.range 8).map pow).sum + memory + x) :: s.pf.pwrs).take 24
       s'.pf = { s.pf with pwrs := ws, pwr := ws.sum / ws.length % 2 ^ 16 }) ∧
      ((∀ i ∈ up, (getDie s i).throt = false ∧ clk i ≠ 0) →
        (s.pf.pwrcap < total → after ≤ s.pf.pwrcap ∨ ∀ i ∈ up, new i ≤ 400) ∧
        (total ≤ s.pf.pwrcap → (s.pf.pwrcap : Rat) * 95 ≤ total * 100 → ∀ i ∈ up, new i = old i) ∧
        (total * 100 < (s.pf.pwrcap : Rat) * 95 → after ≤ s.pf.pwrcap ∧ ∀ i ∈ up, old i ≤ new i ∧ (new i = old i ∨ new i ≤ (getDie s i).ceil)))) ∧
    (s.cox % 2 ^ 13 = 0 → 3 ≤ s.boot.stage → s.boot.powered = true → ∃ s', exec (.powerWindow m memory x) s = .next s' ∧
      (∀ i < 9, (getDie s i).throt = true → (getDie s' i).throt = ((getDie s i).hot || (getDie s i).mhot)) ∧
      ∀ i < 8, (getDie s i).alive = true → (getDie s i).resetting = false → (getDie s i).throt = true →
        (getDie s i).hot = true ∨ (getDie s i).mhot = true →
        (getDie s' i).newClk.getD (getDie s' i).clk ≤ max 400 ((getDie s i).newClk.getD (getDie s i).clk - 25)))

/-- R356, R372, R398 to R403: power loss and a module trip lose everything but host memory, storage, the firmware image and the
list of retired keys, and a cold boot starts at stage 0; stages complete in order and do their work, or stop the boot with their code; in recovery
mode the host loads an image of up to 64 MiB, and one that verifies restarts the boot. What outlasts the module's power (log
80), and that such a restart is at stage 0 with the cox count kept (log 83), are the model's choices. -/
def Obligations.PowerBootAndRecoveryFollowTheStages : Prop :=
  (∀ s, let cold := fun (s' : State) (on : Bool) => s'.contexts = [] ∧ s'.groups = [] ∧ s'.grids = [] ∧ s'.sessions = [] ∧
      s'.streams = [] ∧ s'.dies = State.reset.dies ∧ s'.funcs = State.reset.funcs ∧ s'.cox = 0 ∧
      s'.boot = { Boot.reset with image := s.boot.image, powered := on } ∧ s'.retired = s.retired ∧
      ∀ m, memGet s'.mem m = if 6 * 2 ^ 128 ≤ m then memGet s.mem m else 0
    (∃ s', exec .powerLoss s = .next s' ∧ cold s' false) ∧ (1760 ≤ (getDie s 8).temp → ∃ s', exec .moduleThermalTrip s = .next s' ∧ cold s' false) ∧
    ((getDie s 8).temp < 1760 → exec .moduleThermalTrip s = .next s) ∧
    (s.boot.powered = false → ∃ s', exec .coldBoot s = .next s' ∧ cold s' true)) ∧
  (∀ s recs, s.boot.powered = true → s.boot.fail = 0 → s.boot.stage < 6 → s.dies.length = 9 →
    let n := s.boot.stage + 1
    (n ≠ 2 → exec (.bootStageComplete false recs) s = .next { s with
      boot := { s.boot with fail := if n = 1 then 1 else n - 1 },
      console := .progress s.boot.stage (if n = 1 then 1 else n - 1) :: s.console }) ∧
    ∃ s', exec (.bootStageComplete true recs) s = .next s' ∧ s'.boot.stage = n ∧ s'.boot.fail = 0 ∧
      (n = 1 → (getDie s' 8).alive = true) ∧
      (n = 2 → s'.boot.debugOpen = (s.boot.debugOpen || recs.any fun r => match r with | .debugOpen => true | _ => false) ∧
        s'.boot.fenced = s.boot.fenced ++ (recs.filterMap fun r => match r with | .fence u => some u | _ => none) ∧
        s'.boot.certs = ((recs.filterMap fun r => match r with | .certChain c => some c | _ => none).getLast?).or s.boot.certs) ∧
      (n = 3 → ∀ d < 8, (getDie s' d).alive = true ∧ (getDie s' d).clk = 400 ∧ (getDie s' d).cyc = 0 ∧
        ∀ off < 2 ^ 64, memGet s'.mem (keyCmn d off) = 0) ∧
      (n = 5 → s'.boot.scrubbing = true ∧ s'.liveInst = List.range 9 ∧ ∀ d < 8, (getDie s' d).quar =
        [⟨0, (if d < 4 then 192 else 384) * 65536 - 1, 0, s.retired, none, false, []⟩]) ∧
      s'.boot.recovery = if n = 6 then false else s.boot.recovery) ∧
  ∀ s (v : Word) (d : DWord) ok, s.boot.powered = true → s.boot.recovery = true →
    let b := s.boot
    (v.toNat < 16 → exec (.recoveryBeginLoad .pf v) s =
      .next { s with boot := { b with buffer := [], begun := true, overflow := false, received := 0 } }) ∧
    (b.begun = false → exec (.recoveryData .pf d) s = .next { s with boot := { b with rcode := 3 } }) ∧
    (b.begun = true → b.buffer.length + 8 ≤ 2 ^ 26 → ∃ s', exec (.recoveryData .pf d) s = .next s' ∧
      s' = { s with boot := { b with buffer := s'.boot.buffer, received := b.received + 8 } } ∧
      s'.boot.buffer = b.buffer ++ (List.range 8).map fun i => d.extractLsb' (8 * i) 8) ∧
    (b.begun = true → 2 ^ 26 < b.buffer.length + 8 → exec (.recoveryData .pf d) s =
      .next { s with boot := { b with overflow := true, rcode := 2 } }) ∧
    (v.toNat < 16 →
      (b.begun = false → exec (.recoveryEndLoad .pf v ok) s = .next { s with boot := { b with rcode := 3 } }) ∧
      (b.begun = true → b.overflow = true → exec (.recoveryEndLoad .pf v ok) s =
        .next { s with boot := { b with begun := false, rcode := 2 } }) ∧
      (b.begun = true → b.overflow = false → ok = false → exec (.recoveryEndLoad .pf v ok) s =
        .next { s with boot := { b with begun := false, rcode := 1 } }) ∧
      (b.begun = true → b.overflow = false → ok = true → ∃ s', exec (.recoveryEndLoad .pf v ok) s = .next s' ∧
        s'.boot.image = b.buffer ∧ s'.boot.stage = 0 ∧ s'.boot.fail = 0 ∧ s'.boot.rcode = 0 ∧ s'.boot.recovery = true ∧
        s'.contexts = [] ∧ s'.cox = s.cox))

/-! ## The machine as a whole -/

/-- A step runs what its turn names. In a group's slot: the first ready thread by R296 and all that issue with it, and
after it in the same slot the lanes of another block that stand at its program counter execute the instruction that the
fetched word decodes to, with its literal where the format takes one, and a word that is no instruction executes as an
unassigned opcode (R82), its length read from its OP bits (log 103). Threads that have come to a header enter it, and one
that has come to a word which may wait tries it: no slot is used, and one that would issue is left as it stood. A sequencer
executes the command at its position, a split one with the words that it began with; a core of X the Xvexrus or the RISC-V
word at its program counter (R314; what the latter do is taken from outside the specification, log 9); what is due is a
device step of the opcode table, or a running operation of PCMD or CKCMD goes on, and an outside event is the step it names;
a host's posted write stores its bytes in a frame of the host aperture and nothing else (R249; log 2), and a peer's key of a
scale-out port comes by itself (log 85). Around `exec` a step counts an issued word and settles what follows (log 1). -/
def Obligations.StepsRunTheInstructionThatTheirTurnFetches : Prop :=
  (∀ (s s0 : State) (turn : Turn) (gid : Nat) (e : Env) (t : Thread), TakesTurn s s0 turn → env s0 gid = some e →
    canIssue s0 e.group = true →
    let at_ := fun (u : State) (pc : Nat) => countFetch u e.ctx e.group.die pc
    let runs := fun (u : State) (w : DWord) (i : Instr) (st : State) =>
      (opLong (fOp w) && t.pc + 8 < blockEnd t) = false ∧
        (decodeThread w none = .ok i ∨ ∃ x, decodeThread w none = .error x ∧ i = .unassignedOpcode (fGuard w) (fOp w)) ∧
        st = { at_ u t.pc with cur := some (curOf gid (issueLanes s0 e t) t.pc 1 t.hdr (blockEnd t)) } ∨
      ∃ l : DWord, (opLong (fOp w) && t.pc + 8 < blockEnd t) = true ∧ Fetches u e.ctx e.group.die (t.pc + 8) l ∧
        (decodeThread w (some l) = .ok i ∨
          ∃ x, decodeThread w (some l) = .error x ∧ i = .unassignedOpcode (fGuard w) (fOp w)) ∧
        st = { at_ (at_ u t.pc) (t.pc + 8) with cur := some (curOf gid (issueLanes s0 e t) t.pc 2 t.hdr (blockEnd t)) }
    (∀ (w : DWord) (i : Instr) (st : State),
      (turn = .issue gid ∧ firstThread (e.group.threads.filter (ready s0 e)) = some t) ∨
        (∃ l, turn = .also gid l t.pc ∧ e.group.threads.find? (·.lane == l) = some t ∧ ready s0 e t = true) →
      let more := ((alsoLane s0 e t).map fun l => Turn.also gid l t.pc).toList
      let u := { s0 with agenda := more ++ s0.agenda, stamp := s0.stamp + 1 }
      Fetches u e.ctx e.group.die t.pc w → runs u w i st → step s = settled turn s0 (runInstr i st)) ∧
    (∀ (w : DWord) (i : Instr) (st : State), turn = .attempt gid t.lane → e.group.threads.find? (·.lane == t.lane) = some t →
      t.stall = none → ready s0 e t = true → Fetches s0 e.ctx e.group.die t.pc w → runs s0 w i st → mayWait i = true →
      (∀ s', exec i st = .next s' → step s = settled turn s0 (.next (
        if s'.cur.any (wordIssued s') then s0 else s')))) ∧
    (∀ pc, turn = .enter gid pc → let lanes := (e.group.threads.filter fun x => canEnter s0 e x && x.pc == pc).map (·.lane)
      lanes ≠ [] → step s = settled turn s0 (runInstr .enterHeader { s0 with cur := some (curOf gid lanes pc 1 pc pc) }))) ∧
  (∀ (s s0 : State) (tid : Nat) (e : BulkEnv) (w x : DWord) (i : Instr), TakesTurn s s0 (.sequencer tid) →
    bulkEnv s0 tid = some e → e.team.seq.status = .running → e.team.resident = true →
    ((getGang s0 e.team.gang).any fun k => k.status == .stopping) = false →
    let at_ := fun (u : State) (pc : Nat) => countFetch u e.ctx e.team.die pc
    let u := if e.team.seq.split ≠ none then s0 else
      if hasExt w then at_ (at_ s0 e.team.seq.pos) (e.team.seq.pos + 8) else at_ s0 e.team.seq.pos
    (e.team.seq.split = none ∧ Fetches s0 e.ctx e.team.die e.team.seq.pos w ∧
        (if hasExt w then Fetches s0 e.ctx e.team.die (e.team.seq.pos + 8) x else x = 0)) ∨
      (e.team.seq.split ≠ none ∧ e.team.seq.words = some (w, x)) →
    decodeMatrix w x = .ok i →
    step s = settled (.sequencer tid) s0 (runInstr i
      { modSeq u e.team.tid (fun q => { q with words := some (w, x) }) with
        seqCur := some (e.team.tid, e.team.seq.pos + if hasExt w then 16 else 8) })) ∧
  (∀ (s s0 s1 : State) (c : Nat) (w : Word), TakesTurn s s0 (.core c) → (getRv s0 c).busy = true →
    (getRv s0 c).halted = false → rvUp s0 c = true → rvInterrupt s0 c = none →
    (c < 32 → (getRv s0 c).pc = 0 → step s = settled (.core c) s0 (runInstr (.xdispTaskEnd c) s0)) ∧
    ((getRv s0 c).pc ≠ 0 → rvFetch s0 c = (s1, some w) →
      (∀ i, decodeXvexrus c w = some i → step s = settled (.core c) s0 (runInstr i { s1 with rvCur := some c })) ∧
      (decodeXvexrus c w = none → step s = settled (.core c) s0 (.next (rvExec s1 c w.toNat))))) ∧
  (∀ (s : State) (c : Nat) (rd a b : BitVec 5),
    let r := getRv s c
    let t := getRv (rvExec s c (0#7 ++ b ++ a ++ 0#3 ++ rd ++ 0x33#7 : BitVec 32).toNat) c
    t.pc = r.pc + 4 ∧ ∀ n, n < 32 → rx t n = if n = rd.toNat ∧ n ≠ 0 then rx r a.toNat + rx r b.toNat else rx r n) ∧
  (∀ (s s0 : State) (d : Due), TakesTurn s s0 (.due d) → step s = settled (.due d) s0 (runDue d s0) ∧
    ((d = .partition ∧ runDue d s0 = .next (partitionStep s0)) ∨ (d = .checkpoint ∧ runDue d s0 = .next (checkpointStep s0)) ∨
      runDue d s0 = .next s0 ∨ ∃ i, runDue d s0 = exec i s0)) ∧
  (∀ (s s0 : State) (port : Nat), TakesTurn s s0 (.mka port) → ∃ t, step s = settled (.mka port) s0 (.next t) ∧
    let n := 272 + port % 4
    ((∀ x, getStream s0 n = some x → x.keyed = false) → t = { s0 with streams := t.streams } ∧
      (getStream t n).map (·.keyed) = some true ∧ ∀ k, k ≠ n → getStream t k = getStream s0 k) ∧
    ∀ x u, getStream s0 n = some x → x.keyed = true → exec (.easyAll n) s0 = .next u → t = u) ∧
  (∀ (s s0 : State) (i : Instr), TakesTurn s s0 (.event i) → step s = settled (.event i) s0 (runInstr i s0)) ∧
  (∀ (s s0 : State) (asid lfn off n v : Nat), TakesTurn s s0 (.host asid lfn off n v) →
    let t := hostWrite s0 asid lfn off n v
    let key := keyHst asid lfn off
    step s = settled (.host asid lfn off n v) s0 (.next t) ∧ t = { s0 with mem := t.mem, poison := t.poison, written := t.written } ∧
    ∀ a, memGet t.mem a = if (lfn < Config.hostFrames asid ∧ off + n ≤ 4096) ∧ key ≤ a ∧ a < key + n
      then BitVec.ofNat 8 (v / 256 ^ (a - key)) else memGet s0.mem a)

/-- Words that the worked programs print, and words written out field by field from Tables 4.5 to 4.8, decode to the
instructions they stand for: at least one of every format and family. -/
def Obligations.WordsOfTheEncodingTablesDecode : Prop :=
  let g : Guard := ⟨0, false⟩
  let thread := fun (w : DWord) (i : Instr) => decodeThread w none = .ok i
  let long := fun (w l : DWord) (i : Instr) => decodeThread w (some l) = .ok i
  let matrix := fun (w x : DWord) (i : Instr) => decodeMatrix w x = .ok i
  thread (0#1 ++ 0x0E#8 ++ 0#6 ++ 0#1 ++ 3#10 ++ 0#10 ++ 192#20 ++ 0#8) (.svc g 3 192) ∧
  thread (0#1 ++ 0x10#8 ++ 5#6 ++ 1#1 ++ 7#10 ++ 8#10 ++ 9#10 ++ 0#10 ++ 1#3 ++ 1#4 ++ 0#1)
    (.iaddR ⟨5, true⟩ .i32 true 7 8 9) ∧
  thread 0x0102000000000400 (.bra ⟨1, false⟩ 4) ∧ thread 0x1E0000400000040A (.isetI g .n32 .ge 1 0 4) ∧
  thread 0x1680020060000004 (.lea g false 2 8 6 0) ∧
  long 0x2500028080000040 0xFFFFFFFFFFFFFFF8 (.andL g .n64 10 8 0xFFFFFFFFFFFFFFF8) ∧
  thread 0x308005C1001809A0 (.stg g ⟨23, 16, 0x180, .dev, .rel, .w4, .unsigned, false, false⟩) ∧
  thread 0x3080010080003028 (.stg g ⟨4, 8, 3, .grp, .plain, .w4, .ieee, false, false⟩) ∧
  thread 0x3700000000014600 (.fence g .rel .dev 6) ∧ thread 0x4000030040140000 (.faddR g .f32 ⟨.rn, false, false⟩ 12 4 5) ∧
  thread 0x538005C040580404 (.shflXorR g 2 23 4 22 4) ∧ thread 0x5680050000000000 (.redux g .add (.int .n32) 20 0) ∧
  thread 0x5B0000C0C0000002 (.barwait g 3 12 (.const 0)) ∧
  thread 0x6380078280093600 (.ncopy g ⟨30, 40, 2, .w4, .glb, .glb⟩ false) ∧
  thread 0x68800500E0140300 (.contend g false 20 3 14 5) ∧ thread 0x6900038000001700 (.sysr g 14 0x017) ∧
  matrix 0x0400000000000000 0 (.mbwait 0) ∧ matrix 0x1000000000002001 0x61 (.msetq 0 64 0x61) ∧
  matrix 0x2200000004008040 0 (.mldb ⟨0, .n64, 0x100, 8, false, 0, 0, false⟩) ∧
  matrix 0x4604000800400020 0 (.mntt ⟨1, 0x10, 0x20, 4⟩) ∧
  decodeXvexrus 0 (0#7 ++ 0#5 ++ 10#5 ++ 2#3 ++ 11#5 ++ 0x0B#7) = some (.xjoin 10 11)

/-- Decoding the words of a well-formed instruction gives that instruction back, with every operand: no bit of an
encoding is dropped. Instructions of the device's own steps have no words; a reserved custom-0 word decodes on the core
that holds it, every other Xvexrus word on any core. -/
def Obligations.DecodingInvertsEncoding : Prop :=
  ∀ i : Instr, i.wf = true →
    match encode i with
    | .thread w l => decodeThread w l = .ok i
    | .matrix w x => decodeMatrix w (x.getD 0) = .ok i
    | .rv w => ∀ c, (∀ k v, i = .reservedCustom0 k v → c = k) → decodeXvexrus c w = some i
    | .noWord => True

/-- Every step that goes on keeps memory in its canonical form: cells in rising order of key, none equal to what an
unlisted byte reads as. -/
def Obligations.EveryStepKeepsMemoryCanonical : Prop := ∀ s t : State, s.MemOk → step s = .next t → t.MemOk

/-- Every step that goes on ends what it began: no execution of a thread word, a command or a core's word is left in
progress, in whatever state the step began (log 1). -/
def Obligations.NoStepLeavesAnExecutionInProgress : Prop := ∀ s t : State, step s = .next t → t.Idle

/-- Reset leaves what the specification states of a cold boot that begins (R399, R384, Tables 11.3, 24.3, 25.4): stage 0
with host port 0 in recovery, no die alive, every clock counter and error counter 0, each regatta lane's w 15, no group,
team, context or key; memory lists nothing. That `%cox` and `%synt` are 0 and that unlisted bytes read 0 is the model's
choice (log 3, log 14). -/
def Obligations.ResetIsAColdBootAtStageZero : Prop :=
  State.reset.MemOk ∧ State.reset.Idle ∧ State.reset.mem = [] ∧ (∀ a, memGet State.reset.mem a = 0) ∧
  State.reset.boot.stage = 0 ∧ State.reset.boot.recovery = true ∧ State.reset.boot.debugOpen = false ∧
  State.reset.dies.length = 9 ∧
  (∀ d ∈ State.reset.dies, d.alive = false ∧ d.cyc = 0 ∧ [d.mce, d.mue, d.sce, d.sue, d.lrt] = [0, 0, 0, 0, 0]) ∧
  State.reset.rlanes = List.replicate 16 ⟨15, [], none⟩ ∧ State.reset.groups = [] ∧ State.reset.teams = [] ∧
  State.reset.grids = [] ∧ State.reset.contexts = [] ∧ State.reset.streams = [] ∧ State.reset.cox = 0 ∧ State.reset.synt = 0
end

