-- ==== Sys2Proof/Laws/State.lean ====
section
/-!
SUPPORT. What each named update of the state leaves as it was, field by field.
-/

namespace Sys2Proof.Machine

/-! ## modGroup -/

@[simp] theorem modGroup_mem (s : State) (gid : Nat) (f : Group → Group) : (modGroup s gid f).mem = s.mem := rfl
@[simp] theorem modGroup_poison (s : State) (gid : Nat) (f : Group → Group) : (modGroup s gid f).poison = s.poison := rfl
@[simp] theorem modGroup_empties (s : State) (gid : Nat) (f : Group → Group) : (modGroup s gid f).empties = s.empties := rfl
@[simp] theorem modGroup_tests (s : State) (gid : Nat) (f : Group → Group) : (modGroup s gid f).tests = s.tests := rfl
@[simp] theorem modGroup_cmnTags (s : State) (gid : Nat) (f : Group → Group) : (modGroup s gid f).cmnTags = s.cmnTags := rfl
@[simp] theorem modGroup_versions (s : State) (gid : Nat) (f : Group → Group) : (modGroup s gid f).versions = s.versions := rfl
@[simp] theorem modGroup_teams (s : State) (gid : Nat) (f : Group → Group) : (modGroup s gid f).teams = s.teams := rfl
@[simp] theorem modGroup_gangs (s : State) (gid : Nat) (f : Group → Group) : (modGroup s gid f).gangs = s.gangs := rfl
@[simp] theorem modGroup_grids (s : State) (gid : Nat) (f : Group → Group) : (modGroup s gid f).grids = s.grids := rfl
@[simp] theorem modGroup_contexts (s : State) (gid : Nat) (f : Group → Group) : (modGroup s gid f).contexts = s.contexts := rfl
@[simp] theorem modGroup_funcs (s : State) (gid : Nat) (f : Group → Group) : (modGroup s gid f).funcs = s.funcs := rfl
@[simp] theorem modGroup_dies (s : State) (gid : Nat) (f : Group → Group) : (modGroup s gid f).dies = s.dies := rfl
@[simp] theorem modGroup_rv (s : State) (gid : Nat) (f : Group → Group) : (modGroup s gid f).rv = s.rv := rfl
@[simp] theorem modGroup_transfers (s : State) (gid : Nat) (f : Group → Group) : (modGroup s gid f).transfers = s.transfers := rfl
@[simp] theorem modGroup_requests (s : State) (gid : Nat) (f : Group → Group) : (modGroup s gid f).requests = s.requests := rfl
@[simp] theorem modGroup_ncopies (s : State) (gid : Nat) (f : Group → Group) : (modGroup s gid f).ncopies = s.ncopies := rfl
@[simp] theorem modGroup_rlanes (s : State) (gid : Nat) (f : Group → Group) : (modGroup s gid f).rlanes = s.rlanes := rfl
@[simp] theorem modGroup_mail (s : State) (gid : Nat) (f : Group → Group) : (modGroup s gid f).mail = s.mail := rfl
@[simp] theorem modGroup_outbox (s : State) (gid : Nat) (f : Group → Group) : (modGroup s gid f).outbox = s.outbox := rfl
@[simp] theorem modGroup_mailSeq (s : State) (gid : Nat) (f : Group → Group) : (modGroup s gid f).mailSeq = s.mailSeq := rfl
@[simp] theorem modGroup_mailInt (s : State) (gid : Nat) (f : Group → Group) : (modGroup s gid f).mailInt = s.mailInt := rfl
@[simp] theorem modGroup_doorbell (s : State) (gid : Nat) (f : Group → Group) : (modGroup s gid f).doorbell = s.doorbell := rfl
@[simp] theorem modGroup_sessions (s : State) (gid : Nat) (f : Group → Group) : (modGroup s gid f).sessions = s.sessions := rfl
@[simp] theorem modGroup_replies (s : State) (gid : Nat) (f : Group → Group) : (modGroup s gid f).replies = s.replies := rfl
@[simp] theorem modGroup_streams (s : State) (gid : Nat) (f : Group → Group) : (modGroup s gid f).streams = s.streams := rfl
@[simp] theorem modGroup_updates (s : State) (gid : Nat) (f : Group → Group) : (modGroup s gid f).updates = s.updates := rfl
@[simp] theorem modGroup_backing (s : State) (gid : Nat) (f : Group → Group) : (modGroup s gid f).backing = s.backing := rfl
@[simp] theorem modGroup_rehomes (s : State) (gid : Nat) (f : Group → Group) : (modGroup s gid f).rehomes = s.rehomes := rfl
@[simp] theorem modGroup_planeFaults (s : State) (gid : Nat) (f : Group → Group) : (modGroup s gid f).planeFaults = s.planeFaults := rfl
@[simp] theorem modGroup_retired (s : State) (gid : Nat) (f : Group → Group) : (modGroup s gid f).retired = s.retired := rfl
@[simp] theorem modGroup_liveInst (s : State) (gid : Nat) (f : Group → Group) : (modGroup s gid f).liveInst = s.liveInst := rfl
@[simp] theorem modGroup_instSeq (s : State) (gid : Nat) (f : Group → Group) : (modGroup s gid f).instSeq = s.instSeq := rfl
@[simp] theorem modGroup_msix (s : State) (gid : Nat) (f : Group → Group) : (modGroup s gid f).msix = s.msix := rfl
@[simp] theorem modGroup_lastRead (s : State) (gid : Nat) (f : Group → Group) : (modGroup s gid f).lastRead = s.lastRead := rfl
@[simp] theorem modGroup_images (s : State) (gid : Nat) (f : Group → Group) : (modGroup s gid f).images = s.images := rfl
@[simp] theorem modGroup_dumps (s : State) (gid : Nat) (f : Group → Group) : (modGroup s gid f).dumps = s.dumps := rfl
@[simp] theorem modGroup_console (s : State) (gid : Nat) (f : Group → Group) : (modGroup s gid f).console = s.console := rfl
@[simp] theorem modGroup_upsets (s : State) (gid : Nat) (f : Group → Group) : (modGroup s gid f).upsets = s.upsets := rfl
@[simp] theorem modGroup_pf (s : State) (gid : Nat) (f : Group → Group) : (modGroup s gid f).pf = s.pf := rfl
@[simp] theorem modGroup_boot (s : State) (gid : Nat) (f : Group → Group) : (modGroup s gid f).boot = s.boot := rfl
@[simp] theorem modGroup_cox (s : State) (gid : Nat) (f : Group → Group) : (modGroup s gid f).cox = s.cox := rfl
@[simp] theorem modGroup_synt (s : State) (gid : Nat) (f : Group → Group) : (modGroup s gid f).synt = s.synt := rfl
@[simp] theorem modGroup_disciplined (s : State) (gid : Nat) (f : Group → Group) : (modGroup s gid f).disciplined = s.disciplined := rfl
@[simp] theorem modGroup_syntOff (s : State) (gid : Nat) (f : Group → Group) : (modGroup s gid f).syntOff = s.syntOff := rfl
@[simp] theorem modGroup_syntAcc (s : State) (gid : Nat) (f : Group → Group) : (modGroup s gid f).syntAcc = s.syntAcc := rfl
@[simp] theorem modGroup_stamp (s : State) (gid : Nat) (f : Group → Group) : (modGroup s gid f).stamp = s.stamp := rfl
@[simp] theorem modGroup_robin (s : State) (gid : Nat) (f : Group → Group) : (modGroup s gid f).robin = s.robin := rfl
@[simp] theorem modGroup_nextId (s : State) (gid : Nat) (f : Group → Group) : (modGroup s gid f).nextId = s.nextId := rfl
@[simp] theorem modGroup_fresh (s : State) (gid : Nat) (f : Group → Group) : (modGroup s gid f).fresh = s.fresh := rfl
@[simp] theorem modGroup_written (s : State) (gid : Nat) (f : Group → Group) : (modGroup s gid f).written = s.written := rfl
@[simp] theorem modGroup_agenda (s : State) (gid : Nat) (f : Group → Group) : (modGroup s gid f).agenda = s.agenda := rfl
@[simp] theorem modGroup_cur (s : State) (gid : Nat) (f : Group → Group) : (modGroup s gid f).cur = s.cur := rfl
@[simp] theorem modGroup_seqCur (s : State) (gid : Nat) (f : Group → Group) : (modGroup s gid f).seqCur = s.seqCur := rfl
@[simp] theorem modGroup_rvCur (s : State) (gid : Nat) (f : Group → Group) : (modGroup s gid f).rvCur = s.rvCur := rfl

/-! ## modLane -/

@[simp] theorem modLane_mem (s : State) (gid lane : Nat) (f : Thread → Thread) : (modLane s gid lane f).mem = s.mem := rfl
@[simp] theorem modLane_poison (s : State) (gid lane : Nat) (f : Thread → Thread) : (modLane s gid lane f).poison = s.poison := rfl
@[simp] theorem modLane_empties (s : State) (gid lane : Nat) (f : Thread → Thread) : (modLane s gid lane f).empties = s.empties := rfl
@[simp] theorem modLane_tests (s : State) (gid lane : Nat) (f : Thread → Thread) : (modLane s gid lane f).tests = s.tests := rfl
@[simp] theorem modLane_cmnTags (s : State) (gid lane : Nat) (f : Thread → Thread) : (modLane s gid lane f).cmnTags = s.cmnTags := rfl
@[simp] theorem modLane_versions (s : State) (gid lane : Nat) (f : Thread → Thread) : (modLane s gid lane f).versions = s.versions := rfl
@[simp] theorem modLane_teams (s : State) (gid lane : Nat) (f : Thread → Thread) : (modLane s gid lane f).teams = s.teams := rfl
@[simp] theorem modLane_gangs (s : State) (gid lane : Nat) (f : Thread → Thread) : (modLane s gid lane f).gangs = s.gangs := rfl
@[simp] theorem modLane_grids (s : State) (gid lane : Nat) (f : Thread → Thread) : (modLane s gid lane f).grids = s.grids := rfl
@[simp] theorem modLane_contexts (s : State) (gid lane : Nat) (f : Thread → Thread) : (modLane s gid lane f).contexts = s.contexts := rfl
@[simp] theorem modLane_funcs (s : State) (gid lane : Nat) (f : Thread → Thread) : (modLane s gid lane f).funcs = s.funcs := rfl
@[simp] theorem modLane_dies (s : State) (gid lane : Nat) (f : Thread → Thread) : (modLane s gid lane f).dies = s.dies := rfl
@[simp] theorem modLane_rv (s : State) (gid lane : Nat) (f : Thread → Thread) : (modLane s gid lane f).rv = s.rv := rfl
@[simp] theorem modLane_transfers (s : State) (gid lane : Nat) (f : Thread → Thread) : (modLane s gid lane f).transfers = s.transfers := rfl
@[simp] theorem modLane_requests (s : State) (gid lane : Nat) (f : Thread → Thread) : (modLane s gid lane f).requests = s.requests := rfl
@[simp] theorem modLane_ncopies (s : State) (gid lane : Nat) (f : Thread → Thread) : (modLane s gid lane f).ncopies = s.ncopies := rfl
@[simp] theorem modLane_rlanes (s : State) (gid lane : Nat) (f : Thread → Thread) : (modLane s gid lane f).rlanes = s.rlanes := rfl
@[simp] theorem modLane_mail (s : State) (gid lane : Nat) (f : Thread → Thread) : (modLane s gid lane f).mail = s.mail := rfl
@[simp] theorem modLane_outbox (s : State) (gid lane : Nat) (f : Thread → Thread) : (modLane s gid lane f).outbox = s.outbox := rfl
@[simp] theorem modLane_mailSeq (s : State) (gid lane : Nat) (f : Thread → Thread) : (modLane s gid lane f).mailSeq = s.mailSeq := rfl
@[simp] theorem modLane_mailInt (s : State) (gid lane : Nat) (f : Thread → Thread) : (modLane s gid lane f).mailInt = s.mailInt := rfl
@[simp] theorem modLane_doorbell (s : State) (gid lane : Nat) (f : Thread → Thread) : (modLane s gid lane f).doorbell = s.doorbell := rfl
@[simp] theorem modLane_sessions (s : State) (gid lane : Nat) (f : Thread → Thread) : (modLane s gid lane f).sessions = s.sessions := rfl
@[simp] theorem modLane_replies (s : State) (gid lane : Nat) (f : Thread → Thread) : (modLane s gid lane f).replies = s.replies := rfl
@[simp] theorem modLane_streams (s : State) (gid lane : Nat) (f : Thread → Thread) : (modLane s gid lane f).streams = s.streams := rfl
@[simp] theorem modLane_updates (s : State) (gid lane : Nat) (f : Thread → Thread) : (modLane s gid lane f).updates = s.updates := rfl
@[simp] theorem modLane_backing (s : State) (gid lane : Nat) (f : Thread → Thread) : (modLane s gid lane f).backing = s.backing := rfl
@[simp] theorem modLane_rehomes (s : State) (gid lane : Nat) (f : Thread → Thread) : (modLane s gid lane f).rehomes = s.rehomes := rfl
@[simp] theorem modLane_planeFaults (s : State) (gid lane : Nat) (f : Thread → Thread) : (modLane s gid lane f).planeFaults = s.planeFaults := rfl
@[simp] theorem modLane_retired (s : State) (gid lane : Nat) (f : Thread → Thread) : (modLane s gid lane f).retired = s.retired := rfl
@[simp] theorem modLane_liveInst (s : State) (gid lane : Nat) (f : Thread → Thread) : (modLane s gid lane f).liveInst = s.liveInst := rfl
@[simp] theorem modLane_instSeq (s : State) (gid lane : Nat) (f : Thread → Thread) : (modLane s gid lane f).instSeq = s.instSeq := rfl
@[simp] theorem modLane_msix (s : State) (gid lane : Nat) (f : Thread → Thread) : (modLane s gid lane f).msix = s.msix := rfl
@[simp] theorem modLane_lastRead (s : State) (gid lane : Nat) (f : Thread → Thread) : (modLane s gid lane f).lastRead = s.lastRead := rfl
@[simp] theorem modLane_images (s : State) (gid lane : Nat) (f : Thread → Thread) : (modLane s gid lane f).images = s.images := rfl
@[simp] theorem modLane_dumps (s : State) (gid lane : Nat) (f : Thread → Thread) : (modLane s gid lane f).dumps = s.dumps := rfl
@[simp] theorem modLane_console (s : State) (gid lane : Nat) (f : Thread → Thread) : (modLane s gid lane f).console = s.console := rfl
@[simp] theorem modLane_upsets (s : State) (gid lane : Nat) (f : Thread → Thread) : (modLane s gid lane f).upsets = s.upsets := rfl
@[simp] theorem modLane_pf (s : State) (gid lane : Nat) (f : Thread → Thread) : (modLane s gid lane f).pf = s.pf := rfl
@[simp] theorem modLane_boot (s : State) (gid lane : Nat) (f : Thread → Thread) : (modLane s gid lane f).boot = s.boot := rfl
@[simp] theorem modLane_cox (s : State) (gid lane : Nat) (f : Thread → Thread) : (modLane s gid lane f).cox = s.cox := rfl
@[simp] theorem modLane_synt (s : State) (gid lane : Nat) (f : Thread → Thread) : (modLane s gid lane f).synt = s.synt := rfl
@[simp] theorem modLane_disciplined (s : State) (gid lane : Nat) (f : Thread → Thread) : (modLane s gid lane f).disciplined = s.disciplined := rfl
@[simp] theorem modLane_syntOff (s : State) (gid lane : Nat) (f : Thread → Thread) : (modLane s gid lane f).syntOff = s.syntOff := rfl
@[simp] theorem modLane_syntAcc (s : State) (gid lane : Nat) (f : Thread → Thread) : (modLane s gid lane f).syntAcc = s.syntAcc := rfl
@[simp] theorem modLane_stamp (s : State) (gid lane : Nat) (f : Thread → Thread) : (modLane s gid lane f).stamp = s.stamp := rfl
@[simp] theorem modLane_robin (s : State) (gid lane : Nat) (f : Thread → Thread) : (modLane s gid lane f).robin = s.robin := rfl
@[simp] theorem modLane_nextId (s : State) (gid lane : Nat) (f : Thread → Thread) : (modLane s gid lane f).nextId = s.nextId := rfl
@[simp] theorem modLane_fresh (s : State) (gid lane : Nat) (f : Thread → Thread) : (modLane s gid lane f).fresh = s.fresh := rfl
@[simp] theorem modLane_written (s : State) (gid lane : Nat) (f : Thread → Thread) : (modLane s gid lane f).written = s.written := rfl
@[simp] theorem modLane_agenda (s : State) (gid lane : Nat) (f : Thread → Thread) : (modLane s gid lane f).agenda = s.agenda := rfl
@[simp] theorem modLane_cur (s : State) (gid lane : Nat) (f : Thread → Thread) : (modLane s gid lane f).cur = s.cur := rfl
@[simp] theorem modLane_seqCur (s : State) (gid lane : Nat) (f : Thread → Thread) : (modLane s gid lane f).seqCur = s.seqCur := rfl
@[simp] theorem modLane_rvCur (s : State) (gid lane : Nat) (f : Thread → Thread) : (modLane s gid lane f).rvCur = s.rvCur := rfl

/-! ## modTeam -/

@[simp] theorem modTeam_mem (s : State) (tid : Nat) (f : Team → Team) : (modTeam s tid f).mem = s.mem := rfl
@[simp] theorem modTeam_poison (s : State) (tid : Nat) (f : Team → Team) : (modTeam s tid f).poison = s.poison := rfl
@[simp] theorem modTeam_empties (s : State) (tid : Nat) (f : Team → Team) : (modTeam s tid f).empties = s.empties := rfl
@[simp] theorem modTeam_tests (s : State) (tid : Nat) (f : Team → Team) : (modTeam s tid f).tests = s.tests := rfl
@[simp] theorem modTeam_cmnTags (s : State) (tid : Nat) (f : Team → Team) : (modTeam s tid f).cmnTags = s.cmnTags := rfl
@[simp] theorem modTeam_versions (s : State) (tid : Nat) (f : Team → Team) : (modTeam s tid f).versions = s.versions := rfl
@[simp] theorem modTeam_groups (s : State) (tid : Nat) (f : Team → Team) : (modTeam s tid f).groups = s.groups := rfl
@[simp] theorem modTeam_gangs (s : State) (tid : Nat) (f : Team → Team) : (modTeam s tid f).gangs = s.gangs := rfl
@[simp] theorem modTeam_grids (s : State) (tid : Nat) (f : Team → Team) : (modTeam s tid f).grids = s.grids := rfl
@[simp] theorem modTeam_contexts (s : State) (tid : Nat) (f : Team → Team) : (modTeam s tid f).contexts = s.contexts := rfl
@[simp] theorem modTeam_funcs (s : State) (tid : Nat) (f : Team → Team) : (modTeam s tid f).funcs = s.funcs := rfl
@[simp] theorem modTeam_dies (s : State) (tid : Nat) (f : Team → Team) : (modTeam s tid f).dies = s.dies := rfl
@[simp] theorem modTeam_rv (s : State) (tid : Nat) (f : Team → Team) : (modTeam s tid f).rv = s.rv := rfl
@[simp] theorem modTeam_transfers (s : State) (tid : Nat) (f : Team → Team) : (modTeam s tid f).transfers = s.transfers := rfl
@[simp] theorem modTeam_requests (s : State) (tid : Nat) (f : Team → Team) : (modTeam s tid f).requests = s.requests := rfl
@[simp] theorem modTeam_ncopies (s : State) (tid : Nat) (f : Team → Team) : (modTeam s tid f).ncopies = s.ncopies := rfl
@[simp] theorem modTeam_rlanes (s : State) (tid : Nat) (f : Team → Team) : (modTeam s tid f).rlanes = s.rlanes := rfl
@[simp] theorem modTeam_mail (s : State) (tid : Nat) (f : Team → Team) : (modTeam s tid f).mail = s.mail := rfl
@[simp] theorem modTeam_outbox (s : State) (tid : Nat) (f : Team → Team) : (modTeam s tid f).outbox = s.outbox := rfl
@[simp] theorem modTeam_mailSeq (s : State) (tid : Nat) (f : Team → Team) : (modTeam s tid f).mailSeq = s.mailSeq := rfl
@[simp] theorem modTeam_mailInt (s : State) (tid : Nat) (f : Team → Team) : (modTeam s tid f).mailInt = s.mailInt := rfl
@[simp] theorem modTeam_doorbell (s : State) (tid : Nat) (f : Team → Team) : (modTeam s tid f).doorbell = s.doorbell := rfl
@[simp] theorem modTeam_sessions (s : State) (tid : Nat) (f : Team → Team) : (modTeam s tid f).sessions = s.sessions := rfl
@[simp] theorem modTeam_replies (s : State) (tid : Nat) (f : Team → Team) : (modTeam s tid f).replies = s.replies := rfl
@[simp] theorem modTeam_streams (s : State) (tid : Nat) (f : Team → Team) : (modTeam s tid f).streams = s.streams := rfl
@[simp] theorem modTeam_updates (s : State) (tid : Nat) (f : Team → Team) : (modTeam s tid f).updates = s.updates := rfl
@[simp] theorem modTeam_backing (s : State) (tid : Nat) (f : Team → Team) : (modTeam s tid f).backing = s.backing := rfl
@[simp] theorem modTeam_rehomes (s : State) (tid : Nat) (f : Team → Team) : (modTeam s tid f).rehomes = s.rehomes := rfl
@[simp] theorem modTeam_planeFaults (s : State) (tid : Nat) (f : Team → Team) : (modTeam s tid f).planeFaults = s.planeFaults := rfl
@[simp] theorem modTeam_retired (s : State) (tid : Nat) (f : Team → Team) : (modTeam s tid f).retired = s.retired := rfl
@[simp] theorem modTeam_liveInst (s : State) (tid : Nat) (f : Team → Team) : (modTeam s tid f).liveInst = s.liveInst := rfl
@[simp] theorem modTeam_instSeq (s : State) (tid : Nat) (f : Team → Team) : (modTeam s tid f).instSeq = s.instSeq := rfl
@[simp] theorem modTeam_msix (s : State) (tid : Nat) (f : Team → Team) : (modTeam s tid f).msix = s.msix := rfl
@[simp] theorem modTeam_lastRead (s : State) (tid : Nat) (f : Team → Team) : (modTeam s tid f).lastRead = s.lastRead := rfl
@[simp] theorem modTeam_images (s : State) (tid : Nat) (f : Team → Team) : (modTeam s tid f).images = s.images := rfl
@[simp] theorem modTeam_dumps (s : State) (tid : Nat) (f : Team → Team) : (modTeam s tid f).dumps = s.dumps := rfl
@[simp] theorem modTeam_console (s : State) (tid : Nat) (f : Team → Team) : (modTeam s tid f).console = s.console := rfl
@[simp] theorem modTeam_upsets (s : State) (tid : Nat) (f : Team → Team) : (modTeam s tid f).upsets = s.upsets := rfl
@[simp] theorem modTeam_pf (s : State) (tid : Nat) (f : Team → Team) : (modTeam s tid f).pf = s.pf := rfl
@[simp] theorem modTeam_boot (s : State) (tid : Nat) (f : Team → Team) : (modTeam s tid f).boot = s.boot := rfl
@[simp] theorem modTeam_cox (s : State) (tid : Nat) (f : Team → Team) : (modTeam s tid f).cox = s.cox := rfl
@[simp] theorem modTeam_synt (s : State) (tid : Nat) (f : Team → Team) : (modTeam s tid f).synt = s.synt := rfl
@[simp] theorem modTeam_disciplined (s : State) (tid : Nat) (f : Team → Team) : (modTeam s tid f).disciplined = s.disciplined := rfl
@[simp] theorem modTeam_syntOff (s : State) (tid : Nat) (f : Team → Team) : (modTeam s tid f).syntOff = s.syntOff := rfl
@[simp] theorem modTeam_syntAcc (s : State) (tid : Nat) (f : Team → Team) : (modTeam s tid f).syntAcc = s.syntAcc := rfl
@[simp] theorem modTeam_stamp (s : State) (tid : Nat) (f : Team → Team) : (modTeam s tid f).stamp = s.stamp := rfl
@[simp] theorem modTeam_robin (s : State) (tid : Nat) (f : Team → Team) : (modTeam s tid f).robin = s.robin := rfl
@[simp] theorem modTeam_nextId (s : State) (tid : Nat) (f : Team → Team) : (modTeam s tid f).nextId = s.nextId := rfl
@[simp] theorem modTeam_fresh (s : State) (tid : Nat) (f : Team → Team) : (modTeam s tid f).fresh = s.fresh := rfl
@[simp] theorem modTeam_written (s : State) (tid : Nat) (f : Team → Team) : (modTeam s tid f).written = s.written := rfl
@[simp] theorem modTeam_agenda (s : State) (tid : Nat) (f : Team → Team) : (modTeam s tid f).agenda = s.agenda := rfl
@[simp] theorem modTeam_cur (s : State) (tid : Nat) (f : Team → Team) : (modTeam s tid f).cur = s.cur := rfl
@[simp] theorem modTeam_seqCur (s : State) (tid : Nat) (f : Team → Team) : (modTeam s tid f).seqCur = s.seqCur := rfl
@[simp] theorem modTeam_rvCur (s : State) (tid : Nat) (f : Team → Team) : (modTeam s tid f).rvCur = s.rvCur := rfl

/-! ## modGang -/

@[simp] theorem modGang_mem (s : State) (k : Nat) (f : Gang → Gang) : (modGang s k f).mem = s.mem := rfl
@[simp] theorem modGang_poison (s : State) (k : Nat) (f : Gang → Gang) : (modGang s k f).poison = s.poison := rfl
@[simp] theorem modGang_empties (s : State) (k : Nat) (f : Gang → Gang) : (modGang s k f).empties = s.empties := rfl
@[simp] theorem modGang_tests (s : State) (k : Nat) (f : Gang → Gang) : (modGang s k f).tests = s.tests := rfl
@[simp] theorem modGang_cmnTags (s : State) (k : Nat) (f : Gang → Gang) : (modGang s k f).cmnTags = s.cmnTags := rfl
@[simp] theorem modGang_versions (s : State) (k : Nat) (f : Gang → Gang) : (modGang s k f).versions = s.versions := rfl
@[simp] theorem modGang_groups (s : State) (k : Nat) (f : Gang → Gang) : (modGang s k f).groups = s.groups := rfl
@[simp] theorem modGang_teams (s : State) (k : Nat) (f : Gang → Gang) : (modGang s k f).teams = s.teams := rfl
@[simp] theorem modGang_grids (s : State) (k : Nat) (f : Gang → Gang) : (modGang s k f).grids = s.grids := rfl
@[simp] theorem modGang_contexts (s : State) (k : Nat) (f : Gang → Gang) : (modGang s k f).contexts = s.contexts := rfl
@[simp] theorem modGang_funcs (s : State) (k : Nat) (f : Gang → Gang) : (modGang s k f).funcs = s.funcs := rfl
@[simp] theorem modGang_dies (s : State) (k : Nat) (f : Gang → Gang) : (modGang s k f).dies = s.dies := rfl
@[simp] theorem modGang_rv (s : State) (k : Nat) (f : Gang → Gang) : (modGang s k f).rv = s.rv := rfl
@[simp] theorem modGang_transfers (s : State) (k : Nat) (f : Gang → Gang) : (modGang s k f).transfers = s.transfers := rfl
@[simp] theorem modGang_requests (s : State) (k : Nat) (f : Gang → Gang) : (modGang s k f).requests = s.requests := rfl
@[simp] theorem modGang_ncopies (s : State) (k : Nat) (f : Gang → Gang) : (modGang s k f).ncopies = s.ncopies := rfl
@[simp] theorem modGang_rlanes (s : State) (k : Nat) (f : Gang → Gang) : (modGang s k f).rlanes = s.rlanes := rfl
@[simp] theorem modGang_mail (s : State) (k : Nat) (f : Gang → Gang) : (modGang s k f).mail = s.mail := rfl
@[simp] theorem modGang_outbox (s : State) (k : Nat) (f : Gang → Gang) : (modGang s k f).outbox = s.outbox := rfl
@[simp] theorem modGang_mailSeq (s : State) (k : Nat) (f : Gang → Gang) : (modGang s k f).mailSeq = s.mailSeq := rfl
@[simp] theorem modGang_mailInt (s : State) (k : Nat) (f : Gang → Gang) : (modGang s k f).mailInt = s.mailInt := rfl
@[simp] theorem modGang_doorbell (s : State) (k : Nat) (f : Gang → Gang) : (modGang s k f).doorbell = s.doorbell := rfl
@[simp] theorem modGang_sessions (s : State) (k : Nat) (f : Gang → Gang) : (modGang s k f).sessions = s.sessions := rfl
@[simp] theorem modGang_replies (s : State) (k : Nat) (f : Gang → Gang) : (modGang s k f).replies = s.replies := rfl
@[simp] theorem modGang_streams (s : State) (k : Nat) (f : Gang → Gang) : (modGang s k f).streams = s.streams := rfl
@[simp] theorem modGang_updates (s : State) (k : Nat) (f : Gang → Gang) : (modGang s k f).updates = s.updates := rfl
@[simp] theorem modGang_backing (s : State) (k : Nat) (f : Gang → Gang) : (modGang s k f).backing = s.backing := rfl
@[simp] theorem modGang_rehomes (s : State) (k : Nat) (f : Gang → Gang) : (modGang s k f).rehomes = s.rehomes := rfl
@[simp] theorem modGang_planeFaults (s : State) (k : Nat) (f : Gang → Gang) : (modGang s k f).planeFaults = s.planeFaults := rfl
@[simp] theorem modGang_retired (s : State) (k : Nat) (f : Gang → Gang) : (modGang s k f).retired = s.retired := rfl
@[simp] theorem modGang_liveInst (s : State) (k : Nat) (f : Gang → Gang) : (modGang s k f).liveInst = s.liveInst := rfl
@[simp] theorem modGang_instSeq (s : State) (k : Nat) (f : Gang → Gang) : (modGang s k f).instSeq = s.instSeq := rfl
@[simp] theorem modGang_msix (s : State) (k : Nat) (f : Gang → Gang) : (modGang s k f).msix = s.msix := rfl
@[simp] theorem modGang_lastRead (s : State) (k : Nat) (f : Gang → Gang) : (modGang s k f).lastRead = s.lastRead := rfl
@[simp] theorem modGang_images (s : State) (k : Nat) (f : Gang → Gang) : (modGang s k f).images = s.images := rfl
@[simp] theorem modGang_dumps (s : State) (k : Nat) (f : Gang → Gang) : (modGang s k f).dumps = s.dumps := rfl
@[simp] theorem modGang_console (s : State) (k : Nat) (f : Gang → Gang) : (modGang s k f).console = s.console := rfl
@[simp] theorem modGang_upsets (s : State) (k : Nat) (f : Gang → Gang) : (modGang s k f).upsets = s.upsets := rfl
@[simp] theorem modGang_pf (s : State) (k : Nat) (f : Gang → Gang) : (modGang s k f).pf = s.pf := rfl
@[simp] theorem modGang_boot (s : State) (k : Nat) (f : Gang → Gang) : (modGang s k f).boot = s.boot := rfl
@[simp] theorem modGang_cox (s : State) (k : Nat) (f : Gang → Gang) : (modGang s k f).cox = s.cox := rfl
@[simp] theorem modGang_synt (s : State) (k : Nat) (f : Gang → Gang) : (modGang s k f).synt = s.synt := rfl
@[simp] theorem modGang_disciplined (s : State) (k : Nat) (f : Gang → Gang) : (modGang s k f).disciplined = s.disciplined := rfl
@[simp] theorem modGang_syntOff (s : State) (k : Nat) (f : Gang → Gang) : (modGang s k f).syntOff = s.syntOff := rfl
@[simp] theorem modGang_syntAcc (s : State) (k : Nat) (f : Gang → Gang) : (modGang s k f).syntAcc = s.syntAcc := rfl
@[simp] theorem modGang_stamp (s : State) (k : Nat) (f : Gang → Gang) : (modGang s k f).stamp = s.stamp := rfl
@[simp] theorem modGang_robin (s : State) (k : Nat) (f : Gang → Gang) : (modGang s k f).robin = s.robin := rfl
@[simp] theorem modGang_nextId (s : State) (k : Nat) (f : Gang → Gang) : (modGang s k f).nextId = s.nextId := rfl
@[simp] theorem modGang_fresh (s : State) (k : Nat) (f : Gang → Gang) : (modGang s k f).fresh = s.fresh := rfl
@[simp] theorem modGang_written (s : State) (k : Nat) (f : Gang → Gang) : (modGang s k f).written = s.written := rfl
@[simp] theorem modGang_agenda (s : State) (k : Nat) (f : Gang → Gang) : (modGang s k f).agenda = s.agenda := rfl
@[simp] theorem modGang_cur (s : State) (k : Nat) (f : Gang → Gang) : (modGang s k f).cur = s.cur := rfl
@[simp] theorem modGang_seqCur (s : State) (k : Nat) (f : Gang → Gang) : (modGang s k f).seqCur = s.seqCur := rfl
@[simp] theorem modGang_rvCur (s : State) (k : Nat) (f : Gang → Gang) : (modGang s k f).rvCur = s.rvCur := rfl

/-! ## modGrid -/

@[simp] theorem modGrid_mem (s : State) (k : Nat) (f : Grid → Grid) : (modGrid s k f).mem = s.mem := rfl
@[simp] theorem modGrid_poison (s : State) (k : Nat) (f : Grid → Grid) : (modGrid s k f).poison = s.poison := rfl
@[simp] theorem modGrid_empties (s : State) (k : Nat) (f : Grid → Grid) : (modGrid s k f).empties = s.empties := rfl
@[simp] theorem modGrid_tests (s : State) (k : Nat) (f : Grid → Grid) : (modGrid s k f).tests = s.tests := rfl
@[simp] theorem modGrid_cmnTags (s : State) (k : Nat) (f : Grid → Grid) : (modGrid s k f).cmnTags = s.cmnTags := rfl
@[simp] theorem modGrid_versions (s : State) (k : Nat) (f : Grid → Grid) : (modGrid s k f).versions = s.versions := rfl
@[simp] theorem modGrid_groups (s : State) (k : Nat) (f : Grid → Grid) : (modGrid s k f).groups = s.groups := rfl
@[simp] theorem modGrid_teams (s : State) (k : Nat) (f : Grid → Grid) : (modGrid s k f).teams = s.teams := rfl
@[simp] theorem modGrid_gangs (s : State) (k : Nat) (f : Grid → Grid) : (modGrid s k f).gangs = s.gangs := rfl
@[simp] theorem modGrid_contexts (s : State) (k : Nat) (f : Grid → Grid) : (modGrid s k f).contexts = s.contexts := rfl
@[simp] theorem modGrid_funcs (s : State) (k : Nat) (f : Grid → Grid) : (modGrid s k f).funcs = s.funcs := rfl
@[simp] theorem modGrid_dies (s : State) (k : Nat) (f : Grid → Grid) : (modGrid s k f).dies = s.dies := rfl
@[simp] theorem modGrid_rv (s : State) (k : Nat) (f : Grid → Grid) : (modGrid s k f).rv = s.rv := rfl
@[simp] theorem modGrid_transfers (s : State) (k : Nat) (f : Grid → Grid) : (modGrid s k f).transfers = s.transfers := rfl
@[simp] theorem modGrid_requests (s : State) (k : Nat) (f : Grid → Grid) : (modGrid s k f).requests = s.requests := rfl
@[simp] theorem modGrid_ncopies (s : State) (k : Nat) (f : Grid → Grid) : (modGrid s k f).ncopies = s.ncopies := rfl
@[simp] theorem modGrid_rlanes (s : State) (k : Nat) (f : Grid → Grid) : (modGrid s k f).rlanes = s.rlanes := rfl
@[simp] theorem modGrid_mail (s : State) (k : Nat) (f : Grid → Grid) : (modGrid s k f).mail = s.mail := rfl
@[simp] theorem modGrid_outbox (s : State) (k : Nat) (f : Grid → Grid) : (modGrid s k f).outbox = s.outbox := rfl
@[simp] theorem modGrid_mailSeq (s : State) (k : Nat) (f : Grid → Grid) : (modGrid s k f).mailSeq = s.mailSeq := rfl
@[simp] theorem modGrid_mailInt (s : State) (k : Nat) (f : Grid → Grid) : (modGrid s k f).mailInt = s.mailInt := rfl
@[simp] theorem modGrid_doorbell (s : State) (k : Nat) (f : Grid → Grid) : (modGrid s k f).doorbell = s.doorbell := rfl
@[simp] theorem modGrid_sessions (s : State) (k : Nat) (f : Grid → Grid) : (modGrid s k f).sessions = s.sessions := rfl
@[simp] theorem modGrid_replies (s : State) (k : Nat) (f : Grid → Grid) : (modGrid s k f).replies = s.replies := rfl
@[simp] theorem modGrid_streams (s : State) (k : Nat) (f : Grid → Grid) : (modGrid s k f).streams = s.streams := rfl
@[simp] theorem modGrid_updates (s : State) (k : Nat) (f : Grid → Grid) : (modGrid s k f).updates = s.updates := rfl
@[simp] theorem modGrid_backing (s : State) (k : Nat) (f : Grid → Grid) : (modGrid s k f).backing = s.backing := rfl
@[simp] theorem modGrid_rehomes (s : State) (k : Nat) (f : Grid → Grid) : (modGrid s k f).rehomes = s.rehomes := rfl
@[simp] theorem modGrid_planeFaults (s : State) (k : Nat) (f : Grid → Grid) : (modGrid s k f).planeFaults = s.planeFaults := rfl
@[simp] theorem modGrid_retired (s : State) (k : Nat) (f : Grid → Grid) : (modGrid s k f).retired = s.retired := rfl
@[simp] theorem modGrid_liveInst (s : State) (k : Nat) (f : Grid → Grid) : (modGrid s k f).liveInst = s.liveInst := rfl
@[simp] theorem modGrid_instSeq (s : State) (k : Nat) (f : Grid → Grid) : (modGrid s k f).instSeq = s.instSeq := rfl
@[simp] theorem modGrid_msix (s : State) (k : Nat) (f : Grid → Grid) : (modGrid s k f).msix = s.msix := rfl
@[simp] theorem modGrid_lastRead (s : State) (k : Nat) (f : Grid → Grid) : (modGrid s k f).lastRead = s.lastRead := rfl
@[simp] theorem modGrid_images (s : State) (k : Nat) (f : Grid → Grid) : (modGrid s k f).images = s.images := rfl
@[simp] theorem modGrid_dumps (s : State) (k : Nat) (f : Grid → Grid) : (modGrid s k f).dumps = s.dumps := rfl
@[simp] theorem modGrid_console (s : State) (k : Nat) (f : Grid → Grid) : (modGrid s k f).console = s.console := rfl
@[simp] theorem modGrid_upsets (s : State) (k : Nat) (f : Grid → Grid) : (modGrid s k f).upsets = s.upsets := rfl
@[simp] theorem modGrid_pf (s : State) (k : Nat) (f : Grid → Grid) : (modGrid s k f).pf = s.pf := rfl
@[simp] theorem modGrid_boot (s : State) (k : Nat) (f : Grid → Grid) : (modGrid s k f).boot = s.boot := rfl
@[simp] theorem modGrid_cox (s : State) (k : Nat) (f : Grid → Grid) : (modGrid s k f).cox = s.cox := rfl
@[simp] theorem modGrid_synt (s : State) (k : Nat) (f : Grid → Grid) : (modGrid s k f).synt = s.synt := rfl
@[simp] theorem modGrid_disciplined (s : State) (k : Nat) (f : Grid → Grid) : (modGrid s k f).disciplined = s.disciplined := rfl
@[simp] theorem modGrid_syntOff (s : State) (k : Nat) (f : Grid → Grid) : (modGrid s k f).syntOff = s.syntOff := rfl
@[simp] theorem modGrid_syntAcc (s : State) (k : Nat) (f : Grid → Grid) : (modGrid s k f).syntAcc = s.syntAcc := rfl
@[simp] theorem modGrid_stamp (s : State) (k : Nat) (f : Grid → Grid) : (modGrid s k f).stamp = s.stamp := rfl
@[simp] theorem modGrid_robin (s : State) (k : Nat) (f : Grid → Grid) : (modGrid s k f).robin = s.robin := rfl
@[simp] theorem modGrid_nextId (s : State) (k : Nat) (f : Grid → Grid) : (modGrid s k f).nextId = s.nextId := rfl
@[simp] theorem modGrid_fresh (s : State) (k : Nat) (f : Grid → Grid) : (modGrid s k f).fresh = s.fresh := rfl
@[simp] theorem modGrid_written (s : State) (k : Nat) (f : Grid → Grid) : (modGrid s k f).written = s.written := rfl
@[simp] theorem modGrid_agenda (s : State) (k : Nat) (f : Grid → Grid) : (modGrid s k f).agenda = s.agenda := rfl
@[simp] theorem modGrid_cur (s : State) (k : Nat) (f : Grid → Grid) : (modGrid s k f).cur = s.cur := rfl
@[simp] theorem modGrid_seqCur (s : State) (k : Nat) (f : Grid → Grid) : (modGrid s k f).seqCur = s.seqCur := rfl
@[simp] theorem modGrid_rvCur (s : State) (k : Nat) (f : Grid → Grid) : (modGrid s k f).rvCur = s.rvCur := rfl

/-! ## modCtx -/

@[simp] theorem modCtx_mem (s : State) (asid : Nat) (f : Context → Context) : (modCtx s asid f).mem = s.mem := rfl
@[simp] theorem modCtx_poison (s : State) (asid : Nat) (f : Context → Context) : (modCtx s asid f).poison = s.poison := rfl
@[simp] theorem modCtx_empties (s : State) (asid : Nat) (f : Context → Context) : (modCtx s asid f).empties = s.empties := rfl
@[simp] theorem modCtx_tests (s : State) (asid : Nat) (f : Context → Context) : (modCtx s asid f).tests = s.tests := rfl
@[simp] theorem modCtx_cmnTags (s : State) (asid : Nat) (f : Context → Context) : (modCtx s asid f).cmnTags = s.cmnTags := rfl
@[simp] theorem modCtx_versions (s : State) (asid : Nat) (f : Context → Context) : (modCtx s asid f).versions = s.versions := rfl
@[simp] theorem modCtx_groups (s : State) (asid : Nat) (f : Context → Context) : (modCtx s asid f).groups = s.groups := rfl
@[simp] theorem modCtx_teams (s : State) (asid : Nat) (f : Context → Context) : (modCtx s asid f).teams = s.teams := rfl
@[simp] theorem modCtx_gangs (s : State) (asid : Nat) (f : Context → Context) : (modCtx s asid f).gangs = s.gangs := rfl
@[simp] theorem modCtx_grids (s : State) (asid : Nat) (f : Context → Context) : (modCtx s asid f).grids = s.grids := rfl
@[simp] theorem modCtx_funcs (s : State) (asid : Nat) (f : Context → Context) : (modCtx s asid f).funcs = s.funcs := rfl
@[simp] theorem modCtx_dies (s : State) (asid : Nat) (f : Context → Context) : (modCtx s asid f).dies = s.dies := rfl
@[simp] theorem modCtx_rv (s : State) (asid : Nat) (f : Context → Context) : (modCtx s asid f).rv = s.rv := rfl
@[simp] theorem modCtx_transfers (s : State) (asid : Nat) (f : Context → Context) : (modCtx s asid f).transfers = s.transfers := rfl
@[simp] theorem modCtx_requests (s : State) (asid : Nat) (f : Context → Context) : (modCtx s asid f).requests = s.requests := rfl
@[simp] theorem modCtx_ncopies (s : State) (asid : Nat) (f : Context → Context) : (modCtx s asid f).ncopies = s.ncopies := rfl
@[simp] theorem modCtx_rlanes (s : State) (asid : Nat) (f : Context → Context) : (modCtx s asid f).rlanes = s.rlanes := rfl
@[simp] theorem modCtx_mail (s : State) (asid : Nat) (f : Context → Context) : (modCtx s asid f).mail = s.mail := rfl
@[simp] theorem modCtx_outbox (s : State) (asid : Nat) (f : Context → Context) : (modCtx s asid f).outbox = s.outbox := rfl
@[simp] theorem modCtx_mailSeq (s : State) (asid : Nat) (f : Context → Context) : (modCtx s asid f).mailSeq = s.mailSeq := rfl
@[simp] theorem modCtx_mailInt (s : State) (asid : Nat) (f : Context → Context) : (modCtx s asid f).mailInt = s.mailInt := rfl
@[simp] theorem modCtx_doorbell (s : State) (asid : Nat) (f : Context → Context) : (modCtx s asid f).doorbell = s.doorbell := rfl
@[simp] theorem modCtx_sessions (s : State) (asid : Nat) (f : Context → Context) : (modCtx s asid f).sessions = s.sessions := rfl
@[simp] theorem modCtx_replies (s : State) (asid : Nat) (f : Context → Context) : (modCtx s asid f).replies = s.replies := rfl
@[simp] theorem modCtx_streams (s : State) (asid : Nat) (f : Context → Context) : (modCtx s asid f).streams = s.streams := rfl
@[simp] theorem modCtx_updates (s : State) (asid : Nat) (f : Context → Context) : (modCtx s asid f).updates = s.updates := rfl
@[simp] theorem modCtx_backing (s : State) (asid : Nat) (f : Context → Context) : (modCtx s asid f).backing = s.backing := rfl
@[simp] theorem modCtx_rehomes (s : State) (asid : Nat) (f : Context → Context) : (modCtx s asid f).rehomes = s.rehomes := rfl
@[simp] theorem modCtx_planeFaults (s : State) (asid : Nat) (f : Context → Context) : (modCtx s asid f).planeFaults = s.planeFaults := rfl
@[simp] theorem modCtx_retired (s : State) (asid : Nat) (f : Context → Context) : (modCtx s asid f).retired = s.retired := rfl
@[simp] theorem modCtx_liveInst (s : State) (asid : Nat) (f : Context → Context) : (modCtx s asid f).liveInst = s.liveInst := rfl
@[simp] theorem modCtx_instSeq (s : State) (asid : Nat) (f : Context → Context) : (modCtx s asid f).instSeq = s.instSeq := rfl
@[simp] theorem modCtx_msix (s : State) (asid : Nat) (f : Context → Context) : (modCtx s asid f).msix = s.msix := rfl
@[simp] theorem modCtx_lastRead (s : State) (asid : Nat) (f : Context → Context) : (modCtx s asid f).lastRead = s.lastRead := rfl
@[simp] theorem modCtx_images (s : State) (asid : Nat) (f : Context → Context) : (modCtx s asid f).images = s.images := rfl
@[simp] theorem modCtx_dumps (s : State) (asid : Nat) (f : Context → Context) : (modCtx s asid f).dumps = s.dumps := rfl
@[simp] theorem modCtx_console (s : State) (asid : Nat) (f : Context → Context) : (modCtx s asid f).console = s.console := rfl
@[simp] theorem modCtx_upsets (s : State) (asid : Nat) (f : Context → Context) : (modCtx s asid f).upsets = s.upsets := rfl
@[simp] theorem modCtx_pf (s : State) (asid : Nat) (f : Context → Context) : (modCtx s asid f).pf = s.pf := rfl
@[simp] theorem modCtx_boot (s : State) (asid : Nat) (f : Context → Context) : (modCtx s asid f).boot = s.boot := rfl
@[simp] theorem modCtx_cox (s : State) (asid : Nat) (f : Context → Context) : (modCtx s asid f).cox = s.cox := rfl
@[simp] theorem modCtx_synt (s : State) (asid : Nat) (f : Context → Context) : (modCtx s asid f).synt = s.synt := rfl
@[simp] theorem modCtx_disciplined (s : State) (asid : Nat) (f : Context → Context) : (modCtx s asid f).disciplined = s.disciplined := rfl
@[simp] theorem modCtx_syntOff (s : State) (asid : Nat) (f : Context → Context) : (modCtx s asid f).syntOff = s.syntOff := rfl
@[simp] theorem modCtx_syntAcc (s : State) (asid : Nat) (f : Context → Context) : (modCtx s asid f).syntAcc = s.syntAcc := rfl
@[simp] theorem modCtx_stamp (s : State) (asid : Nat) (f : Context → Context) : (modCtx s asid f).stamp = s.stamp := rfl
@[simp] theorem modCtx_robin (s : State) (asid : Nat) (f : Context → Context) : (modCtx s asid f).robin = s.robin := rfl
@[simp] theorem modCtx_nextId (s : State) (asid : Nat) (f : Context → Context) : (modCtx s asid f).nextId = s.nextId := rfl
@[simp] theorem modCtx_fresh (s : State) (asid : Nat) (f : Context → Context) : (modCtx s asid f).fresh = s.fresh := rfl
@[simp] theorem modCtx_written (s : State) (asid : Nat) (f : Context → Context) : (modCtx s asid f).written = s.written := rfl
@[simp] theorem modCtx_agenda (s : State) (asid : Nat) (f : Context → Context) : (modCtx s asid f).agenda = s.agenda := rfl
@[simp] theorem modCtx_cur (s : State) (asid : Nat) (f : Context → Context) : (modCtx s asid f).cur = s.cur := rfl
@[simp] theorem modCtx_seqCur (s : State) (asid : Nat) (f : Context → Context) : (modCtx s asid f).seqCur = s.seqCur := rfl
@[simp] theorem modCtx_rvCur (s : State) (asid : Nat) (f : Context → Context) : (modCtx s asid f).rvCur = s.rvCur := rfl

/-! ## countEvent -/

@[simp] theorem countEvent_mem (s : State) (asid e n : Nat) : (countEvent s asid e n).mem = s.mem := rfl
@[simp] theorem countEvent_poison (s : State) (asid e n : Nat) : (countEvent s asid e n).poison = s.poison := rfl
@[simp] theorem countEvent_empties (s : State) (asid e n : Nat) : (countEvent s asid e n).empties = s.empties := rfl
@[simp] theorem countEvent_tests (s : State) (asid e n : Nat) : (countEvent s asid e n).tests = s.tests := rfl
@[simp] theorem countEvent_cmnTags (s : State) (asid e n : Nat) : (countEvent s asid e n).cmnTags = s.cmnTags := rfl
@[simp] theorem countEvent_versions (s : State) (asid e n : Nat) : (countEvent s asid e n).versions = s.versions := rfl
@[simp] theorem countEvent_groups (s : State) (asid e n : Nat) : (countEvent s asid e n).groups = s.groups := rfl
@[simp] theorem countEvent_teams (s : State) (asid e n : Nat) : (countEvent s asid e n).teams = s.teams := rfl
@[simp] theorem countEvent_gangs (s : State) (asid e n : Nat) : (countEvent s asid e n).gangs = s.gangs := rfl
@[simp] theorem countEvent_grids (s : State) (asid e n : Nat) : (countEvent s asid e n).grids = s.grids := rfl
@[simp] theorem countEvent_funcs (s : State) (asid e n : Nat) : (countEvent s asid e n).funcs = s.funcs := rfl
@[simp] theorem countEvent_dies (s : State) (asid e n : Nat) : (countEvent s asid e n).dies = s.dies := rfl
@[simp] theorem countEvent_rv (s : State) (asid e n : Nat) : (countEvent s asid e n).rv = s.rv := rfl
@[simp] theorem countEvent_transfers (s : State) (asid e n : Nat) : (countEvent s asid e n).transfers = s.transfers := rfl
@[simp] theorem countEvent_requests (s : State) (asid e n : Nat) : (countEvent s asid e n).requests = s.requests := rfl
@[simp] theorem countEvent_ncopies (s : State) (asid e n : Nat) : (countEvent s asid e n).ncopies = s.ncopies := rfl
@[simp] theorem countEvent_rlanes (s : State) (asid e n : Nat) : (countEvent s asid e n).rlanes = s.rlanes := rfl
@[simp] theorem countEvent_mail (s : State) (asid e n : Nat) : (countEvent s asid e n).mail = s.mail := rfl
@[simp] theorem countEvent_outbox (s : State) (asid e n : Nat) : (countEvent s asid e n).outbox = s.outbox := rfl
@[simp] theorem countEvent_mailSeq (s : State) (asid e n : Nat) : (countEvent s asid e n).mailSeq = s.mailSeq := rfl
@[simp] theorem countEvent_mailInt (s : State) (asid e n : Nat) : (countEvent s asid e n).mailInt = s.mailInt := rfl
@[simp] theorem countEvent_doorbell (s : State) (asid e n : Nat) : (countEvent s asid e n).doorbell = s.doorbell := rfl
@[simp] theorem countEvent_sessions (s : State) (asid e n : Nat) : (countEvent s asid e n).sessions = s.sessions := rfl
@[simp] theorem countEvent_replies (s : State) (asid e n : Nat) : (countEvent s asid e n).replies = s.replies := rfl
@[simp] theorem countEvent_streams (s : State) (asid e n : Nat) : (countEvent s asid e n).streams = s.streams := rfl
@[simp] theorem countEvent_updates (s : State) (asid e n : Nat) : (countEvent s asid e n).updates = s.updates := rfl
@[simp] theorem countEvent_backing (s : State) (asid e n : Nat) : (countEvent s asid e n).backing = s.backing := rfl
@[simp] theorem countEvent_rehomes (s : State) (asid e n : Nat) : (countEvent s asid e n).rehomes = s.rehomes := rfl
@[simp] theorem countEvent_planeFaults (s : State) (asid e n : Nat) : (countEvent s asid e n).planeFaults = s.planeFaults := rfl
@[simp] theorem countEvent_retired (s : State) (asid e n : Nat) : (countEvent s asid e n).retired = s.retired := rfl
@[simp] theorem countEvent_liveInst (s : State) (asid e n : Nat) : (countEvent s asid e n).liveInst = s.liveInst := rfl
@[simp] theorem countEvent_instSeq (s : State) (asid e n : Nat) : (countEvent s asid e n).instSeq = s.instSeq := rfl
@[simp] theorem countEvent_msix (s : State) (asid e n : Nat) : (countEvent s asid e n).msix = s.msix := rfl
@[simp] theorem countEvent_lastRead (s : State) (asid e n : Nat) : (countEvent s asid e n).lastRead = s.lastRead := rfl
@[simp] theorem countEvent_images (s : State) (asid e n : Nat) : (countEvent s asid e n).images = s.images := rfl
@[simp] theorem countEvent_dumps (s : State) (asid e n : Nat) : (countEvent s asid e n).dumps = s.dumps := rfl
@[simp] theorem countEvent_console (s : State) (asid e n : Nat) : (countEvent s asid e n).console = s.console := rfl
@[simp] theorem countEvent_upsets (s : State) (asid e n : Nat) : (countEvent s asid e n).upsets = s.upsets := rfl
@[simp] theorem countEvent_pf (s : State) (asid e n : Nat) : (countEvent s asid e n).pf = s.pf := rfl
@[simp] theorem countEvent_boot (s : State) (asid e n : Nat) : (countEvent s asid e n).boot = s.boot := rfl
@[simp] theorem countEvent_cox (s : State) (asid e n : Nat) : (countEvent s asid e n).cox = s.cox := rfl
@[simp] theorem countEvent_synt (s : State) (asid e n : Nat) : (countEvent s asid e n).synt = s.synt := rfl
@[simp] theorem countEvent_disciplined (s : State) (asid e n : Nat) : (countEvent s asid e n).disciplined = s.disciplined := rfl
@[simp] theorem countEvent_syntOff (s : State) (asid e n : Nat) : (countEvent s asid e n).syntOff = s.syntOff := rfl
@[simp] theorem countEvent_syntAcc (s : State) (asid e n : Nat) : (countEvent s asid e n).syntAcc = s.syntAcc := rfl
@[simp] theorem countEvent_stamp (s : State) (asid e n : Nat) : (countEvent s asid e n).stamp = s.stamp := rfl
@[simp] theorem countEvent_robin (s : State) (asid e n : Nat) : (countEvent s asid e n).robin = s.robin := rfl
@[simp] theorem countEvent_nextId (s : State) (asid e n : Nat) : (countEvent s asid e n).nextId = s.nextId := rfl
@[simp] theorem countEvent_fresh (s : State) (asid e n : Nat) : (countEvent s asid e n).fresh = s.fresh := rfl
@[simp] theorem countEvent_written (s : State) (asid e n : Nat) : (countEvent s asid e n).written = s.written := rfl
@[simp] theorem countEvent_agenda (s : State) (asid e n : Nat) : (countEvent s asid e n).agenda = s.agenda := rfl
@[simp] theorem countEvent_cur (s : State) (asid e n : Nat) : (countEvent s asid e n).cur = s.cur := rfl
@[simp] theorem countEvent_seqCur (s : State) (asid e n : Nat) : (countEvent s asid e n).seqCur = s.seqCur := rfl
@[simp] theorem countEvent_rvCur (s : State) (asid e n : Nat) : (countEvent s asid e n).rvCur = s.rvCur := rfl

/-! ## modFunc -/

@[simp] theorem modFunc_mem (s : State) (vf : Nat) (f : VFunc → VFunc) : (modFunc s vf f).mem = s.mem := rfl
@[simp] theorem modFunc_poison (s : State) (vf : Nat) (f : VFunc → VFunc) : (modFunc s vf f).poison = s.poison := rfl
@[simp] theorem modFunc_empties (s : State) (vf : Nat) (f : VFunc → VFunc) : (modFunc s vf f).empties = s.empties := rfl
@[simp] theorem modFunc_tests (s : State) (vf : Nat) (f : VFunc → VFunc) : (modFunc s vf f).tests = s.tests := rfl
@[simp] theorem modFunc_cmnTags (s : State) (vf : Nat) (f : VFunc → VFunc) : (modFunc s vf f).cmnTags = s.cmnTags := rfl
@[simp] theorem modFunc_versions (s : State) (vf : Nat) (f : VFunc → VFunc) : (modFunc s vf f).versions = s.versions := rfl
@[simp] theorem modFunc_groups (s : State) (vf : Nat) (f : VFunc → VFunc) : (modFunc s vf f).groups = s.groups := rfl
@[simp] theorem modFunc_teams (s : State) (vf : Nat) (f : VFunc → VFunc) : (modFunc s vf f).teams = s.teams := rfl
@[simp] theorem modFunc_gangs (s : State) (vf : Nat) (f : VFunc → VFunc) : (modFunc s vf f).gangs = s.gangs := rfl
@[simp] theorem modFunc_grids (s : State) (vf : Nat) (f : VFunc → VFunc) : (modFunc s vf f).grids = s.grids := rfl
@[simp] theorem modFunc_contexts (s : State) (vf : Nat) (f : VFunc → VFunc) : (modFunc s vf f).contexts = s.contexts := rfl
@[simp] theorem modFunc_dies (s : State) (vf : Nat) (f : VFunc → VFunc) : (modFunc s vf f).dies = s.dies := rfl
@[simp] theorem modFunc_rv (s : State) (vf : Nat) (f : VFunc → VFunc) : (modFunc s vf f).rv = s.rv := rfl
@[simp] theorem modFunc_transfers (s : State) (vf : Nat) (f : VFunc → VFunc) : (modFunc s vf f).transfers = s.transfers := rfl
@[simp] theorem modFunc_requests (s : State) (vf : Nat) (f : VFunc → VFunc) : (modFunc s vf f).requests = s.requests := rfl
@[simp] theorem modFunc_ncopies (s : State) (vf : Nat) (f : VFunc → VFunc) : (modFunc s vf f).ncopies = s.ncopies := rfl
@[simp] theorem modFunc_rlanes (s : State) (vf : Nat) (f : VFunc → VFunc) : (modFunc s vf f).rlanes = s.rlanes := rfl
@[simp] theorem modFunc_mail (s : State) (vf : Nat) (f : VFunc → VFunc) : (modFunc s vf f).mail = s.mail := rfl
@[simp] theorem modFunc_outbox (s : State) (vf : Nat) (f : VFunc → VFunc) : (modFunc s vf f).outbox = s.outbox := rfl
@[simp] theorem modFunc_mailSeq (s : State) (vf : Nat) (f : VFunc → VFunc) : (modFunc s vf f).mailSeq = s.mailSeq := rfl
@[simp] theorem modFunc_mailInt (s : State) (vf : Nat) (f : VFunc → VFunc) : (modFunc s vf f).mailInt = s.mailInt := rfl
@[simp] theorem modFunc_doorbell (s : State) (vf : Nat) (f : VFunc → VFunc) : (modFunc s vf f).doorbell = s.doorbell := rfl
@[simp] theorem modFunc_sessions (s : State) (vf : Nat) (f : VFunc → VFunc) : (modFunc s vf f).sessions = s.sessions := rfl
@[simp] theorem modFunc_replies (s : State) (vf : Nat) (f : VFunc → VFunc) : (modFunc s vf f).replies = s.replies := rfl
@[simp] theorem modFunc_streams (s : State) (vf : Nat) (f : VFunc → VFunc) : (modFunc s vf f).streams = s.streams := rfl
@[simp] theorem modFunc_updates (s : State) (vf : Nat) (f : VFunc → VFunc) : (modFunc s vf f).updates = s.updates := rfl
@[simp] theorem modFunc_backing (s : State) (vf : Nat) (f : VFunc → VFunc) : (modFunc s vf f).backing = s.backing := rfl
@[simp] theorem modFunc_rehomes (s : State) (vf : Nat) (f : VFunc → VFunc) : (modFunc s vf f).rehomes = s.rehomes := rfl
@[simp] theorem modFunc_planeFaults (s : State) (vf : Nat) (f : VFunc → VFunc) : (modFunc s vf f).planeFaults = s.planeFaults := rfl
@[simp] theorem modFunc_retired (s : State) (vf : Nat) (f : VFunc → VFunc) : (modFunc s vf f).retired = s.retired := rfl
@[simp] theorem modFunc_liveInst (s : State) (vf : Nat) (f : VFunc → VFunc) : (modFunc s vf f).liveInst = s.liveInst := rfl
@[simp] theorem modFunc_instSeq (s : State) (vf : Nat) (f : VFunc → VFunc) : (modFunc s vf f).instSeq = s.instSeq := rfl
@[simp] theorem modFunc_msix (s : State) (vf : Nat) (f : VFunc → VFunc) : (modFunc s vf f).msix = s.msix := rfl
@[simp] theorem modFunc_lastRead (s : State) (vf : Nat) (f : VFunc → VFunc) : (modFunc s vf f).lastRead = s.lastRead := rfl
@[simp] theorem modFunc_images (s : State) (vf : Nat) (f : VFunc → VFunc) : (modFunc s vf f).images = s.images := rfl
@[simp] theorem modFunc_dumps (s : State) (vf : Nat) (f : VFunc → VFunc) : (modFunc s vf f).dumps = s.dumps := rfl
@[simp] theorem modFunc_console (s : State) (vf : Nat) (f : VFunc → VFunc) : (modFunc s vf f).console = s.console := rfl
@[simp] theorem modFunc_upsets (s : State) (vf : Nat) (f : VFunc → VFunc) : (modFunc s vf f).upsets = s.upsets := rfl
@[simp] theorem modFunc_pf (s : State) (vf : Nat) (f : VFunc → VFunc) : (modFunc s vf f).pf = s.pf := rfl
@[simp] theorem modFunc_boot (s : State) (vf : Nat) (f : VFunc → VFunc) : (modFunc s vf f).boot = s.boot := rfl
@[simp] theorem modFunc_cox (s : State) (vf : Nat) (f : VFunc → VFunc) : (modFunc s vf f).cox = s.cox := rfl
@[simp] theorem modFunc_synt (s : State) (vf : Nat) (f : VFunc → VFunc) : (modFunc s vf f).synt = s.synt := rfl
@[simp] theorem modFunc_disciplined (s : State) (vf : Nat) (f : VFunc → VFunc) : (modFunc s vf f).disciplined = s.disciplined := rfl
@[simp] theorem modFunc_syntOff (s : State) (vf : Nat) (f : VFunc → VFunc) : (modFunc s vf f).syntOff = s.syntOff := rfl
@[simp] theorem modFunc_syntAcc (s : State) (vf : Nat) (f : VFunc → VFunc) : (modFunc s vf f).syntAcc = s.syntAcc := rfl
@[simp] theorem modFunc_stamp (s : State) (vf : Nat) (f : VFunc → VFunc) : (modFunc s vf f).stamp = s.stamp := rfl
@[simp] theorem modFunc_robin (s : State) (vf : Nat) (f : VFunc → VFunc) : (modFunc s vf f).robin = s.robin := rfl
@[simp] theorem modFunc_nextId (s : State) (vf : Nat) (f : VFunc → VFunc) : (modFunc s vf f).nextId = s.nextId := rfl
@[simp] theorem modFunc_fresh (s : State) (vf : Nat) (f : VFunc → VFunc) : (modFunc s vf f).fresh = s.fresh := rfl
@[simp] theorem modFunc_written (s : State) (vf : Nat) (f : VFunc → VFunc) : (modFunc s vf f).written = s.written := rfl
@[simp] theorem modFunc_agenda (s : State) (vf : Nat) (f : VFunc → VFunc) : (modFunc s vf f).agenda = s.agenda := rfl
@[simp] theorem modFunc_cur (s : State) (vf : Nat) (f : VFunc → VFunc) : (modFunc s vf f).cur = s.cur := rfl
@[simp] theorem modFunc_seqCur (s : State) (vf : Nat) (f : VFunc → VFunc) : (modFunc s vf f).seqCur = s.seqCur := rfl
@[simp] theorem modFunc_rvCur (s : State) (vf : Nat) (f : VFunc → VFunc) : (modFunc s vf f).rvCur = s.rvCur := rfl

/-! ## modDie -/

@[simp] theorem modDie_mem (s : State) (d : Nat) (f : Die → Die) : (modDie s d f).mem = s.mem := rfl
@[simp] theorem modDie_poison (s : State) (d : Nat) (f : Die → Die) : (modDie s d f).poison = s.poison := rfl
@[simp] theorem modDie_empties (s : State) (d : Nat) (f : Die → Die) : (modDie s d f).empties = s.empties := rfl
@[simp] theorem modDie_tests (s : State) (d : Nat) (f : Die → Die) : (modDie s d f).tests = s.tests := rfl
@[simp] theorem modDie_cmnTags (s : State) (d : Nat) (f : Die → Die) : (modDie s d f).cmnTags = s.cmnTags := rfl
@[simp] theorem modDie_versions (s : State) (d : Nat) (f : Die → Die) : (modDie s d f).versions = s.versions := rfl
@[simp] theorem modDie_groups (s : State) (d : Nat) (f : Die → Die) : (modDie s d f).groups = s.groups := rfl
@[simp] theorem modDie_teams (s : State) (d : Nat) (f : Die → Die) : (modDie s d f).teams = s.teams := rfl
@[simp] theorem modDie_gangs (s : State) (d : Nat) (f : Die → Die) : (modDie s d f).gangs = s.gangs := rfl
@[simp] theorem modDie_grids (s : State) (d : Nat) (f : Die → Die) : (modDie s d f).grids = s.grids := rfl
@[simp] theorem modDie_contexts (s : State) (d : Nat) (f : Die → Die) : (modDie s d f).contexts = s.contexts := rfl
@[simp] theorem modDie_funcs (s : State) (d : Nat) (f : Die → Die) : (modDie s d f).funcs = s.funcs := rfl
@[simp] theorem modDie_rv (s : State) (d : Nat) (f : Die → Die) : (modDie s d f).rv = s.rv := rfl
@[simp] theorem modDie_transfers (s : State) (d : Nat) (f : Die → Die) : (modDie s d f).transfers = s.transfers := rfl
@[simp] theorem modDie_requests (s : State) (d : Nat) (f : Die → Die) : (modDie s d f).requests = s.requests := rfl
@[simp] theorem modDie_ncopies (s : State) (d : Nat) (f : Die → Die) : (modDie s d f).ncopies = s.ncopies := rfl
@[simp] theorem modDie_rlanes (s : State) (d : Nat) (f : Die → Die) : (modDie s d f).rlanes = s.rlanes := rfl
@[simp] theorem modDie_mail (s : State) (d : Nat) (f : Die → Die) : (modDie s d f).mail = s.mail := rfl
@[simp] theorem modDie_outbox (s : State) (d : Nat) (f : Die → Die) : (modDie s d f).outbox = s.outbox := rfl
@[simp] theorem modDie_mailSeq (s : State) (d : Nat) (f : Die → Die) : (modDie s d f).mailSeq = s.mailSeq := rfl
@[simp] theorem modDie_mailInt (s : State) (d : Nat) (f : Die → Die) : (modDie s d f).mailInt = s.mailInt := rfl
@[simp] theorem modDie_doorbell (s : State) (d : Nat) (f : Die → Die) : (modDie s d f).doorbell = s.doorbell := rfl
@[simp] theorem modDie_sessions (s : State) (d : Nat) (f : Die → Die) : (modDie s d f).sessions = s.sessions := rfl
@[simp] theorem modDie_replies (s : State) (d : Nat) (f : Die → Die) : (modDie s d f).replies = s.replies := rfl
@[simp] theorem modDie_streams (s : State) (d : Nat) (f : Die → Die) : (modDie s d f).streams = s.streams := rfl
@[simp] theorem modDie_updates (s : State) (d : Nat) (f : Die → Die) : (modDie s d f).updates = s.updates := rfl
@[simp] theorem modDie_backing (s : State) (d : Nat) (f : Die → Die) : (modDie s d f).backing = s.backing := rfl
@[simp] theorem modDie_rehomes (s : State) (d : Nat) (f : Die → Die) : (modDie s d f).rehomes = s.rehomes := rfl
@[simp] theorem modDie_planeFaults (s : State) (d : Nat) (f : Die → Die) : (modDie s d f).planeFaults = s.planeFaults := rfl
@[simp] theorem modDie_retired (s : State) (d : Nat) (f : Die → Die) : (modDie s d f).retired = s.retired := rfl
@[simp] theorem modDie_liveInst (s : State) (d : Nat) (f : Die → Die) : (modDie s d f).liveInst = s.liveInst := rfl
@[simp] theorem modDie_instSeq (s : State) (d : Nat) (f : Die → Die) : (modDie s d f).instSeq = s.instSeq := rfl
@[simp] theorem modDie_msix (s : State) (d : Nat) (f : Die → Die) : (modDie s d f).msix = s.msix := rfl
@[simp] theorem modDie_lastRead (s : State) (d : Nat) (f : Die → Die) : (modDie s d f).lastRead = s.lastRead := rfl
@[simp] theorem modDie_images (s : State) (d : Nat) (f : Die → Die) : (modDie s d f).images = s.images := rfl
@[simp] theorem modDie_dumps (s : State) (d : Nat) (f : Die → Die) : (modDie s d f).dumps = s.dumps := rfl
@[simp] theorem modDie_console (s : State) (d : Nat) (f : Die → Die) : (modDie s d f).console = s.console := rfl
@[simp] theorem modDie_upsets (s : State) (d : Nat) (f : Die → Die) : (modDie s d f).upsets = s.upsets := rfl
@[simp] theorem modDie_pf (s : State) (d : Nat) (f : Die → Die) : (modDie s d f).pf = s.pf := rfl
@[simp] theorem modDie_boot (s : State) (d : Nat) (f : Die → Die) : (modDie s d f).boot = s.boot := rfl
@[simp] theorem modDie_cox (s : State) (d : Nat) (f : Die → Die) : (modDie s d f).cox = s.cox := rfl
@[simp] theorem modDie_synt (s : State) (d : Nat) (f : Die → Die) : (modDie s d f).synt = s.synt := rfl
@[simp] theorem modDie_disciplined (s : State) (d : Nat) (f : Die → Die) : (modDie s d f).disciplined = s.disciplined := rfl
@[simp] theorem modDie_syntOff (s : State) (d : Nat) (f : Die → Die) : (modDie s d f).syntOff = s.syntOff := rfl
@[simp] theorem modDie_syntAcc (s : State) (d : Nat) (f : Die → Die) : (modDie s d f).syntAcc = s.syntAcc := rfl
@[simp] theorem modDie_stamp (s : State) (d : Nat) (f : Die → Die) : (modDie s d f).stamp = s.stamp := rfl
@[simp] theorem modDie_robin (s : State) (d : Nat) (f : Die → Die) : (modDie s d f).robin = s.robin := rfl
@[simp] theorem modDie_nextId (s : State) (d : Nat) (f : Die → Die) : (modDie s d f).nextId = s.nextId := rfl
@[simp] theorem modDie_fresh (s : State) (d : Nat) (f : Die → Die) : (modDie s d f).fresh = s.fresh := rfl
@[simp] theorem modDie_written (s : State) (d : Nat) (f : Die → Die) : (modDie s d f).written = s.written := rfl
@[simp] theorem modDie_agenda (s : State) (d : Nat) (f : Die → Die) : (modDie s d f).agenda = s.agenda := rfl
@[simp] theorem modDie_cur (s : State) (d : Nat) (f : Die → Die) : (modDie s d f).cur = s.cur := rfl
@[simp] theorem modDie_seqCur (s : State) (d : Nat) (f : Die → Die) : (modDie s d f).seqCur = s.seqCur := rfl
@[simp] theorem modDie_rvCur (s : State) (d : Nat) (f : Die → Die) : (modDie s d f).rvCur = s.rvCur := rfl

/-! ## putBytes -/

@[simp] theorem putBytes_empties (s : State) (key n v : Nat) : (putBytes s key n v).empties = s.empties := rfl
@[simp] theorem putBytes_tests (s : State) (key n v : Nat) : (putBytes s key n v).tests = s.tests := rfl
@[simp] theorem putBytes_cmnTags (s : State) (key n v : Nat) : (putBytes s key n v).cmnTags = s.cmnTags := rfl
@[simp] theorem putBytes_versions (s : State) (key n v : Nat) : (putBytes s key n v).versions = s.versions := rfl
@[simp] theorem putBytes_groups (s : State) (key n v : Nat) : (putBytes s key n v).groups = s.groups := rfl
@[simp] theorem putBytes_teams (s : State) (key n v : Nat) : (putBytes s key n v).teams = s.teams := rfl
@[simp] theorem putBytes_gangs (s : State) (key n v : Nat) : (putBytes s key n v).gangs = s.gangs := rfl
@[simp] theorem putBytes_grids (s : State) (key n v : Nat) : (putBytes s key n v).grids = s.grids := rfl
@[simp] theorem putBytes_contexts (s : State) (key n v : Nat) : (putBytes s key n v).contexts = s.contexts := rfl
@[simp] theorem putBytes_funcs (s : State) (key n v : Nat) : (putBytes s key n v).funcs = s.funcs := rfl
@[simp] theorem putBytes_dies (s : State) (key n v : Nat) : (putBytes s key n v).dies = s.dies := rfl
@[simp] theorem putBytes_rv (s : State) (key n v : Nat) : (putBytes s key n v).rv = s.rv := rfl
@[simp] theorem putBytes_transfers (s : State) (key n v : Nat) : (putBytes s key n v).transfers = s.transfers := rfl
@[simp] theorem putBytes_requests (s : State) (key n v : Nat) : (putBytes s key n v).requests = s.requests := rfl
@[simp] theorem putBytes_ncopies (s : State) (key n v : Nat) : (putBytes s key n v).ncopies = s.ncopies := rfl
@[simp] theorem putBytes_rlanes (s : State) (key n v : Nat) : (putBytes s key n v).rlanes = s.rlanes := rfl
@[simp] theorem putBytes_mail (s : State) (key n v : Nat) : (putBytes s key n v).mail = s.mail := rfl
@[simp] theorem putBytes_outbox (s : State) (key n v : Nat) : (putBytes s key n v).outbox = s.outbox := rfl
@[simp] theorem putBytes_mailSeq (s : State) (key n v : Nat) : (putBytes s key n v).mailSeq = s.mailSeq := rfl
@[simp] theorem putBytes_mailInt (s : State) (key n v : Nat) : (putBytes s key n v).mailInt = s.mailInt := rfl
@[simp] theorem putBytes_doorbell (s : State) (key n v : Nat) : (putBytes s key n v).doorbell = s.doorbell := rfl
@[simp] theorem putBytes_sessions (s : State) (key n v : Nat) : (putBytes s key n v).sessions = s.sessions := rfl
@[simp] theorem putBytes_replies (s : State) (key n v : Nat) : (putBytes s key n v).replies = s.replies := rfl
@[simp] theorem putBytes_streams (s : State) (key n v : Nat) : (putBytes s key n v).streams = s.streams := rfl
@[simp] theorem putBytes_updates (s : State) (key n v : Nat) : (putBytes s key n v).updates = s.updates := rfl
@[simp] theorem putBytes_backing (s : State) (key n v : Nat) : (putBytes s key n v).backing = s.backing := rfl
@[simp] theorem putBytes_rehomes (s : State) (key n v : Nat) : (putBytes s key n v).rehomes = s.rehomes := rfl
@[simp] theorem putBytes_planeFaults (s : State) (key n v : Nat) : (putBytes s key n v).planeFaults = s.planeFaults := rfl
@[simp] theorem putBytes_retired (s : State) (key n v : Nat) : (putBytes s key n v).retired = s.retired := rfl
@[simp] theorem putBytes_liveInst (s : State) (key n v : Nat) : (putBytes s key n v).liveInst = s.liveInst := rfl
@[simp] theorem putBytes_instSeq (s : State) (key n v : Nat) : (putBytes s key n v).instSeq = s.instSeq := rfl
@[simp] theorem putBytes_msix (s : State) (key n v : Nat) : (putBytes s key n v).msix = s.msix := rfl
@[simp] theorem putBytes_lastRead (s : State) (key n v : Nat) : (putBytes s key n v).lastRead = s.lastRead := rfl
@[simp] theorem putBytes_images (s : State) (key n v : Nat) : (putBytes s key n v).images = s.images := rfl
@[simp] theorem putBytes_dumps (s : State) (key n v : Nat) : (putBytes s key n v).dumps = s.dumps := rfl
@[simp] theorem putBytes_console (s : State) (key n v : Nat) : (putBytes s key n v).console = s.console := rfl
@[simp] theorem putBytes_upsets (s : State) (key n v : Nat) : (putBytes s key n v).upsets = s.upsets := rfl
@[simp] theorem putBytes_pf (s : State) (key n v : Nat) : (putBytes s key n v).pf = s.pf := rfl
@[simp] theorem putBytes_boot (s : State) (key n v : Nat) : (putBytes s key n v).boot = s.boot := rfl
@[simp] theorem putBytes_cox (s : State) (key n v : Nat) : (putBytes s key n v).cox = s.cox := rfl
@[simp] theorem putBytes_synt (s : State) (key n v : Nat) : (putBytes s key n v).synt = s.synt := rfl
@[simp] theorem putBytes_disciplined (s : State) (key n v : Nat) : (putBytes s key n v).disciplined = s.disciplined := rfl
@[simp] theorem putBytes_syntOff (s : State) (key n v : Nat) : (putBytes s key n v).syntOff = s.syntOff := rfl
@[simp] theorem putBytes_syntAcc (s : State) (key n v : Nat) : (putBytes s key n v).syntAcc = s.syntAcc := rfl
@[simp] theorem putBytes_stamp (s : State) (key n v : Nat) : (putBytes s key n v).stamp = s.stamp := rfl
@[simp] theorem putBytes_robin (s : State) (key n v : Nat) : (putBytes s key n v).robin = s.robin := rfl
@[simp] theorem putBytes_nextId (s : State) (key n v : Nat) : (putBytes s key n v).nextId = s.nextId := rfl
@[simp] theorem putBytes_fresh (s : State) (key n v : Nat) : (putBytes s key n v).fresh = s.fresh := rfl
@[simp] theorem putBytes_written (s : State) (key n v : Nat) : (putBytes s key n v).written = s.written := rfl
@[simp] theorem putBytes_agenda (s : State) (key n v : Nat) : (putBytes s key n v).agenda = s.agenda := rfl
@[simp] theorem putBytes_cur (s : State) (key n v : Nat) : (putBytes s key n v).cur = s.cur := rfl
@[simp] theorem putBytes_seqCur (s : State) (key n v : Nat) : (putBytes s key n v).seqCur = s.seqCur := rfl
@[simp] theorem putBytes_rvCur (s : State) (key n v : Nat) : (putBytes s key n v).rvCur = s.rvCur := rfl

end Sys2Proof.Machine
end

