-- ==== Sys2Proof/Laws/Store.lean ====
section
/-!
SUPPORT. Sparse tables and memory: what a read after a write gives, and that every write keeps the canonical form.
-/

namespace Sys2Proof.Machine

theorem tget_tins {α : Type} (d v : α) (m : List (Nat × α)) (a b : Nat) (h : ∀ e ∈ m, e.1 ≠ a) :
    tget d (tins a v m) b = if a = b then v else tget d m b := by
  induction m with
  | nil => simp [tins, tget]
  | cons e t ih =>
    obtain ⟨k, w⟩ := e
    have hk : k ≠ a := h (k, w) (by simp)
    have ih := ih fun e he => h e (by simp [he])
    by_cases hlt : a < k
    · simp [tins, hlt, tget]
    · simp only [tins, hlt, if_false, tget, ih]
      by_cases hb : k = b
      · subst hb; simp [Ne.symm hk]
      · simp [hb]

theorem tget_filter_ne {α : Type} (d : α) (m : List (Nat × α)) (a b : Nat) :
    tget d (m.filter fun e => e.1 != a) b = if a = b then d else tget d m b := by
  induction m with
  | nil => simp [tget]
  | cons e t ih =>
    obtain ⟨k, w⟩ := e
    by_cases hk : k = a
    · subst hk
      simp only [List.filter_cons, bne_self_eq_false, Bool.false_eq_true, if_false, ih, tget]
      split <;> simp_all
    · simp only [List.filter_cons, bne_iff_ne, ne_eq, hk, not_false_eq_true, if_true, tget, ih]
      by_cases hb : k = b
      · subst hb; simp [Ne.symm hk]
      · simp [hb]

/-- A table reads back what was written, and every other key as before. -/
theorem tget_tput {α : Type} [DecidableEq α] (d v : α) (m : List (Nat × α)) (a b : Nat) :
    tget d (tput d m a v) b = if a = b then v else tget d m b := by
  simp only [tput]
  split
  · next h => subst h; simp [tget_filter_ne]
  · rw [tget_tins _ _ _ _ _ (by simp)]
    split
    · rfl
    · next h => simp [tget_filter_ne, h]

@[simp] theorem tget_tput_self {α : Type} [DecidableEq α] (d v : α) (m : List (Nat × α)) (a : Nat) :
    tget d (tput d m a v) a = v := by simp [tget_tput]

theorem tget_tput_ne {α : Type} [DecidableEq α] (d v : α) (m : List (Nat × α)) (a b : Nat) (h : a ≠ b) :
    tget d (tput d m a v) b = tget d m b := by simp [tget_tput, h]

/-! ## The canonical form -/

theorem tcanonFrom_le {α : Type} [DecidableEq α] (d : α) (m : List (Nat × α)) (i j : Nat) (h : i ≤ j)
    (hm : tcanonFrom d j m = true) : tcanonFrom d i m = true := by
  cases m with
  | nil => rfl
  | cons e t =>
    simp only [tcanonFrom, Bool.and_eq_true, decide_eq_true_eq] at hm ⊢
    exact ⟨⟨by omega, hm.1.2⟩, hm.2⟩

theorem tcanonFrom_filter {α : Type} [DecidableEq α] (d : α) (m : List (Nat × α)) (a lo : Nat)
    (hm : tcanonFrom d lo m = true) : tcanonFrom d lo (m.filter fun e => e.1 != a) = true := by
  induction m generalizing lo with
  | nil => rfl
  | cons e t ih =>
    obtain ⟨k, w⟩ := e
    simp only [tcanonFrom, Bool.and_eq_true, decide_eq_true_eq] at hm
    by_cases hk : k = a
    · simp only [hk, List.filter_cons, bne_self_eq_false, Bool.false_eq_true, if_false]
      subst hk
      exact tcanonFrom_le d _ lo (k + 1) (by omega) (ih _ hm.2)
    · rw [List.filter_cons_of_pos (by simpa using hk)]
      simp only [tcanonFrom, Bool.and_eq_true, decide_eq_true_eq]
      exact ⟨hm.1, ih _ hm.2⟩

theorem tcanonFrom_tins {α : Type} [DecidableEq α] (d v : α) (m : List (Nat × α)) (a lo : Nat) (hv : v ≠ d)
    (ha : lo ≤ a) (h : ∀ e ∈ m, e.1 ≠ a) (hm : tcanonFrom d lo m = true) : tcanonFrom d lo (tins a v m) = true := by
  induction m generalizing lo with
  | nil => simp [tins, tcanonFrom, hv, ha]
  | cons e t ih =>
    obtain ⟨k, w⟩ := e
    have hk : k ≠ a := h (k, w) (by simp)
    simp only [tcanonFrom, Bool.and_eq_true, decide_eq_true_eq] at hm
    by_cases hlt : a < k
    · simp only [tins, hlt, if_true, tcanonFrom, Bool.and_eq_true, decide_eq_true_eq, bne_iff_ne, ne_eq]
      exact ⟨⟨ha, hv⟩, ⟨by omega, by simpa using hm.1.2⟩, hm.2⟩
    · simp only [tins, hlt, if_false, tcanonFrom, Bool.and_eq_true, decide_eq_true_eq]
      exact ⟨hm.1, ih _ (by omega) (fun e he => h e (by simp [he])) hm.2⟩

/-- A write keeps a table canonical. -/
theorem tcanon_tput {α : Type} [DecidableEq α] (d v : α) (m : List (Nat × α)) (a : Nat) (hm : tcanon d m = true) :
    tcanon d (tput d m a v) = true := by
  simp only [tcanon, tput] at *
  split
  · exact tcanonFrom_filter d m a 0 hm
  · next hv => exact tcanonFrom_tins d v _ a 0 hv (Nat.zero_le _) (by simp) (tcanonFrom_filter d m a 0 hm)

/-- A filter keeps a table canonical. -/
theorem tcanonFrom_filter_any {α : Type} [DecidableEq α] (d : α) (p : Nat × α → Bool) (m : List (Nat × α)) (lo : Nat)
    (hm : tcanonFrom d lo m = true) : tcanonFrom d lo (m.filter p) = true := by
  induction m generalizing lo with
  | nil => rfl
  | cons e t ih =>
    obtain ⟨k, w⟩ := e
    simp only [tcanonFrom, Bool.and_eq_true, decide_eq_true_eq] at hm
    by_cases hk : p (k, w) = true
    · simp only [List.filter_cons, hk, if_true, tcanonFrom, Bool.and_eq_true, decide_eq_true_eq]
      exact ⟨hm.1, ih _ hm.2⟩
    · simp only [List.filter_cons, hk]
      exact tcanonFrom_le d _ lo (k + 1) (by omega) (ih _ hm.2)

/-! ## Memory -/

theorem memGet_memPut (m : List Host.Cell) (a b : Nat) (v : Byte) :
    memGet (memPut m a v) b = if a = b then v else memGet m b := tget_tput _ _ _ _ _

theorem memPut_wf (m : List Host.Cell) (a : Nat) (v : Byte) (h : Memory.wf m = true) :
    Memory.wf (memPut m a v) = true := tcanon_tput _ _ _ _ h

theorem memWrite_wf (m : List Host.Cell) (a n v : Nat) (h : Memory.wf m = true) :
    Memory.wf (memWrite m a n v) = true := by
  induction n generalizing m a v with
  | zero => exact h
  | succ n ih => exact ih _ _ _ (memPut_wf _ _ _ h)

theorem memFilter_wf (p : Host.Cell → Bool) (m : List Host.Cell) (h : Memory.wf m = true) :
    Memory.wf (m.filter p) = true := tcanonFrom_filter_any _ p m 0 h

/-- One byte after a write of `n` bytes: a byte of the value inside, as before outside. -/
theorem memGet_memWrite (m : List Host.Cell) (a n v b : Nat) :
    memGet (memWrite m a n v) b =
      if a ≤ b ∧ b < a + n then BitVec.ofNat 8 (v / 256 ^ (b - a)) else memGet m b := by
  induction n generalizing m a v with
  | zero => simp [memWrite, show ¬(a ≤ b ∧ b < a + 0) by omega]
  | succ n ih =>
    simp only [memWrite, ih, memGet_memPut]
    by_cases h0 : a = b
    · subst h0
      rw [if_neg (by omega), if_pos (by omega), if_pos (by omega)]
      simp
    · by_cases h1 : a + 1 ≤ b ∧ b < a + 1 + n
      · rw [if_pos h1, if_pos (by omega), Nat.div_div_eq_div_mul, show b - a = b - (a + 1) + 1 by omega, Nat.pow_succ,
          Nat.mul_comm]
      · simp only [h1, h0, if_false]
        rw [if_neg (by omega)]

theorem memGet_memWrite_out (m : List Host.Cell) (a n v b : Nat) (h : b < a ∨ a + n ≤ b) :
    memGet (memWrite m a n v) b = memGet m b := by
  rw [memGet_memWrite, if_neg (by omega)]

theorem memRead_congr (m m' : List Host.Cell) (a n : Nat) (h : ∀ b, a ≤ b → b < a + n → memGet m b = memGet m' b) :
    memRead m a n = memRead m' a n := by
  induction n generalizing a with
  | zero => rfl
  | succ n ih =>
    simp only [memRead, h a (by omega) (by omega)]
    rw [ih (a + 1) fun b h1 h2 => h b (by omega) (by omega)]

/-- A read after a write to the same bytes gives the value written. -/
theorem memRead_memWrite (m : List Host.Cell) (a n v : Nat) : memRead (memWrite m a n v) a n = v % 256 ^ n := by
  induction n generalizing m a v with
  | zero => simp [memRead, Nat.mod_one]
  | succ n ih =>
    simp only [memRead, memWrite]
    rw [ih, memGet_memWrite_out _ _ _ _ _ (by omega), memGet_memPut]
    simp only [if_true, BitVec.toNat_ofNat, show (2 : Nat) ^ 8 = 256 from rfl]
    rw [Nat.pow_succ, Nat.mul_comm (256 ^ n) 256, Nat.mod_mul]

theorem memRead_memWrite_out (m : List Host.Cell) (a n v b k : Nat) (h : b + k ≤ a ∨ a + n ≤ b) :
    memRead (memWrite m a n v) b k = memRead m b k :=
  memRead_congr _ _ _ _ fun x _ _ => memGet_memWrite_out _ _ _ _ _ (by omega)

theorem memRead_lt (m : List Host.Cell) (a n : Nat) : memRead m a n < 256 ^ n := by
  induction n generalizing a with
  | zero => simp [memRead]
  | succ n ih =>
    have := ih (a + 1)
    have hb := (memGet m a).isLt
    simp only [memRead, Nat.pow_succ]
    omega

end Sys2Proof.Machine
end

