-- ==== Sys2Proof/Laws/Records.lean ====
section
/-!
SUPPORT. Finding a record after an update: the updated record, and every other as it was.
-/

namespace Sys2Proof.Machine

/-- The first entry with a key after an update that keeps keys. -/
theorem find_modBy {α : Type} (key : α → Nat) (k j : Nat) (f : α → α) (l : List α)
    (hf : ∀ x, key (f x) = key x) :
    (modBy (fun x => key x == k) f l).find? (fun x => key x == j) =
      if k = j then (l.find? fun x => key x == j).map f else l.find? fun x => key x == j := by
  induction l with
  | nil => simp [modBy]
  | cons x t ih =>
    simp only [modBy, List.map_cons, beq_iff_eq] at ih ⊢
    by_cases hx : key x = k
    · simp only [hx, if_true]
      by_cases hj : k = j
      · subst hj
        simp [hf, hx]
      · rw [List.find?_cons_of_neg (by simp [hf, hx, hj]), ih, if_neg hj, if_neg hj,
          List.find?_cons_of_neg (by simp [hx, hj])]
    · simp only [hx, if_false]
      by_cases hj : key x = j
      · have hkj : ¬k = j := fun h => hx (hj.trans h.symm)
        simp [hj, hkj]
      · rw [List.find?_cons_of_neg (by simp [hj]), ih]
        simp [hj]

/-- An update of an entry that is not listed changes nothing. -/
theorem find_key {α : Type} (key : α → Nat) (k : Nat) (l : List α) (x : α)
    (h : l.find? (fun x => key x == k) = some x) : key x = k := by
  have := List.find?_some h
  simpa using this

theorem getGroup_modGroup (s : State) (gid j : Nat) (f : Group → Group) (hf : ∀ g, (f g).gid = g.gid) :
    getGroup (modGroup s gid f) j = if gid = j then (getGroup s j).map f else getGroup s j :=
  find_modBy Group.gid gid j f s.groups hf

theorem getTeam_modTeam (s : State) (tid j : Nat) (f : Team → Team) (hf : ∀ g, (f g).tid = g.tid) :
    getTeam (modTeam s tid f) j = if tid = j then (getTeam s j).map f else getTeam s j :=
  find_modBy Team.tid tid j f s.teams hf

theorem getGang_modGang (s : State) (k j : Nat) (f : Gang → Gang) (hf : ∀ g, (f g).key = g.key) :
    getGang (modGang s k f) j = if k = j then (getGang s j).map f else getGang s j :=
  find_modBy Gang.key k j f s.gangs hf

theorem getGrid_modGrid (s : State) (k j : Nat) (f : Grid → Grid) (hf : ∀ g, (f g).key = g.key) :
    getGrid (modGrid s k f) j = if k = j then (getGrid s j).map f else getGrid s j :=
  find_modBy Grid.key k j f s.grids hf

theorem getCtx_modCtx (s : State) (a j : Nat) (f : Context → Context) (hf : ∀ g, (f g).asid = g.asid) :
    getCtx (modCtx s a f) j = if a = j then (getCtx s j).map f else getCtx s j :=
  find_modBy Context.asid a j f s.contexts hf

theorem getFunc_modFunc (s : State) (v j : Nat) (f : VFunc → VFunc) (hf : ∀ g, (f g).vf = g.vf) :
    getFunc (modFunc s v f) j = if v = j then (getFunc s j).map f else getFunc s j :=
  find_modBy VFunc.vf v j f s.funcs hf

theorem getDie_modDie (s : State) (d j : Nat) (f : Die → Die) :
    getDie (modDie s d f) j = if d = j ∧ j < s.dies.length then f (getDie s j) else getDie s j := by
  simp only [getDie, modDie, List.getElem?_modify]
  by_cases hd : d = j
  · subst hd
    by_cases hl : d < s.dies.length
    · simp [hl]
    · simp [hl]
  · simp [hd]

theorem laneThread_groupLane (g : Group) (l k : Nat) (f : Thread → Thread) (hf : ∀ t, t.lane = l → (f t).lane = l) :
    laneThread (groupLane g l f) k = if l = k then (laneThread g k).map f else laneThread g k := by
  simp only [laneThread, groupLane, modBy]
  induction g.threads with
  | nil => simp
  | cons t r ih =>
    simp only [List.map_cons, beq_iff_eq] at ih ⊢
    by_cases ht : t.lane = l
    · simp only [ht, if_true]
      by_cases hk : l = k
      · subst hk
        simp [hf t ht, ht]
      · rw [List.find?_cons_of_neg (by simp [hf t ht, hk]), ih, if_neg hk, if_neg hk,
          List.find?_cons_of_neg (by simp [ht, hk])]
    · simp only [ht, if_false]
      by_cases hk : t.lane = k
      · have : ¬l = k := fun h => ht (hk.trans h.symm)
        simp [hk, this]
      · rw [List.find?_cons_of_neg (by simp [hk]), ih]
        simp [hk]

theorem getLane_lane (s : State) (gid l : Nat) (t : Thread) (h : getLane s gid l = some t) : t.lane = l := by
  simp only [getLane, Option.bind_eq_some_iff, laneThread] at h
  obtain ⟨g, -, hg⟩ := h
  simpa using List.find?_some hg

/-- A lane after the update of a lane. -/
theorem getLane_modLane (s : State) (gid l gid' k : Nat) (f : Thread → Thread)
    (hf : ∀ t, t.lane = l → (f t).lane = l) :
    getLane (modLane s gid l f) gid' k =
      if gid = gid' ∧ l = k then (getLane s gid' k).map f else getLane s gid' k := by
  simp only [getLane, modLane]
  rw [getGroup_modGroup s gid gid' (fun g => groupLane g l f) fun _ => rfl]
  by_cases hg : gid = gid'
  · subst hg
    cases h : getGroup s gid with
    | none => simp
    | some g =>
      simp only [if_true, Option.map_some, Option.bind_some, laneThread_groupLane _ _ _ _ hf, true_and]
  · simp [hg]

theorem getLane_groups (s s' : State) (h : s'.groups = s.groups) (gid l : Nat) : getLane s' gid l = getLane s gid l := by
  simp [getLane, getGroup, h]

/-- A group after the update of a lane: only its threads. -/
theorem getGroup_modLane (s : State) (gid l j : Nat) (f : Thread → Thread) :
    getGroup (modLane s gid l f) j = if gid = j then (getGroup s j).map (groupLane · l f) else getGroup s j :=
  getGroup_modGroup s gid j _ fun _ => rfl

/-- An environment is the group, its team, its grid and its context. -/
theorem env_parts (s : State) (gid : Nat) (e : Env) (h : env s gid = some e) :
    getGroup s gid = some e.group ∧ getTeam s e.group.tid = some e.team ∧ getGrid s e.team.grid = some e.grid ∧
      getCtx s e.grid.asid = some e.ctx := by
  simp only [env, Option.bind_eq_some_iff, Option.map_eq_some_iff] at h
  obtain ⟨g, hg, t, ht, r, hr, c, hc, rfl⟩ := h
  exact ⟨hg, ht, hr, hc⟩

theorem env_group (s : State) (gid : Nat) (e : Env) (h : env s gid = some e) : getGroup s gid = some e.group :=
  (env_parts s gid e h).1

theorem env_gid (s : State) (gid : Nat) (e : Env) (h : env s gid = some e) : e.group.gid = gid :=
  find_key Group.gid gid s.groups e.group (env_group s gid e h)

theorem env_ctx (s : State) (gid : Nat) (e : Env) (h : env s gid = some e) :
    getCtx s e.grid.asid = some e.ctx := (env_parts s gid e h).2.2.2

end Sys2Proof.Machine
end

