-- ==== Sys2Proof/Laws/Lanes.lean ====
section
/-!
SUPPORT. The lanes of a thread instruction: what `foldLanes`, `runLanes`, `alu` and `allFault` do to the threads when
every lane retires or every lane faults.
-/

namespace Sys2Proof.Machine

/-- Several lanes of a group, each by its own function. -/
def onLanes (ls : List Nat) (h : Nat → Thread → Thread) (g : Group) : Group :=
  { g with threads := g.threads.map fun t => if ls.contains t.lane then h t.lane t else t }
/-- Update several lanes of a group. -/
def modLanes (s : State) (gid : Nat) (ls : List Nat) (h : Nat → Thread → Thread) : State :=
  modGroup s gid (onLanes ls h)

theorem modGroup_modGroup (s : State) (gid : Nat) (f f' : Group → Group) (hf : ∀ g, (f g).gid = g.gid) :
    modGroup (modGroup s gid f) gid f' = modGroup s gid fun g => f' (f g) := by
  simp only [modGroup, modBy, List.map_map]
  congr 1
  apply List.map_congr_left
  intro g _
  by_cases h : g.gid = gid <;> simp [h, hf]

theorem modGroup_congr (s : State) (gid : Nat) (f f' : Group → Group) (h : ∀ g, f g = f' g) :
    modGroup s gid f = modGroup s gid f' := by
  rw [show f = f' from funext h]

theorem modLane_eq (s : State) (gid l : Nat) (f : Thread → Thread) :
    modLane s gid l f = modLanes s gid [l] fun _ => f := by
  simp only [modLane, modLanes, onLanes, groupLane, modBy]
  congr 1
  funext g
  congr 1
  apply List.map_congr_left
  intro t _
  by_cases h : t.lane = l <;> simp [h]

/-- Two updates of one lane. -/
theorem modLane_modLane (s : State) (gid l : Nat) (f f' : Thread → Thread) (hf : ∀ t, t.lane = l → (f t).lane = l) :
    modLane (modLane s gid l f) gid l f' = modLane s gid l fun t => f' (f t) := by
  simp only [modLane]
  rw [modGroup_modGroup s gid (fun g => groupLane g l f) (fun g => groupLane g l f') fun _ => rfl]
  congr 1
  funext g
  simp only [onLanes, groupLane, modBy, List.map_map]
  congr 1
  apply List.map_congr_left
  intro t _
  by_cases h : t.lane = l <;> simp [h, hf]

/-- One more lane. -/
theorem modLane_modLanes (s : State) (gid l : Nat) (ls : List Nat) (h : Nat → Thread → Thread)
    (hl : ∀ k t, t.lane = k → (h k t).lane = k) (hn : l ∉ ls) :
    modLane (modLanes s gid ls h) gid l (h l) = modLanes s gid (l :: ls) h := by
  simp only [modLane, modLanes]
  rw [modGroup_modGroup s gid (onLanes ls h) (fun g => groupLane g l (h l)) fun _ => rfl]
  congr 1
  funext g
  simp only [onLanes, groupLane, modBy, List.map_map]
  congr 1
  apply List.map_congr_left
  intro t _
  simp only [Function.comp]
  by_cases hc : t.lane ∈ ls
  · have hne : t.lane ≠ l := fun e => hn (e ▸ hc)
    simp [hc, hl _ _ rfl, hne]
  · by_cases ht : t.lane = l
    · subst ht; simp [hc]
    · simp [hc, ht]

theorem modLanes_perm (s : State) (gid : Nat) (l l' : List Nat) (h : Nat → Thread → Thread)
    (hp : ∀ k, k ∈ l ↔ k ∈ l') : modLanes s gid l h = modLanes s gid l' h := by
  simp only [modLanes]
  congr 1
  funext g
  simp only [onLanes]
  congr 1
  apply List.map_congr_left
  intro t _
  have := hp t.lane
  by_cases hc : t.lane ∈ l <;> simp_all

/-- A lane after the update of several. -/
theorem getLane_modLanes (s : State) (gid gid' k : Nat) (ls : List Nat) (h : Nat → Thread → Thread)
    (hl : ∀ k t, t.lane = k → (h k t).lane = k) :
    getLane (modLanes s gid ls h) gid' k =
      if gid = gid' ∧ k ∈ ls then (getLane s gid' k).map (h k) else getLane s gid' k := by
  simp only [getLane, modLanes]
  rw [getGroup_modGroup s gid gid' (onLanes ls h) fun _ => rfl]
  by_cases hg : gid = gid'
  swap
  · simp [hg]
  subst hg
  cases hgr : getGroup s gid with
  | none => simp
  | some g =>
    simp only [if_true, Option.map_some, Option.bind_some, true_and, laneThread, onLanes]
    induction g.threads with
    | nil => simp
    | cons t r ih =>
      simp only [List.map_cons]
      have hlane : (if ls.contains t.lane then h t.lane t else t).lane = t.lane := by
        split
        · exact hl _ _ rfl
        · rfl
      by_cases ht : t.lane = k
      · rw [List.find?_cons_of_pos (by rw [hlane]; simp [ht]), List.find?_cons_of_pos (by simp [ht])]
        subst ht
        by_cases hc : t.lane ∈ ls <;> simp [hc]
      · rw [List.find?_cons_of_neg (by rw [hlane]; simp [ht]), List.find?_cons_of_neg (by simp [ht]), ih]

/-- Only the groups differ. -/
def SameButGroups (s s' : State) : Prop := s' = { s with groups := s'.groups }

theorem SameButGroups.refl (s : State) : SameButGroups s s := rfl
theorem sameBut_modLanes (s : State) (gid : Nat) (ls : List Nat) (h : Nat → Thread → Thread) :
    SameButGroups s (modLanes s gid ls h) := rfl

/-- A fold of single-lane updates. -/
theorem foldl_modLane (s : State) (gid : Nat) (h : Nat → Thread → Thread)
    (hl : ∀ k t, t.lane = k → (h k t).lane = k) (ls done : List Nat) (hd : (done ++ ls).Nodup) :
    ls.foldl (fun s l => modLane s gid l (h l)) (modLanes s gid done h) = modLanes s gid (done ++ ls) h := by
  induction ls generalizing done with
  | nil => simp
  | cons l r ih =>
    have hn : l ∉ done := by
      intro hm
      exact List.disjoint_of_nodup_append hd hm (by simp)
    have hp : ∀ k, k ∈ l :: done ↔ k ∈ done ++ [l] := by
      intro k; simp [or_comm]
    rw [List.foldl_cons, modLane_modLanes s gid l done h hl hn, modLanes_perm s gid _ _ h hp,
      ih (done ++ [l]) (by simpa using hd)]
    simp

theorem modLanes_nil (s : State) (gid : Nat) (h : Nat → Thread → Thread) : modLanes s gid [] h = s := by
  simp only [modLanes, onLanes, modGroup, modBy]
  have : (s.groups.map fun x => if (x.gid == gid) = true then
      { x with threads := x.threads.map fun t => if ([] : List Nat).contains t.lane then h t.lane t else t } else x)
      = s.groups := by
    conv_rhs => rw [← List.map_id s.groups]
    apply List.map_congr_left
    intro g _
    split <;> simp
  rw [this]

/-- The idle lanes advance. -/
theorem idle_fold (s : State) (c : Cur) (ls : List Nat) (hd : ls.Nodup) :
    ls.foldl (fun s l => modLane s c.gid l (advance c)) s = modLanes s c.gid ls fun _ => advance c := by
  have := foldl_modLane s c.gid (fun _ => advance c)
    (by intro k t ht; simp only [advance, goOn]; split <;> exact ht) ls [] (by simpa using hd)
  simpa [modLanes_nil] using this

theorem goOn_lane (n : Nat) (t : Thread) : (goOn n t).lane = t.lane := by
  simp only [goOn]; split <;> rfl

/-- The threads of an execution after every active lane has retired with the update `h` of its thread. -/
def retire (c : Cur) (act : List Nat) (h : Nat → Thread → Thread) (l : Nat) (t : Thread) : Thread :=
  if act.contains l then goOn c.next (h l t) else goOn c.next t

theorem raise_nil (s : State) (e : Env) (pc : Nat) (act : List Nat) (hdr : Bool) : raise s e pc act [] hdr = s := rfl

/-- When each active lane answers `.ok` with an update of its own thread, the execution updates the threads and counts
the lanes that retired. -/
theorem foldLanes_ok (s : State) (c : Cur) (e : Env) (g : Guard) (F : Nat → State → LaneStep)
    (h : Nat → Thread → Thread) (hl : ∀ k t, t.lane = k → (h k t).lane = k) (hd : c.lanes.Nodup)
    (hF : ∀ l ∈ activeLanes s c g, ∀ s', SameButGroups s s' → getLane s' c.gid l = getLane s c.gid l →
      F l s' = .ok (modLane s' c.gid l (h l))) :
    foldLanes s c e g F =
      countEvent (modLanes s c.gid c.lanes (retire c (activeLanes s c g) h)) e.ctx.asid 0 (activeLanes s c g).length := by
  have hact : (activeLanes s c g).Nodup := hd.filter _
  have hidle : (c.lanes.filter fun l => !(activeLanes s c g).contains l).Nodup := hd.filter _
  have hr : ∀ k t, t.lane = k → (retire c (activeLanes s c g) h k t).lane = k := by
    intro k t ht
    simp only [retire]
    split
    · rw [goOn_lane]; exact hl k t ht
    · rw [goOn_lane]; exact ht
  have h1 : (c.lanes.filter fun l => !(activeLanes s c g).contains l).foldl
      (fun s l => modLane s c.gid l (advance c)) s =
      modLanes s c.gid (c.lanes.filter fun l => !(activeLanes s c g).contains l) (retire c (activeLanes s c g) h) := by
    rw [idle_fold s c _ hidle]
    simp only [modLanes]
    congr 1
    funext gr
    simp only [onLanes]
    congr 1
    apply List.map_congr_left
    intro t _
    by_cases hm : t.lane ∈ c.lanes.filter fun l => !(activeLanes s c g).contains l
    · have hn : (activeLanes s c g).contains t.lane = false := by simpa using (List.mem_filter.mp hm).2
      rw [if_pos (by simpa using hm), if_pos (by simpa using hm)]
      simp only [retire, hn, advance]
      rfl
    · rw [if_neg (by simpa using hm), if_neg (by simpa using hm)]
  have h2 : ∀ (todo done : List Nat) (k : Nat), (done ++ todo).Nodup → (∀ l ∈ todo, l ∈ activeLanes s c g) →
      todo.foldl (laneStep c F) ⟨modLanes s c.gid done (retire c (activeLanes s c g) h), [], k⟩ =
        ⟨modLanes s c.gid (done ++ todo) (retire c (activeLanes s c g) h), [], k + todo.length⟩ := by
    intro todo
    induction todo with
    | nil => intro done k _ _; simp
    | cons l r ih =>
      intro done k hnd hin
      have hn : l ∉ done := fun hm => List.disjoint_of_nodup_append hnd hm (by simp)
      have hla : l ∈ activeLanes s c g := hin l (by simp)
      have hsame : getLane (modLanes s c.gid done (retire c (activeLanes s c g) h)) c.gid l = getLane s c.gid l := by
        rw [getLane_modLanes _ _ _ _ _ _ hr]
        simp [hn]
      have hstep : laneStep c F ⟨modLanes s c.gid done (retire c (activeLanes s c g) h), [], k⟩ l =
          ⟨modLanes s c.gid (done ++ [l]) (retire c (activeLanes s c g) h), [], k + 1⟩ := by
        simp only [laneStep, hF l hla _ (sameBut_modLanes _ _ _ _) hsame]
        rw [modLane_modLane _ _ _ _ _ (hl l)]
        have he : (fun t => advance c (h l t)) = retire c (activeLanes s c g) h l := by
          funext t; simp [retire, hla, advance]
        rw [he, modLane_modLanes s c.gid l done _ hr hn,
          modLanes_perm s c.gid (l :: done) (done ++ [l]) _ (by intro k; simp [or_comm])]
      rw [List.foldl_cons, hstep, ih (done ++ [l]) (k + 1) (by simpa using hnd) fun x hx => hin x (by simp [hx])]
      simp only [List.append_assoc, List.singleton_append, List.length_cons, Nat.add_assoc, Nat.add_comm 1]
  unfold foldLanes
  simp only []
  rw [h1, h2 (activeLanes s c g) _ 0 ?_ fun _ h => h]
  · simp only [raise_nil, Nat.zero_add]
    rw [modLanes_perm s c.gid _ c.lanes _ ?_]
    intro k
    simp only [List.mem_append, List.mem_filter, Bool.not_eq_true']
    constructor
    · rintro (hk | hk)
      · exact hk.1
      · exact (List.mem_filter.mp hk).1
    · intro hk
      by_cases ha : k ∈ activeLanes s c g
      · exact .inr ha
      · exact .inl ⟨hk, by simpa using ha⟩
  · rw [List.nodup_append]
    refine ⟨hidle, hact, ?_⟩
    intro a ha b hb hab
    subst hab
    have := (List.mem_filter.mp ha).2
    simp [hb] at this

/-! ## Operands -/

theorem poisoned_groups (s s' : State) (h : SameButGroups s s') (k n : Nat) : poisoned s' k n = poisoned s k n := by
  rw [h]; rfl

theorem takeFrom_groups (s s' : State) (h : SameButGroups s s') (e : Env) (r : ExecRec) (l : List (Nat × StreamReg))
    (t : Thread) (ov : List (Nat × Word)) : takeFrom s' e r l t ov = takeFrom s e r l t ov := by
  induction l generalizing t ov with
  | nil => rfl
  | cons x xs ih =>
    simp only [takeFrom, ih]
    rw [h]
    rfl

theorem operandsOf_groups (s s' : State) (h : SameButGroups s s') (e : Env) (r : ExecRec) (t : Thread)
    (us : List RegUse) : operandsOf s' e r t us = operandsOf s e r t us := by
  simp only [operandsOf, takeStreams, takeFrom_groups s s' h]

/-- Taking stream elements leaves a thread on its lane. -/
theorem takeFrom_lane (s : State) (e : Env) (r : ExecRec) (l : List (Nat × StreamReg)) (t t' : Thread)
    (ov ov' : List (Nat × Word)) (h : takeFrom s e r l t ov = .ok ov' t') : t'.lane = t.lane := by
  induction l generalizing t ov with
  | nil => simp only [takeFrom, Taken.ok.injEq] at h; rw [← h.2]
  | cons x xs ih =>
    simp only [takeFrom] at h
    generalize (elemPlace x.2).2 = ew at h
    by_cases ha : acquiring e.group t.lane = true
    · simp [ha] at h
    by_cases hm : ((elemPlace x.2).1 % (ew : Int) != 0) = true
    · simp [ha, hm] at h
    by_cases hb : ((decide ((elemPlace x.2).1 < 0) ||
        decide (((e.grid.desc.scratch * 128 : Nat) : Int) < (elemPlace x.2).1 + ew)) = true)
    · rw [if_neg ha, if_neg hm, if_pos hb] at h; cases h
    rw [if_neg ha, if_neg hm, if_neg hb] at h
    cases hl : lineEmpty s (keyScr e.team.tid (elemPlace x.2).1.toNat) ew with
    | some k => simp [hl] at h
    | none =>
      rw [hl] at h
      rw [ih _ _ h]
      split <;> rfl

theorem operandsOf_lane (s : State) (e : Env) (r : ExecRec) (t t' : Thread) (us : List RegUse) (ov : List (Nat × Word))
    (h : operandsOf s e r t us = .ok ov t') : t'.lane = t.lane := by
  by_cases h1 : rangeFault e.grid.desc.regs us = true
  · simp [operandsOf, h1] at h
  by_cases h2 : boundFault t us = true
  · simp [operandsOf, h1, h2] at h
  rw [operandsOf, if_neg h1, if_neg h2] at h
  exact takeFrom_lane _ _ _ _ _ _ _ _ h

theorem wrRegs_lane (rs : List (Nat × Word)) (t : Thread) : (wrRegs t rs).lane = t.lane := by
  simp only [wrRegs]
  induction rs generalizing t with
  | nil => rfl
  | cons r rs ih => rw [List.foldl_cons, ih]; rfl

theorem wrPred_lane (t : Thread) (n : PredIx) (b : Bool) : (wrPred t n b).lane = t.lane := by
  simp only [wrPred]; split <;> rfl

theorem wrPreds_lane (ps : List (PredIx × Bool)) (t : Thread) :
    (ps.foldl (fun t p => wrPred t p.1 p.2) t).lane = t.lane := by
  induction ps generalizing t with
  | nil => rfl
  | cons p ps ih => rw [List.foldl_cons, ih, wrPred_lane]

theorem applyEff_lane (t : Thread) (x : Eff) : (applyEff t x).lane = t.lane := by
  simp only [applyEff, orStat]
  rw [wrPreds_lane, wrRegs_lane]

/-- What a register-only instruction does to the threads of its lanes where every lane retires: `s0` is the state in
which its stream elements can be read, `x` the effect of a lane. -/
theorem alu_ok (g : Guard) (us : List RegUse) (f : (Nat → Word) → Thread → Except Nat Eff) (s s0 : State) (c : Cur) (e : Env)
    (hc : s.cur = some c) (he : env s c.gid = some e) (hd : c.lanes.Nodup)
    (hp : pairIllegal e.grid.desc.regs us = false) (hs : settleStreams s c e g us = s0)
    (hr : ∀ l ∈ activeLanes s0 c g, ∃ t ov t0 x, getLane s0 c.gid l = some t ∧
      operandsOf s0 e (execRec s c e g) t us = .ok ov t0 ∧ f (readOver ov t) t0 = .ok x) :
    ∃ h : Nat → Thread → Thread,
      alu g us f s = .next (countEvent (modLanes s0 c.gid c.lanes (retire c (activeLanes s0 c g) h)) e.ctx.asid 0
        (activeLanes s0 c g).length) ∧
      (∀ k t, t.lane = k → (h k t).lane = k) ∧
      (∀ l ∈ activeLanes s0 c g, ∀ t ov t0 x, getLane s0 c.gid l = some t →
        operandsOf s0 e (execRec s c e g) t us = .ok ov t0 → f (readOver ov t) t0 = .ok x → ∀ t', h l t' = applyEff t0 x) := by
  classical
  generalize hx : execRec s c e g = r at hr ⊢
  have pick : ∀ l, ∃ h : Thread → Thread, (∀ t, t.lane = l → (h t).lane = l) ∧
      ∀ t ov t0 x, getLane s0 c.gid l = some t → operandsOf s0 e r t us = .ok ov t0 →
        f (readOver ov t) t0 = .ok x → ∀ t', h t' = applyEff t0 x := by
    intro l
    by_cases hl : ∃ t ov t0 x, getLane s0 c.gid l = some t ∧ operandsOf s0 e r t us = .ok ov t0 ∧
        f (readOver ov t) t0 = .ok x
    · obtain ⟨t, ov, t0, x, h1, h2, h3⟩ := hl
      refine ⟨fun _ => applyEff t0 x, fun _ _ => ?_, fun u ou u0 y k1 k2 k3 _ => ?_⟩
      · rw [applyEff_lane, operandsOf_lane _ _ _ _ _ _ _ h2, getLane_lane _ _ _ _ h1]
      · obtain rfl : t = u := by simpa [h1] using k1
        obtain ⟨rfl, rfl⟩ : ov = ou ∧ t0 = u0 := by simpa [h2] using k2
        obtain rfl : x = y := by simpa [h3] using k3
        rfl
    · exact ⟨id, fun _ ht => ht, fun t ov t0 x h1 h2 h3 => absurd ⟨t, ov, t0, x, h1, h2, h3⟩ hl⟩
  choose h hl hval using pick
  refine ⟨h, ?_, hl, fun l _ t ov t0 x => hval l t ov t0 x⟩
  simp only [alu, runLanes, withCur, hc, he, hp, if_false, Bool.false_eq_true, hs, hx]
  rw [foldLanes_ok s0 c e g _ h hl hd]
  intro l hla s' hs' hsl
  obtain ⟨t, ov, t0, x, h1, h2, h3⟩ := hr l hla
  have ho : operandsOf s' e r t us = .ok ov t0 := (operandsOf_groups s0 s' hs' e r t us).trans h2
  have hh : h l = fun _ => applyEff t0 x := funext fun t' => hval l t ov t0 x h1 h2 h3 t'
  simp only [withOperands, hsl.trans h1, ho, h3, hh]

end Sys2Proof.Machine
end

