-- ==== Sys2Proof/Laws/Memory.lean ====
section
/-!
SUPPORT. Every operation that writes memory keeps its canonical form, and says which bytes it changes.
-/

namespace Sys2Proof.Machine

/-! ## Writing -/

theorem putBytes_wf (s : State) (key n v : Nat) (h : Memory.wf s.mem = true) : Memory.wf (putBytes s key n v).mem = true :=
  memWrite_wf _ _ _ _ h

/-- `putBytes` writes its bytes and clears the poison of the sectors that it covers. -/
theorem putBytes_spec (s : State) (key n v : Nat) :
    putBytes s key n v = { s with mem := memWrite s.mem key n v, poison := (putBytes s key n v).poison } := rfl

theorem barWrite_wf (s : State) (key : Nat) (b : Barrier) (h : Memory.wf s.mem = true) :
    Memory.wf (barWrite s key b).mem = true := memWrite_wf _ _ _ _ h

theorem tagCommons_mem (s : State) (asid key n : Nat) : (tagCommons s asid key n).mem = s.mem := by
  unfold tagCommons; split <;> rfl

theorem addPoison_mem (s : State) (p : Nat) : (addPoison s p).mem = s.mem := by
  unfold addPoison; split <;> rfl

theorem noteWrite_mem (s : State) (key n : Nat) : (noteWrite s key n).mem = s.mem := by
  unfold noteWrite; split <;> rfl

/-- A write of a line leaves the memory that it makes, or, at a version that is spent, the memory before it (R364). -/
theorem writeLine_mem (s : State) (key : Nat) (w : State) :
    (writeLine s key w).mem =
      if keyClass2 s key = true ∧ tget 0 s.versions (key / 64) = 2 ^ 56 - 1 then s.mem else w.mem := by
  simp only [writeLine]
  split
  · rename_i hk
    split
    · rename_i hv; rw [if_pos ⟨hk, hv⟩, addPoison_mem, addPoison_mem]
    · rename_i hv; rw [if_neg fun x => hv x.2]
  · rename_i hk; rw [if_neg fun x => hk x.1]

/-- A bank writes the bytes, or, at a version that is spent, nothing (R364). -/
theorem bankWrite_mem (s : State) (asid key n v : Nat) :
    (bankWrite s asid key n v).mem =
      if keyClass2 s key = true ∧ tget 0 s.versions (key / 64) = 2 ^ 56 - 1 then s.mem else memWrite s.mem key n v := by
  rw [bankWrite, writeLine_mem, noteWrite_mem, tagCommons_mem]

theorem bankWrite_wf (s : State) (asid key n v : Nat) (h : Memory.wf s.mem = true) :
    Memory.wf (bankWrite s asid key n v).mem = true := by
  rw [bankWrite_mem]; split
  · exact h
  · exact memWrite_wf _ _ _ _ h

/-- Bytes written as one access of each of their lines keep the canonical form. -/
theorem bankBytes_wf (s : State) (asid : Nat) (ws : List (Nat × Nat)) (h : Memory.wf s.mem = true) :
    Memory.wf (bankBytes s asid ws).mem = true := by
  have line : ∀ (xs : List (Nat × Nat)) (w : State), Memory.wf w.mem = true → Memory.wf (xs.foldl (fun w b =>
      noteWrite (tagCommons { w with mem := memPut w.mem b.1 (BitVec.ofNat 8 b.2) } asid b.1 1) b.1 1) w).mem = true := by
    intro xs
    induction xs with
    | nil => exact fun w hw => hw
    | cons x xs ih => exact fun w hw => ih _ (by rw [noteWrite_mem, tagCommons_mem]; exact memPut_wf _ _ _ hw)
  unfold bankBytes
  generalize (ws.map (·.1 / 64)).dedup = ls
  induction ls generalizing s with
  | nil => exact h
  | cons l ls ih => exact ih _ (by rw [writeLine_mem]; split; exacts [h, line _ _ h])

theorem writeStream_wf (s : State) (r : CkRegion) (b : Nat) (bs : List Byte) (h : Memory.wf s.mem = true) :
    Memory.wf (writeStream s r b bs).mem = true := by
  simp only [writeStream]
  generalize bs.zipIdx = xs
  have : ∀ m, Memory.wf m = true →
      Memory.wf (xs.foldl (fun m x => memPut m (streamKey r (b + x.2)) x.1) m) = true := by
    induction xs with
    | nil => exact fun m hm => hm
    | cons x xs ih => exact fun m hm => ih _ (memPut_wf _ _ _ hm)
  exact this _ h

/-! ## Dropping -/

theorem tget_filter_key (d : Byte) (p : Nat → Bool) (m : List Host.Cell) (a : Nat) :
    tget d (m.filter fun c => p c.1) a = if p a then tget d m a else d := by
  induction m with
  | nil => simp [tget]
  | cons c m ih =>
    obtain ⟨k, v⟩ := c
    by_cases hk : p k = true
    · simp only [List.filter_cons, hk, if_true]
      by_cases ha : k = a
      · subst ha; simp [tget, hk]
      · simpa [tget, ha] using ih
    · simp only [List.filter_cons, hk]
      by_cases ha : k = a
      · subst ha; simpa [hk] using ih
      · simpa [tget, ha] using ih

theorem zeroRange_wf (s : State) (key n : Nat) (h : Memory.wf s.mem = true) : Memory.wf (zeroRange s key n).mem = true :=
  memFilter_wf _ _ h

/-- A zeroed range reads 0; every other byte is as it was. -/
theorem memGet_zeroRange (s : State) (key n a : Nat) :
    memGet (zeroRange s key n).mem a = if key ≤ a ∧ a < key + n then 0 else memGet s.mem a := by
  have h := tget_filter_key unlistedByte (fun c => !(decide (key ≤ c) && decide (c < key + n))) s.mem a
  have e : memGet (zeroRange s key n).mem a = _ := h
  by_cases hc : key ≤ a ∧ a < key + n
  · rw [if_pos hc, e, if_neg (by simp [hc])]; rfl
  · rw [if_neg hc, e, if_pos (by simp; omega)]; rfl

theorem dropMemory_wf (s : State) (asid : Nat) (h : Memory.wf s.mem = true) : Memory.wf (dropMemory s asid).mem = true :=
  memFilter_wf _ _ h

theorem coldState_wf (s : State) (h : Memory.wf s.mem = true) : Memory.wf (coldState s).mem = true :=
  memFilter_wf _ _ h

theorem hostWrite_wf (s : State) (asid lfn off n v : Nat) (h : Memory.wf s.mem = true) :
    Memory.wf (hostWrite s asid lfn off n v).mem = true := by
  unfold hostWrite
  split
  · show Memory.wf (noteWrite _ _ _).mem = true
    rw [noteWrite_mem]; exact memWrite_wf _ _ _ _ h
  · exact h

/-- Memory at reset has the canonical form. -/
theorem reset_wf : Memory.wf State.reset.mem = true := rfl

end Sys2Proof.Machine
end

