-- ==== Sys2Proof/Laws/Threads.lean ====
section
/-!
SUPPORT. Registers and predicates of a thread after writes, and the law of register-only instructions that the claims
about them rest on.
-/

namespace Sys2Proof.Machine

theorem rdReg_wrReg (t : Thread) (n k : Nat) (w : Word) :
    rdReg (wrReg t n w) k = if n = k then w else rdReg t k := tget_tput _ _ _ _ _

theorem wrReg_frame (t : Thread) (n : Nat) (w : Word) : wrReg t n w = { t with v := (wrReg t n w).v } := rfl

/-- The thread of a list of register writes: only V, each register as its entry where the keys differ. -/
theorem wrRegs_spec (rs : List (Nat × Word)) (t : Thread) (hd : (rs.map (·.1)).Nodup) :
    (∀ n, rdReg (wrRegs t rs) n = (rs.lookup n).getD (rdReg t n)) ∧ wrRegs t rs = { t with v := (wrRegs t rs).v } := by
  simp only [wrRegs]
  induction rs generalizing t with
  | nil => exact ⟨fun _ => rfl, rfl⟩
  | cons r rs ih =>
    obtain ⟨k, w⟩ := r
    simp only [List.map_cons, List.nodup_cons] at hd
    obtain ⟨h1, h2⟩ := ih (wrReg t k w) hd.2
    rw [List.foldl_cons]
    refine ⟨fun n => ?_, h2⟩
    rw [h1, rdReg_wrReg]
    by_cases hn : k = n
    · subst hn
      have : rs.lookup k = none := by
        rw [List.lookup_eq_none_iff]
        intro p hp
        have : p.1 ∈ rs.map (·.1) := List.mem_map_of_mem hp
        have hne : k ≠ p.1 := fun he => hd.1 (he ▸ this)
        simpa using hne
      simp [this, List.lookup]
    · have hb : (n == k) = false := by simpa using Ne.symm hn
      simp [List.lookup, hb, hn]

theorem rdPred_zero (t : Thread) : rdPred t 0 = true := rfl

theorem rdPred_wrPred (t : Thread) (n k : PredIx) (b : Bool) :
    rdPred (wrPred t n b) k = if k = 0 then true else if n = k then b else rdPred t k := by
  by_cases hk : k = 0
  · subst hk; rfl
  by_cases hn : n = 0
  · subst hn
    have h0 : ¬(0 : PredIx) = k := fun h => hk h.symm
    have hw : wrPred t (0 : PredIx) b = t := rfl
    rw [hw, if_neg hk, if_neg h0]
  have hn' : ¬(n == 0) = true := by simpa using hn
  have hk' : (k == 0) = false := by simpa using hk
  have hkl : k.toNat < 64 := k.isLt
  rw [if_neg hk]
  simp only [wrPred, rdPred, hn', hk', Bool.false_or]
  have hbit : (1#64 <<< n.toNat).getLsbD k.toNat = decide (n = k) := by
    by_cases hnk : n = k
    · subst hnk; simp only [BitVec.getLsbD_shiftLeft, hkl, decide_true, Nat.sub_self, BitVec.getLsbD_one, Nat.lt_irrefl, decide_false]; simp
    · have hne : n.toNat ≠ k.toNat := fun h => hnk (BitVec.eq_of_toNat_eq h)
      simp only [BitVec.getLsbD_shiftLeft, BitVec.getLsbD_one, hnk, decide_false]
      by_cases hlt : k.toNat < n.toNat
      · simp [hlt]
      · have : k.toNat - n.toNat ≠ 0 := by omega
        simp [this]
  cases b
  · simp only [Bool.false_eq_true, if_false, BitVec.getLsbD_and, BitVec.getLsbD_not, hbit, hkl, decide_true,
      Bool.true_and]
    by_cases hnk : n = k <;> simp [hnk]
  · change (t.p ||| 1#64 <<< n.toNat).getLsbD k.toNat = if n = k then true else t.p.getLsbD k.toNat
    rw [BitVec.getLsbD_or, hbit]
    by_cases hnk : n = k <;> simp [hnk]

theorem wrPred_frame (t : Thread) (n : PredIx) (b : Bool) : wrPred t n b = { t with p := (wrPred t n b).p } := by
  simp only [wrPred]; split <;> rfl

theorem wrPreds_spec (ps : List (PredIx × Bool)) (t : Thread) (hd : (ps.map (·.1)).Nodup) :
    (∀ q, rdPred (ps.foldl (fun t p => wrPred t p.1 p.2) t) q =
      if q = 0 then true else (ps.lookup q).getD (rdPred t q)) ∧
    ps.foldl (fun t p => wrPred t p.1 p.2) t = { t with p := (ps.foldl (fun t p => wrPred t p.1 p.2) t).p } := by
  induction ps generalizing t with
  | nil =>
    refine ⟨fun q => ?_, rfl⟩
    by_cases hq : q = 0
    · subst hq; rfl
    · rw [if_neg hq]; rfl
  | cons r ps ih =>
    obtain ⟨k, b⟩ := r
    simp only [List.map_cons, List.nodup_cons] at hd
    obtain ⟨h1, h2⟩ := ih (wrPred t k b) hd.2
    rw [List.foldl_cons]
    refine ⟨fun q => ?_, ?_⟩
    · rw [h1]
      by_cases hq : q = 0
      · simp [hq]
      · simp only [hq, if_false, rdPred_wrPred]
        by_cases hn : k = q
        · subst hn
          have : ps.lookup k = none := by
            rw [List.lookup_eq_none_iff]
            intro p hp
            have : p.1 ∈ ps.map (·.1) := List.mem_map_of_mem hp
            have hne : k ≠ p.1 := fun he => hd.1 (he ▸ this)
            simpa using hne
          simp [this, List.lookup]
        · have hb : (q == k) = false := by simpa using Ne.symm hn
          simp [List.lookup, hb, hn]
    · rw [h2, wrPred_frame]

/-- What a register-only effect writes, where no register and no predicate stands twice in it. -/
theorem applyEff_sets (t : Thread) (x : Eff) (hr : (x.regs.map (·.1)).Nodup) (hp : (x.preds.map (·.1)).Nodup) :
    Sets x.regs x.preds x.flags t (applyEff t x) := by
  obtain ⟨a1, a2⟩ := wrRegs_spec x.regs t hr
  obtain ⟨b1, b2⟩ := wrPreds_spec x.preds (wrRegs t x.regs) hp
  have hv : ∀ n, rdReg (applyEff t x) n = rdReg (x.preds.foldl (fun t p => wrPred t p.1 p.2) (wrRegs t x.regs)) n :=
    fun _ => rfl
  have hq : ∀ n, rdPred (applyEff t x) n = rdPred (x.preds.foldl (fun t p => wrPred t p.1 p.2) (wrRegs t x.regs)) n :=
    fun _ => rfl
  have hp0 : ∀ q, rdPred (wrRegs t x.regs) q = rdPred t q := by intro q; rw [a2]; rfl
  have hr0 : ∀ n, rdReg (x.preds.foldl (fun t p => wrPred t p.1 p.2) (wrRegs t x.regs)) n = rdReg (wrRegs t x.regs) n := by
    intro n; rw [b2]; rfl
  refine ⟨fun n => by rw [hv, hr0, a1], fun q => by rw [hq, b1, hp0], ?_, ?_⟩
  · simp only [applyEff, orStat]; rw [b2, a2]
  · simp only [applyEff, orStat]
    rw [b2, a2]

theorem count_contexts (s s' : State) (a e n : Nat) (h : s'.contexts = s.contexts) :
    (countEvent s' a e n).contexts = (countEvent s a e n).contexts := by
  simp only [countEvent, modCtx, h]

theorem mem_activeLanes (s : State) (c : Cur) (g : Guard) (l : Nat) (t : Thread) (h : getLane s c.gid l = some t) :
    l ∈ activeLanes s c g ↔ l ∈ c.lanes ∧ guardOf g t = true := by
  simp [activeLanes, h]

/-- The frame of an execution whose lanes all retire. -/
theorem onlyLanes_retire (s : State) (c : Cur) (e : Env) (g : Guard) (h : Nat → Thread → Thread)
    (hl : ∀ k t, t.lane = k → (h k t).lane = k) :
    OnlyLanes s (countEvent (modLanes s c.gid c.lanes h) e.ctx.asid 0 (activeLanes s c g).length) c e g := by
  refine ⟨rfl, rfl, fun gid l hn => ?_, fun gid => ?_⟩
  · rw [getLane_groups (modLanes s c.gid c.lanes h) (countEvent (modLanes s c.gid c.lanes h) e.ctx.asid 0 _) rfl,
      getLane_modLanes _ _ _ _ _ _ hl, if_neg]
    exact fun hc => hn ⟨hc.1.symm, hc.2⟩
  · have : getGroup (countEvent (modLanes s c.gid c.lanes h) e.ctx.asid 0 (activeLanes s c g).length) gid =
        getGroup (modLanes s c.gid c.lanes h) gid := rfl
    rw [this, modLanes, getGroup_modGroup _ _ _ (onLanes c.lanes h) fun _ => rfl]
    split
    · cases getGroup s gid <;> rfl
    · rfl

/-- The law of register-only instructions. -/
theorem alu_writes (i : Instr) (g : Guard) (us : List RegUse) (pre : (Nat → Word) → Thread → Prop)
    (f : (Nat → Word) → Thread → Except Nat Eff) (x : (Nat → Word) → Thread → Eff)
    (hi : ∀ s, exec i s = alu g us f s) (hf : ∀ rd t, pre rd t → f rd t = .ok (x rd t))
    (hr : ∀ rd t, pre rd t → ((x rd t).regs.map (·.1)).Nodup)
    (hp : ∀ rd t, pre rd t → ((x rd t).preds.map (·.1)).Nodup) :
    Writes i g us pre fun rd t => ((x rd t).regs, (x rd t).preds, (x rd t).flags) := by
  intro s0 c e _ R
  generalize hs : settleStreams s0 c e g us = s
  have hact : ∀ l ∈ activeLanes s c g, ∃ t ov t0, getLane s c.gid l = some t ∧
      operandsOf s e (execRec s0 c e g) t us = .ok ov t0 ∧ pre (readOver ov t) t0 := by
    intro l hl
    have hlc : l ∈ c.lanes := (List.mem_filter.mp hl).1
    obtain ⟨t, ht, hg⟩ := R.lane l hlc
    rw [hs] at ht hg
    obtain ⟨ov, t0, h1, h2⟩ := hg ((mem_activeLanes s c g l t ht).mp hl).2
    exact ⟨t, ov, t0, ht, h1, h2⟩
  obtain ⟨h, e1, e2, e3⟩ := alu_ok g us f s0 s c e R.cur R.env R.nodup R.pairs hs (by
    intro l hl
    obtain ⟨t, ov, t0, h1, h2, h3⟩ := hact l hl
    exact ⟨t, ov, t0, x (readOver ov t) t0, h1, h2, hf _ _ h3⟩)
  have hret : ∀ k t, t.lane = k → (retire c (activeLanes s c g) h k t).lane = k := by
    intro k t ht
    simp only [retire]
    split
    · rw [goOn_lane]; exact e2 k t ht
    · rw [goOn_lane]; exact ht
  refine ⟨_, (hi s0).trans e1, onlyLanes_retire s c e g _ hret, ?_⟩
  intro l hl t ht
  have hget : getLane (countEvent (modLanes s c.gid c.lanes (retire c (activeLanes s c g) h)) e.ctx.asid 0
      (activeLanes s c g).length) c.gid l = some (retire c (activeLanes s c g) h l t) := by
    rw [getLane_groups (modLanes s c.gid c.lanes (retire c (activeLanes s c g) h)) (countEvent _ e.ctx.asid 0 _) rfl,
      getLane_modLanes _ _ _ _ _ _ hret, if_pos ⟨rfl, hl⟩, ht]
    rfl
  constructor
  · intro hg ov t0 ho
    have hla : l ∈ activeLanes s c g := (mem_activeLanes s c g l t ht).mpr ⟨hl, hg⟩
    obtain ⟨t', ht', hg'⟩ := R.lane l hl
    rw [hs] at ht' hg'
    have htt : t' = t := by rw [ht] at ht'; exact (Option.some.inj ht').symm
    subst htt
    obtain ⟨ov', t0', h1, h2⟩ := hg' hg
    rw [ho] at h1
    cases h1
    refine ⟨applyEff t0 (x (readOver ov t') t0), ?_, applyEff_sets _ _ (hr _ _ h2) (hp _ _ h2)⟩
    rw [hget]
    simp only [retire, List.contains_eq_mem, hla, decide_true, if_true]
    rw [e3 l hla t' ov t0 _ ht ho (hf _ _ h2)]
  · intro hg
    have hla : l ∉ activeLanes s c g := fun hm => by
      have := ((mem_activeLanes s c g l t ht).mp hm).2
      rw [hg] at this; contradiction
    rw [hget]
    simp [retire, hla]

end Sys2Proof.Machine
end

