-- ==== Sys2Proof/Tests/Slice0.lean ====
section
/-!
SUPPORT. Small tests: words of the spec decode to their instructions, ill-formed terms are refused, results that the spec
works out, and for each claim with premises a concrete state that meets them (`witness_…`).
-/

namespace Sys2Proof.Tests

set_option Elab.async false

open Sys2Proof.Machine

/-! ## Words that the spec prints (chapters 4 to 11 and the worked programs) -/

/-- The guard p0. -/
abbrev tG : Guard := ⟨0, false⟩

/-- Table 5.9 and chapter 6: control, integer, predicate and address words. -/
theorem test_decode_control : decodeThread 0x0102000000000400 none = .ok (.bra ⟨1, false⟩ 4) ∧
    decodeThread 0x0600000000000002 none = .ok (.rte tG true) ∧
    decodeThread 0x0380000000000000 none = .ok (.exit tG) := by decide
theorem test_decode_integer : decodeThread 0x1900034000008800 none = .ok (.imulI tG .n32 .lo 13 0 136) ∧
    decodeThread 0x1800014050000100 none = .ok (.iaddI tG .n32 false 5 5 1) ∧
    decodeThread 0x08800500A0380900 none = .ok (.iaddc tG false 20 10 14 9) := by decide
theorem test_decode_predicate : decodeThread 0x2080024000000004 none = .ok (.pset tG .xor false false 9 0 0) ∧
    decodeThread 0x1E0000400000040A none = .ok (.isetI tG .n32 .ge 1 0 4) := by decide
theorem test_decode_address : decodeThread 0x1680020060000004 none = .ok (.lea tG false 2 8 6 0) := by decide
theorem test_decode_literal : decodeThread 0x2500028080000040 (some 0xFFFFFFFFFFFFFFF8) =
    .ok (.andL tG .n64 10 8 0xFFFFFFFFFFFFFFF8) ∧
    decodeThread 0x2180018000000000 (some 0x4000000000) = .ok (.lit tG false 6 0x4000000000) := by decide
theorem test_decode_modular : decodeThread 0x2A800280C0381000 none = .ok (.bflyR tG false 10 12 14 16) ∧
    decodeThread 0x2A800280C0381002 none = .ok (.bflyR tG true 10 12 14 16) := by decide
/-- Chapter 7: float and cross-lane words. -/
theorem test_decode_float : decodeThread 0x418001C040140608 none = .ok (.ffmaR tG .f32 ⟨.rz, false, false⟩ 7 4 5 6) ∧
    decodeThread 0x5100010020000020 none = .ok (.unpack tG .f16 false 0 4 2) := by decide
theorem test_decode_cross : decodeThread 0x538005C040580404 none = .ok (.shflXorR tG 2 23 4 22 4) ∧
    decodeThread 0x5780028090000000 none = .ok (.matchv tG .peers false 10 9) ∧
    decodeThread 0x56800380C0000002 none = .ok (.redux tG .add .f32 14 12) := by decide
/-- Chapter 8: loads, stores, atomics and fences. -/
theorem test_decode_memory : decodeThread 0x3000058100180920 none =
      .ok (.ldg tG ⟨22, 16, 0x180, .dev, .acq, .w4, .unsigned, false, false⟩) ∧
    decodeThread 0x32880100D1000030 none = .ok (.sts ⟨4, false⟩ ⟨4, 13, 0x1000, .grp, .plain, .w8, .unsigned, false, false⟩) ∧
    decodeThread 0x3700000000014600 none = .ok (.fence tG .rel .dev 6) := by decide
theorem test_decode_atomic : decodeThread 0x3900028080300000 (some 0x84000000) =
      .ok (.atg tG ⟨10, 8, 12, 0, 0, .dev, .rlx, .add, .n32, false⟩) ∧
    decodeThread 0x3A00000120140000 (some 0x14084000000) =
      .ok (.redg tG ⟨0, 18, 5, 0, 0x140, .dev, .rlx, .add, .n32, false⟩) := by decide
/-- Chapter 9: barriers, timelines and network copies. -/
theorem test_decode_async : decodeThread 0x5B0000C0C0000002 none = .ok (.barwait tG 3 12 (.const 0)) ∧
    decodeThread 0x62800002C0010008 none = .ok (.tlwaitI tG .dev false 44 256) ∧
    decodeThread 0x6380078280093600 none = .ok (.ncopy tG ⟨30, 40, 2, .w4, .glb, .glb⟩ false) ∧
    decodeThread 0x5D00000000000100 none = .ok (.barwaitMb tG 0 1) := by decide
/-- Chapters 11 and 15. -/
theorem test_decode_system : decodeThread 0x6900038000001700 none = .ok (.sysr tG 14 0x017) ∧
    decodeThread 0x68800500E0140300 none = .ok (.contend tG false 20 3 14 5) ∧
    decodeThread 0x68000000C0000000 none = .ok (.migr tG false 0 12) := by decide
/-- Chapter 10 and the transform program. -/
theorem test_decode_matrix : decodeMatrix 0x2200000004004008 0 = .ok (.mldb ⟨0, .e4m3, 0x80, 8, false, 0, 0, false⟩) ∧
    decodeMatrix 0x4004000000000440 0 = .ok (.mma ⟨0, 1, 0, 0, 0, 0, false⟩ .e4m3 .e4m3) ∧
    decodeMatrix 0x2800000002008000 0 = .ok (.mst .f32 0 ⟨0x400, 16, false, 0⟩) ∧
    decodeMatrix 0x4804000800400800 0 = .ok (.mintt ⟨1, 0x400, 0x20, 4⟩) ∧
    decodeMatrix 0x1000000000002001 0x61 = .ok (.msetq 0 64 0x61) := by decide
/-- Table 5.8: `xspawn a0, a1, a2` with two argument registers; a reserved custom-0 word; a word of the base set. -/
theorem test_decode_xvexrus :
    decodeXvexrus 3 (0#3 ++ 2#4 ++ 12#5 ++ 11#5 ++ 0#3 ++ 10#5 ++ 0x0B#7) = some (.xspawn 2 12 11 10) ∧
    decodeXvexrus 3 (0#7 ++ 1#5 ++ 11#5 ++ 2#3 ++ 10#5 ++ 0x0B#7) =
      some (.reservedCustom0 3 (0#7 ++ 1#5 ++ 11#5 ++ 2#3 ++ 10#5 ++ 0x0B#7)) ∧
    decodeXvexrus 3 0x00000013 = none := by decide
/-- R78, R80, R59: an unused field, an odd pair, a reserved code and a missing literal are refused; 0x5F is unassigned. -/
theorem test_decode_refuses : decodeThread 0x0080000000000100 none = .error .reservedBits ∧
    decodeThread (encode (.mov tG .n64 2 3) |> fun | .thread w _ => w | _ => 0) none = .error .reservedCombination ∧
    decodeThread 0x2500028080000040 none = .error .noLiteral ∧ decodeThread 0x8282000000001E00 none = .error .headerBit ∧
    decodeThread (0#1 ++ 0x5F#8 ++ 0#55) none = .ok (.unassignedOpcode tG 0x5F) := by decide
/-- A literal row of the opcode table, and a 32-bit one. -/
theorem test_table_word : decodeTableWord 128 (0x2180018000000000 + 2 ^ 64 * 0x4000000000) =
      some (.lit tG false 6 0x4000000000) ∧ decodeTableWord 32 0x0000250B = some (.xjoin 0 10) := by decide

/-! ## Terms that no word encodes -/

/-- Pairs are even registers (R18). -/
theorem test_illformed_pairs : [Instr.brx tG 3, .callR tG 0 3, .iaddR tG .n64 false 1 2 4, .iaddc tG true 2 3 4 0,
    .iminR tG .i64 2 4 5, .popc tG .n64 0 1, .brev tG .n64 1 2, .andR tG .n64 2 4 5, .shlR tG .n64 1 2 0,
    .shrR tG .i64 2 1 0, .bfxR tG .n64 1 2 0, .bfiR tG .n64 2 4 0 5, .selR tG 1 true 2 4 5, .mov tG .n64 2 3,
    .lea tG false 0 1 2 0, .sbind tG (.bind 0 true 1 0), .movi tG true 1 0, .isetR tG .n64 .eq 1 2 3,
    .pmov tG (.save 1), .pmov tG (.load 1), .lit tG false 1 0, .vote tG (.mask 1) 0 false, .matchv tG .peers false 1 0,
    .tileq tG 1 0, .tlwaitR tG .dev false 1 2, .tlread tG .dev false false false false 1 2, .enq tG 1 3 0,
    .allocGlbR tG 1 1 0, .freeGlb tG 3, .migr tG false 0 3, .contend tG false 1 0 2 0, .cntr tG 1 0,
    .prefGlb tG false 1 0, .unpack tG .f16 false 0 1 0].all (fun i => !i.wf) = true := by decide
/-- Signed and unsigned types where a table takes only the other (R111, R115, R117, R119). -/
theorem test_illformed_types : [Instr.iabs tG .n32 false 0 0, .ineg tG .n32 true 0 0, .popc tG .i32 0 0, .not tG .i32 0 0,
    .andI tG .i16 0 0 0, .shlI tG .i32 0 0 0, .bfiI tG .i32 0 0 0, .faddR tG .e4m3 ⟨.rn, false, false⟩ 0 0 0,
    .frsq tG .f32 ⟨.rz, false, false⟩ 0 0, .frcp tG .bf16 ⟨.rn, false, false⟩ 0 0,
    .hadd2 tG .f32 ⟨.rn, false, false⟩ 0 0 0, .isetI tG .n32 .num 1 0 0,
    .bscale tG (.derive .f16 0 0), .pack tG .e4m3 ⟨.rn, false, false⟩ 2 0 0 0, .redux tG .xadd (.int .n32) 0 0,
    .scan tG .and .f32 0 0, .cvt tG (.int .n32) (.int .n32) ⟨.rn, false, false⟩ 0 0,
    .cvt tG (.flt .e4m3) (.flt .e4m3) ⟨.rn, false, false⟩ 0 0].all (fun i => !i.wf) = true := by decide
/-- HW of `imul` and `imad` (R113). -/
theorem test_illformed_products : [Instr.imulR tG .n16 .hi 0 0 0, .imadR tG .n32 .hi 0 0 0 0, .imulR tG .n64 .wide 0 0 0,
    .imulR tG .n32 .wide 1 0 0, .imadL tG .i32 .wide 0 0 1 0].all (fun i => !i.wf) = true := by decide
/-- Modular registers, the quad of `mred.w`, and a `bfly` onto itself (R123). -/
theorem test_illformed_modular : [Instr.maddmR tG 1 2 4 6, .mredR tG true 0 2 4, .bflyR tG false 2 2 4 6,
    .mmulmL tG 0 2 3 5].all (fun i => !i.wf) = true := by decide
/-- Loads and stores: scope without order, release load, acquire store, types by width, wide registers, spaces
(R149, R155, R156). -/
theorem test_illformed_memory :
    let m : MemOp := ⟨0, 0, 0, .grp, .plain, .w4, .unsigned, false, false⟩
    [Instr.ldg tG { m with scope := .dev }, .ldg tG { m with ord := .rel }, .stg tG { m with ord := .acq },
     .ldg tG { m with ty := .bf }, .ldg tG { m with ty := .ieee, wid := .w1 }, .ldg tG { m with wid := .w16, d := 2 },
     .ldg tG { m with wid := .w8, d := 1 }, .ldg tG { m with a := 1 }, .ldp tG { m with raw := true },
     .stp tG { m with ord := .rlx }, .lds tG { m with ss := true }, .sts tG { m with raw := true },
     .ldc tG { m with raw := true }, .ldio tG { m with wid := .w2 }, .stio tG { m with ty := .signed },
     .fence tG .rel .dev 0].all (fun i => !i.wf) = true := by decide
/-- Atomics by operation and type (Table 8.3), an operand C without `.cas`, reductions with a destination (R163). -/
theorem test_illformed_atomics :
    let x : AtomOp := ⟨0, 0, 0, 0, 0, .dev, .rlx, .add, .n32, false⟩
    [Instr.atg tG { x with aop := .and, aty := .i32 }, .atg tG { x with aop := .amax }, .atg tG { x with c := 1 },
     .atg tG { x with aty := .n64, d := 1 }, .atg tG { x with a := 1 }, .redg tG { x with d := 2 },
     .redc tG { x with ord := .ar }, .redc tG { x with aop := .exch }, .amxsCmn tG ⟨0, 0, 0, .dev, .plain, false⟩,
     .amxsGlb tG ⟨0, 1, 0, .dev, .rlx, false⟩].all (fun i => !i.wf) = true := by decide
/-- Copies: widths, space pairs, address pairs; counts of barriers; a bound constant without `.rg` (chapter 9). -/
theorem test_illformed_async :
    let x : CopyOp := ⟨0, 2, 4, .w4, .scr, .glb⟩
    [Instr.acopy tG { x with wid := .w2 } false false, .acopy tG { x with dspc := .glb } false false,
     .acopy tG { x with sa := 3 } false false, .barinit tG 0 0, .barinit tG 0 4097, .bartest tG 1 0 (.const 0) false 2,
     .ncopy tG x false, .ncopy tG { x with dspc := .glb, ba := 1 } false, .contend tG false 0 1 2 0xF0,
     .migr tG false 1 2, .cntr tG 0 8, .allocGlbI tG 6 2 0].all (fun i => !i.wf) = true := by decide
/-- Matrix commands (R202): an empty `msetq`, a pitch of 0, K0 off a block, a transform length out of range, a plane
of a code that has none (R207). -/
theorem test_illformed_matrix : [Instr.msetq 0 0 5, .msetq 1 64 5, .mldb ⟨0, .f32, 0, 0, false, 0, 0, false⟩,
    .mldb ⟨0, .i8, 0, 8, false, 0, 1, false⟩,
    .mlda .f32 0 ⟨0, 0, false, 0⟩, .mst .f32 0 ⟨0, 0, false, 0⟩, .mma ⟨0, 0, 0, 0, 0, 4, false⟩ .f32 .f32,
    .mntt ⟨0, 0, 0, 3⟩, .mintt ⟨0, 0, 0, 17⟩].all (fun i => !i.wf) = true := by decide
/-- Xvexrus argument counts, and words that are assigned (R84, R94). -/
theorem test_illformed_words : [Instr.xspawn 9 0 0 0, .xdisp 9 0 0 0, .unassignedOpcode tG 0x10, .unassignedMop 1,
    .reservedCustom0 0 0x0005A50B].all (fun i => !i.wf) = true := by decide

/-! ## A small machine -/

/-- A thread of lane `l` at the first word of a block, with registers. -/
def tThread (l : Nat) (v : List (Nat × Word)) : Thread := { labThread 1 l with v := v }
/-- A group of 16 lanes' width with the threads. -/
def tGroup (ts : List Thread) : Group := { labGroup 7 3 1 with threads := ts }
/-- A context with its code page, a grid, a gang, a team and one group; an execution of lanes `ls` is in progress. -/
def tState (ls : List Nat) (ts : List Thread) : State :=
  { State.reset with
    groups := [tGroup ts], teams := [labTeam 3 4 5], gangs := [labGang 5 4 3], grids := [labGrid 4 9],
    contexts := [labContext 9], dies := State.reset.dies.modify 0 (labDie 9), cur := some ⟨7, ls, 0x1008, 0x1010, true, true⟩ }
/-- The execution. -/
def tCur (ls : List Nat) : Cur := ⟨7, ls, 0x1008, 0x1010, true, true⟩
/-- Its surroundings. -/
def tEnv (ts : List Thread) : Env := ⟨tGroup ts, labTeam 3 4 5, labGrid 4 9, labContext 9⟩

/-- The lane of a machine with one thread that is in the execution. -/
theorem active_one (s : State) (t : Thread) (hl : getLane s 7 0 = some t) : activeLanes s (tCur [0]) tG = [0] := by
  simp [activeLanes, tCur, hl, guardOf, rdPred, tG]

/-- Such a machine is ready, alone and uniform for an instruction whose operands are plain registers. -/
theorem lone_one {s : State} {e : Env} {t : Thread} (us : List RegUse) (hc : s.cur = some (tCur [0]))
    (he : env s 7 = some e) (hl : getLane s 7 0 = some t) (hp : pairIllegal e.grid.desc.regs us = false)
    (ho : operandsOf s e (execRec s (tCur [0]) e tG) t us = .ok [] t)
    (hs : settleStreams s (tCur [0]) e tG us = s := by rfl) : Lone s (tCur [0]) e tG us 0 t t (readOver [] t) where
  cur := hc
  env := he
  nodup := by decide
  all k hk := by rw [List.mem_singleton.1 hk]; show (getLane s 7 0).isSome = true; rw [hl]; rfl
  pairs := hp
  only := active_one s t hl
  lane := hl
  still := hs
  taken := ⟨[], ho, rfl⟩

theorem ready_one {s : State} {e : Env} {t : Thread} (us : List RegUse) (hc : s.cur = some (tCur [0]))
    (he : env s 7 = some e) (hl : getLane s 7 0 = some t) (hp : pairIllegal e.grid.desc.regs us = false)
    (ho : operandsOf s e (execRec s (tCur [0]) e tG) t us = .ok [] t)
    (hs : settleStreams s (tCur [0]) e tG us = s := by rfl) : Ready s (tCur [0]) e tG us anyOperands where
  cur := hc
  env := he
  nodup := by decide
  pairs := hp
  lane l hl' := by
    rw [show settleStreams s (tCur [0]) e tG us = s from hs]
    exact ⟨t, by rw [List.mem_singleton.1 hl']; exact hl, fun _ => ⟨[], t, ho, trivial⟩⟩

theorem uniform_one {s : State} {e : Env} {t : Thread} (us : List RegUse) (hc : s.cur = some (tCur [0]))
    (he : env s 7 = some e) (hl : getLane s 7 0 = some t) (hp : pairIllegal e.grid.desc.regs us = false)
    (hr : rangeFault e.grid.desc.regs us = false) (hb : boundFault t us = false)
    (ho : takeStreams s e (execRec s (tCur [0]) e tG) t us = .ok [] t)
    (hs : settleStreams s (tCur [0]) e tG us = s := by rfl) : Uniform s (tCur [0]) e tG us 0 t t (readOver [] t) where
  cur := hc
  env := he
  nodup := by decide
  all k hk := by rw [List.mem_singleton.1 hk]; show (getLane s 7 0).isSome = true; rw [hl]; rfl
  pairs := hp
  range := hr
  bound k hk x hx := by
    rw [List.mem_singleton.1 hk] at hx
    rw [show getLane s 7 0 = some x from hx] at hl
    cases hl; exact hb
  head := by rw [active_one s t hl]; rfl
  lane := hl
  still := hs
  taken := ⟨[], ho, rfl⟩

theorem meets_one {s : State} {e : Env} {t : Thread} (us : List RegUse) (hc : s.cur = some (tCur [0]))
    (he : env s 7 = some e) (hl : getLane s 7 0 = some t) (hm : e.group.threads.all (fun x => x.lane == 0) = true)
    (hp : pairIllegal e.grid.desc.regs us = false) (ho : operandsOf s e (execRec s (tCur [0]) e tG) t us = .ok [] t)
    (hw : (meetCur e.group (tCur [0])).lanes = [0] := by rfl)
    (hf : metLanes e.group (tCur [0]) = none := by rfl)
    (hs : settleStreams s (tCur [0]) e tG us = s := by rfl) :
    Meets s (tCur [0]) e tG us [⟨0, readOver [] t, t⟩] where
  cur := hc
  env := he
  asc := by decide
  low := by decide
  whole := hw
  fresh := hf
  still := hs
  all k hk := by rw [List.mem_singleton.1 hk]; show (getLane s 7 0).isSome = true; rw [hl]; rfl
  met x hx := .inl (by simp [tCur, by simpa using List.all_eq_true.1 hm x hx])
  pairs := hp
  lanes := (active_one s t hl).symm
  taken m hm' := by rw [List.mem_singleton.1 hm']; exact ⟨t, [], hl, ho, rfl⟩

/-! ## Premises of the claims about registers (O1 to O7, O12 to O14) -/

/-- The single thread of the fixture. -/
abbrev tT (v : List (Nat × Word)) : Thread := tThread 0 v
/-- The fixture with one thread. -/
abbrev tS (v : List (Nat × Word)) : State := tState [0] [tT v]

theorem witness_integer_arithmetic : Ready (tS [(8, 5), (9, 7)]) (tCur [0]) (tEnv [tT [(8, 5), (9, 7)]]) tG
    (useDAB false 7 8 9) anyOperands := ready_one _ rfl rfl rfl rfl rfl
theorem witness_integer_pairs : Ready (tS []) (tCur [0]) (tEnv [tT []]) tG (useDAB true 6 8 1022) anyOperands :=
  ready_one _ rfl rfl rfl rfl rfl
theorem witness_products : Ready (tS []) (tCur [0]) (tEnv [tT []]) tG [dst true 6, src false 8, src false 9, src true 10]
    anyOperands ∧ HW.wide ≠ .hi := ⟨ready_one _ rfl rfl rfl rfl rfl, by decide⟩
theorem witness_modular : (Instr.mmulmR tG 6 8 10 12).wf = true ∧
    residues (pair64 · 12) [8, 10] (readOver [] (tT [(8, 96), (12, 97)])) (tT [(8, 96), (12, 97)]) ∧
    Ready (tS [(8, 96), (12, 97)]) (tCur [0]) (tEnv [tT [(8, 96), (12, 97)]]) tG
      [dst true 6, src true 8, src true 10, src true 12] (residues (pair64 · 12) [8, 10]) := by
  have h : residues (pair64 · 12) [8, 10] (readOver [] (tT [(8, 96), (12, 97)])) (tT [(8, 96), (12, 97)]) :=
    ⟨by unfold Modulus; decide, by decide⟩
  exact ⟨by decide, h, { ready_one [dst true 6, src true 8, src true 10, src true 12] rfl rfl rfl rfl rfl with
    lane := fun l hl => ⟨_, by rw [List.mem_singleton.1 hl]; rfl, fun _ => ⟨[], _, rfl, h⟩⟩ }⟩
/-- An operand at q, and a modulus of 1: both checks fail. -/
theorem witness_modular_fails : Lone (tS [(8, 97), (12, 97)]) (tCur [0]) (tEnv [tT [(8, 97), (12, 97)]]) tG
      [dst true 6, src true 8, src true 10, src true 12] 0 (tT [(8, 97), (12, 97)]) (tT [(8, 97), (12, 97)])
      (readOver [] (tT [(8, 97), (12, 97)])) ∧
    ¬residues (pair64 · 12) [8, 10] (readOver [] (tT [(8, 97), (12, 97)])) (tT [(8, 97), (12, 97)]) ∧
    ¬residues (pair64 · 12) [8, 10] (readOver [] (tT [(12, 1)])) (tT [(12, 1)]) :=
  ⟨lone_one _ rfl rfl rfl rfl rfl, fun h => absurd (h.2 8 (by decide)) (by decide),
    fun h => absurd h.1 (by unfold Modulus; decide)⟩
theorem witness_logic : ITy.n64.signed = false ∧
    Ready (tS []) (tCur [0]) (tEnv [tT []]) tG [dst false 6, src true 8] anyOperands :=
  ⟨rfl, ready_one _ rfl rfl rfl rfl rfl⟩
theorem witness_predicates : Cmp.ge.integer = true ∧
    Ready (tS []) (tCur [0]) (tEnv [tT []]) tG [src true 8, src true 10] anyOperands :=
  ⟨rfl, ready_one _ rfl rfl rfl rfl rfl⟩
theorem witness_floats : FTy.bf16.half = true ∧ FTy.f16.special = true ∧ (FVal.fin true 3 (-2)).Finite ∧
    (Instr.pack tG .e4m3 ⟨.rn, false, false⟩ 1 0 2 3).wf = true ∧ (Instr.unpack tG .e2m1x false 3 4 2).wf = true ∧
    Ready (tS []) (tCur [0]) (tEnv [tT []]) tG (fUses 6 [8, 9, 10]) anyOperands :=
  ⟨rfl, rfl, trivial, by decide, by decide, ready_one _ rfl rfl rfl rfl rfl⟩
/-- 2^30 × 3 overflows no format of 8 exponent bits. -/
theorem witness_round : (fRound .f32 .rn false (.fin false 3 30)).flags &&& flOverflow = 0 := by decide
/-- Operands of the bounded functions: 1.0 in FP32 and in FP16. -/
theorem witness_bounded : (fOperand .f32 false 0x3F800000).Finite ∧ (fOperand .f32 true 0x3F800000).Finite ∧
    (fOperand .f16 false 0x3C00).Finite ∧ (0 : ℝ) < ((fOperand .f32 false 0x3F800000).rat : ℝ) ∧
    ((fOperand .f32 false 0x3F800000).rat : ℝ) < 128 ∧ (0 : ℝ) < ((fOperand .f16 false 0x3C00).rat : ℝ) ∧
    ((fOperand .f16 false 0x3C00).rat : ℝ) < 16 := by
  have h : (fOperand .f32 false 0x3F800000) = .fin false 8388608 (-23) := by decide
  have k : (fOperand .f16 false 0x3C00) = .fin false 1024 (-10) := by decide
  refine ⟨trivial, trivial, trivial, ?_⟩
  rw [h, k]
  norm_num [FVal.rat]
theorem witness_meeting : Meets (tS []) (tCur [0]) (tEnv [tT []]) tG [dst false 6, src false 8, src false 9, src false 10]
    [⟨0, readOver [] (tT []), tT []⟩] := meets_one _ rfl rfl rfl rfl rfl rfl
/-- A thread elsewhere in the group keeps lane 0 waiting. -/
theorem witness_no_meeting : let ts := [tT [], tThread 1 []]
    (tState [0] ts).cur = some (tCur [0]) ∧ env (tState [0] ts) 7 = some (tEnv ts) ∧
    (tCur [0]).pc ∉ (tEnv ts).group.crossFree ∧ metLanes (tEnv ts).group (tCur [0]) = none ∧
    (∃ t ∈ (tEnv ts).group.threads, t.lane ∉ (meetCur (tEnv ts).group (tCur [0])).lanes ∧ meetState t = false ∧
      blockedOther t = false) :=
  ⟨rfl, rfl, by decide, rfl, tThread 1 [], by simp [tEnv, tGroup], by decide, rfl, rfl⟩

/-! ## Results that the spec works out -/

/-- The thread of lane 0 after an instruction. -/
def tAfter (i : Instr) (s : State) : Option Thread :=
  match exec i s with
  | .next t => getLane t 7 0
  | _ => none
/-- A register of lane 0 after an instruction of the fixture. -/
def tReg (i : Instr) (v : List (Nat × Word)) (n : Nat) : Option Word := (tAfter i (tS v)).map (rdReg · n)

/-- R111. -/
theorem test_iadd_sat : tReg (.iaddR tG .n16 true 5 6 7) [(6, 0xFFF0), (7, 0x20)] 5 = some 0xFFFF := by decide
theorem test_iabs : tReg (.iabs tG .i32 false 5 6) [(6, 0x80000000)] 5 = some 0x80000000 ∧
    tReg (.iabs tG .i32 true 5 6) [(6, 0x80000000)] 5 = some 0x7FFFFFFF := by decide
/-- R113. -/
theorem test_imul_hi : tReg (.imulR tG .i32 .hi 5 6 7) [(6, 0xFFFFFFFF), (7, 1)] 5 = some 0xFFFFFFFF := by decide
/-- R112: the second `iaddc` of the worked chain. -/
theorem test_iaddc : ((tAfter (.iaddc tG false 21 11 15 9) (tState [0] [{ tT [(11, 0xFFFFFFFF)] with p := 0x200 }])).map
    fun t => (rdReg t 21, rdPred t 9)) = some (0, true) := by decide
/-- R125, q = 97. -/
theorem test_bfly : let v : List (Nat × Word) := [(10, 5), (12, 10), (14, 22), (16, 97)]
    tReg (.bflyR tG false 10 12 14 16) v 10 = some 31 ∧ tReg (.bflyR tG false 10 12 14 16) v 12 = some 76 ∧
    tReg (.bflyR tG true 10 12 14 16) v 12 = some 84 := by decide
/-- R56: an operand equal to q faults. -/
theorem test_modular_fault : ((tAfter (.maddmR tG 6 8 10 12) (tS [(8, 97), (12, 97)])).map (·.status)) =
    some (.parked 0x0A 0 false false) := by decide
/-- R130. -/
theorem test_fadd : tReg (.faddR tG .f32 ⟨.rn, false, false⟩ 6 4 5) [(4, 0x3F800000), (5, 0x33800000)] 6 = some 0x3F800000 ∧
    tReg (.faddR tG .f32 ⟨.rp, false, false⟩ 6 4 5) [(4, 0x3F800000), (5, 0x33800000)] 6 = some 0x3F800001 := by decide
/-- R136's example: 500.0 saturates to 448 in E4M3. -/
theorem test_cvt_sat : tReg (.cvt tG (.flt .e4m3) (.flt .f32) ⟨.rn, false, true⟩ 5 4) [(4, 0x43FA0000)] 5 = some 0x7E := by
  decide
/-- Table 3.4: −2.75 in E4M3, E5M2 and E2M1. -/
theorem test_round_table : (fRound .e4m3 .rn false (.fin true 11 (-2))).code = 0xC3 ∧
    (fRound .e5m2 .rn false (.fin true 11 (-2))).code = 0xC2 ∧ (fRound .e2m1x .rn false (.fin true 11 (-2))).code = 0xD := by
  decide
/-- R116: the select function is 0xD8. -/
theorem test_lop3 : tReg (.lop3Hi tG 0x58 5 6 7 8) [(6, 0xFFFF0000), (7, 0x12345678), (8, 0x9ABCDEF0)] 5 =
    some 0x1234DEF0 := by decide
/-- R145: four lanes of the tree. -/
theorem test_redux_tree : (match exec (.redux tG .add .f32 14 12) (tState [0, 1, 2, 3]
      [tThread 0 [(12, 0x4B800000)], tThread 1 [(12, 0x3F800000)], tThread 2 [(12, 0x3F800000)], tThread 3 [(12, 0x3F800000)]]) with
    | .next s => (getLane s 7 3).map (rdReg · 14)
    | _ => none) = some 0x4B800001 := by decide

/-! ## Premises of the claims about control (O8 to O11) -/

/-- The fixture with the code page's words in memory. -/
abbrev tCode (ts : List Thread) : State := { tState [0] ts with mem := labMem [] 9 (labHeader 1).toNat 0 0 }

theorem witness_hints : firstWord (tCur [0]) = true ∧ Ready (tS []) (tCur [0]) (tEnv [tT []]) tG [src true 8] anyOperands :=
  ⟨rfl, ready_one _ rfl rfl rfl rfl rfl⟩
/-- At the boundary: %cox is exactly the value awaited, and one short of it. -/
theorem witness_sleep_expiry :
    let t := { tT [] with stall := some (.sleep 10) }
    env (tState [0] [t]) 7 = some (tEnv [t]) ∧ getLane (tState [0] [t]) 7 0 = some t ∧
      coxAt (tState [0] [t]) 0 < 10 ∧ 10 ≤ coxAt { tState [0] [t] with cox := 10 } 0 := ⟨rfl, rfl, by decide⟩
/-- A branch back to the header of the block. -/
theorem witness_branch : lastWord (tCur [0]) = true ∧ Ready (tCode [tT []]) (tCur [0]) (tEnv [tT []]) tG [] anyOperands ∧
    queueOf (tEnv [tT []]).group = [] ∧ ((tCur [0]).pc : Int) + 8 * (BitVec.ofInt 20 (-1)).toInt = 0x1000 ∧
    (∀ t ∈ (tEnv [tT []]).group.threads, t.lane ∈ (tCur [0]).lanes → blockEnd t = (tCur [0]).next) ∧
    GoodTarget (tCode [tT []]) (tEnv [tT []]) 0x1000 :=
  ⟨rfl, ready_one _ rfl rfl rfl rfl rfl, rfl, by decide, by decide, by decide, _, _, _, _, _, _, rfl, by decide⟩
/-- A call with an empty stack of 16 bytes, and a return from it. -/
theorem witness_call_and_return :
    let t := tT [(1, 16)]
    let s := { tCode [t] with mem := memWrite (tCode [t]).mem (keyPriv 7 0 16) 8 0x1000 }
    Lone s (tCur [0]) (tEnv [t]) tG [dst false 1, src false 1] 0 t t (readOver [] t) ∧
      (readOver [] t 1).toNat % 8 = 0 ∧ 8 ≤ (readOver [] t 1).toNat ∧ (readOver [] t 1).toNat + 8 ≤ (tEnv [t]).grid.priv ∧
      getBytes s (keyPriv 7 0 16) 8 = 0x1000 ∧ GoodTarget s (tEnv [t]) 0x1000 :=
  ⟨lone_one _ rfl rfl rfl rfl rfl, by decide, by decide, by decide, by decide,
    by decide, _, _, _, _, _, _, rfl, by decide⟩
theorem witness_indirect : let t := tT [(8, 0x1000)]
    Lone (tCode [t]) (tCur [0]) (tEnv [t]) tG [src true 8] 0 t t (readOver [] t) ∧
      (pair64 (readOver [] t) 8).toNat = 0x1000 := ⟨lone_one _ rfl rfl rfl rfl rfl, by decide⟩
/-- A lane with nothing due, and one with a poison fault due. -/
theorem witness_exit : let u := { tT [] with poison := some ⟨0x1008, 0x5000, ⟨0, 0, 0, 0⟩⟩ }
    Lone (tS []) (tCur [0]) (tEnv [tT []]) tG [] 0 (tT []) (tT []) (readOver [] (tT [])) ∧
    Lone (tState [0] [u]) (tCur [0]) (tEnv [u]) tG [] 0 u u (readOver [] u) ∧ u.reads = 0 ∧ Unjoined (tEnv [tT []]) ∧
    (getLane (drainGroup (tS []) 9 7) 7 0).isSome = true ∧ (getLane (drainGroup (tState [0] [u]) 9 7) 7 0).isSome = true :=
  ⟨lone_one _ rfl rfl rfl rfl rfl, lone_one _ rfl rfl rfl rfl rfl, rfl, (fun key h => by cases h), by decide, by decide⟩
/-- With a read outstanding, with none, and with none and a poison fault due. -/
theorem witness_exit_takes_effect :
    let t : Nat → Option PoisonDue → Thread := fun n p => { tT [] with status := .exiting true, reads := n, poison := p }
    let d : PoisonDue := ⟨0x1008, 0x5000, ⟨0, 0, 0, 0⟩⟩
    (∀ n p, env (tState [0] [t n p]) 7 = some (tEnv [t n p]) ∧ getLane (tState [0] [t n p]) 7 0 = some (t n p) ∧ (t n p).stall = none) ∧
    (getLane (settleReds (tState [0] [t 0 (some d)]) (tEnv [t 0 (some d)]) [0]) 7 0).isSome = true :=
  ⟨fun _ _ => ⟨rfl, rfl, rfl⟩, by decide⟩
theorem witness_faults : (tS []).cur = some (tCur [0]) ∧ env (tS []) 7 = some (tEnv [tT []]) ∧ (tCur [0]).lanes.Nodup ∧
    (∀ l ∈ (tCur [0]).lanes, (getLane (tS []) 7 l).isSome = true) ∧
    getGang (tS []) 5 = some (labGang 5 4 3) ∧ (labGang 5 4 3).status = .resident ∧
    activeLanes { tS [] with boot := { Boot.reset with debugOpen := true, haltBkpt := true } } (tCur [0]) tG ≠ [] :=
  ⟨rfl, rfl, by decide, by decide, rfl, rfl, by rw [active_one _ (tT []) rfl]; decide⟩
/-- Lane 0 is parked with its record written; lane 1 has exited. -/
theorem witness_handler_entry :
    let ts := [{ tT [] with status := .parked 0x14 3 true false }, { tThread 1 [] with status := .exited }]
    let s := { tState [0] ts with contexts := [{ labContext 9 with trvec := 0x1000 }] }
    let e : Env := { tEnv ts with ctx := { labContext 9 with trvec := 0x1000 } }
    env s 7 = some e ∧ preemptPending s e.group = false ∧ e.group.threads.any (·.handler) = false ∧ e.ctx.trvec ≠ 0 ∧
      e.group.threads.any readyToEnter = true ∧
      othersMeet e.group ((e.group.threads.filter readyToEnter).map (·.lane)) = true ∧
      (e.group.threads.map (·.lane)).Nodup := ⟨rfl, by decide⟩
theorem witness_rte : let t := { tT [] with handler := true, trcause := 0x00030014, trpc := 0x1008 }
    Lone (tState [0] [t]) (tCur [0]) (tEnv [t]) tG [] 0 t t (readOver [] t) ∧ lastWord (tCur [0]) = true ∧
      t.seqResume = none ∧ (tEnv [t]).group.stack = [] ∧ (tEnv [t]).group.threads.all (fun x => x.stall.isNone) = true ∧
      t.reads = 0 ∧ t.poison = none ∧ reducing (tEnv [t]).group 0 = false ∧ (tCur [0]).lanes = [0] :=
  ⟨lone_one _ rfl rfl rfl rfl rfl, rfl, rfl, rfl, rfl, rfl, rfl, rfl, rfl⟩
/-- `trap 3` parks the lane; in handler mode it ends it (R240, R241). -/
theorem test_trap : ((tAfter (.trap tG 3) (tS [])).map (·.status)) = some (.parked 0x15 3 false false) ∧
    ((tAfter (.trap tG 3) (tState [0] [{ tT [] with handler := true }])).map (·.status)) = some (.exiting false) := by decide

/-! ## Premises of the claims about memory (O15 to O19) -/

/-- A plain access of a word. -/
abbrev tM : MemOp := ⟨4, 8, 0, .grp, .plain, .w4, .unsigned, false, false⟩
/-- The address of the code page in v8:v9, and 0 in PRIV. -/
abbrev tP : Thread := tT [(8, 0x1FFC)]

/-- The last word of a page, in GLB. -/
theorem witness_load :
    Lone (tState [0] [tP]) (tCur [0]) (tEnv [tP]) tG (memUses false .glb tM) 0 tP tP (readOver [] tP) ∧
    flagFull (tEnv [tP]).group (curFlag (tEnv [tP]).group (tCur [0]) false) = false ∧
    LandsAt (tState [0] [tP]) (tEnv [tP]) 0 .glb .read (accessAt .glb (readOver [] tP) 8 0) 4 (keyGlb 9 4 0xFFC) ∧
    Unqueued (tEnv [tP]) (keyGlb 9 4 0xFFC) 4 ∧ queueOf (tEnv [tP]).group = [] ∧ (tState [0] [tP]).upsets = [] :=
  ⟨lone_one _ rfl rfl rfl rfl rfl, by decide, ⟨rfl, by decide, by decide, by decide, _, _, rfl⟩,
    fun o (ho : o ∈ ([] : List LongOp)) => absurd ho List.not_mem_nil, rfl, rfl⟩
/-- The last word of private memory. -/
theorem witness_load_priv : let t := tT [(8, 4092)]
    Lone (tState [0] [t]) (tCur [0]) (tEnv [t]) tG (memUses false .priv tM) 0 t t (readOver [] t) ∧
    LandsAt (tState [0] [t]) (tEnv [t]) 0 .priv .read (accessAt .priv (readOver [] t) 8 0) 4 (keyPriv 7 0 4092) :=
  ⟨lone_one _ rfl rfl rfl rfl rfl, rfl, by decide, by decide, by decide, _, _, rfl⟩
theorem witness_store :
    Lone (tState [0] [tP]) (tCur [0]) (tEnv [tP]) tG (memUses true .glb tM) 0 tP tP (readOver [] tP) ∧
    LandsAt (tState [0] [tP]) (tEnv [tP]) 0 .glb .write (accessAt .glb (readOver [] tP) 8 0) 4 (keyGlb 9 4 0xFFC) ∧
    AllPerformed (tState [0] [tP]) (tEnv [tP]) :=
  ⟨lone_one _ rfl rfl rfl rfl rfl, ⟨rfl, by decide, by decide, by decide, _, _, rfl⟩, rfl, rfl⟩
/-- A release behind a store of the same group. -/
theorem witness_release : let m : MemOp := { tM with ord := .rel }
    let o : LongOp := ⟨21, none, true, false, false, ⟨0, 0, 0, 0⟩, [.store 0 (keyGlb 9 4 0xFF0) 4 7 false]⟩
    let e : Env := { tEnv [tP] with group := { tGroup [tP] with ops := [o] } }
    let s := { tState [0] [tP] with groups := [e.group] }
    Lone s (tCur [0]) e tG (memUses true .glb m) 0 tP tP (readOver [] tP) ∧ m.ord = .rel ∧
    flagFull e.group (curFlag e.group (tCur [0]) false) = false ∧ queueOf e.group = [o] ∧
    LandsAt s e 0 .glb .write (accessAt .glb (readOver [] tP) 8 0) 4 (keyGlb 9 4 0xFFC) :=
  ⟨lone_one _ rfl rfl rfl rfl rfl, rfl, by decide, rfl, rfl, by decide, by decide, by decide, _, _, rfl⟩
theorem witness_scratch : let t := tT [(8, 4092)]
    Lone (tState [0] [t]) (tCur [0]) (tEnv [t]) tG (memUses false .scr tM) 0 t t (readOver [] t) ∧
    Lone (tState [0] [t]) (tCur [0]) (tEnv [t]) tG (memUses true .scr tM) 0 t t (readOver [] t) ∧
    LandsAt (tState [0] [t]) (tEnv [t]) 0 .scr .read (accessAt .scr (readOver [] t) 8 0) 4 (keyScr 3 4092) ∧
    LandsAt (tState [0] [t]) (tEnv [t]) 0 .scr .write (accessAt .scr (readOver [] t) 8 0) 4 (keyScr 3 4092) ∧
    Clean (tState [0] [t]) (keyScr 3 4092) 4 ∧ Unqueued (tEnv [t]) (keyScr 3 4092) 4 ∧ lineEmpty (tState [0] [t]) (keyScr 3 4092) 4 = none ∧
    (lineEmpty { tState [0] [t] with empties := [keyScr 3 4092 / 128] } (keyScr 3 4092) 4).isSome = true :=
  ⟨lone_one _ rfl rfl rfl rfl rfl, lone_one _ rfl rfl rfl rfl rfl, ⟨rfl, by decide, by decide, by decide, _, _, rfl⟩,
    ⟨rfl, by decide, by decide, by decide, _, _, rfl⟩, by unfold Clean; decide, fun o (ho : o ∈ ([] : List LongOp)) => absurd ho List.not_mem_nil,
    by decide⟩

/-- A group with one operation. -/
abbrev tOp (o : LongOp) : Env := { tEnv [tT []] with group := { tGroup [tT []] with ops := [o] } }
/-- Its machine. -/
abbrev tOpState (o : LongOp) : State := { tState [0] [tT []] with groups := [{ tGroup [tT []] with ops := [o] }] }

theorem witness_completion :
    let a : LongOp := ⟨20, some 0, false, true, false, ⟨0, 0, 0, 0⟩, [.load 0 [(4, 1), (5, 2)] 0]⟩
    let b : LongOp := ⟨21, none, true, false, false, ⟨0, 0, 0, 0⟩, [.store 0 (keyGlb 9 4 0xFFC) 4 7 false]⟩
    env (tOpState a) 7 = some (tOp a) ∧ getLane (tOpState a) 7 0 = some (tT []) ∧ a ∈ (tOp a).group.ops ∧
      ((tOp a).group.ops.map (·.id)).Nodup ∧ (∃ x ∈ (tOp a).group.threads, x.status ≠ .exited) ∧
      env (tOpState b) 7 = some (tOp b) ∧ queueOf (tOp b).group = [b] ∧ Fresh (tOpState b) (keyGlb 9 4 0xFFC) ∧
      Undue (tOp b) b :=
  ⟨rfl, rfl, List.mem_singleton.2 rfl, by decide, ⟨tT [], List.mem_singleton.2 rfl, by decide⟩, rfl, rfl,
    fun h => absurd h (by decide), by unfold Undue; decide⟩
theorem witness_atomic : let x : AtomOp := ⟨4, 8, 6, 0, 0, .dev, .rlx, .add, .n32, false⟩
    Lone (tState [0] [tP]) (tCur [0]) (tEnv [tP]) tG [dst false x.d, src true x.a, src false x.b] 0 tP tP (readOver [] tP) ∧
    LandsAt (tState [0] [tP]) (tEnv [tP]) 0 .glb .write (accessAt .glb (readOver [] tP) 8 0) 4 (keyGlb 9 4 0xFFC) ∧
    locate (tState [0] [tP]) (tEnv [tP]) 0 .glb .write 0x1FFC 4 = .ok (keyGlb 9 4 0xFFC) 0 0 false 0 ∧
    AllPerformed (tState [0] [tP]) (tEnv [tP]) :=
  ⟨lone_one _ rfl rfl rfl rfl rfl, ⟨rfl, by decide, by decide, by decide, _, _, rfl⟩, rfl, rfl, rfl⟩
/-- Two lanes at one address. -/
theorem witness_atomic_lanes : let x : AtomOp := ⟨4, 8, 6, 0, 0, .dev, .rlx, .add, .n32, false⟩
    let us := [dst false x.d, src true x.a, src false x.b]
    let ts := [tThread 0 [(8, 0x1FFC)], tThread 1 [(8, 0x1FFC)]]
    let s := tState [0, 1] ts
    let e := tEnv ts
    s.cur = some (tCur [0, 1]) ∧ env s 7 = some e ∧ (tCur [0, 1]).lanes.Nodup ∧ pairIllegal e.grid.desc.regs us = false ∧
    (∀ l ∈ [0, 1], (getLane s 7 l).isSome = true) ∧ settleStreams s (tCur [0, 1]) e tG us = s ∧
    activeLanes s (tCur [0, 1]) tG = [0, 1] ∧ flagFull e.group (curFlag e.group (tCur [0, 1]) false) = false ∧ AllPerformed s e ∧
    ∀ l ∈ [0, 1], ∃ t t0 ov key, getLane s 7 l = some t ∧ operandsOf s e (execRec s (tCur [0, 1]) e tG) t us = .ok ov t0 ∧
      LandsAt s e l .glb .write (accessAt .glb (readOver ov t) 8 0) 4 key ∧
      locate s e l .glb .write (accessAt .glb (readOver ov t) 8 0).toNat 4 = .ok key 0 0 false 0 := by
  refine ⟨rfl, rfl, by decide, rfl, by decide, rfl, ?_, by decide, ⟨rfl, rfl⟩, ?_⟩
  · decide
  · intro l hl
    obtain rfl | rfl : l = 0 ∨ l = 1 := by simpa using hl
    all_goals exact ⟨_, _, _, keyGlb 9 4 0xFFC, rfl, rfl, ⟨rfl, by decide, by decide, by decide, _, _, rfl⟩, rfl⟩
theorem witness_bank_lanes :
    let xs : List (Nat × Nat × Nat × Nat) := [(0, 5, 0, 0x1000), (1, 6, 0, 0x1000)]
    let o : LongOp := ⟨20, none, true, false, false, ⟨0, 0, 0, 0⟩,
      xs.map fun x => .rmw x.1 (keyGlb 9 4 0) 4 (.atom .add .n32) x.2.1 x.2.2.1 (some 4) 0x1008 x.2.2.2⟩
    env (tOpState o) 7 = some (tOp o) ∧ queueOf (tOp o).group = [o] ∧ ((tOp o).group.ops.map (·.id)).Nodup ∧
      Clean (tOpState o) (keyGlb 9 4 0) 4 ∧ keyClass2 (tOpState o) (keyGlb 9 4 0) = false ∧ Undue (tOp o) o ∧
      ∀ x ∈ xs, x.2.1 < 2 ^ (8 * 4) ∧ x.2.2.1 < 2 ^ (8 * 4) :=
  ⟨rfl, rfl, by decide, by unfold Clean; decide, by decide, by unfold Undue; decide, by decide⟩
theorem witness_bank :
    let o : LongOp := ⟨20, none, true, false, false, ⟨0, 0, 0, 0⟩, [.rmw 0 (keyGlb 9 4 0) 4 (.atom .add .n32) 5 0 (some 4) 0x1008 0x1000]⟩
    env (tOpState o) 7 = some (tOp o) ∧ queueOf (tOp o).group = [o] ∧ Clean (tOpState o) (keyGlb 9 4 0) 4 ∧
      Fresh (tOpState o) (keyGlb 9 4 0) ∧ Undue (tOp o) o ∧ 5 < 2 ^ (8 * 4) :=
  ⟨rfl, rfl, by unfold Clean; decide, fun h => absurd h (by decide), by unfold Undue; decide, by decide⟩

/-- A page of format code `f` at 0x5000. -/
abbrev tPage (f : Nat) (t : Thread) : State :=
  { tState [0] [t] with
    contexts := [{ labContext 9 with frames := [{ labFrame 5 with fmt := f }] }],
    dies := State.reset.dies.modify 0 fun d => { labDie 9 d with tlb := [⟨9, 5, 5, BitVec.ofNat 64 (15 + 5 * 2 ^ 20 + f * 2 ^ 6), 4⟩] } }
abbrev tPageEnv (f : Nat) (t : Thread) : Env := { tEnv [t] with ctx := { labContext 9 with frames := [{ labFrame 5 with fmt := f }] } }
abbrev tQ : Thread := tT [(8, 0x5003)]

/-- The page of R159's example: element 3 of an E4M3 page. -/
theorem witness_formatted : let m : MemOp := { tM with ty := .ieee }
    Lone (tPage 1 tQ) (tCur [0]) (tPageEnv 1 tQ) tG (memUses false .glb m) 0 tQ tQ (readOver [] tQ) ∧
    Lone (tPage 1 tQ) (tCur [0]) (tPageEnv 1 tQ) tG (memUses true .glb m) 0 tQ tQ (readOver [] tQ) ∧
    accessAt .glb (readOver [] tQ) 8 0 = 0x5003 ∧ elemFloat .ieee .w4 = some .f32 ∧
    locate (tPage 1 tQ) (tPageEnv 1 tQ) 0 .glb .read 0x5003 4 = .ok (keyGlb 9 5 3) 1 0 false 0 ∧
    locate (tPage 1 tQ) (tPageEnv 1 tQ) 0 .glb .write 0x5003 4 = .ok (keyGlb 9 5 3) 1 0 false 0 ∧
    (∀ p ∈ accRanges m ⟨0x5003, keyGlb 9 5 3, 1, 0, false, 0, true, 0, 0⟩,
      Clean (tPage 1 tQ) p.1 p.2 ∧ Unqueued (tPageEnv 1 tQ) p.1 p.2) ∧ AllPerformed (tPage 1 tQ) (tPageEnv 1 tQ) :=
  ⟨lone_one _ rfl rfl rfl rfl rfl, lone_one _ rfl rfl rfl rfl rfl, by decide, rfl, rfl, rfl,
    fun p _ => ⟨⟨fun u hu => absurd hu (by simp [tState, State.reset]), rfl⟩,
      fun o (ho : o ∈ ([] : List LongOp)) => absurd ho List.not_mem_nil⟩, rfl, rfl⟩
/-- A page of five bit planes. -/
theorem witness_bit_planes : let m : MemOp := { tM with ty := .signed }
    Lone (tPage 12 tQ) (tCur [0]) (tPageEnv 12 tQ) tG (memUses false .glb m) 0 tQ tQ (readOver [] tQ) ∧
    locate (tPage 12 tQ) (tPageEnv 12 tQ) 0 .glb .read 0x5003 4 = .ok (keyGlb 9 5 3) 12 0 false 0 ∧
    (tPage 12 tQ).poison = [] ∧ (tPage 12 tQ).upsets = [] ∧ queueOf (tPageEnv 12 tQ).group = [] :=
  ⟨lone_one _ rfl rfl rfl rfl rfl, rfl, rfl, rfl, rfl⟩
theorem witness_bank_encode : let o : LongOp := ⟨20, none, true, false, false, ⟨0, 0, 0, 0⟩, [.encode 0 (keyGlb 9 5 3) 1 0 .ieee .w4 0x43FA0000]⟩
    env (tOpState o) 7 = some (tOp o) ∧ queueOf (tOp o).group = [o] ∧ Fresh (tOpState o) (keyGlb 9 5 3) ∧
      (tOpState o).poison = [] ∧ Undue (tOp o) o := ⟨rfl, rfl, fun h => absurd h (by decide), rfl, by unfold Undue; decide⟩
/-- Where no frame has class 2, no line has a version. -/
theorem plain_lines {s : State} (h : s.contexts.all (fun c => c.frames.all fun f => f.cc != 2) = true) (m : Nat) :
    keyClass2 s m = false := by
  simp only [keyClass2, keyFrame]
  split
  · cases hc : getCtx s (keyObj m) with
    | none => rfl
    | some c =>
      simp only [Option.bind_some]
      cases hf : frameOf c (m % 2 ^ 64 / 4096) with
      | none => rfl
      | some f =>
        have h1 := List.all_eq_true.1 (List.all_eq_true.1 h c (List.mem_of_find?_eq_some hc)) f (List.mem_of_find?_eq_some hf)
        simpa using h1
  · rfl

/-- A page of four bit planes, and one of E2M1X blocks of either geometry. -/
theorem witness_element_stores :
    let o : Nat → Nat → Ty → LongOp := fun f g ty =>
      ⟨20, none, true, false, false, ⟨0, 0, 0, 0⟩, [.encode 0 (keyGlb 9 5 3) f g ty .w4 0x43FA0000]⟩
    ∀ f g ty, env (tOpState (o f g ty)) 7 = some (tOp (o f g ty)) ∧ queueOf (tOp (o f g ty)).group = [o f g ty] ∧
      (∀ a, a / 4096 = keyGlb 9 5 3 / 4096 → Fresh (tOpState (o f g ty)) a) ∧ (tOpState (o f g ty)).poison = [] ∧
      (tOpState (o f g ty)).upsets = [] ∧ Undue (tOp (o f g ty)) (o f g ty) :=
  fun _ _ _ => ⟨rfl, rfl, fun a _ h => absurd h (by
    rw [plain_lines (show [labContext 9].all (fun c => c.frames.all fun f => f.cc != 2) = true from by decide) a]; decide), rfl, rfl,
    fun u hu => by rw [List.mem_singleton.1 hu]; rfl⟩
/-- R159: the bank stores 448, 0x7E, and no flag is raised. -/
theorem test_encode : (fRound .e4m3 .rn true (storeVal .ieee .w4 0x43FA0000).1).code = 0x7E := by decide

/-! ## Premises of the claims about special registers (O20 to O22) -/

/-- The last position of a count of 3, and the first past it. -/
theorem witness_sbind : let t := tT [(10, 0), (11, 4), (12, 0x00020003)]; let u := tT [(12, 0x00030003)]
    Lone (tState [0] [t]) (tCur [0]) (tEnv [t]) tG [srcRun 10 3] 0 t t (readOver [] t) ∧
    0 < (readOver [] t 12).toNat % 2 ^ 16 ∧ (readOver [] t 12).toNat / 2 ^ 16 < (readOver [] t 12).toNat % 2 ^ 16 ∧
    (readOver [] u 12).toNat % 2 ^ 16 ≤ (readOver [] u 12).toNat / 2 ^ 16 :=
  ⟨lone_one _ rfl rfl rfl rfl rfl, by decide⟩
/-- A register bound at the last word of scratch: in range, then misaligned, then past the end. -/
theorem witness_bound : let x : StreamReg := ⟨4092, 4, 2, 0, 20, false, true⟩
    boundStreams { tT [] with sp := [(0, x)] } = [(0, x)] ∧ (4092 : Int) % 4 = 0 ∧
    4092 + 4 ≤ (tEnv []).grid.desc.scratch * 128 ∧ ((4092 + 1 * 4 : Int)) % 4 = 0 ∧
    (tEnv []).grid.desc.scratch * 128 < 4096 + 4 ∧ (4093 : Int) % 4 ≠ 0 ∧
    acquiring (tEnv [tT []]).group 0 = false ∧ lineEmpty (tS []) (keyScr 3 4092) 4 = none := by decide
theorem witness_sysr : Lone (tS []) (tCur [0]) (tEnv [tT []]) tG [dst true 4] 0 (tT []) (tT []) (readOver [] (tT [])) ∧
    (tEnv [tT []]).ctx.tag ≤ 1 ∧ (4 : Reg).toNat % 2 = 0 := ⟨lone_one _ rfl rfl rfl rfl rfl, by decide⟩
/-- The greatest value of %fpstat, and an operator's context. -/
theorem witness_sysw : let t := tT [(8, 63)]
    Lone (tState [0] [t]) (tCur [0]) (tEnv [t]) tG [src false 8] 0 t t (readOver [] t) ∧
    (readOver [] t 8).toNat < 64 ∧ 64 ≤ (readOver [] (tT [(8, 64)]) 8).toNat ∧ 256 ≤ (readOver [] (tT [(8, 256)]) 8).toNat ∧ (tEnv [t]).ctx.tag = 1 ∧
    getFunc { tState [0] [t] with contexts := [{ labContext 9 with tag := 0 }] } 0 = some (VFunc.reset 0) :=
  ⟨lone_one _ rfl rfl rfl rfl rfl, by decide, by decide, by decide, rfl, rfl⟩
theorem test_sysw_reserved : ((tAfter (.sysw tG 8 0x015) (tS [(8, 64)])).map (·.status)) =
    some (.parked 0x01 0 false false) := by decide
/-- The register QBASE of queue 63 of an owner's context, in full operation. -/
theorem witness_device : let t := tT [(8, 0x1FC0)]; let m : MemOp := { tM with wid := .w8 }
    let s := { tState [0] [t] with boot := { Boot.reset with recovery := false } }
    Lone s (tCur [0]) (tEnv [t]) tG (memUses true .ios m) 0 t t (readOver [] t) ∧
    accessAt .ios (readOver [] t) 8 0 = queueOff 63 0 ∧ windowsUp s = true ∧ wregAt 0x1FC0 = some (.qbase 63) ∧
    acquiring (tEnv [t]).group 0 = false ∧ AllPerformed s (tEnv [t]) ∧ getFunc s 0 = some (VFunc.reset 0) ∧
    canWrite (wregCell (actorOf s (.ctx 9)) (.qbase 63)) = true ∧ canWrite (wregCell (actorOf s (.ctx 9)) .vfid) = false :=
  ⟨lone_one _ rfl rfl rfl rfl rfl, by decide, rfl, by decide, rfl, ⟨rfl, rfl⟩, rfl, by decide⟩
theorem witness_device_limit : (0x1FC0 : Int) + 8 ≤ iosLimit := by unfold iosLimit; omega

/-! ## Premises of the claims about barriers, queues and copies (O23 to O32) -/

/-- The fixture with a barrier at the last 16 bytes of scratch. -/
abbrev tBar (b : Barrier) (t : Thread) : State :=
  { tState [0] [t] with mem := memWrite [] (keyScr 3 4080) 16 (barBits b) }
abbrev tB : Thread := tT [(8, 4080), (9, 5)]

theorem witness_barriers :
    Lone (tBar ⟨0, 0, 1, 1, true, false, 0⟩ tB) (tCur [0]) (tEnv [tB]) tG [src false 8] 0 tB tB (readOver [] tB) ∧
    Lone (tBar ⟨0, 0, 1, 1, true, false, 0⟩ tB) (tCur [0]) (tEnv [tB]) tG [src false 8, src false 9] 0 tB tB (readOver [] tB) ∧
    ((tBar ⟨0, 0, 1, 1, true, false, 0⟩ tB).groups.map (·.gid)).Nodup ∧
    (readOver [] tB 8).toNat % 16 = 0 ∧ (readOver [] tB 8).toNat + 16 ≤ (tEnv [tB]).grid.desc.scratch * 128 ∧
    queueOf (tEnv [tB]).group = [] ∧ acquiring (tEnv [tB]).group 0 = false ∧ (∀ o h p, tB.stall ≠ some (.bar o h p)) :=
  ⟨lone_one _ rfl rfl rfl rfl rfl, lone_one _ rfl rfl rfl rfl rfl, by decide, by decide, by decide, rfl, rfl, fun _ _ _ h => by cases h⟩
/-- A barrier to be tested, as the die cycle ends and before. -/
theorem witness_phase_test : let s := { tBar ⟨0, 0, 1, 0, true, false, 0⟩ tB with tests := [keyScr 3 4080], cur := none }
    s.tests = [keyScr 3 4080] ∧ (s.groups.map (·.gid)).Nodup ∧ (∀ y ∈ s.groups, (y.threads.map (·.lane)).Nodup) ∧
    cycleOpen s 3 = false ∧ cycleOpen { s with agenda := [.slots 0 0 9 2 []] } 3 = true := by decide
/-- One for each clause: fresh, open with an arrival left, with none left, invalid, with a waiter. -/
theorem witness_barrier_states :
    let r := fun b => barRead (tBar b tB) (keyScr 3 4080)
    (r ⟨0, 0, 0, 0, false, false, 0⟩).v = false ∧ r ⟨3, 0, 2, 1, true, false, 0⟩ = ⟨3, 0, 2, 1, true, false, 0⟩ ∧
    (r ⟨3, 4, 2, 0, true, false, 0⟩).parr = 0 ∧ (r ⟨3, 0, 2, 1, true, true, 0⟩).inv = true ∧
    (r ⟨3, 0, 2, 1, true, false, 5⟩).wtr = 5 := by decide
/-- Generation 3: waits for 3 and 4 block, a wait for 2 is complete, and so is one 2^31 behind. -/
theorem witness_generations : let d := fun (g : Word) => (BitVec.ofNat 32 3 - g).toNat
    ¬(1 ≤ d 3 ∧ d 3 ≤ 2 ^ 31) ∧ ¬(1 ≤ d 4 ∧ d 4 ≤ 2 ^ 31) ∧ (1 ≤ d 2 ∧ d 2 ≤ 2 ^ 31) ∧
    (1 ≤ d 0x80000003 ∧ d 0x80000003 ≤ 2 ^ 31) ∧ firstWord (tCur [0]) = true := by decide
/-- The phase that an arrival completes ends at the test of its die cycle, not before (R183). -/
theorem test_bararr_completes : (match exec (.bararr tG false 8) (tBar ⟨0, 0, 1, 1, true, false, 0⟩ tB) with
    | .next s => if (barRead s (keyScr 3 4080)).gen = 0 then some (barRead (runTests s) (keyScr 3 4080)) else none
    | _ => none) = some ⟨1, 0, 1, 1, true, false, 0⟩ := by decide
theorem witness_numbered : Ready (tS []) (tCur [0]) (tEnv [tT []]) tG [] anyOperands ∧
    activeLanes (tS []) (tCur [0]) tG ≠ [] ∧ AllPerformed (tS []) (tEnv [tT []]) ∧ (tT []).stall = none ∧
    tget 0 (tEnv [tT []]).group.mbRet 15 < tget 0 [(15, 1)] 15 ∧ streamOver { Sequencer.fresh 0 with status := .ended } = true ∧
    streamOver { Sequencer.fresh 0 with status := .running } = false :=
  ⟨ready_one _ rfl rfl rfl rfl rfl, by rw [active_one _ (tT []) rfl]; decide, ⟨rfl, rfl⟩, rfl, by decide⟩
theorem witness_lines : let t := tT [(8, 3968), (9, 128)]
    Lone (tState [0] [t]) (tCur [0]) (tEnv [t]) tG [src false 8, src false 9] 0 t t (readOver [] t) ∧
    (readOver [] t 8).toNat % 128 = 0 ∧ (readOver [] t 9).toNat % 128 = 0 ∧ 128 ≤ (readOver [] t 9).toNat ∧
    (readOver [] t 8).toNat + (readOver [] t 9).toNat ≤ (tEnv [t]).grid.desc.scratch * 128 :=
  ⟨lone_one _ rfl rfl rfl rfl rfl, by decide⟩
/-- Queue 0 of the fixture, of four entries: it can take one; the team's other queues are alike. -/
theorem witness_queue : Uniform (tS []) (tCur [0]) (tEnv [tT []]) tG [src false 8] 0 (tT []) (tT []) (readOver [] (tT [])) ∧
    Uniform (tS []) (tCur [0]) (tEnv [tT []]) tG [dst false 8] 0 (tT []) (tT []) (readOver [] (tT [])) ∧
    (tEnv [tT []]).team.queues[7]? = some ⟨4, 4, [], []⟩ ∧
    (activeLanes (tS []) (tCur [0]) tG).length ≤ 4 ∧ boundStreams (tT []) = [] ∧ AllPerformed (tS []) (tEnv [tT []]) ∧
    firstWord (tCur [0]) = true :=
  ⟨uniform_one _ rfl rfl rfl rfl rfl rfl rfl, uniform_one _ rfl rfl rfl rfl rfl rfl rfl, rfl,
    by rw [active_one _ (tT []) rfl]; decide, rfl, ⟨rfl, rfl⟩, rfl⟩
theorem witness_queue_entries :
    (⟨4, 0, [1, 2, 3, 4], []⟩ : NQueue).items.head? = some 1 ∧ ¬(1 ≤ 0 ∧ 4 + 1 ≤ 4) ∧ (⟨4, 4, [], []⟩ : NQueue).items = [] := by
  decide
theorem test_qpush_qpop : (match exec (.qpush tG 0 false false 8) (tS [(8, 77)]) with
    | .next s => (getTeam s 3).map fun t => (t.queues[0]?.map fun q => (q.allow, q.items))
    | _ => none) = some (some (3, [77])) := by decide
/-- A team with one tile of two lines, in each state. -/
theorem witness_tiles :
    let tm := { labTeam 3 4 5 with tiles := [(⟨0, 2, 0⟩ : TileEnt)] }
    let s := { tS [] with teams := [tm] }
    let e : Env := { tEnv [tT []] with team := tm }
    Uniform s (tCur [0]) e tG [src false 8] 0 (tT []) (tT []) (readOver [] (tT [])) ∧
    Uniform s (tCur [0]) e tG [src false 8, src false 9, src false 10] 0 (tT []) (tT []) (readOver [] (tT [])) ∧
    e.team.tiles[0]? = some ⟨0, 2, 0⟩ :=
  ⟨uniform_one _ rfl rfl rfl rfl rfl rfl rfl, uniform_one _ rfl rfl rfl rfl rfl rfl rfl, rfl⟩

/-- A timeline at the last 16 bytes of the code page: DONE 5, ISSUED 6. -/
abbrev tTl (t : Thread) : State :=
  { tState [0] [t] with mem := memWrite (memWrite [] (keyGlb 9 4 0xFF0) 8 5) (keyGlb 9 4 0xFF8) 8 6 }
abbrev tQ2 : Thread := tT [(8, 0x1FF0), (10, 5), (12, 6)]
theorem witness_timelines :
    Lone (tTl tQ2) (tCur [0]) (tEnv [tQ2]) tG [src true 8, src true 10] 0 tQ2 tQ2 (readOver [] tQ2) ∧
    Lone (tTl tQ2) (tCur [0]) (tEnv [tQ2]) tG [src true 8] 0 tQ2 tQ2 (readOver [] tQ2) ∧
    Lone (tTl tQ2) (tCur [0]) (tEnv [tQ2]) tG [dst true 6, src true 8] 0 tQ2 tQ2 (readOver [] tQ2) ∧
    firstWord (tCur [0]) = true ∧ (pair64 (readOver [] tQ2) 8).toNat = 0x1FF0 ∧ 0x1FF0 % 16 = 0 ∧
    locate (tTl tQ2) (tEnv [tQ2]) 0 .glb .read 0x1FF0 16 = .ok (keyGlb 9 4 0xFF0) 0 0 false 0 ∧
    memRead (tTl tQ2).mem (keyGlb 9 4 0xFF0) 8 = 5 ∧ (pair64 (readOver [] tQ2) 10).toNat = 5 ∧
    (pair64 (readOver [] tQ2) 12).toNat = 6 ∧ (tEnv [tQ2]).grid.endCode = none ∧ formatReserved 0 0 = false ∧
    AllPerformed (tTl tQ2) (tEnv [tQ2]) ∧ Clean (tTl tQ2) (keyGlb 9 4 0xFF0) 16 :=
  ⟨lone_one _ rfl rfl rfl rfl rfl, lone_one _ rfl rfl rfl rfl rfl, lone_one _ rfl rfl rfl rfl rfl, rfl, by decide,
    by decide, rfl, by decide, by decide, by decide, rfl, by decide, ⟨rfl, rfl⟩, by unfold Clean; decide⟩
set_option maxRecDepth 8000 in
/-- The last 128 bytes of a page and the first 128 of the next, copied to the page before, with the timeline there. -/
theorem witness_ncopy :
    let t := tT [(8, 0x1F80), (10, 0x100), (12, 0x1000), (14, 0x1800)]
    let x : CopyOp := ⟨12, 8, 14, .w16, .glb, .glb⟩
    let c := { labContext 9 with frames := (labContext 9).frames ++ [labFrame 5] }
    let s := { tState [0] [t] with
      contexts := [c]
      dies := State.reset.dies.modify 0 fun d => { labDie 9 d with tlb := [⟨9, 1, 4, labLeaf, 4⟩, ⟨9, 2, 5, BitVec.ofNat 64 (15 + 5 * 2 ^ 20), 4⟩] } }
    let e := { tEnv [t] with ctx := c }
    Lone s (tCur [0]) e tG (ncopyUses x) 0 t t (readOver [] t) ∧ acquiring e.group 0 = false ∧
    (pair64 (readOver [] t) x.sa).toNat = 0x1F80 ∧ (readOver [] t (x.sa.toNat + 2)).toNat = 0x100 ∧
    (pair64 (readOver [] t) x.da).toNat = 0x1000 ∧ (pair64 (readOver [] t) x.ba).toNat = 0x1800 ∧
    (∀ a m, 0x1F80 ≤ a → a + m ≤ 0x1F80 + 0x100 → 1 ≤ m → a = 0x1F80 ∨ a % 4096 = 0 →
      a + m = 0x1F80 + 0x100 ∨ (a + m) % 4096 = 0 → a % 4096 + m ≤ 4096 → ∃ f g b mt, formatReserved f g = false ∧
        translate s c 0 false .read a m = .ok (keyGlb 9 (if a / 4096 = 1 then 4 else 5) 0 + a % 4096) f g b mt) ∧
    (∀ a m, 0x1000 ≤ a → a + m ≤ 0x1000 + 0x100 → 1 ≤ m → a = 0x1000 ∨ a % 4096 = 0 →
      a + m = 0x1000 + 0x100 ∨ (a + m) % 4096 = 0 → a % 4096 + m ≤ 4096 → ∃ f g b mt, formatReserved f g = false ∧
        translate s c 0 false .write a m = .ok (keyGlb 9 4 0 + a % 4096) f g b mt) ∧
    translate s c 0 false .write 0x1800 16 = .ok (keyGlb 9 4 0x800) 0 0 false 0 := by
  refine ⟨lone_one _ rfl rfl rfl rfl rfl, rfl, by decide, by decide, by decide, by decide, ?_, ?_, rfl⟩
  · intro a m h1 h2 h3 h4 h5 h6
    have h : (a = 0x1F80 ∧ m = 0x80) ∨ (a = 0x2000 ∧ m = 0x80) := by omega
    obtain ⟨rfl, rfl⟩ | ⟨rfl, rfl⟩ := h
    all_goals exact ⟨0, 0, false, 0, rfl, rfl⟩
  · intro a m h1 h2 h3 h4 h5 h6
    have h : a = 0x1000 ∧ m = 0x100 := by omega
    obtain ⟨rfl, rfl⟩ := h
    exact ⟨0, 0, false, 0, rfl, rfl⟩
theorem witness_ncopy_accept :
    let o : LongOp := ⟨20, none, true, false, false, ⟨0, 0, 0, 0⟩, [.ncopy 0 21]⟩
    let x : NCopy := ⟨21, 9, 4, [⟨keyGlb 9 4 0xF80, keyGlb 9 4 0, 112, 0x1F80, 0, 0⟩, ⟨keyGlb 9 4 0xF00, keyGlb 9 4 112, 16, 0x1F00, 0, 0⟩], 128, keyGlb 9 4 0xFF0, false, none, none, false⟩
    let s := { tOpState o with ncopies := [x] }
    env s 7 = some (tOp o) ∧ queueOf (tOp o).group = [o] ∧ ncopyOp s 21 = some (7, 20) ∧ s.poison = [] ∧ s.upsets = [] ∧
    s.ncopies.find? (·.id == x.id) = some x ∧ (∃ y ∈ (tOp o).group.threads, y.status ≠ .exited) ∧
    (∀ m, keyClass2 s m = false) ∧ (∀ p ∈ x.pieces, p.dst + p.n ≤ x.tl ∨ x.tl + 16 ≤ p.dst) ∧
    x.pieces.Pairwise (fun p q => p.dst + p.n ≤ q.dst ∨ q.dst + q.n ≤ p.dst) ∧ ((tOp o).group.ops.map (·.id)).Nodup :=
  ⟨rfl, rfl, by decide, rfl, rfl, by decide, ⟨tT [], List.mem_singleton.2 rfl, by decide⟩, plain_lines (by decide), by decide, by decide,
    by decide⟩
theorem witness_ncopy_finish :
    let x : NCopy := ⟨21, 9, 4, [], 128, keyGlb 9 4 0xFF0, false, some 7, none, false⟩
    let s := { tS [] with ncopies := [x] }
    s.ncopies = [x] ∧ x.number = some 7 ∧ x.finished = false ∧ (∀ m, keyClass2 s m = false) :=
  ⟨rfl, rfl, rfl, plain_lines (by decide)⟩

/-- A copy of 16 bytes into scratch: on a valid barrier, and on one that is not. -/
theorem witness_acopy :
    let t := tT [(8, 0x1FF0), (10, 0), (11, 4080)]
    let x : CopyOp := ⟨10, 8, 11, .w16, .scr, .glb⟩
    let on := tBar ⟨0, 16, 1, 0, true, false, 0⟩ t
    let off := tState [0] [t]
    Lone on (tCur [0]) (tEnv [t]) tG (acopyUses x) 0 t t (readOver [] t) ∧
    Lone off (tCur [0]) (tEnv [t]) tG (acopyUses x) 0 t t (readOver [] t) ∧
    (barRead on (keyScr 3 4080)).v = true ∧ (barRead off (keyScr 3 4080)).v = false ∧
    locate on (tEnv [t]) 0 .glb .read 0x1FF0 16 = .ok (keyGlb 9 4 0xFF0) 0 0 false 0 ∧
    locate on (tEnv [t]) 0 .scr .write 0 16 = .ok (keyScr 3 0) 0 0 false 0 ∧
    locate off (tEnv [t]) 0 .glb .read 0x1FF0 16 = .ok (keyGlb 9 4 0xFF0) 0 0 false 0 ∧
    locate off (tEnv [t]) 0 .scr .write 0 16 = .ok (keyScr 3 0) 0 0 false 0 ∧
    accessAt .glb (readOver [] t) 8 0 = 0x1FF0 ∧ accessAt .scr (readOver [] t) 10 0 = 0 ∧ queueOf (tEnv [t]).group = [] :=
  ⟨lone_one _ rfl rfl rfl rfl rfl, lone_one _ rfl rfl rfl rfl rfl, by decide, by decide, rfl, rfl, rfl, rfl, by decide,
    by decide, rfl⟩
/-- The same from an uncached page of the host. -/
theorem witness_acopy_uncached :
    let t := tT [(8, 0x6FF0), (10, 0), (11, 4080)]
    let x : CopyOp := ⟨10, 8, 11, .w16, .scr, .hst⟩
    let s := { tBar ⟨0, 16, 1, 0, true, false, 0⟩ t with
      dies := State.reset.dies.modify 0 fun d => { labDie 9 d with tlb := [⟨9, 6, 6, BitVec.ofNat 64 (15 + 6 * 2 ^ 20 + 2 * 2 ^ 16), 4⟩] } }
    Lone s (tCur [0]) (tEnv [t]) tG (acopyUses x) 0 t t (readOver [] t) ∧ (barRead s (keyScr 3 4080)).v = true ∧
    (barRead s (keyScr 3 4080)).inv = false ∧ locate s (tEnv [t]) 0 .hst .read 0x6FF0 16 = .ok (keyHst 9 6 0xFF0) 0 0 false 2 ∧
    locate s (tEnv [t]) 0 .scr .write 0 16 = .ok (keyScr 3 0) 0 0 false 0 ∧ s.poison = [] ∧ s.upsets = [] ∧
    keyScr 3 0 % 16 = 0 ∧ keyScr 3 0 + 16 ≤ keyScr 3 4080 ∧ s.transfers = [] ∧ keyClass2 s (keyScr 3 0) = false :=
  ⟨lone_one _ rfl rfl rfl rfl rfl, by decide, by decide, rfl, rfl, rfl, rfl, by decide, by decide, rfl, by decide⟩
set_option maxRecDepth 8000 in
/-- The last bytes of a phase, an orphan, and an invalid barrier. -/
theorem witness_landing :
    let x : Transfer := ⟨20, 7, 3, [⟨keyGlb 9 4 0xFF0, keyScr 3 112, 16, 0x1FF0, 0, 0⟩], [List.replicate 16 (0, false)], true, some (keyScr 3 4080), 16, false, none, 0⟩
    let s := fun b o => { tBar b (tT []) with transfers := [{ x with orphan := o }] }
    (s ⟨0, 16, 1, 0, true, false, 0⟩ false).transfers.find? (·.id == x.id) = some x ∧
    (s ⟨0, 16, 1, 0, true, false, 0⟩ false).upsets = [] ∧ keyScr 3 112 / 2 ^ 128 = 4 ∧ (keyScr 3 112 + 15) / 2 ^ 128 = 4 ∧ keyScr 3 112 + 16 ≤ keyScr 3 4080 ∧
    (barRead (s ⟨0, 16, 1, 0, true, false, 0⟩ false) (keyScr 3 4080)).pbytes = 16 ∧
    (barRead (s ⟨0, 16, 1, 0, true, true, 0⟩ false) (keyScr 3 4080)).inv = true ∧
    (getTeam (s ⟨0, 16, 1, 0, true, true, 0⟩ true) 3).isSome = true ∧ x.req = none ∧
    (∀ d ∈ x.data, d.length = 16 ∧ ∀ y ∈ d, y.2 = false) := by decide

set_option exponentiation.threshold 600 in
/-- A record at 4032 that copies 16 bytes within scratch, from 0 to 128. -/
def tRecord (len : Nat) : Nat := 128 * 2 ^ 64 + len * 2 ^ 192 + 1 * 2 ^ 208 + 1 * 2 ^ 229 + 1 * 2 ^ 232 + (2 ^ 32 - 1) * 2 ^ 256
abbrev tKick (x : Nat) : State :=
  { tS [] with mem := memWrite [] (keyScr 3 4032) 64 x, dies := (tS []).dies.modify 0 fun d => { d with kicks := [⟨0, 0, 3, 4032, 1, 0⟩] } }
theorem witness_kick : let t := tT [(8, 4032), (9, 1)]
    Uniform (tState [0] [t]) (tCur [0]) (tEnv [t]) tG [src false 8, src false 9] 0 t t (readOver [] t) ∧
    AllPerformed (tState [0] [t]) (tEnv [t]) ∧ (getDie (tState [0] [t]) 0).kicks = [] ∧ (readOver [] t 8).toNat % 64 = 0 ∧ (readOver [] t 9).toNat = 1 ∧
    (readOver [] t 8).toNat + 64 * (readOver [] t 9).toNat ≤ (tEnv [t]).grid.desc.scratch * 128 ∧
    16 ≤ ((List.replicate 16 (⟨0, 0, 3, 4032, 1, 0⟩ : KickEnt)).filter (·.core == 0)).length ∧
    savedKicks (tState [0] [t]) 0 0 = [] ∧ 0 < (tState [0] [t]).dies.length :=
  ⟨uniform_one _ rfl rfl rfl rfl rfl rfl rfl, ⟨rfl, rfl⟩, rfl, by decide⟩
set_option maxRecDepth 8000 in
set_option exponentiation.threshold 600 in
theorem witness_requests :
    let k : KickEnt := ⟨0, 0, 3, 4032, 1, 0⟩
    let e : BulkEnv := ⟨labTeam 3 4 5, labGrid 4 9, labContext 9⟩
    let x := readRecord (memRead (tKick (tRecord 16)).mem (keyScr 3 4032) 64)
    let z := readRecord (memRead (tKick (tRecord 0)).mem (keyScr 3 4032) 64)
    coreKicks (getDie (tKick (tRecord 16)) 0) 0 = [k] ∧ bulkEnv (tKick (tRecord 16)) 3 = some e ∧
    teamStopping (tKick (tRecord 16)) e.team = false ∧ x.bar = 2 ^ 32 - 1 ∧ x.bad = false ∧ x.rows = 1 ∧ x.rowLen = 16 ∧
    x.dfmt = 0 ∧ x.sealing = false ∧ x.tv = false ∧ x.sspc = 1 ∧ x.dspc = 1 ∧ x.pln = 0 ∧ x.src = 0 ∧ x.dst = 128 ∧
    z.rowLen = 0 ∧ z.bar = 2 ^ 32 - 1 ∧ z.dfmt = 0 ∧ savedKicks (tKick (tRecord 16)) 0 0 = [] ∧
    ((coreKicks (getDie (tKick (tRecord 16)) 0) 0).map (·.id)).Nodup :=
  ⟨rfl, rfl, by decide⟩
theorem witness_status_write :
    let q : Request := ⟨20, 3, 0, 4032, none, some (0, true), 0, 0, 0, false, some (0x05, 16), none, false, 0, 0, false, 0⟩
    let s := { tS [] with requests := [q] }
    s.requests.find? (fun y => y.id == q.id && y.rows == 0) = some q ∧ q.bar = none := by decide

/-- A record for `enq` in the code page, whose first word is the entry. -/
abbrev tEnq (n : Word) : Thread := tT [(8, 0x1080), (10, n)]
abbrev tEnqState (n : Word) : State := { tState [0] [tEnq n] with mem := memWrite (labMem [] 9 (labHeader 1).toNat 0 0) (keyGlb 9 4 0x80) 8 0x1000 }
set_option maxRecDepth 4000 in
theorem witness_enq :
    Uniform (tEnqState 2) (tCur [0]) (tEnv [tEnq 2]) tG [src true 8, src false 10] 0 (tEnq 2) (tEnq 2) (readOver [] (tEnq 2)) ∧
    Uniform (tEnqState 0) (tCur [0]) (tEnv [tEnq 0]) tG [src true 8, src false 10] 0 (tEnq 0) (tEnq 0) (readOver [] (tEnq 0)) ∧
    getGrid (tEnqState 2) 4 = some (labGrid 4 9) ∧ (pair64 (readOver [] (tEnq 2)) 8).toNat = 0x1080 ∧
    translate (tEnqState 2) (labContext 9) 0 false .read 0x1080 128 = .ok (keyGlb 9 4 0x80) 0 0 false 0 ∧
    memRead (tEnqState 2).mem (keyGlb 9 4 0x80) 128 = 0x1000 ∧ (labGrid 4 9).desc.entry = 0x1000 ∧ AllPerformed (tEnqState 2) (tEnv [tEnq 2]) ∧
    Clean (tEnqState 2) (keyGlb 9 4 0x80) 128 ∧
    0x1000 < codeEnd (touchFrame (tEnqState 2) 0 (keyGlb 9 4 0x80)) (labContext 9) 0 (labGrid 4 9).desc ∧
    (readOver [] (tEnq 2) 10).toNat % (labGrid 4 9).desc.gang = 0 ∧ (labGrid 4 9).spawn + 2 ≤ 0x00FFFFFF ∧
    0x00FFFFFF < 0x00FFFFFE + 2 :=
  ⟨uniform_one _ rfl rfl rfl rfl rfl rfl rfl, uniform_one _ rfl rfl rfl rfl rfl rfl rfl, rfl, by decide, rfl, by decide,
    rfl, ⟨rfl, rfl⟩, by unfold Clean; decide, by decide⟩
/-- A ring of four slots at the start of the page: one free slot, then none. -/
abbrev tSvc (tail : Nat) : State :=
  { tS [] with contexts := [{ labContext 9 with svcr := 0x1000 }],
               mem := memWrite (memWrite [] (keyGlb 9 4 8) 4 tail) (keyGlb 9 4 16) 2 2 }
abbrev tSvcEnv : Env := { tEnv [tT []] with ctx := { labContext 9 with svcr := 0x1000 } }
theorem witness_svc :
    Uniform (tSvc 3) (tCur [0]) tSvcEnv tG [] 0 (tT []) (tT []) (readOver [] (tT [])) ∧
    Uniform (tSvc 4) (tCur [0]) tSvcEnv tG [] 0 (tT []) (tT []) (readOver [] (tT [])) ∧
    Uniform (tS []) (tCur [0]) (tEnv [tT []]) tG [] 0 (tT []) (tT []) (readOver [] (tT [])) ∧ (tEnv [tT []]).ctx.svcr = 0 ∧
    AllPerformed (tSvc 3) tSvcEnv ∧ (tSvc 3).poison = [] ∧ (tSvc 3).upsets = [] ∧
    translate (tSvc 3) tSvcEnv.ctx 0 false .write 0x1000 64 = .ok (keyGlb 9 4 0) 0 0 false 0 ∧
    translate (tSvc 4) tSvcEnv.ctx 0 false .write 0x1000 64 = .ok (keyGlb 9 4 0) 0 0 false 0 ∧
    memRead (tSvc 3).mem (keyGlb 9 4 0) 4 = 0 ∧ memRead (tSvc 3).mem (keyGlb 9 4 8) 4 = 3 ∧
    memRead (tSvc 4).mem (keyGlb 9 4 8) 4 = 4 ∧ memRead (tSvc 3).mem (keyGlb 9 4 16) 2 = 2 ∧
    translate (touchFrame (tSvc 3) 0 (keyGlb 9 4 0)) tSvcEnv.ctx 0 false .write (0x1000 + 64 + 64 * 3) 64 =
      .ok (keyGlb 9 4 256) 0 0 false 0 ∧
    (∀ m, keyClass2 (tSvc 3) m = false) ∧ keyGlb 9 4 0 + 64 ≤ keyGlb 9 4 256 :=
  ⟨uniform_one _ rfl rfl rfl rfl rfl rfl rfl, uniform_one _ rfl rfl rfl rfl rfl rfl rfl,
    uniform_one _ rfl rfl rfl rfl rfl rfl rfl, rfl, ⟨rfl, rfl⟩, rfl, rfl, rfl, rfl, by decide, by decide, by decide, by decide, rfl,
    plain_lines (by decide), by decide⟩

/-- Heaps of 256 bytes of the fixture's grid, the GLB heap with a block of 128. -/
abbrev tHeapGrid : Grid :=
  { labGrid 4 9 with gbase := heapBase, gsize := 256, csize := 256, cbase := [(0, 256, 256)], blocks := [(0, heapBase, 128)] }
abbrev tHeap (t : Thread) : State := { tState [0] [t] with grids := [tHeapGrid] }
abbrev tHeapEnv (t : Thread) : Env := { tEnv [t] with grid := tHeapGrid }
/-- A free of the block, of nothing, and of no block. -/
theorem witness_heaps : let t := tT [(8, 0x100), (10, BitVec.ofNat 32 heapBase), (11, BitVec.ofNat 32 (heapBase / 2 ^ 32)), (12, 128)]
    Lone (tHeap t) (tCur [0]) (tHeapEnv t) tG [dst true 6, src false 12] 0 t t (readOver [] t) ∧
    Lone (tHeap t) (tCur [0]) (tHeapEnv t) tG [dst false 6] 0 t t (readOver [] t) ∧
    Lone (tHeap t) (tCur [0]) (tHeapEnv t) tG [src true 10] 0 t t (readOver [] t) ∧
    Lone (tHeap t) (tCur [0]) (tHeapEnv t) tG [src false 8] 0 t t (readOver [] t) ∧
    AllPerformed (tHeap t) (tHeapEnv t) ∧ getGrid (tHeap t) 4 = some tHeapGrid ∧ heapRuns tHeapGrid 0 = [(heapBase, heapBase + 256)] ∧
    heapRuns tHeapGrid 1 = [(256, 512)] ∧ heapBase % 128 = 0 ∧
    (pair64 (readOver [] t) 10).toNat = heapBase ∧ (pair64 (readOver [] t) 14).toNat = 0 ∧
    tHeapGrid.blocks.find? (fun y => y.1 == 0 && y.2.1 == heapBase) = some (0, heapBase, 128) ∧
    (∀ y ∈ tHeapGrid.blocks, ¬(y.1 = 1 ∧ y.2.1 = (readOver [] t 8).toNat)) :=
  ⟨lone_one _ rfl rfl rfl rfl rfl, lone_one _ rfl rfl rfl rfl rfl, lone_one _ rfl rfl rfl rfl rfl,
    lone_one _ rfl rfl rfl rfl rfl, ⟨rfl, rfl⟩, rfl, rfl, rfl, by decide⟩

/-- A solo kernel that may move, of a function with one quad and one room on M0 and on M1: lines of its pages alternate
between the two dies. -/
abbrev tMigrGrid : Grid :=
  { labGrid 4 9 with desc := { labDesc with solo := true, scratch := 0, queues := List.replicate 8 (0, 0) } }
abbrev tMigrFunc (mask : Byte) : VFunc := { VFunc.reset 0 with pmask := mask, part := ⟨[(0, 1), (1, 1)], [(0, 1), (1, 1)], []⟩ }
abbrev tMigr (mask : Byte) (t : Thread) : State :=
  { tState [0] [t] with grids := [tMigrGrid], funcs := [tMigrFunc mask] }
abbrev tMigrEnv (t : Thread) : Env := { tEnv [t] with grid := tMigrGrid }
abbrev tM1 : Thread := tT [(8, 0x1080)]
/-- Where `migr` goes for an address of the page. -/
def tTarget (mask : Byte) (va : Nat) : Option Nat :=
  migrTarget (tMigrFunc mask) (byteHome (tMigr mask tM1) (labContext 9) (tMigrFunc mask) 0 va (.ok (keyGlb 9 4 (va % 4096)) 0 0 false 0))
/-- The home die is another die, the group's own, or none is allowed; there is a free pontoon slot. -/
theorem witness_migr :
    Lone (tMigr 0xFF tM1) (tCur [0]) (tMigrEnv tM1) tG [src true 8] 0 tM1 tM1 (readOver [] tM1) ∧
    migrKernel tMigrGrid.desc = true ∧ boundStreams tM1 = [] ∧ othersMeet (tMigrEnv tM1).group (tCur [0]).lanes = true ∧
    getFunc (tMigr 0xFF tM1) 0 = some (tMigrFunc 0xFF) ∧ AllPerformed (tMigr 0xFF tM1) (tMigrEnv tM1) ∧
    translate (tMigr 0xFF tM1) (labContext 9) 0 false .read 0x1080 1 = .ok (keyGlb 9 4 0x80) 0 0 false 0 ∧
    tTarget 0xFF 0x1080 = some 1 ∧ tTarget 0xFF 0x1000 = some 0 ∧ tTarget 0 0x1080 = none ∧
    pontoonCore (tMigr 0xFF tM1) (tMigrFunc 0xFF) 1 (tMigrEnv tM1).group.width = some (0, 32) ∧ (∀ n < 12, flagCount (tMigrEnv tM1).group n = 0) :=
  ⟨lone_one _ rfl rfl rfl rfl rfl, by decide, by decide, by decide, rfl, ⟨rfl, rfl⟩, rfl, by decide⟩
/-- Every core of the die fenced off: no free pontoon slot. -/
theorem witness_no_pontoon :
    pontoonCore { tMigr 0xFF tM1 with boot := { Boot.reset with fenced := [.core 1 0, .core 1 1, .core 1 2, .core 1 3] } } (tMigrFunc 0xFF) 1
      (tMigrEnv tM1).group.width = none := by
  decide
theorem witness_resume : let t := { tT [] with stall := some .ship }
    let g := { tGroup [t] with ship := some (1, 0, 32) }
    let s := { tState [0] [t] with groups := [g], grids := [tMigrGrid] }
    env s 7 = some { tEnv [t] with group := g, grid := tMigrGrid } ∧ (∃ t ∈ g.threads, t.status ≠ .exited) ∧
    tMigrGrid.csize = 0 ∧ (∀ t ∈ g.threads, t.stall ≠ some .flags) :=
  ⟨rfl, ⟨_, List.mem_singleton.2 rfl, by decide⟩, rfl, by decide⟩
theorem witness_retry : let t := { tM1 with stall := some (.pontoon 1) }
    let s := tMigr 0xFF t
    (s.groups.map (·.gid)).Nodup ∧ (∀ x ∈ s.groups, (x.threads.map (·.lane)).Nodup) ∧ getLane s 7 0 = some t ∧
    ((env s 7).any fun e => (getFunc s e.ctx.vf).any fun f => (pontoonCore s f 1 e.group.width).isSome) = true :=
  ⟨by decide, by decide, rfl, by decide⟩
theorem witness_contend : let t := tT [(8, 0xFFFFFFFF), (9, 0xFFFF)]
    Lone (tState [0] [t]) (tCur [0]) (tEnv [t]) tG [dst true 6, src true 8] 0 t t (readOver [] t) ∧
    AllPerformed (tState [0] [t]) (tEnv [t]) ∧ (0xEF : Byte).toNat % 16 < (tState [0] [t]).rlanes.length ∧ (pair64 (readOver [] t) 8).toNat % 2 ^ 48 = 2 ^ 48 - 1 :=
  ⟨lone_one _ rfl rfl rfl rfl rfl, ⟨rfl, rfl⟩, by decide⟩

/-! ## Premises of the claims about the sequencer and service cores (O33 to O38) -/

/-- The fixture's grid with 1,024 lines of scratch. -/
abbrev tBigGrid : Grid := { labGrid 4 9 with desc := { labDesc with scratch := 1024 } }
/-- A command of the stream of team 3 in progress: its sequencer, and memory. -/
abbrev tSeq (q : Sequencer) (m : List Host.Cell) : State :=
  { tS [] with teams := [{ labTeam 3 4 5 with seq := q }], grids := [tBigGrid], mem := m, cur := none, seqCur := some (3, 0x1010) }
abbrev tSeqEnv (q : Sequencer) : BulkEnv := ⟨{ labTeam 3 4 5 with seq := q }, tBigGrid, labContext 9⟩
/-- A running sequencer. -/
abbrev tRun : Sequencer := { Sequencer.fresh 0x1000 with pos := 0x1008 }
/-- A tile with every element the same. -/
abbrev tTile (k : MKind) (v : Nat) : Tile := ⟨some k, List.replicate 4096 v⟩

/-- Loops at depth 0, in the last and in an earlier iteration, and full; a barrier toward the sequencer awaited. -/
theorem witness_stream_control :
    Commands (tSeq tRun []) (tSeqEnv tRun) 0x1010 ∧ tRun.loops.length < 4 ∧ Modulus 97 ∧ ¬Modulus 1 ∧
    (let q := { tRun with loops := [⟨0x1000, 2, 0⟩, ⟨0x1000, 1, 0⟩, ⟨0x1000, 1, 0⟩, ⟨0x1000, 1, 0⟩] }
     Commands (tSeq q []) (tSeqEnv q) 0x1010 ∧ 4 ≤ q.loops.length) ∧
    (let q := { tRun with loops := [⟨0x1000, 1, 3⟩] }
     Commands (tSeq q []) (tSeqEnv q) 0x1010) ∧
    (∃ g ∈ (tSeq tRun []).groups, g.tid = 3 ∧ g.retired = false ∧ tget 0 g.mbArr 15 ≤ tget 0 tRun.mbTook 15) ∧
    (∀ g ∈ [{ tGroup [] with mbArr := [(15, 1)] }], g.tid = 3 → g.retired = true ∨ tget 0 tRun.mbTook 15 < tget 0 g.mbArr 15) :=
  ⟨⟨rfl, rfl⟩, by decide, by unfold Modulus; decide, by unfold Modulus; decide, ⟨⟨rfl, rfl⟩, by decide⟩, ⟨rfl, rfl⟩,
    ⟨tGroup [tT []], List.mem_singleton.2 rfl, by decide⟩, by decide⟩
/-- Tile 0 holds 1 in each element; rows of 64 bytes and of 256 bytes in scratch, ready as tile 0 of the table or not;
buffers of 128 bytes a column. -/
theorem witness_tiles_and_buffers :
    let q := { tRun with tiles := [(0, tTile .f32 0x3F800000)], loops := [⟨0x1000, 2, 1⟩] }
    Commands (tSeq q []) (tSeqEnv q) 0x1010 ∧ (tSeq q []).empties = [] ∧ (tSeq q []).poison = [] ∧
    (tSeq q []).upsets = [] ∧ (tSeqEnv q).team.tid < 2 ^ 64 ∧ HoldsTile (tSeqEnv q) 0 .f32 (List.replicate 4096 0x3F800000) ∧
    (tget noTile q.tiles 1).kind = none ∧ RowsAtHand (tSeqEnv q) ⟨0, 16, false, 0⟩ 256 ∧
    RowsAtHand (tSeqEnv q) ⟨0, 4, false, 0⟩ 64 ∧ 64 * 1 ≤ (4 : BitVec 16).toNat * 16 ∧
    (let e := { tSeqEnv q with team := { labTeam 3 4 5 with seq := q, tiles := [⟨0, 128, 2⟩] } }
     RowsAtHand e ⟨0, 16, true, 0⟩ 256) ∧
    (∀ c < 64, 0 * 16 + 1 * 128 + 128 * 0 + c * ((8 : BitVec 16).toNat * 16) + 128 ≤ (tSeqEnv q).grid.desc.scratch * 128) := by
  refine ⟨⟨rfl, rfl⟩, rfl, rfl, rfl, by decide, ⟨rfl, List.length_replicate⟩, rfl, ⟨?_, nofun⟩, ⟨?_, nofun⟩, by decide, ⟨?_, fun _ => ⟨⟨0, 128, 2⟩, rfl, rfl, ?_⟩⟩, ?_⟩ <;>
    intro i hi <;> simp <;> omega
/-- Residues below the modulus 97 of every column. -/
theorem witness_elementwise :
    let q := { tRun with tiles := [(0, tTile .res 96), (1, tTile .i32 5)], qt := (List.range 64).map fun j => (j, 97) }
    Commands (tSeq q []) (tSeqEnv q) 0x1010 ∧ HoldsTile (tSeqEnv q) 0 .res (List.replicate 4096 96) ∧
    HoldsTile (tSeqEnv q) 1 .i32 (List.replicate 4096 5) ∧
    (∀ j < 64, tget 0 q.qt j % 2 = 1 ∧ 3 ≤ tget 0 q.qt j ∧ tget 0 q.qt j < 2 ^ 62 ∧ ∀ i < 64,
      (List.replicate 4096 96).getD (64 * i + j) 0 < tget 0 q.qt j) ∧
    ¬(tget 0 tRun.qt 0 % 2 = 1) ∧ 16 * (0 : BitVec 16).toNat + 64 * 8 ≤ (tSeqEnv q).grid.desc.scratch * 128 := by
  refine ⟨⟨rfl, rfl⟩, ⟨rfl, List.length_replicate⟩, ⟨rfl, List.length_replicate⟩, ?_, by decide⟩
  intro j hj
  have h : tget 0 ((List.range 64).map fun j => (j, 97)) j = 97 := by
    have := (by decide : ∀ j < 64, tget 0 ((List.range 64).map fun j => (j, 97)) j = 97)
    exact this j hj
  refine ⟨by rw [h], by rw [h]; decide, by rw [h]; decide, fun i hi => ?_⟩
  rw [h, List.getD_eq_getElem?_getD, List.getElem?_replicate, if_pos (by omega)]
  decide

/-- A one-row operand A of 16 elements at scratch 1024: descriptor 0 of code `af` at scratch 0. -/
def tDescWord (af : Nat) : Nat :=
  0x400 + af * 2 ^ 32 + 16 * 2 ^ 40 + 2 ^ 56 + 2 ^ 72 + 2 ^ 88 + 2 ^ 104 + 2 ^ 120 + 2 ^ 128 + 2 ^ 136 + 2 ^ 144 + 2 ^ 152 +
    2 ^ 160 + 128 * 2 ^ 184
def tADesc (af : ECode) : ADesc := ⟨0x400, af, 16, 1, 1, 1, 1, 1, 1, 1, 1, 1, 1, 0, 0, 128⟩
theorem tADesc_ranges (af : ECode) (h : af ≠ .e2m1x) (hb : ecBytes af ≤ 8) (p0 k0 kb : Nat) :
    ∀ r ∈ aRanges (tADesc af) p0 k0 kb, r.1 + r.2 ≤ tBigGrid.desc.scratch * 128 := by
  intro r hr
  simp only [aRanges, List.mem_flatMap, List.mem_filterMap, List.mem_range] at hr
  obtain ⟨i, -, k, -, hk⟩ := hr
  simp only [aPlace, Option.ite_none_left_eq_some] at hk
  obtain ⟨-, hn, hk⟩ := hk
  simp only [Bool.or_eq_true, decide_eq_true_eq, not_or, Int.not_lt, Int.not_le] at hn
  have hm : (k0 + k) % 16 * ecBytes af ≤ 15 * 8 := Nat.mul_le_mul (by omega) hb
  have hy : ∀ z : Int, z < ((1 : Nat) : Int) → 0 ≤ z → z.toNat = 0 := by intro z _ _; omega
  rw [if_neg (by simpa [tADesc] using h), hy _ hn.1.1.2 hn.1.1.1, hy _ hn.2 hn.1.2] at hk
  cases hk
  have e1 : tBigGrid.desc.scratch * 128 = 131072 := rfl
  rw [e1]
  simp only [tADesc] at hm ⊢
  omega
/-- The sequencer of a multiplication: buffer 0 of code `bc`, an accumulator. -/
abbrev tMul (bc : ECode) (k : MKind) : Sequencer :=
  { tRun with bufs := [(0, ⟨some bc, 0, List.replicate 64 (List.replicate 128 0)⟩)], tiles := [(0, tTile k 1)],
              qt := (List.range 64).map fun j => (j, 97) }
abbrev tX : MmaOp := ⟨0, 0, 0, 0, 0, 0, false⟩
theorem tMultiplies (n : Nat) (af bc : ECode) (k : MKind) (kb : Nat) (hn : readDesc (tDescWord n) = some (tADesc af))
    (h : af ≠ .e2m1x) (hb : ecBytes af ≤ 8) (hw : tDescWord n < 256 ^ 32) :
    Multiplies (tSeq (tMul bc k) (memWrite [] (keyScr 3 0) 32 (tDescWord n))) (tSeqEnv (tMul bc k)) 0x1010 tX (tADesc af)
      (tDescWord n) bc ⟨some bc, 0, List.replicate 64 (List.replicate 128 0)⟩ kb 0 0 where
  on := ⟨rfl, rfl⟩
  index := by simp
  loop := nofun
  buf := rfl
  code := rfl
  desc := ((memRead_memWrite [] (keyScr 3 0) 32 (tDescWord n)).trans (Nat.mod_eq_of_lt hw)).symm
  read := hn
  room := show 0 + 32 ≤ 1024 * 128 by decide
  ranges := tADesc_ranges af h hb _ _ _
  full := rfl
  clean := rfl
  calm := rfl
  split := rfl
/-- FP8 and integer products, bit planes, residues, and a descriptor whose code is not the command's. -/
theorem witness_multiplying :
    Multiplies (tSeq (tMul .e5m2 .f32) (memWrite [] (keyScr 3 0) 32 (tDescWord 1))) (tSeqEnv (tMul .e5m2 .f32)) 0x1010 tX
      (tADesc .e4m3) (tDescWord 1) .e5m2 ⟨some .e5m2, 0, List.replicate 64 (List.replicate 128 0)⟩ 128 0 0 ∧
    HoldsTile (tSeqEnv (tMul .e5m2 .f32)) 0 .f32 (List.replicate 4096 1) ∧
    Multiplies (tSeq (tMul .i8 .i32) (memWrite [] (keyScr 3 0) 32 (tDescWord 6))) (tSeqEnv (tMul .i8 .i32)) 0x1010 tX
      (tADesc .i8) (tDescWord 6) .i8 ⟨some .i8, 0, List.replicate 64 (List.replicate 128 0)⟩ 128 0 0 ∧
    HoldsTile (tSeqEnv (tMul .i8 .i32)) 0 .i32 (List.replicate 4096 1) ∧
    Multiplies (tSeq (tMul .bp3 .i32) (memWrite [] (keyScr 3 0) 32 (tDescWord 6))) (tSeqEnv (tMul .bp3 .i32)) 0x1010 tX
      (tADesc .i8) (tDescWord 6) .bp3 ⟨some .bp3, 0, List.replicate 64 (List.replicate 128 0)⟩ 1024 0 0 ∧
    Multiplies (tSeq (tMul .bp3 .f32) (memWrite [] (keyScr 3 0) 32 (tDescWord 1))) (tSeqEnv (tMul .bp3 .f32)) 0x1010 tX
      (tADesc .e4m3) (tDescWord 1) .bp3 ⟨some .bp3, 0, List.replicate 64 (List.replicate 128 0)⟩ 1024 0 0 ∧
    ecPlanes .bp3 = 3 ∧
    Multiplies (tSeq (tMul .n64 .res) (memWrite [] (keyScr 3 0) 32 (tDescWord 8))) (tSeqEnv (tMul .n64 .res)) 0x1010 tX
      (tADesc .n64) (tDescWord 8) .n64 ⟨some .n64, 0, List.replicate 64 (List.replicate 128 0)⟩ 16 0 0 ∧
    HoldsTile (tSeqEnv (tMul .n64 .res)) 0 .res (List.replicate 4096 1) ∧ ECode.e4m3 ≠ .e5m2 :=
  ⟨tMultiplies 1 .e4m3 .e5m2 .f32 128 (by decide) (by decide) (by decide) (by decide), ⟨rfl, List.length_replicate⟩,
    tMultiplies 6 .i8 .i8 .i32 128 (by decide) (by decide) (by decide) (by decide), ⟨rfl, List.length_replicate⟩,
    tMultiplies 6 .i8 .bp3 .i32 1024 (by decide) (by decide) (by decide) (by decide),
    tMultiplies 1 .e4m3 .bp3 .f32 1024 (by decide) (by decide) (by decide) (by decide), rfl,
    tMultiplies 8 .n64 .n64 .res 16 (by decide) (by decide) (by decide) (by decide), ⟨rfl, List.length_replicate⟩, by decide⟩
/-- A table of q = 97 for two residues (j = 1), apart from its data. -/
theorem witness_matrix_terms : (Instr.msetq 0 64 97).wf = true ∧ (Instr.unassignedMop 1).wf = false ∧ (Instr.unassignedMop 0x7F).wf = true ∧
    (Instr.mlda .f32 0 ⟨0, 16, false, 0⟩).wf = true ∧ (Instr.mst .f32 0 ⟨0, 16, false, 0⟩).wf = true ∧
    (Instr.mldb ⟨0, .i8, 0, 8, false, 0, 0, false⟩).wf = true ∧ (Instr.mntt ⟨0, 0, 0, 4⟩).wf = true := by decide
theorem witness_transforms :
    let m := memWrite (memWrite (memWrite (memWrite [] (keyScr 3 512) 8 97) (keyScr 3 520) 8 1) (keyScr 3 528) 8 49) (keyScr 3 552) 8 1
    let rd := fun (k : Nat) => memRead m (keyScr 3 k) 8
    Commands (tSeq tRun m) (tSeqEnv tRun) 0x1010 ∧ (tSeq tRun m).upsets = [] ∧ tRun.split = none ∧ 1 ≤ (1 : BitVec 5).toNat ∧ 0 + 8 * 2 ≤ 16 * 32 ∧
    rd 520 = 1 ∧ rd 512 = 97 ∧ rd 528 < 97 ∧ (∀ i < 4, rd (544 + 8 * i) < 97) ∧ (∀ k < 2, rd (8 * k) < 97) ∧
    memRead [] (keyScr 3 520) 8 ≠ 1 :=
  ⟨⟨rfl, rfl⟩, rfl, rfl, by decide⟩

/-- Service core 0 of the fixture's context at a custom-0 word: a launch descriptor of two teams at 0x1040, its kernel
descriptor at 0x1080, and a counter of 3 at 0x1FF8. -/
abbrev tRvMem : List Host.Cell :=
  let m := labMem [] 9 (labHeader 1).toNat 0 0
  let m := memWrite m (keyGlb 9 4 0x40) 16 (0x1080 + 2 * 2 ^ 64 + 64 * 2 ^ 96)
  let m := memWrite m (keyGlb 9 4 0x80) 24 (0x1000 + 16 * 2 ^ 130 + 2 ^ 141 + 2 ^ 151)
  memWrite m (keyGlb 9 4 0xFF8) 8 3
abbrev tRvCore : RvCore := { RvCore.reset with pc := 0x1008, asid := 9, busy := true, x := [(10, 0x1040), (11, 0x1FF8), (12, 3)] }
abbrev tRv (r : RvCore) : State :=
  { tS [] with cur := none, rvCur := some 0, rv := [(0, r)], mem := tRvMem, contexts := [labContext 9], groups := [] }
set_option maxRecDepth 8000 in
theorem witness_serves : Serves (tRv tRvCore) 0 (labContext 9) ∧
    (rvReg (getRv (tRv tRvCore) 0) 10).toNat % 64 = 0 ∧ (rvReg (getRv (tRv tRvCore) 0) 11).toNat % 8 = 0 ∧
    seatXlat (tRv tRvCore) (labContext 9) false .read 0x1FF8 8 = (tRv tRvCore, some (keyGlb 9 4 0xFF8)) ∧
    seatXlat (tRv tRvCore) (labContext 9) false .fetch 0x1040 2 = (tRv tRvCore, some (keyGlb 9 4 0x40)) ∧
    memRead tRvMem (keyGlb 9 4 0xFF8) 8 = 3 ∧ (rvReg (getRv (tRv tRvCore) 0) 12).toNat = 3 ∧
    (rvReg (getRv (tRv tRvCore) 0) 10).toNat ≠ 0 ∧ Fresh (tRv tRvCore) (keyGlb 9 4 0xFF8) :=
  ⟨⟨rfl, by decide, rfl, by decide⟩, by decide, by decide, by rfl, by rfl, by decide, by decide, by decide, fun h => absurd h (by decide)⟩
/-- What `xspawn` finds: its words, its kernel descriptor, its counter and its grid. -/
def tSpawn : Option (Nat × KDesc × Nat × Nat × Bool) :=
  let x := labContext 9
  let r1 := seatRead (tRv tRvCore) x false 0x1040 8
  r1.2.bind fun w =>
    let r2 := fetchDesc r1.1 x (bitsN w 63 0)
    match r2.2 with
    | .error _ => none
    | .ok d =>
      let r3 := seatXlat r2.1 x false .write 0x1FF8 8
      r3.2.bind fun key =>
        (newGrid r3.1 0 9 d (.join key) (bitsN w 161 160) (bitsN w 127 96) (bitsN w 255 192) (bitsN w 159 128) (bitsN w 95 64)).map
          fun r4 => (w, d, key, spawnWaiting r3.1 0, r3.1.grids.all (·.key != r4.2) && !keyClass2 r4.1 key)
set_option maxRecDepth 8000 in
set_option exponentiation.threshold 600 in
theorem witness_xspawn : tSpawn.any (fun (w, d, key, n, b) => !spawnReserved w && bitsN w 95 64 == 2 && bitsN w 127 96 == 64 &&
    d.gang == 1 && d.team == 1 && key == keyGlb 9 4 0xFF8 && n == 0 && b) = true := by decide
set_option maxRecDepth 8000 in
/-- A core of a compute die at a word of custom-0. -/
theorem witness_traps : let s := { tRv tRvCore with rv := [(40, { tRvCore with pc := 0x1040 })], rvCur := some 40 }
    s.rvCur = some 40 ∧ 32 ≤ 40 ∧ (rvFetch s 40).2 = some 0x1080 := by decide
theorem witness_xdisp : let idle := fun (s : State) (i : Nat) => i < 32 ∧ i ≠ 0 ∧ (getRv s i).asid = 9 ∧ (getRv s i).busy = false ∧ (getRv s i).halted = false
    idle { tRv tRvCore with rv := [(0, tRvCore), (2, { RvCore.reset with asid := 9 })] } 2 ∧
    (∀ j < 2, ¬idle { tRv tRvCore with rv := [(0, tRvCore), (2, { RvCore.reset with asid := 9 })] } j) ∧
    (∀ i < 32, ¬idle (tRv tRvCore) i) := by decide
theorem witness_task_end : let r := { tRvCore with pc := 0, join := some (keyGlb 9 4 0xFF8) }
    r.busy = true ∧ r.pc = 0 ∧ r.join = some (keyGlb 9 4 0xFF8) ∧ getRv (tRv r) 0 = r ∧
    ({ labContext 9 with tag := 2 } : Context).tag = 2 := ⟨rfl, rfl, rfl, rfl, rfl⟩

/-! ## Premises of the claims about device steps (O39 to O42) -/

/-- A thread that has arrived at the header of the code page, which waits for flag 0. -/
abbrev tArr : Thread := { tT [] with pc := 0x1000, status := .header }
abbrev tHdr (w : Nat) (g : Group) : State := { tState [0] [tArr] with groups := [g], mem := labMem [] 9 w 0 0 }
abbrev tHdrEnv (g : Group) : Env := { tEnv [tArr] with group := g }
set_option maxRecDepth 8000 in
theorem witness_header : let g := { tGroup [tArr] with flags := [(0, 1)] }
    let w := (labHeader 1).toNat + 2 ^ 17
    let s := tHdr w g
    s.cur = some (tCur [0]) ∧ env s 7 = some (tHdrEnv g) ∧ getLane s 7 0 = some tArr ∧
    (tHdrEnv g).team.seq.status = .ended ∧ preemptPending s g = false ∧ (g.threads.map (·.lane)).Nodup ∧
    fetchWord s (labContext 9) 0 0x1000 = (.ok (keyGlb 9 4 0) 0 0 false 0, BitVec.ofNat 64 w) ∧
    (BitVec.ofNat 64 w).getLsbD 63 = true ∧ headerBad (BitVec.ofNat 64 w) = false ∧
    tArr.handler = false ∧ tArr.poison = none ∧
    (∀ b, tArr.arrival ≠ .released b) ∧ (hWait (BitVec.ofNat 64 w)).testBit 0 = true ∧ flagCount g 0 ≠ 0 ∧ (hWait (labHeader 1)).testBit 0 = false :=
  ⟨rfl, rfl, rfl, rfl, by decide, by decide, by rfl, by decide, by decide, rfl, rfl, nofun, by decide⟩
/-- The top entry names the header, and lane 1 is still on its way; a word that is no header, and a reserved one. -/
theorem witness_header_held : let u := tThread 1 []
    let r : RcEntry := ⟨0x1000, [0, 1], []⟩
    let g := { tGroup [tArr, u] with stack := [r] }
    let s := tHdr (labHeader 1).toNat g
    env s 7 = some (tHdrEnv g) ∧ g.stack = r :: [] ∧ r.addr = tArr.pc ∧ (∀ x ∈ g.stack, x.arrived = []) ∧
    (∃ y ∈ g.threads, y.lane ≠ 0 ∧ y.lane ∈ r.mask ∧ y.status = .block ∧ y.stall = none) ∧
    (∀ x ∈ g.threads, x.lane ≠ 0 → x.stall ≠ some .flags ∧ x.stall ≠ some .held) ∧
    (0#64).getLsbD 63 = false ∧ headerBad (labHeader 0) = true ∧ (labHeader 0).getLsbD 63 = true :=
  ⟨rfl, rfl, rfl, by decide, ⟨tThread 1 [], by simp [tGroup], by decide, by decide, rfl, rfl⟩, by decide⟩
/-- A thread held for 1,024 words; a pending pre-emption at both limits of words. -/
theorem witness_limits : let t := { tArr with stall := some .held, holdWords := 1024, hdr := 0x1000, hword := labHeader 1 }
    let r : RcEntry := ⟨0x1000, [0, 1], [0]⟩
    let g := { tGroup [t] with stack := [r], words := 69632 }
    let s := tHdr 0 g
    getGroup s 7 = some g ∧ g.stack = [r] ∧ preemptPending s g = false ∧ (g.threads.map (·.lane)).Nodup ∧
    (∀ x ∈ g.threads, x.stall ≠ some .flags) ∧ (∀ x ∈ g.threads, x.stall = some .cross → x.holdWords < 1024) ∧
    (∃ x ∈ g.threads, heldBy r x = true) ∧
    (∀ x ∈ g.threads, heldBy r x = true → 1024 ≤ x.holdWords ∧ x.status = .header) ∧
    preemptPending { s with gangs := [{ labGang 5 4 3 with status := .stopping }] } g = true ∧ 65536 ≤ g.words :=
  ⟨rfl, rfl, by decide, by decide, by decide, by decide, ⟨_, List.mem_singleton.2 rfl, by decide⟩, by decide⟩
/-- Ready groups: one marked first of two, one passed over 64 times, and the first of equal ones. -/
theorem witness_first_group : let g := fun (k : Nat) (a : Option Nat) (n : Nat) => { tGroup [tT []] with gid := k, aged := a, passed := n }
    (firstGroup (tS []) [g 7 (some 9) 0, g 8 (some 8) 0]).map (·.gid) = some 8 ∧
    (firstGroup (tS []) [g 7 none 0, g 8 none 64]).map (·.gid) = some 8 ∧
    (firstGroup (tS []) [g 7 none 0, g 8 none 63]).isSome = true := by decide

/-- A record of lane 0 that waits, and the lane parked; lane 1 still runs. -/
theorem witness_record_write :
    let r : FaultRec := ⟨some 7, 1, 1, 0, 0, 0, 0, 0x1008, 5, 0, 0, false, false, 0, 0, 0, 0, 0, 0, none⟩
    let ts := [{ tT [] with status := .parked 5 0 false false }, tThread 1 []]
    let x := { labContext 9 with pending := [r], trvec := 0x1000 }
    let s := { tState [0] ts with contexts := [x] }
    let e := { tEnv ts with ctx := x }
    s.upsets = [] ∧ getCtx s 9 = some x ∧ x.pending = [r] ∧ r.seqOf = none ∧ r.gid = some 7 ∧ r.nested = false ∧ env s 7 = some e ∧
    (e.group.threads.map (·.lane)).Nodup ∧ getLane s 7 r.lane = some { tT [] with status := .parked 5 0 false false } ∧
    e.group.stack = [] := ⟨rfl, rfl, rfl, rfl, rfl, rfl, rfl, by decide, rfl, rfl⟩
/-- A parked lane with its record written and no handler: the moment at which it ends. -/
theorem witness_lane_ends :
    let ts := [{ tT [] with status := .parked 5 0 true false }, { tThread 1 [] with status := .exited }]
    let s := tState [0] ts
    env s 7 = some (tEnv ts) ∧ (tEnv ts).ctx.trvec = 0 ∧ preemptPending s (tEnv ts).group = false ∧ (tEnv ts).group.stack = [] ∧
    ((tEnv ts).group.threads.map (·.lane)).Nodup ∧ (∀ t ∈ (tEnv ts).group.threads, t.handler = false) ∧
    (tEnv ts).group.threads.any readyToEnter = true ∧
    othersMeet (tEnv ts).group (((tEnv ts).group.threads.filter readyToEnter).map (·.lane)) = true ∧
    (∀ t ∈ (tEnv ts).group.threads, readyToEnter t = true → t.reads = 0 ∧ t.poison = none ∧
      reducing (tEnv ts).group t.lane = false) :=
  ⟨rfl, rfl, by decide, rfl, by decide⟩
/-- The last team of a gang with nothing left to do. -/
theorem witness_retirement :
    let s := { tS [] with groups := [{ tGroup [tT []] with retired := true }] }
    getTeam s 3 = some (labTeam 3 4 5) ∧ getGrid s 4 = some (labGrid 4 9) ∧ getGang s 5 = some (labGang 5 4 3) ∧
    3 ∈ (labGang 5 4 3).teams ∧ (s.teams.map (·.tid)).Nodup ∧ (∀ x ∈ s.groups, x.tid = 3 → x.retired = true) ∧
    (labTeam 3 4 5).resident = true ∧ (labTeam 3 4 5).retired = false ∧
    (labTeam 3 4 5).seq.status = .ended ∧ s.transfers = [] ∧ s.requests = [] := by decide
/-- A grid of SPAWN 0, of a join counter or of command 7 of queue 0. -/
theorem witness_grid_end :
    let g := fun (o : GridOwner) => { labGrid 4 9 with spawn := 0, owner := o, joins := 2 }
    let m : Cmd := ⟨7, 1, false, .accepted 4, 9, 0x1400, 70⟩
    let f := { VFunc.reset 0 with queues := [{ CQueue.reset 0 with cmds := [m] }] }
    let s := fun o => { tS [] with grids := [g o], funcs := [f] }
    getGrid (s (.join (keyGlb 9 4 0))) 4 = some (g (.join (keyGlb 9 4 0))) ∧ (g (.join (keyGlb 9 4 0))).ended = false ∧
    (tS []).ncopies = [] ∧ Fresh (s (.join (keyGlb 9 4 0))) (keyGlb 9 4 0) ∧
    getFunc (s (.command 0 7 70)) 0 = some f ∧ m ∈ (cmdQueue f 0).cmds ∧ (g (.command 0 7 70)).endCode = none :=
  ⟨rfl, rfl, rfl, fun h => absurd h (by decide), rfl, by decide, rfl⟩
/-- A queued gang of the fixture; M0 has a quad for it, or no die has. -/
abbrev tPlaceFunc (duty : Byte) (quads : List (Nat × Nat)) : VFunc :=
  { VFunc.reset 0 with placement := [5], duty := duty, part := ⟨quads, [(0, 1)], []⟩ }
abbrev tPlace (duty : Byte) (quads : List (Nat × Nat)) : State :=
  { tS [] with groups := [], gangs := [{ labGang 5 4 3 with status := .queued }], teams := [{ labTeam 3 4 5 with resident := false }],
               funcs := [tPlaceFunc duty quads] }
theorem witness_offer : getFunc (tPlace 0 [(0, 1)]) 0 = some (tPlaceFunc 0 [(0, 1)]) ∧ (tPlaceFunc 0 [(0, 1)]).placement = [5] ∧
    placementPending (tPlace 0 [(0, 1)]) 5 = false ∧ dutyPending (tPlaceFunc 0 [(0, 1)]) 1 5 0 = false ∧
    ((List.range 8).filter fun d => freeCapacity (tPlace 0 [(0, 1)]) (tPlaceFunc 0 [(0, 1)]) 5 d ≠ 0) = [0] ∧
    ((List.range 8).filter fun d => freeCapacity (tPlace 0 []) (tPlaceFunc 0 []) 5 d ≠ 0) = [] ∧
    (2 : Byte).getLsbD 1 = true := by decide
/-- A waiting thread, and a heat of it at its end, void or not. -/
abbrev tEntry : Entry := ⟨.thread 7 0 true 6 2, 1, 0x12, 9, 0, 0, 0, 0⟩
theorem witness_heats : let t := { tT [] with stall := some .heat }
    let s := fun (r : RLane) => { tState [0] [t] with rlanes := [r], cox := 112 }
    (s ⟨15, [tEntry], none⟩).rlanes[0]? = some ⟨15, [tEntry], none⟩ ∧ 
    entriesNow (s ⟨15, [tEntry], none⟩) [tEntry] ≠ [] ∧
    (s ⟨15, [], some ⟨[tEntry], 1, 112, false, []⟩⟩).rlanes[0]? = some ⟨15, [], some ⟨[tEntry], 1, 112, false, []⟩⟩ ∧ 112 ≤ (s ⟨15, [], none⟩).cox ∧
    ([tEntry].filterMap fun x => match x.who with | .thread g l .. => some (g, l) | _ => none) = [(7, 0)] ∧
    (env (s ⟨15, [], none⟩) 7).isSome = true ∧ (getLane (s ⟨15, [], none⟩) 7 0).map (·.stall) = some (some .heat) := by decide
/-- The walk for the code page, through tables 0 to 3; and for a page that has no entry. -/
abbrev tWalk (vpn : Nat) : State :=
  { tS [] with mem := labMem [] 9 0 0 0, dies := (tS []).dies.modify 0 fun d => { d with tlb := [], walks := [(9, vpn)] } }
set_option maxRecDepth 8000 in
theorem witness_walk : (getDie (tWalk 1) 0).walks = [(9, 1)] ∧ getCtx (tWalk 1) 9 = some (labContext 9) ∧
    (∀ n < 4, ∃ f, frameOf (labContext 9) n = some f ∧ f.tbl = true ∧ f.cc = 0 ∧ f.fmt = 0 ∧ f.measured = false) ∧
    memRead (tWalk 1).mem (keyGlb 9 0 0) 8 = 1 + 2 ^ 20 * 1 ∧ memRead (tWalk 1).mem (keyGlb 9 1 0) 8 = 1 + 2 ^ 20 * 2 ∧
    memRead (tWalk 1).mem (keyGlb 9 2 0) 8 = 1 + 2 ^ 20 * 3 ∧ memRead (tWalk 1).mem (keyGlb 9 3 8) 8 = labLeaf.toNat ∧
    pteV labLeaf = true ∧ pteL labLeaf = true ∧ pteReserved 4 labLeaf = false ∧ pteS64 labLeaf = false ∧ pteMt labLeaf = 0 ∧
    pteCC labLeaf = 0 ∧ pteKey labLeaf = 0 ∧ pteLfn labLeaf = 4 := by
  refine ⟨rfl, rfl, fun n hn => ⟨labFrame n, ?_⟩, by decide⟩
  rcases n with _ | _ | _ | _ | n <;> first | exact ⟨rfl, rfl, rfl, rfl, rfl⟩ | omega
/-- A table of the walk that no frame backs. -/
theorem witness_walk_table : let c := { labContext 9 with frames := [labFrame 0] }
    (match walkVa { tWalk 1 with contexts := [c] } c 0 0x1000 with | .table r l => some (r.lfn, l) | _ => none) = some (1, 2) := by decide
set_option maxRecDepth 8000 in
theorem witness_walk_fault : (match walkVa (tWalk (2 ^ 35)) (labContext 9) 0 (2 ^ 35 * 4096) with | .fault sub l => some (sub, l) | _ => none) = some (1, 1) ∧
    (memRead (tWalk (2 ^ 35)).mem (keyGlb 9 0 (8 * (2 ^ 35 * 4096 / 2 ^ 39 % 512))) 8) % 2 = 0 := by decide
/-- A request for frame 5, where the function has room, or where it has none. -/
theorem witness_backing :
    let r : BackReq := ⟨9, 5, 5, 0, 0, 0, 0, 0, 2, false, 1, false, false⟩
    let f := fun (m : List (Nat × Nat)) => { VFunc.reset 0 with part := ⟨[], m, []⟩ }
    let s := fun m => { tS [] with backing := [r], funcs := [f m] }
    (s [(0, 1)]).backing = [r] ∧ getCtx (s [(0, 1)]) 9 = some (labContext 9) ∧ getFunc (s [(0, 1)]) 0 = some (f [(0, 1)]) ∧
    (f [(0, 1)]).duties = [] ∧ frameOf (labContext 9) 5 = none ∧ (backPlace (s [(0, 1)]) (f [(0, 1)]) r).isSome = true ∧
    backPlace (s []) (f []) r = none ∧ r.walk = false ∧ r.die < (s []).dies.length ∧
    (∀ g ∈ (s []).groups, ∀ t ∈ g.threads, t.stall = none) ∧ (1 : Byte).getLsbD 0 = true := by decide
/-- A frame at home on M0 that M1 used 1,024 times, and its re-home. -/
theorem witness_rehome :
    let x := { labFrame 5 with home := 2, place := [⟨0, 0, 32⟩], counts := [(1, 1024)], pages := 1 }
    let c := { labContext 9 with frames := [x] }
    let f := { VFunc.reset 0 with part := ⟨[], [(0, 1), (1, 1)], []⟩ }
    let s := { tS [] with contexts := [c], funcs := [f], rehomes := [⟨9, 5, 1, 1⟩] }
    let wants := fun (j : Nat) => j < 8 ∧ j ≠ (x.place.head?.map (·.die)).getD 0 ∧ f.pmask.getLsbD j = true ∧
      1024 ≤ tget 0 x.counts j ∧ 3 * (x.counts.map (·.2)).sum ≤ 4 * tget 0 x.counts j ∧
      x.pages ≤ freeFrames s f c.asid j
    s.contexts = [c] ∧ getFunc s c.vf = some f ∧ s.cox % 2 ^ 20 = 0 ∧ (∀ m, x.moved = some m → m + 4 ≤ s.cox / 2 ^ 20) ∧ x.pages < 262144 ∧ f.duty.getLsbD 1 = false ∧
    wants 1 ∧ (∀ j < 1, ¬wants j) ∧ (⟨9, 5, 1, 1⟩ : Rehome) ∈ s.rehomes ∧ rehomeLfns s ⟨9, 5, 1, 1⟩ = [5] ∧ frameOf c 5 = some x ∧
    (takeFrame 1 (freeRuns s f 9 1)).isSome = true := by decide

/-! ## Premises of the claims about commands, windows, messages and gangs (O43 to O46) -/

/-- A queue whose ring is at 0x1800 and whose timeline is at 0x1400, with commands. -/
abbrev tQueue (cs : List Cmd) : CQueue :=
  { CQueue.reset 0 with qbase := 0x1800, en := true, log2 := 4, tail := 1, qtl := 0x1400, asid := 9, cmds := cs }
abbrev tQFunc (cs : List Cmd) : VFunc := { VFunc.reset 0 with queues := [tQueue cs] }
abbrev tCmds (cs : List Cmd) : State :=
  { tRv tRvCore with rvCur := none, funcs := [tQFunc cs], mem := memWrite tRvMem (keyGlb 9 4 0x800) 8 3,
                     grids := [{ labGrid 4 9 with owner := .command 0 1 70 }] }
set_option maxRecDepth 8000 in
theorem witness_take : let s := tCmds []
    s.upsets = [] ∧ nextQueue s = some (0, 0) ∧ getFunc s 0 = some (tQFunc []) ∧ getCtx s 9 = some (labContext 9) ∧ (s.funcs.map (·.vf)).Nodup ∧
    (let r := readSlot (passTurn s 0 0) (labContext 9) (tQueue [])
     r.2 = some 3 ∧ (queueTl r.1 9 0x1400).2 = some (keyGlb 9 4 0x400) ∧ keyClass2 (queueTl r.1 9 0x1400).1 (keyGlb 9 4 0x408) = false) := by
  decide
/-- A nop's record passes every check. -/
theorem nop_checks (s : State) (c : Context) (m : Cmd) (h : m.record = 3) : checkCmd s c 0 m = (s, 0) := by
  have h1 : checkRecord 0 m = 0 := by simp only [checkRecord, cmdOpc, h]; decide
  have h2 : cmdOpc m = 3 := by simp only [cmdOpc, h]; decide
  have h3 : (cmdWtl m).1 = 0 := by simp only [cmdWtl, h]; decide
  simp [checkCmd, checkWtl, h1, h2, h3]
/-- A nop that is taken, checked or waits, a record that no check passes, a fenced one, and a wait for a timeline. -/
theorem witness_commands :
    let m := fun (st : CmdStatus) => (⟨1, 3, false, st, 9, 0x1400, 70⟩ : Cmd)
    let s := fun st => tCmds [m st]
    activeCmd (tQueue [m .taken]) = some (m .taken) ∧ getFunc (s .taken) 0 = some (tQFunc [m .taken]) ∧
    ((tQueue [m .taken]).cmds.map (·.id)).Nodup ∧ (m .taken).record % 256 = 3 ∧ checkCmd (s .taken) (labContext 9) 0 (m .taken) = (s .taken, 0) ∧
    activeCmd (tQueue [m .checked]) = some (m .checked) ∧ bitsN (m .checked).record 175 128 = 0 ∧
    (m .checked).record.testBit 10 = false ∧ activeCmd (tQueue [m (.waiting false)]) = some (m (.waiting false)) ∧
    (tQFunc [m .taken]).duty.getLsbD 4 = false ∧ dutyPending (tQFunc [m .taken]) 4 0 70 = false ∧
    checkRecord 0 ⟨1, 3 + 2 ^ 8, false, .taken, 9, 0x1400, 70⟩ ≠ 0 ∧ (tQueue []).qstat = 0 ∧
    (3 + 2 ^ 10 : Nat).testBit 10 = true ∧ (∃ y ∈ [m .checked, (⟨0, 3, false, .accepted 4, 9, 0x1400, 71⟩ : Cmd)], y.id ≠ (m .checked).id) :=
  ⟨by decide, rfl, by decide, by decide, nop_checks _ _ _ rfl, by decide, rfl, by decide, by decide, by decide, by decide, by decide, by decide, by decide,
    ⟨⟨0, 3, false, .accepted 4, 9, 0x1400, 71⟩, by simp, by decide⟩⟩
set_option maxRecDepth 8000 in
theorem witness_wtl : let w : Cmd := ⟨1, 2 + 0x1400 * 2 ^ 128 + 5 * 2 ^ 192, false, .waiting false, 9, 0x1400, 70⟩
    activeCmd (tQueue [w]) = some w ∧ w.record % 256 = 2 ∧ bitsN w.record 175 128 = 0x1400 ∧ bitsN w.record 255 192 = 5 ∧
    (wtlKey (tCmds [w]) (labContext 9) w).2 = some (keyGlb 9 4 0x400) ∧
    memRead (tCmds [w]).mem (keyGlb 9 4 0x400) 8 < 5 ∧ memRead (tCmds [w]).mem (keyGlb 9 4 0x408) 8 < 2 ^ 63 := by decide
set_option maxRecDepth 20000 in
set_option exponentiation.threshold 600 in
theorem witness_launch : let m : Cmd := ⟨1, 1 + 0x1080 * 2 ^ 64 + 64 * 2 ^ 256, false, .waiting false, 9, 0x1400, 70⟩
    activeCmd (tQueue [m]) = some m ∧ m.record % 256 = 1 ∧ bitsN m.record 175 128 = 0 ∧
    (let r := fetchDesc (tCmds [m]) (labContext 9) (bitsN m.record 111 64)
     match r.2 with
     | .ok d => (newGrid r.1 0 9 d (.command 0 m.k m.id) (bitsN m.record 9 8) (bitsN m.record 287 256) (bitsN m.record 383 320)
        (bitsN m.record 319 288) 1).isSome
     | .error _ => false) = true := by decide
/-- A seat reaches the code page of the fixture. -/
theorem seat_ok {s : State} {c : Context} {k : AccKind} {va n key : Nat} (h1 : va + n ≤ 2 ^ 48)
    (h2 : va < heapBase) (hu : s.upsets = []) (hw : walkVa s c 8 va = .leaf ⟨9, 1, 4, labLeaf, 4⟩)
    (hc : checkLeaf s c 8 false k va ⟨9, 1, 4, labLeaf, 4⟩ = .ok key 0 0 false 0) :
    seatXlat s c false k va n = (s, some key) := by
  unfold seatXlat agentXlat
  rw [if_neg (by omega), if_neg (by simp; omega)]
  simp [meetWalk, meetUpsets, hu, hw, hc, formatReserved]
set_option maxRecDepth 8000 in
theorem witness_accept_and_finish :
    let m : Cmd := ⟨1, 1, false, .created 4, 9, 0x1400, 70⟩
    let n : Cmd := ⟨1, 1, false, .finished 0, 9, 0x1400, 70⟩
    m ∈ (cmdQueue (tQFunc [m]) 0).cmds ∧ (∀ y ∈ (cmdQueue (tQFunc [m]) 0).cmds, (∃ h, y.status = .created h) → y = m) ∧
    getGrid (tCmds [m]) 4 = some { labGrid 4 9 with owner := .command 0 1 70 } ∧ (∀ y ∈ (tCmds [m]).gangs, y.key ≠ (tCmds [m]).nextId) ∧
    (cmdQueue (tQFunc [n]) 0).cmds = [n] ∧
    queueTl (modCmdQueue (tCmds [n]) 0 0 fun y => { y with cmds := [] }) 9 0x1400 =
      (modCmdQueue (tCmds [n]) 0 0 fun y => { y with cmds := [] }, some (keyGlb 9 4 0x400)) ∧
    (0 : DWord).getLsbD 63 = false ∧ (0xC000000000000000 : DWord).getLsbD 63 = true ∧ (0xC000000000000000 : DWord).getLsbD 62 = true :=
  ⟨by decide, by intro y hy _; exact List.mem_singleton.1 hy, rfl, by decide, rfl, seat_ok (by decide) (by decide) rfl (by decide) rfl, by decide⟩
/-- Full operation, a stream bound to the owner's context. -/
abbrev tWin (f : VFunc) : State :=
  { tRv tRvCore with rvCur := none, funcs := [f], boot := { Boot.reset with recovery := false },
                     contexts := [{ labContext 9 with stream := some 2 }] }
set_option maxRecDepth 8000 in
theorem witness_windows :
    let f := { VFunc.reset 0 with queues := [{ tQueue [] with en := false }] }
    let s := tWin f
    windowsUp s = true ∧ getFunc s 0 = some f ∧ streamCtx s 0 2 = some { labContext 9 with stream := some 2 } ∧
    ((1 : Word) - (cmdQueue f 0).head).toNat ≤ 2 ^ (cmdQueue f 0).log2 ∧ 2 ^ (cmdQueue f 0).log2 < ((17 : Word) - (cmdQueue f 0).head).toNat ∧
    (cmdQueue f 0).en = false ∧ (9 : Word).toNat < 64 ∧ 4 ≤ (9 : Word).toNat / 2 % 32 ∧
    seatXlat s { labContext 9 with stream := some 2 } false .write 0x1400 16 = (s, some (keyGlb 9 4 0x400)) ∧
    seatXlat s { labContext 9 with stream := some 2 } false .read 0x1400 16 = (s, some (keyGlb 9 4 0x400)) ∧
    (labContext 9).live = true ∧ (cmdQueue f 0).qtl ≠ 0 ∧ ({ s with liveInst := [0] } : State).liveInst ≠ [] ∧
    0x1408 % 16 ≠ 0 ∧ bitsN (0x1800 : DWord).toNat 62 48 = 0 ∧ s.liveInst = [] ∧ s.boot.powered = true :=
  ⟨rfl, rfl, rfl, by decide, by decide, rfl, by decide, by decide, seat_ok (by decide) (by decide) rfl (by decide) rfl, seat_ok (by decide) (by decide) rfl (by decide) rfl, rfl, by decide, by decide, by decide, by decide, rfl, rfl⟩
/-- A mailbox of seat 2 with a message, one of a type it does not know, and a full one. -/
theorem witness_mail :
    let m : Mail := ⟨1, 2, 0x01, 7, 0, 0⟩
    let s := { tS [] with mail := [(2, [m]), (16, [{ m with dst := 9, type := 0x40 }])], liveInst := [1] }
    tget [] s.mail 2 = m :: [] ∧ m.type = 0x01 ∧ ({ m with type := 0x40 } : Mail).type ≠ 0xFF ∧
    ({ m with type := 0x40 } : Mail).type.toNat ∉ mailTypes 2 ∧ 32 ≤ (List.replicate 32 m).length ∧ (tget [] s.mail 2).length < 32 ∧
    tget [] s.mail 16 = [{ m with dst := 9, type := 0x40 }] ∧ 16 - 16 ∉ s.liveInst ∧ 17 - 16 ∈ s.liveInst := by
  decide
/-- An update whose last acknowledgement is due, and one with another still to come. -/
theorem witness_updates : let u : Update := ⟨8, 0, .mask 0x0F, [], [1]⟩
    let s := { tS [] with updates := [u], liveInst := [0, 1] }
    s.updates = [u] ∧ 0 ∈ s.liveInst ∧ 0 ∉ u.acks ∧ getFunc s u.vf = some (VFunc.reset 0) ∧
    (⟨8, 0, .binding 3 9, [], [1]⟩ : Update).obj = .binding 3 9 ∧ (∀ j ∈ s.liveInst, j = 0 ∨ j ∈ u.acks) ∧ (∃ j ∈ [0, 1, 2], j ≠ 0 ∧ j ∉ u.acks) := by decide
/-- A request of the PLACE duty for the queued gang, one for a page, and one of each other duty. -/
theorem witness_duties :
    let d : DutyReq := ⟨3, 1, 0, false, 5, 0, []⟩
    let f := { tPlaceFunc 2 [(0, 1)] with duties := [d] }
    let s := { tPlace 2 [(0, 1)] with funcs := [f] }
    let k := { labGang 5 4 3 with status := .queued }
    getFunc s 0 = some f ∧ f.duties.find? (·.ix == 3) = some d ∧ f.pmask.getLsbD 0 = true ∧ getGang s 5 = some k ∧
    getGrid s 4 = some (labGrid 4 9) ∧ ableQuads s f 0 (labGrid 4 9).desc (liveTeams s k).length ≠ [] ∧ liveTeams s k ≠ [] ∧
    (s.teams.map (·.tid)).Nodup ∧ s.cox < d.posted + 200000000 ∧ d.posted + 200000000 ≤ 200000000 ∧
    (⟨3, 1, 0, false, 9, 6, []⟩ : DutyReq).extra = 5 + 1 ∧ (⟨3, 4, 0, false, 0, 1, []⟩ : DutyReq).duty = 4 ∧
    (⟨3, 2, 0, false, 0, 1, []⟩ : DutyReq).subject < s.dies.length := by decide
/-- A frame whose mapping the host returns: the place that the device would take. -/
theorem witness_mapping :
    let r : BackReq := ⟨9, 5, 5, 0, 0, 0, 0, 0, 2, false, 1, false, false⟩
    let d : DutyReq := ⟨3, 0, 0, false, 9, 5, [9, 6, 5 * 4096]⟩
    let f := { VFunc.reset 0 with part := ⟨[], [(0, 1)], []⟩, duty := 1, duties := [d] }
    let s := { tS [] with backing := [r], funcs := [f] }
    f.duties.find? (·.ix == 3) = some d ∧ s.backing.find? (fun r => r.asid == d.subject && r.lfn == d.extra) = some r ∧
    getCtx s 9 = some (labContext 9) ∧ (labContext 9).vf = 0 ∧ frameOf (labContext 9) 5 = none ∧
    (backPlace s f r).any (fun own => placeFits s f r own own) = true ∧
    (⟨3, 1, 0, false, 9, 5, []⟩ : DutyReq).extra = 4 + 1 ∧ (frameOf (labContext 9) 4).isSome = true := by decide
/-- The operator's registers select the fixture's gang; the image goes to the code page of an OPR context. -/
abbrev tOpr : Context := { labContext 9 with tag := 0 }
abbrev tGang (st : GangStatus) (cause : StopCause) : State :=
  { tRv tRvCore with rvCur := none, boot := { Boot.reset with recovery := false }, contexts := [tOpr],
                     groups := [{ tGroup [{ tT [] with status := .stopped false }] with gid := 7 }],
                     gangs := [{ labGang 5 4 3 with status := st, cause := cause }],
                     pf := { PfRegs.reset with gimg := 0x1000, gasid := 9 } }
set_option maxRecDepth 8000 in
theorem witness_gang_commands :
    let s := tGang .resident .debug
    let k := labGang 5 4 3
    windowsUp s = true ∧ s.pf.gbusy = false ∧ imageContext s = some tOpr ∧ selectedGang s = some (k, labGrid 4 9) ∧
    getGang s k.key = some k ∧ k.status ≠ .retired ∧ bitsN s.pf.gimg.toNat 47 0 % 4096 = 0 ∧ k.keyGone = false ∧
    seatXlat s tOpr false .write 0x1000 8 = (s, some (keyGlb 9 4 0)) ∧ (0x12 : Word).toNat / 16 % 16 ≠ 0 ∧
    selectedGang { s with gangs := [] } = none :=
  ⟨rfl, rfl, rfl, rfl, rfl, by decide, by decide, rfl, seat_ok (by decide) (by decide) rfl (by decide) rfl, by decide, rfl⟩
theorem witness_gang_stopped :
    let s := tGang .stopping .discard
    let k := { labGang 5 4 3 with status := .stopping, cause := .discard }
    getGang s k.key = some k ∧ getGrid s k.grid = some (labGrid 4 9) ∧ gangStopped s k = true ∧ k.halted = false ∧
    gangStopped (tGang .stopping .debug) { labGang 5 4 3 with status := .stopping, cause := .debug } = true ∧
    gangStopped (tGang .stopping (.image 0x1000 9)) { labGang 5 4 3 with status := .stopping, cause := .image 0x1000 9 } = true ∧
    getCtx s 9 = some tOpr ∧ (restoreDies s (labGrid 4 9) 1) = [0] :=
  ⟨rfl, rfl, by decide, rfl, by decide, by decide, rfl, by decide⟩
theorem witness_debug : let s := { tGang .stopping .debug with boot := { Boot.reset with debugOpen := true } }
    s.boot.debugOpen = true ∧ getGang s 5 = some { labGang 5 4 3 with status := .stopping } ∧
    getGang { s with gangs := [{ labGang 5 4 3 with status := .stopping, halted := true }] } 5 =
      some { labGang 5 4 3 with status := .stopping, halted := true } ∧ Boot.reset.debugOpen = false := ⟨rfl, rfl, rfl, rfl⟩

/-! ## Premises of the claims about contexts, attestation, partitions, dies and the whole machine (O47 to O60) -/

/-- Full operation. -/
abbrev tUp : State := { tRv tRvCore with rvCur := none, boot := { Boot.reset with recovery := false } }
/-- The operator asks for a pool of one frame; a free identifier of each kind; the refused cases. -/
theorem witness_contexts :
    let f := { VFunc.reset 0 with part := ⟨[], [(0, 1 * 2 ^ 16 + 1)], []⟩ }
    let s := { tUp with pf := { PfRegs.reset with cpool := 1 }, funcs := [f] }
    windowsUp s = true ∧ ccmdBusy s = false ∧ (0x100 : Word).toNat / 2 ^ 10 % 4 = 0 ∧ (0x100 : Word).toNat / 256 % 4 = 1 ∧
    getFunc s 0 = some f ∧ sliceFrames (VFunc.reset 0) < s.pf.cpool.toNat ∧ s.pf.cpool.toNat ≤ sliceFrames f ∧
    (∃ c ∈ s.contexts, c.vf = 0 ∧ c.tag = 1) ∧ (∀ c ∈ ({ s with contexts := [] } : State).contexts, c.vf = 0 → c.tag ≠ 1) ∧
    getCtx s 1 = none ∧ keyTaken s 2 = false ∧ getCtx s ((0x00090000 : Word).toNat / 2 ^ 16) = some (labContext 9) ∧
    getCtx s ((0x00080000 : Word).toNat / 2 ^ 16) = none ∧ (s.grids.map (·.key)).Nodup :=
  ⟨rfl, by decide, by decide, by decide, rfl, by decide, by decide, ⟨labContext 9, by simp, rfl, rfl⟩, by decide, rfl,
    by decide, rfl, rfl, by decide⟩
/-- A die with nothing to wait for, one that waits for an image, one in reset; the module's nine dies. -/
theorem witness_resets : let s := tUp
    windowsUp s = true ∧ s.dies.length = 9 ∧ ccmdBusy s = false ∧ (0x7000 : Word).toNat / 2 ^ 12 % 16 = 7 ∧
    imagePending s 7 = false ∧ imagePending (tGang .stopping (.image 0x1000 9)) 0 = true ∧
    (let t := { s with dies := s.dies.modify 7 fun d => { d with resetting := true } }
     ccmdBusy t = true ∧ (getDie t 7).resetWait = false ∧ (getDie t 7).resetting = true) ∧
    (0x9000 : Word).toNat / 2 ^ 12 % 16 = 9 := by decide
/-- An open session, finished, to which the fixture's context is bound, and the greatest number of sessions. -/
abbrev tSess (fin : Bool) (a : Option Nat) : Session := ⟨1, fin, 0, 0, [5], none, a⟩
/-- The session of peer port 1 before and after it keys its link, a stream of the link with traffic or a key. -/
theorem witness_peer_link : let x := fun (fin : Bool) => ({ tSess fin none with peer := some 1 } : Session)
    let s := fun fin ys => { tUp with sessions := [x fin], streams := ys }
    getSession (s false []) 1 = some (x false) ∧ getStream (s false []) 257 = none ∧
    getStream (s false [⟨257, false, 0, 5, 9, none, false⟩]) 257 = some ⟨257, false, 0, 5, 9, none, false⟩ ∧
    getStream (s true [⟨257, true, 0, 5, 9, none, false⟩]) 257 = some ⟨257, true, 0, 5, 9, none, false⟩ ∧
    (match exec (.easyAll 257) (s true [⟨257, true, 0, 5, 9, none, false⟩]) with | .next _ => true | _ => false) = true := by decide
theorem witness_sessions : let s := { tUp with sessions := [tSess true (some 9)] }
    windowsUp s = true ∧ getSession s 1 = some (tSess true (some 9)) ∧ (getSession s 1).isSome = true ∧ getSession s 2 = none ∧
    s.sessions.length < 32 ∧ 32 ≤ (List.replicate 32 (tSess true none)).length ∧ (tSess false none).finished = false := by decide
/-- A pending context and its stream; an auditor's context; a stream whose rekey is due, running, and late. -/
theorem witness_binding :
    let c := { labContext 8 with live := false }
    let au := { labContext 7 with tag := 2 }
    let s := { tUp with contexts := [labContext 9, c, au], sessions := [tSess true (some 7)] }
    let r : BindReq := ⟨8, 5, 0, 0x1000, 4, false⟩
    getSession s 1 = some (tSess true (some 7)) ∧ getStream s 6 = none ∧ getCtx s r.asid = some c ∧ c.live = false ∧
    r.stream ∈ (tSess true (some 7)).streams ∧ (∀ o ∈ s.contexts, o.live = true → o.stream ≠ some r.stream) ∧
    4 ≤ r.log2 ∧ r.fq.toNat % 128 = 0 ∧ getCtx s 7 = some au ∧ au.vf = (labContext 9).vf ∧ getCtx s 9 = some (labContext 9) ∧
    (labContext 9).tag ≠ 2 ∧ (labContext 9).measured = false ∧ getFunc s 0 = some (VFunc.reset 0) ∧ (VFunc.reset 0).duty.getLsbD 6 = false := by
  decide
theorem witness_rekey : let y : LinkStream := ⟨5, true, 0, 9, 9, none, false⟩
    let z : LinkStream := ⟨5, true, 0, 9, 9, some 0, true⟩
    let s := { tUp with streams := [y] }
    getFunc s 0 = some (VFunc.reset 0) ∧ getStream s 5 = some y ∧ (VFunc.reset 0).duty.getLsbD 7 = false ∧ rekeyPending s 5 = false ∧
    getStream { s with streams := [z] } 5 = some z ∧
    (match exec (.easyAll 5) s with | .next _ => true | _ => false) = true ∧ s.cox < 0 + 2000000 ∧ (0x80 : Byte).getLsbD 7 = true ∧
    dutyPending { VFunc.reset 0 with duty := 0x80 } 7 5 0 = false := by decide
set_option maxRecDepth 8000 in
/-- A measured context that is not sealed, and a page of it. -/
theorem witness_seal : let c := { labContext 9 with measured := true }
    let s := { tUp with contexts := [c] }
    getCtx s 9 = some c ∧ c.measurement = none ∧ 0x1000 % 4096 = 0 ∧ walkVa s c 8 0x1000 = .leaf ⟨9, 1, 4, labLeaf, 4⟩ ∧
    frameOf c 4 = some (labFrame 4) := ⟨rfl, rfl, by decide, by decide, rfl⟩
/-- An apply that is begun: in range and free, out of range, in use, and with a change of the cache on a die that holds
frames; a release; registers free and busy. -/
theorem witness_partitions :
    let p : Partition := ⟨[(0, 1)], [(0, 1)], [(0, 1)]⟩
    let s := fun (b : Option PartOp) => { tUp with contexts := [], gangs := [], pf := { PfRegs.reset with staged := p, pbusy := b }, funcs := [VFunc.reset 0, VFunc.reset 1] }
    windowsUp (s none) = true ∧ getFunc (s none) 0 = some (VFunc.reset 0) ∧ (s none).pf.pbusy = none ∧
    (s (some ⟨1, 0, p, []⟩)).pf.pbusy = some ⟨1, 0, p, []⟩ ∧
    (let u := s (some ⟨1, 0, p, (List.range 8).map fun d => (d, (getDie (s none) d).llc)⟩)
     ∃ llc, u.pf.pbusy = some ⟨1, 0, p, llc⟩ ∧
      (∀ d < 8, partBad p llc d = false) ∧ (∀ c ∈ u.contexts, c.vf ≠ 0) ∧
      (∀ g ∈ u.funcs, g.vf ≠ 0 → ∀ d < 8, partsMeet p g.part d = false) ∧ (∀ d < 8, partInLlc p llc d = false) ∧
      (∀ d < 8, tget 0 llc d = (getDie u d).llc ∨ dieHeld u d = false)) ∧ (s none).dies.length = 9 ∧
    (∃ d < 8, partBad ⟨[(4, 2 ^ 16)], [], []⟩ [] d = true) ∧ (∃ d < 8, partsMeet p p d = true) ∧
    (let u := { tUp with contexts := [{ labContext 9 with frames := [{ labFrame 4 with place := [⟨0, 0, 32⟩] }] }] }
     ∃ d < 8, tget 0 [(0, (getDie u 0).llc + 1)] d ≠ (getDie u d).llc ∧ dieHeld u d = true) ∧
    (∃ c ∈ tUp.contexts, c.vf = 0) := by
  refine ⟨rfl, rfl, rfl, rfl, ⟨_, rfl, by decide, by decide, by decide, by decide, by decide⟩, by decide⟩
/-- A range at its first and at its last frame, of a boot; one that holes follow; one whose host is to be asked, and one
that stands there. -/
theorem witness_scrub : let q : QRange := ⟨0, 3, 0, [], none, false, []⟩
    let h : QRange := { q with last := 9, holes := [(1, 3), (3, 5)] }
    let s := fun (q : QRange) => { tUp with dies := tUp.dies.modify 0 fun d => { d with quar := [q] } }
    0 < (s q).dies.length ∧ (getDie (s q) 0).quar = [q] ∧ rangeAtHost (s q) 0 q = false ∧ q.frontier < 1 ∧ 1 ≤ q.last ∧
    (∀ x ∈ h.holes, x.1 < x.2) ∧ h.holes.Pairwise (fun a b => a.2 ≤ b.1) ∧ h.frontier < 5 ∧
    (∀ x ∈ h.holes, 5 < x.1 ∨ x.2 ≤ 5) ∧ (∀ m < 5, 0 < m → ∃ x ∈ h.holes, x.1 ≤ m ∧ m < x.2) ∧
    (∀ k < 9, k ≠ 0 → (getDie (s q) k).quar = []) ∧ ({ q with frontier := 3 } : QRange).last < 4 ∧
    (let r := { q with vf := some 0 }
     let f := fun ds => { VFunc.reset 0 with duty := 4, duties := ds }
     let u := fun ds => { s r with funcs := [f ds] }
     r.vf = some 0 ∧ getFunc (u []) 0 = some (f []) ∧ (4 : Byte).getLsbD 2 = true ∧ r.cleared = false ∧ r.frontier = r.first ∧
       dutyPending (f []) 2 0 0 = false ∧ rangePosted (u [⟨3, 2, 0, false, 0, 0, []⟩]) 0 r = true) := by decide
/-- A frame on M0, and another that the patrol has not read. -/
theorem witness_patrol : let x := { labFrame 4 with home := 2, place := [⟨0, 0, 32⟩] }
    let y := { labFrame 5 with home := 2, place := [⟨0, 32, 32⟩] }
    let c := { labContext 9 with frames := [x, y] }
    let s := { tUp with contexts := [c] }
    s.upsets = [] ∧ 9 < 2 ^ 16 ∧ 4 < 2 ^ 36 ∧ ({ x with cc := 2 } : FrameRec).cc = 2 ∧ getCtx s 9 = some c ∧ getFunc s 0 = some (VFunc.reset 0) ∧ frameOf c 4 = some x ∧ (∃ k ∈ x.place, k.die = 0) ∧
    lineHome (VFunc.reset 0) x (127 / 4) = 0 ∧ 0 < s.dies.length ∧
    (∃ z ∈ backedOn s 0, z ≠ (9, 4) ∧ z ∉ (getDie s 0).patrolled) := by decide
/-- An operation that has begun: a checkpoint of one segment for the fixture's context. -/
abbrev tCkOp : CkOp := ⟨1, false, 9, ⟨[0], 0, 0⟩, 7, 0x4B434E58, [⟨4096, 1, 0, 0⟩], [], [], 0, .write 0⟩
/-- Each place at which an operation may stand: a segment to write and none left; to read back; the host; a check of the
manifest, of a shard and of none; a copy of a shard to its piece, of another tensor's, of none, and no piece left. -/
theorem witness_checkpoint_steps :
    let p : CkPiece := ⟨5, 0, 0, 0, 1, 0, false, [], [], 0x1000, []⟩
    let x := { tCkOp with pieces := [p], shards := [⟨p, 8192, 1, 0, 0⟩, ⟨{ p with tid := 6 }, 12288, 1, 0, 0⟩] }
    let s := fun (p : CkPhase) => { tUp with pf := { PfRegs.reset with ckwait := some { x with phase := p } } }
    (∀ p, (s p).pf.ckwait = some { x with phase := p }) ∧ x.segs[0]?.isSome = true ∧ x.segs[1]? = none ∧
    x.shards[0]?.isSome = true ∧ x.shards[2]? = none ∧ x.pieces[0]?.isSome = true ∧ x.pieces[1]? = none ∧
    (x.shards.map (·.box.tid == p.tid)) = [true, false] ∧ getCtx (s .host) 9 = some (labContext 9) :=
  ⟨fun _ => rfl, by decide⟩
/-- A context with no grid, one with an unfinished grid, and none; an empty storage holds no checkpoint. -/
theorem witness_checkpoints :
    let s := { tUp with pf := { PfRegs.reset with ckasid := 9, ckport := 1, cknlb := 64 }, grids := [], gangs := [] }
    windowsUp s = true ∧ s.pf.ckwait = none ∧ (0 : Word).toNat < 32 ∧ ckContext s = some (labContext 9) ∧ ckQuiet s 9 = true ∧
    ckQuiet { s with grids := [labGrid 4 9] } 9 = false ∧ ckContext { s with contexts := [] } = none ∧
    getFunc s 0 = some (VFunc.reset 0) ∧ (VFunc.reset 0).duty.getLsbD 3 = false ∧
    ({ s with pf := { s.pf with ckwait := some tCkOp } } : State).pf.ckwait.isSome = true ∧ (ckPorts s).length * s.pf.cknlb.toNat * 4096 = 262144 := by decide
/-- A context whose page of the table, of class 1, holds a header with no pieces. -/
abbrev tCkCtx : Context := { labContext 9 with
  frames := (labContext 9).frames ++ [{ labFrame 10 with tbl := true }, { labFrame 11 with tbl := true }, { labFrame 12 with cc := 1, keyid := 1 }] }
abbrev tCk : State :=
  let m := memWrite tRvMem (keyGlb 9 1 448) 8 (1 + 2 ^ 20 * 10)
  let m := memWrite (memWrite m (keyGlb 9 10 0) 8 (1 + 2 ^ 20 * 11)) (keyGlb 9 11 0) 8 (15 + 2 ^ 20 * 12 + 2 ^ 4 + 2 ^ 56)
  { tUp with pf := { PfRegs.reset with ckasid := 9, ckport := 1, cknlb := 64 }, grids := [], gangs := [], contexts := [tCkCtx],
             mem := memWrite m (keyGlb 9 12 0) 8 1 }
set_option maxRecDepth 8000 in
theorem witness_checkpoint_table : ckContext tCk = some tCkCtx ∧ ckQuiet tCk 9 = true ∧
    (match (readTable { tCk with pf := { tCk.pf with ckbytes := 0 } } tCkCtx false).2 with
     | .ok x => x == (0, [])
     | .error _ => false) = true ∧
    (readTable { tCk with pf := { tCk.pf with ckbytes := 0 } } tCkCtx false).1.upsets = [] ∧
    (let r : CkRegion := ⟨[0], 0, 0⟩
     storedCommit { tCk with mem := memWrite tCk.mem (streamKey r 0) 4 0x4B434E58 } r % 2 ^ 32 = 0x4B434E58) ∧
    (match (readHeader { tCk with pf := { tCk.pf with ckbytes := 0 } } tCkCtx).2 with
     | .ok x => x == (0, 0)
     | .error _ => false) = true ∧
    (∀ s kc, (makeSegments s tCkCtx [] kc).2 = 8192) ∧ 8192 ≤ (ckPorts tCk).length * tCk.pf.cknlb.toNat * 4096 :=
  ⟨rfl, by decide, by decide, by decide, by decide +kernel, by decide, fun _ _ => rfl, by decide⟩
/-- A die that runs, one that is lost, clocks in and out of range, a hot die, and a window of seat 7. -/
theorem witness_dies : let s := { tUp with dies := List.replicate 9 { Die.reset with alive := true, clk := 1000, ceil := 1100 },
                                           boot := { Boot.reset with recovery := false, stage := 6 } }
    (getDie s 0).alive = true ∧ (getDie State.reset 0).alive = false ∧ s.dies.length = 9 ∧ windowsUp s = true ∧
    labGang 5 4 3 ∈ s.gangs ∧ gangOn s 0 (labGang 5 4 3) = true ∧ getGrid s 4 = some (labGrid 4 9) ∧
    400 ≤ (1075 : Word).toNat % 2 ^ 16 ∧ (1075 : Word).toNat % 2 ^ 16 % 25 = 0 ∧ (1010 : Word).toNat % 2 ^ 16 % 25 ≠ 0 ∧
    s.cox % 2 ^ 13 = 0 ∧ 3 ≤ s.boot.stage ∧ s.boot.powered = true ∧
    (∀ i < 8, (getDie s i).throt = false ∧ (getDie s i).clk ≠ 0) ∧
    (let h := { getDie s 0 with throt := true, temp := 1600 }
     (getDie { s with dies := h :: s.dies.tail } 0).throt = true ∧ (1840 : Int) ≤ ({ h with temp := 1840 } : Die).temp ∧
       ({ h with hot := true } : Die).hot = true ∧ (1760 : Int) ≤ ({ h with temp := 1760 } : Die).temp ∧ (1552 : Int) < (getDie { s with dies := h :: s.dies.tail } 0).temp) := by
  decide
/-- A boot before each stage, and a recovery that has begun, has not, or has overflowed. -/
theorem witness_boot : State.reset.boot.powered = true ∧ State.reset.boot.fail = 0 ∧ State.reset.boot.stage < 6 ∧
    State.reset.dies.length = 9 ∧ State.reset.boot.recovery = true ∧ State.reset.boot.begun = false ∧
    (let b := { Boot.reset with begun := true }
     b.begun = true ∧ b.buffer.length + 8 ≤ 2 ^ 26 ∧ b.overflow = false) ∧ ({ Boot.reset with powered := false } : Boot).powered = false := by
  decide

/-! ## Steps -/

/-- The machine of `withFetchWord` for a word of `exit`: its first turn is the group's. -/
abbrev tPlaced : State := State.reset.withFetchWord 64 0x0380000000000000
set_option maxRecDepth 8000 in
theorem witness_issue : ∃ s0 e t, TakesTurn tPlaced s0 (.issue 1) ∧ env s0 1 = some e ∧ canIssue s0 e.group = true ∧
    firstThread (e.group.threads.filter (ready s0 e)) = some t ∧ t.status = .block ∧
    Fetches (markIssue s0) e.ctx e.group.die t.pc 0x0380000000000000 ∧
    (opLong (fOp 0x0380000000000000) && t.pc + 8 < blockEnd t) = false ∧
    decodeThread 0x0380000000000000 none = .ok (.exit tG) := by
  refine ⟨{ tPlaced with agenda := [], cur := none, seqCur := none, rvCur := none }, _, _, ⟨[], .inl rfl, rfl⟩, rfl, by decide,
    rfl, rfl, ⟨keyGlb 1 4 8, 0, 0, false, 0, ?_⟩, by decide⟩
  rfl
/-- A turn at the head of the agenda. -/
theorem turn_at (s : State) (t : Turn) : TakesTurn { s with agenda := [t] }
    { s with agenda := [], cur := none, seqCur := none, rvCur := none } t := ⟨[], .inl rfl, rfl⟩
set_option maxRecDepth 8000 in
/-- The turns besides: another block's lanes in the same slot, an attempt at a word that may wait, and an entry. -/
theorem witness_turns :
    let at_ := fun (t : Turn) => { tPlaced with agenda := [t] }
    let s0 := { tPlaced with agenda := [], cur := none, seqCur := none, rvCur := none }
    TakesTurn (at_ (.also 1 0 0x1008)) s0 (.also 1 0 0x1008) ∧ TakesTurn (at_ (.attempt 1 0)) s0 (.attempt 1 0) ∧
    TakesTurn (at_ (.due .partition)) s0 (.due .partition) ∧ TakesTurn (at_ (.due .checkpoint)) s0 (.due .checkpoint) ∧
    TakesTurn (at_ (.mka 0)) s0 (.mka 0) ∧
    (env s0 1).any (fun e => canIssue s0 e.group && e.group.threads.any fun t =>
      t.lane == 0 && t.pc == 0x1008 && t.stall.isNone && ready s0 e t) = true ∧
    mayWait (.sleep tG 1) = true ∧ decodeThread 0x0480000000010000 none = .ok (.sleep tG 256) ∧
    (∀ pc, TakesTurn (at_ (.enter 1 pc)) s0 (.enter 1 pc)) ∧
    canEnter (tHdr 0 (tGroup [tArr])) (tHdrEnv (tGroup [tArr])) tArr = true ∧ getStream s0 272 = none :=
  ⟨turn_at _ _, turn_at _ _, turn_at _ _, turn_at _ _, turn_at _ _, by decide, rfl, by decide, fun _ => turn_at _ _, by decide, rfl⟩
/-- The stream of team 3 at `mbwait 0`. -/
abbrev tStream : State :=
  { tS [] with teams := [{ labTeam 3 4 5 with seq := tRun }], mem := labMem [] 9 0 0x0400000000000000 0, agenda := [.sequencer 3] }
theorem witness_sequencer : ∃ s0 e, TakesTurn tStream s0 (.sequencer 3) ∧ bulkEnv s0 3 = some e ∧ e.team.seq.status = .running ∧
    e.team.resident = true ∧ ((getGang s0 e.team.gang).any fun k => k.status == .stopping) = false ∧
    e.team.seq.split = none ∧ Fetches s0 e.ctx e.team.die e.team.seq.pos 0x0400000000000000 ∧
    hasExt 0x0400000000000000 = false ∧
    decodeMatrix 0x0400000000000000 0 = .ok (.mbwait 0) := by
  refine ⟨{ tStream with agenda := [], cur := none, seqCur := none, rvCur := none }, _, ⟨[], .inl rfl, rfl⟩, rfl, rfl, rfl, by decide, rfl,
    ⟨keyGlb 9 4 8, 0, 0, false, 0, ?_⟩, by decide⟩
  rfl
/-- Service core 0 at `xjoin x10, (x11)`, and at the end of its task; an event of the host. -/
abbrev tCore : State := State.reset.withFetchWord 32 0x0005250B
/-- The machine at that turn. -/
abbrev tCore0 : State := { tCore with agenda := [], cur := none, seqCur := none, rvCur := none }
set_option maxRecDepth 8000 in
theorem witness_core : ∃ s0 s1 w, TakesTurn tCore s0 (.core 0) ∧ (getRv s0 0).busy = true ∧ (getRv s0 0).halted = false ∧
    rvUp s0 0 = true ∧ rvInterrupt s0 0 = none ∧ (getRv s0 0).pc ≠ 0 ∧ rvFetch s0 0 = (s1, some w) ∧ (decodeXvexrus 0 w).isSome = true ∧
    (decodeXvexrus 0 0x00B50533 : Option Instr) = none := by
  have h : (rvFetch tCore0 0).2 = some 0x0005250B := by decide
  exact ⟨tCore0, (rvFetch tCore0 0).1, 0x0005250B, ⟨[], .inl rfl, rfl⟩, by decide, by decide, by decide, by rfl, by decide,
    h ▸ (Prod.mk.eta (p := rvFetch tCore0 0)).symm, by decide⟩
/-- RISC-V words that R314's cores run: `add`, `div`, `c.li`, an `ecall` (log 9). -/
def tRvRun (w : Word) (x : List (Nat × DWord)) : Nat × Nat × Nat :=
  let r := getRv (rvExec (putRv State.reset 0 { RvCore.reset with pc := 0x1008, x := x }) 0 w.toNat) 0
  (r.pc.toNat, (rx r 10).toNat, r.mcause.toNat)
theorem test_riscv : tRvRun 0x00B50533 [(10, 5), (11, 7)] = (0x100C, 12, 0) ∧ tRvRun 0x02B54533 [(10, 100), (11, 7)] = (0x100C, 14, 0) ∧
    tRvRun 0x4501 [(10, 5)] = (0x100A, 0, 0) ∧ (tRvRun 0x00000073 []).2.2 = 11 := by decide
theorem witness_event : TakesTurn { State.reset with agenda := [.event .coldBoot] } State.reset (.event .coldBoot) :=
  ⟨[], .inl rfl, rfl⟩
/-- A posted write of the host (R249). -/
theorem witness_host : TakesTurn { State.reset with agenda := [.host 1 0 8 4 7] } State.reset (.host 1 0 8 4 7) :=
  ⟨[], .inl rfl, rfl⟩
/-- Premises of O6, O57, O58 and O59. -/
theorem witness_wellformed : (Instr.iaddR ⟨63, true⟩ .n64 true 1022 1020 1018).wf = true ∧ State.reset.MemOk ∧
    (∃ t, step { State.reset with agenda := [.event .coldBoot] } = .next t) := ⟨by decide, by unfold State.MemOk; decide, _, rfl⟩

end Sys2Proof.Tests
end

section
/-!
EVERY STEP KEEPS MEMORY CANONICAL. One lemma for each function of the model that returns a state, in the order of the
model: `f_mem` where `f` leaves memory as it was, `f_wf` where it writes it only through the operations of `Laws/Store`
and `Laws/Memory`. The step's own cases are assembled from them at the end. A lemma closed by `(rfl)`, not by `rfl`, is
one that the simplifier must be able to use as a hypothesis of `foldl_mem`.
-/

namespace Sys2Proof.Machine

/-! ## Folds and branches -/

/-- A fold whose every step keeps memory keeps it. -/
@[simp] theorem foldl_mem {α : Type} (f : State → α → State) (l : List α) (s : State)
    (hf : ∀ s x, (f s x).mem = s.mem) : (l.foldl f s).mem = s.mem := by
  induction l generalizing s with
  | nil => rfl
  | cons x l ih => rw [List.foldl_cons, ih, hf]

/-- A fold whose every step keeps a property of memory keeps it. -/
@[simp] theorem foldl_wf {α : Type} (f : State → α → State) (l : List α) (s : State)
    (hf : ∀ s x, Memory.wf s.mem = true → Memory.wf (f s x).mem = true) (h : Memory.wf s.mem = true) :
    Memory.wf (l.foldl f s).mem = true := by
  induction l generalizing s with
  | nil => exact h
  | cons x l ih => exact ih _ (hf _ _ h)

@[simp] theorem ite_mem (c : Prop) [Decidable c] (a b : State) :
    (if c then a else b).mem = if c then a.mem else b.mem :=
  apply_ite _ _ _ _

@[simp] theorem wf_ite (c : Prop) [Decidable c] (a b : List Host.Cell) :
    Memory.wf (if c then a else b) = if c then Memory.wf a else Memory.wf b := apply_ite _ _ _ _

/-- What every state that a lane's step leaves satisfies of its memory. -/
def LaneStep.MemHas (q : List Host.Cell → Prop) : LaneStep → Prop
  | .ok s | .moved s | .wait s _ => q s.mem
  | .fault _ => True

/-- What every state that a uniform instruction's step leaves satisfies of its memory. -/
def UStep.MemHas (q : List Host.Cell → Prop) : UStep → Prop
  | .done s _ | .wait s _ => q s.mem
  | .fault _ => True

/-- What every state that a command's step leaves satisfies of its memory. -/
def SeqStep.MemHas (q : List Host.Cell → Prop) : SeqStep → Prop
  | .done s | .part s | .jump s _ => q s.mem
  | _ => True

/-- The next state of an outcome has canonical memory. -/
def NextWf (o : Host.Outcome State Fault Refusal) : Prop := ∀ t, o = .next t → Memory.wf t.mem = true

@[simp] theorem nextWf_next (s : State) : NextWf (.next s) ↔ Memory.wf s.mem = true :=
  ⟨fun h => h s rfl, fun h _ ht => Host.Outcome.next.inj ht ▸ h⟩

@[simp] theorem foldl_fst_mem {α β : Type} (f : State × β → α → State × β) (l : List α) (p : State × β)
    (hf : ∀ p x, (f p x).1.mem = p.1.mem) : (l.foldl f p).1.mem = p.1.mem := by
  induction l generalizing p with
  | nil => rfl
  | cons x l ih => rw [List.foldl_cons, ih, hf]

theorem foldl_fst_wf {α β : Type} (f : State × β → α → State × β) (l : List α) (p : State × β)
    (hf : ∀ p x, Memory.wf p.1.mem = true → Memory.wf (f p x).1.mem = true) (h : Memory.wf p.1.mem = true) :
    Memory.wf (l.foldl f p).1.mem = true := by
  induction l generalizing p with
  | nil => exact h
  | cons x l ih => exact ih _ (hf _ _ h)

/-- Updates of threads one after another keep memory. -/
@[simp] theorem foldl_modLane_mem {α : Type} (gid lane : State → α → Nat) (f : State → α → Thread → Thread)
    (l : List α) (s : State) :
    (l.foldl (fun s x => modLane s (gid s x) (lane s x) (f s x)) s).mem = s.mem :=
  foldl_mem _ _ _ fun _ _ => rfl

@[simp] theorem foldl_modDie_mem {α : Type} (die : State → α → Nat) (f : State → α → Die → Die) (l : List α)
    (s : State) :
    (l.foldl (fun s x => modDie s (die s x) (f s x)) s).mem = s.mem :=
  foldl_mem _ _ _ fun _ _ => rfl

/-! ## Ops -/

@[simp] theorem putRv_mem (s : State) (c : Nat) (r : RvCore) : (putRv s c r).mem = s.mem := rfl

@[simp] theorem refillKicks_mem (s : State) (die core : Nat) : (refillKicks s die core).mem = s.mem := by
  simp [refillKicks]

@[simp] theorem raise_mem (s : State) (e : Env) (pc : Nat) (active : List Nat) (fs : List (Nat × LaneFault))
    (hdr : Bool) :
    (raise s e pc active fs hdr).mem = s.mem := by
  refine foldl_mem _ _ _ fun s lf => ?_
  split <;> simp

theorem laneStep_mem {q : List Host.Cell → Prop} (c : Cur) (f : Nat → State → LaneStep) (acc : LaneAcc)
    (l : Nat)
    (hf : ∀ l s, q s.mem → (f l s).MemHas q) (h : q acc.s.mem) : q (laneStep c f acc l).s.mem := by
  have hl := hf l acc.s h
  unfold laneStep
  split <;> simp_all [LaneStep.MemHas]

/-- A property of memory that every lane's step keeps is kept by the execution. -/
theorem foldLanes_mem {q : List Host.Cell → Prop} (s : State) (c : Cur) (e : Env) (g : Guard)
    (f : Nat → State → LaneStep)
    (hf : ∀ l s, q s.mem → (f l s).MemHas q) (h : q s.mem) : q (foldLanes s c e g f).mem := by
  have hacc : ∀ (ls : List Nat) (acc : LaneAcc), q acc.s.mem → q (ls.foldl (laneStep c f) acc).s.mem := by
    intro ls
    induction ls with
    | nil => exact fun _ h => h
    | cons l ls ih => exact fun acc h => ih _ (laneStep_mem c f acc l hf h)
  simp only [foldLanes, countEvent_mem, raise_mem]
  exact hacc _ _ (by simpa only [foldl_modLane_mem] using h)

@[simp] theorem allFault_mem (s : State) (c : Cur) (e : Env) (g : Guard) (f : LaneFault) :
    (allFault s c e g f).mem = s.mem :=
  foldLanes_mem (q := (· = s.mem)) s c e g _ (fun _ _ _ => trivial) rfl

@[simp] theorem allWait_mem (s : State) (c : Cur) (e : Env) (g : Guard) (w : Stall) :
    (allWait s c e g w).mem = s.mem :=
  foldLanes_mem (q := (· = s.mem)) s c e g _ (fun _ _ h => h) rfl

@[simp] theorem askWalk_mem (s : State) (die asid vpn : Nat) : (askWalk s die asid vpn).mem = s.mem := rfl

@[simp] theorem askBacking_mem (s : State) (r : BackReq) : (askBacking s r).mem = s.mem := by
  simp [askBacking]

@[simp] theorem evictTlb_mem (s : State) (die : Nat) : (evictTlb s die).mem = s.mem := by
  simp [evictTlb]

@[simp] theorem dropWalkFaults_mem (s : State) (die asid : Nat) (vpns : List Nat) :
    (dropWalkFaults s die asid vpns).mem = s.mem := rfl

/-! ## Post -/

@[simp] theorem postMail_mem (s : State) (type src dst ctxid : Nat) (fields : List Nat) :
    (postMail s type src dst ctxid fields).mem = s.mem := rfl

@[simp] theorem postDuty_mem (s : State) (vf duty subject extra : Nat) (body : List Nat) :
    (postDuty s vf duty subject extra body).mem = s.mem := rfl

@[simp] theorem addSummary_mem (s : State) (vf : Nat) (x : Summary) : (addSummary s vf x).mem = s.mem := by
  simp [addSummary]

@[simp] theorem addSummaryAll_mem (s : State) (x : Summary) : (addSummaryAll s x).mem = s.mem := by
  simp [addSummaryAll]

/-! ## Homes -/

@[simp] theorem reportError_mem (s : State) (seat die : Nat) : (reportError s seat die).mem = s.mem := rfl

@[simp] theorem countCorrected_mem (s : State) (sram : Bool) (die : Nat) :
    (countCorrected s sram die).mem = s.mem := by
  simp [countCorrected]

@[simp] theorem countPoisoned_mem (s : State) (sector : Nat) : (countPoisoned s sector).mem = s.mem := by
  simp only [countPoisoned]
  split <;> simp [addPoison_mem]

@[simp] theorem meetUpset_mem (s : State) (u : Upset) : (meetUpset s u).mem = s.mem := by
  simp [meetUpset]

@[simp] theorem meetUpsets_mem (s : State) (rs : List (Nat × Nat)) : (meetUpsets s rs).mem = s.mem := by
  simp [meetUpsets]

/-! ## Copies -/

@[simp] theorem dropTlb_mem (s : State) (asid : Nat) : (dropTlb s asid).mem = s.mem := rfl

@[simp] theorem clearPoison_mem (s : State) (ws : List (Nat × Nat)) : (clearPoison s ws).mem = s.mem := rfl

@[simp] theorem touchFrame_mem (s : State) (die key : Nat) : (touchFrame s die key).mem = s.mem := by
  unfold touchFrame
  split <;> simp

@[simp] theorem countFetch_mem (s : State) (c : Context) (die pc : Nat) :
    (countFetch s c die pc).mem = s.mem := by
  unfold countFetch
  split <;> simp

@[simp] theorem landSector_wf (asid dst n : Nat) (byte : Nat → Byte) (bad : Nat → Bool) (s : State) (p : Nat)
    (h : Memory.wf s.mem = true) : Memory.wf (landSector asid dst n byte bad s p).mem = true := by
  simp [landSector, h, bankWrite_wf, addPoison_mem]

@[simp] theorem landBytes_wf (s : State) (asid dst n : Nat) (byte : Nat → Byte) (bad : Nat → Bool)
    (h : Memory.wf s.mem = true) : Memory.wf (landBytes s asid dst n byte bad).mem = true := by
  simp +contextual [landBytes, h]

@[simp] theorem putCipher_wf (s : State) (key : Nat) (b : Byte) (h : Memory.wf s.mem = true) :
    Memory.wf (putCipher s key b).mem = true := by
  unfold putCipher
  split
  · exact h
  · exact memWrite_wf _ _ _ _ h

@[simp] theorem landCipherSector_wf (dst n : Nat) (byte : Nat → Byte) (bad : Nat → Bool) (s : State) (p : Nat)
    (h : Memory.wf s.mem = true) : Memory.wf (landCipherSector dst n byte bad s p).mem = true := by
  simp only [landCipherSector]
  split <;> simp [h, bankWrite_wf, addPoison_mem]

@[simp] theorem landCipher_wf (s : State) (dst n : Nat) (byte : Nat → Byte) (bad : Nat → Bool)
    (h : Memory.wf s.mem = true) : Memory.wf (landCipher s dst n byte bad).mem = true := by
  simp +contextual [landCipher, h]

@[simp] theorem engineRecord_mem (s : State) (asid die team : Nat) (cls sub level : Nat) (addr : Int)
    (pc info src : Nat) (repl : Bool) (seqOf : Option Nat) :
    (engineRecord s asid die team cls sub level addr pc info src repl seqOf).mem = s.mem := rfl

@[simp] theorem landPieces_wf (s0 : State) (asid : Nat) (sealing : Bool) (ps : List Piece) (s : State)
    (h : Memory.wf s.mem = true) : Memory.wf (landPieces s0 asid sealing ps s).1.mem = true := by
  induction ps generalizing s with
  | nil => exact h
  | cons p ps ih =>
    simp only [landPieces]
    split
    · exact ih _ (landBytes_wf _ _ _ _ _ _ h)
    · split
      · exact ih _ (landBytes_wf _ _ _ _ _ _ h)
      · exact landBytes_wf _ _ _ _ _ _ h

@[simp] theorem takeNumber_wf (s : State) (asid tl : Nat) (h : Memory.wf s.mem = true) :
    Memory.wf (takeNumber s asid tl).1.mem = true := by
  simp [takeNumber, h, bankWrite_wf]

@[simp] theorem touchPiece_mem (die : Nat) (s : State) (p : Piece) : (touchPiece die s p).mem = s.mem := by
  simp [touchPiece]

@[simp] theorem acceptNcopy_wf (s : State) (id : Nat) (h : Memory.wf s.mem = true) :
    Memory.wf (acceptNcopy s id).mem = true := by
  unfold acceptNcopy
  split
  · exact h
  · split
    · exact h
    · exact landPieces_wf _ _ _ _ _ (takeNumber_wf _ _ _ (by simpa using h))

/-! ## Queue -/

@[simp] theorem storeUnit_wf (s : State) (asid u fmt geom : Nat) (bs : List (Nat × Nat))
    (h : Memory.wf s.mem = true) : Memory.wf (storeUnit s asid u fmt geom bs).mem = true := by
  simp [storeUnit, h, bankBytes_wf]

@[simp] theorem encodeOne_wf (s : State) (asid key fmt geom : Nat) (x : FVal × Int)
    (h : Memory.wf s.mem = true) :
    Memory.wf (encodeOne s asid key fmt geom x).mem = true := by
  simp [encodeOne, h]

@[simp] theorem encodeBlock_wf (s : State) (asid geom : Nat) (b : Nat × Nat) (xs : List (Nat × FVal))
    (h : Memory.wf s.mem = true) : Memory.wf (encodeBlock s asid geom b xs).mem = true := by
  simp [encodeBlock, h]

@[simp] theorem performEncodes_wf (s : State) (asid : Nat) (ps : List Part) (h : Memory.wf s.mem = true) :
    Memory.wf (performEncodes s asid ps).mem = true := by
  refine foldl_wf _ _ _ (fun s g h => foldl_wf _ _ _ (fun s b h => encodeBlock_wf _ _ _ _ _ h) h)
    (foldl_wf _ _ _ (fun s p h => ?_) h)
  split
  · split
    · exact h
    · exact encodeOne_wf _ _ _ _ _ _ h
  · exact h

@[simp] theorem duePoison_mem (s : State) (gid lane pc ea : Nat) (x : ExecRec) :
    (duePoison s gid lane pc ea x).mem = s.mem := rfl

@[simp] theorem performRmw_wf (s : State) (asid gid : Nat) (x : ExecRec) (lane key n : Nat) (k : RmwKind)
    (b c : Nat) (dst : Option Nat) (pc ea : Nat) (h : Memory.wf s.mem = true) :
    Memory.wf (performRmw s asid gid x lane key n k b c dst pc ea).1.mem = true := by
  unfold performRmw
  split <;> simp [h, bankWrite_wf]

@[simp] theorem performPart_wf (asid gid : Nat) (x : ExecRec) (acc : State × List Part) (p : Part)
    (h : Memory.wf acc.1.mem = true) : Memory.wf (performPart asid gid x acc p).1.mem = true := by
  cases p with
  | load | encode => exact h
  | store lane key n v tbl => simp [performPart, bankWrite_wf, h]
  | rmw lane key n k b c dst pc ea => exact performRmw_wf _ _ _ _ _ _ _ _ _ _ _ _ _ h
  | ncopy lane id => exact acceptNcopy_wf _ _ h

@[simp] theorem performOp_wf (s : State) (asid gid : Nat) (op : LongOp) (h : Memory.wf s.mem = true) :
    Memory.wf (performOp s asid gid op).mem = true := by
  unfold performOp
  split
  · exact h
  · exact foldl_fst_wf _ _ _ (fun acc p h => performPart_wf _ _ _ acc p h) (performEncodes_wf _ _ _ (by simpa using h))

@[simp] theorem performAll_wf (asid gid : Nat) (s : State) (ops : List LongOp) (h : Memory.wf s.mem = true) :
    Memory.wf (performAll asid gid s ops).mem = true := by
  simp +contextual [performAll, h]

@[simp] theorem performTo_wf (s : State) (asid gid id : Nat) (h : Memory.wf s.mem = true) :
    Memory.wf (performTo s asid gid id).mem = true := by
  unfold performTo
  split <;> simp [h]

@[simp] theorem drainGroup_wf (s : State) (asid gid : Nat) (h : Memory.wf s.mem = true) :
    Memory.wf (drainGroup s asid gid).mem = true := by
  unfold drainGroup
  split <;> simp [h]

@[simp] theorem settleLoads_wf (s : State) (asid gid : Nat) (rs : List (Nat × Nat))
    (h : Memory.wf s.mem = true) :
    Memory.wf (settleLoads s asid gid rs).mem = true := by
  unfold settleLoads
  split <;> simp [h]

@[simp] theorem issueOp_mem (s : State) (c : Cur) (e : Env) (x : ExecRec) (flag : Option Nat)
    (queued acquire : Bool) (parts : List Part) : (issueOp s c e x flag queued acquire parts).mem = s.mem := by
  simp [issueOp]

@[simp] theorem completeOp_wf (s : State) (asid gid id : Nat) (h : Memory.wf s.mem = true) :
    Memory.wf (completeOp s asid gid id).mem = true := by
  simp only [completeOp]
  split <;> simp [h]

/-! ## Execute -/

@[simp] theorem settleStreams_wf (s : State) (c : Cur) (e : Env) (g : Guard) (us : List RegUse)
    (h : Memory.wf s.mem = true) : Memory.wf (settleStreams s c e g us).mem = true := by
  unfold settleStreams
  split <;> simp [h]

theorem withOperands_mem {q : List Host.Cell → Prop} (e : Env) (r : ExecRec) (gid : Nat) (us : List RegUse)
    (l : Nat) (s : State)
    (f : (Nat → Word) → Thread → State → LaneStep) (hf : ∀ rd t, (f rd t s).MemHas q) (h : q s.mem) :
    (withOperands e r gid us l s f).MemHas q := by
  unfold withOperands
  split
  · exact h
  · split
    · trivial
    · exact h
    · exact hf _ _

/-! ## Groups -/

@[simp] theorem lowerJoin_wf (s : State) (key n : Nat) (h : Memory.wf s.mem = true) :
    Memory.wf (lowerJoin s key n).mem = true := by
  simp [lowerJoin, h, bankWrite_wf]

@[simp] theorem retireJoin_wf (s : State) (g : Group) (h : Memory.wf s.mem = true) :
    Memory.wf (retireJoin s g).mem = true := by
  simp only [retireJoin]
  (repeat' split) <;> simp [h]

@[simp] theorem settleGroup_wf (s : State) (gid : Nat) (h : Memory.wf s.mem = true) :
    Memory.wf (settleGroup s gid).mem = true := by
  unfold settleGroup
  split <;> simp [h]

/-! ## Barriers -/

@[simp] theorem wakeLanes_mem (s : State) (asid : Nat) (ws : List (Nat × Nat)) (val : Bool) :
    (wakeLanes s asid ws val).mem = s.mem := by simp [wakeLanes]

@[simp] theorem testPhase_wf (s : State) (key : Nat) (h : Memory.wf s.mem = true) :
    Memory.wf (testPhase s key).mem = true := by
  simp [testPhase, h, barWrite_wf]

@[simp] theorem noteTest_mem (s : State) (key : Nat) : (noteTest s key).mem = s.mem := by
  simp [noteTest]

@[simp] theorem runTests_wf (s : State) (h : Memory.wf s.mem = true) : Memory.wf (runTests s).mem = true := by
  simp +contextual [runTests, h]

@[simp] theorem countBytes_wf (s : State) (tid n : Nat) (orphan : Bool) (bar : Option Nat)
    (h : Memory.wf s.mem = true) : Memory.wf (countBytes s tid n orphan bar).mem = true := by
  unfold countBytes
  split <;> simp [h, barWrite_wf]

@[simp] theorem fillLines_mem (s : State) (ls : List Nat) : (fillLines s ls).mem = s.mem := rfl

@[simp] theorem landTransfer_wf (s0 : State) (x : Transfer) (h : Memory.wf s0.mem = true) :
    Memory.wf (landTransfer s0 x).mem = true := by
  refine countBytes_wf _ _ _ _ _ (foldl_wf _ _ _ (fun s pd h => ?_) h)
  simp [h]

@[simp] theorem releaseGroup_wf (s : State) (asid gid : Nat) (h : Memory.wf s.mem = true) :
    Memory.wf (releaseGroup s asid gid).mem = true := by
  simp +contextual [releaseGroup, h]

@[simp] theorem releaseCur_wf (s : State) (h : Memory.wf s.mem = true) :
    Memory.wf (releaseCur s).mem = true := by
  simp only [releaseCur]
  (repeat' split) <;> simp [h]

/-! ## Access -/

@[simp] theorem stallXlate_mem (s : State) (c : Cur) (e : Env) (vpns : List Nat) :
    (stallXlate s c e vpns).mem = s.mem := by
  simp only [stallXlate, foldl_modLane_mem]
  rw [foldl_mem _ _ _ fun _ _ => askWalk_mem _ _ _ _, evictTlb_mem]

@[simp] theorem placeLane_mem {α : Type} (c : Cur) (s : State) (lp : Nat × Plan α) :
    (placeLane c s lp).mem = s.mem := by
  simp only [placeLane]
  (repeat' split) <;> simp

@[simp] theorem finishPlans_wf {α : Type} (s : State) (c : Cur) (e : Env) (act : List Nat)
    (ps : List (Nat × Plan α))
    (commit : List (Nat × α) → State → State)
    (hc : ∀ xs s, Memory.wf s.mem = true → Memory.wf (commit xs s).mem = true) (h : Memory.wf s.mem = true) :
    Memory.wf (finishPlans s c e act ps commit).mem = true := by
  simp only [finishPlans, countEvent_mem, dropWalkFaults_mem, raise_mem]
  refine hc _ _ ?_
  rw [foldl_mem _ _ _ fun s lp => placeLane_mem c s lp, foldl_modLane_mem]
  exact h

theorem plansAt_wf {α : Type} (s : State) (c : Cur) (e : Env) (g : Guard) (place : Cur → Bool)
    (us : List RegUse)
    (plan : State → Nat → (Nat → Word) → Thread → Plan α) (commit : List (Nat × α) → State → State)
    (hc : ∀ xs s, Memory.wf s.mem = true → Memory.wf (commit xs s).mem = true) (h : Memory.wf s.mem = true) :
    Memory.wf (plansAt s c e g place us plan commit).mem = true := by
  unfold plansAt
  split
  · simpa using h
  · simp only
    split
    · exact finishPlans_wf _ _ _ _ _ _ hc (settleStreams_wf _ _ _ _ _ h)
    · simpa using settleStreams_wf _ _ _ _ _ h

/-! ## Control -/

@[simp] theorem doJump_wf (c : Cur) (s : State) (lj : Nat × Jump) (h : Memory.wf s.mem = true) :
    Memory.wf (doJump c s lj).mem = true := by
  unfold doJump
  split <;> simp [h, putBytes_wf]

@[simp] theorem drainCur_wf (s : State) (h : Memory.wf s.mem = true) : Memory.wf (drainCur s).mem = true := by
  simp only [drainCur]
  (repeat' split) <;> simp [h]

@[simp] theorem takeExit_mem (s : State) (e : Env) (l : Nat) : (takeExit s e l).mem = s.mem := by
  simp only [takeExit]
  (repeat' split) <;> simp

@[simp] theorem settleReds_wf (s : State) (e : Env) (ls : List Nat) (h : Memory.wf s.mem = true) :
    Memory.wf (settleReds s e ls).mem = true := by
  simp [settleReds, h]

@[simp] theorem takeExits_wf (s : State) (e : Env) (ls : List Nat) (h : Memory.wf s.mem = true) :
    Memory.wf (takeExits s e ls).mem = true := by
  simp [takeExits, h]

@[simp] theorem askStop_mem (s : State) (gang : Nat) (cause : StopCause) :
    (askStop s gang cause).mem = s.mem := by
  simp [askStop]

@[simp] theorem passHeader_mem (s : State) (e : Env) (l : Nat) : (passHeader s e l).mem = s.mem := by
  simp only [passHeader]
  (repeat' split) <;> simp

@[simp] theorem enterOne_mem (s : State) (e : Env) (l : Nat) : (enterOne s e l).mem = s.mem := by
  simp only [enterOne]
  (repeat' split) <;> simp

@[simp] theorem stopHeld_mem (s : State) (gid : Nat) : (stopHeld s gid).mem = s.mem := rfl

/-! ## CrossLane -/

@[simp] theorem waitCross_mem (s : State) (c : Cur) : (waitCross s c).mem = s.mem := by simp [waitCross]

@[simp] theorem spendMeeting_mem (c : Cur) (s : State) : (spendMeeting c s).mem = s.mem := rfl

@[simp] theorem runCross_wf (s0 : State) (c : Cur) (e : Env) (g : Guard) (us : List RegUse)
    (f : List Member → Member → Eff)
    (grp : List Member → Group → Group) (h : Memory.wf s0.mem = true) :
    Memory.wf (runCross s0 c e g us f grp).mem = true := by
  have hs := settleStreams_wf s0 c e g us h
  unfold runCross
  split
  · simpa using h
  · simp only
    split <;> simpa using hs

@[simp] theorem crossAt_wf (s : State) (c : Cur) (e : Env) (g : Guard) (us : List RegUse)
    (f : List Member → Member → Eff) (grp : List Member → Group → Group) (h : Memory.wf s.mem = true) :
    Memory.wf (crossAt s c e g us f grp).mem = true := by
  unfold crossAt
  split <;> simp [h]

/-! ## Memory -/

@[simp] theorem loadLane_mem (gid pc : Nat) (r : ExecRec) (m : MemOp) (s : State) (l : Nat) (x : Acc) :
    (loadLane gid pc r m s l x).1.mem = s.mem := by
  unfold loadLane
  split <;> simp

@[simp] theorem loadLanes_mem (gid pc : Nat) (r : ExecRec) (m : MemOp) (xs : List (Nat × Acc)) (s : State) :
    (loadLanes gid pc r m xs s).1.mem = s.mem :=
  foldl_fst_mem _ _ _ fun acc x => loadLane_mem _ _ _ _ acc.1 x.1 x.2

@[simp] theorem beforeLoads_wf (s : State) (asid gid : Nat) (m : MemOp) (xs : List (Nat × Acc))
    (h : Memory.wf s.mem = true) : Memory.wf (beforeLoads s asid gid m xs).mem = true := by
  simp [beforeLoads, h]

@[simp] theorem touchAccs_mem (s : State) (die : Nat) (xs : List (Nat × Acc)) :
    (touchAccs s die xs).mem = s.mem := by
  simp [touchAccs]

@[simp] theorem performKind_wf (p : LongOp → Bool) (gid op : Nat) (s : State) (h : Memory.wf s.mem = true) :
    Memory.wf (performKind p gid op s).mem = true := by
  unfold performKind
  split <;> simp [h]

/-! ## Async -/

theorem uniformLead_wf (s : State) (c : Cur) (e : Env) (g : Guard) (us : List RegUse) (lead : Nat)
    (f : (Nat → Word) → State → UStep) (hf : ∀ rd s, Memory.wf s.mem = true → (f rd s).MemHas (Memory.wf · = true))
    (h : Memory.wf s.mem = true) : Memory.wf (uniformLead s c e g us lead f).mem = true := by
  unfold uniformLead
  split
  · exact h
  · split
    · simpa using h
    · simpa using h
    · next ov t' _ =>
      have hu := hf (readOver ov t') s h
      split
      · simpa using h
      · next heq => simpa [heq, UStep.MemHas] using hu
      · next heq =>
        rw [heq] at hu
        exact foldLanes_mem (q := (Memory.wf · = true)) _ _ _ _ _ (fun _ _ h => h) hu

theorem uniformAt_wf (s : State) (c : Cur) (e : Env) (g : Guard) (place : Cur → Bool) (us : List RegUse)
    (f : List Nat → (Nat → Word) → State → UStep)
    (hf : ∀ act rd s, Memory.wf s.mem = true → (f act rd s).MemHas (Memory.wf · = true))
    (h : Memory.wf s.mem = true) :
    Memory.wf (uniformAt s c e g place us f).mem = true := by
  have hs := settleStreams_wf s c e g us h
  unfold uniformAt
  split
  · simpa using h
  · simp only
    split
    · exact foldLanes_mem (q := (Memory.wf · = true)) _ _ _ _ _ (fun _ _ h => h) hs
    · split
      · simpa using hs
      · split
        · simpa using hs
        · exact uniformLead_wf _ _ _ _ _ _ _ (hf _) hs

@[simp] theorem settleScr_wf (s : State) (asid gid : Nat) (h : Memory.wf s.mem = true) :
    Memory.wf (settleScr s asid gid).mem = true := by
  unfold settleScr
  split <;> simp [h]

theorem waitFrom_mem {q : List Host.Cell → Prop} (gid l : Nat) (old : Thread) (x : LaneStep) (h : x.MemHas q) :
    (waitFrom gid l old x).MemHas q := by
  cases x <;> exact h

theorem barAt_wf (s : State) (c : Cur) (e : Env) (g : Guard) (place : Cur → Bool) (us : List RegUse) (a : Reg)
    (test : Bool)
    (f : Nat → (Nat → Word) → Nat → Barrier → State → LaneStep)
    (hf : ∀ l rd key b s, Memory.wf s.mem = true → (f l rd key b s).MemHas (Memory.wf · = true))
    (h : Memory.wf s.mem = true) :
    Memory.wf (barAt s c e g place us a test f).mem = true := by
  have hs := settleStreams_wf _ c e g us (settleScr_wf s e.ctx.asid c.gid h)
  unfold barAt
  split
  · simpa using h
  · simp only
    rw [ite_mem, foldl_mem _ _ _ fun s key => noteTest_mem s key, ite_self]
    refine foldLanes_mem (q := (Memory.wf · = true)) _ _ _ _ _ (fun l s h => ?_) hs
    refine withOperands_mem _ _ _ _ _ _ _ (fun rd t => ?_) h
    split
    · exact h
    · split
      · trivial
      · exact waitFrom_mem _ _ _ _ (hf _ _ _ _ _ h)

@[simp] theorem clearLines_mem (s : State) (ls : List Nat) : (clearLines s ls).mem = s.mem := rfl

@[simp] theorem issueCopies_mem (s : State) (c : Cur) (e : Env) (scr : Bool) (ops : List (Nat × Piece)) :
    (issueCopies s c e scr ops).mem = s.mem := by
  simp [issueCopies]

@[simp] theorem landNow_wf (s : State) (c : Cur) (e : Env) (scr : Bool) (n : Nat) (xs : List CopyAcc)
    (h : Memory.wf s.mem = true) : Memory.wf (landNow s c e scr n xs).mem = true :=
  foldl_wf _ _ _ (fun s x h => foldl_wf _ _ _ (fun s x h => landTransfer_wf s x h) (by simpa using h)) h

@[simp] theorem modQueue_mem (s : State) (tid q : Nat) (f : NQueue → NQueue) :
    (modQueue s tid q f).mem = s.mem :=
  rfl

@[simp] theorem allForm_wf (s : State) (c : Cur) (e : Env) (g : Guard) (us : List RegUse) (q : Nat)
    (push k : Bool)
    (can : NQueue → Nat → Bool) (f : List Member → NQueue → NQueue) (eff : NQueue → Nat → Eff)
    (h : Memory.wf s.mem = true) :
    Memory.wf (allForm s c e g us q push k can f eff).mem = true := by
  have hs := settleStreams_wf s c e g us h
  unfold allForm
  simp only
  split
  · simpa using hs
  · split
    · exact foldLanes_mem (q := (Memory.wf · = true)) _ _ _ _ _ (fun _ _ _ => trivial) hs
    · split <;> simpa using hs

@[simp] theorem modTile_mem (s : State) (tid n : Nat) (f : TileEnt → TileEnt) :
    (modTile s tid n f).mem = s.mem :=
  rfl

@[simp] theorem advanceDone_wf (s : State) (asid tl : Nat) (h : Memory.wf s.mem = true) :
    Memory.wf (advanceDone s asid tl).mem = true := by
  simp [advanceDone, h, bankWrite_wf]

/-! ## Translation -/

@[simp] theorem meetWalk_mem (s : State) (c : Context) (va : Nat) : (meetWalk s c va).mem = s.mem := by
  simp [meetWalk]

theorem backFrameAt_mem (s : State) (r : BackReq) (place : VFunc → Option (List Chunk)) (t : State)
    (h : backFrameAt s r place = some t) : t.mem = s.mem := by
  simp only [backFrameAt, Option.bind_eq_some_iff] at h
  obtain ⟨c, -, f, -, h⟩ := h
  split at h
  · simp_all
  · obtain ⟨p, -, rfl⟩ := Option.map_eq_some_iff.1 h
    simp

theorem backFrame_mem (s : State) (r : BackReq) (t : State) (h : backFrame s r = some t) : t.mem = s.mem :=
  backFrameAt_mem _ _ _ _ h

@[simp] theorem dropBacking_mem (s : State) (asid lfn : Nat) : (dropBacking s asid lfn).mem = s.mem := rfl

@[simp] theorem noFrame_mem (s : State) (r : BackReq) : (noFrame s r).mem = s.mem := by
  unfold noFrame
  simp only
  split
  · simp
  · split <;> simp

@[simp] theorem answerBacking_mem (s : State) (r : BackReq) : (answerBacking s r).mem = s.mem := by
  unfold answerBacking
  split
  · next h => simp [backFrame_mem _ _ _ h]
  · simp

@[simp] theorem takeBacking_mem (s : State) (r : BackReq) : (takeBacking s r).mem = s.mem := by
  unfold takeBacking
  split <;> simp

theorem seatBack_snd_mem (s : State) (r : BackReq) : (seatBack s r).2.mem = s.mem := by
  unfold seatBack
  simp only
  split
  · rfl
  · split <;> simp

theorem seatBack_fst_mem (s : State) (r : BackReq) (t : State) (h : (seatBack s r).1 = some t) :
    t.mem = s.mem := by
  unfold seatBack at h
  simp only at h
  split at h
  · cases h
  · split at h
    · next hb =>
      cases h
      simpa using backFrame_mem _ _ _ hb
    · cases h

/-- A seat's attempt to back a frame, successful or not, keeps memory. -/
@[simp] theorem seatBack_getD_mem (s : State) (r : BackReq) :
    ((seatBack s r).1.getD (seatBack s r).2).mem = s.mem := by
  cases h : (seatBack s r).1 with
  | none => exact seatBack_snd_mem s r
  | some t => exact seatBack_fst_mem s r t h

@[simp] theorem endWalk_mem (s : State) (die asid vpn : Nat) (r : WalkRes) :
    (endWalk s die asid vpn r).mem = s.mem := by
  simp only [endWalk]
  split <;> simp

@[simp] theorem agentXlat_mem (s : State) (c : Context) (die : Nat) (hst : Option Bool) (k : AccKind)
    (va n : Nat) :
    (agentXlat s c die hst k va n).1.mem = s.mem := by
  grind [agentXlat, meetWalk_mem, meetUpsets_mem, seatBack_fst_mem, seatBack_snd_mem, seatBack_getD_mem]

@[simp] theorem seatXlat_mem (s : State) (c : Context) (hst : Bool) (k : AccKind) (va n : Nat) :
    (seatXlat s c hst k va n).1.mem = s.mem := by
  simp [seatXlat]

@[simp] theorem seatQuads_mem (c : Context) (hst : Bool) (va n : Nat) (s : State) :
    (seatQuads c hst va n s).1.mem = s.mem := by
  induction n generalizing va s with
  | zero => rfl
  | succ n ih => grind [seatQuads, seatXlat_mem]

@[simp] theorem seatRead_mem (s : State) (c : Context) (hst : Bool) (va n : Nat) :
    (seatRead s c hst va n).1.mem = s.mem := by
  simp [seatRead]

@[simp] theorem seatWrite_wf (c : Context) (hst : Bool) (va : Nat) (xs : List Nat) (s : State)
    (h : Memory.wf s.mem = true) :
    Memory.wf (seatWrite c hst va xs s).mem = true := by
  induction xs generalizing va s with
  | nil => exact h
  | cons x xs ih => grind [seatWrite, seatXlat_mem, bankWrite_wf, dropTlb_mem]

/-! ## Registers -/

@[simp] theorem modCmdQueue_mem (s : State) (vf q : Nat) (g : CQueue → CQueue) :
    (modCmdQueue s vf q g).mem = s.mem :=
  rfl

@[simp] theorem setQstat_mem (s : State) (vf q code tag : Nat) : (setQstat s vf q code tag).mem = s.mem := rfl

@[simp] theorem countUpdates_mem (s : State) (home : Nat) : (countUpdates s home).mem = s.mem := by
  simp [countUpdates]

@[simp] theorem applyReplica_mem (s : State) (vf : Nat) (x : Replica) : (applyReplica s vf x).mem = s.mem := by
  unfold applyReplica
  split <;> simp

@[simp] theorem postUpdate_mem (s : State) (vf : Nat) (x : Replica) : (postUpdate s vf x).mem = s.mem := by
  simp [postUpdate]

@[simp] theorem postMask_mem (s : State) (vf : Nat) (m : Byte) : (postMask s vf m).mem = s.mem := by
  simp [postMask]

@[simp] theorem timelineOk_mem (s : State) (c : Context) (qtl : DWord) :
    (timelineOk s c qtl).1.mem = s.mem := by
  simp only [timelineOk]
  split <;> simp

@[simp] theorem enableQueue_mem (s : State) (vf q asid log2 : Nat) :
    (enableQueue s vf q asid log2).mem = s.mem := by
  grind [enableQueue, timelineOk_mem, setQstat_mem, seatXlat_mem, modCmdQueue_mem, postUpdate_mem]

@[simp] theorem writeQctl_mem (s : State) (vf q : Nat) (a : Actor) (v : DWord) :
    (writeQctl s vf q a v).mem = s.mem := by
  simp only [writeQctl]
  (repeat' split) <;> simp

@[simp] theorem writeQtail_mem (s : State) (vf q : Nat) (v : Word) : (writeQtail s vf q v).mem = s.mem := by
  unfold writeQtail
  split <;> simp

@[simp] theorem wregWrite_mem (s : State) (vf : Nat) (a : Actor) (r : WReg) (v : DWord) :
    (wregWrite s vf a r v).mem = s.mem := by
  simp only [wregWrite]
  (repeat' split) <;> simp

@[simp] theorem wregStore_mem (s : State) (vf : Nat) (a : Actor) (r : WReg) (v : DWord) :
    (wregStore s vf a r v).mem = s.mem := by
  simp [wregStore]

@[simp] theorem denyBar0_mem (s : State) (vf off : Nat) (write : Bool) :
    (denyBar0 s vf off write).mem = s.mem :=
  rfl

@[simp] theorem denyBar2_mem (s : State) (off : Nat) (write : Bool) : (denyBar2 s off write).mem = s.mem := rfl

@[simp] theorem denyPath_mem (s : State) (path : Path) (vf off : Nat) (write : Bool) :
    (denyPath s path vf off write).mem = s.mem := by
  unfold denyPath
  split <;> simp

@[simp] theorem bar0Write_mem (s : State) (path : Path) (vf off : Nat) (v : DWord) :
    (bar0Write s path vf off v).mem = s.mem := by
  simp only [bar0Write]
  (repeat' split) <;> simp

@[simp] theorem bar0Read_mem (s : State) (path : Path) (vf off : Nat) :
    (bar0Read s path vf off).1.mem = s.mem := by
  simp only [bar0Read]
  (repeat' split) <;> simp

@[simp] theorem clearDenials_mem (s : State) (x : Option Nat) : (clearDenials s x).mem = s.mem := by
  unfold clearDenials
  split <;> simp

@[simp] theorem capWrite_mem (s : State) (fn : Option Nat) (off : Nat) : (capWrite s fn off).mem = s.mem := by
  simp [capWrite]

@[simp] theorem iosStore_mem (s : State) (e : Env) (n : Nat) (x : Acc) : (iosStore s e n x).mem = s.mem := by
  unfold iosStore
  split <;> simp

/-! ## Launch -/

@[simp] theorem takeFree_mem (s : State) : (takeFree s).1.mem = s.mem := rfl

theorem glbHeap_wf (s : State) (f : VFunc) (asid size : Nat) (r : State × Nat × List Chunk)
    (hr : glbHeap s f asid size = some r)
    (h : Memory.wf s.mem = true) : Memory.wf r.1.mem = true := by
  unfold glbHeap at hr
  split at hr
  · cases hr; exact h
  · simp only at hr
    split at hr
    · cases hr; exact zeroRange_wf _ _ _ (by simpa using h)
    · cases hr

@[simp] theorem zeroCmn_wf (s : State) (vf : Nat) (bs : List (Nat × Nat × Nat)) (h : Memory.wf s.mem = true) :
    Memory.wf (zeroCmn s vf bs).mem = true := by
  simp +contextual [zeroCmn, h, zeroRange_wf]

@[simp] theorem ensureCmn_wf (s : State) (grid die : Nat) (h : Memory.wf s.mem = true) :
    Memory.wf (ensureCmn s grid die).mem = true := by
  simp only [ensureCmn]
  (repeat' split) <;> simp [h]

@[simp] theorem addTeam_mem (s : State) (g : Grid) (gang entry index : Nat) (args : List Word) :
    (addTeam s g gang entry index args).mem = s.mem := (rfl)

@[simp] theorem addGang_mem (s : State) (g : Grid) (index : Nat) (queue : Bool) :
    (addGang s g index queue).1.mem = s.mem := by
  simp [addGang]

@[simp] theorem addGangTeams_mem (s : State) (g : Grid) (entry first done n gangIx : Nat)
    (argsOf : Nat → List Word) (queue : Bool) :
    (addGangTeams s g entry first done n gangIx argsOf queue).mem = s.mem := by
  simp [addGangTeams]

@[simp] theorem addTeams_mem (s : State) (grid entry n size : Nat) (argsOf : Nat → List Word) (queue : Bool) :
    (addTeams s grid entry n size argsOf queue).mem = s.mem := by
  unfold addTeams
  split <;> simp

theorem newGrid_wf (s : State) (vf asid : Nat) (d : KDesc) (owner : GridOwner)
    (band priv gheap cheap spawn : Nat) (r : State × Nat)
    (hr : newGrid s vf asid d owner band priv gheap cheap spawn = some r) (h : Memory.wf s.mem = true) :
    Memory.wf r.1.mem = true := by
  simp only [newGrid, Option.bind_eq_some_iff, Option.map_eq_some_iff] at hr
  obtain ⟨f, -, x, hx, cs, -, rfl⟩ := hr
  exact zeroCmn_wf _ _ _ (glbHeap_wf _ _ _ _ _ hx h)

@[simp] theorem fetchDesc_mem (s : State) (c : Context) (kdesc : Nat) :
    (fetchDesc s c kdesc).1.mem = s.mem := by
  grind [fetchDesc, seatRead_mem, seatQuads_mem, seatXlat_mem]

/-! ## System -/

@[simp] theorem forgetWalks_mem (s : State) (e : Env) (a n : Nat) : (forgetWalks s e a n).mem = s.mem := rfl

@[simp] theorem enqTeams_mem (s : State) (e : Env) (x n : Nat) : (enqTeams s e x n).mem = s.mem := by
  simp [enqTeams]

@[simp] theorem allocBlock_mem (s : State) (grid kind n : Nat) : (allocBlock s grid kind n).1.mem = s.mem := by
  simp only [allocBlock]
  (repeat' split) <;> simp

@[simp] theorem setAll_mem (s : State) (c : Cur) (e : Env) (g : Guard) (p : PredIx) (v : Bool) :
    (setAll s c e g p v).mem = s.mem :=
  foldLanes_mem (q := (· = s.mem)) s c e g _ (fun _ _ h => h) rfl

@[simp] theorem beginShip_wf (s : State) (c : Cur) (e : Env) (g : Guard) (p : PredIx) (die core slot : Nat)
    (h : Memory.wf s.mem = true) : Memory.wf (beginShip s c e g p die core slot).mem = true :=
  foldLanes_mem (q := (Memory.wf · = true)) _ c e g _ (fun _ _ h => h) (releaseGroup_wf _ _ _ h)

@[simp] theorem migrGo_wf (s : State) (took : State → State) (c : Cur) (e : Env) (g : Guard) (try_ : Bool)
    (p : PredIx) (f : VFunc)
    (home : Nat) (ht : Memory.wf (took s).mem = true) (h : Memory.wf s.mem = true) :
    Memory.wf (migrGo s took c e g try_ p f home).mem = true := by
  unfold migrGo
  (repeat' split) <;> simp [h, ht]

@[simp] theorem migrFault_mem (s : State) (c : Cur) (e : Env) (g : Guard) (lead : Nat) (f : LaneFault) :
    (migrFault s c e g lead f).mem = s.mem := by
  refine foldLanes_mem (q := (· = s.mem)) s c e g _ (fun l s h => ?_) rfl
  split
  · trivial
  · exact h

theorem migrAt_wf (s : State) (took : State → State) (c : Cur) (e : Env) (g : Guard) (try_ : Bool)
    (p : PredIx) (f : VFunc)
    (lead va : Nat) (ht : Memory.wf (took s).mem = true) (h : Memory.wf s.mem = true) :
    Memory.wf (migrAt s took c e g try_ p f lead va).mem = true := by
  unfold migrAt
  split
  · simpa using h
  · split
    · simpa using h
    · simpa using h
    · split
      · simpa using h
      · exact migrGo_wf _ _ _ _ _ _ _ _ _ ht h
    · exact migrGo_wf _ _ _ _ _ _ _ _ _ ht h

@[simp] theorem register_mem (s : State) (lane : Nat) (x : Entry) : (register s lane x).mem = s.mem := (rfl)

@[simp] theorem sysStore_mem (s : State) (e : Env) (gid l n v : Nat) :
    (sysStore s e gid l n v).mem = s.mem := by
  unfold sysStore
  split <;> simp

/-! ## Xvexrus -/

@[simp] theorem rvEnd_mem (s : State) (c : Nat) (rd : BitVec 5) (status : Nat) :
    (rvEnd s c rd status).mem = s.mem :=
  rfl

@[simp] theorem rvIllegal_mem (s : State) (c : Nat) (w : DWord) : (rvIllegal s c w).mem = s.mem := rfl

@[simp] theorem rvTouch_mem (s : State) (c key : Nat) : (rvTouch s c key).mem = s.mem := by
  simp [rvTouch]

@[simp] theorem rvParcel_mem (s : State) (c asid va : Nat) : (rvParcel s c asid va).1.mem = s.mem := by
  grind [rvParcel, agentXlat_mem, rvTouch_mem]

@[simp] theorem rvFetch_mem (s : State) (c : Nat) : (rvFetch s c).1.mem = s.mem := by
  grind [rvFetch, rvParcel_mem]

@[simp] theorem counterKey_mem (s : State) (c : Context) (k : AccKind) (va : Nat) :
    (counterKey s c k va).1.mem = s.mem := by
  grind [counterKey, seatXlat_mem]

@[simp] theorem spawnGrid_wf (s : State) (c : Context) (r : RvCore) (n x : Nat) (d : KDesc) (key : Nat)
    (h : Memory.wf s.mem = true) :
    Memory.wf (spawnGrid s c r n x d key).1.mem = true := by
  unfold spawnGrid
  simp only
  split
  · exact h
  · split
    · exact h
    · next hg => exact bankWrite_wf _ _ _ _ _ (by simpa using newGrid_wf _ _ _ _ _ _ _ _ _ _ _ hg h)

@[simp] theorem spawnCall_wf (s : State) (c : Context) (r : RvCore) (n rs1 rs2 : Nat)
    (h : Memory.wf s.mem = true) : Memory.wf (spawnCall s c r n rs1 rs2).1.mem = true := by
  grind [spawnCall, seatRead_mem, fetchDesc_mem, counterKey_mem, spawnGrid_wf]

@[simp] theorem dispatchCall_wf (s : State) (c : Context) (r : RvCore) (caller n rs1 rs2 : Nat)
    (h : Memory.wf s.mem = true) : Memory.wf (dispatchCall s c r caller n rs1 rs2).1.mem = true := by
  grind [dispatchCall, seatXlat_mem, counterKey_mem, putRv_mem, bankWrite_wf]

/-! ## Mail -/

@[simp] theorem popMail_mem (s : State) (b : Nat) : (popMail s b).mem = s.mem := rfl

@[simp] theorem takeMail_mem (s : State) (b type : Nat) : (takeMail s b type).mem = s.mem := by
  simp [takeMail]

@[simp] theorem commitUpdates_mem (us : List Update) (s : State) : (commitUpdates us s).mem = s.mem := by
  simp [commitUpdates]

@[simp] theorem settleUpdates_mem (s : State) : (settleUpdates s).mem = s.mem := by
  simp [settleUpdates]

@[simp] theorem dropInstance_mem (s : State) (inst : Nat) : (dropInstance s inst).mem = s.mem := by
  simp [dropInstance]

@[simp] theorem joinInstance_mem (s : State) (inst : Nat) : (joinInstance s inst).mem = s.mem := by
  simp [joinInstance]

/-! ## Placement -/

theorem takeSeats_mem (w n m : Nat) (s : State) (us : List Seat) (r : State × List Seat)
    (h : takeSeats w n m s us = some r) :
    r.1.mem = s.mem := by
  induction m generalizing s us r with
  | zero => cases h; rfl
  | succ m ih =>
    unfold takeSeats at h
    split at h
    · cases h
    · obtain ⟨y, hy, rfl⟩ := Option.map_eq_some_iff.1 h
      simpa using ih _ _ _ hy

@[simp] theorem addGroups_mem (t : Team) (d : KDesc) (die core : Nat) (xs : List (Nat × Seat)) (s : State) :
    (addGroups t d die core xs s).mem = s.mem := by
  induction xs generalizing s with
  | nil => rfl
  | cons x xs ih => exact ih _

@[simp] theorem placeShare_mem (s : State) (t : Team) (d : KDesc) (die core : Nat) (saved : List Group) :
    (placeShare s t d die core saved).mem = s.mem := by
  unfold placeShare
  split
  · rfl
  · next hs =>
    have hm := takeSeats_mem _ _ _ _ _ _ hs
    simp only
    split
    · simpa using hm
    · exact hm

@[simp] theorem placeTeam_mem (s : State) (t : Team) (d : KDesc) (die core : Nat) (saved : List Group) :
    (placeTeam s t d die core saved).mem = s.mem := by
  simp [placeTeam]

@[simp] theorem grantGang_wf (s : State) (gang die : Nat) (h : Memory.wf s.mem = true) :
    Memory.wf (grantGang s gang die).mem = true := by
  simp only [grantGang]
  (repeat' split) <;> simp [h]

@[simp] theorem giveResult_mem (s : State) (w : Entry) (gid lane : Nat) (d : Reg) (p : PredIx) (won : Bool) :
    (giveResult s w gid lane d p won).mem = s.mem := by
  unfold giveResult
  split <;> simp

@[simp] theorem deliver_wf (s : State) (lane : Nat) (w x : Entry) (h : Memory.wf s.mem = true) :
    Memory.wf (deliver s lane w x).mem = true := by
  unfold deliver
  split <;> simp [h]

/-! ## Retire -/

@[simp] theorem queueRecord_wf (s : State) (c : Context) (r : FaultRec) (h : Memory.wf s.mem = true) :
    Memory.wf (queueRecord s c r).1.mem = true := by
  have hr : Memory.wf (seatRead s c false c.fqAddr 4).1.mem = true := by simpa using h
  unfold queueRecord
  split
  · next heq => simpa [heq] using hr
  · next heq =>
    rw [heq] at hr
    simp only
    split <;> simp [hr]

@[simp] theorem markWritten_wf (s : State) (r : FaultRec) (h : Memory.wf s.mem = true) :
    Memory.wf (markWritten s r).mem = true := by
  simp only [markWritten]
  (repeat' split) <;> simp [h]

@[simp] theorem gangCode_mem (s : State) (code : Nat) : (gangCode s code).mem = s.mem := rfl

@[simp] theorem dropRequest_mem (s : State) (k : Gang) : (dropRequest s k).mem = s.mem := by
  unfold dropRequest
  split <;> simp

@[simp] theorem retireGang_mem (s : State) (gang : Nat) : (retireGang s gang).mem = s.mem := by
  unfold retireGang
  split <;> simp

@[simp] theorem dropKicks_mem (s : State) (tid : Nat) : (dropKicks s tid).mem = s.mem := (rfl)

@[simp] theorem queueTl_mem (s : State) (asid : Nat) (qtl : DWord) : (queueTl s asid qtl).1.mem = s.mem := by
  unfold queueTl
  split <;> simp

@[simp] theorem failCmd_wf (s : State) (vf q : Nat) (c : Cmd) (code : Nat) (h : Memory.wf s.mem = true) :
    Memory.wf (failCmd s vf q c code).mem = true := by
  simp only [failCmd]
  (repeat' split) <;> simp [h, bankWrite_wf]

@[simp] theorem finishCmd_wf (s : State) (vf q id code : Nat) (h : Memory.wf s.mem = true) :
    Memory.wf (finishCmd s vf q id code).mem = true := by
  unfold finishCmd
  split <;> simp [h]

@[simp] theorem signalEnd_wf (s : State) (g : Grid) (h : Memory.wf s.mem = true) :
    Memory.wf (signalEnd s g).mem = true := by
  unfold signalEnd
  split <;> simp [h]

/-! ## Commands -/

@[simp] theorem passTurn_mem (s : State) (vf q : Nat) : (passTurn s vf q).mem = s.mem := rfl

@[simp] theorem readSlot_mem (s : State) (c : Context) (x : CQueue) : (readSlot s c x).1.mem = s.mem := by
  simp only [readSlot]
  split <;> simp

@[simp] theorem writeIssued_wf (s : State) (x : CQueue) (k : Nat) (h : Memory.wf s.mem = true) :
    Memory.wf (writeIssued s x k).mem = true := by
  grind [writeIssued, queueTl_mem, bankWrite_wf]

@[simp] theorem wtlKey_mem (s : State) (c : Context) (m : Cmd) : (wtlKey s c m).1.mem = s.mem := by
  simp only [wtlKey]
  split <;> simp

@[simp] theorem checkWtl_mem (s : State) (c : Context) (m : Cmd) : (checkWtl s c m).1.mem = s.mem := by
  unfold checkWtl
  split <;> simp

@[simp] theorem checkLaunch_mem (s : State) (c : Context) (m : Cmd) : (checkLaunch s c m).1.mem = s.mem := by
  grind [checkLaunch, fetchDesc_mem, checkWtl_mem]

@[simp] theorem checkCmd_mem (s : State) (c : Context) (q : Nat) (m : Cmd) :
    (checkCmd s c q m).1.mem = s.mem := by
  simp only [checkCmd]
  (repeat' split) <;> simp

@[simp] theorem setCmd_mem (s : State) (vf q id : Nat) (st : CmdStatus) : (setCmd s vf q id st).mem = s.mem :=
  rfl

@[simp] theorem wtlState_mem (s : State) (c : Context) (m : Cmd) (err0 : Bool) :
    (wtlState s c m err0).1.mem = s.mem := by
  grind [wtlState, wtlKey_mem]

@[simp] theorem wtlErr0_mem (s : State) (c : Context) (m : Cmd) : (wtlErr0 s c m).1.mem = s.mem := by
  grind [wtlErr0, wtlKey_mem]

@[simp] theorem createGrid_wf (s : State) (c : Context) (vf q : Nat) (m : Cmd) (h : Memory.wf s.mem = true) :
    Memory.wf (createGrid s c vf q m).mem = true := by
  have hd : Memory.wf (fetchDesc s c (bitsN m.record 111 64)).1.mem = true := by simpa using h
  unfold createGrid
  split
  · next heq => simpa [heq] using finishCmd_wf _ vf q m.id _ hd
  · next heq =>
    rw [heq] at hd
    simp only
    split
    · simp [hd]
    · next hg => simpa using newGrid_wf _ _ _ _ _ _ _ _ _ _ _ hg hd

theorem stepCmd_wf (s : State) (c : Context) (vf q : Nat) (x : CQueue) (m : Cmd) (done : State → State)
    (hd : ∀ s, Memory.wf s.mem = true → Memory.wf (done s).mem = true) (h : Memory.wf s.mem = true) :
    Memory.wf (stepCmd s c vf q x m done).mem = true := by
  grind [stepCmd, postDuty_mem, checkCmd_mem, setCmd_mem, finishCmd_wf, wtlErr0_mem, wtlState_mem]

@[simp] theorem signalCore_mem (s : State) (c vec key : Nat) : (signalCore s c vec key).mem = s.mem := by
  simp [signalCore]

@[simp] theorem signalQueue_mem (s : State) (vf : Nat) (sig : DWord) (key : Nat) :
    (signalQueue s vf sig key).mem = s.mem := by
  simp [signalQueue]

@[simp] theorem execCommandFinish_wf (vf q : Nat) (s : State) (h : Memory.wf s.mem = true) :
    NextWf (execCommandFinish vf q s) := by
  unfold execCommandFinish
  split
  · simpa using h
  · next f _ =>
    simp only
    split
    · simpa using h
    · next m rest _ =>
      split
      · have hq := queueTl_mem (modCmdQueue s vf q fun x => { x with cmds := rest }) m.asid m.qtl
        split
        · next heq => simp_all
        · next heq => simp_all [bankWrite_wf]
      · simpa using h

/-! ## Gangs -/

@[simp] theorem leaveWaits_wf (s : State) (g : Group) (t : Thread) (h : Memory.wf s.mem = true) :
    Memory.wf (leaveWaits s g t).mem = true := by
  unfold leaveWaits
  split <;> simp [h, barWrite_wf]

@[simp] theorem takeGroup_wf (s : State) (gid : Nat) (h : Memory.wf s.mem = true) :
    Memory.wf (takeGroup s gid).mem = true := by
  unfold takeGroup
  split
  · exact h
  · split
    · exact h
    · refine settleGroup_wf _ _ (foldl_wf _ _ _ (fun s t h => ?_) h)
      split <;> simp [h]

@[simp] theorem takeStopping_wf (s : State) (h : Memory.wf s.mem = true) :
    Memory.wf (takeStopping s).mem = true := by
  unfold takeStopping
  split <;> simp +contextual [h]

@[simp] theorem pagesWritable_mem (s : State) (c : Context) (hst : Bool) (a n : Nat) :
    (pagesWritable s c hst a n).1.mem = s.mem :=
  foldl_fst_mem _ _ _ fun acc i => seatXlat_mem acc.1 c hst .write (a + 4096 * i) 8

@[simp] theorem unloadGang_mem (s : State) (k : Gang) : (unloadGang s k).mem = s.mem := by
  simp [unloadGang]

@[simp] theorem restoreGang_mem (s : State) (k : Gang) (g : Grid) (mask gimg : Nat) (c : Context) :
    (restoreGang s k g mask gimg c).mem = s.mem := by
  simp only [restoreGang]
  split <;> simp

@[simp] theorem goOnGang_mem (s : State) (k : Gang) : (goOnGang s k).mem = s.mem := rfl

@[simp] theorem discardGang_mem (s : State) (gang : Nat) : (discardGang s gang).mem = s.mem := by
  unfold discardGang
  split <;> simp

@[simp] theorem endGang_mem (s : State) (k : Gang) : (endGang s k).mem = s.mem := by
  unfold endGang
  split <;> simp

@[simp] theorem endGrid_wf (s : State) (grid code : Nat) (h : Memory.wf s.mem = true) :
    Memory.wf (endGrid s grid code).mem = true := by
  simp [endGrid, h]

@[simp] theorem sealGang_wf (s : State) (k : Gang) (g : Grid) (gimg : Nat) (c : Context)
    (h : Memory.wf s.mem = true) : Memory.wf (sealGang s k g gimg c).mem = true := by
  simp [sealGang, h]

@[simp] theorem gangAction_wf (s : State) (op mask : Nat) (k : Gang) (g : Grid) (c : Context)
    (h : Memory.wf s.mem = true) : Memory.wf (gangAction s op mask k g c).mem = true := by
  simp only [gangAction]
  (repeat' split) <;> simp [h]

@[simp] theorem gcmdWrite_wf (s : State) (v : Word) (h : Memory.wf s.mem = true) :
    Memory.wf (gcmdWrite s v).mem = true := by
  simp only [gcmdWrite]
  (repeat' split) <;> simp [h]

/-! ## Dies -/

@[simp] theorem tickState_mem (s : State) : (tickState s).mem = s.mem := rfl

@[simp] theorem rehomePage_mem (window : Nat) (f : VFunc) (c : Context) (s : State) (x : FrameRec) :
    (rehomePage window f c s x).mem = s.mem := by
  simp only [rehomePage]
  (repeat' split) <;> simp

@[simp] theorem rehomeContext_mem (window : Nat) (s : State) (c : Context) :
    (rehomeContext window s c).mem = s.mem := by
  unfold rehomeContext
  split <;> simp

@[simp] theorem dropPageTlb_mem (s : State) (r : Rehome) : (dropPageTlb s r).mem = s.mem := rfl

@[simp] theorem modFrame_mem (s : State) (asid lfn : Nat) (f : FrameRec → FrameRec) :
    (modFrame s asid lfn f).mem = s.mem := rfl

@[simp] theorem planeFault_mem (die : Nat) (s : State) (h : HeatRun) : (planeFault die s h).mem = s.mem := by
  simp [planeFault]

@[simp] theorem planeFaults_mem (s : State) (die : Nat) : (planeFaults s die).mem = s.mem := by
  simp [planeFaults]

@[simp] theorem wakeTimeline_mem (s : State) (key : Nat) : (wakeTimeline s key).mem = s.mem :=
  foldl_mem _ _ _ fun _ _ => foldl_mem _ _ _ fun _ _ => rfl

@[simp] theorem poisonTimeline_wf (s : State) (key : Nat) (h : Memory.wf s.mem = true) :
    Memory.wf (poisonTimeline s key).mem = true := by
  simp [poisonTimeline, h, bankWrite_wf]

@[simp] theorem loseGrid_wf (die code : Nat) (s : State) (grid : Nat) (h : Memory.wf s.mem = true) :
    Memory.wf (loseGrid die code s grid).mem = true := by
  refine endGrid_wf _ _ _ ?_
  rw [foldl_mem _ _ _ fun s k => by simp]
  exact foldl_wf _ _ _ (fun s k h => poisonTimeline_wf s k h) h

@[simp] theorem dropShips_mem (s : State) (die : Nat) : (dropShips s die).mem = s.mem := rfl

@[simp] theorem clearDie_mem (s : State) (die : Nat) : (clearDie s die).mem = s.mem := rfl

@[simp] theorem dieFails_wf (s : State) (die : Nat) (h : Memory.wf s.mem = true) :
    Memory.wf (dieFails s die).mem = true := by
  unfold dieFails
  split <;> simp +contextual [h]

@[simp] theorem loseLine_wf (s : State) (key : Nat) (h : Memory.wf s.mem = true) :
    Memory.wf (loseLine s key).mem = true := by
  simp [loseLine, h, zeroRange_wf]

@[simp] theorem loseContext_wf (die : Nat) (s : State) (c : Context) (h : Memory.wf s.mem = true) :
    Memory.wf (loseContext die s c).mem = true := by
  unfold loseContext
  split
  · exact h
  · have hl := fun (s : State) (k : Nat) (h : Memory.wf s.mem = true) => loseLine_wf s k h
    simp only
    split
    · exact foldl_wf _ _ _ (fun s a h => hl _ _ h) (foldl_wf _ _ _ hl h)
    · exact foldl_wf _ _ _ (fun s a h => hl _ _ h) (foldl_wf _ _ _ hl h)

@[simp] theorem dropRehomes_mem (s : State) (die : Nat) : (dropRehomes s die).mem = s.mem := rfl

@[simp] theorem zeroCommons_wf (s : State) (die : Nat) (h : Memory.wf s.mem = true) :
    Memory.wf (zeroCommons s die).mem = true := by
  simp [zeroCommons, h, zeroRange_wf]

@[simp] theorem resetDieNow_wf (s : State) (die : Nat) (h : Memory.wf s.mem = true) :
    Memory.wf (resetDieNow s die).mem = true := by
  refine zeroCommons_wf _ _ ?_
  simp only [clearDie_mem, dropInstance_mem]
  refine foldl_wf _ _ _ (fun s c h => loseContext_wf die s c h) ?_
  simpa using foldl_wf _ _ _ (fun s g h => loseGrid_wf die 8 s g h) h

@[simp] theorem resetDieBegin_wf (s : State) (die : Nat) (h : Memory.wf s.mem = true) :
    Memory.wf (resetDieBegin s die).mem = true := by
  simp [resetDieBegin, h]

/-! ## Contexts -/

@[simp] theorem ctxCode_mem (s : State) (code : Nat) : (ctxCode s code).mem = s.mem := rfl

@[simp] theorem fixQueue_wf (s : State) (c : Context) (h : Memory.wf s.mem = true) :
    Memory.wf (fixQueue s c).mem = true := by
  simp [fixQueue, h]

@[simp] theorem createContext_wf (s : State) (vf tag : Nat) (h : Memory.wf s.mem = true) :
    Memory.wf (createContext s vf tag).mem = true := by
  simp only [createContext]
  (repeat' split) <;> simp [h]

@[simp] theorem quarantine_mem (s : State) (die vf keyid : Nat) (cs : List Chunk) :
    (quarantine s die vf keyid cs).mem = s.mem := rfl

@[simp] theorem freeKeys_mem (s : State) : (freeKeys s).mem = s.mem := rfl

@[simp] theorem killGrid_wf (code : Nat) (s : State) (grid : Nat) (h : Memory.wf s.mem = true) :
    Memory.wf (killGrid code s grid).mem = true := by
  have hks (t : State) (ks : List Gang) (ht : Memory.wf t.mem = true) :
      Memory.wf (ks.foldl (fun s k => discardGang (dropRequest s k) k.key) (ks.foldl (fun s k =>
        (gangGroups s k).foldl (fun s g =>
          match env s g.gid with
          | some e => drainGroup s e.ctx.asid g.gid
          | none => s) s) t)).mem = true := by
    refine foldl_wf _ _ _ (fun s k h => by simpa using h) ?_
    refine foldl_wf _ _ _ (fun s k h => foldl_wf _ _ _ (fun s g h => ?_) h) ht
    split <;> simp [h]
  unfold killGrid
  simp only
  split
  · exact hks _ _ h
  · split
    · exact hks _ _ h
    · exact signalEnd_wf _ _ (hks _ _ h)

@[simp] theorem finishAll_wf (s : State) (vf q n : Nat) (h : Memory.wf s.mem = true) :
    Memory.wf (finishAll s vf q n).mem = true := by
  induction n generalizing s with
  | zero => exact h
  | succ n ih =>
    unfold finishAll
    split
    · next hs => exact ih _ (execCommandFinish_wf vf q s h _ hs)
    · exact h

@[simp] theorem closeQueue_wf (vf asid : Nat) (s : State) (x : CQueue) (h : Memory.wf s.mem = true) :
    Memory.wf (closeQueue vf asid s x).mem = true := by
  refine finishAll_wf _ _ _ _ (foldl_wf _ _ _ (fun s c h => ?_) (by simpa using h))
  split
  · exact h
  · simp [h]

@[simp] theorem dropCommons_wf (s : State) (asid : Nat) (h : Memory.wf s.mem = true) :
    Memory.wf (dropCommons s asid).mem = true := by
  simp +contextual [dropCommons, h, zeroRange_wf]

@[simp] theorem dropNames_mem (s : State) (asid : Nat) : (dropNames s asid).mem = s.mem := rfl

@[simp] theorem retireKey_mem (s : State) (c : Context) : (retireKey s c).mem = s.mem := rfl

@[simp] theorem departContext_wf (s : State) (asid : Nat) (h : Memory.wf s.mem = true) :
    Memory.wf (departContext s asid).mem = true := by
  unfold departContext
  split
  · exact h
  · next c _ =>
    have hq (gs : List Nat) (qs : List CQueue) :
        Memory.wf (retireKey (qs.foldl (closeQueue c.vf asid) (gs.foldl (killGrid 0x08) s)) c).mem = true := by
      rw [retireKey_mem]
      exact foldl_wf _ _ _ (fun s x h => closeQueue_wf _ _ s x h) (foldl_wf _ _ _ (fun s g h => killGrid_wf _ s g h) h)
    simp only [freeKeys_mem, postMail_mem, postUpdate_mem]
    rw [foldl_mem _ _ _ fun s d => quarantine_mem s d _ _ _]
    simp only [dropNames_mem]
    refine dropMemory_wf _ _ ?_
    rw [ite_mem, wf_ite]
    split
    · exact dropCommons_wf _ _ (hq _ _)
    · exact hq _ _

@[simp] theorem ccmdWrite_wf (s : State) (v : Word) (moduleReset : State → State)
    (hr : ∀ s, Memory.wf s.mem = true → Memory.wf (moduleReset s).mem = true) (h : Memory.wf s.mem = true) :
    Memory.wf (ccmdWrite s v moduleReset).mem = true := by
  unfold ccmdWrite
  (repeat' split) <;> simp [h, hr]

@[simp] theorem dbglkWrite_mem (s : State) (v : Word) : (dbglkWrite s v).mem = s.mem := by
  simp [dbglkWrite]

/-! ## Spdm -/

@[simp] theorem reply_mem (s : State) (r : Reply) : (reply s r).mem = s.mem := rfl

@[simp] theorem modSession_mem (s : State) (id : Nat) (f : Session → Session) :
    (modSession s id f).mem = s.mem :=
  rfl

@[simp] theorem putStream_mem (s : State) (id : Nat) (f : LinkStream → LinkStream) :
    (putStream s id f).mem = s.mem := by
  simp [putStream]

@[simp] theorem enterRekey_mem (s : State) (id : Nat) : (enterRekey s id).mem = s.mem := by
  simp [enterRekey]

@[simp] theorem startRekey_mem (s : State) (id : Nat) : (startRekey s id).mem = s.mem := by
  unfold startRekey
  split <;> simp

@[simp] theorem askRekey_mem (s : State) (stream : Nat) : (askRekey s stream).mem = s.mem := by
  unfold askRekey
  split <;> simp

@[simp] theorem agreeKey_mem (s : State) (stream : Nat) : (agreeKey s stream).mem = s.mem := by
  simp [agreeKey]

@[simp] theorem mkaAgreed_mem (s : State) (port : Nat) : (mkaAgreed s port).mem = s.mem := by
  simp [mkaAgreed]

@[simp] theorem swapKey_mem (s : State) (id : Nat) : (swapKey s id).mem = s.mem := by
  simp [swapKey]

@[simp] theorem readPages_mem (c : Context) (as : List Nat) (s : State) : (readPages c as s).1.mem = s.mem := by
  induction as generalizing s with
  | nil => rfl
  | cons a as ih => grind [readPages, seatRead_mem]

@[simp] theorem markPage_mem (c : Context) (s : State) (a : Nat) : (markPage c s a).mem = s.mem := by
  unfold markPage
  split <;> simp

/-! ## Fleet -/

@[simp] theorem partCode_mem (s : State) (code : Nat) : (partCode s code).mem = s.mem := rfl

@[simp] theorem pselWrite_mem (s : State) (v : Word) : (pselWrite s v).mem = s.mem := by
  simp [pselWrite]

@[simp] theorem partApply_mem (s : State) (x : PartOp) : (partApply s x).mem = s.mem := by
  simp [partApply]

@[simp] theorem partRelease_mem (s : State) (x : PartOp) : (partRelease s x).mem = s.mem := by
  simp [partRelease]

@[simp] theorem pcmdWrite_mem (s : State) (v : Word) : (pcmdWrite s v).mem = s.mem := by
  simp [pcmdWrite]

@[simp] theorem partitionStep_mem (s : State) : (partitionStep s).mem = s.mem := by
  unfold partitionStep
  split <;> simp

@[simp] theorem settleScrub_mem (s : State) : (settleScrub s).mem = s.mem := by
  simp [settleScrub]

@[simp] theorem scrubOne_mem (s : State) (die : Nat) (q : QRange) : (scrubOne s die q).mem = s.mem := by
  simp [scrubOne]

@[simp] theorem patrolFind_mem (die asid lfn : Nat) (s : State) (x : PatrolFind) :
    (patrolFind die asid lfn s x).mem = s.mem := by
  unfold patrolFind
  split <;> simp

@[simp] theorem patrolMark_mem (s : State) (die asid lfn : Nat) : (patrolMark s die asid lfn).mem = s.mem := rfl

/-! ## Checkpoint -/

@[simp] theorem readEntries_mem (c : Context) (a n : Nat) (s : State) :
    (readEntries c a n s).1.mem = s.mem := by
  induction n generalizing a s with
  | zero => rfl
  | succ n ih => grind [readEntries, seatRead_mem]

@[simp] theorem readHeader_mem (s : State) (c : Context) : (readHeader s c).1.mem = s.mem := by
  grind [readHeader, seatRead_mem]

@[simp] theorem readTable_mem (s : State) (c : Context) (whole : Bool) :
    (readTable s c whole).1.mem = s.mem := by
  grind [readTable, readHeader_mem, readEntries_mem]

@[simp] theorem ckCode_mem (s : State) (code : Nat) : (ckCode s code).mem = s.mem := rfl

@[simp] theorem ckSet_mem (s : State) (f : CkOp → CkOp) : (ckSet s f).mem = s.mem := rfl

@[simp] theorem ckPhase_mem (s : State) (p : CkPhase) : (ckPhase s p).mem = s.mem := rfl

@[simp] theorem ckMoved_mem (s : State) (n : Nat) : (ckMoved s n).mem = s.mem := rfl

@[simp] theorem ckMore_mem (s : State) (n : Nat) : (ckMore s n).mem = s.mem := rfl

@[simp] theorem ckEnd_mem (s : State) (asid code : Nat) : (ckEnd s asid code).mem = s.mem := rfl

@[simp] theorem driveTurn_wf (s : State) (r : CkRegion) (h : Memory.wf s.mem = true) :
    Memory.wf (driveTurn s r).1.mem = true := by
  simp only [driveTurn]
  split <;> simp [h, writeStream_wf]

@[simp] theorem writeSegment_wf (s : State) (r : CkRegion) (off : Nat) (bs : List Byte)
    (h : Memory.wf s.mem = true) : Memory.wf (writeSegment s r off bs).mem = true := by
  simp [writeSegment, h, writeStream_wf]

@[simp] theorem commitStream_wf (s : State) (x : CkOp) (h : Memory.wf s.mem = true) :
    Memory.wf (commitStream s x).mem = true := by
  simp [commitStream, h, writeStream_wf]

@[simp] theorem ckReads_mem (s : State) (c : Context) (ps : List CkPiece) : (ckReads s c ps).mem = s.mem := by
  simp [ckReads]

@[simp] theorem ckOpen_mem (s : State) (x : CkOp) : (ckOpen s x).mem = s.mem := rfl

@[simp] theorem ckHold_mem (s : State) (x : CkOp) : (ckHold s x).mem = s.mem := rfl

@[simp] theorem startCheckpoint_wf (s : State) (c : Context) (whole : Bool) (h : Memory.wf s.mem = true) :
    Memory.wf (startCheckpoint s c whole).mem = true := by
  have hr : Memory.wf (readTable s c whole).1.mem = true := by simpa using h
  unfold startCheckpoint
  split
  · next heq => simpa [heq] using hr
  · next heq =>
    rw [heq] at hr
    simp only
    split
    · simpa using hr
    · rw [ite_mem, foldl_mem _ _ _ fun s g => postDuty_mem _ _ _ _ _ _, ite_self, postMail_mem]
      exact writeStream_wf _ _ _ _ (by simpa using hr)

@[simp] theorem stepWrite_wf (s : State) (x : CkOp) (i : Nat) (h : Memory.wf s.mem = true) :
    Memory.wf (stepWrite s x i).mem = true := by
  grind [stepWrite, ckPhase_mem, driveTurn_wf, ckEnd_mem, ckMore_mem, writeSegment_wf]

@[simp] theorem stepBack_wf (s : State) (x : CkOp) (i chain : Nat) (ok : Bool) (h : Memory.wf s.mem = true) :
    Memory.wf (stepBack s x i chain ok).mem = true := by
  grind [stepBack, driveTurn_wf, ckEnd_mem, commitStream_wf, ckPhase_mem]

@[simp] theorem startCheck_mem (s : State) (op asid : Nat) (whole : Bool) (seed : Nat) :
    (startCheck s op asid whole seed).mem = s.mem := by
  unfold startCheck
  split <;> simp

@[simp] theorem ckSeed_mem (s : State) : (ckSeed s).1.mem = s.mem := by
  grind [ckSeed, readHeader_mem]

@[simp] theorem startVerify_mem (s : State) (whole : Bool) : (startVerify s whole).mem = s.mem := by
  grind [startVerify, ckSeed_mem, ckMoved_mem, ckCode_mem, startCheck_mem]

@[simp] theorem startRestore_mem (s : State) (c : Context) (whole : Bool) :
    (startRestore s c whole).mem = s.mem := by
  grind [startRestore, ckCode_mem, ckMoved_mem, readHeader_mem, startCheck_mem]

@[simp] theorem backPiece_mem (c : Context) (s : State) (p : CkPiece) : (backPiece c s p).mem = s.mem := by
  refine foldl_mem _ _ _ fun s i => foldl_mem _ _ _ fun s a => ?_
  split <;> simp

@[simp] theorem landWrites_wf (s : State) (asid : Nat) (w : CkWrites) (h : Memory.wf s.mem = true) :
    Memory.wf (landWrites s asid w).mem = true := by
  simp +contextual [landWrites, h, bankWrite_wf, addPoison_mem]

@[simp] theorem endRestore_mem (s : State) (x : CkOp) (code : Nat) : (endRestore s x code).mem = s.mem := rfl

@[simp] theorem endCheck_mem (s : State) (x : CkOp) : (endCheck s x).mem = s.mem := by
  grind [endCheck, ckEnd_mem, readTable_mem, ckSet_mem]

@[simp] theorem stepCheck_wf (s : State) (x : CkOp) (i chain : Nat) (ok : Bool) (h : Memory.wf s.mem = true) :
    Memory.wf (stepCheck s x i chain ok).mem = true := by
  grind [stepCheck, driveTurn_wf, ckEnd_mem, ckMore_mem, ckSet_mem, endCheck_mem, ckPhase_mem]

@[simp] theorem stepCopy_wf (s : State) (x : CkOp) (i j : Nat) (h : Memory.wf s.mem = true) :
    Memory.wf (stepCopy s x i j).mem = true := by
  grind [stepCopy, endRestore_mem, ckPhase_mem, driveTurn_wf, ckEnd_mem, backPiece_mem, ckSet_mem, landWrites_wf]

@[simp] theorem checkpointStep_wf (s : State) (h : Memory.wf s.mem = true) :
    Memory.wf (checkpointStep s).mem = true := by
  simp only [checkpointStep]
  (repeat' split) <;> simp [h]

theorem ckStart_wf (s : State) (f : State → Context → State)
    (hf : ∀ s c, Memory.wf s.mem = true → Memory.wf (f s c).mem = true) (h : Memory.wf s.mem = true) :
    Memory.wf (ckStart s f).mem = true := by
  unfold ckStart
  split
  · simpa using h
  · split
    · exact hf _ _ (by simpa using h)
    · simpa using h

@[simp] theorem ckcmdWrite_wf (s : State) (v : Word) (h : Memory.wf s.mem = true) :
    Memory.wf (ckcmdWrite s v).mem = true := by
  have h1 := ckStart_wf s (fun s c => startCheckpoint s c (v.toNat.testBit 4)) (fun s c h => startCheckpoint_wf s c _ h) h
  have h2 := ckStart_wf s (fun s c => startRestore s c (v.toNat.testBit 4)) (fun s c h => by simpa using h) h
  unfold ckcmdWrite
  (repeat' split) <;> simp [h, h1, h2]

/-! ## Duty -/

@[simp] theorem dropDuty_mem (s : State) (vf ix : Nat) : (dropDuty s vf ix).mem = s.mem := rfl

@[simp] theorem refuseReply_mem (s : State) (vf : Nat) (d : DutyReq) : (refuseReply s vf d).mem = s.mem := rfl

@[simp] theorem placeReply_wf (s : State) (d : DutyReq) (die : Nat) (h : Memory.wf s.mem = true) :
    Memory.wf (placeReply s d die).mem = true := by
  simp only [placeReply]
  (repeat' split) <;> simp [h]

@[simp] theorem backReply_mem (s : State) (d : DutyReq) : (backReply s d).mem = s.mem := by
  unfold backReply
  split <;> simp

@[simp] theorem mapReply_mem (s : State) (vf : Nat) (d : DutyReq) (place : List Chunk) :
    (mapReply s vf d place).mem = s.mem := by
  unfold mapReply
  split
  · next r f _ _ =>
    split
    · simp
    · split
      · cases hb : backFrameAt s r fun _ => some place with
        | none => simp
        | some t => simp [backFrameAt_mem _ _ _ _ hb]
      · simp
  · rfl

@[simp] theorem scrubReply_mem (s : State) (d : DutyReq) : (scrubReply s d).mem = s.mem := rfl

@[simp] theorem stageReply_wf (s : State) (vf : Nat) (d : DutyReq) (back : Option Nat)
    (h : Memory.wf s.mem = true) : Memory.wf (stageReply s vf d back).mem = true := by
  simp only [stageReply]
  (repeat' split) <;> simp [h]

@[simp] theorem applyReply_wf (s : State) (vf : Nat) (d : DutyReq) (h : Memory.wf s.mem = true) :
    Memory.wf (applyReply s vf d).mem = true := by
  unfold applyReply
  split <;> simp [h]

/-! ## Power -/

@[simp] theorem decideClock_mem (s : State) (die f : Nat) : (decideClock s die f).mem = s.mem := rfl

@[simp] theorem clkWrite_mem (s : State) (die : Nat) (v : Word) : (clkWrite s die v).mem = s.mem := by
  simp [clkWrite]

@[simp] theorem setFast_mem (s : State) (on : Bool) : (setFast s on).mem = s.mem := rfl

/-! ## Boot -/

@[simp] theorem darkState_wf (s : State) (h : Memory.wf s.mem = true) : Memory.wf (darkState s).mem = true := by
  simp [darkState, h, coldState_wf]

@[simp] theorem applyRecord_mem (s : State) (r : ConfigRecord) : (applyRecord s r).mem = s.mem := by
  unfold applyRecord
  split <;> simp

@[simp] theorem stageWork_wf (s : State) (recs : List ConfigRecord) (n : Nat) (h : Memory.wf s.mem = true) :
    Memory.wf (stageWork s recs n).mem = true := by
  unfold stageWork
  split
  · exact h
  · simpa using h
  · rw [foldl_modDie_mem]
    exact foldl_wf _ _ _ (fun s d h => zeroCommons_wf s d h) h
  · simpa using h
  · exact h
  · exact h

@[simp] theorem bootProgress_mem (s : State) : (bootProgress s).mem = s.mem := rfl

@[simp] theorem beginLoad_mem (s : State) : (beginLoad s).mem = s.mem := rfl

@[simp] theorem rstatCode_mem (s : State) (code : Nat) : (rstatCode s code).mem = s.mem := rfl

@[simp] theorem rdataWrite_mem (s : State) (v : DWord) : (rdataWrite s v).mem = s.mem := by
  simp [rdataWrite]

@[simp] theorem restartBoot_wf (s : State) (h : Memory.wf s.mem = true) :
    Memory.wf (restartBoot s).mem = true := by
  simp [restartBoot, h, coldState_wf]

@[simp] theorem endLoad_wf (s : State) (ok : Bool) (h : Memory.wf s.mem = true) :
    Memory.wf (endLoad s ok).mem = true := by
  simp only [endLoad]
  (repeat' split) <;> simp [h]

@[simp] theorem rcmdWrite_wf (s : State) (v : Word) (ok : Bool) (h : Memory.wf s.mem = true) :
    Memory.wf (rcmdWrite s v ok).mem = true := by
  unfold rcmdWrite
  split <;> simp [h]

/-! ## Bulk -/

@[simp] theorem nextRecord_mem (s : State) (die core : Nat) : (nextRecord s die core).mem = s.mem := rfl

@[simp] theorem addRows_mem (s : State) (q : Request) (scr : Bool) (rows : List (Nat × List Piece)) :
    (addRows s q scr rows).mem = s.mem := by
  simp [addRows]

@[simp] theorem addRequest_mem (s : State) (q : Request) (scr : Bool) (rows : List (Nat × List Piece)) :
    (addRequest s q scr rows).mem = s.mem := by
  unfold addRequest
  split <;> simp

@[simp] theorem bulkRecord_mem (s : State) (q : Request) : (bulkRecord s q).mem = s.mem := by
  unfold bulkRecord
  split <;> simp

@[simp] theorem acceptRows_mem (s : State) (e : BulkEnv) (die core addr : Nat) (r : BulkRec) (bar : Option Nat)
    (tile : Option (Nat × Bool)) : (acceptRows s e die core addr r bar tile).mem = s.mem := by
  simp only [acceptRows]
  split <;> simp

@[simp] theorem acceptRecord_mem (s : State) (e : BulkEnv) (die core addr : Nat) :
    (acceptRecord s e die core addr).mem = s.mem := by
  simp only [acceptRecord]
  (repeat' split) <;> simp

@[simp] theorem landUnits_wf (s0 s : State) (asid : Nat) (q : Request) (p : Piece) (m : Nat)
    (h : Memory.wf s.mem = true) :
    Memory.wf (landUnits s0 s asid q p m).1.mem = true := by
  unfold landUnits
  (repeat' split) <;> simp [h]

@[simp] theorem landRow_wf (s0 : State) (asid : Nat) (q : Request) (scr : Bool) (ps : List Piece) (a : RowAcc)
    (h : Memory.wf a.s.mem = true) : Memory.wf (landRow s0 asid q scr ps a).s.mem = true := by
  induction ps generalizing a with
  | nil => exact h
  | cons p ps ih =>
    simp only [landRow]
    split
    · exact ih _ (by simp [h])
    · simp [h]

@[simp] theorem modReq_mem (s : State) (id : Nat) (f : Request → Request) : (modReq s id f).mem = s.mem := rfl

@[simp] theorem touchRow_mem (s : State) (q : Request) (ps : List Piece) : (touchRow s q ps).mem = s.mem := by
  simp [touchRow]

@[simp] theorem landReqRow_wf (s0 : State) (x : Transfer) (q : Request) (h : Memory.wf s0.mem = true) :
    Memory.wf (landReqRow s0 x q).mem = true := by
  have hr := landRow_wf (touchRow s0 q x.pieces) (teamAsid s0 x.tid) q x.scr x.pieces ⟨touchRow s0 q x.pieces, 0, false, none⟩
    (by simpa using h)
  unfold landReqRow
  simp only
  split
  · exact hr
  · split
    · exact hr
    · exact countBytes_wf _ _ _ _ _ hr

/-! ## Matrix -/

@[simp] theorem modSeq_mem (s : State) (tid : Nat) (f : Sequencer → Sequencer) :
    (modSeq s tid f).mem = s.mem :=
  rfl

@[simp] theorem seqFault_mem (s : State) (e : BulkEnv) (c : SeqCause) (addr sub level : Nat) :
    (seqFault s e c addr sub level).mem = s.mem := rfl

@[simp] theorem seqDone_mem (s : State) (e : BulkEnv) (pos : Nat) : (seqDone s e pos).mem = s.mem := rfl

theorem applySeq_wf (s : State) (e : BulkEnv) (next : Nat) (x : SeqStep) (hx : x.MemHas (Memory.wf · = true))
    (h : Memory.wf s.mem = true) : Memory.wf (applySeq s e next x).mem = true := by
  cases x with
  | done t | part t | jump t pos => exact hx
  | fault | wait => exact h
  | meet rs => simpa [applySeq] using h

@[simp] theorem scrWrite_wf (s : State) (e : BulkEnv) (a n v : Nat) (h : Memory.wf s.mem = true) :
    Memory.wf (scrWrite s e a n v).mem = true := by
  simp [scrWrite, h]

@[simp] theorem putTile_mem (s : State) (e : BulkEnv) (mt : BitVec 4) (t : Tile) :
    (putTile s e mt t).mem = s.mem :=
  rfl

@[simp] theorem mulFloat_mem (s : State) (e : BulkEnv) (x : MmaOp) (d : ADesc) (k0 : Nat)
    (col : Nat → Nat → FVal) (lo n : Nat) : (mulFloat s e x d k0 col lo n).mem = s.mem := rfl

@[simp] theorem mulInt_mem (s : State) (e : BulkEnv) (x : MmaOp) (d : ADesc) (k0 : Nat) (col : Nat → Nat → Int)
    (lo n : Nat) : (mulInt s e x d k0 col lo n).mem = s.mem := rfl

@[simp] theorem nttEffect_wf (e : BulkEnv) (s : State) (inverse : Bool) (a t j lo n : Nat)
    (h : Memory.wf s.mem = true) : Memory.wf (nttEffect e s inverse a t j lo n).mem = true := by
  simp [nttEffect, h]

@[simp] theorem seqNoWord_mem (s : State) (e : BulkEnv) (x : Xlat) (pc : Nat) :
    (seqNoWord s e x pc).mem = s.mem := by
  unfold seqNoWord
  split <;> simp

/-! ## Windows -/

@[simp] theorem stagePart_mem (s : State) (f : Partition → Partition) : (stagePart s f).mem = s.mem := rfl

@[simp] theorem pregStore_wf (s : State) (r : PReg) (v : DWord) (h : Memory.wf s.mem = true) :
    Memory.wf (pregStore s r v).mem = true := by
  have hc := ccmdWrite_wf s (v.setWidth 32) coldState coldState_wf h
  cases r <;> simp [pregStore, h, hc]

@[simp] theorem fullWrite_wf (s : State) (off : Nat) (v : DWord) (h : Memory.wf s.mem = true) :
    Memory.wf (fullWrite s off v).mem = true := by
  simp only [fullWrite]
  (repeat' split) <;> simp [h]

@[simp] theorem fullRead_mem (s : State) (off : Nat) : (fullRead s off).1.mem = s.mem := by
  simp only [fullRead]
  (repeat' split) <;> simp

@[simp] theorem recoveryWrite_wf (s : State) (off : Nat) (v : DWord) (h : Memory.wf s.mem = true) :
    Memory.wf (recoveryWrite s off v).mem = true := by
  unfold recoveryWrite
  split <;> simp [h]

@[simp] theorem recoveryRead_mem (s : State) (off : Nat) : (recoveryRead s off).1.mem = s.mem := by
  unfold recoveryRead
  split <;> simp

@[simp] theorem bar2Write_wf (s : State) (path : Path) (off : Nat) (v : DWord) (h : Memory.wf s.mem = true) :
    Memory.wf (bar2Write s path off v).mem = true := by
  unfold bar2Write
  split <;> simp [h]

@[simp] theorem bar2Read_mem (s : State) (path : Path) (off : Nat) : (bar2Read s path off).1.mem = s.mem := by
  simp only [bar2Read]
  (repeat' split) <;> simp

/-! ## RiscV -/

@[simp] theorem rvFetchFault_mem (s : State) (c : Nat) : (rvFetchFault s c).mem = s.mem := rfl

@[simp] theorem rvXlat_mem (s : State) (c : Nat) (r : RvCore) (k : AccKind) (va n : Nat) :
    (rvXlat s c r k va n).1.mem = s.mem := by
  unfold rvXlat
  split <;> simp

@[simp] theorem rvStore_wf (s : State) (r : RvCore) (key n v : Nat) (h : Memory.wf s.mem = true) :
    Memory.wf (rvStore s r key n v).mem = true := by
  simp [rvStore, h, bankWrite_wf]

@[simp] theorem breakReservations_mem (s : State) : (breakReservations s).mem = s.mem := by
  simp [breakReservations]

/-! ## Schedule -/

@[simp] theorem markIssue_mem (s : State) : (markIssue s).mem = s.mem := rfl

@[simp] theorem fetchStall_mem (s : State) (c : Cur) (e : Env) (x : Xlat) (pc : Nat) :
    (fetchStall s c e x pc).mem = s.mem := by
  cases x <;> simp [fetchStall]

@[simp] theorem beginCycle_mem (s : State) (die core cycle : Nat) :
    (beginCycle s die core cycle).mem = s.mem :=
  rfl

@[simp] theorem grantSlot_mem (s : State) (rs : List Group) (g : Group) : (grantSlot s rs g).mem = s.mem := rfl

@[simp] theorem slotTurn_mem (s : State) (die core cycle left : Nat) (served : List Nat) :
    (slotTurn s die core cycle left served).mem = s.mem := by
  simp only [slotTurn]
  (repeat' split) <;> simp

@[simp] theorem countWords_mem (s : State) (c : Cur) : (countWords s c).mem = s.mem := rfl

@[simp] theorem spendTurns_mem (i : Instr) (s : State) (c : Cur) : (spendTurns i s c).mem = s.mem := by
  unfold spendTurns
  split <;> simp

@[simp] theorem afterWord_mem (i : Instr) (s : State) : (afterWord i s).mem = s.mem := by
  unfold afterWord
  split <;> simp

theorem settle_wf (s : State) (h : Memory.wf s.mem = true) : Memory.wf (settle s).mem = true :=
  takeStopping_wf _ (foldl_wf _ _ _ (fun s g h => settleGroup_wf s g h) (runTests_wf _ h))

/-! ## The matrix sequencer's checks and commands -/

/-- A step that leaves no state of its own. -/
def SeqStep.Stateless : SeqStep → Prop
  | .done _ | .part _ | .jump .. => False
  | _ => True

theorem SeqStep.Stateless.memHas {q : List Host.Cell → Prop} {y : SeqStep} (h : y.Stateless) : y.MemHas q := by
  cases y with
  | done | part | jump => exact h.elim
  | fault | wait | meet => trivial

/-- A check of a command that does not pass leaves no state of its own. -/
structure SeqM.Checks {α : Type} (x : SeqM α) : Prop where
  stop : ∀ y, x = .error y → y.Stateless

@[simp] theorem checks_ok {α : Type} (a : α) : SeqM.Checks (.ok a) := ⟨fun _ h => nomatch h⟩

@[simp] theorem checks_pure {α : Type} (a : α) : SeqM.Checks (pure a) := checks_ok a

@[simp] theorem checks_error {α : Type} (y : SeqStep) : SeqM.Checks (.error y : SeqM α) ↔ y.Stateless :=
  ⟨fun h => h.stop y rfl, fun h => ⟨fun _ hy => Except.error.inj hy ▸ h⟩⟩

@[simp] theorem stateless_fault (c : SeqCause) (a : Nat) : (SeqStep.fault c a).Stateless := trivial
@[simp] theorem stateless_wait : SeqStep.wait.Stateless := trivial
@[simp] theorem stateless_meet (rs : List (Nat × Nat)) : (SeqStep.meet rs).Stateless := trivial

theorem checks_bind {α β : Type} {x : SeqM α} {f : α → SeqM β} (hx : x.Checks) (hf : ∀ a, (f a).Checks) :
    (x >>= f).Checks := by
  cases x with
  | error y => exact (checks_error y).2 (hx.stop y rfl)
  | ok a => exact hf a

/-- After a check, a command's step keeps what the rest of it keeps. -/
theorem seqRun_bind {α : Type} {q : List Host.Cell → Prop} {x : SeqM α} {f : α → SeqM SeqStep} (hx : x.Checks)
    (hf : ∀ a, (seqRun (f a)).MemHas q) : (seqRun (x >>= f)).MemHas q := by
  cases x with
  | error y => exact (hx.stop y rfl).memHas
  | ok a => exact hf a

theorem seqRun_done_memHas (q : List Host.Cell → Prop) (s : State) :
    (seqRun (pure (.done s))).MemHas q = q s.mem :=
  rfl

@[simp] theorem faultIf_checks (b : Bool) (c : SeqCause) (a : Nat) : (faultIf b c a).Checks := by
  unfold faultIf
  split <;> simp

@[simp] theorem needRoom_checks (e : BulkEnv) (c : SeqCause) (rs : List (Nat × Nat)) :
    (needRoom e c rs).Checks := by
  unfold needRoom
  split <;> simp

@[simp] theorem waitData_checks (s : State) (e : BulkEnv) (rs : List (Nat × Nat)) :
    (waitData s e rs).Checks := by
  simp only [waitData]
  repeat' split
  all_goals simp

@[simp] theorem needData_checks (s : State) (e : BulkEnv) (rs : List (Nat × Nat)) :
    (needData s e rs).Checks := by
  have hw := waitData_checks s e rs
  unfold needData
  split
  · next heq => simpa [heq] using hw
  · split <;> simp

@[simp] theorem needTile_checks (e : BulkEnv) (tv : Bool) (tile : Nat) (rs : List (Nat × Nat)) :
    (needTile e tv tile rs).Checks := by
  unfold needTile
  repeat' split
  all_goals simp

@[simp] theorem loopIx_checks (e : BulkEnv) (ix : Bool) : (loopIx e ix).Checks := by
  unfold loopIx
  repeat' split
  all_goals simp

@[simp] theorem needKind_checks (e : BulkEnv) (mt : BitVec 4) : (needKind e mt).Checks := by
  unfold needKind
  split <;> simp

@[simp] theorem needThis_checks (e : BulkEnv) (mt : BitVec 4) (k : MKind) : (needThis e mt k).Checks := by
  have hk := needKind_checks e mt
  unfold needThis
  split
  · next heq => simpa [heq] using hk
  · split <;> simp

@[simp] theorem needBuf_checks (e : BulkEnv) (b : BitVec 2) : (needBuf e b).Checks := by
  simp only [needBuf]
  split <;> simp

@[simp] theorem needA_checks (s : State) (e : BulkEnv) (x : MmaOp) (k0 kb : Nat) (ok : ADesc → Bool) :
    (needA s e x k0 kb ok).Checks := by
  refine checks_bind (needRoom_checks ..) fun _ => checks_bind (needData_checks ..) fun _ => ?_
  simp only
  split
  · simp
  · exact checks_bind (faultIf_checks ..) fun _ => checks_bind (needRoom_checks ..) fun _ =>
      checks_bind (needData_checks ..) fun _ => checks_pure _

@[simp] theorem nttChecks_checks (e : BulkEnv) (s : State) (a t j : Nat) : (nttChecks e s a t j).Checks :=
  checks_bind (needRoom_checks ..) fun _ => checks_bind (faultIf_checks ..) fun _ =>
    checks_bind (needData_checks ..) fun _ => checks_bind (faultIf_checks ..) fun _ =>
    checks_bind (faultIf_checks ..) fun _ => faultIf_checks ..

theorem mldaStep_mem {q : List Host.Cell → Prop} (e : BulkEnv) (s : State) (kind : MKind) (mt : BitVec 4)
    (x : MRange)
    (h : q s.mem) : (seqRun (mldaStep e s kind mt x)).MemHas q :=
  seqRun_bind (needRoom_checks ..) fun _ => seqRun_bind (needTile_checks ..) fun _ =>
    seqRun_bind (needData_checks ..) fun _ => h

/-- Rows written to scratch one after another keep memory canonical. -/
theorem scrRows_wf (e : BulkEnv) (row : Nat → Nat) (rs : List ((Nat × Nat) × Nat)) (s : State)
    (h : Memory.wf s.mem = true) :
    Memory.wf (rs.foldl (fun s r => scrWrite s e r.1.1 r.1.2 (row r.2)) s).mem = true := by
  induction rs generalizing s with
  | nil => exact h
  | cons r rs ih =>
    rw [List.foldl_cons]
    exact ih _ (scrWrite_wf _ _ _ _ _ h)

theorem mstStep_wf (e : BulkEnv) (s : State) (ec : ECode) (mt : BitVec 4) (x : MRange)
    (h : Memory.wf s.mem = true) : (seqRun (mstStep e s ec mt x)).MemHas (Memory.wf · = true) := by
  unfold mstStep
  refine seqRun_bind (needKind_checks ..) fun t => seqRun_bind (faultIf_checks ..) fun _ => ?_
  simp only
  refine seqRun_bind (needRoom_checks ..) fun _ => seqRun_bind (needTile_checks ..) fun _ => ?_
  exact scrRows_wf e (fun i => joinRow (ecBytes ec) (((t.2.drop (64 * i)).take 64).map (mstElem e.team.seq t.1 ec))) _ s h

theorem tileMap_mem {q : List Host.Cell → Prop} (e : BulkEnv) (s : State) (mt src : BitVec 4)
    (f : List Nat → List Nat)
    (h : q s.mem) : (seqRun (tileMap e s mt src f)).MemHas q :=
  seqRun_bind (needKind_checks ..) fun _ => h

theorem mcvtStep_mem {q : List Host.Cell → Prop} (e : BulkEnv) (s : State) (toI32 : Bool) (mt : BitVec 4)
    (h : q s.mem) : (seqRun (mcvtStep e s toI32 mt)).MemHas q :=
  seqRun_bind (needKind_checks ..) fun _ => seqRun_bind (faultIf_checks ..) fun _ => h

theorem ewStep_mem {q : List Host.Cell → Prop} (e : BulkEnv) (s : State) (mt : BitVec 4) (mul : Bool)
    (k : MKind)
    (el other : List Nat) (h : q s.mem) : (seqRun (ewStep e s mt mul k el other)).MemHas q :=
  seqRun_bind (faultIf_checks ..) fun _ => h

theorem ewTiles_mem {q : List Host.Cell → Prop} (e : BulkEnv) (s : State) (mt src : BitVec 4) (mul : Bool)
    (h : q s.mem) : (seqRun (ewTiles e s mt src mul)).MemHas q :=
  seqRun_bind (needKind_checks ..) fun _ => seqRun_bind (needThis_checks ..) fun _ => ewStep_mem _ _ _ _ _ _ _ h

theorem msclStep_mem {q : List Host.Cell → Prop} (e : BulkEnv) (s : State) (mt : BitVec 4) (v : DWord)
    (h : q s.mem) : (seqRun (msclStep e s mt v)).MemHas q :=
  seqRun_bind (needKind_checks ..) fun _ => ewStep_mem _ _ _ _ _ _ _ h

theorem mbiasStep_mem {q : List Host.Cell → Prop} (e : BulkEnv) (s : State) (mt : BitVec 4) (addr : BitVec 16)
    (h : q s.mem) : (seqRun (mbiasStep e s mt addr)).MemHas q :=
  seqRun_bind (needKind_checks ..) fun _ => seqRun_bind (needRoom_checks ..) fun _ =>
    seqRun_bind (needData_checks ..) fun _ => ewStep_mem _ _ _ _ _ _ _ h

theorem mclampStep_mem {q : List Host.Cell → Prop} (e : BulkEnv) (s : State) (mt : BitVec 4) (lo hi : Word)
    (h : q s.mem) : (seqRun (mclampStep e s mt lo hi)).MemHas q :=
  seqRun_bind (needThis_checks ..) fun _ => seqRun_bind (faultIf_checks ..) fun _ => h

theorem mamaxStep_wf (e : BulkEnv) (s : State) (mt : BitVec 4) (addr : BitVec 16)
    (h : Memory.wf s.mem = true) : (seqRun (mamaxStep e s mt addr)).MemHas (Memory.wf · = true) :=
  seqRun_bind (needThis_checks ..) fun _ => seqRun_bind (needRoom_checks ..) fun _ => scrWrite_wf _ _ _ _ _ h

theorem mldbStep_mem {q : List Host.Cell → Prop} (e : BulkEnv) (s : State) (x : MldbOp)
    (h : q s.mem) : (seqRun (mldbStep e s x)).MemHas q :=
  seqRun_bind (loopIx_checks ..) fun _ => seqRun_bind (faultIf_checks ..) fun _ =>
    seqRun_bind (needRoom_checks ..) fun _ => seqRun_bind (needTile_checks ..) fun _ =>
    seqRun_bind (needData_checks ..) fun _ => h

theorem granStep_mem {q : List Host.Cell → Prop} (e : BulkEnv) (gran : BitVec 3) (total lo desc : Nat)
    (s : State)
    (f : Nat → Nat → State) (hf : ∀ lo n, q (f lo n).mem) : (granStep e gran total lo desc s f).MemHas q := by
  simp only [granStep]
  split
  · exact hf _ _
  · exact hf _ _

theorem mulStep_mem {q : List Host.Cell → Prop} (e : BulkEnv) (x : MmaOp) (k0 total : Nat) (s : State)
    (checks : SeqM (Nat × ADesc)) (f : ADesc → Nat → Nat → State) (hc : checks.Checks)
    (hf : ∀ d lo n, q (f d lo n).mem) :
    (seqRun (mulStep e x k0 total s checks f)).MemHas q := by
  unfold mulStep
  split
  · split
    · split
      · next heq => exact ((waitData_checks ..).stop _ heq).memHas
      · exact granStep_mem _ _ _ _ _ s _ (hf _)
    · trivial
  · split
    · exact (hc.stop _ rfl).memHas
    · exact granStep_mem _ _ _ _ _ s _ (hf _)

theorem mmaStep_mem {q : List Host.Cell → Prop} (e : BulkEnv) (s : State) (x : MmaOp) (af bf : ECode)
    (h : q s.mem) : (seqRun (mmaStep e s x af bf)).MemHas q := by
  refine seqRun_bind (loopIx_checks ..) fun _ => seqRun_bind (needBuf_checks ..) fun _ =>
    mulStep_mem _ _ _ _ _ _ _ ?_ fun d lo n => ?_
  · exact checks_bind (needThis_checks ..) fun _ => checks_bind (faultIf_checks ..) fun _ => needA_checks ..
  · split <;> exact h

theorem mpmaStep_mem {q : List Host.Cell → Prop} (e : BulkEnv) (s : State) (x : MmaOp) (af : ECode) (mid : Bool)
    (h : q s.mem) : (seqRun (mpmaStep e s x af mid)).MemHas q := by
  refine seqRun_bind (loopIx_checks ..) fun _ => seqRun_bind (needBuf_checks ..) fun _ =>
    mulStep_mem _ _ _ _ _ _ _ ?_ fun d lo n => ?_
  · exact checks_bind (needThis_checks ..) fun _ => checks_bind (faultIf_checks ..) fun _ => needA_checks ..
  · split <;> exact h

theorem mmodmaStep_mem {q : List Host.Cell → Prop} (e : BulkEnv) (s : State) (x : MmaOp)
    (h : q s.mem) : (seqRun (mmodmaStep e s x)).MemHas q := by
  refine seqRun_bind (loopIx_checks ..) fun _ => seqRun_bind (needBuf_checks ..) fun _ =>
    mulStep_mem _ _ _ _ _ _ _ ?_ fun d lo n => h
  exact checks_bind (needThis_checks ..) fun _ => checks_bind (faultIf_checks ..) fun _ =>
    checks_bind (needA_checks ..) fun _ => checks_bind (faultIf_checks ..) fun _ => checks_pure _

theorem nttStep_wf (e : BulkEnv) (s : State) (inverse : Bool) (x : NttOp)
    (h : Memory.wf s.mem = true) : (seqRun (nttStep e s inverse x)).MemHas (Memory.wf · = true) := by
  have hf := fun a t j lo n => nttEffect_wf e s inverse a t j lo n h
  unfold nttStep
  split
  · exact seqRun_bind (waitData_checks ..) fun _ => granStep_mem _ _ _ _ _ s _ (hf _ _ _)
  · exact seqRun_bind (nttChecks_checks ..) fun _ => granStep_mem _ _ _ _ _ s _ (hf _ _ _)

/-- A property of the state that a turn of a sequencer leaves. -/
def SeqTurn.MemHas (q : List Host.Cell → Prop) : SeqTurn → Prop
  | .rest s | .go _ s => q s.mem

theorem seqGo_mem {q : List Host.Cell → Prop} (s : State) (e : BulkEnv) (w ext : DWord) (h : q s.mem) :
    (seqGo s e w ext).MemHas q := by
  unfold seqGo
  split
  · simpa [SeqTurn.MemHas] using h
  · exact h

theorem seqFetch_mem {q : List Host.Cell → Prop} (s : State) (e : BulkEnv) (h : q s.mem) :
    (seqFetch s e).MemHas q := by
  unfold seqFetch
  simp only
  split
  · exact seqGo_mem _ _ _ _ h
  · split
    · split
      · split
        · exact seqGo_mem _ _ _ _ (by simpa using h)
        · simpa [SeqTurn.MemHas] using h
      · exact seqGo_mem _ _ _ _ (by simpa using h)
    · simpa [SeqTurn.MemHas] using h

theorem seqTurn_mem {q : List Host.Cell → Prop} (s : State) (tid : Nat) (h : q s.mem) :
    (seqTurn s tid).MemHas q := by
  unfold seqTurn
  split
  · exact h
  · split
    · exact h
    · split
      · exact h
      · exact seqFetch_mem _ _ h

/-! ## RISC-V cores -/

/-- What every state that a RISC-V word leaves satisfies of its memory. -/
def RvOut.MemHas (q : List Host.Cell → Prop) : RvOut → Prop
  | .ok s _ | .trap s _ _ => q s.mem

theorem RvOut.MemHas.ite {q : List Host.Cell → Prop} {c : Prop} [Decidable c] {a b : RvOut} (ha : a.MemHas q)
    (hb : b.MemHas q) : (if c then a else b).MemHas q := by
  split
  · exact ha
  · exact hb

theorem rvBad_mem {q : List Host.Cell → Prop} (s : State) (w : Nat) (h : q s.mem) : (rvBad s w).MemHas q := h

/-- An access keeps what its effect on the state with the access counted keeps. -/
theorem rvAccess_mem {q : List Host.Cell → Prop} (s : State) (c : Nat) (r : RvCore) (store reads : Bool)
    (va : DWord)
    (n : Nat) (f : State → Nat → RvOut) (hf : ∀ s key, q s.mem → (f s key).MemHas q) (h : q s.mem) :
    (rvAccess s c r store reads va n f).MemHas q := by
  have hx : q (rvXlat s c r (if store then .write else .read) va.toNat n).1.mem := by simpa using h
  unfold rvAccess
  refine .ite h ?_
  split
  · next heq =>
    rw [heq] at hx
    exact hx
  · next heq =>
    rw [heq] at hx
    exact .ite hx (hf _ _ (by simpa using hx))

theorem rvLoad_mem {q : List Host.Cell → Prop} (s : State) (c : Nat) (r : RvCore) (w len : Nat) (h : q s.mem) :
    (rvLoad s c r w len).MemHas q := by
  simp only [rvLoad]
  split
  · exact h
  · exact rvAccess_mem _ _ _ _ _ _ _ _ (fun _ _ h => h) h

theorem rvStoreOp_wf (s : State) (c : Nat) (r : RvCore) (w len : Nat) (h : Memory.wf s.mem = true) :
    (rvStoreOp s c r w len).MemHas (Memory.wf · = true) := by
  simp only [rvStoreOp]
  split
  · exact h
  · exact rvAccess_mem _ _ _ _ _ _ _ _ (fun _ _ h => rvStore_wf _ _ _ _ _ h) h

theorem rvAmo_wf (s : State) (c : Nat) (r : RvCore) (w len : Nat) (h : Memory.wf s.mem = true) :
    (rvAmo s c r w len).MemHas (Memory.wf · = true) := by
  simp only [rvAmo]
  refine .ite h (.ite (.ite h ?_) (.ite ?_ (.ite h ?_)))
  · exact rvAccess_mem (q := (Memory.wf · = true)) _ _ _ _ _ _ _ _ (fun _ _ h => h) h
  · exact rvAccess_mem _ _ _ _ _ _ _ _ (fun _ _ h => .ite (rvStore_wf _ _ _ _ _ h) h) h
  · exact rvAccess_mem (q := (Memory.wf · = true)) _ _ _ _ _ _ _ _ (fun _ _ h => rvStore_wf _ _ _ _ _ h) h

theorem rvCbo_mem {q : List Host.Cell → Prop} (s : State) (c : Nat) (r : RvCore) (w len : Nat) (h : q s.mem) :
    (rvCbo s c r w len).MemHas q := by
  have hx : q (rvXlat s c r .read (rx r (bitsN w 19 15)).toNat 1).1.mem := by simpa using h
  simp only [rvCbo]
  refine .ite h (.ite h ?_)
  split <;> next heq =>
    rw [heq] at hx
    exact hx

theorem rvFence_mem {q : List Host.Cell → Prop} (s : State) (c : Nat) (r : RvCore) (w len : Nat) (h : q s.mem) :
    (rvFence s c r w len).MemHas q := by
  unfold rvFence
  split
  · exact h
  · split <;> exact h
  · exact rvCbo_mem _ _ _ _ _ h
  · exact h

theorem rvWrs_mem {q : List Host.Cell → Prop} (s : State) (c : Nat) (r : RvCore) (sto : Bool) (len : Nat)
    (h : q s.mem) :
    (rvWrs s c r sto len).MemHas q := by
  simp only [rvWrs]
  split
  · exact h
  · split
    · split <;> exact h
    · exact h

theorem rvCsrOp_mem {q : List Host.Cell → Prop} (s : State) (c : Nat) (r : RvCore) (w len : Nat) (h : q s.mem) :
    (rvCsrOp s c r w len).MemHas q := by
  simp only [rvCsrOp]
  split
  · exact h
  · split <;> exact h

theorem rvSystem_mem {q : List Host.Cell → Prop} (s : State) (c : Nat) (r : RvCore) (w len : Nat)
    (h : q s.mem) :
    (rvSystem s c r w len).MemHas q := by
  simp only [rvSystem]
  split
  · exact h
  · split
    · exact rvCsrOp_mem _ _ _ _ _ h
    · split
      · split <;> exact h
      · split
        · exact h
        · split
          · exact h
          · exact h
          · exact rvWrs_mem _ _ _ _ _ h
          · exact rvWrs_mem _ _ _ _ _ h
          · split <;> exact h
          · split <;> exact h
          · split <;> exact h
          · exact h

theorem rvFpMem_wf (s : State) (c : Nat) (r : RvCore) (w len : Nat) (store : Bool)
    (h : Memory.wf s.mem = true) :
    (rvFpMem s c r w len store).MemHas (Memory.wf · = true) := by
  simp only [rvFpMem]
  split
  · exact h
  · split
    · exact rvAccess_mem _ _ _ _ _ _ _ _ (fun _ _ h => rvStore_wf _ _ _ _ _ h) h
    · exact rvAccess_mem (q := (Memory.wf · = true)) _ _ _ _ _ _ _ _ (fun _ _ h => h) h

theorem rvFp_mem {q : List Host.Cell → Prop} (s : State) (c : Nat) (r : RvCore) (w len : Nat) (h : q s.mem) :
    (rvFp s c r w len).MemHas q := by
  simp only [rvFp]
  split
  · exact h
  · split <;> exact h

theorem rvFma_mem {q : List Host.Cell → Prop} (s : State) (c : Nat) (r : RvCore) (w len k : Nat) (h : q s.mem) :
    (rvFma s c r w len k).MemHas q := by
  simp only [rvFma]
  split
  · exact h
  · split <;> exact h

theorem rvResult_mem {q : List Host.Cell → Prop} (s : State) (r : RvCore) (w len : Nat) (x : Option DWord)
    (h : q s.mem) :
    (rvResult s r w len x).MemHas q := by
  unfold rvResult
  split <;> exact h

theorem rvWord_wf (s : State) (c : Nat) (r : RvCore) (w len : Nat) (h : Memory.wf s.mem = true) :
    (rvWord s c r w len).MemHas (Memory.wf · = true) := by
  unfold rvWord
  split
  · exact h
  · exact h
  · exact h
  · split <;> exact h
  · split <;> exact h
  · exact rvLoad_mem (q := (Memory.wf · = true)) _ _ _ _ _ h
  · exact rvStoreOp_wf _ _ _ _ _ h
  · exact rvResult_mem (q := (Memory.wf · = true)) _ _ _ _ _ h
  · exact rvResult_mem (q := (Memory.wf · = true)) _ _ _ _ _ h
  · exact rvResult_mem (q := (Memory.wf · = true)) _ _ _ _ _ h
  · exact rvResult_mem (q := (Memory.wf · = true)) _ _ _ _ _ h
  · exact rvFence_mem (q := (Memory.wf · = true)) _ _ _ _ _ h
  · exact rvSystem_mem (q := (Memory.wf · = true)) _ _ _ _ _ h
  · exact rvAmo_wf _ _ _ _ _ h
  · exact rvFpMem_wf _ _ _ _ _ _ h
  · exact rvFpMem_wf _ _ _ _ _ _ h
  · exact rvFma_mem (q := (Memory.wf · = true)) _ _ _ _ _ _ h
  · exact rvFma_mem (q := (Memory.wf · = true)) _ _ _ _ _ _ h
  · exact rvFma_mem (q := (Memory.wf · = true)) _ _ _ _ _ _ h
  · exact rvFma_mem (q := (Memory.wf · = true)) _ _ _ _ _ _ h
  · exact rvFp_mem (q := (Memory.wf · = true)) _ _ _ _ _ h
  · exact h

@[simp] theorem rvExec_wf (s : State) (c w : Nat) (h : Memory.wf s.mem = true) :
    Memory.wf (rvExec s c w).mem = true := by
  unfold rvExec
  simp only
  split
  · next s1 r1 heq =>
    have hout : (RvOut.ok s1 r1).MemHas (Memory.wf · = true) := heq ▸ (by split; exacts [h, rvWord_wf _ _ _ _ _ h])
    exact hout
  · next s1 cause tval heq =>
    have hout : (RvOut.trap s1 cause tval).MemHas (Memory.wf · = true) :=
      heq ▸ (by split; exacts [h, rvWord_wf _ _ _ _ _ h])
    exact hout

theorem rvInterrupt_mem (s : State) (c : Nat) (t : State) (h : rvInterrupt s c = some t) : t.mem = s.mem := by
  simp only [rvInterrupt, Option.map_eq_some_iff] at h
  obtain ⟨i, -, rfl⟩ := h
  rfl

/-! ## Steps of lanes and of uniform instructions -/

theorem rteStep_mem {q : List Host.Cell → Prop} (kill : Bool) (e : Env) (l : Nat) (s : State) (h : q s.mem) :
    (rteStep kill e l s).MemHas q := by
  unfold rteStep
  split
  · exact h
  · split
    · trivial
    · split
      · exact h
      · simp only [LaneStep.MemHas]
        split <;> split <;> exact h

theorem queueStep_mem {q : List Host.Cell → Prop} (c : Cur) (e : Env) (n : Nat) (push : Bool) (act : List Nat)
    (s : State)
    (can : NQueue → Bool) (ok : NQueue → UStep) (hok : ∀ x, (ok x).MemHas q) (h : q s.mem) :
    (queueStep c e n push act s can ok).MemHas q := by
  simp only [queueStep]
  split
  · trivial
  · split
    · exact hok _
    · exact h

@[simp] theorem queueAt_wf (s : State) (c : Cur) (e : Env) (g : Guard) (f : State) (hf : Memory.wf f.mem = true)
    (h : Memory.wf s.mem = true) : Memory.wf (queueAt s c e g f).mem = true := by
  simp [queueAt, hf, h]

theorem tileStep_mem {q : List Host.Cell → Prop} (e : Env) (n : Nat) (s : State)
    (f : Option TileEnt → Except LaneFault TileEnt) (h : q s.mem) : (tileStep e n s f).MemHas q := by
  unfold tileStep
  split
  · trivial
  · exact h

theorem uniformGlb_mem {q : List Host.Cell → Prop} (s : State) (e : Env) (k : AccKind) (a n al : Nat)
    (f : State → Nat → UStep) (hf : ∀ s key, q s.mem → (f s key).MemHas q) (h : q s.mem) :
    (uniformGlb s e k a n al f).MemHas q := by
  unfold uniformGlb
  split
  · trivial
  · split
    · exact h
    · simpa [UStep.MemHas] using h
    · trivial
    · split
      · trivial
      · split
        · trivial
        · exact hf _ _ (by simpa using h)

theorem enqRecord_mem {q : List Host.Cell → Prop} (s : State) (e : Env) (p : PredIx) (key n : Nat)
    (h : q s.mem) :
    (enqRecord s e p key n).MemHas q := by
  simp only [enqRecord]
  split
  · trivial
  · split <;> simpa [UStep.MemHas] using h

theorem svcAt_wf (s : State) (e : Env) (p : PredIx) (n : Nat) (act : List Nat) (key : Nat)
    (h : Memory.wf s.mem = true) :
    (svcAt s e p n act key).MemHas (Memory.wf · = true) := by
  simp only [svcAt]
  split
  · exact h
  · refine uniformGlb_mem (q := (Memory.wf · = true)) _ _ _ _ _ _ _ (fun s k h => ?_) h
    exact bankWrite_wf _ _ _ _ _ (bankWrite_wf _ _ _ _ _ (by simpa using h))

theorem freeBlock_mem (s : State) (e : Env) (kind a : Nat) (t : State) (h : freeBlock s e kind a = .ok t) :
    t.mem = s.mem := by
  unfold freeBlock at h
  split at h
  · cases h
    rfl
  · split at h <;> cases h
    rfl

theorem moveFrames_mem (f : VFunc) (asid die window : Nat) (ls : List Nat) (s t : State)
    (h : moveFrames f asid die window ls s = some t) : t.mem = s.mem := by
  induction ls generalizing s with
  | nil =>
    cases h
    rfl
  | cons l ls ih =>
    simp only [moveFrames, Option.bind_eq_some_iff] at h
    obtain ⟨place, -, h⟩ := h
    simpa using ih _ h

/-! ## Between two turns -/

@[simp] theorem seatHold_wf (s s' : State) (h : Memory.wf s'.mem = true) (hs : Memory.wf s.mem = true) :
    Memory.wf (seatHold s s').mem = true := by
  unfold seatHold
  split <;> simp [h, hs]

@[simp] theorem closeSlot_wf (s s' : State) (gid : Nat) (h : Memory.wf s'.mem = true) :
    Memory.wf (closeSlot s s' gid).mem = true := by
  unfold closeSlot
  split
  · exact h
  · split
    · simpa using h
    · simpa using h

@[simp] theorem putOff_wf (t : Turn) (s s' : State) (h : Memory.wf s'.mem = true)
    (hs : Memory.wf s.mem = true) :
    Memory.wf (putOff t s s').mem = true := by
  unfold putOff
  split
  · exact seatHold_wf _ _ h hs
  · exact seatHold_wf _ _ h hs
  · split
    · simpa using seatHold_wf s s' h hs
    · exact h
  · exact h

theorem afterTurn_wf (t : Turn) (s s' : State) (h : Memory.wf s'.mem = true) (hs : Memory.wf s.mem = true) :
    Memory.wf (afterTurn t s s').mem = true := by
  have hp : ∀ s', Memory.wf s'.mem = true → Memory.wf (breakReservations (putOff t s s')).mem = true := by
    intro s' h
    simpa using putOff_wf t s s' h hs
  unfold afterTurn
  refine hp _ ?_
  split
  · exact closeSlot_wf s s' _ h
  · exact h

theorem takeTurn_mem (s : State) : (takeTurn s).2.mem = s.mem := by
  unfold takeTurn
  split <;> rfl

/-! ## What the shared shapes of an instruction keep -/

theorem withCur_wf (s : State) (f : Cur → Env → State) (hf : ∀ c e, Memory.wf (f c e).mem = true)
    (h : Memory.wf s.mem = true) : NextWf (withCur s f) := by
  unfold withCur
  split
  · simpa using h
  · split
    · simpa using h
    · simpa using hf _ _

theorem runLanes_wf (g : Guard) (us : List RegUse) (s : State)
    (f : Cur → Env → Nat → (Nat → Word) → Thread → State → LaneStep)
    (hf : ∀ c e l rd t s, Memory.wf s.mem = true → (f c e l rd t s).MemHas (Memory.wf · = true))
    (h : Memory.wf s.mem = true) : NextWf (runLanes g us s f) := by
  refine withCur_wf _ _ (fun c e => ?_) h
  split
  · simpa using h
  · refine foldLanes_mem (q := (Memory.wf · = true)) _ _ _ _ _ (fun l s h => ?_) (settleStreams_wf _ _ _ _ _ h)
    exact withOperands_mem _ _ _ _ _ _ _ (fun rd t => hf _ _ _ _ _ _ h) h

theorem alu_wf (g : Guard) (us : List RegUse) (f : (Nat → Word) → Thread → Except Nat Eff) (s : State)
    (h : Memory.wf s.mem = true) : NextWf (alu g us f s) := by
  refine runLanes_wf _ _ _ _ (fun c e l rd t s h => ?_) h
  split
  · trivial
  · exact h

theorem withPlans_wf {α : Type} (g : Guard) (place : Cur → Bool) (us : List RegUse) (s : State)
    (plan : Env → State → Nat → (Nat → Word) → Thread → Plan α)
    (commit : Cur → Env → List (Nat × α) → State → State)
    (hc : ∀ c e xs s, Memory.wf s.mem = true → Memory.wf (commit c e xs s).mem = true)
    (h : Memory.wf s.mem = true) :
    NextWf (withPlans g place us s plan commit) :=
  withCur_wf _ _ (fun _ _ => plansAt_wf _ _ _ _ _ _ _ _ (hc _ _) h) h

theorem plainLanes_wf (g : Guard) (place : Cur → Bool) (s : State) (f : Cur → Env → Nat → State → LaneStep)
    (hf : ∀ c e l s, Memory.wf s.mem = true → (f c e l s).MemHas (Memory.wf · = true))
    (h : Memory.wf s.mem = true) :
    NextWf (plainLanes g place s f) := by
  refine withCur_wf _ _ (fun c e => ?_) h
  split
  · simpa using h
  · exact foldLanes_mem (q := (Memory.wf · = true)) _ _ _ _ _ (hf _ _) h

theorem transferOp_wf (g : Guard) (us : List RegUse) (s : State)
    (plan : Env → State → Nat → (Nat → Word) → Thread → Plan Jump) (h : Memory.wf s.mem = true) :
    NextWf (transferOp g us s plan) := by
  refine withPlans_wf _ _ _ _ _ _ (fun c e js s h => ?_) (drainCur_wf s h)
  simpa using foldl_wf _ _ _ (fun s j h => doJump_wf c s j h) h

theorem longOp_wf (ss : Bool) (s : State) (f : Cur → Env → Option Nat → State)
    (hf : ∀ c e flag, Memory.wf (f c e flag).mem = true) (h : Memory.wf s.mem = true) : NextWf (longOp ss s f) := by
  refine withCur_wf _ _ (fun c e => ?_) h
  simp only
  split
  · exact h
  · exact hf _ _ _

theorem barOp_wf (g : Guard) (place : Cur → Bool) (us : List RegUse) (a : Reg) (test : Bool) (s : State)
    (f : Cur → Env → Nat → (Nat → Word) → Nat → Barrier → State → LaneStep)
    (hf : ∀ c e l rd key b s, Memory.wf s.mem = true → (f c e l rd key b s).MemHas (Memory.wf · = true))
    (h : Memory.wf s.mem = true) : NextWf (barOp g place us a test s f) :=
  withCur_wf _ _ (fun _ _ => barAt_wf _ _ _ _ _ _ _ _ _ (hf _ _) h) h

theorem crossOp_wf (g : Guard) (us : List RegUse) (s : State) (f : List Member → Member → Eff)
    (h : Memory.wf s.mem = true) : NextWf (crossOp g us s f) :=
  withCur_wf _ _ (fun _ _ => crossAt_wf _ _ _ _ _ _ _ h) h

theorem seqOp_wf (s : State) (f : BulkEnv → Nat → State → SeqStep)
    (hf : ∀ e next, (f e next s).MemHas (Memory.wf · = true)) (h : Memory.wf s.mem = true) : NextWf
    (seqOp s f) := by
  unfold seqOp
  split
  · simpa using h
  · split
    · simpa using h
    · simpa using applySeq_wf _ _ _ _ (hf _ _) h

theorem withRv_wf (s : State) (f : Nat → RvCore → State) (hf : ∀ c r, Memory.wf (f c r).mem = true)
    (h : Memory.wf s.mem = true) : NextWf (withRv s f) := by
  unfold withRv
  split
  · simpa using h
  · rw [nextWf_next]
    split
    · exact hf _ _
    · simpa using h

theorem counterWait_wf (rs1 rd : BitVec 5) (ok : RvCore → Nat → Bool) (s : State) (h : Memory.wf s.mem = true) :
    NextWf (counterWait rs1 rd ok s) := by
  refine withRv_wf _ _ (fun c r => ?_) h
  split
  · simpa using h
  · next x _ =>
    have hk : Memory.wf (counterKey s x .read (rvReg r rs1).toNat).1.mem = true := by simpa using h
    split <;> next heq =>
      rw [heq] at hk
      simpa using hk

theorem onSpdm_wf (s : State) (sess : Option Nat) (f : State → State)
    (hf : ∀ s, Memory.wf s.mem = true → Memory.wf (f s).mem = true) (h : Memory.wf s.mem = true) :
    NextWf (onSpdm s sess f) := by
  unfold onSpdm
  split
  · simpa using h
  · split
    · simpa using hf s h
    · rw [nextWf_next]
      split
      · exact hf s h
      · simpa using h

theorem inSession_wf (s : State) (id : Nat) (f : Session → State) (hf : ∀ x, Memory.wf (f x).mem = true)
    (h : Memory.wf s.mem = true) : NextWf (inSession s id f) := by
  unfold inSession
  split
  · simpa using h
  · split
    · simpa using h
    · simpa using hf _

theorem onBound_wf (s : State) (sess asid : Nat) (f : Context → State) (hf : ∀ c, Memory.wf (f c).mem = true)
    (h : Memory.wf s.mem = true) : NextWf (onBound s sess asid f) := by
  refine inSession_wf _ _ _ (fun x => ?_) h
  split
  · simpa using h
  · split
    · simpa using h
    · exact hf _

theorem workCmd_wf (vf q : Nat) (opc : Nat → Bool) (s : State) (done : State → Context → Cmd → State)
    (hd : ∀ s c m, Memory.wf s.mem = true → Memory.wf (done s c m).mem = true) (h : Memory.wf s.mem = true) :
    NextWf (workCmd vf q opc s done) := by
  unfold workCmd
  split
  · simpa using h
  · simp only
    split
    · split
      · simpa using stepCmd_wf _ _ _ _ _ _ _ (fun s h => hd s _ _ h) h
      · simpa using h
    · simpa using h

/-! ## Families of instructions -/

theorem intOp_wf (g : Guard) (us : List RegUse) (ty : ITy) (d : Reg) (f : (Nat → Word) → Int) (s : State)
    (h : Memory.wf s.mem = true) :
    NextWf (intOp g us ty d f s) := alu_wf _ _ _ _ h

theorem fltOp_wf (g : Guard) (us : List RegUse) (d : Reg) (f : (Nat → Word) → FRes) (s : State)
    (h : Memory.wf s.mem = true) :
    NextWf (fltOp g us d f s) := alu_wf _ _ _ _ h

theorem fsetOp_wf (g : Guard) (us : List RegUse) (t : FTy) (cmp : Cmp) (p : PredIx) (a b : (Nat → Word) → Nat)
    (s : State) (h : Memory.wf s.mem = true) :
    NextWf (fsetOp g us t cmp p a b s) := alu_wf _ _ _ _ h

theorem isetOp_wf (g : Guard) (us : List RegUse) (cmp : Cmp) (p : PredIx) (a b : (Nat → Word) → Int)
    (s : State) (h : Memory.wf s.mem = true) :
    NextWf (isetOp g us cmp p a b s) := alu_wf _ _ _ _ h

theorem selOp_wf (g : Guard) (us : List RegUse) (p : PredIx) (w64 : Bool) (d a : Reg) (b : (Nat → Word) → Nat)
    (s : State) (h : Memory.wf s.mem = true) :
    NextWf (selOp g us p w64 d a b s) := alu_wf _ _ _ _ h

theorem lop3Op_wf (g : Guard) (tt : BitVec 8) (d a b c : Reg) (s : State) (h : Memory.wf s.mem = true) :
    NextWf (lop3Op g tt d a b c s) := alu_wf _ _ _ _ h

theorem modOp_wf (g : Guard) (us : List RegUse) (q : (Nat → Word) → Nat) (ops : List Reg)
    (f : Nat → (Nat → Nat) → List (Nat × Word)) (s : State) (h : Memory.wf s.mem = true) :
    NextWf (modOp g us q ops f s) := alu_wf _ _ _ _ h

theorem prefOp_wf (g : Guard) (a : Reg) (s : State) (h : Memory.wf s.mem = true) :
    NextWf (prefOp g a s) := alu_wf _ _ _ _ h

theorem mulOp_wf (g : Guard) (ty : ITy) (hw : HW) (d : Reg) (srcs : List RegUse)
    (a b acc acc64 : (Nat → Word) → Int)
    (s : State) (h : Memory.wf s.mem = true) : NextWf (mulOp g ty hw d srcs a b acc acc64 s) := by
  unfold mulOp
  split
  · exact intOp_wf _ _ _ _ _ _ h
  · exact intOp_wf _ _ _ _ _ _ h
  · exact alu_wf _ _ _ _ h

theorem rmwOp_wf (sp : Space) (g : Guard) (us : List RegUse) (ss acq rel : Bool) (n : Nat) (k : RmwKind)
    (dst : Option Nat)
    (ea : (Nat → Word) → Int) (b c : (Nat → Word) → Nat) (s : State) (h : Memory.wf s.mem = true) :
    NextWf (rmwOp sp g us ss acq rel n k dst ea b c s) := by
  refine longOp_wf _ _ _ (fun cur e flag => plansAt_wf _ _ _ _ _ _ _ _ (fun xs s h => ?_) h) h
  simp only [issueOp_mem, touchAccs_mem]
  split
  · exact releaseGroup_wf _ _ _ h
  · exact h

theorem loadOp_wf (sp : Space) (g : Guard) (m : MemOp) (s : State) (h : Memory.wf s.mem = true) :
    NextWf (loadOp sp g m s) := by
  refine longOp_wf _ _ _ (fun cur e flag => plansAt_wf _ _ _ _ _ _ _ _ (fun xs s h => ?_) h) h
  simpa using beforeLoads_wf _ _ _ _ _ h

theorem storeOp_wf (sp : Space) (g : Guard) (m : MemOp) (s : State) (h : Memory.wf s.mem = true) :
    NextWf (storeOp sp g m s) := by
  refine longOp_wf _ _ _ (fun cur e flag => plansAt_wf _ _ _ _ _ _ _ _ (fun xs s h => ?_) h) h
  simp only [issueOp_mem, touchAccs_mem]
  split
  · exact releaseGroup_wf _ _ _ h
  · exact h

theorem barexpOp_wf (g : Guard) (us : List RegUse) (a : Reg) (n : (Nat → Word) → Int) (s : State)
    (h : Memory.wf s.mem = true) : NextWf (barexpOp g us a n s) := by
  refine barOp_wf _ _ _ _ _ _ _ (fun c e l rd key b s h => ?_) h
  split
  · trivial
  · split
    · exact h
    · exact barWrite_wf _ _ _ h

theorem tlwaitOp_wf (g : Guard) (host : Bool) (a : Reg) (us : List RegUse) (n : (Nat → Word) → Nat) (s : State)
    (h : Memory.wf s.mem = true) : NextWf (tlwaitOp g host a us n s) := by
  refine withPlans_wf _ _ _ _ _ _ (fun c e xs s h => ?_) (releaseCur_wf s h)
  rw [foldl_mem _ _ _ fun s x => touchFrame_mem s _ _]
  exact h

theorem allocOp_wf (g : Guard) (glb : Bool) (us : List RegUse) (d : Reg) (p : PredIx) (n : (Nat → Word) → Nat)
    (s : State)
    (h : Memory.wf s.mem = true) : NextWf (allocOp g glb us d p n s) :=
  runLanes_wf _ _ _ _ (fun _ _ _ _ _ _ h => by simpa [LaneStep.MemHas] using h) h

theorem freeOp_wf (g : Guard) (glb : Bool) (a : Reg) (s : State) (h : Memory.wf s.mem = true) :
    NextWf (freeOp g glb a s) := by
  refine runLanes_wf _ _ _ _ (fun c e l rd t s h => ?_) (releaseCur_wf s h)
  split
  · trivial
  · next heq => simpa [LaneStep.MemHas, freeBlock_mem _ _ _ _ _ heq] using h

/-! ## Instructions -/

theorem execExitTakesEffect_wf (gid lane : Nat) (s : State) (h : Memory.wf s.mem = true) :
    NextWf (execExitTakesEffect gid lane s) := by
  unfold execExitTakesEffect
  split <;> simp [h]

theorem execSleepExpiry_wf (gid lane : Nat) (s : State) (h : Memory.wf s.mem = true) :
    NextWf (execSleepExpiry gid lane s) := by
  unfold execSleepExpiry
  (repeat' split) <;> simp [h]

theorem execBkpt_wf (g : Guard) (n : BitVec 16) (s : State) (h : Memory.wf s.mem = true) :
    NextWf (execBkpt g n s) := by
  unfold execBkpt
  split
  · exact plainLanes_wf _ _ _ _ (fun _ _ _ _ h => by simpa [LaneStep.MemHas] using h) h
  · exact plainLanes_wf _ _ _ _ (fun _ _ _ _ _ => trivial) h

theorem execBscale_wf (g : Guard) (x : BScale) (s : State) (h : Memory.wf s.mem = true) :
    NextWf (execBscale g x s) := by
  unfold execBscale
  split <;> exact fltOp_wf _ _ _ _ _ h

theorem execPmov_wf (g : Guard) (m : PMov) (s : State) (h : Memory.wf s.mem = true) :
    NextWf (execPmov g m s) := by
  unfold execPmov
  split <;> exact alu_wf _ _ _ _ h

theorem execSbind_wf (g : Guard) (x : SBind) (s : State) (h : Memory.wf s.mem = true) :
    NextWf (execSbind g x s) := by
  unfold execSbind
  split
  · exact runLanes_wf _ _ _ _ (fun _ _ _ _ _ _ h => h) h
  · refine withCur_wf _ _ (fun c e => ?_) h
    split
    · simpa using h
    · refine foldLanes_mem (q := (Memory.wf · = true)) _ _ _ _ _ (fun l s h => ?_) (settleStreams_wf _ _ _ _ _ h)
      split
      · trivial
      · refine withOperands_mem _ _ _ _ _ _ _ (fun rd t => ?_) h
        simp only
        split
        · trivial
        · exact h

theorem execVote_wf (g : Guard) (x : Vote) (a : PredIx) (na : Bool) (s : State) (h : Memory.wf s.mem = true) :
    NextWf (execVote g x a na s) := by
  unfold execVote
  simp only
  split <;> exact crossOp_wf _ _ _ _ h

theorem execRedux_wf (g : Guard) (op : ROp) (t : RTy) (d a : Reg) (s : State) (h : Memory.wf s.mem = true) :
    NextWf (execRedux g op t d a s) := by
  unfold execRedux
  split <;> exact crossOp_wf _ _ _ _ h

theorem execScan_wf (g : Guard) (op : ROp) (t : RTy) (d a : Reg) (s : State) (h : Memory.wf s.mem = true) :
    NextWf (execScan g op t d a s) := by
  unfold execScan
  simp only
  split <;> exact crossOp_wf _ _ _ _ h

theorem execFlagCompletion_wf (gid op : Nat) (s : State) (h : Memory.wf s.mem = true) :
    NextWf (execFlagCompletion gid op s) := by
  unfold execFlagCompletion
  split <;> simp [h]

theorem execBankStoreEncode_wf (gid op : Nat) (s : State) (h : Memory.wf s.mem = true) :
    NextWf (execBankStoreEncode gid op s) := by
  simp [execBankStoreEncode, h]

theorem execBankRmw_wf (gid op : Nat) (s : State) (h : Memory.wf s.mem = true) :
    NextWf (execBankRmw gid op s) := by
  simp [execBankRmw, h]

theorem execNcopyAccept_wf (n : Nat) (s : State) (h : Memory.wf s.mem = true) :
    NextWf (execNcopyAccept n s) := by
  unfold execNcopyAccept
  (repeat' split) <;> simp [h]

theorem execNcopyFinish_wf (n : Nat) (s : State) (h : Memory.wf s.mem = true) :
    NextWf (execNcopyFinish n s) := by
  unfold execNcopyFinish
  (repeat' split) <;> simp [h, bankWrite_wf]

theorem execFrameBacking_wf (s : State) (h : Memory.wf s.mem = true) : NextWf (execFrameBacking s) := by
  unfold execFrameBacking
  split <;> simp [h]

theorem execTranslationWalk_wf (die : Nat) (s : State) (h : Memory.wf s.mem = true) :
    NextWf (execTranslationWalk die s) := by
  unfold execTranslationWalk
  (repeat' split) <;> simp [h]

theorem execDenialClear_wf (vf : Option Nat) (s : State) (h : Memory.wf s.mem = true) :
    NextWf (execDenialClear vf s) := by
  simp [execDenialClear, h]

theorem execQtailWrite_wf (path : Path) (vf q : Nat) (v : Word) (s : State) (h : Memory.wf s.mem = true) :
    NextWf (execQtailWrite path vf q v s) := by
  simp [execQtailWrite, h]

theorem execQueueEnable_wf (path : Path) (vf q : Nat) (v : Word) (s : State) (h : Memory.wf s.mem = true) :
    NextWf (execQueueEnable path vf q v s) := by
  simp [execQueueEnable, h]

theorem execQueueDisable_wf (path : Path) (vf q : Nat) (v : Word) (s : State) (h : Memory.wf s.mem = true) :
    NextWf (execQueueDisable path vf q v s) := by
  simp [execQueueDisable, h]

theorem execQstatWrite_wf (path : Path) (vf q : Nat) (v : DWord) (s : State) (h : Memory.wf s.mem = true) :
    NextWf (execQstatWrite path vf q v s) := by
  simp [execQstatWrite, h]

theorem execCntselWrite_wf (path : Path) (vf : Nat) (v : Word) (s : State) (h : Memory.wf s.mem = true) :
    NextWf (execCntselWrite path vf v s) := by
  simp [execCntselWrite, h]

theorem execDutyWrite_wf (path : Path) (vf : Nat) (v : Word) (s : State) (h : Memory.wf s.mem = true) :
    NextWf (execDutyWrite path vf v s) := by
  simp [execDutyWrite, h]

theorem execPmaskWrite_wf (path : Path) (vf : Nat) (v : Word) (s : State) (h : Memory.wf s.mem = true) :
    NextWf (execPmaskWrite path vf v s) := by
  simp [execPmaskWrite, h]

theorem execMigrationResume_wf (gid : Nat) (s : State) (h : Memory.wf s.mem = true) :
    NextWf (execMigrationResume gid s) := by
  unfold execMigrationResume
  (repeat' split) <;> simp [h]

theorem execMigrPontoonRetry_wf (die : Nat) (s : State) (h : Memory.wf s.mem = true) :
    NextWf (execMigrPontoonRetry die s) := by
  simp [execMigrPontoonRetry, h]

theorem execContend_wf (g : Guard) (sync : Bool) (d : Reg) (p : PredIx) (a : Reg) (cid : Byte) (s : State)
    (h : Memory.wf s.mem = true) : NextWf (execContend g sync d p a cid s) := by
  have hs : Memory.wf (if sync then releaseCur s else s).mem = true := by simp [h]
  refine withCur_wf _ _ (fun c e => ?_) hs
  simp only
  split
  · rw [allFault_mem]
    exact hs
  · refine foldLanes_mem (q := (Memory.wf · = true)) _ _ _ _ _ (fun l s h => ?_) (settleStreams_wf _ _ _ _ _ hs)
    refine withOperands_mem _ _ _ _ _ _ _ (fun rd t => ?_) h
    exact waitFrom_mem _ _ _ _ (by simpa [LaneStep.MemHas] using h)

theorem execXdispTaskEnd_wf (core : Nat) (s : State) (h : Memory.wf s.mem = true) :
    NextWf (execXdispTaskEnd core s) := by
  simp only [execXdispTaskEnd]
  (repeat' split) <;> simp [h]

theorem execReservedCustom0_wf (core : Nat) (w : Word) (s : State) (h : Memory.wf s.mem = true) :
    NextWf (execReservedCustom0 core w s) := by
  simp [execReservedCustom0, h]

theorem execMailboxDoorbell_wf (m : Mail) (s : State) (h : Memory.wf s.mem = true) :
    NextWf (execMailboxDoorbell m s) := by
  simp only [execMailboxDoorbell]
  split <;> simp [h]

theorem execMsgCommandTaken_wf (s : State) (h : Memory.wf s.mem = true) : NextWf (execMsgCommandTaken s) := by
  simp [execMsgCommandTaken, h]

theorem execMsgSeedGangReady_wf (s : State) (h : Memory.wf s.mem = true) : NextWf (execMsgSeedGangReady s) := by
  simp [execMsgSeedGangReady, h]

theorem execMsgGangPlaced_wf (s : State) (h : Memory.wf s.mem = true) : NextWf (execMsgGangPlaced s) := by
  simp [execMsgGangPlaced, h]

theorem execMsgTeamOrGangRetired_wf (s : State) (h : Memory.wf s.mem = true) :
    NextWf (execMsgTeamOrGangRetired s) := by
  simp [execMsgTeamOrGangRetired, h]

theorem execMsgCommandFinished_wf (s : State) (h : Memory.wf s.mem = true) :
    NextWf (execMsgCommandFinished s) := by
  simp [execMsgCommandFinished, h]

theorem execMsgErrorReport_wf (s : State) (h : Memory.wf s.mem = true) : NextWf (execMsgErrorReport s) := by
  simp [execMsgErrorReport, h]

theorem execMsgPageHome_wf (seat : Nat) (s : State) (h : Memory.wf s.mem = true) :
    NextWf (execMsgPageHome seat s) := by
  simp [execMsgPageHome, h]

theorem execMsgKeySlot_wf (seat : Nat) (s : State) (h : Memory.wf s.mem = true) :
    NextWf (execMsgKeySlot seat s) := by
  simp [execMsgKeySlot, h]

theorem execMsgClockPowerBudget_wf (inst : Nat) (s : State) (h : Memory.wf s.mem = true) :
    NextWf (execMsgClockPowerBudget inst s) := by
  simp [execMsgClockPowerBudget, h]

theorem execMsgCheckpointStep_wf (seat : Nat) (s : State) (h : Memory.wf s.mem = true) :
    NextWf (execMsgCheckpointStep seat s) := by
  simp [execMsgCheckpointStep, h]

theorem execNak_wf (seat : Nat) (s : State) (h : Memory.wf s.mem = true) : NextWf (execNak seat s) := by
  unfold execNak
  (repeat' split) <;> simp [h]

theorem execMultikernelUpdate_wf (home inst : Nat) (s : State) (h : Memory.wf s.mem = true) :
    NextWf (execMultikernelUpdate home inst s) := by
  unfold execMultikernelUpdate
  (repeat' split) <;> simp [h]

theorem execGangPlacement_wf (vf : Nat) (s : State) (h : Memory.wf s.mem = true) :
    NextWf (execGangPlacement vf s) := by
  simp only [execGangPlacement]
  (repeat' split) <;> simp [h]

theorem execHeatStart_wf (lane : Nat) (s : State) (h : Memory.wf s.mem = true) :
    NextWf (execHeatStart lane s) := by
  simp only [execHeatStart]
  (repeat' split) <;> simp [h]

theorem execHeatResult_wf (lane : Nat) (s : State) (h : Memory.wf s.mem = true) :
    NextWf (execHeatResult lane s) := by
  unfold execHeatResult
  split
  · simpa using h
  · split
    · simpa using h
    · simp only
      split
      · simpa using h
      · split
        · rw [nextWf_next, foldl_mem _ _ _ fun s x => register_mem s lane x]
          exact h
        · split
          · simpa using h
          · rw [nextWf_next]
            exact foldl_wf _ _ _ (fun s x h => deliver_wf s lane _ x h) h

theorem execProgressRuleRelease_wf (gid : Nat) (s : State) (h : Memory.wf s.mem = true) :
    NextWf (execProgressRuleRelease gid s) := by
  unfold execProgressRuleRelease
  split <;> simp [h]

theorem execIssueAgeLimit_wf (gid : Nat) (s : State) (h : Memory.wf s.mem = true) :
    NextWf (execIssueAgeLimit gid s) := by
  simp [execIssueAgeLimit, h]

theorem execPreemptWordLimit_wf (gid : Nat) (s : State) (h : Memory.wf s.mem = true) :
    NextWf (execPreemptWordLimit gid s) := by
  simp [execPreemptWordLimit, h]

theorem execPreemptSecondLimit_wf (gid : Nat) (s : State) (h : Memory.wf s.mem = true) :
    NextWf (execPreemptSecondLimit gid s) := by
  simp [execPreemptSecondLimit, h]

theorem execFaultRecordWrite_wf (asid : Nat) (s : State) (h : Memory.wf s.mem = true) :
    NextWf (execFaultRecordWrite asid s) := by
  unfold execFaultRecordWrite
  (repeat' split) <;> simp [h]

theorem execHandlerEntry_wf (gid : Nat) (s : State) (h : Memory.wf s.mem = true) :
    NextWf (execHandlerEntry gid s) := by
  simp only [execHandlerEntry]
  (repeat' split) <;> simp [h]

theorem execTeamRetirement_wf (tid : Nat) (s : State) (h : Memory.wf s.mem = true) :
    NextWf (execTeamRetirement tid s) := by
  unfold execTeamRetirement
  (repeat' split) <;> simp [h]

theorem execGridEndFlush_wf (grid : Nat) (s : State) (h : Memory.wf s.mem = true) :
    NextWf (execGridEndFlush grid s) := by
  unfold execGridEndFlush
  (repeat' split) <;> simp [h]

theorem execCommandTake_wf (s : State) (h : Memory.wf s.mem = true) : NextWf (execCommandTake s) := by
  unfold execCommandTake
  (repeat' split) <;> simp [h]

theorem execCommandAccept_wf (vf q : Nat) (s : State) (h : Memory.wf s.mem = true) :
    NextWf (execCommandAccept vf q s) := by
  unfold execCommandAccept
  (repeat' split) <;> simp [h]

theorem execGangImageSealed_wf (gang : Nat) (s : State) (h : Memory.wf s.mem = true) :
    NextWf (execGangImageSealed gang s) := by
  simp only [execGangImageSealed]
  (repeat' split) <;> simp [h]

theorem execGangPreempt_wf (path : Path) (v : Word) (s : State) (h : Memory.wf s.mem = true) :
    NextWf (execGangPreempt path v s) := by
  simp [execGangPreempt, h]

theorem execGangRestore_wf (path : Path) (v : Word) (s : State) (h : Memory.wf s.mem = true) :
    NextWf (execGangRestore path v s) := by
  simp [execGangRestore, h]

theorem execGangMove_wf (path : Path) (v : Word) (s : State) (h : Memory.wf s.mem = true) :
    NextWf (execGangMove path v s) := by
  simp [execGangMove, h]

theorem execDebugModuleRequest_wf (r : DebugReq) (s : State) (h : Memory.wf s.mem = true) :
    NextWf (execDebugModuleRequest r s) := by
  unfold execDebugModuleRequest
  (repeat' split) <;> simp [h]

theorem execSyntDiscipline_wf (offset : Int) (acc : Nat) (s : State) (h : Memory.wf s.mem = true) :
    NextWf (execSyntDiscipline offset acc s) := by
  unfold execSyntDiscipline
  split <;> simp [h]

theorem execRehomeWindowEnd_wf (s : State) (h : Memory.wf s.mem = true) : NextWf (execRehomeWindowEnd s) := by
  unfold execRehomeWindowEnd
  split <;> simp [h]

theorem execRehomeComplete_wf (asid lfn : Nat) (s : State) (h : Memory.wf s.mem = true) :
    NextWf (execRehomeComplete asid lfn s) := by
  unfold execRehomeComplete
  split
  · simpa using h
  · simp only
    split
    · simpa using h
    · next heq =>
      obtain ⟨f, -, hf⟩ := Option.bind_eq_some_iff.1 heq
      simpa [moveFrames_mem _ _ _ _ _ _ _ hf] using h

theorem execDieFatalError_wf (die : Nat) (s : State) (h : Memory.wf s.mem = true) :
    NextWf (execDieFatalError die s) := by
  simp [execDieFatalError, h]

theorem execLinkRetry_wf (die : Nat) (s : State) (h : Memory.wf s.mem = true) :
    NextWf (execLinkRetry die s) := by
  simp [execLinkRetry, h]

theorem execDieResetComplete_wf (die : Nat) (s : State) (h : Memory.wf s.mem = true) :
    NextWf (execDieResetComplete die s) := by
  simp only [execDieResetComplete]
  (repeat' split) <;> simp [h]

theorem execContextCreate_wf (path : Path) (v : Word) (s : State) (h : Memory.wf s.mem = true) :
    NextWf (execContextCreate path v s) := by
  simp [execContextCreate, h]

theorem execContextDestroy_wf (path : Path) (v : Word) (s : State) (h : Memory.wf s.mem = true) :
    NextWf (execContextDestroy path v s) := by
  simp [execContextDestroy, h]

theorem execFunctionLevelReset_wf (vf : Nat) (s : State) (h : Memory.wf s.mem = true) :
    NextWf (execFunctionLevelReset vf s) := by
  unfold execFunctionLevelReset
  rw [nextWf_next]
  exact foldl_wf _ _ _ (fun s a h => departContext_wf s a h) h

theorem execDebugLockClose_wf (path : Path) (v : Word) (s : State) (h : Memory.wf s.mem = true) :
    NextWf (execDebugLockClose path v s) := by
  simp [execDebugLockClose, h]

theorem execEasyAll_wf (stream : Nat) (s : State) (h : Memory.wf s.mem = true) :
    NextWf (execEasyAll stream s) := by
  simp [execEasyAll, h]

theorem execEasyAllDrained_wf (stream : Nat) (s : State) (h : Memory.wf s.mem = true) :
    NextWf (execEasyAllDrained stream s) := by
  simp [execEasyAllDrained, h]

theorem execEasyAllTimeout_wf (stream : Nat) (s : State) (h : Memory.wf s.mem = true) :
    NextWf (execEasyAllTimeout stream s) := by
  unfold execEasyAllTimeout
  (repeat' split) <;> simp [h]

theorem execPartitionSelect_wf (path : Path) (v : Word) (s : State) (h : Memory.wf s.mem = true) :
    NextWf (execPartitionSelect path v s) := by
  simp [execPartitionSelect, h]

theorem execPartitionApply_wf (path : Path) (v : Word) (s : State) (h : Memory.wf s.mem = true) :
    NextWf (execPartitionApply path v s) := by
  simp [execPartitionApply, h]

theorem execPartitionRelease_wf (path : Path) (v : Word) (s : State) (h : Memory.wf s.mem = true) :
    NextWf (execPartitionRelease path v s) := by
  simp [execPartitionRelease, h]

theorem execScrubFrame_wf (die : Nat) (s : State) (h : Memory.wf s.mem = true) :
    NextWf (execScrubFrame die s) := by
  simp only [execScrubFrame]
  (repeat' split) <;> simp [h]

theorem execPatrolRead_wf (die asid lfn : Nat) (found : List PatrolFind) (s : State)
    (h : Memory.wf s.mem = true) : NextWf (execPatrolRead die asid lfn found s) := by
  unfold execPatrolRead
  (repeat' split) <;> simp [h]

theorem execCheckpoint_wf (path : Path) (v : Word) (s : State) (h : Memory.wf s.mem = true) :
    NextWf (execCheckpoint path v s) := by
  simp [execCheckpoint, h]

theorem execCheckpointRestore_wf (path : Path) (v : Word) (s : State) (h : Memory.wf s.mem = true) :
    NextWf (execCheckpointRestore path v s) := by
  simp [execCheckpointRestore, h]

theorem execCheckpointVerify_wf (path : Path) (v : Word) (s : State) (h : Memory.wf s.mem = true) :
    NextWf (execCheckpointVerify path v s) := by
  simp [execCheckpointVerify, h]

theorem execDutyReply_wf (vf ix : Nat) (a : DutyAnswer) (s : State) (h : Memory.wf s.mem = true) :
    NextWf (execDutyReply vf ix a s) := by
  unfold execDutyReply
  (repeat' split) <;> simp [h]

theorem execDutyTimeout_wf (vf ix : Nat) (s : State) (h : Memory.wf s.mem = true) :
    NextWf (execDutyTimeout vf ix s) := by
  unfold execDutyTimeout
  (repeat' split) <;> simp [h]

theorem execClockCeilingWrite_wf (path : Path) (die : Nat) (v : Word) (s : State) (h : Memory.wf s.mem = true) :
    NextWf (execClockCeilingWrite path die v s) := by
  simp [execClockCeilingWrite, h]

theorem execClockChange_wf (die : Nat) (s : State) (h : Memory.wf s.mem = true) :
    NextWf (execClockChange die s) := by
  simp [execClockChange, h]

theorem execPowerWindow_wf (m : List DieMeasure) (memory x : Nat) (s : State) (h : Memory.wf s.mem = true) :
    NextWf (execPowerWindow m memory x s) := by
  unfold execPowerWindow
  split <;> simp [h]

theorem execFastSet_wf (s : State) (h : Memory.wf s.mem = true) : NextWf (execFastSet s) := by
  simp [execFastSet, h]

theorem execFastClear_wf (s : State) (h : Memory.wf s.mem = true) : NextWf (execFastClear s) := by
  simp [execFastClear, h]

theorem execThrotSet_wf (die : Nat) (mem : Bool) (temp : Int) (s : State) (h : Memory.wf s.mem = true) :
    NextWf (execThrotSet die mem temp s) := by
  simp [execThrotSet, h]

theorem execThermalTrip_wf (die : Nat) (s : State) (h : Memory.wf s.mem = true) :
    NextWf (execThermalTrip die s) := by
  simp [execThermalTrip, h]

theorem execPowerLoss_wf (s : State) (h : Memory.wf s.mem = true) : NextWf (execPowerLoss s) := by
  simp [execPowerLoss, h]

theorem execModuleThermalTrip_wf (s : State) (h : Memory.wf s.mem = true) :
    NextWf (execModuleThermalTrip s) := by
  simp [execModuleThermalTrip, h]

theorem execColdBoot_wf (s : State) (h : Memory.wf s.mem = true) : NextWf (execColdBoot s) := by
  simp [execColdBoot, h, coldState_wf]

theorem execResetDie_wf (path : Path) (v : Word) (s : State) (h : Memory.wf s.mem = true) :
    NextWf (execResetDie path v s) := by
  unfold execResetDie
  rw [nextWf_next]
  split
  · exact ccmdWrite_wf _ _ _ (fun s h => coldState_wf s h) h
  · exact h

theorem execModuleReset_wf (path : Path) (v : Word) (s : State) (h : Memory.wf s.mem = true) :
    NextWf (execModuleReset path v s) := by
  unfold execModuleReset
  rw [nextWf_next]
  split
  · exact ccmdWrite_wf _ _ _ (fun s h => coldState_wf s h) h
  · exact h

theorem execBootStageComplete_wf (ok : Bool) (recs : List ConfigRecord) (s : State)
    (h : Memory.wf s.mem = true) :
    NextWf (execBootStageComplete ok recs s) := by
  simp only [execBootStageComplete]
  (repeat' split) <;> simp [h]

theorem execRecoveryBeginLoad_wf (path : Path) (v : Word) (s : State) (h : Memory.wf s.mem = true) :
    NextWf (execRecoveryBeginLoad path v s) := by
  simp [execRecoveryBeginLoad, h]

theorem execRecoveryData_wf (path : Path) (v : DWord) (s : State) (h : Memory.wf s.mem = true) :
    NextWf (execRecoveryData path v s) := by
  simp [execRecoveryData, h]

theorem execRecoveryEndLoad_wf (path : Path) (v : Word) (ok : Bool) (s : State) (h : Memory.wf s.mem = true) :
    NextWf (execRecoveryEndLoad path v ok s) := by
  simp [execRecoveryEndLoad, h]

theorem execRequestAccept_wf (die core : Nat) (s : State) (h : Memory.wf s.mem = true) :
    NextWf (execRequestAccept die core s) := by
  simp only [execRequestAccept]
  (repeat' split) <;> simp [h]

theorem execTransferLanding_wf (x : Nat) (s : State) (h : Memory.wf s.mem = true) :
    NextWf (execTransferLanding x s) := by
  unfold execTransferLanding
  (repeat' split) <;> simp [h]

/-- What follows the status word of a request keeps memory canonical. -/
theorem endRequest_wf (r : Nat) (q : Request) (s : State) (h : Memory.wf s.mem = true) :
    NextWf (
      let s := match q.tile with
        | none => s
        | some (n, fill) => modTile s q.tid n fun t => { t with state := if fill then 2 else 0 }
      .next (countBytes { s with requests := s.requests.filter (·.id != r) } q.tid (q.total - q.counted) q.orphan q.bar)) := by
  rw [nextWf_next]
  refine countBytes_wf _ _ _ _ _ ?_
  split
  · exact h
  · simpa using h

theorem execRequestStatusWrite_wf (r : Nat) (s : State) (h : Memory.wf s.mem = true) :
    NextWf (execRequestStatusWrite r s) := by
  unfold execRequestStatusWrite
  split
  · simpa using h
  · next q _ => exact endRequest_wf r q _ (bankWrite_wf _ _ _ _ _ (by simpa using h))

theorem execRegisterWrite_wf (path : Path) (bar : Bar) (vf off : Nat) (v : DWord) (s : State)
    (h : Memory.wf s.mem = true) : NextWf (execRegisterWrite path bar vf off v s) := by
  unfold execRegisterWrite
  split <;> simp [h]

theorem execDeniedWindowRead_wf (path : Path) (bar : Bar) (vf off : Nat) (s : State)
    (h : Memory.wf s.mem = true) : NextWf (execDeniedWindowRead path bar vf off s) := by
  unfold execDeniedWindowRead
  split <;> simp [h]

theorem LaneStep.MemHas.ite {q : List Host.Cell → Prop} {c : Prop} [Decidable c] {a b : LaneStep}
    (ha : a.MemHas q)
    (hb : b.MemHas q) : (if c then a else b).MemHas q := by
  split
  · exact ha
  · exact hb

theorem execNop_wf (g : Guard) (s : State) (h : Memory.wf s.mem = true) : NextWf (execNop g s) :=
  plainLanes_wf _ _ _ _ (fun _ _ _ _ h => h) h

theorem execYield_wf (g : Guard) (s : State) (h : Memory.wf s.mem = true) : NextWf (execYield g s) :=
  plainLanes_wf _ _ _ _ (fun _ _ _ _ h => h) h

theorem execSleep_wf (g : Guard) (n : BitVec 20) (s : State) (h : Memory.wf s.mem = true) :
    NextWf (execSleep g n s) := by
  refine plainLanes_wf _ _ _ _ (fun c e l s h => ?_) h
  split <;> exact h

theorem execWaitf_wf (g : Guard) (mask : BitVec 12) (s : State) (h : Memory.wf s.mem = true) :
    NextWf (execWaitf g mask s) := by
  refine plainLanes_wf _ _ _ _ (fun c e l s h => ?_) h
  split <;> exact h

theorem execTrap_wf (g : Guard) (n : BitVec 16) (s : State) (h : Memory.wf s.mem = true) :
    NextWf (execTrap g n s) :=
  plainLanes_wf _ _ _ _ (fun _ _ _ _ _ => trivial) h

theorem execExit_wf (g : Guard) (s : State) (h : Memory.wf s.mem = true) : NextWf (execExit g s) := by
  refine withCur_wf _ _ (fun c e => settleGroup_wf _ _ ?_) h
  refine takeExits_wf _ _ _ ?_
  simp only [foldl_modLane_mem, countEvent_mem]
  split
  · exact h
  · exact drainGroup_wf _ _ _ h

theorem execRte_wf (g : Guard) (kill : Bool) (s : State) (h : Memory.wf s.mem = true) :
    NextWf (execRte g kill s) := by
  refine withCur_wf _ _ (fun c e => ?_) h
  split
  · simpa using h
  · simp only
    refine settleGroup_wf _ _ ?_
    rw [modGroup_mem]
    refine takeExits_wf _ _ _ ?_
    exact foldLanes_mem (q := (Memory.wf · = true)) _ _ _ _ _ (fun l s h => rteStep_mem _ _ _ _ h) h

theorem execEnterHeader_wf (s : State) (h : Memory.wf s.mem = true) : NextWf (execEnterHeader s) := by
  refine withCur_wf _ _ (fun c e => ?_) h
  rw [stopHeld_mem]
  exact settleGroup_wf _ _ (foldl_wf _ _ _ (fun s l h => by simpa using h) h)

theorem execUnassignedOpcode_wf (g : Guard) (_op : Byte) (s : State) (h : Memory.wf s.mem = true) :
    NextWf (execUnassignedOpcode g _op s) := withCur_wf _ _ (fun _ _ => by simpa using h) h

theorem execElect_wf (g : Guard) (rot : Bool) (p : PredIx) (s : State) (h : Memory.wf s.mem = true) :
    NextWf (execElect g rot p s) := withCur_wf _ _ (fun _ _ => crossAt_wf _ _ _ _ _ _ _ h) h

theorem execLds_wf (g : Guard) (m : MemOp) (s : State) (h : Memory.wf s.mem = true) :
    NextWf (execLds g m s) := by
  refine withCur_wf _ _ (fun c e => plansAt_wf _ _ _ _ _ _ _ _ (fun xs s h => ?_) h) h
  simpa using beforeLoads_wf _ _ _ _ _ h

theorem execSts_wf (g : Guard) (m : MemOp) (s : State) (h : Memory.wf s.mem = true) :
    NextWf (execSts g m s) := by
  refine withCur_wf _ _ (fun c e => plansAt_wf _ _ _ _ _ _ _ _ (fun xs s h => ?_) h) h
  rw [clearPoison_mem]
  refine foldl_wf _ _ _ (fun s x h => bankWrite_wf _ _ _ _ _ h) ?_
  split
  · exact releaseGroup_wf _ _ _ h
  · exact drainGroup_wf _ _ _ h

theorem execFence_wf (g : Guard) (kind : FenceKind) (_scope : Scope) (_spc : BitVec 4) (s : State)
    (h : Memory.wf s.mem = true) :
    NextWf (execFence g kind _scope _spc s) := by
  refine withCur_wf _ _ (fun c e => ?_) h
  refine foldLanes_mem (q := (Memory.wf · = true)) _ _ _ _ _ (fun _ _ h => h) ?_
  split
  · exact h
  · split
    · exact drainGroup_wf _ _ _ h
    · exact releaseGroup_wf _ _ _ h

theorem execBarinit_wf (g : Guard) (a : Reg) (n : BitVec 13) (s : State) (h : Memory.wf s.mem = true) :
    NextWf (execBarinit g a n s) := by
  refine barOp_wf _ _ _ _ _ _ _ (fun c e l rd key b s h => ?_) h
  split
  · trivial
  · exact barWrite_wf _ _ _ h

theorem execBararr_wf (g : Guard) (grp : Bool) (a : Reg) (s : State) (h : Memory.wf s.mem = true) :
    NextWf (execBararr g grp a s) := by
  refine barOp_wf _ _ _ _ _ _ _ (fun c e l rd key b s h => ?_) (drainCur_wf s h)
  split
  · trivial
  · split
    · exact h
    · split
      · trivial
      · exact barWrite_wf _ _ _ h

theorem execBarinv_wf (g : Guard) (a : Reg) (s : State) (h : Memory.wf s.mem = true) :
    NextWf (execBarinv g a s) := by
  refine barOp_wf _ _ _ _ _ _ _ (fun c e l rd key b s h => ?_) h
  split
  · trivial
  · simpa [LaneStep.MemHas] using barWrite_wf _ _ _ h

theorem execBarwait_wf (g : Guard) (p : PredIx) (a : Reg) (x : Gen) (s : State) (h : Memory.wf s.mem = true) :
    NextWf (execBarwait g p a x s) := by
  refine barOp_wf _ _ _ _ _ _ _ (fun c e l rd key b s h => ?_) h
  simp only
  split
  · exact h
  · split
    · exact h
    · exact barWrite_wf _ _ _ h

theorem execBartest_wf (g : Guard) (p : PredIx) (a : Reg) (x : Gen) (rg : Bool) (cr : Reg) (s : State)
    (h : Memory.wf s.mem = true) :
    NextWf (execBartest g p a x rg cr s) := barOp_wf _ _ _ _ _ _ _ (fun _ _ _ _ _ _ _ h => h) h

theorem execBararrMb_wf (g : Guard) (n : BitVec 4) (s : State) (h : Memory.wf s.mem = true) :
    NextWf (execBararrMb g n s) := by
  have hs := releaseCur_wf s h
  refine withCur_wf _ _ (fun c e => ?_) hs
  refine foldLanes_mem (q := (Memory.wf · = true)) _ _ _ _ _ (fun _ _ h => h) ?_
  split <;> exact hs

theorem execBarwaitMb_wf (g : Guard) (p : PredIx) (n : BitVec 4) (s : State) (h : Memory.wf s.mem = true) :
    NextWf (execBarwaitMb g p n s) := by
  have hset : ∀ s v c e, Memory.wf s.mem = true →
      Memory.wf (foldLanes s c e g fun l s => .ok (modLane s c.gid l (wrPred · p v))).mem = true := fun s v c e h =>
    foldLanes_mem (q := (Memory.wf · = true)) _ _ _ _ _ (fun _ _ h => h) h
  refine withCur_wf _ _ (fun c e => ?_) h
  simp only
  split
  · simpa using h
  · split
    · exact foldLanes_mem (q := (Memory.wf · = true)) _ _ _ _ _ (fun _ _ h => h) h
    · split
      · exact hset _ _ _ _ h
      · split
        · exact hset _ _ _ _ h
        · simpa using h

theorem execFeclr_wf (g : Guard) (set : Bool) (a b : Reg) (s : State) (h : Memory.wf s.mem = true) :
    NextWf (execFeclr g set a b s) := by
  refine runLanes_wf _ _ _ _ (fun c e l rd t s h => ?_) (drainCur_wf s h)
  simp only
  split
  · trivial
  · simpa [LaneStep.MemHas] using h

theorem execFewait_wf (g : Guard) (a b : Reg) (s : State) (h : Memory.wf s.mem = true) :
    NextWf (execFewait g a b s) := by
  refine withCur_wf _ _ (fun c e => ?_) h
  simp only
  split
  · simpa using h
  · refine foldLanes_mem (q := (Memory.wf · = true)) _ _ _ _ _ (fun l s h => ?_) (settleStreams_wf _ _ _ _ _ h)
    refine withOperands_mem _ _ _ _ _ _ _ (fun rd t => ?_) h
    split
    · trivial
    · split <;> exact h

theorem execAcopy_wf (g : Guard) (x : CopyOp) (_nt raw : Bool) (s : State) (h : Memory.wf s.mem = true) :
    NextWf (execAcopy g x _nt raw s) := by
  refine withCur_wf _ _ (fun c e => plansAt_wf _ _ _ _ _ _ _ _ (fun xs s h => ?_) h) h
  simpa using landNow_wf _ _ _ _ _ _ (drainGroup_wf _ _ _ h)

theorem execTileq_wf (g : Guard) (d a : Reg) (s : State) (h : Memory.wf s.mem = true) :
    NextWf (execTileq g d a s) := by
  refine runLanes_wf _ _ _ _ (fun c e l rd t s h => ?_) h
  split
  · trivial
  · exact h

theorem execTilest_wf (g : Guard) (x : TileSt) (s : State) (h : Memory.wf s.mem = true) :
    NextWf (execTilest g x s) := by
  refine withCur_wf _ _ (fun c e => ?_) h
  split <;> exact uniformAt_wf _ _ _ _ _ _ _ (fun _ _ _ h => tileStep_mem _ _ _ _ h) h

theorem execQpush_wf (g : Guard) (q : BitVec 3) (all cred : Bool) (a : Reg) (s : State)
    (h : Memory.wf s.mem = true) :
    NextWf (execQpush g q all cred a s) := by
  have hs := releaseCur_wf s h
  refine withCur_wf _ _ (fun c e => queueAt_wf _ _ _ _ _ ?_ hs) hs
  split
  · exact uniformAt_wf _ _ _ _ _ _ _ (fun _ _ _ h => queueStep_mem _ _ _ _ _ _ _ _ (fun _ => h) h) hs
  · exact allForm_wf _ _ _ _ _ _ _ _ _ _ _ hs
  · refine uniformAt_wf _ _ _ _ _ _ _ (fun _ _ _ h => ?_) hs
    split
    · trivial
    · exact h
  · exact allForm_wf _ _ _ _ _ _ _ _ _ _ _ hs

theorem execQpop_wf (g : Guard) (q : BitVec 3) (all keep : Bool) (d : Reg) (s : State)
    (h : Memory.wf s.mem = true) :
    NextWf (execQpop g q all keep d s) := by
  refine withCur_wf _ _ (fun c e => queueAt_wf _ _ _ _ _ ?_ h) h
  split
  · exact allForm_wf _ _ _ _ _ _ _ _ _ _ _ h
  · exact uniformAt_wf _ _ _ _ _ _ _ (fun _ _ _ h => queueStep_mem _ _ _ _ _ _ _ _ (fun _ => h) h) h

theorem execQtry_wf (g : Guard) (q : BitVec 3) (p : PredIx) (x : QTry) (s : State)
    (h : Memory.wf s.mem = true) :
    NextWf (execQtry g q p x s) := by
  have hs := releaseCur_wf s h
  refine withCur_wf _ _ (fun c e => ?_) hs
  simp only
  split <;>
  · refine uniformAt_wf _ _ _ _ _ _ _ (fun _ _ _ h => ?_) hs
    split
    · trivial
    · split <;> exact h

theorem execTlread_wf (g : Guard) (_sc : Scope) (acq iss h ss : Bool) (d a : Reg) (s : State)
    (hm : Memory.wf s.mem = true) :
    NextWf (execTlread g _sc acq iss h ss d a s) := by
  refine longOp_wf _ _ _ (fun c e flag => ?_) hm
  refine plansAt_wf _ _ _ _ _ _ _ _ (fun xs s h => ?_) (drainGroup_wf _ _ _ hm)
  rw [issueOp_mem]
  refine foldl_fst_wf _ _ _ (fun acc x h => ?_) ?_
  · split <;> simpa using h
  · rw [foldl_mem _ _ _ fun s y => touchFrame_mem s _ _, meetUpsets_mem]
    exact h

theorem execNcopy_wf (g : Guard) (x : CopyOp) (sealing : Bool) (s : State) (h : Memory.wf s.mem = true) :
    NextWf (execNcopy g x sealing s) := by
  refine withCur_wf _ _ (fun c e => plansAt_wf _ _ _ _ _ _ _ _ (fun xs s h => ?_) h) h
  simp only
  split <;> exact foldl_fst_wf _ _ _ (fun _ _ h => h) h

theorem execLdio_wf (g : Guard) (m : MemOp) (s : State) (h : Memory.wf s.mem = true) :
    NextWf (execLdio g m s) := by
  refine longOp_wf _ _ _ (fun c e flag => plansAt_wf _ _ _ _ _ _ _ _ (fun xs s h => ?_) h) h
  simpa using drainGroup_wf _ _ _ h

theorem execStio_wf (g : Guard) (m : MemOp) (s : State) (h : Memory.wf s.mem = true) :
    NextWf (execStio g m s) := by
  refine longOp_wf _ _ _ (fun c e flag => plansAt_wf _ _ _ _ _ _ _ _ (fun xs s h => ?_) h) h
  simp only [issueOp_mem]
  rw [foldl_mem _ _ _ fun s x => iosStore_mem s _ _ _]
  split
  · exact releaseGroup_wf _ _ _ h
  · exact drainGroup_wf _ _ _ h

theorem execEnq_wf (g : Guard) (p : PredIx) (a b : Reg) (s : State) (h : Memory.wf s.mem = true) :
    NextWf (execEnq g p a b s) := by
  have hs := releaseCur_wf s h
  refine withCur_wf _ _ (fun c e => ?_) hs
  simp only [forgetWalks_mem]
  refine uniformAt_wf _ _ _ _ _ _ _ (fun act rd s h => ?_) hs
  refine uniformGlb_mem (q := (Memory.wf · = true)) _ _ _ _ _ _ _ (fun s key h => ?_) h
  refine enqRecord_mem _ _ _ _ _ ?_
  split
  · simpa using h
  · exact h

theorem execMigr_wf (g : Guard) (try_ : Bool) (p : PredIx) (a : Reg) (s : State) (h : Memory.wf s.mem = true) :
    NextWf (execMigr g try_ p a s) := by
  refine withCur_wf _ _ (fun c e => ?_) h
  have hs := settleStreams_wf s c e g [src true a] h
  simp only
  split
  · simpa using h
  · split
    · exact foldLanes_mem (q := (Memory.wf · = true)) _ _ _ _ _ (fun _ _ h => h) h
    · split
      · simpa using h
      · split
        · simpa using h
        · split
          · simpa using h
          · split
            · split
              · simpa using hs
              · simpa using hs
              · exact migrAt_wf _ _ _ _ _ _ _ _ _ _ hs hs
            · exact hs

theorem execSysr_wf (g : Guard) (d : Reg) (n : BitVec 12) (s : State) (h : Memory.wf s.mem = true) :
    NextWf (execSysr g d n s) := by
  refine withCur_wf _ _ (fun c e => ?_) h
  split
  · simpa using h
  · simp only
    split
    · simpa using h
    · refine foldLanes_mem (q := (Memory.wf · = true)) _ _ _ _ _ (fun l s h => ?_) h
      refine withOperands_mem _ _ _ _ _ _ _ (fun rd t => ?_) h
      split
      · trivial
      · exact h

theorem execSysw_wf (g : Guard) (a : Reg) (n : BitVec 12) (s : State) (h : Memory.wf s.mem = true) :
    NextWf (execSysw g a n s) := by
  refine withCur_wf _ _ (fun c e => ?_) h
  split
  · simpa using h
  · simp only
    split
    · simpa using h
    · refine foldLanes_mem (q := (Memory.wf · = true)) _ _ _ _ _ (fun l s h => ?_) (settleStreams_wf _ _ _ _ _ h)
      refine withOperands_mem _ _ _ _ _ _ _ (fun rd t => ?_) h
      exact .ite trivial (.ite trivial (by simpa [LaneStep.MemHas] using h))

theorem execCntr_wf (g : Guard) (d : Reg) (ev : BitVec 4) (s : State) (h : Memory.wf s.mem = true) :
    NextWf (execCntr g d ev s) := by
  refine withCur_wf _ _ (fun c e => ?_) h
  simp only
  split
  · simpa using h
  · refine foldLanes_mem (q := (Memory.wf · = true)) _ _ _ _ _ (fun l s h => ?_) h
    exact withOperands_mem _ _ _ _ _ _ _ (fun rd t => h) h

theorem execSvc_wf (g : Guard) (p : PredIx) (n : BitVec 16) (s : State) (h : Memory.wf s.mem = true) :
    NextWf (execSvc g p n s) := by
  have hs := releaseCur_wf s h
  refine withCur_wf _ _ (fun c e => ?_) hs
  simp only [forgetWalks_mem]
  refine uniformAt_wf _ _ _ _ _ _ _ (fun act rd s h => ?_) hs
  split
  · exact h
  · refine uniformGlb_mem (q := (Memory.wf · = true)) _ _ _ _ _ _ _ (fun s key h => ?_) h
    refine svcAt_wf _ _ _ _ _ _ ?_
    split
    · simpa using h
    · exact h

theorem execKick_wf (g : Guard) (a b : Reg) (s : State) (h : Memory.wf s.mem = true) :
    NextWf (execKick g a b s) := by
  have hs := releaseCur_wf s h
  refine withCur_wf _ _ (fun c e => ?_) hs
  split
  · exact h
  · refine uniformAt_wf _ _ _ _ _ _ _ (fun act rd s h => ?_) hs
    simp only
    split
    · trivial
    · split
      · trivial
      · exact h

theorem execXspawn_wf (n : BitVec 4) (rs2 rs1 rd : BitVec 5) (s : State) (h : Memory.wf s.mem = true) :
    NextWf (execXspawn n rs2 rs1 rd s) := by
  refine withRv_wf _ _ (fun c r => ?_) h
  split
  · simpa using h
  · simpa using spawnCall_wf _ _ _ _ _ _ h

theorem execXdisp_wf (n : BitVec 4) (rs2 rs1 rd : BitVec 5) (s : State) (h : Memory.wf s.mem = true) :
    NextWf (execXdisp n rs2 rs1 rd s) := by
  refine withRv_wf _ _ (fun c r => ?_) h
  split
  · simpa using h
  · simpa using dispatchCall_wf _ _ _ _ _ _ _ h

theorem execGetDigests_wf (sess : Option Nat) (s : State) (h : Memory.wf s.mem = true) :
    NextWf (execGetDigests sess s) := onSpdm_wf _ _ _ (fun _ h => by simpa using h) h

theorem execGetMeasurements_wf (sess : Option Nat) (index : Nat) (s : State) (h : Memory.wf s.mem = true) :
    NextWf (execGetMeasurements sess index s) := by
  refine onSpdm_wf _ _ _ (fun s h => ?_) h
  split <;> simpa using h

theorem execKeyExchange_wf (req : Nat) (s : State) (h : Memory.wf s.mem = true) :
    NextWf (execKeyExchange req s) := by
  refine onSpdm_wf _ _ _ (fun s h => ?_) h
  split <;> simpa using h

theorem execHeartbeat_wf (sess : Nat) (s : State) (h : Memory.wf s.mem = true) :
    NextWf (execHeartbeat sess s) :=
  inSession_wf _ _ _ (fun _ => by simpa using h) h

theorem execEndSession_wf (sess : Nat) (s : State) (h : Memory.wf s.mem = true) :
    NextWf (execEndSession sess s) :=
  inSession_wf _ _ _ (fun _ => by simpa using h) h

theorem execFinish_wf (sess : Nat) (s : State) (h : Memory.wf s.mem = true) : NextWf (execFinish sess s) := by
  refine inSession_wf _ _ _ (fun x => ?_) h
  simp only [reply_mem, modSession_mem]
  split
  · split <;> simpa using h
  · exact h

theorem execKeyUpdate_wf (sess : Nat) (s : State) (h : Memory.wf s.mem = true) :
    NextWf (execKeyUpdate sess s) := by
  refine inSession_wf _ _ _ (fun x => ?_) h
  split
  · simp only [reply_mem, modSession_mem]
    split <;> simpa using h
  · simpa using h

theorem execIdeKm_wf (sess stream : Nat) (s : State) (h : Memory.wf s.mem = true) :
    NextWf (execIdeKm sess stream s) := by
  refine inSession_wf _ _ _ (fun x => ?_) h
  split <;> simpa using h

theorem execBind_wf (sess : Nat) (r : BindReq) (s : State) (h : Memory.wf s.mem = true) :
    NextWf (execBind sess r s) := by
  refine inSession_wf _ _ _ (fun x => ?_) h
  split
  · simpa using h
  · simp only
    split
    · simpa using h
    · simp only [reply_mem, postMail_mem, postUpdate_mem]
      split
      · exact fixQueue_wf _ _ (by simpa using h)
      · simpa using h

theorem execDepart_wf (sess asid : Nat) (s : State) (h : Memory.wf s.mem = true) :
    NextWf (execDepart sess asid s) :=
  onBound_wf _ _ _ _ (fun _ => by simpa using departContext_wf s asid h) h

theorem execSealCode_wf (sess asid : Nat) (ranges : List (Nat × Nat)) (s : State) (h : Memory.wf s.mem = true) :
    NextWf (execSealCode sess asid ranges s) := by
  refine onBound_wf _ _ _ _ (fun c => ?_) h
  simp only
  split
  · simpa using h
  · have hr : Memory.wf (readPages c ((sortRanges ranges).flatMap rangePages) s).1.mem = true := by simpa using h
    split <;> next heq =>
      rw [heq] at hr
      simpa using hr

theorem execGetNotice_wf (sess asid : Nat) (s : State) (h : Memory.wf s.mem = true) :
    NextWf (execGetNotice sess asid s) := onBound_wf _ _ _ _ (fun _ => by simpa using h) h

theorem execGetCounts_wf (sess asid : Nat) (s : State) (h : Memory.wf s.mem = true) :
    NextWf (execGetCounts sess asid s) := by
  refine inSession_wf _ _ _ (fun x => ?_) h
  split
  · split
    · simpa using h
    · simp only [reply_mem]
      split <;> simpa using h
  · simpa using h

theorem execLaunchCommand_wf (vf q : Nat) (s : State) (h : Memory.wf s.mem = true) :
    NextWf (execLaunchCommand vf q s) := workCmd_wf _ _ _ _ _ (fun _ _ _ h => createGrid_wf _ _ _ _ _ h) h

theorem execWaitCommand_wf (vf q : Nat) (s : State) (h : Memory.wf s.mem = true) :
    NextWf (execWaitCommand vf q s) :=
  workCmd_wf _ _ _ _ _ (fun _ _ _ h => finishCmd_wf _ _ _ _ _ h) h

theorem execNopCommand_wf (vf q : Nat) (s : State) (h : Memory.wf s.mem = true) :
    NextWf (execNopCommand vf q s) :=
  workCmd_wf _ _ _ _ _ (fun _ _ _ h => finishCmd_wf _ _ _ _ _ h) h

theorem execMbwait_wf (n : BitVec 4) (s : State) (h : Memory.wf s.mem = true) : NextWf (execMbwait n s) := by
  refine seqOp_wf _ _ (fun e next => ?_) h
  simp only
  split
  · exact h
  · trivial

theorem execMloop_wf (count : BitVec 16) (s : State) (h : Memory.wf s.mem = true) :
    NextWf (execMloop count s) := by
  refine seqOp_wf _ _ (fun e next => ?_) h
  split
  · trivial
  · exact h

theorem execMend_wf (s : State) (h : Memory.wf s.mem = true) : NextWf (execMend s) := by
  refine seqOp_wf _ _ (fun e next => ?_) h
  split
  · exact h
  · split <;> exact h

theorem execMsetq_wf (c0 : BitVec 6) (cn : BitVec 7) (q : DWord) (s : State) (h : Memory.wf s.mem = true) :
    NextWf (execMsetq c0 cn q s) := by
  refine seqOp_wf _ _ (fun e next => ?_) h
  split
  · trivial
  · exact h

theorem execMldu_wf (ud : BitVec 3) (addr : BitVec 16) (s : State) (h : Memory.wf s.mem = true) :
    NextWf (execMldu ud addr s) := by
  refine seqOp_wf _ _ (fun e next => ?_) h
  simp only
  split
  · trivial
  · exact h

theorem execIaddc_wf (g : Guard) (w64 : Bool) (d a b : Reg) (p : PredIx) (s : State)
    (h : Memory.wf s.mem = true) :
    NextWf (execIaddc g w64 d a b p s) := alu_wf _ _ _ _ h

theorem execIsubc_wf (g : Guard) (w64 : Bool) (d a b : Reg) (p : PredIx) (s : State)
    (h : Memory.wf s.mem = true) :
    NextWf (execIsubc g w64 d a b p s) := alu_wf _ _ _ _ h

theorem execPopc_wf (g : Guard) (ty : ITy) (d a : Reg) (s : State) (h : Memory.wf s.mem = true) :
    NextWf (execPopc g ty d a s) := alu_wf _ _ _ _ h

theorem execClz_wf (g : Guard) (ty : ITy) (d a : Reg) (s : State) (h : Memory.wf s.mem = true) :
    NextWf (execClz g ty d a s) := alu_wf _ _ _ _ h

theorem execShf_wf (g : Guard) (left : Bool) (d a b c : Reg) (s : State) (h : Memory.wf s.mem = true) :
    NextWf (execShf g left d a b c s) := alu_wf _ _ _ _ h

theorem execLea_wf (g : Guard) (sgn : Bool) (sh : BitVec 4) (d a b : Reg) (s : State)
    (h : Memory.wf s.mem = true) :
    NextWf (execLea g sgn sh d a b s) := alu_wf _ _ _ _ h

theorem execMovi_wf (g : Guard) (w64 : Bool) (d : Reg) (imm : BitVec 20) (s : State)
    (h : Memory.wf s.mem = true) :
    NextWf (execMovi g w64 d imm s) := alu_wf _ _ _ _ h

theorem execPset_wf (g : Guard) (op : BOp) (na nb : Bool) (d a b : PredIx) (s : State)
    (h : Memory.wf s.mem = true) :
    NextWf (execPset g op na nb d a b s) := alu_wf _ _ _ _ h

theorem execLit_wf (g : Guard) (w32 : Bool) (d : Reg) (v : DWord) (s : State) (h : Memory.wf s.mem = true) :
    NextWf (execLit g w32 d v s) := alu_wf _ _ _ _ h

theorem execCvt_wf (g : Guard) (dt st : CTy) (m : FMod) (d a : Reg) (s : State) (h : Memory.wf s.mem = true) :
    NextWf (execCvt g dt st m d a s) := alu_wf _ _ _ _ h

theorem execPack_wf (g : Guard) (t : FTy) (m : FMod) (k : BitVec 2) (d a b : Reg) (s : State)
    (h : Memory.wf s.mem = true) :
    NextWf (execPack g t m k d a b s) := alu_wf _ _ _ _ h

theorem execUnpack_wf (g : Guard) (t : FTy) (ftz : Bool) (k : BitVec 2) (d a : Reg) (s : State)
    (h : Memory.wf s.mem = true) :
    NextWf (execUnpack g t ftz k d a s) := alu_wf _ _ _ _ h

theorem execMaddmR_wf (g : Guard) (d a b c : Reg) (s : State) (h : Memory.wf s.mem = true) :
    NextWf (execMaddmR g d a b c s) := modOp_wf _ _ _ _ _ _ h

theorem execMsubmR_wf (g : Guard) (d a b c : Reg) (s : State) (h : Memory.wf s.mem = true) :
    NextWf (execMsubmR g d a b c s) := modOp_wf _ _ _ _ _ _ h

theorem execMmulmR_wf (g : Guard) (d a b c : Reg) (s : State) (h : Memory.wf s.mem = true) :
    NextWf (execMmulmR g d a b c s) := modOp_wf _ _ _ _ _ _ h

theorem execMmacmR_wf (g : Guard) (d a b c : Reg) (s : State) (h : Memory.wf s.mem = true) :
    NextWf (execMmacmR g d a b c s) := modOp_wf _ _ _ _ _ _ h

theorem execMredR_wf (g : Guard) (wide : Bool) (d a c : Reg) (s : State) (h : Memory.wf s.mem = true) :
    NextWf (execMredR g wide d a c s) := modOp_wf _ _ _ _ _ _ h

theorem execBflyR_wf (g : Guard) (gs : Bool) (d a b c : Reg) (s : State) (h : Memory.wf s.mem = true) :
    NextWf (execBflyR g gs d a b c s) := modOp_wf _ _ _ _ _ _ h

theorem execMaddmL_wf (g : Guard) (d a b : Reg) (q : DWord) (s : State) (h : Memory.wf s.mem = true) :
    NextWf (execMaddmL g d a b q s) := modOp_wf _ _ _ _ _ _ h

theorem execMsubmL_wf (g : Guard) (d a b : Reg) (q : DWord) (s : State) (h : Memory.wf s.mem = true) :
    NextWf (execMsubmL g d a b q s) := modOp_wf _ _ _ _ _ _ h

theorem execMmulmL_wf (g : Guard) (d a b : Reg) (q : DWord) (s : State) (h : Memory.wf s.mem = true) :
    NextWf (execMmulmL g d a b q s) := modOp_wf _ _ _ _ _ _ h

theorem execMmacmL_wf (g : Guard) (d a b : Reg) (q : DWord) (s : State) (h : Memory.wf s.mem = true) :
    NextWf (execMmacmL g d a b q s) := modOp_wf _ _ _ _ _ _ h

theorem execMredL_wf (g : Guard) (wide : Bool) (d a : Reg) (q : DWord) (s : State)
    (h : Memory.wf s.mem = true) :
    NextWf (execMredL g wide d a q s) := modOp_wf _ _ _ _ _ _ h

theorem execBflyL_wf (g : Guard) (gs : Bool) (d a b : Reg) (q : DWord) (s : State)
    (h : Memory.wf s.mem = true) :
    NextWf (execBflyL g gs d a b q s) := modOp_wf _ _ _ _ _ _ h

theorem execMatchv_wf (g : Guard) (m : MatchMode) (w64 : Bool) (d a : Reg) (s : State)
    (h : Memory.wf s.mem = true) :
    NextWf (execMatchv g m w64 d a s) := crossOp_wf _ _ _ _ h

theorem execMnop_wf (s : State) (h : Memory.wf s.mem = true) : NextWf (execMnop s) :=
  seqOp_wf _ _ (fun _ _ => h) h

theorem execMbsig_wf (n : BitVec 4) (s : State) (h : Memory.wf s.mem = true) : NextWf (execMbsig n s) :=
  seqOp_wf _ _ (fun _ _ => h) h

theorem execPmark_wf (tmask : BitVec 16) (bmask : BitVec 4) (s : State) (h : Memory.wf s.mem = true) :
    NextWf (execPmark tmask bmask s) := seqOp_wf _ _ (fun _ _ => h) h

theorem execMfence_wf (s : State) (h : Memory.wf s.mem = true) : NextWf (execMfence s) :=
  seqOp_wf _ _ (fun _ _ => h) h

theorem execMfmt_wf (mode : RMode) (sat : Bool) (s : State) (h : Memory.wf s.mem = true) :
    NextWf (execMfmt mode sat s) :=
  seqOp_wf _ _ (fun _ _ => h) h

theorem execMzero_wf (kind : MKind) (mt : BitVec 4) (s : State) (h : Memory.wf s.mem = true) :
    NextWf (execMzero kind mt s) := seqOp_wf _ _ (fun _ _ => h) h

theorem execMldb_wf (x : MldbOp) (s : State) (h : Memory.wf s.mem = true) : NextWf (execMldb x s) :=
  seqOp_wf _ _ (fun _ _ => mldbStep_mem (q := (Memory.wf · = true)) _ _ _ h) h

theorem execMlda_wf (kind : MKind) (mt : BitVec 4) (x : MRange) (s : State) (h : Memory.wf s.mem = true) :
    NextWf (execMlda kind mt x s) :=
  seqOp_wf _ _ (fun _ _ => mldaStep_mem (q := (Memory.wf · = true)) _ _ _ _ _ h) h

theorem execMst_wf (ec : ECode) (mt : BitVec 4) (x : MRange) (s : State) (h : Memory.wf s.mem = true) :
    NextWf (execMst ec mt x s) :=
  seqOp_wf _ _ (fun _ _ => mstStep_wf _ _ _ _ _ h) h

theorem execMcopy_wf (mt src : BitVec 4) (s : State) (h : Memory.wf s.mem = true) :
    NextWf (execMcopy mt src s) :=
  seqOp_wf _ _ (fun _ _ => tileMap_mem (q := (Memory.wf · = true)) _ _ _ _ _ h) h

theorem execMtrn_wf (mt src : BitVec 4) (s : State) (h : Memory.wf s.mem = true) : NextWf (execMtrn mt src s) :=
  seqOp_wf _ _ (fun _ _ => tileMap_mem (q := (Memory.wf · = true)) _ _ _ _ _ h) h

theorem execMcvt_wf (toI32 : Bool) (mt : BitVec 4) (s : State) (h : Memory.wf s.mem = true) :
    NextWf (execMcvt toI32 mt s) :=
  seqOp_wf _ _ (fun _ _ => mcvtStep_mem (q := (Memory.wf · = true)) _ _ _ _ h) h

theorem execMma_wf (x : MmaOp) (af bf : ECode) (s : State) (h : Memory.wf s.mem = true) :
    NextWf (execMma x af bf s) :=
  seqOp_wf _ _ (fun _ _ => mmaStep_mem (q := (Memory.wf · = true)) _ _ _ _ _ h) h

theorem execMpma_wf (x : MmaOp) (af : ECode) (mid : Bool) (s : State) (h : Memory.wf s.mem = true) :
    NextWf (execMpma x af mid s) :=
  seqOp_wf _ _ (fun _ _ => mpmaStep_mem (q := (Memory.wf · = true)) _ _ _ _ _ h) h

theorem execMmodma_wf (x : MmaOp) (s : State) (h : Memory.wf s.mem = true) : NextWf (execMmodma x s) :=
  seqOp_wf _ _ (fun _ _ => mmodmaStep_mem (q := (Memory.wf · = true)) _ _ _ h) h

theorem execMntt_wf (x : NttOp) (s : State) (h : Memory.wf s.mem = true) : NextWf (execMntt x s) :=
  seqOp_wf _ _ (fun _ _ => nttStep_wf _ _ _ _ h) h

theorem execMintt_wf (x : NttOp) (s : State) (h : Memory.wf s.mem = true) : NextWf (execMintt x s) :=
  seqOp_wf _ _ (fun _ _ => nttStep_wf _ _ _ _ h) h

theorem execMtadd_wf (mt src : BitVec 4) (s : State) (h : Memory.wf s.mem = true) :
    NextWf (execMtadd mt src s) :=
  seqOp_wf _ _ (fun _ _ => ewTiles_mem (q := (Memory.wf · = true)) _ _ _ _ _ h) h

theorem execMhad_wf (mt src : BitVec 4) (s : State) (h : Memory.wf s.mem = true) : NextWf (execMhad mt src s) :=
  seqOp_wf _ _ (fun _ _ => ewTiles_mem (q := (Memory.wf · = true)) _ _ _ _ _ h) h

theorem execMscl_wf (mt : BitVec 4) (v : DWord) (s : State) (h : Memory.wf s.mem = true) :
    NextWf (execMscl mt v s) :=
  seqOp_wf _ _ (fun _ _ => msclStep_mem (q := (Memory.wf · = true)) _ _ _ _ h) h

theorem execMbias_wf (mt : BitVec 4) (addr : BitVec 16) (s : State) (h : Memory.wf s.mem = true) :
    NextWf (execMbias mt addr s) :=
  seqOp_wf _ _ (fun _ _ => mbiasStep_mem (q := (Memory.wf · = true)) _ _ _ _ h) h

theorem execMclamp_wf (mt : BitVec 4) (lo hi : Word) (s : State) (h : Memory.wf s.mem = true) :
    NextWf (execMclamp mt lo hi s) :=
  seqOp_wf _ _ (fun _ _ => mclampStep_mem (q := (Memory.wf · = true)) _ _ _ _ _ h) h

theorem execMamax_wf (mt : BitVec 4) (addr : BitVec 16) (s : State) (h : Memory.wf s.mem = true) :
    NextWf (execMamax mt addr s) :=
  seqOp_wf _ _ (fun _ _ => mamaxStep_wf _ _ _ _ h) h

theorem execUnassignedMop_wf (_mop : BitVec 6) (s : State) (h : Memory.wf s.mem = true) :
    NextWf (execUnassignedMop _mop s) :=
  seqOp_wf _ _ (fun _ _ => trivial) h

theorem execXjoin_wf (rs1 rd : BitVec 5) (s : State) (h : Memory.wf s.mem = true) :
    NextWf (execXjoin rs1 rd s) :=
  counterWait_wf _ _ _ _ h

theorem execXwaitc_wf (rs2 rs1 rd : BitVec 5) (s : State) (h : Memory.wf s.mem = true) :
    NextWf (execXwaitc rs2 rs1 rd s) := counterWait_wf _ _ _ _ h

theorem execGetVersion_wf (sess : Option Nat) (s : State) (h : Memory.wf s.mem = true) :
    NextWf (execGetVersion sess s) :=
  onSpdm_wf _ _ _ (fun _ h => by simpa using h) h

theorem execGetCapabilities_wf (sess : Option Nat) (s : State) (h : Memory.wf s.mem = true) :
    NextWf (execGetCapabilities sess s) :=
  onSpdm_wf _ _ _ (fun _ h => by simpa using h) h

theorem execNegotiateAlgorithms_wf (sess : Option Nat) (s : State) (h : Memory.wf s.mem = true) :
    NextWf (execNegotiateAlgorithms sess s) :=
  onSpdm_wf _ _ _ (fun _ h => by simpa using h) h

theorem execGetCertificate_wf (sess : Option Nat) (slot : Nat) (s : State) (h : Memory.wf s.mem = true) :
    NextWf (execGetCertificate sess slot s) :=
  onSpdm_wf _ _ _ (fun _ h => by simpa using h) h

theorem execChallenge_wf (sess : Option Nat) (nonce : Nat) (s : State) (h : Memory.wf s.mem = true) :
    NextWf (execChallenge sess nonce s) :=
  onSpdm_wf _ _ _ (fun _ h => by simpa using h) h

theorem execUnsupportedRequest_wf (sess : Option Nat) (_code : Nat) (s : State) (h : Memory.wf s.mem = true) :
    NextWf (execUnsupportedRequest sess _code s) :=
  onSpdm_wf _ _ _ (fun _ h => by simpa using h) h

theorem exec_wf (i : Instr) (s : State) (h : Memory.wf s.mem = true) : NextWf (exec i s) := by
  cases i
  case nop => exact execNop_wf _ _ h
  case bra | brx | callI | callR | ret => exact transferOp_wf _ _ _ _ h
  case exit => exact execExit_wf _ _ h
  case yield => exact execYield_wf _ _ h
  case sleep => exact execSleep_wf _ _ _ h
  case waitf => exact execWaitf_wf _ _ _ h
  case trap => exact execTrap_wf _ _ _ h
  case rte => exact execRte_wf _ _ _ h
  case bkpt => exact execBkpt_wf _ _ _ h
  case svc => exact execSvc_wf _ _ _ _ h
  case iaddR | isubR | iminR | imaxR | iabs | ineg | dot4R | dot2 | brev | andR | orR | xorR | not | shlR | shrR
    | bfxR | bfiR | mov | iaddI | isubI | iminI | imaxI | andI | orI | xorI | shlI | shrI | bfxI | bfiI | iaddL
    | isubL | iminL | imaxL | andL | orL | xorL | dot4L => exact intOp_wf _ _ _ _ _ _ h
  case iaddc => exact execIaddc_wf _ _ _ _ _ _ _ h
  case isubc => exact execIsubc_wf _ _ _ _ _ _ _ h
  case popc => exact execPopc_wf _ _ _ _ _ h
  case clz => exact execClz_wf _ _ _ _ _ h
  case shf => exact execShf_wf _ _ _ _ _ _ _ h
  case lea => exact execLea_wf _ _ _ _ _ _ _ h
  case movi => exact execMovi_wf _ _ _ _ _ h
  case pset => exact execPset_wf _ _ _ _ _ _ _ _ h
  case lit => exact execLit_wf _ _ _ _ _ h
  case cvt => exact execCvt_wf _ _ _ _ _ _ _ h
  case pack => exact execPack_wf _ _ _ _ _ _ _ _ h
  case unpack => exact execUnpack_wf _ _ _ _ _ _ _ h
  case imulR | imadR | imulI | imulL | imadL => exact mulOp_wf _ _ _ _ _ _ _ _ _ _ h
  case lop3Lo | lop3Hi => exact lop3Op_wf _ _ _ _ _ _ _ h
  case selR | selI | selL => exact selOp_wf _ _ _ _ _ _ _ _ h
  case sbind => exact execSbind_wf _ _ _ h
  case isetI | isetR | isetL => exact isetOp_wf _ _ _ _ _ _ _ h
  case pmov => exact execPmov_wf _ _ _ h
  case maddmR => exact execMaddmR_wf _ _ _ _ _ _ h
  case msubmR => exact execMsubmR_wf _ _ _ _ _ _ h
  case mmulmR => exact execMmulmR_wf _ _ _ _ _ _ h
  case mmacmR => exact execMmacmR_wf _ _ _ _ _ _ h
  case mredR => exact execMredR_wf _ _ _ _ _ _ h
  case bflyR => exact execBflyR_wf _ _ _ _ _ _ _ h
  case maddmL => exact execMaddmL_wf _ _ _ _ _ _ h
  case msubmL => exact execMsubmL_wf _ _ _ _ _ _ h
  case mmulmL => exact execMmulmL_wf _ _ _ _ _ _ h
  case mmacmL => exact execMmacmL_wf _ _ _ _ _ _ h
  case mredL => exact execMredL_wf _ _ _ _ _ _ h
  case bflyL => exact execBflyL_wf _ _ _ _ _ _ _ h
  case elect => exact execElect_wf _ _ _ _ h
  case ldg | ldp | ldc | ldh => exact loadOp_wf _ _ _ _ h
  case stg | stp | stc | sth => exact storeOp_wf _ _ _ _ h
  case lds => exact execLds_wf _ _ _ h
  case sts => exact execSts_wf _ _ _ h
  case ldio => exact execLdio_wf _ _ _ h
  case stio => exact execStio_wf _ _ _ h
  case prefGlb | prefHst => exact prefOp_wf _ _ _ h
  case fence g kind scope spc => exact execFence_wf g kind scope spc s h
  case ats | atc | atg | redc | redg => exact rmwOp_wf _ _ _ _ _ _ _ _ _ _ _ _ _ h
  case amxsCmn | amxsGlb => exact rmwOp_wf _ _ _ _ _ _ _ _ _ _ _ _ _ h
  case faddR | fsubR | fmulR | ffmaR | fminR | fmaxR | fclass | frcp | frsq | fsqrt | fex2 | flg2 | fsin | fcos
    | ftanh | faddI | fmulI | fminI | fmaxI | faddL | fsubL | fmulL | ffmaL | fminL | fmaxL | hfma2R | hadd2 | hmul2
    | hfma2L => exact fltOp_wf _ _ _ _ _ h
  case fsetR | fsetI | fsetL => exact fsetOp_wf _ _ _ _ _ _ _ _ h
  case bscale => exact execBscale_wf _ _ _ h
  case shflIdxR | shflUpR | shflDownR | shflXorR | shflIdxC | shflUpC | shflDownC | shflXorC
    => exact crossOp_wf _ _ _ _ h
  case vote => exact execVote_wf _ _ _ _ _ h
  case redux => exact execRedux_wf _ _ _ _ _ _ h
  case scan => exact execScan_wf _ _ _ _ _ _ h
  case matchv => exact execMatchv_wf _ _ _ _ _ _ h
  case acopy g x nt raw => exact execAcopy_wf g x nt raw s h
  case kick => exact execKick_wf _ _ _ _ h
  case barinit => exact execBarinit_wf _ _ _ _ h
  case barexpI | barexpR => exact barexpOp_wf _ _ _ _ _ h
  case bararr => exact execBararr_wf _ _ _ _ h
  case barwait => exact execBarwait_wf _ _ _ _ _ h
  case bartest => exact execBartest_wf _ _ _ _ _ _ _ h
  case barinv => exact execBarinv_wf _ _ _ h
  case bararrMb => exact execBararrMb_wf _ _ _ h
  case barwaitMb => exact execBarwaitMb_wf _ _ _ _ h
  case qpush => exact execQpush_wf _ _ _ _ _ _ h
  case qpop => exact execQpop_wf _ _ _ _ _ _ h
  case qtry => exact execQtry_wf _ _ _ _ _ h
  case tilest => exact execTilest_wf _ _ _ h
  case tileq => exact execTileq_wf _ _ _ _ h
  case fewait => exact execFewait_wf _ _ _ _ h
  case feclr => exact execFeclr_wf _ _ _ _ _ h
  case tlwaitR | tlwaitI => exact tlwaitOp_wf _ _ _ _ _ _ h
  case tlread g sc acq iss hs ss d a => exact execTlread_wf g sc acq iss hs ss d a s h
  case ncopy => exact execNcopy_wf _ _ _ _ h
  case enq => exact execEnq_wf _ _ _ _ _ h
  case allocGlbR | allocGlbI | allocCmnR | allocCmnI => exact allocOp_wf _ _ _ _ _ _ _ h
  case freeGlb | freeCmn => exact freeOp_wf _ _ _ _ h
  case migr => exact execMigr_wf _ _ _ _ _ h
  case contend => exact execContend_wf _ _ _ _ _ _ _ h
  case sysr => exact execSysr_wf _ _ _ _ h
  case sysw => exact execSysw_wf _ _ _ _ h
  case cntr => exact execCntr_wf _ _ _ _ h
  case mnop => exact execMnop_wf _ h
  case mbsig => exact execMbsig_wf _ _ h
  case pmark => exact execPmark_wf _ _ _ h
  case mfence => exact execMfence_wf _ h
  case mfmt => exact execMfmt_wf _ _ _ h
  case mzero => exact execMzero_wf _ _ _ h
  case mldb => exact execMldb_wf _ _ h
  case mlda => exact execMlda_wf _ _ _ _ h
  case mst => exact execMst_wf _ _ _ _ h
  case mcopy => exact execMcopy_wf _ _ _ h
  case mtrn => exact execMtrn_wf _ _ _ h
  case mcvt => exact execMcvt_wf _ _ _ h
  case mma => exact execMma_wf _ _ _ _ h
  case mpma => exact execMpma_wf _ _ _ _ h
  case mmodma => exact execMmodma_wf _ _ h
  case mntt => exact execMntt_wf _ _ h
  case mintt => exact execMintt_wf _ _ h
  case mtadd => exact execMtadd_wf _ _ _ h
  case mhad => exact execMhad_wf _ _ _ h
  case mscl => exact execMscl_wf _ _ _ h
  case mbias => exact execMbias_wf _ _ _ h
  case mclamp => exact execMclamp_wf _ _ _ _ h
  case mamax => exact execMamax_wf _ _ _ h
  case unassignedMop mop => exact execUnassignedMop_wf mop s h
  case mbwait => exact execMbwait_wf _ _ h
  case mloop => exact execMloop_wf _ _ h
  case mend => exact execMend_wf _ h
  case msetq => exact execMsetq_wf _ _ _ _ h
  case mldu => exact execMldu_wf _ _ _ h
  case xspawn => exact execXspawn_wf _ _ _ _ _ h
  case xdisp => exact execXdisp_wf _ _ _ _ _ h
  case xjoin => exact execXjoin_wf _ _ _ h
  case xwaitc => exact execXwaitc_wf _ _ _ _ h
  case xdispTaskEnd => exact execXdispTaskEnd_wf _ _ h
  case enterHeader => exact execEnterHeader_wf _ h
  case flagCompletion => exact execFlagCompletion_wf _ _ _ h
  case progressRuleRelease => exact execProgressRuleRelease_wf _ _ h
  case issueAgeLimit => exact execIssueAgeLimit_wf _ _ h
  case preemptWordLimit => exact execPreemptWordLimit_wf _ _ h
  case preemptSecondLimit => exact execPreemptSecondLimit_wf _ _ h
  case sleepExpiry => exact execSleepExpiry_wf _ _ _ h
  case exitTakesEffect => exact execExitTakesEffect_wf _ _ _ h
  case faultRecordWrite => exact execFaultRecordWrite_wf _ _ h
  case handlerEntry => exact execHandlerEntry_wf _ _ h
  case teamRetirement => exact execTeamRetirement_wf _ _ h
  case gridEndFlush => exact execGridEndFlush_wf _ _ h
  case transferLanding => exact execTransferLanding_wf _ _ h
  case bankStoreEncode => exact execBankStoreEncode_wf _ _ _ h
  case bankRmw => exact execBankRmw_wf _ _ _ h
  case requestAccept => exact execRequestAccept_wf _ _ _ h
  case requestStatusWrite => exact execRequestStatusWrite_wf _ _ h
  case ncopyAccept => exact execNcopyAccept_wf _ _ h
  case ncopyFinish => exact execNcopyFinish_wf _ _ h
  case gangPlacement => exact execGangPlacement_wf _ _ h
  case heatStart => exact execHeatStart_wf _ _ h
  case heatResult => exact execHeatResult_wf _ _ h
  case migrationResume => exact execMigrationResume_wf _ _ h
  case migrPontoonRetry => exact execMigrPontoonRetry_wf _ _ h
  case syntDiscipline => exact execSyntDiscipline_wf _ _ _ h
  case rehomeWindowEnd => exact execRehomeWindowEnd_wf _ h
  case rehomeComplete => exact execRehomeComplete_wf _ _ _ h
  case translationWalk => exact execTranslationWalk_wf _ _ h
  case frameBacking => exact execFrameBacking_wf _ h
  case commandTake => exact execCommandTake_wf _ h
  case launchCommand => exact execLaunchCommand_wf _ _ _ h
  case waitCommand => exact execWaitCommand_wf _ _ _ h
  case nopCommand => exact execNopCommand_wf _ _ _ h
  case commandAccept => exact execCommandAccept_wf _ _ _ h
  case commandFinish => exact execCommandFinish_wf _ _ _ h
  case qtailWrite => exact execQtailWrite_wf _ _ _ _ _ h
  case queueEnable => exact execQueueEnable_wf _ _ _ _ _ h
  case queueDisable => exact execQueueDisable_wf _ _ _ _ _ h
  case qstatWrite => exact execQstatWrite_wf _ _ _ _ _ h
  case cntselWrite => exact execCntselWrite_wf _ _ _ _ h
  case dutyWrite => exact execDutyWrite_wf _ _ _ _ h
  case pmaskWrite => exact execPmaskWrite_wf _ _ _ _ h
  case registerWrite => exact execRegisterWrite_wf _ _ _ _ _ _ h
  case denialClear => exact execDenialClear_wf _ _ h
  case mailboxDoorbell => exact execMailboxDoorbell_wf _ _ h
  case msgCommandTaken => exact execMsgCommandTaken_wf _ h
  case msgSeedGangReady => exact execMsgSeedGangReady_wf _ h
  case msgGangPlaced => exact execMsgGangPlaced_wf _ h
  case msgTeamOrGangRetired => exact execMsgTeamOrGangRetired_wf _ h
  case msgCommandFinished => exact execMsgCommandFinished_wf _ h
  case msgErrorReport => exact execMsgErrorReport_wf _ h
  case msgPageHome => exact execMsgPageHome_wf _ _ h
  case msgKeySlot => exact execMsgKeySlot_wf _ _ h
  case msgClockPowerBudget => exact execMsgClockPowerBudget_wf _ _ h
  case msgCheckpointStep => exact execMsgCheckpointStep_wf _ _ h
  case nak => exact execNak_wf _ _ h
  case multikernelUpdate => exact execMultikernelUpdate_wf _ _ _ h
  case dutyReply => exact execDutyReply_wf _ _ _ _ h
  case dutyTimeout => exact execDutyTimeout_wf _ _ _ h
  case gangPreempt => exact execGangPreempt_wf _ _ _ h
  case gangImageSealed => exact execGangImageSealed_wf _ _ h
  case gangRestore => exact execGangRestore_wf _ _ _ h
  case gangMove => exact execGangMove_wf _ _ _ h
  case contextCreate => exact execContextCreate_wf _ _ _ h
  case contextDestroy => exact execContextDestroy_wf _ _ _ h
  case resetDie => exact execResetDie_wf _ _ _ h
  case dieResetComplete => exact execDieResetComplete_wf _ _ h
  case moduleReset => exact execModuleReset_wf _ _ _ h
  case debugLockClose => exact execDebugLockClose_wf _ _ _ h
  case getVersion => exact execGetVersion_wf _ _ h
  case getCapabilities => exact execGetCapabilities_wf _ _ h
  case negotiateAlgorithms => exact execNegotiateAlgorithms_wf _ _ h
  case getCertificate => exact execGetCertificate_wf _ _ _ h
  case challenge => exact execChallenge_wf _ _ _ h
  case unsupportedRequest sess code => exact execUnsupportedRequest_wf sess code s h
  case getDigests => exact execGetDigests_wf _ _ h
  case getMeasurements => exact execGetMeasurements_wf _ _ _ h
  case keyExchange => exact execKeyExchange_wf _ _ h
  case finish => exact execFinish_wf _ _ h
  case heartbeat => exact execHeartbeat_wf _ _ h
  case keyUpdate => exact execKeyUpdate_wf _ _ h
  case endSession => exact execEndSession_wf _ _ h
  case bind => exact execBind_wf _ _ _ h
  case depart => exact execDepart_wf _ _ _ h
  case sealCode => exact execSealCode_wf _ _ _ _ h
  case getNotice => exact execGetNotice_wf _ _ _ h
  case getCounts => exact execGetCounts_wf _ _ _ h
  case easyAll => exact execEasyAll_wf _ _ h
  case easyAllDrained => exact execEasyAllDrained_wf _ _ h
  case easyAllTimeout => exact execEasyAllTimeout_wf _ _ h
  case partitionSelect => exact execPartitionSelect_wf _ _ _ h
  case partitionApply => exact execPartitionApply_wf _ _ _ h
  case partitionRelease => exact execPartitionRelease_wf _ _ _ h
  case functionLevelReset => exact execFunctionLevelReset_wf _ _ h
  case checkpoint => exact execCheckpoint_wf _ _ _ h
  case checkpointRestore => exact execCheckpointRestore_wf _ _ _ h
  case checkpointVerify => exact execCheckpointVerify_wf _ _ _ h
  case scrubFrame => exact execScrubFrame_wf _ _ h
  case patrolRead => exact execPatrolRead_wf _ _ _ _ _ h
  case linkRetry => exact execLinkRetry_wf _ _ h
  case dieFatalError => exact execDieFatalError_wf _ _ h
  case powerWindow => exact execPowerWindow_wf _ _ _ _ h
  case clockCeilingWrite => exact execClockCeilingWrite_wf _ _ _ _ h
  case clockChange => exact execClockChange_wf _ _ h
  case fastSet => exact execFastSet_wf _ h
  case fastClear => exact execFastClear_wf _ h
  case throtSet => exact execThrotSet_wf _ _ _ _ h
  case thermalTrip => exact execThermalTrip_wf _ _ h
  case moduleThermalTrip => exact execModuleThermalTrip_wf _ h
  case powerLoss => exact execPowerLoss_wf _ h
  case coldBoot => exact execColdBoot_wf _ h
  case bootStageComplete => exact execBootStageComplete_wf _ _ _ h
  case recoveryBeginLoad => exact execRecoveryBeginLoad_wf _ _ _ h
  case recoveryData => exact execRecoveryData_wf _ _ _ h
  case recoveryEndLoad => exact execRecoveryEndLoad_wf _ _ _ _ h
  case unassignedOpcode g op => exact execUnassignedOpcode_wf g op s h
  case reservedCustom0 => exact execReservedCustom0_wf _ _ _ h
  case debugModuleRequest => exact execDebugModuleRequest_wf _ _ h
  case deniedWindowRead => exact execDeniedWindowRead_wf _ _ _ _ _ h
  case ideKm => exact execIdeKm_wf _ _ _ h

/-! ## Events that are due -/

theorem runMail_wf (b : Nat) (s : State) (h : Memory.wf s.mem = true) : NextWf (runMail b s) := by
  unfold runMail
  split
  · simpa using h
  · split
    · exact execNak_wf _ _ h
    · split
      · exact execMsgCommandTaken_wf _ h
      · exact execMsgSeedGangReady_wf _ h
      · exact execMsgGangPlaced_wf _ h
      · exact execMsgTeamOrGangRetired_wf _ h
      · exact execMsgCommandFinished_wf _ h
      · exact execMsgErrorReport_wf _ h
      · exact execMsgPageHome_wf _ _ h
      · exact execMsgKeySlot_wf _ _ h
      · exact execMsgClockPowerBudget_wf _ _ h
      · exact execMsgCheckpointStep_wf _ _ h
      · exact execNak_wf _ _ h

theorem runCommand_wf (vf q : Nat) (s : State) (h : Memory.wf s.mem = true) : NextWf (runCommand vf q s) := by
  unfold runCommand
  split
  · simpa using h
  · split
    · exact execWaitCommand_wf _ _ _ h
    · split
      · exact execNopCommand_wf _ _ _ h
      · exact execLaunchCommand_wf _ _ _ h

theorem runDue_wf (d : Due) (s : State) (h : Memory.wf s.mem = true) : NextWf (runDue d s) := by
  cases d with
  | doorbell m => exact execMailboxDoorbell_wf m s h
  | mail b => exact runMail_wf b s h
  | update host i => exact execMultikernelUpdate_wf host i s h
  | commandTake => exact execCommandTake_wf s h
  | command vf q => exact runCommand_wf vf q s h
  | commandAccept vf q => exact execCommandAccept_wf vf q s h
  | commandFinish vf q => exact execCommandFinish_wf vf q s h
  | gangPlacement vf => exact execGangPlacement_wf vf s h
  | dutyTimeout vf ix => exact execDutyTimeout_wf vf ix s h
  | heatStart l => exact execHeatStart_wf l s h
  | heatResult l => exact execHeatResult_wf l s h
  | ncopyAccept n => exact execNcopyAccept_wf n s h
  | ncopyFinish n => exact execNcopyFinish_wf n s h
  | bankStore g o => exact execBankStoreEncode_wf g o s h
  | bankRmw g o => exact execBankRmw_wf g o s h
  | flagCompletion g o => exact execFlagCompletion_wf g o s h
  | sleepExpiry g l => exact execSleepExpiry_wf g l s h
  | exitTakesEffect g l => exact execExitTakesEffect_wf g l s h
  | progressRule g => exact execProgressRuleRelease_wf g s h
  | ageLimit g => exact execIssueAgeLimit_wf g s h
  | wordLimit g => exact execPreemptWordLimit_wf g s h
  | secondLimit g => exact execPreemptSecondLimit_wf g s h
  | handlerEntry g => exact execHandlerEntry_wf g s h
  | migrationResume g => exact execMigrationResume_wf g s h
  | pontoonRetry d => exact execMigrPontoonRetry_wf d s h
  | transferLanding x => exact execTransferLanding_wf x s h
  | requestAccept d c => exact execRequestAccept_wf d c s h
  | requestStatus r => exact execRequestStatusWrite_wf r s h
  | recordWrite a => exact execFaultRecordWrite_wf a s h
  | teamRetirement t => exact execTeamRetirement_wf t s h
  | gridEndFlush g => exact execGridEndFlush_wf g s h
  | imageSealed k => exact execGangImageSealed_wf k s h
  | walk d => exact execTranslationWalk_wf d s h
  | backing => exact execFrameBacking_wf s h
  | rehomeWindow => exact execRehomeWindowEnd_wf s h
  | rehomeComplete a l => exact execRehomeComplete_wf a l s h
  | scrub d => exact execScrubFrame_wf d s h
  | patrol d a l => exact execPatrolRead_wf d a l [] s h
  | clock d => exact execClockChange_wf d s h
  | dieReset d => exact execDieResetComplete_wf d s h
  | trip d => exact execThermalTrip_wf d s h
  | moduleTrip => exact execModuleThermalTrip_wf s h
  | partition => exact (nextWf_next _).2 (partitionStep_mem s ▸ h)
  | checkpoint => exact (nextWf_next _).2 (checkpointStep_wf s h)
  | easyAll x => exact execEasyAll_wf x s h
  | easyDrained x => exact execEasyAllDrained_wf x s h
  | easyTimeout x => exact execEasyAllTimeout_wf x s h

/-! ## Turns and the step -/

/-- Every state that a planned turn runs in, and the one that a turn of the device left, has canonical memory. -/
def TurnPlan.Wf : TurnPlan → Prop
  | .rest s | .go _ s => Memory.wf s.mem = true
  | .attempt s0 _ s => Memory.wf s0.mem = true ∧ Memory.wf s.mem = true
  | .did o => NextWf o

theorem issueWord_wf (s : State) (e : Env) (lanes : List Nat) (t : Thread) (h : Memory.wf s.mem = true) :
    (issueWord s e lanes t).Wf := by
  unfold issueWord
  simp only
  split
  · split
    · split
      · simpa [TurnPlan.Wf] using h
      · simpa [TurnPlan.Wf] using h
    · simpa [TurnPlan.Wf] using h
  · simpa [TurnPlan.Wf] using h

theorem issueFor_wf (s : State) (e : Env) (t : Thread) (h : Memory.wf s.mem = true) : (issueFor s e t).Wf :=
  issueWord_wf _ _ _ _ (by simpa using h)

theorem issueTurn_wf (s : State) (gid : Nat) (h : Memory.wf s.mem = true) : (issueTurn s gid).Wf := by
  unfold issueTurn
  split
  · exact h
  · split
    · exact h
    · split
      · exact h
      · exact issueFor_wf _ _ _ h

theorem alsoTurn_wf (s : State) (gid lane pc : Nat) (h : Memory.wf s.mem = true) :
    (alsoTurn s gid lane pc).Wf := by
  unfold alsoTurn
  split
  · exact h
  · split
    · exact h
    · split
      · exact issueFor_wf _ _ _ h
      · exact h

theorem enterTurn_wf (s : State) (gid pc : Nat) (h : Memory.wf s.mem = true) : (enterTurn s gid pc).Wf := by
  unfold enterTurn
  split
  · exact h
  · simp only
    split <;> exact h

theorem attemptTurn_wf (s : State) (gid lane : Nat) (h : Memory.wf s.mem = true) :
    (attemptTurn s gid lane).Wf := by
  unfold attemptTurn
  split
  · exact h
  · split
    · exact h
    · next e _ _ t _ =>
      have hw := issueWord_wf s e (issueLanes s e t) t h
      split
      · split
        · next heq =>
          rw [heq] at hw
          split
          · exact ⟨h, hw⟩
          · exact h
        · exact h
      · exact h

theorem coreTurn_wf (s : State) (c : Nat) (h : Memory.wf s.mem = true) : (coreTurn s c).Wf := by
  have hf : Memory.wf (rvFetch s c).1.mem = true := by simpa using h
  unfold coreTurn
  simp only
  split
  · exact h
  · split
    · next heq => simpa [TurnPlan.Wf, rvInterrupt_mem _ _ _ heq] using h
    · split
      · exact h
      · split <;> next heq =>
          rw [heq] at hf
          first
          | simpa [TurnPlan.Wf] using hf
          | (split
             · exact hf
             · exact rvExec_wf _ _ _ hf)

theorem planTurn_wf (s : State) (t : Turn) (h : Memory.wf s.mem = true) : (planTurn s t).Wf := by
  cases t with
  | issue gid => exact issueTurn_wf _ _ h
  | also gid lane pc => exact alsoTurn_wf _ _ _ _ h
  | enter gid pc => exact enterTurn_wf _ _ _ h
  | attempt gid lane => exact attemptTurn_wf _ _ _ h
  | slots die core cycle left served => simpa [planTurn, TurnPlan.Wf] using h
  | sequencer tid =>
    have ht := seqTurn_mem (q := (Memory.wf · = true)) s tid h
    simp only [planTurn]
    split <;> next heq =>
      rw [heq] at ht
      exact ht
  | due d => exact runDue_wf d s h
  | core c => exact coreTurn_wf s c h
  | event i => exact h
  | host asid lfn off n v => exact hostWrite_wf _ _ _ _ _ _ h
  | mka port => simpa [planTurn, TurnPlan.Wf] using h
  | tick => simpa [planTurn, TurnPlan.Wf] using h

/-- What is done after an instruction's execution keeps an outcome's memory canonical. -/
theorem runInstr_wf (i : Instr) (s : State) (h : Memory.wf s.mem = true) : NextWf (runInstr i s) := by
  have he := exec_wf i s h
  unfold runInstr
  split
  · next heq => simpa [heq] using he
  · intro t ht
    cases ht
  · intro t ht
    cases ht

theorem tryInstr_wf (s0 : State) (i : Instr) (s : State) (h0 : Memory.wf s0.mem = true)
    (h : Memory.wf s.mem = true) :
    NextWf (tryInstr s0 i s) := by
  have he := exec_wf i s h
  unfold tryInstr
  split
  · next heq =>
    rw [heq, nextWf_next] at he
    rw [nextWf_next]
    split
    · exact h0
    · exact he
  · intro t ht
    cases ht
  · intro t ht
    cases ht

theorem runPlan_wf (p : TurnPlan) (h : p.Wf) : NextWf (runPlan p) := by
  cases p with
  | rest s => exact (nextWf_next s).2 h
  | go i s => exact runInstr_wf i s h
  | attempt s0 i s => exact tryInstr_wf s0 i s h.1 h.2
  | did o => exact h

theorem settled_wf (t : Turn) (s : State) (o : Host.Outcome State Fault Refusal) (h : Memory.wf s.mem = true)
    (ho : NextWf o) : NextWf (settled t s o) := by
  cases o with
  | next s' => exact (nextWf_next _).2 (settle_wf _ (afterTurn_wf t s s' (ho s' rfl) h))
  | fault | refused =>
    intro t ht
    cases ht

/-- One step from canonical memory that goes on leaves canonical memory. -/
theorem step_wf (s : State) (h : Memory.wf s.mem = true) : NextWf (step s) := by
  have ht : Memory.wf (takeTurn s).2.mem = true := takeTurn_mem s ▸ h
  exact settled_wf _ _ _ ht (runPlan_wf _ (planTurn_wf _ _ ht))

/-- Settles O58: what each kind of turn can run keeps memory canonical (`planTurn_wf`, `exec_wf`), and so does what
follows a turn (`afterTurn_wf`, `settle_wf`). -/
theorem everyStepKeepsMemoryCanonical : Obligations.EveryStepKeepsMemoryCanonical := by
  intro s t h ht
  exact step_wf s h t ht

end Sys2Proof.Machine
end

section
/-!
AN EXECUTION WHOSE LANES FAULT, AND ONE IN WHICH A SINGLE LANE ACTS. What `foldLanes`, `raise` and `allFault` do to threads
and contexts there, in the terms of `Safety` (`FaultsAlike`, `Lone`, `LaneBecomes`, `OnlyThreads`).
-/

namespace Sys2Proof.Machine

/-! ## Threads that park -/

/-- A lane that takes a fault at `pc`: parked, or ended in handler mode. -/
def parkAt (pc : Nat) (f : LaneFault) (hdr : Bool) (t : Thread) : Thread :=
  if t.handler then { t with pc := pc, status := .exiting false, stall := none, handler := false }
  else { t with pc := pc, status := .parked f.cls f.info false hdr, stall := none }

@[simp] theorem parkAt_lane (pc : Nat) (f : LaneFault) (hdr : Bool) (t : Thread) : (parkAt pc f hdr t).lane = t.lane := by
  unfold parkAt
  split <;> rfl

/-- The lane of a group is in handler mode. -/
def laneNested (s : State) (gid l : Nat) : Bool := ((getLane s gid l).map Thread.handler).getD false

/-- The records of one fault that several lanes take. -/
def faultRecords (s : State) (e : Env) (pc : Nat) (active parked ls : List Nat) (f : LaneFault) : List FaultRec :=
  ls.map fun l => laneRecord s e pc active parked l (laneNested s e.group.gid l) f

/-- The state with `ls` parked by one fault and their records waiting. -/
def parkLanes (s : State) (e : Env) (pc : Nat) (active parked ls : List Nat) (f : LaneFault) (hdr : Bool) : State :=
  modCtx (modLanes s e.group.gid ls fun _ => parkAt pc f hdr) e.ctx.asid fun c =>
    { c with pending := c.pending ++ faultRecords s e pc active parked ls f }

theorem modCtx_modCtx (s : State) (a : Nat) (f f' : Context → Context) (hf : ∀ c, (f c).asid = c.asid) :
    modCtx (modCtx s a f) a f' = modCtx s a fun c => f' (f c) := by
  simp only [modCtx, modBy, List.map_map]
  congr 1
  apply List.map_congr_left
  intro c _
  by_cases h : c.asid = a <;> simp [h, hf]

theorem modCtx_id (s : State) (a : Nat) (f : Context → Context) (hf : ∀ c, f c = c) : modCtx s a f = s := by
  simp [modCtx, modBy, hf]

theorem modCtx_modLane_comm (s : State) (a gid l : Nat) (f : Context → Context) (h : Thread → Thread) :
    modLane (modCtx s a f) gid l h = modCtx (modLane s gid l h) a f := rfl

/-- One more lane parks. -/
theorem parkLanes_step (s : State) (e : Env) (pc : Nat) (active parked done : List Nat) (f : LaneFault) (hdr : Bool)
    (l : Nat) (t : Thread) (hn : l ∉ done) (ht : getLane s e.group.gid l = some t) :
    modLane (modCtx (parkLanes s e pc active parked done f hdr) e.ctx.asid fun c =>
        { c with pending := c.pending ++ [laneRecord s e pc active parked l t.handler f] }) e.group.gid l (parkAt pc f hdr) =
      parkLanes s e pc active parked (done ++ [l]) f hdr := by
  have hl : ∀ k (t : Thread), t.lane = k → (parkAt pc f hdr t).lane = k := fun _ _ h => (parkAt_lane ..).trans h
  have hnest : laneNested s e.group.gid l = t.handler := by simp [laneNested, ht]
  rw [modCtx_modLane_comm, parkLanes, modCtx_modLane_comm, modCtx_modCtx _ _ _ _ (by exact fun _ => rfl),
    modLane_modLanes s e.group.gid l done (fun _ => parkAt pc f hdr) hl hn,
    modLanes_perm s e.group.gid (l :: done) (done ++ [l]) _ (by intro k; simp [or_comm])]
  simp only [parkLanes, faultRecords, List.map_append, List.map_cons, List.map_nil, hnest, List.append_assoc]

/-- Lanes that take one fault park, and their records join those that wait. -/
theorem raise_same (s : State) (e : Env) (pc : Nat) (active ls : List Nat) (f : LaneFault) (hdr : Bool) (hnd : ls.Nodup)
    (hall : ∀ l ∈ ls, (getLane s e.group.gid l).isSome = true) :
    raise s e pc active (ls.map (·, f)) hdr = parkLanes s e pc active ls ls f hdr := by
  have hl : ∀ k (t : Thread), t.lane = k → (parkAt pc f hdr t).lane = k := fun _ _ h => (parkAt_lane ..).trans h
  have hfold : ∀ (todo done : List Nat), (done ++ todo).Nodup → (∀ l ∈ todo, (getLane s e.group.gid l).isSome = true) →
      (todo.map (·, f)).foldl (fun s lf =>
        match getLane s e.group.gid lf.1 with
        | none => s
        | some t =>
          modLane (modCtx s e.ctx.asid fun c =>
            { c with pending := c.pending ++ [laneRecord s e pc active ls lf.1 t.handler lf.2] })
            e.group.gid lf.1 (parkAt pc lf.2 hdr)) (parkLanes s e pc active ls done f hdr) =
        parkLanes s e pc active ls (done ++ todo) f hdr := by
    intro todo
    induction todo with
    | nil => intro done _ _; simp
    | cons l todo ih =>
      intro done hd hin
      obtain ⟨t, ht⟩ := Option.isSome_iff_exists.1 (hin l (by simp))
      have hn : l ∉ done := fun hm => List.disjoint_of_nodup_append hd hm (by simp)
      have hget : getLane (parkLanes s e pc active ls done f hdr) e.group.gid l = some t := by
        rw [parkLanes, getLane_groups (modLanes s e.group.gid done fun _ => parkAt pc f hdr) (modCtx _ _ _) rfl,
          getLane_modLanes _ _ _ _ _ _ hl]
        simp [hn, ht]
      rw [List.map_cons, List.foldl_cons]
      simp only [hget]
      rw [show laneRecord (parkLanes s e pc active ls done f hdr) e pc active ls l t.handler f =
          laneRecord s e pc active ls l t.handler f from rfl, parkLanes_step s e pc active ls done f hdr l t hn ht,
        ih (done ++ [l]) (by simpa using hd) fun x hx => hin x (by simp [hx])]
      simp
  have h0 : parkLanes s e pc active ls [] f hdr = s := by
    rw [parkLanes, modLanes_nil]
    exact modCtx_id _ _ _ fun c => by simp [faultRecords]
  have := hfold ls [] (by simpa using hnd) hall
  rw [h0] at this
  rw [raise]
  simp only [List.map_map, Function.comp_def, List.map_id']
  exact this

/-! ## Frames -/

theorem Framed.trans {s s1 s2 : State} (h : Framed s s1) (h' : Framed s1 s2) : Framed s s2 :=
  ⟨fun gid => (h'.1 gid).trans (h.1 gid), fun a => (h'.2 a).trans (h.2 a)⟩

theorem OnlyThreads.trans {s s1 s2 : State} (h : OnlyThreads s s1) (h' : OnlyThreads s1 s2) : OnlyThreads s s2 := by
  refine ⟨?_, h.2.trans h'.2⟩
  rw [h'.1, h.1]

/-- A change of threads alone. -/
theorem groupFrame_modLanes (s : State) (gid j : Nat) (ls : List Nat) (h : Nat → Thread → Thread) :
    (getGroup (modLanes s gid ls h) j).map groupFrame = (getGroup s j).map groupFrame := by
  rw [modLanes, getGroup_modGroup s gid j (onLanes ls h) fun _ => rfl]
  split
  · cases getGroup s j <;> rfl
  · rfl

/-- A change of a context that its frame does not show. -/
theorem ctxFrame_modCtx (s : State) (a j : Nat) (f : Context → Context) (hf : ∀ c, ctxFrame (f c) = ctxFrame c) :
    (getCtx (modCtx s a f) j).map ctxFrame = (getCtx s j).map ctxFrame := by
  have hk : ∀ c, (f c).asid = c.asid := fun c => (congrArg Context.asid (hf c) :)
  rw [getCtx_modCtx s a j f hk]
  split
  · cases getCtx s j <;> simp [hf]
  · rfl

theorem onlyThreads_modLanes (s : State) (gid : Nat) (ls : List Nat) (h : Nat → Thread → Thread) :
    OnlyThreads s (modLanes s gid ls h) :=
  ⟨rfl, fun j => groupFrame_modLanes s gid j ls h, fun _ => rfl⟩

theorem onlyThreads_modLane (s : State) (gid l : Nat) (f : Thread → Thread) : OnlyThreads s (modLane s gid l f) := by
  rw [modLane_eq]
  exact onlyThreads_modLanes ..

theorem onlyThreads_modCtx (s : State) (a : Nat) (f : Context → Context) (hf : ∀ c, ctxFrame (f c) = ctxFrame c) :
    OnlyThreads s (modCtx s a f) :=
  ⟨rfl, fun _ => rfl, fun j => ctxFrame_modCtx s a j f hf⟩

theorem onlyThreads_countEvent (s : State) (a k n : Nat) : OnlyThreads s (countEvent s a k n) :=
  onlyThreads_modCtx s a _ fun _ => rfl

theorem onlyThreads_parkLanes (s : State) (e : Env) (pc : Nat) (active parked ls : List Nat) (f : LaneFault) (hdr : Bool) :
    OnlyThreads s (parkLanes s e pc active parked ls f hdr) :=
  (onlyThreads_modLanes s ..).trans (onlyThreads_modCtx _ _ _ fun _ => rfl)

/-! ## The lanes whose guard is not true -/

/-- The lanes of an execution whose guard is not true. -/
def idleLanes (s : State) (c : Cur) (g : Guard) : List Nat := c.lanes.filter fun l => !(activeLanes s c g).contains l

/-- The state in which the lanes whose guard is not true have gone on. -/
def idled (s : State) (c : Cur) (g : Guard) : State := modLanes s c.gid (idleLanes s c g) fun _ => advance c

theorem advance_lane (c : Cur) (k : Nat) (t : Thread) (h : t.lane = k) : (advance c t).lane = k :=
  (goOn_lane c.next t).trans h

theorem mem_idleLanes (s : State) (c : Cur) (g : Guard) (l : Nat) :
    l ∈ idleLanes s c g ↔ l ∈ c.lanes ∧ l ∉ activeLanes s c g := by
  simp [idleLanes]

theorem mem_lanes_of_active {s : State} {c : Cur} {g : Guard} {l : Nat} (h : l ∈ activeLanes s c g) : l ∈ c.lanes :=
  (List.mem_filter.1 h).1

theorem getLane_idled (s : State) (c : Cur) (g : Guard) (gid l : Nat) :
    getLane (idled s c g) gid l =
      if c.gid = gid ∧ l ∈ idleLanes s c g then (getLane s gid l).map (advance c) else getLane s gid l :=
  getLane_modLanes s c.gid gid l _ _ (advance_lane c)

/-- A lane whose guard is true stands as it did. -/
theorem getLane_idled_active (s : State) (c : Cur) (g : Guard) (gid l : Nat) (h : l ∈ activeLanes s c g) :
    getLane (idled s c g) gid l = getLane s gid l := by
  simp [getLane_idled, mem_idleLanes, h]

theorem sameBut_idled (s : State) (c : Cur) (g : Guard) : SameButGroups s (idled s c g) := rfl

theorem foldLanes_eq (s : State) (c : Cur) (e : Env) (g : Guard) (F : Nat → State → LaneStep) (hd : c.lanes.Nodup) :
    foldLanes s c e g F =
      let acc := (activeLanes s c g).foldl (laneStep c F) ⟨idled s c g, [], 0⟩
      countEvent (raise acc.s e c.pc (activeLanes s c g) acc.faults false) e.ctx.asid 0 acc.done := by
  rw [foldLanes]
  simp only [idle_fold s c _ (hd.filter fun l => !(activeLanes s c g).contains l)]
  rfl

/-! ## Lanes that all fault -/

theorem foldl_laneStep_fault (c : Cur) (f : LaneFault) (s : State) (ls : List Nat) (fs : List (Nat × LaneFault)) :
    ls.foldl (laneStep c fun _ _ => .fault f) ⟨s, fs, 0⟩ = ⟨s, fs ++ ls.map (·, f), 0⟩ := by
  induction ls generalizing fs with
  | nil => simp
  | cons l r ih =>
    rw [List.foldl_cons]
    exact (ih _).trans (by simp)

/-- What `allFault` does: the lanes whose guard is true park, the others go on. -/
theorem allFault_eq (s : State) (c : Cur) (e : Env) (g : Guard) (f : LaneFault) (he : env s c.gid = some e)
    (hd : c.lanes.Nodup) (hall : ∀ l ∈ c.lanes, (getLane s c.gid l).isSome = true) :
    allFault s c e g f =
      countEvent (parkLanes (idled s c g) e c.pc (activeLanes s c g) (activeLanes s c g) (activeLanes s c g) f false)
        e.ctx.asid 0 0 := by
  rw [allFault, foldLanes_eq s c e g _ hd]
  simp only [foldl_laneStep_fault, List.nil_append]
  rw [raise_same _ e c.pc _ (activeLanes s c g) f false (hd.filter _)]
  intro l hl
  rw [env_gid s c.gid e he, getLane_idled_active s c g c.gid l hl]
  exact hall l (mem_lanes_of_active hl)

theorem onlyThreads_allFault (s : State) (c : Cur) (e : Env) (g : Guard) (f : LaneFault) (he : env s c.gid = some e)
    (hd : c.lanes.Nodup) (hall : ∀ l ∈ c.lanes, (getLane s c.gid l).isSome = true) :
    OnlyThreads s (allFault s c e g f) := by
  rw [allFault_eq s c e g f he hd hall]
  exact (onlyThreads_modLanes s ..).trans ((onlyThreads_parkLanes ..).trans (onlyThreads_countEvent ..))

/-- The lanes after `allFault`. -/
theorem getLane_allFault (s : State) (c : Cur) (e : Env) (g : Guard) (f : LaneFault) (he : env s c.gid = some e)
    (hd : c.lanes.Nodup) (hall : ∀ l ∈ c.lanes, (getLane s c.gid l).isSome = true) (gid l : Nat) :
    getLane (allFault s c e g f) gid l =
      if gid = c.gid ∧ l ∈ activeLanes s c g then (getLane s gid l).map (parkAt c.pc f false)
      else if gid = c.gid ∧ l ∈ c.lanes then (getLane s gid l).map (goOn c.next) else getLane s gid l := by
  rw [allFault_eq s c e g f he hd hall]
  have hg := env_gid s c.gid e he
  have : getLane (countEvent (parkLanes (idled s c g) e c.pc (activeLanes s c g) (activeLanes s c g) (activeLanes s c g) f
      false) e.ctx.asid 0 0) gid l =
      getLane (modLanes (idled s c g) e.group.gid (activeLanes s c g) fun _ => parkAt c.pc f false) gid l := rfl
  rw [this, getLane_modLanes _ _ _ _ _ _ (by exact fun _ _ h => (parkAt_lane ..).trans h), hg, getLane_idled]
  by_cases hgid : gid = c.gid
  · subst hgid
    by_cases ha : l ∈ activeLanes s c g
    · simp [ha, mem_idleLanes]
    · by_cases hl : l ∈ c.lanes
      · simp only [ha, hl, mem_idleLanes, and_false, if_false, not_false_eq_true, and_self, if_true]
        rfl
      · simp [ha, hl, mem_idleLanes]
  · simp [hgid, Ne.symm hgid]

/-- The waiting records of the context after `allFault`. -/
theorem pending_allFault (s : State) (c : Cur) (e : Env) (g : Guard) (f : LaneFault) (he : env s c.gid = some e)
    (hd : c.lanes.Nodup) (hall : ∀ l ∈ c.lanes, (getLane s c.gid l).isSome = true) :
    (getCtx (allFault s c e g f) e.ctx.asid).map (·.pending) = (getCtx s e.ctx.asid).map fun x =>
      x.pending ++ faultRecords (idled s c g) e c.pc (activeLanes s c g) (activeLanes s c g) (activeLanes s c g) f := by
  rw [allFault_eq s c e g f he hd hall, countEvent, parkLanes, modCtx_modCtx _ _ _ _ (by exact fun _ => rfl),
    getCtx_modCtx _ _ _ _ (by exact fun _ => rfl), if_pos rfl, Option.map_map]
  rfl

/-- An instruction that raises one fault in every lane whose guard is true. -/
theorem faultsAlike_of_allFault (place : Cur → Bool) (i : Instr) (g : Guard) (cls info : Nat)
    (h : ∀ s c e, s.cur = some c → env s c.gid = some e → place c = true →
      exec i s = .next (allFault s c e g { cls := cls, info := info })) : FaultsAlike place i g cls info := by
  intro s c e hc he hd hall hp
  refine ⟨_, h s c e hc he hp, onlyThreads_allFault s c e g _ he hd hall, fun l hl => ?_,
    _, pending_allFault s c e g _ he hd hall, ?_⟩
  · rw [getLane_allFault s c e g _ he hd hall]
    cases ht : getLane s c.gid l with
    | none => simp
    | some t =>
      have ha := mem_activeLanes s c g l t ht
      by_cases hg : guardOf g t = true
      · simp [ha, hg, hl]
        rfl
      · simp [ha, hg, hl]
  · rw [faultRecords, List.map_map]
    apply List.map_congr_left
    intro l hl
    simp only [Function.comp, recordFields, laneRecord, laneNested, Option.getD_none, env_gid s c.gid e he,
      getLane_idled_active s c g c.gid l hl]
    rfl

/-! ## One lane -/

/-- An execution whose one active lane faults. -/
theorem foldLanes_fault_lone (s : State) (c : Cur) (e : Env) (g : Guard) (F : Nat → State → LaneStep) (l : Nat)
    (f : LaneFault) (hd : c.lanes.Nodup) (ho : activeLanes s c g = [l]) (hF : F l (idled s c g) = .fault f) :
    foldLanes s c e g F = allFault s c e g f := by
  rw [allFault, foldLanes_eq s c e g F hd, foldLanes_eq s c e g _ hd]
  simp only [ho, List.foldl_cons, List.foldl_nil, laneStep, hF]

/-- An execution whose one active lane goes on. -/
theorem foldLanes_ok_lone (s : State) (c : Cur) (e : Env) (g : Guard) (F : Nat → State → LaneStep) (l : Nat) (s2 : State)
    (hd : c.lanes.Nodup) (ho : activeLanes s c g = [l]) (hF : F l (idled s c g) = .ok s2) :
    foldLanes s c e g F = countEvent (modLane s2 c.gid l (advance c)) e.ctx.asid 0 1 := by
  rw [foldLanes_eq s c e g F hd]
  simp only [ho, List.foldl_cons, List.foldl_nil, laneStep, hF, raise_nil]

section
variable {s : State} {c : Cur} {e : Env} {g : Guard} {us : List RegUse} {l : Nat} {t t0 : Thread} {rd : Nat → Word}

theorem Lone.active (h : Lone s c e g us l t t0 rd) : l ∈ activeLanes s c g := by simp [h.only]

/-- The context of the execution. -/
theorem Lone.getCtx_eq (h : Lone s c e g us l t t0 rd) : getCtx s e.ctx.asid = some e.ctx := by
  have hx := env_ctx s c.gid e h.env
  rwa [← find_key Context.asid e.grid.asid s.contexts e.ctx hx] at hx

theorem Lone.lane_eq (h : Lone s c e g us l t t0 rd) : t.lane = l := getLane_lane s c.gid l t h.lane

theorem Lone.taken_lane (h : Lone s c e g us l t t0 rd) : t0.lane = l := by
  obtain ⟨ov, ho, -⟩ := h.taken
  exact (operandsOf_lane s e _ t t0 us ov ho).trans h.lane_eq

/-- The lane acts with its operands, when the others have gone on. -/
theorem Lone.withOperands_eq (h : Lone s c e g us l t t0 rd) (f : (Nat → Word) → Thread → State → LaneStep) :
    withOperands e (execRec s c e g) c.gid us l (idled s c g) f = f rd t0 (idled s c g) := by
  obtain ⟨ov, ho, rfl⟩ := h.taken
  rw [withOperands, getLane_idled_active s c g c.gid l h.active, h.lane]
  simp only [operandsOf_groups s _ (sameBut_idled s c g), ho]

/-- The registers that the instruction names lie in the kernel's count, and it writes no bound one. -/
theorem Lone.checks (h : Lone s c e g us l t t0 rd) : rangeFault e.grid.desc.regs us = false ∧ boundFault t us = false := by
  obtain ⟨ov, ho, -⟩ := h.taken
  by_cases h1 : rangeFault e.grid.desc.regs us = true
  · simp [operandsOf, h1] at ho
  by_cases h2 : boundFault t us = true
  · simp [operandsOf, h1, h2] at ho
  exact ⟨by simpa using h1, by simpa using h2⟩

/-- The one lane faults. -/
theorem Lone.faults (h : Lone s c e g us l t t0 rd) (cls : Nat) :
    OnlyThreads s (allFault s c e g { cls := cls }) ∧
      LaneBecomes s (allFault s c e g { cls := cls }) c l (faulted c cls 0 t) := by
  refine ⟨onlyThreads_allFault s c e g _ h.env h.nodup h.all, ?_, fun gid k hk => ?_⟩
  · rw [getLane_allFault s c e g _ h.env h.nodup h.all, if_pos ⟨rfl, h.active⟩, h.lane]
    rfl
  · rw [getLane_allFault s c e g _ h.env h.nodup h.all, if_neg (by simpa [h.only] using hk)]

/-- The one lane goes on with a thread of its own, in a state that has the groups of the execution's. -/
theorem Lone.becomes (h : Lone s c e g us l t t0 rd) (t1 : Thread) (ht : t1.lane = l) (s2 : State)
    (hs : s2.groups = (modLane (idled s c g) c.gid l fun _ => t1).groups) (n : Nat) :
    LaneBecomes s (countEvent (modLane s2 c.gid l (advance c)) e.ctx.asid 0 n) c l (goOn c.next t1) := by
  have hget : ∀ gid k, getLane (countEvent (modLane s2 c.gid l (advance c)) e.ctx.asid 0 n) gid k =
      if c.gid = gid ∧ l = k then some (goOn c.next t1) else getLane (idled s c g) gid k := by
    intro gid k
    rw [getLane_groups (modLane s2 c.gid l (advance c)) (countEvent _ _ _ _) rfl,
      getLane_modLane _ _ _ _ _ _ (advance_lane c l), getLane_groups _ s2 hs,
      getLane_modLane _ _ _ _ _ _ fun _ _ => ht]
    by_cases hk : c.gid = gid ∧ l = k
    · obtain ⟨rfl, rfl⟩ := hk
      simp [getLane_idled_active s c g c.gid l h.active, h.lane, advance]
    · simp [hk]
  refine ⟨by simp [hget], fun gid k hk => ?_⟩
  rw [hget, if_neg (fun hc => hk ⟨hc.1.symm, hc.2.symm⟩), getLane_idled]
  have hi : gid = c.gid → (k ∈ idleLanes s c g ↔ k ∈ c.lanes) := fun hg => by
    have : k ≠ l := fun hkl => hk ⟨hg, hkl⟩
    simp [mem_idleLanes, h.only, this]
  by_cases hg : gid = c.gid
  · subst hg
    simp only [true_and, hi rfl]
    rfl
  · simp [hg, Ne.symm hg]

/-- The others have gone on and the one lane has a thread: only threads have changed. -/
theorem onlyThreads_idled_modLane (s : State) (c : Cur) (g : Guard) (l : Nat) (f : Thread → Thread) :
    OnlyThreads s (modLane (idled s c g) c.gid l f) :=
  (onlyThreads_modLanes s ..).trans (onlyThreads_modLane ..)

/-- A lane that retires goes on and counts. -/
theorem onlyThreads_retires (s : State) (c : Cur) (l a n : Nat) :
    OnlyThreads s (countEvent (modLane s c.gid l (advance c)) a 0 n) :=
  (onlyThreads_modLane ..).trans (onlyThreads_countEvent ..)

/-- The one lane goes on with a thread of its own, and nothing else changes. -/
theorem Lone.goes (h : Lone s c e g us l t t0 rd) (t1 : Thread) (ht : t1.lane = l) :
    let s' := countEvent (modLane (modLane (idled s c g) c.gid l fun _ => t1) c.gid l (advance c)) e.ctx.asid 0 1
    OnlyThreads s s' ∧ LaneBecomes s s' c l (goOn c.next t1) :=
  ⟨(onlyThreads_idled_modLane s c g l _).trans (onlyThreads_retires ..), h.becomes t1 ht _ rfl 1⟩

end

end Sys2Proof.Machine
end

section
/-!
SYSTEM REGISTERS (R27, R237, R407): `sysr`, `cntr` and `sysw` in an execution with one active lane, and the rows of Table 2.5.
-/

namespace Sys2Proof.Machine

theorem pairRegs_eq_toPair (d : Reg) (v : Nat) : pairRegs d.toNat v = toPair d (BitVec.ofNat 64 v) := by
  simp only [pairRegs, toPair, List.cons.injEq, Prod.mk.injEq, true_and, and_true]
  constructor
  · apply BitVec.eq_of_toNat_eq
    simp
  · apply BitVec.eq_of_toNat_eq
    simp
    omega

theorem pairOf_eq_pair64 (rd : Nat → Word) (a : Reg) : BitVec.ofNat 64 (pairOf rd a.toNat) = pair64 rd a := by
  apply BitVec.eq_of_toNat_eq
  have hlo := (rd a.toNat).isLt
  have hhi := (rd (a.toNat + 1)).isLt
  rw [pair64, BitVec.toNat_append, ← Nat.shiftLeft_add_eq_or_of_lt hlo, Nat.shiftLeft_eq]
  simp only [BitVec.toNat_ofNat, pairOf]
  omega

/-- Registers written by their numbers, each once. -/
theorem sets_wrRegs (rs : List (Nat × Word)) (t : Thread) (hd : (rs.map (·.1)).Nodup) : Sets rs [] 0 t (wrRegs t rs) := by
  obtain ⟨hv, hf⟩ := wrRegs_spec rs t hd
  refine ⟨hv, fun q => ?_, ?_, ?_⟩ <;> rw [hf]
  · by_cases hq : q = 0
    · subst hq
      rfl
    · rw [if_neg hq]
      rfl
  · simp

/-- The rows of Table 2.5: number, whether the register is wide, and for each tag that may read it the value. -/
def sysRows (s : State) (e : Env) (t : Thread) : List (Nat × Bool × List (Nat × Nat)) :=
  let own := fun (x : Nat) => [(0, x), (1, x)]
  [ (0x000, false, own t.lane), (0x001, false, own e.group.width),
    (0x002, false, own (e.group.index * e.group.width + t.lane)), (0x003, false, own e.group.slot),
    (0x004, false, own e.group.index), (0x005, false, own e.team.index),
    (0x006, false, own (((getGang s e.team.gang).map (·.index)).getD 0)), (0x007, false, own e.grid.id),
    (0x008, false, own e.group.die), (0x009, false, own e.group.core), (0x00A, false, own e.ctx.vf),
    (0x00B, false, own e.ctx.tag), (0x00C, false, [(0, e.ctx.asid)]), (0x010, true, [(1, (getDie s e.group.die).cyc)]),
    (0x011, true, own (coxAt s e.group.die)), (0x012, true, own s.synt), (0x013, false, own (errbOf s)),
    (0x014, true, own (tget 0 e.ctx.counts 0 + 1)), (0x015, false, own t.fpstat.toNat),
    (0x016, true, own e.ctx.trvec.toNat), (0x017, false, own t.trcause.toNat), (0x018, true, own t.trpc.toNat),
    (0x019, false, own e.team.orphan), (0x01A, false, own e.grid.spawn),
    (0x01B, false, [(0, ((getFunc s e.ctx.vf).map fun f => (pmaskRead s f).toNat).getD 0)])]

/-- No system register depends on what threads other than its own do. -/
theorem sysValue_groups (s s' : State) (h : SameButGroups s s') (e : Env) (t : Thread) (ret n : Nat) :
    sysValue s' e t ret n = sysValue s e t ret n := by
  rw [h]
  rfl

/-- A row and a register of the model agree. -/
def RowAgrees (s : State) (e : Env) (t : Thread) (r : Nat × Bool × List (Nat × Nat)) : Prop :=
  ∃ x, sysReg r.1 = some x ∧ x.w64 = r.2.1 ∧
    ∀ tag ≤ 1, r.2.2.lookup tag = if canRead (sysCell x tag) then some (sysValue s e t 1 r.1) else none

theorem rowAgrees_of_mem (s : State) (e : Env) (t : Thread) : ∀ r ∈ sysRows s e t, RowAgrees s e t r := by
  have two : ∀ P : Nat → Prop, P 0 → P 1 → ∀ tag ≤ 1, P tag := fun P h0 h1 tag ht => by
    interval_cases tag
    · exact h0
    · exact h1
  simp only [sysRows, List.forall_mem_cons, List.not_mem_nil, false_imp_iff, forall_true_iff, and_true]
  refine ⟨?_, ?_, ?_, ?_, ?_, ?_, ?_, ?_, ?_, ?_, ?_, ?_, ?_, ?_, ?_, ?_, ?_, ?_, ?_, ?_, ?_, ?_, ?_, ?_, ?_⟩ <;>
    exact ⟨_, rfl, rfl, two _ rfl rfl⟩

/-- A number that the table does not list. -/
theorem sysReg_eq_none (s : State) (e : Env) (t : Thread) (n : Nat) (h : n ∉ (sysRows s e t).map (·.1)) :
    sysReg n = none := by
  simp only [sysRows, List.map_cons, List.map_nil, List.mem_cons, List.not_mem_nil, or_false, not_or] at h
  unfold sysReg
  split <;> simp_all

theorem evenReg_iff (r : Reg) : evenReg r = true ↔ r.toNat % 2 = 0 := by
  rw [evenReg, BitVec.getLsbD, Nat.testBit_zero]
  simp

/-- The registers by which a wide or a narrow value is delivered. -/
def delivered (d : Reg) (w : Bool) (v : Nat) : List (Nat × Word) :=
  if w then toPair d (BitVec.ofNat 64 v) else [(d.toNat, BitVec.ofNat 32 v)]

theorem delivered_nodup (d : Reg) (w : Bool) (v : Nat) : ((delivered d w v).map (·.1)).Nodup := by
  cases w <;> simp [delivered, toPair]

section
variable {s : State} {c : Cur} {e : Env} {g : Guard} {us : List RegUse} {l : Nat} {t t0 : Thread} {rd : Nat → Word}

/-- Only the lane that acts retires. -/
theorem Lone.retiring_eq (h : Lone s c e g us l t t0 rd) : retiring s c e g us = 1 := by
  obtain ⟨hr, hb⟩ := h.checks
  simp [retiring, hr, h.only, h.lane, hb]

/-- An instruction that reads no register takes no stream element. -/
theorem Lone.operandsOf_dst {w : Bool} {d : Reg} (h : Lone s c e g [dst w d] l t t0 rd) (r : ExecRec) :
    operandsOf s e r t [dst w d] = .ok [] t := by
  obtain ⟨hr, hb⟩ := h.checks
  have hu : usedStreams t [dst w d] = [] := by simp [usedStreams, dst]
  simp [operandsOf, hr, hb, takeStreams, hu, takeFrom]

theorem Lone.thread_eq_of_dst {w : Bool} {d : Reg} (h : Lone s c e g [dst w d] l t t0 rd) : t0 = t ∧ rd = readOver [] t := by
  obtain ⟨ov, ho, hrd⟩ := h.taken
  rw [h.operandsOf_dst, Taken.ok.injEq] at ho
  exact ⟨ho.2.symm, by rw [hrd, ho.1]⟩

/-- So the lane acts with any record of its execution. -/
theorem Lone.withOperands_dst {w : Bool} {d : Reg} (h : Lone s c e g [dst w d] l t t0 rd) (r : ExecRec)
    (f : (Nat → Word) → Thread → State → LaneStep) :
    withOperands e r c.gid [dst w d] l (idled s c g) f = f rd t0 (idled s c g) := by
  obtain ⟨rfl, rfl⟩ := h.thread_eq_of_dst
  rw [withOperands, getLane_idled_active s c g c.gid l h.active, h.lane]
  simp only [operandsOf_groups s _ (sameBut_idled s c g), h.operandsOf_dst]

/-- The lane writes registers and goes on. -/
theorem Lone.writes (h : Lone s c e g us l t t0 rd) (rs : List (Nat × Word)) (hd : (rs.map (·.1)).Nodup)
    (o : Host.Outcome State Fault Refusal)
    (ho : o = .next (countEvent (modLane (modLane (idled s c g) c.gid l fun _ => wrRegs t0 rs) c.gid l (advance c))
      e.ctx.asid 0 1)) :
    ∃ s' t1, o = .next s' ∧ OnlyThreads s s' ∧ Sets rs [] 0 t0 t1 ∧ LaneBecomes s s' c l (goOn c.next t1) := by
  obtain ⟨h1, h2⟩ := h.goes (wrRegs t0 rs) ((wrRegs_lane rs t0).trans h.taken_lane)
  exact ⟨_, _, ho, h1, sets_wrRegs rs t0 hd, h2⟩

/-- `sysr` of a register that the context may read. -/
theorem execSysr_reads {x : SysReg} {d : Reg} {n : BitVec 12} (h : Lone s c e g [dst x.w64 d] l t t0 rd)
    (hx : sysReg n.toNat = some x) (hd : x.w64 = true → d.toNat % 2 = 0)
    (hr : canRead (sysCell x e.ctx.tag) = true) :
    ∃ s' t1, execSysr g d n s = .next s' ∧ OnlyThreads s s' ∧
      Sets (delivered d x.w64 (sysValue s e t 1 n.toNat)) [] 0 t0 t1 ∧ LaneBecomes s s' c l (goOn c.next t1) := by
  have hodd : (x.w64 && !evenReg d) = false := by
    cases hw : x.w64 <;> simp [(evenReg_iff d).2, hd, hw]
  apply h.writes _ (delivered_nodup ..)
  simp only [execSysr, withCur, h.cur, h.env, hx, hodd, h.pairs, Bool.or_false, Bool.false_eq_true, if_false,
    h.retiring_eq, pairRegs_eq_toPair]
  rw [foldLanes_ok_lone s c e g _ l _ h.nodup h.only]
  rw [h.withOperands_dst, hr, h.thread_eq_of_dst.1, sysValue_groups s _ (sameBut_idled s c g)]
  rfl

/-- `sysr` of a register that the context may not read. -/
theorem execSysr_rights {x : SysReg} {d : Reg} {n : BitVec 12} (h : Lone s c e g [dst x.w64 d] l t t0 rd)
    (hx : sysReg n.toNat = some x) (hd : x.w64 = true → d.toNat % 2 = 0)
    (hr : canRead (sysCell x e.ctx.tag) = false) :
    ∃ s', execSysr g d n s = .next s' ∧ OnlyThreads s s' ∧ LaneBecomes s s' c l (faulted c 0x02 0 t) := by
  have hodd : (x.w64 && !evenReg d) = false := by
    cases hw : x.w64 <;> simp [(evenReg_iff d).2, hd, hw]
  obtain ⟨h1, h2⟩ := h.faults 0x02
  refine ⟨_, ?_, h1, h2⟩
  simp only [execSysr, withCur, h.cur, h.env, hx, hodd, h.pairs, Bool.or_false, Bool.false_eq_true, if_false]
  rw [foldLanes_fault_lone s c e g _ l _ h.nodup h.only]
  rw [h.withOperands_dst, hr]
  rfl

/-- `cntr` delivers the count, with what the execution itself retires. -/
theorem execCntr_reads {d : Reg} {ev : BitVec 4} (h : Lone s c e g [dst true d] l t t0 rd) :
    ∃ s' t1, execCntr g d ev s = .next s' ∧ OnlyThreads s s' ∧
      Sets (delivered d true (tget 0 e.ctx.counts ev.toNat + if ev = 0 then 1 else 0)) [] 0 t0 t1 ∧
      LaneBecomes s s' c l (goOn c.next t1) := by
  apply h.writes _ (delivered_nodup ..)
  simp only [execCntr, withCur, h.cur, h.env, h.pairs, Bool.false_eq_true, if_false, h.retiring_eq, pairRegs_eq_toPair,
    beq_iff_eq]
  rw [foldLanes_ok_lone s c e g _ l _ h.nodup h.only]
  rw [h.withOperands_dst]
  rfl

end

/-- The first part of O21: `sysr` and `cntr`. -/
theorem systemRegistersAndCountsAreReadByTheirRows : Parts.SystemRegistersAndCountsAreReadByTheirRows := by
  intro g d n ev s c e l t t0 rd htag
  refine ⟨fun w vs hrow hd h => ?_, fun hn => ?_, fun h => execCntr_reads h⟩
  · obtain rfl := h.thread_eq_of_dst.1
    obtain ⟨x, hx, rfl, hval⟩ := rowAgrees_of_mem s e t0 _ hrow
    rw [hval _ htag]
    by_cases hr : canRead (sysCell x e.ctx.tag) = true
    · rw [if_pos hr]
      exact execSysr_reads h hx hd hr
    · rw [if_neg hr]
      exact execSysr_rights h hx hd (by simpa using hr)
  · have hx : sysReg n.toNat = none := sysReg_eq_none s e t _ hn
    apply faultsAlike_of_allFault
    intro s c e hc he _
    change execSysr g d n s = _
    simp only [execSysr, withCur, hc, he, hx]
    rfl

/-! ## Updates of function-wide objects (R330) -/

/-- Counting the updates of live instances changes their counts alone. -/
theorem countUpdates_eq (s : State) (home : Nat) :
    countUpdates s home = { s with instSeq := (countUpdates s home).instSeq } := by
  have hfold : ∀ (ls : List Nat) (F : State → Nat → State), (∀ s i, F s i = { s with instSeq := (F s i).instSeq }) →
      ∀ s, ls.foldl F s = { s with instSeq := (ls.foldl F s).instSeq } := by
    intro ls F hF
    induction ls with
    | nil => exact fun _ => rfl
    | cons i ls ih =>
      intro s
      rw [List.foldl_cons, ih (F s i), hF s i]
  exact hfold s.liveInst _ (fun _ _ => rfl) s

/-- The mask that a read gives is the one of the last update. -/
theorem pmaskRead_of_last (s : State) (f : VFunc) (us : List Update) (u : Update) (m : Byte) (hu : s.updates = us ++ [u])
    (hv : u.vf = f.vf) (hm : u.obj = .mask m) : pmaskRead s f = m := by
  simp [pmaskRead, hu, hv, hm]

theorem pmaskRead_of_nil (s : State) (f : VFunc) (hu : s.updates = []) : pmaskRead s f = f.pmask := by
  simp [pmaskRead, hu]

/-- An update that goes to the live instances first. -/
theorem postUpdate_live (s : State) (vf : Nat) (x : Replica) (h : s.liveInst.isEmpty = false) :
    postUpdate s vf x = { s with
      updates := s.updates ++ [⟨8, vf, x, s.liveInst.map fun i => (i, tget 0 s.instSeq (8 * 16 + i) % 2 ^ 16), []⟩],
      instSeq := (postUpdate s vf x).instSeq } := by
  rw [postUpdate, h]
  simp only [Bool.false_eq_true, if_false]
  rw [countUpdates_eq]

/-- What a new placement mask changes: the mask of its function, or the updates that carry it. -/
theorem postMask_spec (s : State) (vf : Nat) (m : Byte) (f : VFunc) (hf : getFunc s vf = some f)
    (hu : s.liveInst = [] → s.updates = []) :
    postMask s vf m = { s with funcs := (postMask s vf m).funcs, updates := (postMask s vf m).updates,
                               instSeq := (postMask s vf m).instSeq } ∧
    ∃ f', getFunc (postMask s vf m) vf = some f' ∧ { f' with pmask := f.pmask } = f ∧
      pmaskRead (postMask s vf m) f' = m := by
  have hvf : f.vf = vf := find_key VFunc.vf vf s.funcs f hf
  cases hl : s.liveInst.isEmpty with
  | true =>
    have hp : postMask s vf m = modFunc s vf fun f => { f with pmask := m } := by
      simp [postMask, postUpdate, hl, applyReplica]
    have hn : s.updates = [] := hu (by simpa using hl)
    rw [hp]
    refine ⟨rfl, { f with pmask := m }, ?_, rfl, pmaskRead_of_nil _ _ hn⟩
    rw [getFunc_modFunc _ _ _ _ (by exact fun _ => rfl), if_pos rfl, hf]
    rfl
  | false =>
    rw [postMask, postUpdate_live s vf _ hl]
    exact ⟨rfl, f, hf, rfl, pmaskRead_of_last _ _ _ _ m rfl hvf.symm rfl⟩

/-! ## `sysw` -/

section
variable {s : State} {c : Cur} {e : Env} {g : Guard} {l : Nat} {t t0 : Thread} {rd : Nat → Word} {a : Reg} {n : BitVec 12}
  {x : SysReg}

/-- The value that `sysw` writes. -/
def sysOperand (x : SysReg) (rd : Nat → Word) (a : Reg) : Nat := if x.w64 then pairOf rd a.toNat else (rd a.toNat).toNat

/-- `sysw` of a register that some authority may write, in its one lane. -/
theorem execSysw_eq (h : Lone s c e g [src x.w64 a] l t t0 rd) (hx : sysReg n.toNat = some x)
    (hw : sysWritable x = true) (ha : x.w64 = true → a.toNat % 2 = 0) :
    execSysw g a n s = .next (foldLanes s c e g fun l s1 =>
      withOperands e (execRec s c e g) c.gid [src x.w64 a] l s1 fun rd t s2 =>
        if !canWrite (sysCell x e.ctx.tag) then .fault { cls := clsRights }
        else if sysReserved n.toNat (sysOperand x rd a) then .fault { cls := clsIllegal }
        else .ok (sysStore (modLane s2 c.gid l fun _ => t) e c.gid l n.toNat (sysOperand x rd a))) := by
  have hodd : (x.w64 && !evenReg a) = false := by
    cases hw : x.w64 <;> simp [(evenReg_iff a).2, ha, hw]
  simp only [execSysw, withCur, h.cur, h.env, hx, hw, hodd, h.pairs, Bool.or_false, Bool.not_true, Bool.false_eq_true,
    if_false, h.still]
  rfl

/-- `sysw` of a register that the context may not write. -/
theorem execSysw_rights (h : Lone s c e g [src x.w64 a] l t t0 rd) (hx : sysReg n.toNat = some x)
    (hw : sysWritable x = true) (ha : x.w64 = true → a.toNat % 2 = 0) (hc : canWrite (sysCell x e.ctx.tag) = false) :
    ∃ s', execSysw g a n s = .next s' ∧ OnlyThreads s s' ∧ LaneBecomes s s' c l (faulted c 0x02 0 t) := by
  obtain ⟨h1, h2⟩ := h.faults 0x02
  refine ⟨_, (execSysw_eq h hx hw ha).trans (congrArg _ ?_), h1, h2⟩
  rw [foldLanes_fault_lone s c e g _ l _ h.nodup h.only]
  rw [h.withOperands_eq, hc]
  rfl

/-- `sysw` of a value with a reserved bit. -/
theorem execSysw_reserved (h : Lone s c e g [src x.w64 a] l t t0 rd) (hx : sysReg n.toNat = some x)
    (hw : sysWritable x = true) (ha : x.w64 = true → a.toNat % 2 = 0) (hc : canWrite (sysCell x e.ctx.tag) = true)
    (hr : sysReserved n.toNat (sysOperand x rd a) = true) :
    ∃ s', execSysw g a n s = .next s' ∧ OnlyThreads s s' ∧ LaneBecomes s s' c l (faulted c 0x01 0 t) := by
  obtain ⟨h1, h2⟩ := h.faults 0x01
  refine ⟨_, (execSysw_eq h hx hw ha).trans (congrArg _ ?_), h1, h2⟩
  rw [foldLanes_fault_lone s c e g _ l _ h.nodup h.only]
  rw [h.withOperands_eq, hc, hr]
  rfl

/-- `sysw` of a value that the register takes. -/
theorem execSysw_stores (h : Lone s c e g [src x.w64 a] l t t0 rd) (hx : sysReg n.toNat = some x)
    (hw : sysWritable x = true) (ha : x.w64 = true → a.toNat % 2 = 0) (hc : canWrite (sysCell x e.ctx.tag) = true)
    (hr : sysReserved n.toNat (sysOperand x rd a) = false) (P : State)
    (hP : sysStore (modLane (idled s c g) c.gid l fun _ => t0) e c.gid l n.toNat (sysOperand x rd a) = P) :
    execSysw g a n s = .next (countEvent (modLane P c.gid l (advance c)) e.ctx.asid 0 1) := by
  refine (execSysw_eq h hx hw ha).trans (congrArg _ ?_)
  rw [foldLanes_ok_lone s c e g _ l _ h.nodup h.only]
  rw [h.withOperands_eq, hc, hr, ← hP]
  rfl

/-- A write of %fpstat is a write of the lane's thread. -/
theorem sysStore_fpstat (s : State) (e : Env) (gid l v : Nat) (t : Thread) (ht : t.lane = l) :
    sysStore (modLane s gid l fun _ => t) e gid l 0x015 v = modLane s gid l fun _ => { t with fpstat := BitVec.ofNat 32 v } :=
  modLane_modLane _ _ _ _ _ fun _ _ => ht

/-- The lane goes on in a state that the update of a mask has changed. -/
theorem Lone.mask_goes {us : List RegUse} (h : Lone s c e g us l t t0 rd) (P : State)
    (hP : P = { (modLane (idled s c g) c.gid l fun _ => t0) with
      funcs := P.funcs, updates := P.updates, instSeq := P.instSeq }) :
    let s' := countEvent (modLane P c.gid l (advance c)) e.ctx.asid 0 1
    Besides (fun x => { x with funcs := [], updates := [], instSeq := [] }) s s' ∧
      LaneBecomes s s' c l (goOn c.next t0) := by
  have hmid : Framed (modLane (idled s c g) c.gid l fun _ => t0) P := by
    rw [hP]
    exact ⟨fun _ => rfl, fun _ => rfl⟩
  have hg : P.groups = (modLane (idled s c g) c.gid l fun _ => t0).groups := by rw [hP]
  refine ⟨⟨?_, (onlyThreads_idled_modLane s c g l _).2.trans (hmid.trans (onlyThreads_retires ..).2)⟩,
    h.becomes t0 h.taken_lane P hg 1⟩
  exact (congrArg (fun x => { bare x with funcs := [], updates := [], instSeq := [] }) hP :)

theorem getCtx_modLane (s : State) (gid l a : Nat) (f : Thread → Thread) : getCtx (modLane s gid l f) a = getCtx s a := rfl

theorem getCtx_idled (s : State) (c : Cur) (g : Guard) (a : Nat) : getCtx (idled s c g) a = getCtx s a := rfl

theorem bare_modCtx (s : State) (a : Nat) (f : Context → Context) : bare (modCtx s a f) = bare s := rfl

theorem bare_modLane (s : State) (gid l : Nat) (f : Thread → Thread) : bare (modLane s gid l f) = bare s := rfl

theorem bare_idled (s : State) (c : Cur) (g : Guard) : bare (idled s c g) = bare s := rfl

/-- The lane goes on in a state in which %trvec of its context is new. -/
theorem Lone.trvec_goes {us : List RegUse} (h : Lone s c e g us l t t0 rd) (v : DWord) :
    let s' := countEvent (modLane (modCtx (modLane (idled s c g) c.gid l fun _ => t0) e.ctx.asid
      fun c => { c with trvec := v }) c.gid l (advance c)) e.ctx.asid 0 1
    bare s' = bare s ∧ (∀ gid, (getGroup s' gid).map groupFrame = (getGroup s gid).map groupFrame) ∧
      (∀ x, x ≠ e.ctx.asid → getCtx s' x = getCtx s x) ∧
      (getCtx s' e.ctx.asid).map ctxFrame = some (ctxFrame { e.ctx with trvec := v }) ∧
      LaneBecomes s s' c l (goOn c.next t0) := by
  intro s'
  have hget : ∀ x, getCtx s' x = if e.ctx.asid = x then
      (getCtx s x).map fun c => { c with trvec := v, counts := tput 0 c.counts 0 (tget 0 c.counts 0 + 1) }
      else getCtx s x := by
    intro x
    simp only [s']
    rw [countEvent, modCtx_modLane_comm, modCtx_modCtx _ _ _ _ (by exact fun _ => rfl),
      getCtx_modCtx _ _ _ _ (by exact fun _ => rfl), getCtx_modLane, getCtx_modLane, getCtx_idled]
  refine ⟨?_, fun gid => ?_, fun x hx => ?_, ?_,
    h.becomes t0 h.taken_lane (modCtx (modLane (idled s c g) c.gid l fun _ => t0) e.ctx.asid _) rfl 1⟩
  · simp only [s', countEvent, bare_modCtx, bare_modLane, bare_idled]
  · exact ((onlyThreads_retires _ c l e.ctx.asid 1).2.1 gid).trans ((onlyThreads_idled_modLane s c g l _).2.1 gid)
  · rw [hget, if_neg (Ne.symm hx)]
  · rw [hget, if_pos rfl, h.getCtx_eq]
    rfl

end

/-- The registers that some authority may write. -/
theorem not_sysWritable (n : Nat) (x : SysReg) (hx : sysReg n = some x) (hn : n ∉ [0x015, 0x016, 0x01B]) :
    sysWritable x = false := by
  unfold sysReg at hx
  split at hx <;> simp_all <;> subst hx <;> rfl

/-- %fpstat, %trvec and %pmask, the registers that some authority may write. -/
def fpstatReg : SysReg := ⟨false, true, ⟨[], [.r, .w], []⟩⟩
def trvecReg : SysReg := ⟨true, true, ⟨[], [.r, .w], []⟩⟩
def pmaskReg : SysReg := ⟨false, false, ⟨[.r, .w], [], []⟩⟩

/-- The second part of O21: `sysw`. -/
theorem systemRegistersAreWrittenByTheirRows : Parts.SystemRegistersAreWrittenByTheirRows := by
  intro g a s c e l t t0 rd htag
  refine ⟨fun h => ⟨fun hv => ?_, fun hv => ?_, fun ht hv hu f hf => ?_, fun ht hv => ?_, fun ht => ?_⟩,
    fun h ha => ?_, ?_⟩
  · have hr : sysReserved 0x015 (rd a.toNat).toNat = false := by simp [sysReserved]; omega
    obtain ⟨h1, h2⟩ := h.goes { t0 with fpstat := rd a.toNat } h.taken_lane
    refine ⟨_, execSysw_stores (n := 0x015) (x := fpstatReg) h rfl rfl (fun hw => by cases hw) rfl hr _ ?_, h1, h2⟩
    refine (sysStore_fpstat _ e c.gid l _ t0 h.taken_lane).trans ?_
    simp [sysOperand, fpstatReg]
  · have hr : sysReserved 0x015 (rd a.toNat).toNat = true := by simp [sysReserved]; omega
    exact execSysw_reserved (n := 0x015) (x := fpstatReg) h rfl rfl (fun hw => by cases hw) rfl hr
  · have hr : sysReserved 0x01B (rd a.toNat).toNat = false := by simp [sysReserved]; omega
    have hc : canWrite (sysCell pmaskReg e.ctx.tag) = true := by rw [ht]; rfl
    obtain ⟨hp, f', hf', hff, hm⟩ := postMask_spec (modLane (idled s c g) c.gid l fun _ => t0) e.ctx.vf
      (BitVec.ofNat 8 (rd a.toNat).toNat) f hf hu
    obtain ⟨h1, h2⟩ := h.mask_goes _ hp
    refine ⟨_, f', execSysw_stores (n := 0x01B) (x := pmaskReg) h rfl rfl (fun hw => by cases hw) hc hr _ rfl, h1, hf',
      hff, ?_, h2⟩
    refine (congrArg BitVec.toNat hm).trans ?_
    rw [BitVec.toNat_ofNat]
    omega
  · have hr : sysReserved 0x01B (rd a.toNat).toNat = true := by simp [sysReserved]; omega
    have hc : canWrite (sysCell pmaskReg e.ctx.tag) = true := by rw [ht]; rfl
    exact execSysw_reserved (n := 0x01B) (x := pmaskReg) h rfl rfl (fun hw => by cases hw) hc hr
  · have hc : canWrite (sysCell pmaskReg e.ctx.tag) = false := by rw [ht]; rfl
    exact execSysw_rights (n := 0x01B) (x := pmaskReg) h rfl rfl (fun hw => by cases hw) hc
  · have he := execSysw_stores (n := 0x016) (x := trvecReg) h rfl rfl (fun _ => ha) rfl rfl _ rfl
    exact ⟨_, he, pairOf_eq_pair64 rd a ▸ h.trvec_goes (BitVec.ofNat 64 (pairOf rd a.toNat))⟩
  · intro n hn
    apply faultsAlike_of_allFault
    intro s c e hc he _
    change execSysw g a n s = _
    have hn' : n.toNat ∉ [0x015, 0x016, 0x01B] := by
      intro hm
      apply hn
      simpa [← BitVec.toNat_inj] using hm
    cases hx : sysReg n.toNat with
    | none =>
      simp only [execSysw, withCur, hc, he, hx]
      rfl
    | some x =>
      simp only [execSysw, withCur, hc, he, hx, not_sysWritable n.toNat x hx hn', Bool.not_false, Bool.true_or, if_true]
      rfl

/-- Settles O21: a row of Table 2.5 is a register of the model with the same cells (`rowAgrees_of_mem`), and one lane that
acts alone reads it, writes it or faults by its cell. -/
theorem systemRegistersFollowTheirRows : Obligations.SystemRegistersFollowTheirRows :=
  ⟨systemRegistersAndCountsAreReadByTheirRows, systemRegistersAreWrittenByTheirRows⟩

end Sys2Proof.Machine
end

section
/-!
REGISTER WINDOWS (R316, Table 20.2): an access that its cell allows and one that it denies, and what a write leaves of a
function and of its queues.
-/

namespace Sys2Proof.Machine

/-! ## Functions and queues -/

/-- One function has become `f`; nothing else has changed. -/
def FuncIs (s s' : State) (vf : Nat) (f : VFunc) : Prop :=
  s' = { s with funcs := s'.funcs } ∧ getFunc s' vf = some f ∧ ∀ v, v ≠ vf → getFunc s' v = getFunc s v

/-- Queue `q` of the function `f` has become `x`; nothing else has changed. -/
def QueueIs (s s' : State) (vf : Nat) (f : VFunc) (q : Nat) (x : CQueue) : Prop :=
  s' = { s with funcs := s'.funcs } ∧ (∀ v, v ≠ vf → getFunc s' v = getFunc s v) ∧
    ∃ f', getFunc s' vf = some f' ∧ cmdQueue f' q = x ∧ (∀ p, p ≠ q → cmdQueue f' p = cmdQueue f p) ∧
      { f' with queues := [] } = { f with queues := [] }

theorem funcIs_modFunc (s : State) (vf : Nat) (f : VFunc) (h : VFunc → VFunc) (hf : getFunc s vf = some f)
    (hh : ∀ x, (h x).vf = x.vf) : FuncIs s (modFunc s vf h) vf (h f) := by
  refine ⟨rfl, ?_, fun v hv => ?_⟩
  · rw [getFunc_modFunc s vf vf h hh, if_pos rfl, hf]
    rfl
  · rw [getFunc_modFunc s vf v h hh, if_neg (Ne.symm hv)]

/-- A function with a queue updated, which stands at reset where it is not listed. -/
def withQueue (f : VFunc) (q : Nat) (g : CQueue → CQueue) : VFunc :=
  { f with queues := if f.queues.any (·.q == q) then modBy (·.q == q) g f.queues else f.queues ++ [g (CQueue.reset q)] }

theorem modCmdQueue_eq (s : State) (vf q : Nat) (g : CQueue → CQueue) :
    modCmdQueue s vf q g = modFunc s vf fun f => withQueue f q g := rfl

theorem cmdQueue_withQueue (f : VFunc) (q p : Nat) (g : CQueue → CQueue) (hg : ∀ x, (g x).q = x.q) :
    cmdQueue (withQueue f q g) p = if p = q then g (cmdQueue f q) else cmdQueue f p := by
  have hr : (g (CQueue.reset q)).q = q := hg _
  by_cases ha : f.queues.any (·.q == q) = true
  · have hw : (withQueue f q g).queues = modBy (·.q == q) g f.queues := if_pos ha
    rw [cmdQueue, hw, find_modBy CQueue.q q p g f.queues hg]
    by_cases hp : p = q
    · subst hp
      obtain ⟨x, hx⟩ := Option.isSome_iff_exists.1 (List.find?_isSome (p := fun y : CQueue => y.q == p) |>.2
        (by simpa using ha))
      simp [cmdQueue, hx]
    · simp [cmdQueue, hp, Ne.symm hp]
  · have hw : (withQueue f q g).queues = f.queues ++ [g (CQueue.reset q)] := if_neg ha
    have hn : f.queues.find? (fun y => y.q == q) = none := by
      rw [List.find?_eq_none]
      simpa using ha
    rw [cmdQueue, hw, List.find?_append]
    by_cases hp : p = q
    · subst hp
      simp [cmdQueue, hn, hr]
    · simp [cmdQueue, hp, hr, Ne.symm hp]

theorem withQueue_rest (f : VFunc) (q : Nat) (g : CQueue → CQueue) :
    { withQueue f q g with queues := [] } = { f with queues := [] } := rfl

theorem getFunc_modCmdQueue (s : State) (vf q : Nat) (f : VFunc) (g : CQueue → CQueue) (hf : getFunc s vf = some f) :
    getFunc (modCmdQueue s vf q g) vf = some (withQueue f q g) :=
  (funcIs_modFunc s vf f (withQueue · q g) hf fun _ => rfl).2.1

/-- An update of a queue. -/
theorem queueIs_modCmdQueue (s : State) (vf q : Nat) (f : VFunc) (g : CQueue → CQueue) (hf : getFunc s vf = some f)
    (hg : ∀ x, (g x).q = x.q) : QueueIs s (modCmdQueue s vf q g) vf f q (g (cmdQueue f q)) := by
  obtain ⟨h1, h2, h3⟩ := funcIs_modFunc s vf f (withQueue · q g) hf fun _ => rfl
  refine ⟨h1, h3, _, h2, ?_, fun p hp => ?_, withQueue_rest f q g⟩
  · rw [cmdQueue_withQueue f q q g hg, if_pos rfl]
  · rw [cmdQueue_withQueue f q p g hg, if_neg hp]

theorem queueIs_setQstat (s : State) (vf q code tag : Nat) (f : VFunc) (hf : getFunc s vf = some f) :
    QueueIs s (setQstat s vf q code tag) vf f q { cmdQueue f q with qstat := qstatOf code tag } :=
  queueIs_modCmdQueue s vf q f _ hf fun _ => rfl

theorem queueIs_self (s : State) (vf q : Nat) (f : VFunc) (hf : getFunc s vf = some f) :
    QueueIs s s vf f q (cmdQueue f q) :=
  ⟨rfl, fun _ _ => rfl, f, hf, rfl, fun _ _ => rfl, rfl⟩

/-- One update of a queue after another. -/
theorem QueueIs.then_modCmdQueue {s s' : State} {vf q : Nat} {f : VFunc} {x : CQueue} (h : QueueIs s s' vf f q x)
    (g : CQueue → CQueue) (hg : ∀ x, (g x).q = x.q) : QueueIs s (modCmdQueue s' vf q g) vf f q (g x) := by
  obtain ⟨h1, h2, f1, hf1, rfl, h4, h5⟩ := h
  obtain ⟨k1, k2, f2, hf2, k3, k4, k5⟩ := queueIs_modCmdQueue s' vf q f1 g hf1 hg
  refine ⟨?_, fun v hv => (k2 v hv).trans (h2 v hv), f2, hf2, k3, fun p hp => (k4 p hp).trans (h4 p hp), k5.trans h5⟩
  rw [k1, h1]

/-! ## The registers of a queue -/

/-- The register at an offset in the block of a queue. -/
def queueReg (q o : Nat) : Option WReg :=
  match o with
  | 0x00 => some (.qbase q)
  | 0x08 => some (.qctl q)
  | 0x10 => some (.qtail q)
  | 0x18 => some (.qhead q)
  | 0x20 => some (.qtl q)
  | 0x28 => some (.qsig q)
  | 0x30 => some (.qstat q)
  | _ => none

theorem wregAt_queue (q o : Nat) (hq : q < 64) (ho : o < 0x40) : wregAt (queueOff q o) = queueReg q o := by
  have hlo : 0x1000 ≤ queueOff q o := by simp only [queueOff]; omega
  have hhi : queueOff q o < 0x2000 := by simp only [queueOff]; omega
  have hdiv : (queueOff q o - 0x1000) / 0x40 = q := by simp only [queueOff]; omega
  have hmod : (queueOff q o - 0x1000) % 0x40 = o := by simp only [queueOff]; omega
  unfold wregAt
  rw [if_pos (by simp [hlo, hhi])]
  simp only [hdiv, hmod]
  rfl

theorem actorOf_owner (s : State) (vf st : Nat) (c : Context) (hc : streamCtx s vf st = some c) (ht : c.tag = 1) :
    actorOf s (.stream vf st) = ⟨1, some c.asid, false, st + 1⟩ := by
  simp [actorOf, hc, ht]

/-! ## An access to a window -/

section
variable {s : State} {path : Path} {vf w off : Nat} {f : VFunc} {r : WReg}

theorem bar0Write_allowed (hup : windowsUp s = true) (ho : pathOpen s path = true) (hw : windowOf s path vf = some w)
    (hf : getFunc s w = some f) (hr : wregAt off = some r) (v : DWord)
    (hd : wregDenied f (actorOf s path) r true v = false) :
    bar0Write s path vf off v = wregStore s w (actorOf s path) r v := by
  simp [bar0Write, hup, ho, hw, hf, hr, hd]

theorem bar0Write_denied (hup : windowsUp s = true) (ho : pathOpen s path = true) (hw : windowOf s path vf = some w)
    (hf : getFunc s w = some f) (hr : wregAt off = some r) (v : DWord)
    (hd : wregDenied f (actorOf s path) r true v = true) :
    bar0Write s path vf off v = denyPath s path w off true := by
  simp [bar0Write, hup, ho, hw, hf, hr, hd]

theorem bar0Read_allowed (hup : windowsUp s = true) (ho : pathOpen s path = true) (hw : windowOf s path vf = some w)
    (hf : getFunc s w = some f) (hr : wregAt off = some r) (hd : wregDenied f (actorOf s path) r false 0 = false) :
    bar0Read s path vf off = (s, wregRead s f (actorOf s path) r) := by
  simp only [bar0Read, hup, ho, hw, hf, hr, hd, Bool.not_true, Bool.or_self, Bool.false_eq_true, if_false]

theorem bar0Read_denied (hup : windowsUp s = true) (ho : pathOpen s path = true) (hw : windowOf s path vf = some w)
    (hf : getFunc s w = some f) (hr : wregAt off = some r) (hd : wregDenied f (actorOf s path) r false 0 = true) :
    bar0Read s path vf off = (denyPath s path w off false, 0) := by
  simp only [bar0Read, hup, ho, hw, hf, hr, hd, Bool.not_true, Bool.or_self, Bool.false_eq_true, if_false, if_true]

end

/-- A value of 32 bits passes a narrow register's write as it is. -/
theorem narrow_setWidth (v : Word) : BitVec.ofNat 64 ((v.setWidth 64).toNat % 2 ^ 32) = v.setWidth 64 := by
  apply BitVec.eq_of_toNat_eq
  have := v.isLt
  simp only [BitVec.toNat_ofNat, BitVec.toNat_setWidth]
  omega

/-- A write of a narrow register. -/
theorem wregStore_narrow (s : State) (vf : Nat) (a : Actor) (r : WReg) (v : DWord) (hn : wregWide r = false)
    (hv : v.toNat < 2 ^ 32) (hr : wregReserved r v = false) : wregStore s vf a r v = wregWrite s vf a r v := by
  have hv' : BitVec.ofNat 64 (v.toNat % 2 ^ 32) = v := by
    apply BitVec.eq_of_toNat_eq
    simp only [BitVec.toNat_ofNat]
    omega
  simp only [wregStore, hn, Bool.false_eq_true, if_false, hv', hr]

/-- A write of a wide register. -/
theorem wregStore_wide (s : State) (vf : Nat) (a : Actor) (r : WReg) (v : DWord) (hn : wregWide r = true)
    (hr : wregReserved r v = false) : wregStore s vf a r v = wregWrite s vf a r v := by
  simp only [wregStore, hn, if_true, hr, Bool.false_eq_true, if_false, if_true]

/-- A write that sets a reserved bit is discarded. -/
theorem wregStore_reserved (s : State) (vf : Nat) (a : Actor) (r : WReg) (v : DWord) (hn : wregWide r = false)
    (hv : v.toNat < 2 ^ 32) (hr : wregReserved r v = true) : wregStore s vf a r v = s := by
  have hv' : BitVec.ofNat 64 (v.toNat % 2 ^ 32) = v := by
    apply BitVec.eq_of_toNat_eq
    simp only [BitVec.toNat_ofNat]
    omega
  simp only [wregStore, hn, Bool.false_eq_true, if_false, hv', hr, if_true]

theorem setWidth_lt (v : Word) : (v.setWidth 64).toNat < 2 ^ 32 := by
  have := v.isLt
  simp only [BitVec.toNat_setWidth]
  omega

theorem toNat_setWidth_word (v : Word) : (v.setWidth 64).toNat = v.toNat := by
  have := v.isLt
  simp only [BitVec.toNat_setWidth]
  omega

end Sys2Proof.Machine
end

section
/-!
WINDOW ACCESSES BY WHO MAKES THEM: the writes of a context on its own path, and those of the operator.
-/

namespace Sys2Proof.Machine

/-! ## The owner's context on a stream of its function -/

/-! ## QCTL (R317, R320) -/

/-- A timeline at hand, one that its seat reaches. -/
theorem timelineOk_of_xlat (s : State) (c : Context) (qtl : DWord) (k : Nat) (ha : bitsN qtl.toNat 47 0 % 16 = 0)
    (hk : seatXlat s c (qtl.getLsbD 63) .write (bitsN qtl.toNat 47 0) 16 = (s, some k)) :
    timelineOk s c qtl = (s, true) := by
  have ha' : (bitsN qtl.toNat 47 0 % 16 != 0) = false := by simp [ha]
  simp only [timelineOk, ha', Bool.false_eq_true, if_false, hk, Option.isSome_some]

theorem timelineOk_misaligned (s : State) (c : Context) (qtl : DWord) (ha : bitsN qtl.toNat 47 0 % 16 ≠ 0) :
    timelineOk s c qtl = (s, false) := by
  simp [timelineOk, ha]

/-- A queue that EN starts, not bound yet. -/
def startedQueue (s : State) (k log2 : Nat) (x : CQueue) : CQueue :=
  { x with en := true, log2 := log2, head := x.tail, asid := 0, issued := memRead s.mem (k + 8) 8 % 2 ^ 63 }

section
variable {s : State} {vf q asid log2 : Nat} {f : VFunc} {c : Context}

/-- EN starts a queue whose timeline is at hand, and its binding is sent. -/
theorem enableQueue_starts (hf : getFunc s vf = some f) (hc : getCtx s asid = some c) (hlive : c.live = true)
    (hlo : 4 ≤ log2) (hhi : log2 ≤ 16) (hq : (cmdQueue f q).qtl ≠ 0) (k : Nat)
    (ha : bitsN (cmdQueue f q).qtl.toNat 47 0 % 16 = 0)
    (hw : seatXlat s c ((cmdQueue f q).qtl.getLsbD 63) .write (bitsN (cmdQueue f q).qtl.toNat 47 0) 16 = (s, some k))
    (hr : seatXlat s c ((cmdQueue f q).qtl.getLsbD 63) .read (bitsN (cmdQueue f q).qtl.toNat 47 0) 16 = (s, some k)) :
    enableQueue s vf q asid log2 = postUpdate (modCmdQueue s vf q (startedQueue s k log2)) vf (.binding q asid) := by
  have hbad : (log2 < 4 || 16 < log2 || (cmdQueue f q).qtl == 0 || !c.live || !true) = false := by
    have hz : ((cmdQueue f q).qtl == 0) = false := by simpa using hq
    rw [hz, hlive]
    simp [hlo, hhi]
  simp only [enableQueue, hf, hc, timelineOk_of_xlat s c _ k ha hw, hbad, Bool.false_eq_true, if_false, hr]
  rfl

/-- EN with a timeline that is not aligned only sets QSTAT. -/
theorem enableQueue_misaligned (hf : getFunc s vf = some f) (hc : getCtx s asid = some c)
    (ha : bitsN (cmdQueue f q).qtl.toNat 47 0 % 16 ≠ 0) :
    enableQueue s vf q asid log2 = setQstat s vf q 0x0B 0 := by
  simp only [enableQueue, hf, hc, timelineOk_misaligned s c _ ha, Bool.not_false, Bool.or_true, if_true]

theorem writeQctl_clear (hf : getFunc s vf = some f) (a : Actor) (v : DWord) (hv : v.getLsbD 0 = false) :
    writeQctl s vf q a v = modCmdQueue s vf q fun x => { x with en := false, log2 := bitsN v.toNat 5 1 } := by
  simp only [writeQctl, hf, hv, Bool.not_false, if_true]

theorem writeQctl_set (hf : getFunc s vf = some f) (a : Actor) (v : DWord) (hv : v.getLsbD 0 = true)
    (hen : (cmdQueue f q).en = false) (ha : a.asid = some asid) :
    writeQctl s vf q a v = enableQueue s vf q asid (bitsN v.toNat 5 1) := by
  simp only [writeQctl, hf, hv, Bool.not_true, Bool.false_eq_true, if_false, hen, ha]

/-- With nothing live a binding is in force at once (R330). -/
theorem postUpdate_binding_alone (s : State) (hc : (getCtx s asid).isSome = true) (hl : s.liveInst = []) :
    postUpdate s vf (.binding q asid) = modCmdQueue s vf q fun x => { x with asid := asid } := by
  simp [postUpdate, hl, applyReplica, hc]

theorem postUpdate_mask_alone (s : State) (m : Byte) (hl : s.liveInst = []) :
    postUpdate s vf (.mask m) = modFunc s vf fun f => { f with pmask := m } := by
  simp [postUpdate, hl, applyReplica]

end

/-! ## The owner's context on a stream of its function -/

/-- The owner's context as an actor on a stream. -/
def ownerOn (c : Context) (st : Nat) : Actor := ⟨1, some c.asid, false, st + 1⟩

theorem withEn_en (v : Word) (b : Bool) : (withEn v b).getLsbD 0 = b := by
  cases b <;> simp [withEn]

/-- EN apart, a QCTL value is the word written. -/
theorem withEn_half (v : Word) (b : Bool) : (withEn v b).toNat / 2 = v.toNat / 2 := by
  have hv := v.isLt
  cases b with
  | true =>
    rw [withEn, if_pos rfl, BitVec.toNat_or, toNat_setWidth_word, Nat.or_div_two]
    exact Nat.or_zero _
  | false =>
    have hm : (~~~(1 : DWord)).toNat / 2 = 2 ^ 63 - 1 := by decide
    rw [withEn, if_neg (by decide), BitVec.toNat_and, toNat_setWidth_word, Nat.and_div_two, hm,
      Nat.and_two_pow_sub_one_eq_mod]
    exact Nat.mod_eq_of_lt (by omega)

theorem withEn_log2 (v : Word) (b : Bool) : bitsN (withEn v b).toNat 5 1 = v.toNat / 2 % 32 := by
  rw [← withEn_half v b]
  rfl

theorem withEn_lt (v : Word) (b : Bool) : (withEn v b).toNat < 2 ^ 32 := by
  have hv := v.isLt
  have := withEn_half v b
  omega

theorem withEn_unreserved (v : Word) (b : Bool) (q : Nat) (hv : v.toNat < 64) :
    wregReserved (.qctl q) (withEn v b) = false := by
  have := withEn_half v b
  simp [wregReserved]
  omega

section
variable {s : State} {vf st q : Nat} {f : VFunc} {c : Context}

/-- A write of a register of a queue that the owner's cell allows. -/
theorem owner_write (hup : windowsUp s = true) (hf : getFunc s vf = some f) (hc : streamCtx s vf st = some c)
    (ht : c.tag = 1) (hq : q < 64) (o : Nat) (r : WReg) (v : DWord) (ho : o < 0x40) (hr : queueReg q o = some r)
    (hd : wregDenied f (ownerOn c st) r true v = false) :
    bar0Write s (.stream vf st) vf (queueOff q o) v = wregStore s vf (ownerOn c st) r v := by
  have ha : actorOf s (.stream vf st) = ownerOn c st := actorOf_owner s vf st c hc ht
  rw [bar0Write_allowed hup rfl rfl hf ((wregAt_queue q o hq ho).trans hr) v (by rw [ha]; exact hd), ha]

/-- QTAIL within the ring, and beyond it. -/
theorem qtailWrite_owner (hup : windowsUp s = true) (hf : getFunc s vf = some f) (hc : streamCtx s vf st = some c)
    (ht : c.tag = 1) (hq : q < 64) (v : Word) :
    exec (.qtailWrite (.stream vf st) vf q v) s = .next
      (if 2 ^ (cmdQueue f q).log2 < (v - (cmdQueue f q).head).toNat then setQstat s vf q 0x0A 0
       else modCmdQueue s vf q fun x => { x with tail := v }) := by
  change Host.Outcome.next (bar0Write s (.stream vf st) vf (queueOff (q % 64) 0x10) (v.setWidth 64)) = _
  rw [Nat.mod_eq_of_lt hq, owner_write hup hf hc ht hq 0x10 (.qtail q) _ (by decide) rfl rfl,
    wregStore_narrow _ _ _ _ _ rfl (setWidth_lt v) rfl]
  have hv : (v.setWidth 64).setWidth 32 = v := by simp
  simp only [wregWrite, writeQtail, hf, hv]

/-- A write of QCTL. -/
theorem qctl_owner (hup : windowsUp s = true) (hf : getFunc s vf = some f) (hc : streamCtx s vf st = some c)
    (ht : c.tag = 1) (hq : q < 64) (v : Word) (b : Bool) (hv : v.toNat < 64) :
    bar0Write s (.stream vf st) vf (queueOff (q % 64) 0x08) (withEn v b) =
      writeQctl s vf q (ownerOn c st) (withEn v b) := by
  rw [Nat.mod_eq_of_lt hq, owner_write hup hf hc ht hq 0x08 (.qctl q) _ (by decide) rfl rfl,
    wregStore_narrow _ _ _ _ _ rfl (withEn_lt v b) (withEn_unreserved v b q hv)]
  rfl

/-- EN set, where the timeline is at hand. -/
theorem queueEnable_owner (hup : windowsUp s = true) (hf : getFunc s vf = some f) (hc : streamCtx s vf st = some c)
    (ht : c.tag = 1) (hq : q < 64) (v : Word) (hv : v.toNat < 64) (hen : (cmdQueue f q).en = false) :
    exec (.queueEnable (.stream vf st) vf q v) s = .next (enableQueue s vf q c.asid (v.toNat / 2 % 32)) := by
  change Host.Outcome.next (bar0Write s (.stream vf st) vf (queueOff (q % 64) 0x08) (withEn v true)) = _
  rw [qctl_owner hup hf hc ht hq v true hv, writeQctl_set hf _ _ (withEn_en v true) hen rfl, withEn_log2]

/-- EN clear. -/
theorem queueDisable_owner (hup : windowsUp s = true) (hf : getFunc s vf = some f) (hc : streamCtx s vf st = some c)
    (ht : c.tag = 1) (hq : q < 64) (v : Word) (hv : v.toNat < 64) :
    exec (.queueDisable (.stream vf st) vf q v) s =
      .next (modCmdQueue s vf q fun x => { x with en := false, log2 := v.toNat / 2 % 32 }) := by
  change Host.Outcome.next (bar0Write s (.stream vf st) vf (queueOff (q % 64) 0x08) (withEn v false)) = _
  rw [qctl_owner hup hf hc ht hq v false hv, writeQctl_clear hf _ _ (withEn_en v false), withEn_log2]

theorem qstatWrite_owner (hup : windowsUp s = true) (hf : getFunc s vf = some f) (hc : streamCtx s vf st = some c)
    (ht : c.tag = 1) (hq : q < 64) (d : DWord) :
    exec (.qstatWrite (.stream vf st) vf q d) s =
      .next (if d = 0 then modCmdQueue s vf q fun x => { x with qstat := 0 } else s) := by
  change Host.Outcome.next (bar0Write s (.stream vf st) vf (queueOff (q % 64) 0x30) d) = _
  rw [Nat.mod_eq_of_lt hq, owner_write hup hf hc ht hq 0x30 (.qstat q) _ (by decide) rfl rfl,
    wregStore_wide _ _ _ _ _ rfl rfl]
  simp only [wregWrite, beq_iff_eq]

theorem qbaseWrite_owner (hup : windowsUp s = true) (hf : getFunc s vf = some f) (hc : streamCtx s vf st = some c)
    (ht : c.tag = 1) (hq : q < 64) (d : DWord) (hd : bitsN d.toNat 62 48 = 0) :
    exec (.registerWrite (.stream vf st) .bar0 vf (0x1000 + 0x40 * q) d) s =
      .next (modCmdQueue s vf q fun x => { x with qbase := d }) := by
  change Host.Outcome.next (bar0Write s (.stream vf st) vf (queueOff q 0) d) = _
  rw [owner_write hup hf hc ht hq 0 (.qbase q) _ (by decide) rfl rfl,
    wregStore_wide _ _ _ _ _ rfl (by simp [wregReserved, hd])]
  rfl

theorem qbaseRead_owner (hup : windowsUp s = true) (hf : getFunc s vf = some f) (hc : streamCtx s vf st = some c)
    (ht : c.tag = 1) (hq : q < 64) :
    exec (.deniedWindowRead (.stream vf st) .bar0 vf (0x1000 + 0x40 * q)) s =
      .next { s with lastRead := (cmdQueue f q).qbase } := by
  have ha : actorOf s (.stream vf st) = ownerOn c st := actorOf_owner s vf st c hc ht
  have hr : bar0Read s (.stream vf st) vf (queueOff q 0) = (s, (cmdQueue f q).qbase) := by
    rw [bar0Read_allowed hup rfl rfl hf (wregAt_queue q 0 hq (by decide)) (by rw [ha]; rfl)]
    rfl
  change Host.Outcome.next { (bar0Read s (.stream vf st) vf (queueOff q 0)).1 with
    lastRead := (bar0Read s (.stream vf st) vf (queueOff q 0)).2 } = _
  rw [hr]

end

/-! ## The operator on a path bound to no context -/

section
variable {s : State} {vf : Nat} {f : VFunc}

/-- A denied write. -/
theorem plainWrite_denied (hup : windowsUp s = true) (hf : getFunc s vf = some f) (off : Nat) (r : WReg) (v : DWord)
    (hr : wregAt off = some r) (hd : wregDenied f .operator r true v = true) :
    bar0Write s (.plain vf) vf off v = denyBar0 s vf off true :=
  bar0Write_denied hup rfl rfl hf hr v hd

/-- An allowed write of a narrow register. -/
theorem plainWrite_allowed (hup : windowsUp s = true) (hf : getFunc s vf = some f) (off : Nat) (r : WReg) (v : Word)
    (hr : wregAt off = some r) (hd : wregDenied f .operator r true (v.setWidth 64) = false) (hn : wregWide r = false)
    (hv : wregReserved r (v.setWidth 64) = false) :
    bar0Write s (.plain vf) vf off (v.setWidth 64) = wregWrite s vf .operator r (v.setWidth 64) := by
  rw [bar0Write_allowed (path := .plain vf) hup rfl rfl hf hr _ hd]
  exact wregStore_narrow _ _ _ _ _ hn (setWidth_lt v) hv

/-- A write with a reserved bit. -/
theorem plainWrite_reserved (hup : windowsUp s = true) (hf : getFunc s vf = some f) (off : Nat) (r : WReg) (v : Word)
    (hr : wregAt off = some r) (hd : wregDenied f .operator r true (v.setWidth 64) = false) (hn : wregWide r = false)
    (hv : wregReserved r (v.setWidth 64) = true) : bar0Write s (.plain vf) vf off (v.setWidth 64) = s := by
  rw [bar0Write_allowed (path := .plain vf) hup rfl rfl hf hr _ hd]
  exact wregStore_reserved _ _ _ _ _ hn (setWidth_lt v) hv

/-- A denied read gives 0. -/
theorem plainRead_denied (hup : windowsUp s = true) (hf : getFunc s vf = some f) (off : Nat) (r : WReg)
    (hr : wregAt off = some r) (hd : wregDenied f .operator r false 0 = true) :
    exec (.deniedWindowRead (.plain vf) .bar0 vf off) s = .next { denyBar0 s vf off false with lastRead := 0 } := by
  change Host.Outcome.next { (bar0Read s (.plain vf) vf off).1 with lastRead := (bar0Read s (.plain vf) vf off).2 } = _
  rw [bar0Read_denied (path := .plain vf) hup rfl rfl hf hr hd]
  rfl

end

/-- A denied access counts in its function, and DENLAST names it. -/
def Denies (s s' : State) (vf : Nat) (f : VFunc) (off : Nat) (wr : Bool) (last : DWord) : Prop :=
  s' = { s with funcs := s'.funcs, lastRead := last } ∧
    let n := if f.dencnt = BitVec.allOnes 32 then f.dencnt else f.dencnt + 1
    getFunc s' vf = some { f with dencnt := n, denlast := BitVec.ofNat 32 (2 ^ 31 + 2 ^ 30 * wr.toNat + off) }

theorem denCount_eq (w : Word) : denCount w = if w = BitVec.allOnes 32 then w else w + 1 := by
  simp [denCount]

theorem denies_denyBar0 (s : State) (vf off : Nat) (f : VFunc) (wr : Bool) (last : DWord) (hf : getFunc s vf = some f)
    (ho : off < 2 ^ 24) : Denies s { denyBar0 s vf off wr with lastRead := last } vf f off wr last := by
  obtain ⟨-, h2, -⟩ := funcIs_modFunc s vf f
    (fun f => { f with dencnt := denCount f.dencnt, denlast := denLast false wr off }) hf fun _ => rfl
  refine ⟨rfl, ?_⟩
  have hl : denLast false wr off = BitVec.ofNat 32 (2 ^ 31 + 2 ^ 30 * wr.toNat + off) := by
    rw [denLast, Nat.mod_eq_of_lt ho]
    simp [Nat.mul_comm]
  rw [← denCount_eq, ← hl]
  exact h2

end Sys2Proof.Machine
end

section
/-!
THE CLAIM ABOUT REGISTER WINDOWS (O44), with BAR 2 of the physical function and the clearing of the denied status.
-/

namespace Sys2Proof.Machine

/-- The update that a new value of a function-wide object sends to the live instances. -/
def sentUpdate (s : State) (vf : Nat) (r : Replica) : Update :=
  ⟨8, vf, r, s.liveInst.map fun i => (i, tget 0 s.instSeq (8 * 16 + i) % 2 ^ 16), []⟩

theorem postUpdate_sent (s : State) (vf : Nat) (r : Replica) (h : s.liveInst ≠ []) :
    (postUpdate s vf r).updates = s.updates ++ [sentUpdate s vf r] ∧ (postUpdate s vf r).funcs = s.funcs := by
  rw [postUpdate_live s vf r (by simpa using h)]
  exact ⟨rfl, rfl⟩

section
variable {s : State} {vf : Nat} {f : VFunc}

/-- EN set, as it binds the queue or sends its binding. -/
theorem queueEnable_effect {st q : Nat} {c : Context} (hup : windowsUp s = true) (hf : getFunc s vf = some f)
    (hc : streamCtx s vf st = some c) (ht : c.tag = 1) (hq : q < 64) (v : Word) (hv : v.toNat < 64)
    (hen : (cmdQueue f q).en = false) (hlo : 4 ≤ v.toNat / 2 % 32) (hhi : v.toNat / 2 % 32 ≤ 16)
    (hqtl : (cmdQueue f q).qtl ≠ 0) (hctx : getCtx s c.asid = some c) (hlive : c.live = true) (k : Nat)
    (ha : bitsN (cmdQueue f q).qtl.toNat 47 0 % 16 = 0)
    (hw : seatXlat s c ((cmdQueue f q).qtl.getLsbD 63) .write (bitsN (cmdQueue f q).qtl.toNat 47 0) 16 = (s, some k))
    (hr : seatXlat s c ((cmdQueue f q).qtl.getLsbD 63) .read (bitsN (cmdQueue f q).qtl.toNat 47 0) 16 = (s, some k)) :
    ∃ s', exec (.queueEnable (.stream vf st) vf q v) s = .next s' ∧
      (s.liveInst = [] → QueueIs s s' vf f q { startedQueue s k (v.toNat / 2 % 32) (cmdQueue f q) with asid := c.asid }) ∧
      (s.liveInst ≠ [] →
        (getFunc s' vf).map (cmdQueue · q) = some (startedQueue s k (v.toNat / 2 % 32) (cmdQueue f q)) ∧
        s'.updates = s.updates ++ [sentUpdate s vf (.binding q c.asid)]) := by
  have hstart := queueIs_modCmdQueue s vf q f (startedQueue s k (v.toNat / 2 % 32)) hf fun _ => rfl
  refine ⟨_, queueEnable_owner hup hf hc ht hq v hv hen, fun hl => ?_, fun hl => ?_⟩
  · have hone := postUpdate_binding_alone (vf := vf) (q := q) (modCmdQueue s vf q (startedQueue s k (v.toNat / 2 % 32)))
      (Option.isSome_of_eq_some hctx) hl
    rw [enableQueue_starts hf hctx hlive hlo hhi hqtl k ha hw hr, hone]
    exact hstart.then_modCmdQueue _ fun _ => rfl
  · rw [enableQueue_starts hf hctx hlive hlo hhi hqtl k ha hw hr]
    obtain ⟨h1, h2⟩ := postUpdate_sent (modCmdQueue s vf q (startedQueue s k (v.toNat / 2 % 32))) vf (.binding q c.asid) hl
    refine ⟨?_, h1⟩
    rw [getFunc, h2]
    change (getFunc (modCmdQueue s vf q _) vf).map _ = _
    rw [getFunc_modCmdQueue s vf q f _ hf, Option.map_some, cmdQueue_withQueue f q q _ (by exact fun _ => rfl), if_pos rfl]

/-- The writes of an owner's context on its stream. -/
theorem owner_windows (hup : windowsUp s = true) (hf : getFunc s vf = some f) (st : Nat) (c : Context) (q : Nat) (v : Word)
    (d : DWord) (hq : q < 64) (hc : streamCtx s vf st = some c) (ht : c.tag = 1) :
    let x := cmdQueue f q
    let p := Path.stream vf st
    ((v - x.head).toNat ≤ 2 ^ x.log2 →
      ∃ s', exec (.qtailWrite p vf q v) s = .next s' ∧ QueueIs s s' vf f q { x with tail := v }) ∧
    (2 ^ x.log2 < (v - x.head).toNat →
      ∃ s', exec (.qtailWrite p vf q v) s = .next s' ∧ QueueIs s s' vf f q { x with qstat := 0x0A01 }) ∧
    (v.toNat < 64 → ∃ s', exec (.queueDisable p vf q v) s = .next s' ∧
      QueueIs s s' vf f q { x with en := false, log2 := v.toNat / 2 % 32 }) ∧
    (∃ s', exec (.qstatWrite p vf q d) s = .next s' ∧ QueueIs s s' vf f q (if d = 0 then { x with qstat := 0 } else x)) := by
  refine ⟨fun h => ?_, fun h => ?_, fun h => ?_, ?_⟩
  · refine ⟨_, qtailWrite_owner hup hf hc ht hq v, ?_⟩
    rw [if_neg (Nat.not_lt.2 h)]
    exact queueIs_modCmdQueue s vf q f _ hf fun _ => rfl
  · refine ⟨_, qtailWrite_owner hup hf hc ht hq v, ?_⟩
    rw [if_pos h]
    exact queueIs_setQstat s vf q 0x0A 0 f hf
  · exact ⟨_, queueDisable_owner hup hf hc ht hq v h, queueIs_modCmdQueue s vf q f _ hf fun _ => rfl⟩
  · refine ⟨_, qstatWrite_owner hup hf hc ht hq d, ?_⟩
    by_cases hd : d = 0
    · rw [if_pos hd, if_pos hd]
      exact queueIs_modCmdQueue s vf q f _ hf fun _ => rfl
    · rw [if_neg hd, if_neg hd]
      exact queueIs_self s vf q f hf

/-- The accesses of the operator on a path bound to no context: what its cells deny. -/
theorem operator_denied (hup : windowsUp s = true) (hf : getFunc s vf = some f) (q : Nat) (v : Word) (hq : q < 64) :
    (∃ s', exec (.qtailWrite (.plain vf) vf q v) s = .next s' ∧ Denies s s' vf f (0x1010 + 0x40 * q) true s.lastRead) ∧
    (∃ s', exec (.deniedWindowRead (.plain vf) .bar0 vf (0x1010 + 0x40 * q)) s = .next s' ∧
      Denies s s' vf f (0x1010 + 0x40 * q) false 0) ∧
    (∃ s', exec (.deniedWindowRead (.plain vf) .bar0 vf 0x0020) s = .next s' ∧ Denies s s' vf f 0x0020 false 0) := by
  have hoff : queueOff q 0x10 = 0x1010 + 0x40 * q := by simp only [queueOff]; omega
  have hreg : wregAt (0x1010 + 0x40 * q) = some (.qtail q) := hoff ▸ wregAt_queue q 0x10 hq (by decide)
  have hlt : 0x1010 + 0x40 * q < 2 ^ 24 := by omega
  refine ⟨⟨_, ?_, denies_denyBar0 s vf _ f true s.lastRead hf hlt⟩,
    ⟨_, plainRead_denied hup hf _ _ hreg rfl, denies_denyBar0 s vf _ f false 0 hf hlt⟩,
    ⟨_, plainRead_denied hup hf _ .svcr rfl rfl, denies_denyBar0 s vf _ f false 0 hf (by decide)⟩⟩
  change Host.Outcome.next (bar0Write s (.plain vf) vf (queueOff (q % 64) 0x10) (v.setWidth 64)) = _
  rw [Nat.mod_eq_of_lt hq, hoff, plainWrite_denied hup hf _ _ _ hreg rfl]
  rfl

theorem mask_unreserved {r : WReg} (hr : r = .duty ∨ r = .pmask) (v : Word) (hv : v.toNat < 2 ^ 8) :
    wregReserved r (v.setWidth 64) = false := by
  rcases hr with rfl | rfl <;> (simp only [wregReserved, toNat_setWidth_word]; simp; omega)

theorem mask_reserved {r : WReg} (hr : r = .duty ∨ r = .pmask) (v : Word) (hv : 2 ^ 8 ≤ v.toNat) :
    wregReserved r (v.setWidth 64) = true := by
  rcases hr with rfl | rfl <;> (simp only [wregReserved, toNat_setWidth_word]; simp; omega)

/-- What the operator's cells allow. -/
theorem operator_allowed (hup : windowsUp s = true) (hf : getFunc s vf = some f) (v : Word) :
    let p := Path.plain vf
    (v.toNat < 2 ^ 16 → ∃ s', exec (.cntselWrite p vf v) s = .next s' ∧
      FuncIs s s' vf { f with cntsel := tput 0 f.cntsel 0 v.toNat }) ∧
    (v.toNat < 2 ^ 8 → ∃ s', exec (.dutyWrite p vf v) s = .next s' ∧ FuncIs s s' vf { f with duty := v.setWidth 8 }) ∧
    (2 ^ 8 ≤ v.toNat → exec (.dutyWrite p vf v) s = .next s ∧ exec (.pmaskWrite p vf v) s = .next s) ∧
    (v.toNat < 2 ^ 8 → exec (.pmaskWrite p vf v) s = .next (postUpdate s vf (.mask (v.setWidth 8)))) := by
  have h8 : (v.setWidth 64).setWidth 8 = v.setWidth 8 := by simp
  refine ⟨fun hv => ?_, fun hv => ?_, fun hv => ⟨?_, ?_⟩, fun hv => ?_⟩
  · have hres : wregReserved .cntsel (v.setWidth 64) = false := by
      simp only [wregReserved, toNat_setWidth_word]
      simp
      omega
    refine ⟨_, congrArg Host.Outcome.next (plainWrite_allowed hup hf 0x0180 .cntsel v rfl rfl rfl hres), ?_⟩
    simp only [wregWrite, toNat_setWidth_word]
    exact funcIs_modFunc s vf f _ hf fun _ => rfl
  · have hres := mask_unreserved (.inl rfl : WReg.duty = .duty ∨ _) v hv
    refine ⟨_, congrArg Host.Outcome.next (plainWrite_allowed hup hf 0x0008 .duty v rfl rfl rfl hres), ?_⟩
    simp only [wregWrite, h8]
    exact funcIs_modFunc s vf f _ hf fun _ => rfl
  · exact congrArg Host.Outcome.next (plainWrite_reserved hup hf 0x0008 .duty v rfl rfl rfl (mask_reserved (.inl rfl) v hv))
  · exact congrArg Host.Outcome.next (plainWrite_reserved hup hf 0x0010 .pmask v rfl rfl rfl (mask_reserved (.inr rfl) v hv))
  · have hres := mask_unreserved (.inr rfl : _ ∨ WReg.pmask = .pmask) v hv
    refine (congrArg Host.Outcome.next (plainWrite_allowed hup hf 0x0010 .pmask v rfl rfl rfl hres)).trans ?_
    simp only [wregWrite, h8, postMask]

theorem dutyRead_operator (hup : windowsUp s = true) (hf : getFunc s vf = some f) :
    exec (.deniedWindowRead (.plain vf) .bar0 vf 0x0008) s = .next { s with lastRead := f.duty.setWidth 64 } := by
  change Host.Outcome.next { (bar0Read s (.plain vf) vf 0x0008).1 with lastRead := (bar0Read s (.plain vf) vf 0x0008).2 } = _
  rw [bar0Read_allowed (path := .plain vf) (r := .duty) hup rfl rfl hf rfl rfl]
  rfl

/-! ## BAR 2 of the physical function -/

theorem recoveryOpen_of_up (hup : windowsUp s = true) (path : Path) : recoveryOpen s path = false := by
  simp only [windowsUp, Bool.and_eq_true, Bool.not_eq_true'] at hup
  simp [recoveryOpen, hup.2]

/-- In full operation the physical function's own path reaches BAR 2. -/
theorem bar2Write_pf (hup : windowsUp s = true) (off : Nat) (v : DWord) : bar2Write s .pf off v = fullWrite s off v := by
  rw [bar2Write, recoveryOpen_of_up hup]
  simp [bar2Open, hup]

theorem bar2Write_plain (hup : windowsUp s = true) (off : Nat) (v : DWord) : bar2Write s (.plain vf) off v = s := by
  rw [bar2Write, recoveryOpen_of_up hup]
  simp [bar2Open]

theorem bar2Read_pf (hup : windowsUp s = true) (off : Nat) : bar2Read s .pf off = fullRead s off := by
  rw [bar2Read, recoveryOpen_of_up hup]
  simp [bar2Open, hup]

/-- A write of a register of BAR 2 that its cell allows. -/
theorem fullWrite_allowed (s : State) (off : Nat) (r : PReg) (v : DWord) (hr : pregAt off = some r)
    (hc : canWrite (pregCell r) = true) :
    fullWrite s off v =
      let v : DWord := if pregWide r then v else BitVec.ofNat 64 (v.toNat % 2 ^ 32)
      if pregReserved r v.toNat then s else pregStore s r v := by
  simp only [fullWrite, hr, hc, Bool.not_true, Bool.false_eq_true, if_false]

theorem fullWrite_denied (s : State) (off : Nat) (r : PReg) (v : DWord) (hr : pregAt off = some r)
    (hc : canWrite (pregCell r) = false) : fullWrite s off v = denyBar2 s off true := by
  simp only [fullWrite, hr, hc, Bool.not_false, if_true]

theorem fullWrite_cpool (s : State) (v : DWord) :
    fullWrite s 0x108 v = if v.toNat < 2 ^ 36 then { s with pf := { s.pf with cpool := v } } else s := by
  rw [fullWrite_allowed s 0x108 .cpool v rfl rfl]
  by_cases hv : v.toNat < 2 ^ 36
  · have hr : pregReserved .cpool v.toNat = false := by simp [pregReserved]; omega
    simp only [pregWide, if_true, hr, Bool.false_eq_true, if_false, if_pos hv, pregStore]
  · have hr : pregReserved .cpool v.toNat = true := by simp [pregReserved]; omega
    simp only [pregWide, if_true, hr, if_neg hv]

theorem fullWrite_cfq (s : State) (v : DWord) :
    fullWrite s 0x118 v = if v.toNat < 2 ^ 52 then { s with pf := { s.pf with cfq := v } } else s := by
  rw [fullWrite_allowed s 0x118 .cfq v rfl rfl]
  by_cases hv : v.toNat < 2 ^ 52
  · have hr : pregReserved .cfq v.toNat = false := by simp [pregReserved]; omega
    simp only [pregWide, if_true, hr, Bool.false_eq_true, if_false, if_pos hv, pregStore]
  · have hr : pregReserved .cfq v.toNat = true := by simp [pregReserved]; omega
    simp only [pregWide, if_true, hr, if_neg hv]

theorem fullWrite_pwrcap (s : State) (v : DWord) :
    fullWrite s 0x900 v = if 1200 ≤ v.toNat % 2 ^ 32 ∧ v.toNat % 2 ^ 32 ≤ 2400 then
      { s with pf := { s.pf with pwrcap := v.toNat % 2 ^ 32 } } else s := by
  have hn : (BitVec.ofNat 64 (v.toNat % 2 ^ 32)).toNat = v.toNat % 2 ^ 32 := by
    rw [BitVec.toNat_ofNat]
    omega
  rw [fullWrite_allowed s 0x900 .pwrcap v rfl rfl]
  by_cases hv : 1200 ≤ v.toNat % 2 ^ 32 ∧ v.toNat % 2 ^ 32 ≤ 2400
  · have hr : pregReserved .pwrcap (v.toNat % 2 ^ 32) = false := by
      simp only [pregReserved, Bool.or_eq_false_iff, decide_eq_false_iff_not]
      omega
    simp only [pregWide, Bool.false_eq_true, if_false, hn, hr, if_pos hv, pregStore]
  · have hr : pregReserved .pwrcap (v.toNat % 2 ^ 32) = true := by
      simp only [pregReserved, Bool.or_eq_true, decide_eq_true_eq]
      omega
    simp only [pregWide, Bool.false_eq_true, if_false, hn, hr, if_true, if_neg hv]

/-- The registers of BAR 2 on the physical function's path, and on another. -/
theorem bar2_rows (hup : windowsUp s = true) (v : DWord) :
    let at_ := fun (off : Nat) => exec (.registerWrite .pf .bar2 vf off v) s
    at_ 0x108 = .next (if v.toNat < 2 ^ 36 then { s with pf := { s.pf with cpool := v } } else s) ∧
    at_ 0x118 = .next (if v.toNat < 2 ^ 52 then { s with pf := { s.pf with cfq := v } } else s) ∧
    at_ 0x900 = .next (if 1200 ≤ v.toNat % 2 ^ 32 ∧ v.toNat % 2 ^ 32 ≤ 2400 then
      { s with pf := { s.pf with pwrcap := v.toNat % 2 ^ 32 } } else s) ∧
    at_ 0x018 = .next (denyBar2 s 0x018 true) ∧
    exec (.deniedWindowRead .pf .bar2 vf 0x108) s = .next { s with lastRead := s.pf.cpool } ∧
    exec (.registerWrite (.plain vf) .bar2 vf 0x108 v) s = .next s := by
  have hw : ∀ off, exec (.registerWrite .pf .bar2 vf off v) s = .next (fullWrite s off v) :=
    fun off => congrArg Host.Outcome.next (bar2Write_pf hup off v)
  refine ⟨?_, ?_, ?_, ?_, ?_, congrArg Host.Outcome.next (bar2Write_plain hup 0x108 v)⟩
  · exact (hw 0x108).trans (congrArg Host.Outcome.next (fullWrite_cpool s v))
  · exact (hw 0x118).trans (congrArg Host.Outcome.next (fullWrite_cfq s v))
  · exact (hw 0x900).trans (congrArg Host.Outcome.next (fullWrite_pwrcap s v))
  · exact (hw 0x018).trans (congrArg Host.Outcome.next (fullWrite_denied s 0x018 .gstat v rfl rfl))
  · have hr : bar2Read s .pf 0x108 = (s, s.pf.cpool) := by
      rw [bar2Read_pf hup]
      change (s, BitVec.ofNat 64 s.pf.cpool.toNat) = _
      simp
    change Host.Outcome.next { (bar2Read s .pf 0x108).1 with lastRead := (bar2Read s .pf 0x108).2 } = _
    rw [hr]

/-! ## The denied status cleared (R404) -/

theorem denials_cleared (hup : windowsUp s = true) (hf : getFunc s vf = some f) :
    (∃ s', exec (.denialClear (some vf)) s = .next s' ∧ FuncIs s s' vf { f with dencnt := 0, denlast := 0 }) ∧
    exec (.denialClear none) s = .next { s with pf := { s.pf with dencnt := 0, denlast := 0 } } ∧
    ∀ v, ∃ s', exec (.registerWrite (.plain vf) .cfg vf 0x0C v) s = .next s' ∧
      FuncIs s s' vf { f with dencnt := 0, denlast := 0 } := by
  have hon := hup
  simp only [windowsUp, Bool.and_eq_true, Bool.not_eq_true'] at hon
  have hfun := funcIs_modFunc s vf f (fun f => { f with dencnt := 0, denlast := 0 }) hf fun _ => rfl
  have hclear : ∀ fn, exec (.denialClear fn) s = .next (clearDenials s fn) := fun fn =>
    congrArg Host.Outcome.next (if_pos hon.1)
  refine ⟨⟨_, hclear (some vf), hfun⟩, hclear none, fun v => ⟨_, ?_, hfun⟩⟩
  have hcfg : cfgAnswers s (.plain vf) vf = true := by simp [cfgAnswers, hon, hostPath]
  exact congrArg Host.Outcome.next (if_pos hcfg)

end

/-- Settles O44: each access goes to the register that `wregAt` or `pregAt` names, and the cell of its row decides between
the register's write, its value and a denial that counts. -/
theorem windowsAreReadAndWrittenByTheirRows : Obligations.WindowsAreReadAndWrittenByTheirRows := by
  intro s vf f hup hf
  refine ⟨fun st c q v d hq hc ht => ?_, fun q v hq => ?_, fun v => ?_, fun _ => denials_cleared hup hf⟩
  · obtain ⟨h1, h2, h3, h4⟩ := owner_windows hup hf st c q v d hq hc ht
    refine ⟨h1, h2, fun hen hv hlo hhi hqtl hctx hlive => ⟨fun k ha hw hr => ?_, fun ha => ?_⟩, h3, h4, fun hd => ?_, ?_⟩
    · exact queueEnable_effect hup hf hc ht hq v hv hen hlo hhi hqtl hctx hlive k ha hw hr
    · refine ⟨_, queueEnable_owner hup hf hc ht hq v hv hen, ?_⟩
      rw [enableQueue_misaligned hf hctx ha]
      exact queueIs_setQstat s vf q 0x0B 0 f hf
    · exact ⟨_, qbaseWrite_owner hup hf hc ht hq d hd, queueIs_modCmdQueue s vf q f _ hf fun _ => rfl⟩
    · exact ⟨_, qbaseRead_owner hup hf hc ht hq, rfl⟩
  · obtain ⟨d1, d2, d3⟩ := operator_denied hup hf q v hq
    obtain ⟨a1, a2, a3, a4⟩ := operator_allowed hup hf v
    refine ⟨d1, d2, d3, a1, a2, a3, fun hv hl => ?_, fun hv hl => ?_, _, dutyRead_operator hup hf, rfl⟩
    · refine ⟨_, a4 hv, ?_⟩
      rw [postUpdate_mask_alone s _ hl]
      exact funcIs_modFunc s vf f _ hf fun _ => rfl
    · obtain ⟨hu, hfs⟩ := postUpdate_sent s vf (.mask (v.setWidth 8)) hl
      exact ⟨_, a4 hv, hfs, hu⟩
  · obtain ⟨b1, b2, b3, b4, b5, b6⟩ := bar2_rows (vf := vf) hup v
    refine ⟨b1, b2, b3, b4.trans ?_, b5, b6⟩
    rw [denyBar2, denCount_eq]
    rfl

end Sys2Proof.Machine
end

section
/-!
ROUNDING TO NEAREST (R41, R43, R134). The codes of a format stand for whole multiples of powers of two from `fLeast` on; rounding
keeps the nearest multiple of one of them, and no code stands nearer.
-/

namespace Sys2Proof.Machine

/-! ## The fields of a code -/

/-- The exponent of the smallest subnormal of a format. -/
def fLeast (t : FTy) : Int := 1 - (ffmt t).bias - (ffmt t).fb

/-- The number of a code's three fields (R38). -/
def fNum (t : FTy) (neg : Bool) (ex fr : Nat) : FVal :=
  if ex = 0 then .fin neg fr (fMinExp (ffmt t) - (ffmt t).fb)
  else .fin neg (2 ^ (ffmt t).fb + fr) ((ex : Int) - (ffmt t).bias - (ffmt t).fb)

/-- What a code's three fields stand for (R38, R39, R48). -/
def fOfFields (t : FTy) (neg : Bool) (ex fr : Nat) : FVal :=
  match (ffmt t).style with
  | .ieee =>
    if ex = 2 ^ (ffmt t).eb - 1 then
      if fr = 0 then .inf neg else .nan (t != .e5m2 && !fr.testBit ((ffmt t).fb - 1))
    else fNum t neg ex fr
  | .e4m3 => if ex = 15 ∧ fr = 7 then .nan false else fNum t neg ex fr
  | .e2m1 => if neg && ex == 0 && fr == 0 then .nan false else fNum t neg ex fr

theorem fDecode_eq_fields (t : FTy) (c : Nat) :
    fDecode t c = fOfFields t (c.testBit ((ffmt t).eb + (ffmt t).fb)) (c / 2 ^ (ffmt t).fb % 2 ^ (ffmt t).eb)
      (c % 2 ^ (ffmt t).fb) := rfl

theorem fSign_eq (t : FTy) (neg : Bool) : fSign t neg = 2 ^ ((ffmt t).eb + (ffmt t).fb) * neg.toNat := by
  cases neg <;> simp [fSign, fWidth, Nat.add_assoc]

/-- A code put together from its fields. -/
theorem fDecode_fields (t : FTy) (neg : Bool) (ex fr : Nat) (hex : ex < 2 ^ (ffmt t).eb) (hfr : fr < 2 ^ (ffmt t).fb) :
    fDecode t (fSign t neg + (2 ^ (ffmt t).fb * ex + fr)) = fOfFields t neg ex fr := by
  have hlow : 2 ^ (ffmt t).fb * ex + fr < 2 ^ ((ffmt t).eb + (ffmt t).fb) := by
    rw [Nat.pow_add, Nat.mul_comm (2 ^ (ffmt t).eb)]
    calc 2 ^ (ffmt t).fb * ex + fr < 2 ^ (ffmt t).fb * (ex + 1) := by rw [Nat.mul_add]; omega
      _ ≤ _ := Nat.mul_le_mul_left _ hex
  have hsign : fSign t neg = 2 ^ (ffmt t).fb * (2 ^ (ffmt t).eb * neg.toNat) := by
    rw [fSign_eq, Nat.pow_add, Nat.mul_comm (2 ^ (ffmt t).eb), Nat.mul_assoc]
  have hneg : (fSign t neg + (2 ^ (ffmt t).fb * ex + fr)).testBit ((ffmt t).eb + (ffmt t).fb) = neg := by
    rw [fSign_eq, Nat.testBit_two_pow_mul_add _ hlow]
    cases neg <;> simp
  rw [fDecode_eq_fields, hneg, hsign, ← Nat.add_assoc, ← Nat.mul_add, Nat.mul_add_div (Nat.two_pow_pos _),
    Nat.div_eq_of_lt hfr, Nat.mul_add_mod, Nat.mod_eq_of_lt hfr, Nat.add_zero, Nat.mul_add_mod, Nat.mod_eq_of_lt hex]

/-- A code stands for fewer than 2^(fb + 1) of a power of two from `fLeast` on. -/
theorem fDecode_bounds {t : FTy} {c : Nat} {neg : Bool} {m : Nat} {e : Int} (h : fDecode t c = .fin neg m e) :
    m < 2 ^ ((ffmt t).fb + 1) ∧ fLeast t ≤ e := by
  rw [fDecode_eq_fields] at h
  have hfr : c % 2 ^ (ffmt t).fb < 2 ^ (ffmt t).fb := Nat.mod_lt _ (Nat.two_pow_pos _)
  generalize c % 2 ^ (ffmt t).fb = fr at *
  generalize c / 2 ^ (ffmt t).fb % 2 ^ (ffmt t).eb = ex at *
  generalize c.testBit _ = b at *
  have num : fNum t b ex fr = .fin neg m e → m < 2 ^ ((ffmt t).fb + 1) ∧ fLeast t ≤ e := by
    rw [Nat.pow_succ]
    unfold fNum fLeast fMinExp
    split <;> (rintro ⟨⟩; omega)
  unfold fOfFields at h
  split at h <;> split at h
  · split at h <;> cases h
  · exact num h
  · cases h
  · exact num h
  · cases h
  · exact num h

/-! ## Values -/

/-- The sign of a value. -/
def withSign (neg : Bool) (y : ℝ) : ℝ := if neg then -y else y

theorem rat_fin (neg : Bool) (m : Nat) (e : Int) : ((FVal.fin neg m e).rat : ℝ) = withSign neg (m * 2 ^ e) := by
  cases neg <;> simp [FVal.rat, withSign]

theorem abs_withSign_sub (neg : Bool) (y z : ℝ) : |withSign neg y - withSign neg z| = |y - z| := by
  cases neg
  · rfl
  · simp only [withSign, if_true]
    rw [← abs_neg]
    congr 1
    ring

theorem withSign_le (neg : Bool) {y : ℝ} (h : 0 ≤ y) : withSign neg y ≤ y := by
  cases neg
  · exact le_refl y
  · exact (neg_nonpos.2 h).trans h

theorem withSign_inj (neg : Bool) (y z : ℝ) : withSign neg y = withSign neg z ↔ y = z := by cases neg <;> simp [withSign]

/-- A finite value is a whole number of a power of two. -/
theorem withSign_nat (neg : Bool) (m : Nat) : ∃ i : Int, ∀ u : ℝ, withSign neg (m * u) = i * u := by
  cases neg
  · exact ⟨m, fun u => by simp [withSign]⟩
  · exact ⟨-m, fun u => by simp [withSign]⟩

theorem two_zpow_pos (q : Int) : (0 : ℝ) < 2 ^ q := by positivity

theorem two_zpow_add_nat (q : Int) (n : Nat) : (2 : ℝ) ^ (q + n) = 2 ^ n * 2 ^ q := by
  rw [zpow_add₀ (by norm_num), zpow_natCast, mul_comm]

/-! ## The nearest multiple -/

/-- Of the whole multiples of a unit, one within half a unit is nearest. -/
theorem nearest_multiple {u y : ℝ} {n : Int} (hu : 0 < u) (hn : |y - n * u| ≤ u / 2) (i : Int) :
    |y - n * u| ≤ |y - i * u| := by
  by_cases h : i = n
  · rw [h]
  have hgap : u ≤ |(n * u - i * u : ℝ)| := by
    rw [← sub_mul, abs_mul, abs_of_pos hu]
    have : (1 : ℝ) ≤ |(n : ℝ) - i| := by
      have := Int.one_le_abs (sub_ne_zero.2 (Ne.symm h))
      exact_mod_cast this
    nlinarith
  have := abs_sub_abs_le_abs_sub (n * u - i * u) (n * u - y)
  rw [abs_sub_comm (n * u) y, show n * u - i * u - (n * u - y) = y - i * u by ring] at this
  linarith

/-- A multiple of 2^q within half of it of `y` is nearer than any code's value, where 2^q is the least exponent or `y` reaches
2^(q + fb). -/
theorem nearest_value {t : FTy} {q : Int} {y : ℝ} {n : Nat} (hn : |y - n * 2 ^ q| ≤ 2 ^ q / 2)
    (hq : q = fLeast t ∨ (2 : ℝ) ^ (q + (ffmt t).fb) ≤ y) {neg : Bool} {j : Nat} {k : Int} (hj : j < 2 ^ ((ffmt t).fb + 1))
    (hk : fLeast t ≤ k) : |y - n * 2 ^ q| ≤ |y - withSign neg (j * 2 ^ k)| := by
  have hmul := nearest_multiple (n := n) (two_zpow_pos q) (by simpa using hn)
  simp only [Int.cast_natCast] at hmul
  by_cases hkq : q ≤ k
  · obtain ⟨i, hi⟩ := withSign_nat neg (j * 2 ^ (k - q).toNat)
    have := hi (2 ^ q)
    rw [Nat.cast_mul, mul_assoc, Nat.cast_pow, Nat.cast_ofNat, ← two_zpow_add_nat, show q + ((k - q).toNat : Int) = k by omega]
      at this
    rw [this]
    exact hmul i
  · have hy : (2 : ℝ) ^ (q + (ffmt t).fb) ≤ y := hq.resolve_left (by omega)
    have hv : withSign neg (j * 2 ^ k) ≤ 2 ^ (q + (ffmt t).fb) := by
      have h1 : (j : ℝ) * 2 ^ k ≤ 2 ^ (q + (ffmt t).fb) := by
        calc (j : ℝ) * 2 ^ k ≤ 2 ^ ((ffmt t).fb + 1) * 2 ^ (q - 1) := by
              refine mul_le_mul (by exact_mod_cast hj.le) (zpow_le_zpow_right₀ (by norm_num) (by omega)) (by positivity)
                (by positivity)
          _ = 2 ^ (q + (ffmt t).fb) := by
              rw [← two_zpow_add_nat]
              congr 1
              push_cast
              ring
      have h2 : (0 : ℝ) ≤ j * 2 ^ k := by positivity
      exact (withSign_le neg h2).trans h1
    have hat := hmul (2 ^ (ffmt t).fb)
    push_cast at hat
    rw [← two_zpow_add_nat, abs_of_nonneg (by linarith : (0 : ℝ) ≤ y - 2 ^ (q + (ffmt t).fb))] at hat
    rw [abs_of_nonneg (by linarith : (0 : ℝ) ≤ y - withSign neg (j * 2 ^ k))]
    linarith

/-! ## Shifting -/

/-- `y` is m × 2^e, or lies less than one unit off it where m is odd and long: its low bit is then the tail of what was cut
off. -/
def Seen (m : Nat) (e : Int) (y : ℝ) : Prop :=
  y = m * 2 ^ e ∨ (m % 2 = 1 ∧ 2 ^ 26 ≤ m ∧ (m - 1 : ℝ) * 2 ^ e < y ∧ y < (m + 1) * 2 ^ e)

/-- A seen value has the leading bit of its number. -/
theorem Seen.binade {m : Nat} {e : Int} {y : ℝ} (h : Seen m e y) (hm : m ≠ 0) :
    2 ^ (Nat.log2 m + e) ≤ y ∧ y < 2 ^ (Nat.log2 m + 1 + e) := by
  have hlo := Nat.log2_self_le hm
  have hhi := Nat.lt_log2_self (n := m)
  have hpow : ∀ n : Nat, (2 : ℝ) ^ ((n : Int) + e) = ((2 ^ n : Nat) : ℝ) * 2 ^ e := fun n => by
    rw [add_comm, two_zpow_add_nat]
    push_cast
    rfl
  rw [hpow, show (m.log2 : Int) + 1 + e = ((m.log2 + 1 : Nat) : Int) + e by push_cast; rfl, hpow]
  have hu := two_zpow_pos e
  rcases h with rfl | ⟨h1, h2, h3, h4⟩
  · exact ⟨by gcongr, by gcongr⟩
  · have hk : 2 ^ m.log2 = 2 * 2 ^ (m.log2 - 1) := by
      rw [← Nat.pow_succ']
      congr 1
      have : m.log2 ≠ 0 := fun h0 => by
        rw [h0] at hhi
        omega
      omega
    have hlo' : ((2 ^ m.log2 : Nat) : ℝ) ≤ m - 1 := by
      have : 2 ^ m.log2 + 1 ≤ m := by omega
      have : ((2 ^ m.log2 : Nat) : ℝ) + 1 ≤ m := by exact_mod_cast this
      linarith
    have hhi' : (m + 1 : ℝ) ≤ ((2 ^ (m.log2 + 1) : Nat) : ℝ) := by exact_mod_cast hhi
    exact ⟨(mul_le_mul_of_nonneg_right hlo' hu.le).trans h3.le, h4.trans_le (mul_le_mul_of_nonneg_right hhi' hu.le)⟩

theorem roundShift_rn (neg : Bool) (m d : Nat) : roundShift .rn neg m d =
    (if 2 ^ d < 2 * (m % 2 ^ d) ∨ (2 * (m % 2 ^ d) = 2 ^ d ∧ m / 2 ^ d % 2 = 1) then m / 2 ^ d + 1 else m / 2 ^ d,
      m % 2 ^ d != 0) := by
  simp [roundShift]

/-- Dropping bits of a number, or two bits or more of one with a tail, rounds it to the nearest whole number, and tells whether
it was one. -/
theorem roundShift_seen {z : ℝ} {m d : Nat} (neg : Bool)
    (h : z = m ∨ (m % 2 = 1 ∧ (m - 1 : ℝ) < z ∧ z < m + 1 ∧ 2 ≤ d)) :
    |z - (roundShift .rn neg m d).1 * 2 ^ d| ≤ 2 ^ d / 2 ∧
      ((roundShift .rn neg m d).2 = true ↔ ((roundShift .rn neg m d).1 : ℝ) * 2 ^ d ≠ z) := by
  have hm : (m : ℝ) = 2 ^ d * (m / 2 ^ d : Nat) + (m % 2 ^ d : Nat) := by exact_mod_cast (Nat.div_add_mod m (2 ^ d)).symm
  have hr : m % 2 ^ d < 2 ^ d := Nat.mod_lt _ (Nat.two_pow_pos d)
  have hodd : m % 2 = 1 → 2 ≤ d → m % 2 ^ d % 2 = 1 ∧ ∃ k, 2 ^ d = 4 * k := fun h1 h2 => by
    refine ⟨?_, 2 ^ (d - 2), ?_⟩
    · rwa [Nat.mod_mod_of_dvd _ (dvd_pow_self 2 (by omega))]
    · rw [show (4 : Nat) = 2 ^ 2 by rfl, ← Nat.pow_add]
      congr 1
      omega
  rw [roundShift_rn, show (2 : ℝ) ^ d = ((2 ^ d : Nat) : ℝ) by push_cast; rfl] at *
  generalize m / 2 ^ d = n at *
  generalize m % 2 ^ d = r at *
  generalize 2 ^ d = D at *
  have hrD : (r : ℝ) < D := by exact_mod_cast hr
  have hr0 : (0 : ℝ) ≤ r := Nat.cast_nonneg r
  simp only [bne_iff_ne, ne_eq]
  rcases h with rfl | ⟨h1, hlo, hhi, h2⟩
  · split
    · next hup =>
      have : (D : ℝ) ≤ 2 * r := by
        have : D ≤ 2 * r := by omega
        exact_mod_cast this
      push_cast
      refine ⟨?_, iff_of_true (by omega) ?_⟩
      · rw [hm, abs_le]
        constructor <;> linarith
      · rw [hm]
        intro he
        linarith
    · next hdn =>
      have : 2 * (r : ℝ) ≤ D := by
        have : 2 * r ≤ D := by omega
        exact_mod_cast this
      refine ⟨?_, ?_⟩
      · rw [hm, abs_le]
        constructor <;> linarith
      · rw [not_iff_not, hm]
        constructor
        · rintro rfl
          push_cast
          ring
        · intro he
          have : (r : ℝ) = 0 := by linarith
          exact_mod_cast this
  · obtain ⟨hro, k, rfl⟩ := hodd h1 h2
    have hrk : (r : ℝ) + 1 ≤ (4 * k : Nat) := by exact_mod_cast hr
    push_cast at *
    split
    · next hup =>
      have : 2 * (k : ℝ) + 1 ≤ r := by
        have : 2 * k + 1 ≤ r := by omega
        exact_mod_cast this
      refine ⟨?_, iff_of_true (by omega) fun he => ?_⟩
      · rw [abs_le]
        constructor <;> linarith
      · linarith
    · next hdn =>
      have : (r : ℝ) + 1 ≤ 2 * k := by
        have : r + 1 ≤ 2 * k := by omega
        exact_mod_cast this
      have hr1 : (1 : ℝ) ≤ r := by
        have : 1 ≤ r := by omega
        exact_mod_cast this
      refine ⟨?_, iff_of_true (by omega) fun he => ?_⟩
      · rw [abs_le]
        constructor <;> linarith
      · linarith

/-- m × 2^e in whole multiples of 2^q, rounded to nearest, and whether it changed. -/
def roundTo (neg : Bool) (m : Nat) (e q : Int) : Nat × Bool :=
  if q ≤ e then (m * 2 ^ (e - q).toNat, false) else roundShift .rn neg m (q - e).toNat

theorem roundTo_seen {m : Nat} {e q : Int} {y : ℝ} (neg : Bool) (h : Seen m e y) (hq : 2 ^ 26 ≤ m → e + 2 ≤ q) :
    |y - (roundTo neg m e q).1 * 2 ^ q| ≤ 2 ^ q / 2 ∧
      ((roundTo neg m e q).2 = true ↔ ((roundTo neg m e q).1 : ℝ) * 2 ^ q ≠ y) := by
  have hu := two_zpow_pos e
  unfold roundTo
  split
  · next hle =>
    have hy : y = m * 2 ^ e := h.resolve_right fun ⟨_, h26, _⟩ => by
      have := hq h26
      omega
    have hv : ((m * 2 ^ (e - q).toNat : Nat) : ℝ) * 2 ^ q = y := by
      rw [Nat.cast_mul, mul_assoc, Nat.cast_pow, Nat.cast_ofNat, ← two_zpow_add_nat, hy,
        show q + ((e - q).toNat : Int) = e by omega]
    simp only [hv, sub_self, abs_zero]
    have := two_zpow_pos q
    exact ⟨by linarith, by simp⟩
  · next hlt =>
    have hq2 : (2 : ℝ) ^ q = 2 ^ (q - e).toNat * 2 ^ e := by
      rw [← two_zpow_add_nat]
      congr 1
      omega
    obtain ⟨hn, hx⟩ := roundShift_seen (z := y / 2 ^ e) (m := m) (d := (q - e).toNat) neg (by
      rcases h with rfl | ⟨h1, h2, h3, h4⟩
      · exact .inl (by field_simp)
      · exact .inr ⟨h1, (lt_div_iff₀ hu).2 h3, (div_lt_iff₀ hu).2 h4, by have := hq h2; omega⟩)
    rw [hq2]
    generalize roundShift .rn neg m (q - e).toNat = r at *
    constructor
    · have := mul_le_mul_of_nonneg_right hn hu.le
      rw [← abs_of_pos hu, ← abs_mul, abs_of_pos hu, sub_mul, div_mul_cancel₀ _ hu.ne'] at this
      rw [← mul_assoc]
      linarith
    · rw [hx, ← mul_assoc, ne_eq, ne_eq, eq_div_iff hu.ne']

/-! ## Delivering -/

/-- A value delivered to nearest: finite, no finite code nearer, and inexact where it differs. -/
def Nearest (t : FTy) (r : FRes) (q : ℝ) : Prop :=
  (fDecode t r.code).Finite ∧
  (∀ code, code < 2 ^ fWidth t → (fDecode t code).Finite →
    |q - ((fDecode t r.code).rat : ℝ)| ≤ |q - ((fDecode t code).rat : ℝ)|) ∧
  (r.flags &&& flInexact ≠ 0 ↔ ((fDecode t r.code).rat : ℝ) ≠ q)

/-- The unit in the last place in which a value is delivered. -/
def fUlp (t : FTy) (m : Nat) (e : Int) : Int := max ((Nat.log2 m : Int) + e) (fMinExp (ffmt t)) - (ffmt t).fb

theorem fRound_fin (t : FTy) (neg : Bool) (m : Nat) (e : Int) (hm : m ≠ 0) {sat : Bool} :
    fRound t .rn sat (.fin neg m e) =
      let q := fUlp t m e
      let r := roundTo neg m e q
      if r.1 = 0 then ⟨fZeroCode t neg, flagIf r.2 flInexact⟩
      else if (fMax (ffmt t)).2 ≤ q ∧ (fMax (ffmt t)).1 < r.1 * 2 ^ (q - (fMax (ffmt t)).2).toNat then
        fOverflow t .rn sat neg
      else ⟨fSign t neg + r.1 + (q + (ffmt t).fb + (ffmt t).bias - 1).toNat * 2 ^ (ffmt t).fb,
        flagIf r.2 flInexact ||| flagIf (r.2 && r.1 < 2 ^ (ffmt t).fb) flUnderflow⟩ := by
  simp only [fRound, hm, if_false]
  rfl

/-- A zero of either sign reads as 0. -/
theorem fDecode_zeroCode (t : FTy) (neg : Bool) : ∃ b e, fDecode t (fZeroCode t neg) = .fin b 0 e := by
  cases t <;> cases neg <;> exact ⟨_, _, rfl⟩

/-- Fields that hold a number below the format's greatest value are no infinity and no NaN. -/
theorem fOfFields_num (t : FTy) (neg : Bool) (ex fr : Nat) (hfr : fr < 2 ^ (ffmt t).fb) (hz : ex ≠ 0 ∨ fr ≠ 0)
    (hmax : (ex : Int) - (ffmt t).bias - (ffmt t).fb < (fMax (ffmt t)).2 ∨
      ((ex : Int) - (ffmt t).bias - (ffmt t).fb = (fMax (ffmt t)).2 ∧ 2 ^ (ffmt t).fb + fr ≤ (fMax (ffmt t)).1)) :
    ex < 2 ^ (ffmt t).eb ∧ fOfFields t neg ex fr = fNum t neg ex fr := by
  cases t <;> simp only [ffmt, fMax, fOfFields] at hfr hmax ⊢ <;> norm_num at hfr hmax ⊢ <;>
    exact ⟨by omega, fun _ => by omega⟩

/-- The code that rounding delivers stands for the multiple that it has found. -/
theorem fDecode_delivered {t : FTy} {n : Nat} {q : Int} (neg : Bool) (h0 : n ≠ 0) (hq : fLeast t ≤ q)
    (hlo : 2 ^ (ffmt t).fb ≤ n ∨ q = fLeast t) (hhi : n ≤ 2 ^ ((ffmt t).fb + 1))
    (hmax : ¬((fMax (ffmt t)).2 ≤ q ∧ (fMax (ffmt t)).1 < n * 2 ^ (q - (fMax (ffmt t)).2).toNat)) :
    ∃ m e, fDecode t (fSign t neg + n + (q + (ffmt t).fb + (ffmt t).bias - 1).toNat * 2 ^ (ffmt t).fb) = .fin neg m e ∧
      (m : ℝ) * 2 ^ e = n * 2 ^ q := by
  have hE : q + (ffmt t).fb + (ffmt t).bias - 1 = q - fLeast t := by rw [fLeast]; omega
  rw [hE]
  obtain ⟨E, rfl⟩ : ∃ E : Nat, q = fLeast t + E := ⟨(q - fLeast t).toNat, by omega⟩
  rw [show (fLeast t + (E : Int) - fLeast t).toNat = E by omega]
  have hlt : (fMax (ffmt t)).1 < 2 ^ ((ffmt t).fb + 1) := by cases t <;> decide
  have hge : 2 ^ (ffmt t).fb ≤ (fMax (ffmt t)).1 := by cases t <;> decide
  have hbound : 2 ^ (ffmt t).fb ≤ n → fLeast t + E < (fMax (ffmt t)).2 ∨
      (fLeast t + E = (fMax (ffmt t)).2 ∧ n ≤ (fMax (ffmt t)).1) := fun hn => by
    by_contra hc
    refine hmax ⟨by omega, ?_⟩
    by_cases he : fLeast t + E = (fMax (ffmt t)).2
    · rw [he, sub_self]
      simp only [Int.toNat_zero, pow_zero, mul_one]
      omega
    · have h1 : 2 ^ 1 ≤ 2 ^ (fLeast t + (E : Int) - (fMax (ffmt t)).2).toNat := Nat.pow_le_pow_right (by omega) (by omega)
      calc (fMax (ffmt t)).1 < 2 ^ (ffmt t).fb * 2 ^ 1 := by rwa [← Nat.pow_add]
        _ ≤ _ := Nat.mul_le_mul hn h1
  have hfld : ∀ ex fr, fr < 2 ^ (ffmt t).fb → n + E * 2 ^ (ffmt t).fb = 2 ^ (ffmt t).fb * ex + fr →
      (ex ≠ 0 ∨ fr ≠ 0) → ((ex : Int) - (ffmt t).bias - (ffmt t).fb < (fMax (ffmt t)).2 ∨
      ((ex : Int) - (ffmt t).bias - (ffmt t).fb = (fMax (ffmt t)).2 ∧ 2 ^ (ffmt t).fb + fr ≤ (fMax (ffmt t)).1)) →
      fDecode t (fSign t neg + n + E * 2 ^ (ffmt t).fb) = fNum t neg ex fr := fun ex fr hfr hc hz hm => by
    obtain ⟨hex, hnum⟩ := fOfFields_num t neg ex fr hfr hz hm
    rw [Nat.add_assoc, hc, fDecode_fields t neg ex fr hex hfr, hnum]
  have hpos := Nat.two_pow_pos (ffmt t).fb
  have hF : fLeast t = 1 - (ffmt t).bias - (ffmt t).fb := rfl
  rw [Nat.pow_succ] at hhi
  by_cases hsub : n < 2 ^ (ffmt t).fb
  · obtain rfl : E = 0 := by omega
    rw [hfld 0 n hsub (by simp) (.inr h0) (.inl ?_)]
    · exact ⟨n, fLeast t, rfl, by simp⟩
    · cases t <;> decide
  · have hb := hbound (by omega)
    by_cases hn : n < 2 ^ (ffmt t).fb * 2
    · rw [hfld (E + 1) (n - 2 ^ (ffmt t).fb) (by omega) (by rw [Nat.mul_add, Nat.mul_comm E]; omega) (.inl (by omega))
        (by push_cast; omega)]
      refine ⟨n, fLeast t + E, ?_, rfl⟩
      rw [fNum, if_neg (by omega), show 2 ^ (ffmt t).fb + (n - 2 ^ (ffmt t).fb) = n by omega]
      congr 1
      push_cast
      omega
    · obtain rfl : n = 2 ^ (ffmt t).fb * 2 := by omega
      rw [hfld (E + 2) 0 hpos (by ring) (.inl (by omega)) ?_]
      · refine ⟨2 ^ (ffmt t).fb, fLeast t + E + 1, ?_, ?_⟩
        · rw [fNum, if_neg (by omega), Nat.add_zero]
          congr 1
          push_cast
          omega
        · rw [zpow_add_one₀ (by norm_num)]
          push_cast
          ring
      · rw [Nat.pow_succ] at hlt
        push_cast
        omega

/-- The multiple of `q` that a seen value is rounded to has the leading bit of its format. -/
theorem delivered_range {t : FTy} {m n : Nat} {e : Int} {y : ℝ} (h : Seen m e y) (hm : m ≠ 0)
    (hn : |y - n * 2 ^ fUlp t m e| ≤ 2 ^ fUlp t m e / 2) :
    fLeast t ≤ fUlp t m e ∧ (fUlp t m e = fLeast t ∨ (2 : ℝ) ^ (fUlp t m e + (ffmt t).fb) ≤ y) ∧
      (2 ^ (ffmt t).fb ≤ n ∨ fUlp t m e = fLeast t) ∧ n ≤ 2 ^ ((ffmt t).fb + 1) := by
  obtain ⟨hlo, hhi⟩ := h.binade hm
  have hF : fLeast t = fMinExp (ffmt t) - (ffmt t).fb := rfl
  have hu := two_zpow_pos (fUlp t m e)
  have hq : fUlp t m e = max ((Nat.log2 m : Int) + e) (fMinExp (ffmt t)) - (ffmt t).fb := rfl
  have hy : fUlp t m e = fLeast t ∨ (2 : ℝ) ^ (fUlp t m e + (ffmt t).fb) ≤ y := by
    rcases max_cases ((Nat.log2 m : Int) + e) (fMinExp (ffmt t)) with ⟨h1, -⟩ | ⟨h1, -⟩
    · right
      rwa [show fUlp t m e + (ffmt t).fb = Nat.log2 m + e by omega]
    · left
      omega
  obtain ⟨h1, h2⟩ := abs_le.1 hn
  refine ⟨by omega, hy, hy.symm.imp_left fun hy => ?_, ?_⟩
  · rw [two_zpow_add_nat] at hy
    have : (2 ^ (ffmt t).fb : ℝ) < n + 1 := by
      refine lt_of_mul_lt_mul_right ?_ hu.le
      linarith
    exact Nat.lt_succ_iff.1 (by exact_mod_cast this)
  · have hlt : y < 2 ^ ((ffmt t).fb + 1) * 2 ^ fUlp t m e := by
      rw [← two_zpow_add_nat]
      exact hhi.trans_le (zpow_le_zpow_right₀ (by norm_num) (by push_cast; omega))
    have : (n : ℝ) < 2 ^ ((ffmt t).fb + 1) + 1 := by
      refine lt_of_mul_lt_mul_right ?_ hu.le
      linarith
    exact Nat.lt_succ_iff.1 (by exact_mod_cast this)

/-- A result that stands for the multiple that rounding has found is a nearest value. -/
theorem nearest_of_multiple {t : FTy} {q : Int} {y : ℝ} {n : Nat} {neg : Bool} {r : FRes}
    (hn : |y - n * 2 ^ q| ≤ 2 ^ q / 2) (hq : q = fLeast t ∨ (2 : ℝ) ^ (q + (ffmt t).fb) ≤ y)
    (hfin : (fDecode t r.code).Finite) (hv : ((fDecode t r.code).rat : ℝ) = withSign neg (n * 2 ^ q))
    (hf : r.flags &&& flInexact ≠ 0 ↔ (n : ℝ) * 2 ^ q ≠ y) : Nearest t r (withSign neg y) := by
  refine ⟨hfin, fun code _ hfin => ?_, by rw [hf, hv, ne_eq, ne_eq, withSign_inj]⟩
  rw [hv, abs_withSign_sub]
  cases hd : fDecode t code with
  | nan b => rw [hd] at hfin; exact hfin.elim
  | inf b => rw [hd] at hfin; exact hfin.elim
  | fin b j k =>
    obtain ⟨hj, hk⟩ := fDecode_bounds hd
    have hb : withSign b (j * 2 ^ k) = withSign neg (withSign (neg != b) (j * 2 ^ k)) := by
      cases neg <;> cases b <;> simp [withSign]
    rw [rat_fin, hb, abs_withSign_sub]
    exact nearest_value hn hq hj hk

theorem delivered_flags (c b : Bool) :
    (flagIf c flInexact ||| flagIf (c && b) flUnderflow) &&& flInexact ≠ 0 ↔ c = true := by
  cases c <;> cases b <;> decide

/-- Rounding a number delivers a nearest value of everything that the number is seen for, where it does not overflow. -/
theorem fRound_nearest {t : FTy} {m : Nat} {e : Int} {y : ℝ} (neg : Bool) (hm : m ≠ 0) (h : Seen m e y)
    (ho : (fRound t .rn false (.fin neg m e)).flags &&& flOverflow = 0) :
    Nearest t (fRound t .rn false (.fin neg m e)) (withSign neg y) := by
  obtain ⟨hn, hx⟩ := roundTo_seen (q := fUlp t m e) neg h fun h26 => by
    have : 26 ≤ Nat.log2 m := (Nat.le_log2 hm).2 h26
    have hfb : (ffmt t).fb ≤ 23 := by cases t <;> decide
    unfold fUlp
    omega
  obtain ⟨hleast, hy, hlo, hhi⟩ := delivered_range h hm hn
  rw [fRound_fin t neg m e hm] at ho ⊢
  dsimp only at ho ⊢
  generalize roundTo neg m e (fUlp t m e) = r at *
  obtain ⟨n, c⟩ := r
  simp only at *
  split
  · next h0 =>
    subst h0
    obtain ⟨b, k, hd⟩ := fDecode_zeroCode t neg
    refine nearest_of_multiple hn hy (by rw [hd]; trivial) (by simp [hd, rat_fin, withSign]) ?_
    rw [← hx]
    simpa [flagIf] using delivered_flags c false
  · next h0 =>
    rw [if_neg h0] at ho
    split
    · next hbig =>
      rw [if_pos hbig] at ho
      exact absurd ho (by cases t <;> cases neg <;> decide)
    · next hbig =>
      obtain ⟨m', e', hd, hv⟩ := fDecode_delivered neg h0 hleast hlo hhi hbig
      refine nearest_of_multiple hn hy (by rw [hd]; trivial) (by rw [hd, rat_fin, hv]) ?_
      rw [← hx]
      exact delivered_flags c _

/-- A zero is delivered as it is. -/
theorem fRound_zero_nearest (t : FTy) (neg : Bool) (e : Int) : Nearest t (fRound t .rn false (.fin neg 0 e)) 0 := by
  obtain ⟨b, k, hd⟩ := fDecode_zeroCode t neg
  have hr : fRound t .rn false (.fin neg 0 e) = ⟨fZeroCode t neg, 0⟩ := rfl
  rw [hr]
  exact ⟨by rw [hd]; trivial, fun code _ _ => by simp [hd, FVal.rat], by simp [hd, FVal.rat]⟩

theorem fFinish_plain (t : FTy) (x : FVal) : fFinish t fPlain (x, 0) = fRound t .rn false x := by
  simp [fFinish, fDeliver, fFlushRes, fPlain]

/-! ## Reciprocal and root -/

/-- A number with a tail is seen for what lies between it and the next. -/
theorem seen_withTail {n : Nat} {e : Int} {z : ℝ} {tail : Bool} (h26 : 2 ^ 26 ≤ n) (hlo : (n : ℝ) ≤ z) (hhi : z < n + 1)
    (ht : tail = true ↔ (n : ℝ) ≠ z) : Seen (2 * n + if tail then 1 else 0) (e - 1) (z * 2 ^ e) := by
  have h2 : (2 : ℝ) ^ e = 2 * 2 ^ (e - 1) := by
    rw [zpow_sub_one₀ (by norm_num)]
    ring
  have hu := two_zpow_pos (e - 1)
  rw [h2]
  cases tail
  · left
    have : (n : ℝ) = z := by simpa using ht
    rw [← this]
    push_cast
    simp
    ring
  · right
    have hlt : (n : ℝ) < z := lt_of_le_of_ne hlo (ht.1 rfl)
    refine ⟨by simp, by simp; omega, ?_, ?_⟩
    · push_cast
      simp
      nlinarith
    · push_cast
      simp
      nlinarith

/-- A whole quotient and its remainder as a real quotient. -/
theorem div_seen (a b : Nat) (hb : b ≠ 0) :
    ((a / b : Nat) : ℝ) ≤ a / b ∧ (a / b : ℝ) < (a / b : Nat) + 1 ∧
      ((a % b != 0) = true ↔ ((a / b : Nat) : ℝ) ≠ a / b) := by
  have hb' : (0 : ℝ) < b := by exact_mod_cast Nat.pos_of_ne_zero hb
  refine ⟨Nat.cast_div_le, ?_, ?_⟩
  · rw [div_lt_iff₀ hb']
    exact_mod_cast Nat.lt_mul_of_div_lt (Nat.lt_succ_self _) (Nat.pos_of_ne_zero hb)
  · rw [bne_iff_ne, ne_eq, ne_eq, not_iff_not, eq_div_iff hb'.ne', ← Nat.dvd_iff_mod_eq_zero]
    constructor
    · exact fun h => by exact_mod_cast Nat.div_mul_cancel h
    · exact fun h => ⟨a / b, by rw [Nat.mul_comm]; exact_mod_cast h.symm⟩

/-- The reciprocal that is rounded is seen for the exact one. -/
theorem seen_fRcp (neg : Bool) (m : Nat) (e : Int) (hm : m ≠ 0) :
    ∃ n k, n ≠ 0 ∧ fRcp (.fin neg m e) = (.fin neg n k, 0) ∧ Seen n k (1 / (m * 2 ^ e)) := by
  obtain ⟨hlo, hhi, ht⟩ := div_seen (2 ^ (Nat.log2 m + 48)) m hm
  have h26 : 2 ^ 26 ≤ 2 ^ (Nat.log2 m + 48) / m := by
    rw [Nat.le_div_iff_mul_le (Nat.pos_of_ne_zero hm)]
    have := Nat.lt_log2_self (n := m)
    calc 2 ^ 26 * m ≤ 2 ^ 26 * 2 ^ (m.log2 + 1) := Nat.mul_le_mul_left _ this.le
      _ ≤ 2 ^ (Nat.log2 m + 48) := by
        rw [← Nat.pow_add]
        exact Nat.pow_le_pow_right (by omega) (by omega)
  have hs := seen_withTail (e := -((Nat.log2 m + 48 : Nat) : Int) - e) h26 hlo hhi ht
  have hv : ((2 ^ (Nat.log2 m + 48) : Nat) : ℝ) / m * 2 ^ (-((Nat.log2 m + 48 : Nat) : Int) - e) = 1 / (m * 2 ^ e) := by
    have hu := two_zpow_pos e
    have hm' : (m : ℝ) ≠ 0 := by exact_mod_cast hm
    rw [sub_eq_add_neg, zpow_add₀ (by norm_num), zpow_neg, zpow_neg, zpow_natCast]
    push_cast
    field_simp
  rw [hv] at hs
  exact ⟨_, _, by omega, by simp [fRcp, hm, withTail], hs⟩

/-- One bit of the root at a time keeps the root below it (Table 7.3). -/
theorem isqrtAux_spec (n b r : Nat) (hlo : r * r ≤ n) (hhi : n < (r + 2 ^ b) * (r + 2 ^ b)) :
    isqrtAux n b r = Nat.sqrt n := by
  induction b generalizing r with
  | zero => exact Nat.eq_sqrt.2 ⟨hlo, hhi⟩
  | succ b ih =>
    rw [isqrtAux]
    have h2 : 2 ^ (b + 1) = 2 ^ b + 2 ^ b := by rw [Nat.pow_succ]; omega
    split
    · next hle => exact ih _ hle (by rwa [Nat.add_assoc, ← h2])
    · next hgt => exact ih _ hlo (by omega)

theorem isqrt_eq (n : Nat) : isqrt n = Nat.sqrt n := by
  refine isqrtAux_spec n _ 0 (by omega) ?_
  rw [Nat.zero_add, ← Nat.pow_add]
  exact Nat.lt_log2_self.trans_le (Nat.pow_le_pow_right (by omega) (by omega))

/-- The root that is rounded is seen for the exact one. -/
theorem seen_fSqrt (m : Nat) (e : Int) (hm : m ≠ 0) :
    ∃ n k, n ≠ 0 ∧ fSqrt (.fin false m e) = (.fin false n k, 0) ∧ Seen n k (Real.sqrt (m * 2 ^ e)) := by
  obtain ⟨big, hbig⟩ : ∃ big, big = m * 2 ^ (64 + (e % 2).toNat) := ⟨_, rfl⟩
  have hle : 2 ^ 52 ≤ big := by
    rw [hbig]
    calc 2 ^ 52 ≤ 1 * 2 ^ (64 + (e % 2).toNat) := by
          rw [Nat.one_mul]
          exact Nat.pow_le_pow_right (by omega) (by omega)
      _ ≤ _ := Nat.mul_le_mul_right _ (Nat.one_le_iff_ne_zero.2 hm)
  have h26 : 2 ^ 26 ≤ Nat.sqrt big := Nat.le_sqrt.2 (by rwa [← Nat.pow_add])
  have ht : (Nat.sqrt big * Nat.sqrt big != big) = true ↔ (Nat.sqrt big : ℝ) ≠ Real.sqrt big := by
    rw [bne_iff_ne, ne_eq, ne_eq, not_iff_not, eq_comm (a := (Nat.sqrt big : ℝ)),
      Real.sqrt_eq_iff_mul_self_eq (by positivity) (by positivity)]
    norm_cast
    exact eq_comm
  have hs := seen_withTail (e := (e - (e % 2).toNat - 64) / 2) h26 Real.nat_sqrt_le_real_sqrt Real.real_sqrt_lt_nat_sqrt_succ ht
  have hv : Real.sqrt big * 2 ^ ((e - (e % 2).toNat - 64) / 2) = Real.sqrt (m * 2 ^ e) := by
    obtain ⟨k, hk⟩ : ∃ k : Int, e = 2 * k + (e % 2).toNat + 64 := ⟨(e - (e % 2).toNat - 64) / 2, by omega⟩
    have h2 : (e - (e % 2).toNat - 64) / 2 = k := by omega
    have hsq : (m * 2 ^ e : ℝ) = big * (2 ^ k) ^ 2 := by
      rw [hbig, ← zpow_natCast, ← zpow_mul]
      push_cast
      rw [mul_assoc, ← two_zpow_add_nat]
      congr 2
      push_cast
      omega
    rw [h2, hsq, Real.sqrt_mul (by positivity), Real.sqrt_sq (two_zpow_pos k).le]
  rw [hv] at hs
  refine ⟨_, _, by omega, ?_, hs⟩
  simp [fSqrt, hm, isqrt_eq, ← hbig, withTail]

theorem withSign_one_div (neg : Bool) (y : ℝ) : 1 / withSign neg y = withSign neg (1 / y) := by
  cases neg <;> simp [withSign]

/-- Settles O6: the number that is rounded is seen for the exact value, and rounding delivers the nearest multiple of the unit in
its last place, than which no code of the format stands nearer. -/
theorem roundToNearestDeliversANearestValue : Obligations.RoundToNearestDeliversANearestValue := by
  intro t neg m e
  refine ⟨fun ho => ?_, fun hm ho => ?_, fun hm hpos ho => ?_⟩
  · rw [rat_fin]
    by_cases hm : m = 0
    · subst hm
      rw [show withSign neg ((0 : Nat) * 2 ^ e) = 0 by simp [withSign]]
      exact fRound_zero_nearest t neg e
    · exact fRound_nearest neg hm (.inl rfl) ho
  · obtain ⟨n, k, hn, hr, hs⟩ := seen_fRcp neg m e hm
    rw [hr, fFinish_plain] at ho ⊢
    rw [rat_fin, withSign_one_div]
    exact fRound_nearest neg hn hs ho
  · subst hpos
    obtain ⟨n, k, hn, hr, hs⟩ := seen_fSqrt m e hm
    rw [hr, fFinish_plain] at ho ⊢
    exact fRound_nearest false hn (by simpa [rat_fin, withSign] using hs) ho

end Sys2Proof.Machine
end

section
/-!
THE MULTIPLYING COMMANDS (R57, R58, R209 to R211, R218): a command whose operands are at hand passes its checks and folds one
granule of k-blocks into its tile; the folds of the model are those of `Safety`.
-/

namespace Sys2Proof.Machine

/-! ## A command in progress -/

theorem Commands.seqOp_eq {s : State} {e : BulkEnv} {next : Nat} (h : Commands s e next)
    (f : BulkEnv → Nat → State → SeqStep) :
    seqOp s f = .next (applySeq s e next (f e next s)) := by
  obtain ⟨hcur, henv⟩ := h
  simp only [seqOp, hcur, henv]

/-- The teams after an update of a sequencer. -/
theorem getTeam_modSeq (s : State) (tid k : Nat) (f : Sequencer → Sequencer) :
    getTeam (modSeq s tid f) k = (getTeam s k).map fun t => if k = tid then { t with seq := f t.seq } else t := by
  rw [modSeq, getTeam_modTeam s tid k _ (by exact fun _ => rfl)]
  by_cases hk : tid = k
  · simp [hk]
  · simp [hk, Ne.symm hk]

/-- A command that completes with an update of its sequencer. -/
theorem seqCompletes_of_done {i : Instr} {s : State} {e : BulkEnv} {pos : Nat} {f : Sequencer → Sequencer}
    (h : exec i s = .next (seqDone (modSeq s e.team.tid f) e pos)) : SeqCompletes i s e pos f := by
  refine ⟨_, h, rfl, rfl, fun k => ?_⟩
  have hc : ∀ s' : State, getTeam (countEvent s' e.ctx.asid 2 1) k = getTeam s' k := fun _ => rfl
  rw [seqDone, hc, getTeam_modSeq, getTeam_modSeq, Option.map_map]
  congr 1
  funext t
  by_cases hk : k = e.team.tid <;> simp [hk]

/-- A command that faults. -/
theorem seqFaults_of_fault {i : Instr} {s : State} {e : BulkEnv} {c : SeqCause} {a : Nat}
    (h : exec i s = .next (seqFault s e c a 0 0)) : SeqFaults i s e c := by
  have hrec : ∃ r : FaultRec, (getCtx (seqFault s e c a 0 0) e.ctx.asid).map (·.pending) =
      (getCtx s e.ctx.asid).map (fun x => x.pending ++ [r]) ∧ r.cls = seqClass c ∧ r.info = seqRow c ∧ r.src = 1 ∧
      r.pc = e.team.seq.pos ∧ r.team = e.team.index ∧ r.repl = true := by
    simp only [seqFault, engineRecord]
    rw [getCtx_modCtx _ _ _ _ (by exact fun _ => rfl), if_pos rfl, Option.map_map]
    exact ⟨_, rfl, rfl, rfl, rfl, rfl, rfl, rfl⟩
  exact ⟨_, h, rfl, fun k => getTeam_modSeq s e.team.tid k fun q => { q with status := .faulted c false }, hrec⟩

/-! ## Checks that pass -/

theorem needRoom_ok {e : BulkEnv} {c : SeqCause} {rs : List (Nat × Nat)}
    (h : ∀ r ∈ rs, r.1 + r.2 ≤ e.grid.desc.scratch * 128) : needRoom e c rs = .ok () := by
  have : rs.find? (fun r => decide (scrBytes e < r.1 + r.2)) = none := by
    rw [List.find?_eq_none]
    intro r hr
    have := h r hr
    rw [decide_eq_true_eq, scrBytes]
    omega
  simp only [needRoom, this]

/-- Nothing is empty, and no error stands. -/
theorem waitData_ok {s : State} (e : BulkEnv) (rs : List (Nat × Nat)) (he : s.empties = []) (hu : s.upsets = []) :
    waitData s e rs = .ok () := by
  simp [waitData, lineEmpty, he, hu]

theorem needData_ok {s : State} (e : BulkEnv) (rs : List (Nat × Nat)) (he : s.empties = []) (hu : s.upsets = [])
    (hp : s.poison = []) : needData s e rs = .ok () := by
  have : rs.find? (fun r => poisoned s (keyScr e.team.tid r.1) r.2) = none := by
    rw [List.find?_eq_none]
    intro r _
    simp [poisoned, hp]
  simp only [needData, waitData_ok e rs he hu, this]

theorem needThis_ok {e : BulkEnv} {mt : BitVec 4} {k : MKind} {el : List Nat} (h : HoldsTile e mt k el) :
    needThis e mt k = .ok el := by
  have ht : seqTile e mt = ⟨some k, el⟩ := h.1
  simp [needThis, needKind, ht]

section
variable {s : State} {e : BulkEnv} {next : Nat} {x : MmaOp} {d : ADesc} {w : Nat} {bc : ECode} {b : BBuf} {kb k0 lo : Nat}

theorem Multiplies.loopIx_ok (h : Multiplies s e next x d w bc b kb k0 lo) :
    ∃ i, loopIx e x.ix = .ok i ∧ k0 = x.k0.toNat + i * kb := by
  have hk := h.index
  have hl := h.loop
  cases hx : x.ix with
  | false => exact ⟨0, rfl, by simpa [hx] using hk⟩
  | true =>
    cases hs : e.team.seq.loops with
    | nil => exact absurd hs (hl hx)
    | cons l rest => exact ⟨l.index, by simp [loopIx, hs], by simpa [hx, hs, Nat.mul_comm] using hk⟩

theorem Multiplies.needBuf_ok (h : Multiplies s e next x d w bc b kb k0 lo) : needBuf e x.bb = .ok (bc, b) := by
  simp only [needBuf, h.buf, h.code]

/-- The descriptor is read once its type is one that the command takes. -/
theorem Multiplies.needA_eq (h : Multiplies s e next x d w bc b kb k0 lo) (ok : ADesc → Bool) :
    needA s e x k0 kb ok = if ok d then .ok (w, d) else .error (.fault .format 0) := by
  have hw : scrRead s e (seqUd e x.ud.toNat) 32 = w := h.desc.symm
  have hroom : ∀ r ∈ [(seqUd e x.ud.toNat, 32)], r.1 + r.2 ≤ e.grid.desc.scratch * 128 := by
    simp only [List.mem_singleton, forall_eq]
    exact h.room
  have hdata := fun rs => needData_ok e rs h.full h.calm h.clean
  simp only [needA, needRoom_ok hroom, hdata, hw, h.read, bind, Except.bind, needRoom_ok h.ranges]
  cases ok d <;> rfl

/-- A command whose checks pass, where it begins, folds its next granule. -/
theorem Multiplies.mulStep_eq (h : Multiplies s e next x d w bc b kb k0 lo) (total : Nat) (checks : SeqM (Nat × ADesc))
    (hc : lo = 0 → checks = .ok (w, d)) (f : ADesc → Nat → Nat → State) :
    mulStep e x k0 total s checks f = .ok (granStep e x.gran total lo w s (f d)) := by
  have hs := h.split
  by_cases h0 : lo = 0
  · rw [if_pos h0] at hs
    simp only [mulStep, hs, hc h0, h0]
  · rw [if_neg h0] at hs
    simp only [mulStep, hs, h.read, waitData_ok e _ h.full h.calm]

end

/-! ## Granules -/

theorem tileRows_length (el : List Nat) (f : Nat → Nat → Nat → Nat) : (tileRows el f).length = el.length := by
  simp [tileRows]

/-- An element of a tile that is computed row by row. -/
theorem tileRows_getD {el : List Nat} (f : Nat → Nat → Nat → Nat) (hl : el.length = 4096) {r c : Nat} (hr : r < 64)
    (hc : c < 64) : (tileRows el f).getD (64 * r + c) 0 = f r c (el.getD (64 * r + c) 0) := by
  have hlt : 64 * r + c < el.length := by omega
  have h1 : (64 * r + c) / 64 = r := by omega
  have h2 : (64 * r + c) % 64 = c := by omega
  simp [tileRows, List.getD_eq_getElem?_getD, hlt, h1, h2]

theorem granBlocks_min (gran : BitVec 3) (total lo : Nat) : min (granBlocks gran total) (total - lo) =
    if gran = 0 then total - lo else min (2 ^ (gran.toNat - 1)) (total - lo) := by
  unfold granBlocks
  by_cases h : gran = 0
  · simp [h]
  · rw [if_neg h, if_neg (by simpa using h)]

/-- A granule whose effect is a tile's new elements. -/
theorem foldsGranule_of {i : Instr} {s : State} {e : BulkEnv} {next : Nat} {x : MmaOp} {w kb lo : Nat} {kind : MKind}
    {g : Nat → Nat → State} {el : List Nat} {f : Nat → Nat → Nat → Nat} (F : Nat → Nat → Nat → Nat → Nat)
    (h : exec i s = .next (applySeq s e next (granStep e x.gran (kb / 8) lo w s g))) (hl : el.length = 4096)
    (hg : ∀ n, g lo n = putTile s e x.mt ⟨some kind, tileRows el (F n)⟩)
    (hf : ∀ n, ∀ r < 64, ∀ c < 64, F n r c (el.getD (64 * r + c) 0) = f n r c) :
    FoldsGranule i s e next x w kb lo kind f := by
  unfold FoldsGranule
  rw [← granBlocks_min]
  generalize hn : min (granBlocks x.gran (kb / 8)) (kb / 8 - lo) = n
  have hel : ∀ r < 64, ∀ c < 64, (tileRows el (F n)).getD (64 * r + c) 0 = f n r c := fun r hr c hc => by
    rw [tileRows_getD _ hl hr hc, hf n r hr c hc]
  have hlen := (tileRows_length el (F n)).trans hl
  simp only [granStep, hn, hg] at h
  dsimp only
  split
  · next hall =>
    rw [if_pos hall] at h
    exact ⟨_, hlen, hel, seqCompletes_of_done h⟩
  · next hpart =>
    rw [if_neg hpart] at h
    refine ⟨_, hlen, hel, _, h, rfl, fun k => ?_⟩
    rw [applySeq, putTile, getTeam_modSeq, getTeam_modSeq, Option.map_map]
    congr 1
    funext t
    by_cases hk : k = e.team.tid <;> simp [hk]

/-! ## The folds -/

/-- No block is left after the last of `K` elements. -/
theorem dotFloat_eq (K : Nat) (a b : Nat → FVal) (lo n acc : Nat) : accFloat K a b lo n acc = dotFloat K a b lo n acc := by
  induction n with
  | zero => simp [accFloat, dotFloat]
  | succ n ih =>
    rw [dotFloat]
    split
    · next hK =>
      rw [← ih, accFloat, accFloat, show min (n + 1) ((K + 7) / 8 - lo) = min n ((K + 7) / 8 - lo) by omega]
    · next hK =>
      rw [← ih, accFloat, accFloat, show min (n + 1) ((K + 7) / 8 - lo) = n + 1 by omega,
        show min n ((K + 7) / 8 - lo) = n by omega, List.range_succ, List.foldl_append]
      rfl

theorem zextI_eq_toNat (z : Int) : zextI z 32 = (BitVec.ofInt 32 z).toNat := by
  rw [BitVec.toNat_ofInt]
  rfl

theorem sextN_byte (y : Byte) : sextN y.toNat 8 = y.toInt := by
  have := y.isLt
  rw [sextN, BitVec.toInt_eq_toNat_cond, Nat.mod_eq_of_lt this]
  omega

/-- An element of an i8 column. -/
theorem colInt_i8 (c : List Byte) (k : Nat) : colInt .i8 c k = (c.getD k 0).toInt := sextN_byte _

theorem planeDigit_eq (n p : Nat) (mid : Bool) (c : List Byte) (k : Nat) : planeDigit n p mid c k =
    (if ((c.getD (k / 8) 0).getLsbD (k % 8)) then (if p = 0 then -2 ^ (n - 1) else 2 ^ (n - 1 - p) : Int) else 0) +
      (if mid then 2 ^ (n - 2 - p) else 0) := by
  simp [planeDigit, colByte, BitVec.getLsbD]

/-! ## The commands -/

section
variable {s : State} {e : BulkEnv} {next : Nat} {x : MmaOp} {d : ADesc} {w : Nat} {bc : ECode} {b : BBuf} {k0 lo : Nat}
  {el : List Nat}

/-- The tile kind of a command on elements of operand A. -/
def accKind (af : ECode) : MKind := if af == .i8 then .i32 else .f32

theorem Multiplies.mmaStep_eq (h : Multiplies s e next x d w bc b (bufDepth bc) k0 lo) {af : ECode}
    (ht : HoldsTile e x.mt (accKind af) el) (hp : mmaPair af bc = true) (hd : d.af = af) :
    mmaStep e s x af bc = .ok (granStep e x.gran (bufDepth bc / 8) lo w s fun lo n =>
      if af == .i8 then mulInt s e x d k0 (fun j k => colInt bc (bufCol b j) k) lo n
      else mulFloat s e x d k0 (fun j k => colFloat bc (bufCol b j) k) lo n) := by
  obtain ⟨i, hi, rfl⟩ := h.loopIx_ok
  simp only [mmaStep, hi, h.needBuf_ok, bind, Except.bind]
  refine h.mulStep_eq _ _ (fun _ => ?_) _
  have hk : needThis e x.mt (if af == .i8 then .i32 else .f32) = .ok el := needThis_ok ht
  simp only [hk, hp, faultIf, h.needA_eq, hd]
  simp

/-- A descriptor of another type faults. -/
theorem Multiplies.mmaStep_format (h : Multiplies s e next x d w bc b (bufDepth bc) k0 0) {af : ECode}
    (ht : HoldsTile e x.mt (accKind af) el) (hd : d.af ≠ af) :
    mmaStep e s x af bc = .error (.fault .format 0) := by
  obtain ⟨i, hi, rfl⟩ := h.loopIx_ok
  have hs : e.team.seq.split = none := h.split
  simp only [mmaStep, hi, h.needBuf_ok, bind, Except.bind, mulStep, hs]
  have hk : needThis e x.mt (if af == .i8 then .i32 else .f32) = .ok el := needThis_ok ht
  simp only [hk, faultIf, h.needA_eq, beq_eq_false_iff_ne.2 hd]
  cases mmaPair af bc <;> simp

theorem Multiplies.mpmaStep_eq (h : Multiplies s e next x d w bc b 1024 k0 lo) {af : ECode} {mid : Bool}
    (ht : HoldsTile e x.mt (accKind af) el) (ha : (af == .i8 || af == .e4m3 || af == .e5m2) = true) (hn : ecPlanes bc ≠ 0)
    (hm : mid = true → b.pl + 1 < ecPlanes bc) (hd : d.af = af) :
    mpmaStep e s x af mid = .ok (granStep e x.gran 128 lo w s fun lo n =>
      if af == .i8 then mulInt s e x d k0 (fun j k => planeDigit (ecPlanes bc) b.pl mid (bufCol b j) k) lo n
      else mulFloat s e x d k0 (fun j k => fOfInt (planeDigit (ecPlanes bc) b.pl mid (bufCol b j) k)) lo n) := by
  obtain ⟨i, hi, rfl⟩ := h.loopIx_ok
  simp only [mpmaStep, hi, h.needBuf_ok, bind, Except.bind]
  refine h.mulStep_eq _ _ (fun _ => ?_) _
  have hk : needThis e x.mt (if af == .i8 then .i32 else .f32) = .ok el := needThis_ok ht
  have hbad : (ecPlanes bc == 0 || !(af == .i8 || af == .e4m3 || af == .e5m2) || (mid && b.pl + 1 == ecPlanes bc)) = false := by
    rw [ha, beq_eq_false_iff_ne.2 hn]
    cases mid
    · rfl
    · have := hm rfl
      simp only [Bool.not_true, Bool.or_false, Bool.true_and, Bool.false_or, beq_eq_false_iff_ne]
      omega
  simp only [hk, hbad, faultIf, h.needA_eq, hd]
  simp

/-- The accumulator after blocks lo to lo + n − 1 of `mmodma` (R211). -/
def mulRes (s : State) (e : BulkEnv) (x : MmaOp) (d : ADesc) (k0 : Nat) (b : BBuf) (lo n : Nat) : State :=
  putTile s e x.mt ⟨some .res, tileRows (seqTile e x.mt).el fun i j v =>
    modq (v + accInt (fun k => aInt s e d (x.p0.toNat + i) (k0 + k)) (fun k => colInt .n64 (bufCol b j) k) lo n) (seqQ e j)⟩

theorem Multiplies.mmodmaStep_eq (h : Multiplies s e next x d w .n64 b 16 k0 lo) (ht : HoldsTile e x.mt .res el)
    (hd : d.af = .n64) (hok : modmaOk s e x d k0 el b = true) :
    mmodmaStep e s x = .ok (granStep e x.gran 2 lo w s (mulRes s e x d k0 b)) := by
  obtain ⟨i, hi, rfl⟩ := h.loopIx_ok
  simp only [mmodmaStep, hi, h.needBuf_ok, bind, Except.bind]
  refine h.mulStep_eq _ _ (fun _ => ?_) _
  simp only [needThis_ok ht, faultIf, h.needA_eq, hd]
  simp [hok, pure, Except.pure]

/-- The data of `mmodma` pass where the moduli are valid and every operand is below its column's. -/
theorem modmaOk_of
    (h : ∀ j < 64, seqQ e j % 2 = 1 ∧ 3 ≤ seqQ e j ∧ seqQ e j < 2 ^ 62 ∧
      (∀ k < 16, colInt .n64 (bufCol b j) k < (seqQ e j : Int)) ∧ ∀ i < 64, tileAt el i j < seqQ e j ∧
        ∀ k < 16, aInt s e d (x.p0.toNat + i) (k0 + k) < (seqQ e j : Int)) : modmaOk s e x d k0 el b = true := by
  simp only [modmaOk, List.all_eq_true, List.mem_range, Bool.and_eq_true, decide_eq_true_eq]
  intro j hj
  obtain ⟨h1, h2, h3, h4, h5⟩ := h j hj
  exact ⟨⟨by simpa [modulusOk, h1, h2] using h3, h4⟩, h5⟩

end

theorem HoldsTile.el_eq {e : BulkEnv} {mt : BitVec 4} {k : MKind} {el : List Nat} (h : HoldsTile e mt k el) :
    (seqTile e mt).el = el := congrArg Tile.el h.1

/-- A float command folds its blocks in the fixed tree. -/
theorem foldsGranule_mulFloat {i : Instr} {s : State} {e : BulkEnv} {next : Nat} {x : MmaOp} {d : ADesc} {w kb k0 lo : Nat}
    {el : List Nat} {col : Nat → Nat → FVal} (ht : HoldsTile e x.mt .f32 el)
    (h : exec i s = .next (applySeq s e next (granStep e x.gran (kb / 8) lo w s (mulFloat s e x d k0 col)))) :
    FoldsGranule i s e next x w kb lo .f32 fun n i j =>
      dotFloat (descK d - k0) (fun k => aFloat s e d (x.p0.toNat + i) (k0 + k)) (col j) lo n (el.getD (64 * i + j) 0) := by
  refine foldsGranule_of (fun n i j v => _) h ht.2 (fun n => by rw [mulFloat, ht.el_eq]) fun n r _ c _ => ?_
  exact dotFloat_eq ..

/-- An integer command adds its exact sums modulo 2^32. -/
theorem foldsGranule_mulInt {i : Instr} {s : State} {e : BulkEnv} {next : Nat} {x : MmaOp} {d : ADesc} {w kb k0 lo : Nat}
    {el : List Nat} {col : Nat → Nat → Int} (ht : HoldsTile e x.mt .i32 el)
    (h : exec i s = .next (applySeq s e next (granStep e x.gran (kb / 8) lo w s (mulInt s e x d k0 col)))) :
    FoldsGranule i s e next x w kb lo .i32 fun n i j => (BitVec.ofInt 32 ((el.getD (64 * i + j) 0 : Nat) +
      dotInt (fun k => aInt s e d (x.p0.toNat + i) (k0 + k)) (col j) lo n)).toNat := by
  refine foldsGranule_of (fun n i j v => _) h ht.2 (fun n => by rw [mulInt, ht.el_eq]) fun n r _ c _ => ?_
  exact zextI_eq_toNat _

/-- Residues are reduced by the modulus of their column after the exact sum. -/
theorem foldsGranule_mulRes {i : Instr} {s : State} {e : BulkEnv} {next : Nat} {x : MmaOp} {d : ADesc} {w kb k0 lo : Nat}
    {el : List Nat} {b : BBuf} (ht : HoldsTile e x.mt .res el)
    (h : exec i s = .next (applySeq s e next (granStep e x.gran (kb / 8) lo w s (mulRes s e x d k0 b)))) :
    FoldsGranule i s e next x w kb lo .res fun n i j => (((el.getD (64 * i + j) 0 : Nat) +
      dotInt (fun k => aInt s e d (x.p0.toNat + i) (k0 + k)) (fun k => colInt .n64 (bufCol b j) k) lo n) % seqQ e j).toNat := by
  refine foldsGranule_of (fun n i j v => _) h ht.2 (fun n => by rw [mulRes, ht.el_eq]) fun n r _ c _ => ?_
  rfl

theorem Commands.exec_mma {s : State} {e : BulkEnv} {next : Nat} (h : Commands s e next) (x : MmaOp) (af bf : ECode) :
    exec (.mma x af bf) s = .next (applySeq s e next (seqRun (mmaStep e s x af bf))) :=
  h.seqOp_eq fun e _ s => seqRun (mmaStep e s x af bf)

theorem Commands.exec_mpma {s : State} {e : BulkEnv} {next : Nat} (h : Commands s e next) (x : MmaOp) (af : ECode) (mid : Bool) :
    exec (.mpma x af mid) s = .next (applySeq s e next (seqRun (mpmaStep e s x af mid))) :=
  h.seqOp_eq fun e _ s => seqRun (mpmaStep e s x af mid)

theorem Commands.exec_mmodma {s : State} {e : BulkEnv} {next : Nat} (h : Commands s e next) (x : MmaOp) :
    exec (.mmodma x) s = .next (applySeq s e next (seqRun (mmodmaStep e s x))) :=
  h.seqOp_eq fun e _ s => seqRun (mmodmaStep e s x)

/-- Settles O36: the checks of a command with its operands at hand pass, one granule of its k-blocks is folded into its tile, and
the model's fold of each element is the one in the fixed order of `Safety`. -/
theorem multiplyingCommandsFoldTheirBlocksInOrder : Obligations.MultiplyingCommandsFoldTheirBlocksInOrder := by
  intro s e next x d w bc b k0 lo el A I K v col
  refine ⟨fun h => ⟨fun af hd hi8 hpair ht hlo => ?_, fun hd hbc ht hlo => ?_⟩,
    fun mid h n hn h0 hpl hmid hlo => ⟨fun hd ht => ?_, fun af haf hd ht => ?_⟩, fun h hd ht hlo hok => ?_,
    fun h0 h af ht hd => ?_⟩
  · have hk : accKind af = .f32 := by simp [accKind, hi8]
    have hp : mmaPair af bc = true := by
      rcases hpair with ⟨rfl | rfl, rfl | rfl⟩ | ⟨rfl, rfl | rfl | rfl⟩ <;> rfl
    have hx := h.on.exec_mma x af bc
    simp only [h.mmaStep_eq (hk ▸ ht) hp hd, beq_eq_false_iff_ne.2 hi8] at hx
    exact foldsGranule_mulFloat ht hx
  · subst hbc
    have hx := h.on.exec_mma x .i8 .i8
    rw [h.mmaStep_eq (af := .i8) (el := el) ht rfl hd] at hx
    have hcol : ∀ j, colInt .i8 (bufCol b j) = fun k => ((col j).getD k 0).toInt := fun j => funext (colInt_i8 _)
    have hf := foldsGranule_mulInt (kb := 128) ht hx
    simp only [hcol] at hf
    exact hf
  · subst hn
    have hx := h.on.exec_mpma x .i8 mid
    rw [h.mpmaStep_eq (af := .i8) (el := el) ht rfl h0 hmid hd] at hx
    have hf := foldsGranule_mulInt (kb := 1024) ht hx
    simp only [planeDigit_eq] at hf
    exact hf
  · subst hn
    have hk : accKind af = .f32 := by rcases haf with rfl | rfl <;> rfl
    have ha : (af == .i8 || af == .e4m3 || af == .e5m2) = true := by rcases haf with rfl | rfl <;> rfl
    have hi8 : (af == .i8) = false := by rcases haf with rfl | rfl <;> rfl
    have hx := h.on.exec_mpma x af mid
    simp only [h.mpmaStep_eq (hk ▸ ht) ha h0 hmid hd, hi8] at hx
    have hf := foldsGranule_mulFloat (kb := 1024) ht hx
    simp only [planeDigit_eq] at hf
    exact hf
  · have hx := h.on.exec_mmodma x
    rw [h.mmodmaStep_eq ht hd (modmaOk_of hok)] at hx
    exact foldsGranule_mulRes (kb := 16) ht hx
  · subst h0
    have hk : HoldsTile e x.mt (accKind af) el := by
      by_cases hi : af = .i8 <;> simpa [accKind, hi] using ht
    have hx := h.on.exec_mma x af bc
    rw [h.mmaStep_format hk hd] at hx
    exact seqFaults_of_fault hx

end Sys2Proof.Machine
end

section
/-!
ENCODING A BLOCK OF E2M1X ELEMENTS (R51): the candidates are the first two elements in the order of R51, the scale is the least
that the others keep, and every element has its code.
-/

namespace Sys2Proof.Machine

/-! ## Magnitudes -/

/-- The magnitude of a value, 0 for a NaN or an infinity. -/
def fMag (x : FVal) : Rat := |x.rat|

theorem two_zpow_posQ (k : Int) : (0 : Rat) < 2 ^ k := by positivity

theorem fMag_fin (neg : Bool) (m : Nat) (e : Int) : fMag (.fin neg m e) = m * 2 ^ e := by
  have h : (0 : Rat) ≤ m * 2 ^ e := by positivity
  cases neg
  · simp [fMag, FVal.rat]
  · simp [fMag, FVal.rat, abs_of_nonneg]

theorem fMag_eq_zero (neg : Bool) (m : Nat) (e : Int) : fMag (.fin neg m e) = 0 ↔ m = 0 := by
  have := two_zpow_posQ e
  simp [fMag_fin, this.ne']

theorem fMag_nonneg (x : FVal) : 0 ≤ fMag x := abs_nonneg _

theorem two_zpow_toNat (e e0 : Int) (h : e0 ≤ e) : (2 : Rat) ^ e = 2 ^ (e - e0).toNat * 2 ^ e0 := by
  rw [← zpow_natCast, ← zpow_add₀ (by norm_num)]
  congr 1
  omega

/-- `magLe` compares magnitudes. -/
theorem magLe_iff (m : Nat) (e : Int) (M : Nat) (k : Int) : magLe m e M k = true ↔ (m : Rat) * 2 ^ e ≤ M * 2 ^ k := by
  rw [two_zpow_toNat e (min e k) (min_le_left ..), two_zpow_toNat k (min e k) (min_le_right ..), ← mul_assoc, ← mul_assoc,
    mul_le_mul_iff_left₀ (two_zpow_posQ _), magLe, decide_eq_true_eq]
  norm_cast

theorem magGt_iff {x y : FVal} (hx : fSpecial x = false) (hy : fSpecial y = false) : magGt x y = true ↔ fMag y < fMag x := by
  cases x <;> cases y <;> simp [fSpecial, fIsNan, fIsInf] at hx hy
  rw [magGt, Bool.not_eq_true', ← Bool.not_eq_true, magLe_iff, not_le, fMag_fin, fMag_fin]

/-! ## The greatest element of a list -/

/-- An element that can be the greatest: finite and not 0. -/
def Live (x : FVal) : Prop := fSpecial x = false ∧ 0 < fMag x

/-- Element j stands before element i by magnitude, the lower index on a tie. -/
def Ahead (x : Nat → FVal) (j i : Nat) : Prop := fMag (x i) < fMag (x j) ∨ (fMag (x j) = fMag (x i) ∧ j < i)

theorem live_fin (neg : Bool) (m : Nat) (e : Int) : Live (.fin neg m e) ↔ m ≠ 0 := by
  rw [Live, lt_iff_le_and_ne, ne_comm, ne_eq, fMag_eq_zero]
  simp [fSpecial, fIsNan, fIsInf, fMag_nonneg]

/-- One element more: it is passed over, or it is compared with the greatest so far. -/
theorem greatestOf_append (l : List (Nat × FVal)) (p : Nat × FVal) : (Live p.2 ∧ greatestOf (l ++ [p]) =
      match greatestOf l with
      | none => some p
      | some y => if magGt p.2 y.2 then some p else some y) ∨ (¬Live p.2 ∧ greatestOf (l ++ [p]) = greatestOf l) := by
  obtain ⟨j, v⟩ := p
  simp only [greatestOf, List.foldl_append, List.foldl_cons, List.foldl_nil]
  cases v with
  | nan b => exact .inr ⟨fun h => by simp [Live, fSpecial, fIsNan] at h, rfl⟩
  | inf b => exact .inr ⟨fun h => by simp [Live, fSpecial, fIsNan, fIsInf] at h, rfl⟩
  | fin neg m e =>
    by_cases hm : m = 0
    · exact .inr ⟨fun h => (live_fin ..).1 h hm, by simp [hm]⟩
    · refine .inl ⟨(live_fin ..).2 hm, ?_⟩
      have h0 : (m == 0) = false := by simpa using hm
      simp only [h0]
      generalize List.foldl _ none l = g
      cases g <;> simp

/-- Of elements with ascending indices, `greatestOf` gives the one that stands before every other. -/
theorem greatestOf_spec (x : Nat → FVal) (js : List Nat) (hs : js.Pairwise (· < ·)) :
    match greatestOf (js.map fun j => (j, x j)) with
    | none => ∀ j ∈ js, ¬Live (x j)
    | some p => p.1 ∈ js ∧ p.2 = x p.1 ∧ Live (x p.1) ∧ ∀ i ∈ js, Live (x i) → i ≠ p.1 → Ahead x p.1 i := by
  induction js using List.reverseRecOn with
  | nil => simp [greatestOf]
  | append_singleton js k ih =>
    obtain ⟨hjs, -, hk⟩ := List.pairwise_append.1 hs
    have ih := ih hjs
    rw [List.map_append, List.map_cons, List.map_nil]
    rcases greatestOf_append (js.map fun j => (j, x j)) (k, x k) with ⟨hl, he⟩ | ⟨hl, he⟩
    · rw [he]
      cases hg : greatestOf (js.map fun j => (j, x j)) with
      | none =>
        rw [hg] at ih
        refine ⟨by simp, rfl, hl, fun i hi hli hne => ?_⟩
        rcases List.mem_append.1 hi with hi | hi
        · exact absurd hli (ih i hi)
        · exact absurd (List.mem_singleton.1 hi) hne
      | some p =>
        rw [hg] at ih
        obtain ⟨hp, hv, hlp, hbest⟩ := ih
        dsimp only
        rw [hv]
        by_cases hgt : magGt (x k) (x p.1) = true
        · rw [if_pos hgt]
          have hlt := (magGt_iff hl.1 hlp.1).1 hgt
          refine ⟨by simp, rfl, hl, fun i hi hli hne => .inl ?_⟩
          have hi : i ∈ js := (List.mem_append.1 hi).resolve_right fun h => hne (List.mem_singleton.1 h)
          by_cases hip : i = p.1
          · rwa [hip]
          · rcases hbest i hi hli hip with h | h
            · exact h.trans hlt
            · exact h.1.ge.trans_lt hlt
        · rw [if_neg hgt]
          have hle := not_lt.1 fun h => hgt ((magGt_iff hl.1 hlp.1).2 h)
          refine ⟨by simp [hp], hv, hlp, fun i hi hli hne => ?_⟩
          rcases List.mem_append.1 hi with hi | hi
          · exact hbest i hi hli hne
          · obtain rfl := List.mem_singleton.1 hi
            exact hle.lt_or_eq.imp_right fun h => ⟨h.symm, hk _ hp _ (by simp)⟩
    · rw [he]
      cases hg : greatestOf (js.map fun j => (j, x j)) with
      | none =>
        rw [hg] at ih
        intro j hj
        rcases List.mem_append.1 hj with hj | hj
        · exact ih j hj
        · rwa [List.mem_singleton.1 hj]
      | some p =>
        rw [hg] at ih
        obtain ⟨hp, hv, hlp, hbest⟩ := ih
        refine ⟨by simp [hp], hv, hlp, fun i hi hli hne => ?_⟩
        rcases List.mem_append.1 hi with hi | hi
        · exact hbest i hi hli hne
        · exact absurd (List.mem_singleton.1 hi ▸ hli) hl

/-! ## The scale -/

/-- `scaleExp` is the least exponent whose scale keeps a magnitude within 6. -/
theorem scaleExp_six (m : Nat) (e : Int) (hm : m ≠ 0) : ∃ k : Int, (∀ i : Int, (m : Rat) * 2 ^ e ≤ 6 * 2 ^ i ↔ k ≤ i) ∧
    scaleExp m e 6 = max (-127) (min 127 k) := by
  obtain ⟨k0, hk0⟩ : ∃ k0 : Int, k0 = (Nat.log2 m : Int) + e - Nat.log2 6 := ⟨_, rfl⟩
  have hL : (Nat.log2 m : Int) + e = k0 + 2 := by
    rw [hk0, show Nat.log2 6 = 2 by decide]
    omega
  have hpow : ∀ n : Nat, (2 : Rat) ^ ((n : Int) + e) = ((2 ^ n : Nat) : Rat) * 2 ^ e := fun n => by
    rw [zpow_add₀ (by norm_num), zpow_natCast]
    push_cast
    rfl
  have hlo : 4 * (2 : Rat) ^ k0 ≤ m * 2 ^ e := by
    have h1 : ((2 ^ m.log2 : Nat) : Rat) ≤ m := by exact_mod_cast Nat.log2_self_le hm
    have h2 := mul_le_mul_of_nonneg_right h1 (two_zpow_posQ e).le
    rw [← hpow, hL, zpow_add₀ (by norm_num)] at h2
    norm_num at h2
    linarith
  have hhi : (m : Rat) * 2 ^ e < 8 * 2 ^ k0 := by
    have h1 : (m : Rat) < ((2 ^ (m.log2 + 1) : Nat) : Rat) := by exact_mod_cast Nat.lt_log2_self
    have h2 := mul_lt_mul_of_pos_right h1 (two_zpow_posQ e)
    rw [← hpow, show ((m.log2 + 1 : Nat) : Int) + e = k0 + 3 by push_cast; omega, zpow_add₀ (by norm_num)] at h2
    norm_num at h2
    linarith
  have hstep : ∀ {i j : Int}, i ≤ j → (2 : Rat) ^ i ≤ 2 ^ j := fun h => zpow_le_zpow_right₀ (by norm_num) h
  have hsucc : (2 : Rat) ^ (k0 + 1) = 2 * 2 ^ k0 := by rw [zpow_add_one₀ (by norm_num), mul_comm]
  refine ⟨if magLe m e 6 k0 then k0 else k0 + 1, fun i => ?_, ?_⟩
  · split
    · next hle =>
      have hle : (m : Rat) * 2 ^ e ≤ 6 * 2 ^ k0 := by exact_mod_cast (magLe_iff m e 6 k0).1 hle
      refine ⟨fun h => ?_, fun h => hle.trans (by have := hstep h; linarith)⟩
      by_contra hlt
      have h1 := hstep (show i + 1 ≤ k0 by omega)
      rw [zpow_add_one₀ (by norm_num)] at h1
      have := two_zpow_posQ k0
      linarith
    · next hgt =>
      have hgt : 6 * 2 ^ k0 < (m : Rat) * 2 ^ e := by
        rw [magLe_iff, not_le] at hgt
        exact_mod_cast hgt
      refine ⟨fun h => ?_, fun h => ?_⟩
      · by_contra hlt
        have := hstep (show i ≤ k0 by omega)
        linarith
      · have := hstep h
        have := two_zpow_posQ k0
        linarith
  · rw [scaleExp, if_neg hm, hk0]

/-! ## The first two of an order -/

section
variable {E : Nat → Prop} {R : Nat → Nat → Prop}

/-- `c` lists the first two elements of `E` in the order `R`, or all of them where there are fewer. -/
def FirstTwo (E : Nat → Prop) (R : Nat → Nat → Prop) : List Nat → Prop
  | [] => ∀ i, ¬E i
  | [a] => E a ∧ ∀ i, E i → i = a
  | [a, b] => E a ∧ E b ∧ R a b ∧ ∀ i, E i → i = a ∨ i = b ∨ (R a i ∧ R b i)
  | _ => False

theorem FirstTwo.length_le {c : List Nat} (h : FirstTwo E R c) : c.length ≤ 2 := by
  match c, h with
  | [], _ => simp
  | [_], _ => simp
  | [_, _], _ => simp

/-- An element is one of the first two when fewer than two stand before it. -/
theorem FirstTwo.mem_iff [DecidableRel R] {c : List Nat} (h : FirstTwo E R c) {l : List Nat} (hl : l.Nodup)
    (hE : ∀ i, E i → i ∈ l) (hasym : ∀ i j, R i j → ¬R j i) (hleft : ∀ i ∈ l, ∀ j, E j → R i j → E i) (j : Nat) :
    j ∈ c ↔ E j ∧ (l.filter fun i => decide (R i j)).length < 2 := by
  have few : ∀ (l' : List Nat), (∀ i ∈ l, R i j → i ∈ l') → (l.filter fun i => decide (R i j)).length ≤ l'.length :=
    fun l' hl' => ((hl.filter _).subperm fun i hi =>
      hl' i (List.mem_filter.1 hi).1 (by simpa using (List.mem_filter.1 hi).2)).length_le
  have many : ∀ (l' : List Nat), l'.Nodup → (∀ i ∈ l', E i ∧ R i j) → l'.length ≤ (l.filter fun i => decide (R i j)).length :=
    fun l' hd hl' => (hd.subperm fun i hi => List.mem_filter.2 ⟨hE i (hl' i hi).1, by simpa using (hl' i hi).2⟩).length_le
  have hirr : ∀ i, ¬R i i := fun i hi => hasym i i hi hi
  match c, h with
  | [], h => simp [h j]
  | [a], ⟨ha, hall⟩ =>
    constructor
    · intro hj
      obtain rfl := List.mem_singleton.1 hj
      have hone : ∀ i ∈ l, R i j → i ∈ [j] := fun i hil hi => List.mem_singleton.2 (hall i (hleft i hil j ha hi))
      exact ⟨ha, Nat.lt_of_le_of_lt (few _ hone) (by simp)⟩
    · exact fun hj => List.mem_singleton.2 (hall j hj.1)
  | [a, b], ⟨ha, hb, hab, hall⟩ =>
    have hne : a ≠ b := fun h => hirr a (by rwa [← h] at hab)
    constructor
    · intro hj
      rcases List.mem_pair.1 hj with rfl | rfl
      · have hnone : ∀ i ∈ l, R i j → i ∈ ([] : List Nat) := fun i hil hi => by
          rcases hall i (hleft i hil j ha hi) with rfl | rfl | ⟨h1, h2⟩
          · exact absurd hi (hirr i)
          · exact absurd hi (hasym _ _ hab)
          · exact absurd hi (hasym _ _ h1)
        exact ⟨ha, Nat.lt_of_le_of_lt (few _ hnone) (by simp)⟩
      · have hone : ∀ i ∈ l, R i j → i ∈ [a] := fun i hil hi => by
          rcases hall i (hleft i hil j hb hi) with rfl | rfl | ⟨h1, h2⟩
          · simp
          · exact absurd hi (hirr i)
          · exact absurd hi (hasym _ _ h2)
        exact ⟨hb, Nat.lt_of_le_of_lt (few _ hone) (by simp)⟩
    · rintro ⟨hj, hlt⟩
      rcases hall j hj with rfl | rfl | ⟨h1, h2⟩
      · simp
      · simp
      · exact absurd (many [a, b] (by simpa using hne) (by simp [ha, hb, h1, h2])) (Nat.not_le.2 hlt)

end

/-! ## Candidates -/

/-- Element i stands before element j in the order of R51: NaNs and infinities first, then by magnitude, the lower index on a
tie. -/
def stands (x : Nat → FVal) (i j : Nat) : Bool :=
  decide (i ≠ j) && if fSpecial (x i) then !fSpecial (x j) || decide (i < j)
    else !fSpecial (x j) && (decide (fMag (x j) < fMag (x i)) || (decide (fMag (x i) = fMag (x j)) && decide (i < j)))

/-- Element j can be an outlier. -/
def Eligible (n : Nat) (x : Nat → FVal) (j : Nat) : Prop := j < n ∧ (fSpecial (x j) = true ∨ 0 < fMag (x j))

/-- The elements of a block with their indices. -/
def blockOn (x : Nat → FVal) (js : List Nat) : List (Nat × FVal) := js.map fun j => (j, x j)

theorem stands_special {x : Nat → FVal} {i j : Nat} (hi : fSpecial (x i) = true) :
    stands x i j = true ↔ i ≠ j ∧ (fSpecial (x j) = false ∨ i < j) := by
  simp [stands, hi]

theorem stands_number {x : Nat → FVal} {i j : Nat} (hi : fSpecial (x i) = false) :
    stands x i j = true ↔ i ≠ j ∧ fSpecial (x j) = false ∧ Ahead x i j := by
  simp [stands, hi, Ahead]

theorem stands_asymm (x : Nat → FVal) (i j : Nat) (h : stands x i j = true) : ¬stands x j i = true := by
  intro h'
  cases hi : fSpecial (x i) with
  | true =>
    obtain ⟨-, h1⟩ := (stands_special hi).1 h
    cases hj : fSpecial (x j) with
    | true =>
      obtain ⟨-, h2⟩ := (stands_special hj).1 h'
      rw [hj] at h1
      rw [hi] at h2
      simp at h1 h2
      omega
    | false =>
      obtain ⟨-, h2, -⟩ := (stands_number hj).1 h'
      rw [hi] at h2
      contradiction
  | false =>
    obtain ⟨-, hj, h1⟩ := (stands_number hi).1 h
    obtain ⟨-, -, h2⟩ := (stands_number hj).1 h'
    rcases h1 with h1 | ⟨h1, h3⟩ <;> rcases h2 with h2 | ⟨h2, h4⟩
    · exact lt_asymm h1 h2
    · exact h1.ne h2
    · exact h2.ne h1
    · omega

/-- What stands before an element that can be an outlier can be one. -/
theorem eligible_of_stands {n : Nat} {x : Nat → FVal} {i j : Nat} (hin : i < n) (hj : Eligible n x j)
    (h : stands x i j = true) : Eligible n x i := by
  refine ⟨hin, ?_⟩
  cases hi : fSpecial (x i) with
  | true => exact .inl rfl
  | false =>
    obtain ⟨-, hsj, h1⟩ := (stands_number hi).1 h
    have hpos := hj.2.resolve_left (by simp [hsj])
    right
    rcases h1 with h1 | ⟨h1, -⟩
    · exact hpos.trans h1
    · rwa [h1]

/-- The indices of a block's elements that are no NaN and no infinity. -/
def numbersOf (n : Nat) (x : Nat → FVal) : List Nat := (List.range n).filter fun j => !fSpecial (x j)

theorem mem_numbersOf {n : Nat} {x : Nat → FVal} {j : Nat} : j ∈ numbersOf n x ↔ j < n ∧ fSpecial (x j) = false := by
  simp [numbersOf]

theorem eligible_number {n : Nat} {x : Nat → FVal} {j : Nat} (h : j ∈ numbersOf n x) : Eligible n x j ↔ Live (x j) := by
  obtain ⟨hn, hs⟩ := mem_numbersOf.1 h
  simp [Eligible, Live, hn, hs]

theorem filter_blockOn (x : Nat → FVal) (js : List Nat) (p : Nat × FVal → Bool) :
    (blockOn x js).filter p = blockOn x (js.filter fun j => p (j, x j)) := by
  rw [blockOn, List.filter_map]
  rfl

theorem map_fst_blockOn (x : Nat → FVal) (js : List Nat) : (blockOn x js).map (·.1) = js := by
  rw [blockOn, List.map_map]
  exact List.map_id _

/-- The greatest of some of a block's numbers, by its index. -/
theorem greatestOf_numbers {n : Nat} {x : Nat → FVal} {js : List Nat} (hs : js.Sublist (numbersOf n x)) :
    match (greatestOf (blockOn x js)).map (·.1) with
    | none => ∀ j ∈ js, ¬Eligible n x j
    | some a => a ∈ js ∧ Eligible n x a ∧ ∀ i ∈ js, Eligible n x i → i ≠ a → stands x a i = true := by
  have hsorted : js.Pairwise (· < ·) := (List.pairwise_lt_range.sublist List.filter_sublist).sublist hs
  have := greatestOf_spec x js hsorted
  unfold blockOn
  cases hg : greatestOf (js.map fun j => (j, x j)) with
  | none =>
    rw [hg] at this
    exact fun j hj => by rw [eligible_number (hs.subset hj)]; exact this j hj
  | some p =>
    rw [hg] at this
    obtain ⟨hp, -, hl, hbest⟩ := this
    refine ⟨hp, (eligible_number (hs.subset hp)).2 hl, fun i hi hei hne => ?_⟩
    have hli := (eligible_number (hs.subset hi)).1 hei
    exact (stands_number hl.1).2 ⟨fun h => hne h.symm, hli.1, hbest i hi hli hne⟩

/-- The indices of a block's NaNs and infinities. -/
def specialsOf (n : Nat) (x : Nat → FVal) : List Nat := (List.range n).filter fun j => fSpecial (x j)

theorem mem_specialsOf {n : Nat} {x : Nat → FVal} {j : Nat} : j ∈ specialsOf n x ↔ j < n ∧ fSpecial (x j) = true := by
  simp [specialsOf]

/-- With no NaN and no infinity, the candidates are the greatest number and the greatest of the others. -/
theorem candidates_of_numbers {n : Nat} {x : Nat → FVal} (h : specialsOf n x = []) : candidates (blockOn x (List.range n)) =
    (greatestOf (blockOn x (numbersOf n x))).elim [] fun y =>
      y.1 :: ((greatestOf (blockOn x ((numbersOf n x).filter fun j => j != y.1))).map (·.1)).toList := by
  unfold specialsOf at h
  simp only [candidates, filter_blockOn, map_fst_blockOn, h, List.take_nil, List.length_nil, Nat.zero_lt_succ, if_true,
    List.nil_append]
  unfold numbersOf
  cases greatestOf (blockOn x ((List.range n).filter fun j => !fSpecial (x j))) <;> rfl

/-- With one NaN or infinity, the candidates are it and the greatest number. -/
theorem candidates_of_special {n a : Nat} {x : Nat → FVal} (h : specialsOf n x = [a]) :
    candidates (blockOn x (List.range n)) = a :: ((greatestOf (blockOn x (numbersOf n x))).map (·.1)).toList := by
  unfold specialsOf at h
  simp [candidates, filter_blockOn, map_fst_blockOn, h, numbersOf]

/-- With more, the candidates are the first two of them. -/
theorem candidates_of_specials {n a b : Nat} {x : Nat → FVal} {l : List Nat} (h : specialsOf n x = a :: b :: l) :
    candidates (blockOn x (List.range n)) = [a, b] := by
  unfold specialsOf at h
  simp [candidates, filter_blockOn, map_fst_blockOn, h]

/-- The candidates of a block are the first two of the elements that can be outliers (R51). -/
theorem candidates_firstTwo (n : Nat) (x : Nat → FVal) :
    FirstTwo (Eligible n x) (fun i j => stands x i j = true) (candidates (blockOn x (List.range n))) := by
  have hnum : ∀ i, Eligible n x i → i ∉ specialsOf n x → i ∈ numbersOf n x := fun i hi hs =>
    mem_numbersOf.2 ⟨hi.1, by simpa [mem_specialsOf, hi.1] using hs⟩
  have hsp : ∀ i, i ∈ specialsOf n x → Eligible n x i := fun i hi => ⟨(mem_specialsOf.1 hi).1, .inl (mem_specialsOf.1 hi).2⟩
  have hover : ∀ a i, a ∈ specialsOf n x → i ∈ numbersOf n x → stands x a i = true := fun a i ha hi => by
    refine (stands_special (mem_specialsOf.1 ha).2).2 ⟨?_, .inl (mem_numbersOf.1 hi).2⟩
    rintro rfl
    simpa [(mem_specialsOf.1 ha).2] using (mem_numbersOf.1 hi).2
  have h1 := greatestOf_numbers (List.Sublist.refl (numbersOf n x))
  match hS : specialsOf n x with
  | [] =>
    rw [hS] at hnum
    rw [candidates_of_numbers hS]
    cases hg : greatestOf (blockOn x (numbersOf n x)) with
    | none =>
      rw [hg] at h1
      exact fun i hi => h1 i (hnum i hi (by simp)) hi
    | some p =>
      rw [hg] at h1
      obtain ⟨-, ha, hbest⟩ := h1
      have h2 := greatestOf_numbers (List.filter_sublist (p := fun j => j != p.1) (l := numbersOf n x))
      have hrest : ∀ i, Eligible n x i → i ≠ p.1 → i ∈ (numbersOf n x).filter fun j => j != p.1 := fun i hi hne => by
        simpa [hne] using hnum i hi (by simp)
      rw [Option.elim_some]
      cases hg2 : greatestOf (blockOn x ((numbersOf n x).filter fun j => j != p.1)) with
      | none =>
        rw [hg2] at h2
        exact ⟨ha, fun i hi => by_contra fun hne => h2 i (hrest i hi hne) hi⟩
      | some q =>
        rw [hg2] at h2
        obtain ⟨hq, hb, hbest2⟩ := h2
        obtain ⟨hqn, hqp⟩ : q.1 ∈ numbersOf n x ∧ q.1 ≠ p.1 := by simpa using hq
        refine ⟨ha, hb, hbest q.1 hqn hb hqp, fun i hi => ?_⟩
        by_cases hip : i = p.1
        · exact .inl hip
        by_cases hiq : i = q.1
        · exact .inr (.inl hiq)
        · exact .inr (.inr ⟨hbest i (hnum i hi (by simp)) hi hip, hbest2 i (hrest i hi hip) hi hiq⟩)
  | [a] =>
    have ha : a ∈ specialsOf n x := by simp [hS]
    rw [candidates_of_special hS]
    cases hg : greatestOf (blockOn x (numbersOf n x)) with
    | none =>
      rw [hg] at h1
      exact ⟨hsp a ha, fun i hi => by_contra fun hne => h1 i (hnum i hi (by simpa [hS] using hne)) hi⟩
    | some p =>
      rw [hg] at h1
      obtain ⟨hpn, hp, hbest⟩ := h1
      refine ⟨hsp a ha, hp, hover a p.1 ha hpn, fun i hi => ?_⟩
      by_cases hia : i = a
      · exact .inl hia
      by_cases hip : i = p.1
      · exact .inr (.inl hip)
      · have hin := hnum i hi (by simpa [hS] using hia)
        exact .inr (.inr ⟨hover a i ha hin, hbest i hin hi hip⟩)
  | a :: b :: S =>
    have ha : a ∈ specialsOf n x := by simp [hS]
    have hb : b ∈ specialsOf n x := by simp [hS]
    have hsorted : (specialsOf n x).Pairwise (· < ·) := List.pairwise_lt_range.sublist List.filter_sublist
    rw [hS] at hsorted
    obtain ⟨hafter, hbs⟩ := List.pairwise_cons.1 hsorted
    have hbafter := (List.pairwise_cons.1 hbs).1
    have hlt : ∀ i j, i ∈ specialsOf n x → i < j → stands x i j = true := fun i j hi hij =>
      (stands_special (mem_specialsOf.1 hi).2).2 ⟨hij.ne, .inr hij⟩
    rw [candidates_of_specials hS]
    refine ⟨hsp a ha, hsp b hb, hlt a b ha (hafter b (by simp)), fun i hi => ?_⟩
    by_cases his : i ∈ specialsOf n x
    · rw [hS] at his
      rcases List.mem_cons.1 his with rfl | his
      · exact .inl rfl
      rcases List.mem_cons.1 his with rfl | his
      · exact .inr (.inl rfl)
      · exact .inr (.inr ⟨hlt a i ha (hafter i (by simp [his])), hlt b i hb (hbafter i his)⟩)
    · exact .inr (.inr ⟨hover a i ha (hnum i hi his), hover b i hb (hnum i hi his)⟩)

/-- Which elements are candidates. -/
theorem mem_candidates (n : Nat) (x : Nat → FVal) (j : Nat) : j ∈ candidates (blockOn x (List.range n)) ↔
    Eligible n x j ∧ ((List.range n).filter (stands x · j)).length < 2 := by
  have := (candidates_firstTwo n x).mem_iff List.nodup_range (fun i hi => List.mem_range.2 hi.1) (stands_asymm x)
    (fun i hi j hj h => eligible_of_stands (List.mem_range.1 hi) hj h) j
  simpa using this

/-- Element j is a candidate, as R51 counts. -/
def isCandidate (n : Nat) (x : Nat → FVal) (j : Nat) : Bool :=
  (fSpecial (x j) || decide (0 < fMag (x j))) && decide (((List.range n).filter (stands x · j)).length < 2)

theorem contains_candidates {n j : Nat} (x : Nat → FVal) (hj : j < n) :
    (candidates (blockOn x (List.range n))).contains j = isCandidate n x j := by
  rw [Bool.eq_iff_iff, List.contains_iff_mem, mem_candidates]
  simp [isCandidate, Eligible, hj]

/-! ## Scale and outliers of a block -/

/-- Element j keeps within the block's scale: it is a number and no candidate. -/
def Kept (n : Nat) (x : Nat → FVal) (j : Nat) : Prop := j < n ∧ fSpecial (x j) = false ∧ isCandidate n x j = false

/-- The scale is the least that holds the elements that are kept. -/
theorem blockExp_spec (n : Nat) (x : Nat → FVal) :
    ((∀ j, Kept n x j → fMag (x j) = 0) → blockExp (blockOn x (List.range n)) = -127) ∧
    ((∃ j, Kept n x j ∧ fMag (x j) ≠ 0) → ∃ k : Int, (∀ i : Int, (∀ j, Kept n x j → fMag (x j) ≤ 6 * 2 ^ i) ↔ k ≤ i) ∧
      blockExp (blockOn x (List.range n)) = max (-127) (min 127 k)) := by
  have hsorted : ((List.range n).filter fun j => !(candidates (blockOn x (List.range n))).contains j).Pairwise (· < ·) :=
    List.pairwise_lt_range.sublist List.filter_sublist
  have hmem : ∀ j, j ∈ (List.range n).filter (fun j => !(candidates (blockOn x (List.range n))).contains j) ↔
      j < n ∧ isCandidate n x j = false := fun j => by
    rw [List.mem_filter, List.mem_range]
    exact and_congr_right fun hj => by rw [contains_candidates x hj, Bool.not_eq_true']
  have hg := greatestOf_spec x _ hsorted
  have hlive : ∀ j, Kept n x j → (Live (x j) ↔ fMag (x j) ≠ 0) := fun j hj => by
    rw [Live, lt_iff_le_and_ne, ne_comm]
    simp [hj.2.1, fMag_nonneg]
  rw [blockExp, filter_blockOn]
  unfold blockOn at hg hmem ⊢
  generalize greatestOf _ = best at hg ⊢
  cases best with
  | none =>
    have hzero : ∀ j, Kept n x j → fMag (x j) = 0 := fun j hj =>
      by_contra fun h => hg j ((hmem j).2 ⟨hj.1, hj.2.2⟩) ((hlive j hj).2 h)
    exact ⟨fun _ => rfl, fun ⟨j, hj, hne⟩ => absurd (hzero j hj) hne⟩
  | some p =>
    obtain ⟨a, v⟩ := p
    obtain ⟨ha, hv, hl, hbest⟩ := hg
    dsimp only at ha hv hl hbest
    subst hv
    have hka : Kept n x a := ⟨((hmem a).1 ha).1, hl.1, ((hmem a).1 ha).2⟩
    refine ⟨fun h => absurd (h a hka) hl.2.ne', fun _ => ?_⟩
    have hmax : ∀ j, Kept n x j → fMag (x j) ≤ fMag (x a) := fun j hj => by
      by_cases hja : j = a
      · rw [hja]
      by_cases hj0 : fMag (x j) = 0
      · rw [hj0]
        exact fMag_nonneg _
      · rcases hbest j ((hmem j).2 ⟨hj.1, hj.2.2⟩) ((hlive j hj).2 hj0) hja with h | ⟨h, -⟩
        · exact h.le
        · exact h.ge
    cases hx : x a with
    | nan b => simp [Live, hx, fSpecial, fIsNan] at hl
    | inf b => simp [Live, hx, fSpecial, fIsNan, fIsInf] at hl
    | fin neg m e =>
      obtain ⟨k, hk, he⟩ := scaleExp_six m e ((live_fin neg m e).1 (hx ▸ hl))
      refine ⟨k, fun i => ?_, he⟩
      rw [← hk, ← fMag_fin neg, ← hx]
      exact ⟨fun h => h a hka, fun h j hj => (hmax j hj).trans h⟩

/-- The indices of a block's outliers under the scale 2^e. -/
def outliersAt (n : Nat) (x : Nat → FVal) (e : Int) : List Nat :=
  (List.range n).filter fun j => isCandidate n x j && (fSpecial (x j) || decide (6 * (2 : Rat) ^ e < fMag (x j)))

theorem outliers_blockOn (n : Nat) (x : Nat → FVal) : outliers (blockOn x (List.range n)) =
    blockOn x (outliersAt n x (blockExp (blockOn x (List.range n)))) := by
  rw [outliers, filter_blockOn, outliersAt]
  congr 1
  refine List.filter_congr fun j hj => ?_
  rw [contains_candidates x (List.mem_range.1 hj)]
  congr 1
  cases hx : x j with
  | nan b => rfl
  | inf b => rfl
  | fin neg m e =>
    dsimp only
    rw [Bool.eq_iff_iff, Bool.not_eq_true', ← Bool.not_eq_true, magLe_iff, not_le, fMag_fin]
    simp [fSpecial, fIsNan, fIsInf]

/-- A block has at most two outliers. -/
theorem outliersAt_length (n : Nat) (x : Nat → FVal) (e : Int) : (outliersAt n x e).length ≤ 2 := by
  have hsub : outliersAt n x e ⊆ candidates (blockOn x (List.range n)) := fun j hj => by
    simp only [outliersAt, List.mem_filter, List.mem_range, Bool.and_eq_true] at hj
    rw [← List.contains_iff_mem, contains_candidates x hj.1]
    exact hj.2.1
  exact ((List.nodup_range.filter _).subperm hsub).length_le.trans (candidates_firstTwo n x).length_le

/-- The entry of outlier i of a block (R51). -/
def entryAt (x : Nat → FVal) (e : Int) (out : List Nat) (i : Nat) : Nat :=
  match out[i]? with
  | none => 0
  | some j => j + 2 ^ 5 * outlierVal e (x j)

theorem map_blockOn {α : Type} (x : Nat → FVal) (js : List Nat) (f : Nat × FVal → α) :
    (blockOn x js).map f = js.map fun j => f (j, x j) := by
  rw [blockOn, List.map_map]
  rfl

theorem any_blockOn (x : Nat → FVal) (js : List Nat) (j : Nat) : (blockOn x js).any (·.1 == j) = decide (j ∈ js) := by
  rw [Bool.eq_iff_iff]
  simp [blockOn, List.any_eq_true]

/-- The code of element j of a block under the scale 2^e (R51). -/
def codeAt (n : Nat) (x : Nat → FVal) (e : Int) (j : Nat) : Nat :=
  if j ∈ outliersAt n x e ∨ fSpecial (x j) = true then 8 else (fRound .e2m1x .rn true (fScale2 (-e) (x j))).code

/-- A block's codes and its metadata word. -/
theorem encE2m1x_blockOn {n : Nat} {x : Nat → FVal} {e : Int} (he : blockExp (blockOn x (List.range n)) = e) :
    encE2m1x (blockOn x (List.range n)) = ((List.range n).map (codeAt n x e),
      (e + 127).toNat + 2 ^ 8 * (outliersAt n x e).length + 2 ^ 10 * entryAt x e (outliersAt n x e) 0 +
        2 ^ 31 * entryAt x e (outliersAt n x e) 1) := by
  simp only [encE2m1x, outliers_blockOn, he, map_blockOn, any_blockOn, Bool.or_eq_true, decide_eq_true_eq]
  refine Prod.ext rfl ?_
  simp only [blockOn, List.length_map, List.getElem?_map, entryAt]
  cases (outliersAt n x e)[0]? <;> cases (outliersAt n x e)[1]? <;> rfl

theorem outlierVal_eq (e : Int) (x : FVal) : outlierVal e x = match x with
    | .nan _ => 0x7E00
    | .inf neg => if neg then 0xFC00 else 0x7C00
    | y => (fRound .f16 .rn true (fScale2 (-e) y)).code := by
  cases x with
  | nan b => rfl
  | inf b => cases b <;> rfl
  | fin neg m k => rfl

/-- A zero has the code 0. -/
theorem codeAt_zero {x : Nat → FVal} {e : Int} {j : Nat} (hs : fSpecial (x j) = false) (h0 : fMag (x j) = 0) :
    (fRound .e2m1x .rn true (fScale2 (-e) (x j))).code = 0 := by
  cases hx : x j with
  | nan b => simp [hx, fSpecial, fIsNan] at hs
  | inf b => simp [hx, fSpecial, fIsNan, fIsInf] at hs
  | fin neg m k =>
    rw [hx] at h0
    rw [(fMag_eq_zero neg m k).1 h0]
    rfl

/-- What a block's encoding is (R51). -/
theorem encE2m1x_spec (n : Nat) (x : Nat → FVal) : ∃ e : Int,
    ((∀ j, Kept n x j → fMag (x j) = 0) → e = -127) ∧
    ((∃ j, Kept n x j ∧ fMag (x j) ≠ 0) → ∃ k : Int, (∀ i : Int, (∀ j, Kept n x j → fMag (x j) ≤ 6 * 2 ^ i) ↔ k ≤ i) ∧
      e = max (-127) (min 127 k)) ∧
    (outliersAt n x e).length ≤ 2 ∧
    (encE2m1x (blockOn x (List.range n))).2 = (e + 127).toNat + 2 ^ 8 * (outliersAt n x e).length +
      2 ^ 10 * entryAt x e (outliersAt n x e) 0 + 2 ^ 31 * entryAt x e (outliersAt n x e) 1 ∧
    (encE2m1x (blockOn x (List.range n))).1.length = n ∧
    ∀ j, j < n → (encE2m1x (blockOn x (List.range n))).1[j]? = some (if j ∈ outliersAt n x e ∨ fSpecial (x j) = true then 8
      else if fMag (x j) = 0 then 0 else (fRound .e2m1x .rn true (fScale2 (-e) (x j))).code) := by
  obtain ⟨h1, h2⟩ := blockExp_spec n x
  refine ⟨_, h1, h2, outliersAt_length .., ?_, ?_, fun j hj => ?_⟩ <;> rw [encE2m1x_blockOn rfl]
  · simp
  · simp only [List.getElem?_map, List.getElem?_range hj, Option.map_some, codeAt]
    by_cases hs : j ∈ outliersAt n x (blockExp (blockOn x (List.range n))) ∨ fSpecial (x j) = true
    · rw [if_pos hs, if_pos hs]
    · rw [if_neg hs, if_neg hs]
      split
      · next h0 => rw [codeAt_zero (by simpa using (not_or.1 hs).2) h0]
      · rfl

end Sys2Proof.Machine
end

section
/-!
ELEMENT STORES AT THE BANK (R45, R47, R53, R55, R364): the bytes of one access, line by line; the bytes of a format unit; and the
step that performs an operation of the store queue with one element store.
-/

namespace Sys2Proof.Machine

/-! ## Bytes of a page written as one access -/

/-- Only memory and what goes with its bytes differ: versions, tags of commons lines, and the writes of the round. -/
def SameButBank (s s' : State) : Prop :=
  s' = { s with mem := s'.mem, versions := s'.versions, cmnTags := s'.cmnTags, written := s'.written }

theorem SameButBank.refl (s : State) : SameButBank s s := rfl

theorem SameButBank.trans {s s1 s2 : State} (h : SameButBank s s1) (h' : SameButBank s1 s2) : SameButBank s s2 := by
  unfold SameButBank at *
  rw [h', h]

theorem SameButBank.contexts {s s' : State} (h : SameButBank s s') : s'.contexts = s.contexts := by
  rw [h]

theorem SameButBank.groups {s s' : State} (h : SameButBank s s') : s'.groups = s.groups := by
  rw [h]

theorem sameButBank_tagCommons (s : State) (asid key n : Nat) : SameButBank s (tagCommons s asid key n) := by
  unfold tagCommons SameButBank
  split <;> rfl

theorem sameButBank_noteWrite (s : State) (key n : Nat) : SameButBank s (noteWrite s key n) := by
  unfold noteWrite SameButBank
  split <;> rfl

@[simp] theorem tagCommons_versions (s : State) (asid key n : Nat) : (tagCommons s asid key n).versions = s.versions := by
  unfold tagCommons
  split <;> rfl

@[simp] theorem noteWrite_versions (s : State) (key n : Nat) : (noteWrite s key n).versions = s.versions := by
  unfold noteWrite
  split <;> rfl

/-- The frame that a key lies in is its page's. -/
theorem keyFrame_page {s s' : State} {k k' : Nat} (hc : s'.contexts = s.contexts) (hk : k / 4096 = k' / 4096) :
    keyFrame s' k = keyFrame s k' := by
  have hkind : ∀ n, keyKind n = n / 4096 / 2 ^ 116 := fun n => by rw [Nat.div_div_eq_div_mul]; rfl
  have hobj : ∀ n, keyObj n = n / 4096 / 2 ^ 52 % 2 ^ 64 := fun n => by rw [Nat.div_div_eq_div_mul]; rfl
  have hlfn : ∀ n, n % 2 ^ 64 / 4096 = n / 4096 % 2 ^ 52 := fun n => by omega
  simp only [keyFrame, getCtx, hkind, hobj, hlfn, hk, hc]

theorem keyClass2_page {s s' : State} {k k' : Nat} (hc : s'.contexts = s.contexts) (hk : k / 4096 = k' / 4096) :
    keyClass2 s' k = keyClass2 s k' := by
  rw [keyClass2, keyClass2, keyFrame_page hc hk]

/-- Bytes put one after another. -/
def putAll (asid : Nat) (xs : List (Nat × Nat)) (w : State) : State :=
  xs.foldl (fun w b => noteWrite (tagCommons { w with mem := memPut w.mem b.1 (BitVec.ofNat 8 b.2) } asid b.1 1) b.1 1) w

/-- The byte that a list of writes leaves at an address: that of the last write to it, or what stood there. -/
def lastByte (xs : List (Nat × Nat)) (a : Nat) (old : Byte) : Byte := ((xs.reverse.lookup a).map (BitVec.ofNat 8)).getD old

theorem lastByte_cons (x : Nat × Nat) (xs : List (Nat × Nat)) (a : Nat) (old : Byte) :
    lastByte (x :: xs) a old = lastByte xs a (if x.1 = a then BitVec.ofNat 8 x.2 else old) := by
  rw [lastByte, lastByte, List.reverse_cons, List.lookup_append]
  cases xs.reverse.lookup a with
  | some v => rfl
  | none =>
    by_cases h : x.1 = a
    · simp [List.lookup, h]
    · have hb : (a == x.1) = false := by simpa using Ne.symm h
      simp [List.lookup, h, hb]

theorem lastByte_of_not_mem {xs : List (Nat × Nat)} {a : Nat} {old : Byte} (h : ∀ w ∈ xs, w.1 ≠ a) :
    lastByte xs a old = old := by
  induction xs with
  | nil => rfl
  | cons x xs ih => rw [lastByte_cons, if_neg (h x (by simp)), ih fun w hw => h w (by simp [hw])]

/-- Writes elsewhere leave no byte at an address. -/
theorem lastByte_filter (p : Nat × Nat → Bool) (xs : List (Nat × Nat)) (a : Nat) (old : Byte)
    (hp : ∀ w ∈ xs, w.1 = a → p w = true) : lastByte (xs.filter p) a old = lastByte xs a old := by
  induction xs generalizing old with
  | nil => rfl
  | cons x xs ih =>
    have ih := fun o => ih o fun w hw => hp w (by simp [hw])
    rw [lastByte_cons, List.filter_cons]
    split
    · rw [lastByte_cons, ih]
    · next hx => rw [if_neg fun h => hx (hp x (by simp) h), ih]

theorem lastByte_append (xs ys : List (Nat × Nat)) (a : Nat) (old : Byte) :
    lastByte (xs ++ ys) a old = lastByte ys a (lastByte xs a old) := by
  induction xs generalizing old with
  | nil => rfl
  | cons x xs ih => rw [List.cons_append, lastByte_cons, lastByte_cons, ih]

theorem putAll_spec (asid : Nat) (xs : List (Nat × Nat)) (w : State) : SameButBank w (putAll asid xs w) ∧
    (putAll asid xs w).versions = w.versions ∧ ∀ a, memGet (putAll asid xs w).mem a = lastByte xs a (memGet w.mem a) := by
  induction xs generalizing w with
  | nil => exact ⟨rfl, rfl, fun _ => rfl⟩
  | cons x xs ih =>
    obtain ⟨h1, h2, h3⟩ := ih (noteWrite (tagCommons { w with mem := memPut w.mem x.1 (BitVec.ofNat 8 x.2) } asid x.1 1) x.1 1)
    have hw : SameButBank w { w with mem := memPut w.mem x.1 (BitVec.ofNat 8 x.2) } := rfl
    refine ⟨((hw.trans (sameButBank_tagCommons ..)).trans (sameButBank_noteWrite ..)).trans h1, ?_, fun a => ?_⟩
    · rw [putAll, List.foldl_cons]
      refine h2.trans ?_
      simp
    · rw [putAll, List.foldl_cons, lastByte_cons, ← memGet_memPut]
      refine (h3 a).trans ?_
      rw [noteWrite_mem, tagCommons_mem]

/-- A write of a line whose version is not spent. -/
theorem writeLine_fresh {s w : State} {l : Nat} (hf : Fresh s (64 * l)) (hw : SameButBank s w) (hv : w.versions = s.versions) :
    SameButBank s (writeLine s (64 * l) w) ∧ (writeLine s (64 * l) w).mem = w.mem ∧
      ∀ k, k ≠ l → tget 0 (writeLine s (64 * l) w).versions k = tget 0 s.versions k := by
  have hl : 64 * l / 64 = l := by omega
  unfold Fresh at hf
  rw [hl] at hf
  simp only [writeLine, hl]
  split
  · next hc =>
    rw [if_neg (by have := hf hc; omega)]
    exact ⟨hw.trans rfl, rfl, fun k hk => by rw [tget_tput_ne _ _ _ _ _ hk.symm, hv]⟩
  · exact ⟨hw, rfl, fun k _ => by rw [hv]⟩

/-- Lines that can each take one more write take their bytes, each its own. -/
theorem lines_spec (asid : Nat) (ws : List (Nat × Nat)) (ls : List Nat) (s : State) (hnd : ls.Nodup)
    (hf : ∀ l ∈ ls, Fresh s (64 * l)) :
    let s' := ls.foldl (fun s l => writeLine s (64 * l) (putAll asid (ws.filter (·.1 / 64 == l)) s)) s
    SameButBank s s' ∧ ∀ a, memGet s'.mem a =
      if a / 64 ∈ ls then lastByte (ws.filter (·.1 / 64 == a / 64)) a (memGet s.mem a) else memGet s.mem a := by
  induction ls generalizing s with
  | nil => exact ⟨rfl, fun _ => by simp⟩
  | cons l ls ih =>
    obtain ⟨hn, hnd⟩ := List.nodup_cons.1 hnd
    obtain ⟨hp1, hp2, hp3⟩ := putAll_spec asid (ws.filter (·.1 / 64 == l)) s
    obtain ⟨hw1, hw2, hw3⟩ := writeLine_fresh (hf l (by simp)) hp1 hp2
    rw [List.foldl_cons]
    generalize writeLine s (64 * l) (putAll asid (ws.filter (·.1 / 64 == l)) s) = s1 at hw1 hw2 hw3
    obtain ⟨h1, h2⟩ := ih s1 hnd fun k hk => by
      have := hf k (by simp [hk])
      unfold Fresh at this ⊢
      have hk64 : 64 * k / 64 = k := by omega
      rw [keyClass2_page hw1.contexts rfl, hk64, hw3 k (fun h => hn (h ▸ hk))]
      rwa [hk64] at this
    refine ⟨hw1.trans h1, fun a => (h2 a).trans ?_⟩
    rw [hw2, hp3]
    by_cases ha : a / 64 = l
    · have hl : a / 64 ∉ ls := ha ▸ hn
      rw [if_neg hl, if_pos (by simp [ha]), ha]
    · have hmiss : lastByte (ws.filter (·.1 / 64 == l)) a (memGet s.mem a) = memGet s.mem a := by
        refine lastByte_of_not_mem fun w hw h => ha ?_
        have := (List.mem_filter.1 hw).2
        rw [← h]
        simpa using this
      rw [hmiss]
      simp [ha]

/-- Bytes of lines that can each take one more write. -/
theorem bankBytes_spec (s : State) (asid : Nat) (ws : List (Nat × Nat)) (hf : ∀ w ∈ ws, Fresh s (64 * (w.1 / 64))) :
    SameButBank s (bankBytes s asid ws) ∧ ∀ a, memGet (bankBytes s asid ws).mem a = lastByte ws a (memGet s.mem a) := by
  obtain ⟨h1, h2⟩ := lines_spec asid ws _ s (List.nodup_dedup (ws.map (·.1 / 64))) fun l hl => by
    obtain ⟨w, hw, rfl⟩ := List.mem_map.1 (List.mem_dedup.1 hl)
    exact hf w hw
  refine ⟨h1, fun a => (h2 a).trans ?_⟩
  split
  · exact lastByte_filter _ ws a _ fun w _ h => by simp [h]
  · next ha =>
    refine (lastByte_of_not_mem fun w hw h => ha ?_).symm
    rw [List.mem_dedup, ← h]
    exact List.mem_map.2 ⟨w, hw, rfl⟩

/-! ## Bytes of a format unit -/

theorem memGet_of_not_mem {m : List Host.Cell} {a : Nat} (h : a ∉ m.map (·.1)) : memGet m a = 0 := by
  induction m with
  | nil => rfl
  | cons c m ih =>
    obtain ⟨k, v⟩ := c
    rw [List.map_cons, List.mem_cons, not_or] at h
    rw [memGet, tget, if_neg (Ne.symm h.1)]
    exact ih h.2

/-- Writes of one byte each to an address give that byte. -/
theorem lastByte_const {ks : List Nat} {a : Nat} (v : Nat) (old : Byte) (h : a ∈ ks) :
    lastByte (ks.map fun k => (k, v)) a old = BitVec.ofNat 8 v := by
  induction ks generalizing old with
  | nil => contradiction
  | cons k ks ih =>
    rw [List.map_cons, lastByte_cons]
    by_cases hm : a ∈ ks
    · exact ih _ hm
    · obtain rfl := (List.mem_cons.1 h).resolve_right hm
      rw [if_pos rfl]
      refine lastByte_of_not_mem fun w hw hwa => hm ?_
      obtain ⟨k, hk, rfl⟩ := List.mem_map.1 hw
      exact hwa ▸ hk

/-- The bytes of a unit written by their offsets. -/
theorem lastByte_offset (u : Nat) (bs : List (Nat × Nat)) (a : Nat) (old : Byte) (h : u ≤ a) :
    lastByte (bs.map fun b => (u + b.1, b.2)) a old = lastByte bs (a - u) old := by
  induction bs generalizing old with
  | nil => rfl
  | cons b bs ih =>
    rw [List.map_cons, lastByte_cons, lastByte_cons, ih]
    congr 1
    by_cases hb : u + b.1 = a
    · rw [if_pos hb, if_pos (by omega)]
    · rw [if_neg hb, if_neg (by omega)]

/-- An element store's bytes of a unit, and zeros in its reserved bytes (R45). -/
theorem storeUnit_spec (s : State) (asid u fmt geom : Nat) (bs : List (Nat × Nat)) (hu : u % 4096 = 0)
    (hf : ∀ a, a / 4096 = u / 4096 → Fresh s a) (hused : unitUsed fmt geom ≤ 4096)
    (hb : ∀ b ∈ bs, b.1 < unitUsed fmt geom) :
    SameButBank s (storeUnit s asid u fmt geom bs) ∧ ∀ a, memGet (storeUnit s asid u fmt geom bs).mem a =
      if a < u ∨ u + 4096 ≤ a then memGet s.mem a else if u + unitUsed fmt geom ≤ a then 0
      else lastByte bs (a - u) (memGet s.mem a) := by
  have hin : ∀ w ∈ bs.map (fun b => (u + b.1, b.2)), u ≤ w.1 ∧ w.1 < u + unitUsed fmt geom := fun w hw => by
    obtain ⟨b, hbm, rfl⟩ := List.mem_map.1 hw
    have := hb b hbm
    exact ⟨by simp, by simpa using this⟩
  have hres : ∀ k, k ∈ (s.mem.map (·.1)).filter (fun a => decide (u + unitUsed fmt geom ≤ a) && decide (a < u + 4096)) ↔
      k ∈ s.mem.map (·.1) ∧ u + unitUsed fmt geom ≤ k ∧ k < u + 4096 := fun k => by
    rw [List.mem_filter, Bool.and_eq_true, decide_eq_true_eq, decide_eq_true_eq]
  unfold storeUnit
  generalize (s.mem.map (·.1)).filter _ = ks at hres ⊢
  obtain ⟨h1, h2⟩ := bankBytes_spec s asid (bs.map (fun b => (u + b.1, b.2)) ++ ks.map fun a => (a, 0)) fun w hw => by
    have hwu : u ≤ w.1 ∧ w.1 < u + 4096 := by
      rcases List.mem_append.1 hw with hw | hw
      · have := hin w hw
        omega
      · obtain ⟨k, hk, rfl⟩ := List.mem_map.1 hw
        have := (hres k).1 hk
        exact ⟨by omega, this.2.2⟩
    exact hf _ (by omega)
  refine ⟨h1, fun a => ?_⟩
  rw [h2, lastByte_append]
  split
  · next hout =>
    rw [lastByte_of_not_mem (xs := ks.map fun a => (a, 0)) fun w hw h => ?_, lastByte_of_not_mem fun w hw h => ?_]
    · have := hin w hw
      omega
    · obtain ⟨k, hk, rfl⟩ := List.mem_map.1 hw
      have := (hres k).1 hk
      dsimp only at h
      omega
  split
  · next hin4 hr =>
    by_cases hk : a ∈ ks
    · exact lastByte_const 0 _ hk
    · have h0 : memGet s.mem a = 0 := memGet_of_not_mem fun hm => hk ((hres a).2 ⟨hm, hr, by omega⟩)
      rw [lastByte_of_not_mem fun w hw h => ?_, lastByte_of_not_mem fun w hw h => ?_, h0]
      · have := hin w hw
        omega
      · obtain ⟨k, hk', rfl⟩ := List.mem_map.1 hw
        exact hk (h ▸ hk')
  · next hin4 hr =>
    rw [lastByte_of_not_mem (xs := ks.map fun a => (a, 0)) fun w hw h => ?_, lastByte_offset u bs a _ (by omega)]
    obtain ⟨k, hk, rfl⟩ := List.mem_map.1 hw
    have := (hres k).1 hk
    dsimp only at h
    omega

/-! ## One element store performed -/

theorem clearPoison_clean {s : State} (h : s.poison = []) (ws : List (Nat × Nat)) : clearPoison s ws = s := by
  cases s
  simp_all [clearPoison]

/-- A read that no error meets. -/
theorem meetUpsets_none {s : State} {rs : List (Nat × Nat)} (h : ∀ u ∈ s.upsets, upsetIn rs u = false) :
    meetUpsets s rs = s := by
  have h1 : s.upsets.filter (upsetIn rs) = [] := List.filter_eq_nil_iff.2 fun u hu => by simp [h u hu]
  have h2 : s.upsets.filter (fun u => !upsetIn rs u) = s.upsets := List.filter_eq_self.2 fun u hu => by simp [h u hu]
  unfold meetUpsets
  split
  · rfl
  · rw [h1, h2]
    rfl

/-- A group whose threads have no due fault of an execution keeps its threads. -/
theorem shareDue_undue {g : Group} {stamp : Nat} (more : Nat)
    (h : ∀ t ∈ g.threads, (t.poison.any fun d => d.exec.stamp == stamp) = false) : shareDue stamp more g = g := by
  have hmap : ∀ f : Thread → Thread, (g.threads.map fun t =>
      if (t.poison.any fun d => d.exec.stamp == stamp) = true then f t else t) = g.threads := fun f => by
    conv_rhs => rw [← List.map_id g.threads]
    exact List.map_congr_left fun t ht => by rw [h t ht]; rfl
  unfold shareDue
  dsimp only
  rw [hmap]

/-- A group's operations change, and its frame and its threads do not. -/
theorem modGroup_keeps {s : State} {gid : Nat} {g : Group} {f : Group → Group} (hg : getGroup s gid = some g)
    (hf : ∀ x, (f x).gid = x.gid) (hframe : groupFrame (f g) = groupFrame g) (hth : (f g).threads = g.threads) :
    Framed s (modGroup s gid f) ∧ ∀ j k, getLane (modGroup s gid f) j k = getLane s j k := by
  refine ⟨⟨fun j => ?_, fun _ => rfl⟩, fun j k => ?_⟩
  · rw [getGroup_modGroup s gid j f hf]
    split
    · next h => rw [← h, hg, Option.map_some, Option.map_some, Option.map_some, hframe]
    · rfl
  · rw [getLane, getLane, getGroup_modGroup s gid j f hf]
    split
    · next h => rw [← h, hg, Option.map_some, Option.bind_some, Option.bind_some, laneThread, hth, laneThread]
    · rfl

/-- What the step of a bank's element store does to the group that issued it. -/
def performedIn (op : LongOp) (g : Group) : Group :=
  shareDue op.exec.stamp op.exec.parked
    { g with ops := modBy (·.id == op.id) (fun o => { o with performed := true, parts := op.parts }) g.ops }

section
variable {s : State} {gid : Nat} {e : Env} {op : LongOp} {l key fmt geom : Nat} {ty : Ty} {wid : Wid} {v : Word}

/-- The oldest operation of a store queue, with one element store, is performed: its bytes are written, and it is marked. -/
theorem performOp_encode (hp : op.parts = [.encode l key fmt geom ty wid v]) (hperf : op.performed = false)
    (hpo : s.poison = []) (asid : Nat) :
    performOp s asid gid op = modGroup (performEncodes s asid op.parts) gid (performedIn op) := by
  have hm : meetUpsets s (op.parts.flatMap partReadsAt) = s := meetUpsets_none fun u _ => by simp [hp, partReadsAt, upsetIn]
  have hr : op.parts.foldl (performPart asid gid op.exec) (performEncodes s asid op.parts, []) =
      (performEncodes s asid op.parts, op.parts) := by
    rw [hp]
    rfl
  unfold performOp
  rw [if_neg (by simp [hperf])]
  dsimp only
  rw [hm, clearPoison_clean hpo, hr]
  rfl

theorem exec_bankStoreEncode (he : env s gid = some e) {rest : List LongOp} (hq : queueOf e.group = op :: rest)
    (hp : op.parts = [.encode l key fmt geom ty wid v]) (hpo : s.poison = []) :
    exec (.bankStoreEncode gid op.id) s =
      .next (modGroup (performEncodes s e.ctx.asid op.parts) gid (performedIn op)) := by
  have hperf : op.performed = false := by
    have hmem : op ∈ queueOf e.group := by simp [hq]
    have hop := (List.mem_filter.1 hmem).2
    rw [Bool.and_eq_true, Bool.not_eq_true'] at hop
    exact hop.2
  have henc : hasEncode op = true := by simp [hasEncode, hp]
  have hn : isNcopyOp op = false := by simp [isNcopyOp, hp]
  show Host.Outcome.next (performKind hasEncode gid op.id s) = _
  rw [← performOp_encode hp hperf hpo]
  simp [performKind, he, hq, henc, performTo, env_group s gid e he, performAll, hn]

/-- The state after the step, where only the bank's own parts changed. -/
theorem bankStoreEncode_keeps {P : State} (he : env s gid = some e) (hun : Undue e op) (hb : SameButBank s P) :
    let s' := modGroup P gid (performedIn op)
    s' = { s with groups := s'.groups, mem := P.mem, versions := P.versions, cmnTags := P.cmnTags, written := P.written } ∧
      Framed s s' ∧ ∀ g k, getLane s' g k = getLane s g k := by
  have hg : getGroup P gid = some e.group := by rw [getGroup, hb.groups]; exact env_group s gid e he
  have hs : performedIn op e.group = { e.group with
      ops := modBy (·.id == op.id) (fun o => { o with performed := true, parts := op.parts }) e.group.ops } :=
    shareDue_undue _ hun
  obtain ⟨hfr, hla⟩ := modGroup_keeps (f := performedIn op) hg (fun _ => rfl) (by rw [hs]; rfl) (by rw [hs])
  refine ⟨by rw [hb]; rfl, ⟨fun j => (hfr.1 j).trans ?_, fun a => (hfr.2 a).trans ?_⟩, fun g k => (hla g k).trans ?_⟩
  · rw [getGroup, hb.groups]; rfl
  · rw [getCtx, hb.contexts]; rfl
  · exact getLane_groups s P hb.groups g k

/-- A single element store of a page other than E2M1X. -/
theorem performEncodes_element (asid : Nat) (h : fmt ≠ 3) : performEncodes s asid [.encode l key fmt geom ty wid v] =
    encodeOne s asid key fmt geom (storeVal ty wid v) := by
  simp [performEncodes, h]

/-- A single element store of an E2M1X page. -/
theorem performEncodes_e2m1x (asid : Nat) (h : geom ≤ 1) : performEncodes s asid [.encode l key 3 geom ty wid v] =
    encodeBlock s asid geom ((blockOf key geom).1, (blockOf key geom).2.1) [(key, (storeVal ty wid v).1)] := by
  interval_cases geom <;> simp [performEncodes]

end

end Sys2Proof.Machine
end

section
/-!
WHAT AN ELEMENT STORE WRITES (R45, R47, R49, R51, R53, R55): the byte of an FP8 element, the bits of a BPn element's planes, and
the codes and the metadata word of an E2M1X block.
-/

namespace Sys2Proof.Machine

/-! ## Lists of byte writes -/

/-- The one element of a list that has a property is found. -/
theorem find?_eq_of_unique {p : Nat → Bool} {ks : List Nat} {k : Nat} (hk : k ∈ ks) (hp : p k = true)
    (hu : ∀ k' ∈ ks, p k' = true → k' = k) : ks.find? p = some k := by
  obtain ⟨k', hk'⟩ := Option.isSome_iff_exists.1 (List.find?_isSome.2 ⟨k, hk, hp⟩)
  rw [hk', hu k' (List.mem_of_find?_eq_some hk') (List.find?_some hk')]

/-- Bytes written at places of their own: each place holds its byte. -/
theorem lastByte_places {f : Nat → Nat} {v : Nat → Nat} {ks : List Nat} (hf : ∀ k ∈ ks, ∀ k' ∈ ks, f k = f k' → k = k')
    (i : Nat) (old : Byte) : lastByte (ks.map fun k => (f k, v k)) i old =
      ((ks.find? fun k => decide (i = f k)).map fun k => BitVec.ofNat 8 (v k)).getD old := by
  induction ks generalizing old with
  | nil => rfl
  | cons k ks ih =>
    have ih := fun o => ih (fun a ha b hb => hf a (by simp [ha]) b (by simp [hb])) o
    rw [List.map_cons, lastByte_cons]
    by_cases hk : i = f k
    · rw [List.find?_cons_of_pos (by simpa using hk), if_pos hk.symm]
      by_cases hm : k ∈ ks
      · rw [ih, find?_eq_of_unique hm (by simpa using hk) fun k' hk' hi =>
          hf k' (by simp [hk']) k (by simp) ((of_decide_eq_true hi).symm.trans hk)]
        rfl
      · refine lastByte_of_not_mem fun w hw hwi => hm ?_
        obtain ⟨k', hk', rfl⟩ := List.mem_map.1 hw
        exact hf k' (by simp [hk']) k (by simp) (hwi.trans hk) ▸ hk'
    · rw [List.find?_cons_of_neg (by simpa using hk), if_neg (Ne.symm hk), ih]

/-- The bytes of a number, from an offset. -/
theorem lastByte_bytesAt (off n v i : Nat) (old : Byte) : lastByte (bytesAt off n v) i old =
    if off ≤ i ∧ i < off + n then BitVec.ofNat 8 (v / 256 ^ (i - off)) else old := by
  rw [bytesAt, lastByte_places fun a _ b _ h => by omega]
  split
  · next hi =>
    rw [find?_eq_of_unique (k := i - off) (List.mem_range.2 (by omega)) (decide_eq_true (by omega)) fun k _ hk => by
      have := of_decide_eq_true hk
      omega]
    exact BitVec.eq_of_toNat_eq (by simp)
  · next hi =>
    rw [List.find?_eq_none.2 fun k hk => ?_]
    · rfl
    · have := List.mem_range.1 hk
      simp only [decide_eq_true_eq]
      omega

/-! ## Element codes -/

/-- A code of 4 bits is delivered for every number. -/
theorem e2m1x_code_lt (neg : Bool) (m : Nat) (e : Int) : (fRound .e2m1x .rn true (.fin neg m e)).code < 16 := by
  have hz : fZeroCode .e2m1x neg = 0 := rfl
  have hs : fSign .e2m1x neg ≤ 8 := by cases neg <;> decide
  have hfb : (ffmt .e2m1x).fb = 1 := rfl
  by_cases hm : m = 0
  · simp [fRound, hm, hz]
  obtain ⟨hn, -⟩ := roundTo_seen (m := m) (e := e) (q := fUlp .e2m1x m e) neg (.inl rfl) fun h26 => by
    have : 26 ≤ Nat.log2 m := (Nat.le_log2 hm).2 h26
    unfold fUlp
    omega
  obtain ⟨hq, -, hlo, hhi⟩ := delivered_range (t := .e2m1x) (y := (m : ℝ) * 2 ^ e) (.inl rfl) hm hn
  have hbias : (ffmt .e2m1x).bias = 1 := rfl
  have hmax : fMax (ffmt .e2m1x) = (3, 1) := rfl
  rw [fRound_fin _ neg m e hm, hfb, hbias, hmax]
  generalize fUlp .e2m1x m e = q at *
  dsimp only
  generalize (roundTo neg m e q).1 = n at *
  have hleast : fLeast .e2m1x = -1 := rfl
  rw [hleast] at hq hlo
  rw [hfb] at hlo hhi
  split
  · simp [hz]
  split
  · cases neg <;> decide
  · next h0 hbig =>
    dsimp only
    by_cases h1 : 1 ≤ q
    · have h3 : n * 2 ^ (q - 1).toNat ≤ 3 := by omega
      have hp : (q - 1).toNat = 0 := by
        by_contra hne
        have : 2 ^ 1 ≤ 2 ^ (q - 1).toNat := Nat.pow_le_pow_right (by omega) (by omega)
        have := Nat.mul_le_mul (show 2 ≤ n by omega) this
        omega
      rw [hp] at h3
      omega
    · omega

/-- Element codes are of 4 bits. -/
theorem encE2m1x_code_lt (n : Nat) (x : Nat → FVal) : ∀ c ∈ (encE2m1x (blockOn x (List.range n))).1, c < 16 := by
  rw [encE2m1x_blockOn rfl]
  intro c hc
  obtain ⟨j, -, rfl⟩ := List.mem_map.1 hc
  unfold codeAt
  split
  · omega
  · next h =>
    cases hx : x j with
    | nan b => simp [hx, fSpecial, fIsNan] at h
    | inf b => simp [hx, fSpecial, fIsInf] at h
    | fin neg m k => exact e2m1x_code_lt ..

/-- Two codes stand in each byte. -/
theorem packNibbles_byte (k : Nat) (cs : List Nat) (h : ∀ c ∈ cs, c < 16) :
    BitVec.ofNat 8 (packNibbles cs / 256 ^ k) = BitVec.ofNat 8 (cs.getD (2 * k) 0 + 16 * cs.getD (2 * k + 1) 0) := by
  induction k generalizing cs with
  | zero =>
    refine BitVec.eq_of_toNat_eq ?_
    match cs with
    | [] => rfl
    | [c] => simp [packNibbles]
    | c :: d :: t =>
      simp only [packNibbles, BitVec.toNat_ofNat, List.getD_cons_zero, List.getD_cons_succ, Nat.mul_zero, pow_zero, Nat.div_one]
      omega
  | succ k ih =>
    match cs with
    | [] => simp [packNibbles]
    | [c] =>
      have hc : c < 256 ^ (k + 1) := lt_of_lt_of_le (h c (by simp)) (by rw [pow_succ]; have := Nat.one_le_pow k 256; omega)
      simp [packNibbles, Nat.div_eq_of_lt hc]
    | c :: d :: t =>
      have hc := h c (by simp)
      have hd := h d (by simp)
      have hpack : packNibbles (c :: d :: t) / 256 ^ (k + 1) = packNibbles t / 256 ^ k := by
        rw [pow_succ', ← Nat.div_div_eq_div_mul]
        congr 1
        simp only [packNibbles]
        omega
      rw [hpack, ih t fun x hx => h x (by simp [hx])]
      rfl

/-! ## Planes -/

/-- A bit of a number set to another. -/
theorem testBit_setBit (o b j : Nat) (c : Bool) :
    (o - o / 2 ^ b % 2 * 2 ^ b + c.toNat * 2 ^ b).testBit j = if j = b then c else o.testBit j := by
  obtain ⟨lo, q, r, hlo, hr, rfl⟩ : ∃ lo q r, lo < 2 ^ b ∧ r < 2 ∧ o = 2 ^ b * (2 * q + r) + lo :=
    ⟨o % 2 ^ b, o / 2 ^ b / 2, o / 2 ^ b % 2, Nat.mod_lt _ (by positivity), by omega, by
      rw [Nat.div_add_mod, Nat.div_add_mod]⟩
  have hbit : (2 ^ b * (2 * q + r) + lo) / 2 ^ b % 2 = r := by
    rw [Nat.mul_add_div (by positivity), Nat.div_eq_of_lt hlo]
    omega
  have hset : 2 ^ b * (2 * q + r) + lo - r * 2 ^ b + c.toNat * 2 ^ b = 2 ^ b * (2 * q + c.toNat) + lo := by
    rw [Nat.mul_add, Nat.mul_add, Nat.mul_comm r, Nat.mul_comm c.toNat]
    omega
  rw [hbit, hset, Nat.testBit_two_pow_mul_add _ hlo, Nat.testBit_two_pow_mul_add _ hlo]
  split
  · next h => rw [if_neg (by omega)]
  · next h =>
    obtain ⟨k, rfl⟩ : ∃ k, j = b + k := ⟨j - b, by omega⟩
    rw [Nat.add_sub_cancel_left]
    cases k with
    | zero => cases c <;> simp [Nat.testBit_zero]
    | succ k =>
      rw [if_neg (by omega), Nat.testBit_succ, Nat.testBit_succ]
      congr 1
      have := c.toNat_lt
      omega

/-- One bit of a byte is set or cleared. -/
theorem ofNat_setBit (old : Byte) (b : Nat) (c : Bool) (hb : b < 8) :
    BitVec.ofNat 8 (old.toNat - old.toNat / 2 ^ b % 2 * 2 ^ b + c.toNat * 2 ^ b) =
      if c then old ||| 1#8 <<< b else old &&& ~~~(1#8 <<< b) := by
  refine BitVec.eq_of_getLsbD_eq fun i hi => ?_
  have hone : (1#8 <<< b).getLsbD i = decide (i = b) := by
    rw [BitVec.getLsbD_shiftLeft, BitVec.getLsbD_one, Bool.eq_iff_iff]
    simp only [hi, decide_true, Bool.true_and, Bool.and_eq_true, Bool.not_eq_true', decide_eq_false_iff_not, decide_eq_true_eq]
    omega
  rw [BitVec.getLsbD_ofNat, testBit_setBit, ← BitVec.getLsbD]
  obtain rfl | h := eq_or_ne i b
  · cases c <;> simp only [Bool.false_eq_true, if_true, if_false, BitVec.getLsbD_or, BitVec.getLsbD_and, BitVec.getLsbD_not,
      hone, hi, decide_true, Bool.and_true, Bool.or_true, Bool.not_true, Bool.and_false]
  · cases c <;> simp only [Bool.false_eq_true, if_true, if_false, BitVec.getLsbD_or, BitVec.getLsbD_and, BitVec.getLsbD_not,
      hone, h, hi, decide_true, decide_false, Bool.and_true, Bool.not_false, Bool.or_false, Bool.true_and]

/-! ## The stores of one element -/

theorem bpSat_eq (n : Nat) (x : Int) : bpSat n x = max (-(2 : Int) ^ (n - 1)) (min (2 ^ (n - 1) - 1) x) := by
  unfold bpSat
  push_cast
  rfl

/-- The planes of an element in a unit: a place of its own in each. -/
theorem planePlace_fst (n p j : Nat) : (planePlace n p j).1 = 128 * n * (j / 1024) + 128 * p + j % 1024 / 8 := rfl

theorem planePlace_lt {n p j : Nat} (hp : p < n) (hj : j < 4096) : (planePlace n p j).1 < 512 * n := by
  rw [planePlace_fst]
  have h3 : 128 * n * (j / 1024) ≤ 128 * n * 3 := Nat.mul_le_mul_left _ (by omega)
  omega

/-- The byte of a unit that holds plane p of element j, with the bit of a new value put in. -/
def bitPlaced (n j : Nat) (bits : BitVec n) (old : Byte) (p : Nat) : Byte :=
  if bits.getLsbD (n - 1 - p) then old ||| 1#8 <<< (j % 8) else old &&& ~~~(1#8 <<< (j % 8))

/-- A store to a BPn page writes one bit in each plane (R55). -/
theorem lastByte_bpStore (n j : Nat) (x : Int) (rd : Nat → Byte) (i : Nat) :
    lastByte (bpStore n (fun i => (rd i).toNat) j x) i (rd i) =
      (((List.range n).find? fun p => decide (i = 128 * n * (j / 1024) + 128 * p + j % 1024 / 8)).map
        (bitPlaced n j (BitVec.ofInt n (bpSat n x)) (rd i))).getD (rd i) := by
  refine (lastByte_places (f := fun p => 128 * n * (j / 1024) + 128 * p + j % 1024 / 8)
    (fun p _ q _ h => by omega) i (rd i)).trans ?_
  cases hp : (List.range n).find? fun p => decide (i = 128 * n * (j / 1024) + 128 * p + j % 1024 / 8) with
  | none => rfl
  | some p =>
    have hi : i = 128 * n * (j / 1024) + 128 * p + j % 1024 / 8 := by simpa using List.find?_some hp
    have hbit : zextI (bpSat n x) n / 2 ^ (n - 1 - p) % 2 = ((BitVec.ofInt n (bpSat n x)).getLsbD (n - 1 - p)).toNat := by
      rw [BitVec.getLsbD, Nat.toNat_testBit, BitVec.toNat_ofInt, zextI]
    rw [Option.map_some, Option.map_some, Option.getD_some, Option.getD_some, hbit, planePlace_fst, ← hi]
    exact ofNat_setBit (rd i) (j % 8) _ (Nat.mod_lt _ (by omega))

theorem unitUsed_bp {fmt geom : Nat} (h : 9 ≤ fmt) : unitUsed fmt geom = 512 * (fmt - 7) := by
  have h3 : fmt ≠ 3 := by omega
  simp [unitUsed, pageIsBp, pageBpN, h, h3]

/-- An element store of a BPn page. -/
theorem encodeOne_bp {s : State} {asid key fmt geom : Nat} {x : FVal × Int} (h9 : 9 ≤ fmt) (h15 : fmt ≤ 15)
    (hf : ∀ a, a / 4096 = key / 4096 → Fresh s a) :
    let u := key / 4096 * 4096
    let s' := encodeOne s asid key fmt geom x
    SameButBank s s' ∧ ∀ a, memGet s'.mem a =
      if a < u ∨ u + 4096 ≤ a then memGet s.mem a else if u + 512 * (fmt - 7) ≤ a then 0
      else (((List.range (fmt - 7)).find? fun p =>
          decide (a - u = 128 * (fmt - 7) * (key % 4096 / 1024) + 128 * p + key % 4096 % 1024 / 8)).map
        (bitPlaced (fmt - 7) (key % 4096) (BitVec.ofInt (fmt - 7) (bpSat (fmt - 7) x.2)) (memGet s.mem a))).getD
          (memGet s.mem a) := by
  have hj : key - unitBase key = key % 4096 := by rw [unitBase]; omega
  have hbp : pageIsBp fmt = true := by simp [pageIsBp, h9]
  intro u s'
  obtain ⟨h1, h2⟩ := storeUnit_spec s asid u fmt geom
    (bpStore (fmt - 7) (fun i => (memGet s.mem (u + i)).toNat) (key % 4096) x.2) (Nat.mul_mod_left _ _)
    (fun a ha => hf a (by omega)) (by rw [unitUsed_bp h9]; omega) fun b hb => by
      obtain ⟨p, hp, rfl⟩ := List.mem_map.1 hb
      rw [unitUsed_bp h9]
      exact planePlace_lt (List.mem_range.1 hp) (Nat.mod_lt _ (by omega))
  have hs' : s' = storeUnit s asid u fmt geom
      (bpStore (fmt - 7) (fun i => (memGet s.mem (u + i)).toNat) (key % 4096) x.2) := by
    simp only [s', encodeOne, hbp, if_true, hj]
    rfl
  rw [hs']
  refine ⟨h1, fun a => (h2 a).trans ?_⟩
  rw [unitUsed_bp h9]
  by_cases ha : a < u ∨ u + 4096 ≤ a
  · rw [if_pos ha, if_pos ha]
  · have hback : memGet s.mem a = memGet s.mem (u + (a - u)) := by rw [show u + (a - u) = a by omega]
    rw [if_neg ha, if_neg ha, hback, lastByte_bpStore (rd := fun i => memGet s.mem (u + i)), ← hback]

/-- An element store of an FP8 page: its byte (R47). -/
theorem encodeOne_byte {s : State} {asid key fmt : Nat} {x : FVal × Int} (hfmt : fmt = 1 ∨ fmt = 2) (hf : Fresh s key) :
    let s' := encodeOne s asid key fmt 0 x
    SameButBank s s' ∧ Puts s s' key 1 (fRound (pageByteTy fmt) .rn true x.1).code := by
  have hbp : pageIsBp fmt = false := by rcases hfmt with rfl | rfl <;> rfl
  have h3 : (fmt == 3) = false := by rcases hfmt with rfl | rfl <;> rfl
  have hu : unitUsed fmt 0 = 4096 := by simp [unitUsed, hbp]
  have hs' : encodeOne s asid key fmt 0 x = bankBytes s asid [(key, (fRound (pageByteTy fmt) .rn true x.1).code)] := by
    have hres : (s.mem.map (·.1)).filter (fun a => decide (unitBase key + 4096 ≤ a) && decide (a < unitBase key + 4096)) = [] :=
      List.filter_eq_nil_iff.2 fun a _ => by simp
    have hback : unitBase key + (key - unitBase key) = key := by rw [unitBase]; omega
    simp only [encodeOne, pageFloatStore, storeUnit, hbp, h3, hu, hres, Bool.false_eq_true, if_false, List.map_cons,
      List.map_nil, List.append_nil, hback]
  have hline : Fresh s (64 * (key / 64)) := by
    have hl : 64 * (key / 64) / 64 = key / 64 := by omega
    unfold Fresh at hf ⊢
    rwa [hl, keyClass2_page (k' := key) rfl (by omega)]
  rw [hs']
  obtain ⟨h1, h2⟩ := bankBytes_spec s asid [(key, (fRound (pageByteTy fmt) .rn true x.1).code)] fun w hw => by
    obtain rfl := List.mem_singleton.1 hw
    exact hline
  refine ⟨h1, fun a => (h2 a).trans ?_⟩
  rw [lastByte_cons]
  show (if key = a then _ else _) = _
  by_cases ha : key = a
  · rw [if_pos ha, if_pos (by omega), ha, Nat.sub_self, pow_zero, Nat.div_one]
  · rw [if_neg ha, if_neg (by omega)]

/-- The elements of a block in which one has a new value. -/
def blockWith (geom : Nat) (rd : Nat → Nat) (j : Nat) (x : FVal) (k : Nat) : FVal :=
  if k = j % blockLen geom then x else (blockElem geom rd (j / blockLen geom) k).1

/-- The byte of a unit that a block's encoding writes: its codes two to a byte, then its metadata word (R49). -/
def blockByte (geom b : Nat) (r : List Nat × Nat) (i : Nat) : Option Byte :=
  if 16 * b ≤ i ∧ i < 16 * b + blockLen geom / 2 then
    some (BitVec.ofNat 8 (r.1.getD (2 * (i - 16 * b)) 0 + 16 * r.1.getD (2 * (i - 16 * b) + 1) 0))
  else if blockMeta geom b ≤ i ∧ i < blockMeta geom b + 8 then some (BitVec.ofNat 8 (r.2 / 256 ^ (i - blockMeta geom b)))
  else none

theorem blockMeta_eq (geom b : Nat) : blockMeta geom b = if geom = 0 then 16 * b + 8 else 2048 + 8 * b := by
  by_cases h : geom = 0 <;> simp [blockMeta, h]

theorem blockLen_eq (geom : Nat) : blockLen geom = if geom = 0 then 16 else 32 := by
  by_cases h : geom = 0 <;> simp [blockLen, h]

/-- The bytes of a block's encoding, codes first. -/
theorem lastByte_block {geom b : Nat} {y : Nat → FVal} (hb : b < if geom = 0 then 256 else 128) (i : Nat) (old : Byte) :
    let r := encE2m1x (blockOn y (List.range (blockLen geom)))
    lastByte (bytesAt (blockCodes b) (blockLen geom / 2) (packNibbles r.1) ++ bytesAt (blockMeta geom b) 8 r.2) i old =
      (blockByte geom b r i).getD old := by
  intro r
  have hapart : 16 * b + blockLen geom / 2 ≤ blockMeta geom b := by
    rw [blockMeta_eq, blockLen_eq] at *
    split_ifs at * <;> omega
  rw [lastByte_append, lastByte_bytesAt, lastByte_bytesAt, blockCodes, blockByte, packNibbles_byte _ _ (encE2m1x_code_lt _ y)]
  by_cases hc : 16 * b ≤ i ∧ i < 16 * b + blockLen geom / 2
  · rw [if_neg (by omega), if_pos hc, if_pos hc]
    rfl
  · rw [if_neg hc, if_neg hc]
    split <;> rfl

/-- The bytes of an element's block with a new value in it. -/
def blockBytes (geom : Nat) (rd : Nat → Nat) (j : Nat) (x : FVal) : List (Nat × Nat) :=
  let r := encE2m1x (blockOn (blockWith geom rd j x) (List.range (blockLen geom)))
  bytesAt (blockCodes (j / blockLen geom)) (blockLen geom / 2) (packNibbles r.1) ++
    bytesAt (blockMeta geom (j / blockLen geom)) 8 r.2

/-- The re-encoding of a block with one element store in it. -/
theorem encodeBlock_eq (s : State) (asid key geom : Nat) (x : FVal) :
    encodeBlock s asid geom ((blockOf key geom).1, (blockOf key geom).2.1) [(key, x)] =
      storeUnit s asid (unitBase key) 3 geom
        (blockBytes geom (fun i => (memGet s.mem (unitBase key + i)).toNat) (key - unitBase key) x) := by
  have hnew : ∀ k, (([(key, x)].reverse.find? fun y => (blockOf y.1 geom).1 == unitBase key &&
      (blockOf y.1 geom).2 == ((key - unitBase key) / blockLen geom, k)).map (·.2)) =
      if k = (key - unitBase key) % blockLen geom then some x else none := fun k => by
    by_cases hk : k = (key - unitBase key) % blockLen geom
    · simp [blockOf, hk]
    · simp [blockOf, hk, Ne.symm hk]
  have helem : ∀ rd k, ((if k = (key - unitBase key) % blockLen geom then some x else none).getD
      (blockElem geom rd ((key - unitBase key) / blockLen geom) k).1) =
      blockWith geom rd (key - unitBase key) x k := fun rd k => by
    unfold blockWith
    split <;> rfl
  simp only [blockOf] at hnew
  simp only [encodeBlock, blockBytes, blockOf, hnew, blockStore, helem, blockOn]

theorem mem_bytesAt {off n v : Nat} {w : Nat × Nat} (h : w ∈ bytesAt off n v) : w.1 < off + n := by
  obtain ⟨k, hk, rfl⟩ := List.mem_map.1 h
  have := List.mem_range.1 hk
  dsimp only
  omega

theorem unitUsed_e2m1x {geom : Nat} (hg : geom ≤ 1) : unitUsed 3 geom = if geom = 0 then 4096 else 3072 := by
  interval_cases geom <;> rfl

/-- An element store of an E2M1X page re-encodes the element's block (R51). -/
theorem encodeBlock_element {s : State} {asid key geom : Nat} {x : FVal} (hg : geom ≤ 1)
    (hf : ∀ a, a / 4096 = key / 4096 → Fresh s a) :
    let u := key / 4096 * 4096
    let j := key % 4096
    let rd := fun i => (memGet s.mem (u + i)).toNat
    let s' := encodeBlock s asid geom ((blockOf key geom).1, (blockOf key geom).2.1) [(key, x)]
    SameButBank s s' ∧ ∀ a, memGet s'.mem a =
      if a < u ∨ u + 4096 ≤ a then memGet s.mem a else if u + unitUsed 3 geom ≤ a then 0
      else (blockByte geom (j / blockLen geom) (encE2m1x (blockOn (blockWith geom rd j x) (List.range (blockLen geom))))
        (a - u)).getD (memGet s.mem a) := by
  intro u j rd s'
  have hj : key - unitBase key = j := by simp only [unitBase, j]; omega
  have hjlt : j < 4096 := Nat.mod_lt _ (by omega)
  have hlen := blockLen_eq geom
  have hb : j / blockLen geom < if geom = 0 then 256 else 128 := by
    rw [hlen]
    split_ifs <;> omega
  have hs' : s' = storeUnit s asid u 3 geom (blockBytes geom rd j x) := by
    rw [← hj]
    exact encodeBlock_eq ..
  have hmeta := blockMeta_eq geom (j / blockLen geom)
  obtain ⟨h1, h2⟩ := storeUnit_spec s asid u 3 geom (blockBytes geom rd j x) (Nat.mul_mod_left _ _) (fun a ha => hf a (by omega))
    (by rw [unitUsed_e2m1x hg]; split_ifs <;> omega) fun w hw => by
      rw [unitUsed_e2m1x hg]
      rcases List.mem_append.1 hw with hw | hw <;> have hw := mem_bytesAt hw
      · rw [blockCodes] at hw
        split_ifs at * <;> omega
      · split_ifs at * <;> omega
  rw [hs']
  refine ⟨h1, fun a => (h2 a).trans ?_⟩
  rw [blockBytes, lastByte_block hb]

/-! ## The bank's step -/

section
variable {s : State} {gid : Nat} {e : Env} {op : LongOp} {rest : List LongOp} {l key fmt geom : Nat} {ty : Ty} {wid : Wid}
  {v : Word}

/-- The bank performs the element store that its group issued first: only the bank's parts change, and its bytes are `M`. -/
theorem bankStoreEncode_bytes {M : Nat → Byte} (he : env s gid = some e) (hq : queueOf e.group = op :: rest)
    (hp : op.parts = [.encode l key fmt geom ty wid v]) (hpo : s.poison = []) (hun : Undue e op)
    (hb : SameButBank s (performEncodes s e.ctx.asid op.parts))
    (hM : ∀ a, memGet (performEncodes s e.ctx.asid op.parts).mem a = M a) :
    ∃ s', exec (.bankStoreEncode gid op.id) s = .next s' ∧
      s' = { s with groups := s'.groups, contexts := s'.contexts, mem := s'.mem, versions := s'.versions,
                    cmnTags := s'.cmnTags, written := s'.written } ∧
      Framed s s' ∧ (∀ g k, getLane s' g k = getLane s g k) ∧ ∀ a, memGet s'.mem a = M a := by
  obtain ⟨hs, hfr, hla⟩ := bankStoreEncode_keeps he hun hb
  refine ⟨_, exec_bankStoreEncode he hq hp hpo, hs.trans ?_, hfr, hla, hM⟩
  rw [← hb.contexts]
  rfl

end

end Sys2Proof.Machine
end

section
/-!
THE ISSUE OF ONE LANE'S ACCESS (R67, R68, R90, R339): an instruction that translates, in an execution in which one lane acts; the
operation that it issues.
-/

namespace Sys2Proof.Machine

/-! ## A plan that goes on -/

/-- The state in which the lanes whose guard is not true have gone on, and lane `l` with thread `t1`. -/
def wentOn (s : State) (c : Cur) (g : Guard) (l : Nat) (t1 : Thread) : State :=
  modLane (idled s c g) c.gid l fun _ => advance c t1

theorem dropWalkFaults_nil (s : State) (die asid : Nat) : dropWalkFaults s die asid [] = s := by
  have hid : (fun d : Die => { d with wfaults := d.wfaults.filter fun w =>
      !(w.1 == asid && [].contains w.2.1 && !waitsWalk s die asid w.2.1) }) = id := by
    funext d
    simp
  unfold dropWalkFaults modDie
  rw [hid, List.modify_id]

section
variable {s : State} {c : Cur} {e : Env} {g : Guard} {us : List RegUse} {l : Nat} {t t0 : Thread} {rd : Nat → Word}

/-- The one lane's plan goes on: it stands behind its word, and its data are committed. -/
theorem Lone.plansAt_go (h : Lone s c e g us l t t0 rd) {α : Type} {plan : State → Nat → (Nat → Word) → Thread → Plan α}
    {commit : List (Nat × α) → State → State} {a : α} (hp : plan s l rd t0 = .go t0 a) :
    plansAt s c e g anywhere us plan commit = countEvent (commit [(l, a)] (wentOn s c g l t0)) e.ctx.asid 0 1 := by
  have hplan : planLane s e (execRec s c e g) us l (plan s) = .go t0 a := by
    obtain ⟨ov, ho, rfl⟩ := h.taken
    rw [planLane, env_gid s c.gid e h.env, h.lane]
    simp only [ho, hp]
  have hidle := idle_fold s c (c.lanes.filter fun k => !([l].contains k)) (h.nodup.filter _)
  unfold plansAt
  rw [if_neg (by simp [anywhere, h.pairs])]
  simp only [h.still, h.only, List.map_cons, List.map_nil, hplan, List.flatMap_cons, List.flatMap_nil, planMisses,
    List.append_nil]
  simp only [finishPlans, hidle, List.foldl_cons, List.foldl_nil, placeLane, goers, faulters, backers, besideParked,
    List.filterMap_cons, List.filterMap_nil, List.isEmpty_nil, if_true, raise_nil, List.map_nil, dropWalkFaults_nil,
    List.length_cons, List.length_nil, Nat.zero_add]
  rw [wentOn, idled, idleLanes, h.only]

theorem onlyThreads_wentOn (s : State) (c : Cur) (g : Guard) (l : Nat) (t1 : Thread) : OnlyThreads s (wentOn s c g l t1) :=
  onlyThreads_idled_modLane ..

theorem Lone.becomes_wentOn (h : Lone s c e g us l t t0 rd) {t1 : Thread} (ht : t1.lane = l) :
    LaneBecomes s (wentOn s c g l t1) c l (goOn c.next t1) := by
  have hb := h.becomes t1 ht (modLane (idled s c g) c.gid l fun _ => t1) rfl 1
  rw [modLane_modLane _ _ _ _ _ fun _ _ => ht] at hb
  exact hb

/-- The group in which lanes have gone on: its operations and flags are as they were. -/
theorem Lone.getGroup_wentOn (h : Lone s c e g us l t t0 rd) (t1 : Thread) : ∃ g1, getGroup (wentOn s c g l t1) c.gid = some g1 ∧
    g1.ops = e.group.ops ∧ g1.flags = e.group.flags := by
  refine ⟨groupLane (onLanes (idleLanes s c g) (fun _ => advance c) e.group) l fun _ => advance c t1, ?_, rfl, rfl⟩
  · rw [wentOn, getGroup_modLane, if_pos rfl, idled, modLanes,
      getGroup_modGroup s c.gid c.gid (onLanes (idleLanes s c g) fun _ => advance c) (fun _ => rfl), if_pos rfl,
      env_group s c.gid e h.env]
    rfl

end

/-! ## The operation issued -/

/-- A group that has issued an operation. -/
def issuedIn (op : LongOp) (g : Group) : Group :=
  { stepFlag { g with ops := g.ops ++ [op] } op.flag true with
    threads := g.threads.map fun t =>
      { t with reads := t.reads + (op.parts.filter fun p => partLane p == t.lane && partReads p).length } }

/-- A thread that goes on counts one more read, or none, as one that counts it and goes on. -/
theorem goOn_reads (next n : Nat) (t : Thread) :
    { goOn next t with reads := (goOn next t).reads + n } = goOn next (awaits t (t.reads + n) t.poison) := by
  have hend : blockEnd (awaits t (t.reads + n) t.poison) = blockEnd t := rfl
  unfold goOn
  rw [hend]
  split <;> rfl

theorem laneThread_issuedIn (op : LongOp) (g : Group) (k : Nat) : laneThread (issuedIn op g) k =
    (laneThread g k).map fun t =>
      { t with reads := t.reads + (op.parts.filter fun p => partLane p == t.lane && partReads p).length } := by
  rw [laneThread, laneThread, issuedIn, List.find?_map]
  rfl

theorem flagCount_issuedIn (op : LongOp) (g : Group) (n : Nat) :
    flagCount (issuedIn op g) n = flagCount g n + if op.flag = some n then 1 else 0 := by
  have hf : flagCount (issuedIn op g) n = flagCount (stepFlag { g with ops := g.ops ++ [op] } op.flag true) n := rfl
  rw [hf]
  cases op.flag with
  | none => rfl
  | some k =>
    rw [flagCount, stepFlag, tget_tput]
    by_cases hk : k = n
    · subst hk
      simp [flagCount]
    · simp [hk, flagCount]

theorem groupFrame_issuedIn (op : LongOp) (g : Group) : groupFrame (issuedIn op g) = groupFrame g := by
  cases hf : op.flag <;> simp [issuedIn, stepFlag, groupFrame, hf]

theorem issuedIn_gid (op : LongOp) (g : Group) : (issuedIn op g).gid = g.gid := by
  cases hf : op.flag <;> simp [issuedIn, stepFlag, hf]

theorem issuedIn_ops (op : LongOp) (g : Group) : (issuedIn op g).ops = g.ops ++ [op] := by
  cases hf : op.flag <;> simp [issuedIn, stepFlag, hf]

theorem issueOp_eq (s : State) (c : Cur) (e : Env) (x : ExecRec) (flag : Option Nat) (queued acquire : Bool) (p : Part) :
    ∃ op : LongOp, op.flag = flag ∧ op.parts = [p] ∧ issueOp s c e x flag queued acquire [p] =
      countEvent (modGroup { s with nextId := s.nextId + 1 } c.gid (issuedIn op)) e.ctx.asid 1 1 := by
  refine ⟨{ id := s.nextId, flag := flag, queued := queued, performed := !queued, acquire := acquire, exec := x, parts := [p] },
    rfl, rfl, ?_⟩
  rw [issueOp, if_neg (by simp)]
  dsimp only
  congr 2
  funext g
  cases flag <;> rfl

theorem onlyThreads_modGroup (s : State) (gid : Nat) (f : Group → Group) (hf : ∀ g, groupFrame (f g) = groupFrame g) :
    OnlyThreads s (modGroup s gid f) := by
  have hk : ∀ g, (f g).gid = g.gid := fun g => (congrArg Group.gid (hf g) :)
  refine ⟨rfl, fun j => ?_, fun _ => rfl⟩
  rw [getGroup_modGroup s gid j f hk]
  split
  · cases getGroup s j <;> simp [hf]
  · rfl

section
variable {s : State} {c : Cur} {e : Env} {g : Guard} {us : List RegUse} {l : Nat} {t t0 : Thread} {rd : Nat → Word}

/-- The one lane's part is issued, in a state that has its groups once it has gone on. -/
theorem Lone.issues (h : Lone s c e g us l t t0 rd) {s1 : State} (hs : OnlyThreads s s1)
    (hg : s1.groups = (wentOn s c g l t0).groups) (x : ExecRec) (flag : Option Nat) (queued acquire : Bool) {p : Part}
    (hp : partLane p = l) :
    let s' := countEvent (issueOp s1 c e x flag queued acquire [p]) e.ctx.asid 0 1
    OnlyThreads s s' ∧ LaneBecomes s s' c l (goOn c.next (awaits t0 (t0.reads + (partReads p).toNat) t0.poison)) ∧
      ∃ op, Issued s s' c.gid flag op ∧ op.parts = [p] := by
  obtain ⟨op, hflag, hparts, hissue⟩ := issueOp_eq s1 c e x flag queued acquire p
  obtain ⟨g1, hg1, hops, hflags⟩ := h.getGroup_wentOn t0
  have hg1 : getGroup s1 c.gid = some g1 := by rw [getGroup, hg]; exact hg1
  intro s'
  have hgroup : ∀ gid, getGroup s' gid =
      if c.gid = gid then (getGroup s1 gid).map (issuedIn op) else getGroup s1 gid := fun gid => by
    show getGroup (countEvent (issueOp s1 c e x flag queued acquire [p]) e.ctx.asid 0 1) gid = _
    rw [hissue]
    exact getGroup_modGroup { s1 with nextId := s1.nextId + 1 } c.gid gid (issuedIn op) (issuedIn_gid op)
  have hlane : ∀ gid k, getLane s' gid k = if c.gid = gid ∧ l = k then
      (getLane s1 gid k).map fun t => { t with reads := t.reads + (partReads p).toNat } else getLane s1 gid k := fun gid k => by
    rw [getLane, getLane, hgroup]
    by_cases hgid : c.gid = gid
    · subst hgid
      rw [if_pos rfl, hg1, Option.map_some, Option.bind_some, Option.bind_some, laneThread_issuedIn, hparts]
      cases ht : laneThread g1 k with
      | none => simp
      | some u =>
        have hu : u.lane = k := by simpa using List.find?_some ht
        have hlen : ([p].filter fun q => partLane q == u.lane && partReads q).length =
            if l = k then (partReads p).toNat else 0 := by
          by_cases hk : l = k <;> cases hr : partReads p <;> simp [hp, hu, hk, hr]
        rw [Option.map_some, hlen]
        by_cases hk : l = k
        · rw [if_pos hk, if_pos ⟨rfl, hk⟩, Option.map_some]
        · rw [if_neg hk, if_neg fun hc => hk hc.2]
          rfl
    · simp [hgid]
  obtain ⟨hb1, hb2⟩ := h.becomes_wentOn h.taken_lane
  rw [← getLane_groups _ s1 hg] at hb1
  refine ⟨hs.trans ?_, ⟨?_, fun gid k hk => ?_⟩, op,
    ⟨hflag, e.group, issuedIn op g1, env_group s c.gid e h.env, ?_, ?_, fun n => ?_⟩, hparts⟩
  · show OnlyThreads s1 (countEvent (issueOp s1 c e x flag queued acquire [p]) e.ctx.asid 0 1)
    rw [hissue]
    have hid : OnlyThreads s1 { s1 with nextId := s1.nextId + 1 } := ⟨rfl, fun _ => rfl, fun _ => rfl⟩
    exact ((hid.trans (onlyThreads_modGroup _ c.gid _ (groupFrame_issuedIn op))).trans (onlyThreads_countEvent ..)).trans
      (onlyThreads_countEvent ..)
  · rw [hlane, if_pos ⟨rfl, rfl⟩, hb1, Option.map_some]
    exact congrArg some (goOn_reads ..)
  · rw [hlane, if_neg fun hc => hk ⟨hc.1.symm, hc.2.symm⟩, getLane_groups _ s1 hg, hb2 gid k hk]
  · rw [hgroup, if_pos rfl, hg1]
    rfl
  · rw [issuedIn_ops, hops]
  · rw [flagCount_issuedIn, hflag, flagCount, flagCount, hflags]

end

/-! ## What stands around an access -/

theorem onlyThreads_touchFrame (s : State) (die key : Nat) : OnlyThreads s (touchFrame s die key) := by
  unfold touchFrame
  split
  · dsimp only
    split
    · refine onlyThreads_modCtx s _ _ fun x => ?_
      simp only [ctxFrame, modBy, List.map_map]
      congr 1
      refine List.map_congr_left fun f _ => ?_
      simp only [Function.comp]
      split <;> rfl
    · exact ⟨rfl, fun _ => rfl, fun _ => rfl⟩
  · exact ⟨rfl, fun _ => rfl, fun _ => rfl⟩

theorem touchFrame_groups (s : State) (die key : Nat) : (touchFrame s die key).groups = s.groups := by
  unfold touchFrame
  split
  · dsimp only
    split <;> rfl
  · rfl

/-- A load of bytes that no store of the group's own waits to write. -/
theorem settleLoads_unqueued {s : State} {gid : Nat} {g : Group} {rs : List (Nat × Nat)} (asid : Nat)
    (hg : getGroup s gid = some g) (h : ∀ r ∈ rs, ∀ o ∈ queueOf g, ∀ p ∈ o.parts, partHits r.1 r.2 p = false) :
    settleLoads s asid gid rs = s := by
  unfold settleLoads
  rw [hg]
  dsimp only
  rw [if_neg]
  simp only [List.any_eq_true, not_exists, not_and, Bool.not_eq_true]
  exact fun o ho p hp r hr => h r hr o ho p hp

/-- A group with nothing outstanding releases as it is. -/
theorem releaseGroup_performed {s : State} {gid : Nat} {g : Group} (asid : Nat) (hg : getGroup s gid = some g)
    (hq : queueOf g = []) (hc : copiesOf s gid = []) : releaseGroup s asid gid = s := by
  have hd : drainGroup s asid gid = s := by
    simp only [drainGroup, hg, hq]
    rfl
  rw [releaseGroup, hd]
  simp only [hc]
  rfl

theorem pairOf_toNat (rd : Nat → Word) (a : Reg) : pairOf rd a.toNat = (pair64 rd a).toNat := by
  have hlo := (rd a.toNat).isLt
  have hhi := (rd (a.toNat + 1)).isLt
  rw [← pairOf_eq_pair64, BitVec.toNat_ofNat, Nat.mod_eq_of_lt]
  unfold pairOf
  omega

/-- An access to an element of a formatted GLB page goes on. -/
theorem planMem_element {s : State} {e : Env} {m : MemOp} {k : AccKind} {l : Nat} {rd : Nat → Word} {t : Thread}
    {data key fmt geom mt : Nat} {tbl : Bool} (hacq : acquiring e.group l = false) (h0 : 0 ≤ accessAt .glb rd m.a m.off)
    (hlim : accessAt .glb rd m.a m.off + widBytes m.wid ≤ 2 ^ 48)
    (hloc : locate s e l .glb k (accessAt .glb rd m.a m.off).toNat (widBytes m.wid) = .ok key fmt geom tbl mt)
    (hres : formatReserved fmt geom = false) (hfmt : fmt ≠ 0) (hraw : m.raw = false)
    (hty : elemAllowed fmt m.ty m.wid = true) :
    planMem s e .glb m k l rd t data =
      .go t ⟨(accessAt .glb rd m.a m.off).toNat, key, fmt, geom, tbl, mt, true, data, 0⟩ := by
  have hea : effAddr .glb rd m.a m.off.toInt = accessAt .glb rd m.a m.off := by
    simp [effAddr, accessAt, spacePair, pairOf_toNat]
  have hin : beyond (spaceLimit s e .glb) (accessAt .glb rd m.a m.off) (widBytes m.wid) = false := by
    have hl : spaceLimit s e .glb = 2 ^ 48 := rfl
    rw [beyond, hl, Bool.or_eq_false_iff, decide_eq_false_iff_not, decide_eq_false_iff_not]
    push_cast
    omega
  simp [planMem, hea, hacq, hin, hloc, onXlat, hres, hfmt, hraw, hty]

section
variable {s : State} {c : Cur} {e : Env} {g : Guard} {m : MemOp} {l : Nat} {t t0 : Thread} {rd : Nat → Word}

/-- A load of one lane is issued with the value that stands in memory (R67, R68, R158). -/
theorem Lone.load_issues (h : Lone s c e g (memUses false .glb m) l t t0 rd)
    (hflag : flagFull e.group (curFlag e.group c m.ss) = false) {a : Acc} (hplan : planMem s e .glb m .read l rd t0 0 = .go t0 a)
    (hmt : a.mt = 0) (hat : ∀ p ∈ accRanges m a, Clean s p.1 p.2 ∧ Unqueued e p.1 p.2) :
    ∃ s' op, exec (.ldg g m) s = .next s' ∧ OnlyThreads s s' ∧
      LaneBecomes s s' c l (goOn c.next (awaits t0 (t0.reads + 1) t0.poison)) ∧
      Issued s s' c.gid (curFlag e.group c m.ss) op ∧ op.parts = [.load l (loadValue s m a).1 (loadValue s m a).2] := by
  obtain ⟨g1, hg1, hops, -⟩ := h.getGroup_wentOn t0
  have hq : queueOf g1 = queueOf e.group := by rw [queueOf, queueOf, hops]
  have hbefore : beforeLoads (wentOn s c g l t0) e.ctx.asid c.gid m [(l, a)] = wentOn s c g l t0 := by
    have hranges : [(l, a)].flatMap (fun x => accRanges m x.2) = accRanges m a := by simp
    have hcached : ([(l, a)].any fun x => uncached x.2) = false := by simp [uncached, hmt]
    unfold beforeLoads
    dsimp only
    rw [hranges, hcached, if_neg Bool.false_ne_true,
      settleLoads_unqueued _ hg1 fun r hr o ho p hp => (hat r hr).2 o (hq ▸ ho) p hp]
    refine meetUpsets_none fun u hu => ?_
    rw [upsetIn, List.any_eq_false]
    intro r hr hin
    have := (hat r hr).1.1 u hu
    simp_all [upsetIn]
  have hs1 : OnlyThreads s (touchFrame (wentOn s c g l t0) e.group.die a.key) :=
    (onlyThreads_wentOn ..).trans (onlyThreads_touchFrame ..)
  have hg := touchFrame_groups (wentOn s c g l t0) e.group.die a.key
  have hload : loadLanes c.gid c.pc (execRec s c e g) m [(l, a)] (touchFrame (wentOn s c g l t0) e.group.die a.key) =
      (touchFrame (wentOn s c g l t0) e.group.die a.key, [(l, loadValue s m a)]) := by
    generalize touchFrame (wentOn s c g l t0) e.group.die a.key = s1 at hs1
    obtain ⟨hs1, -⟩ := hs1
    have hpo : ((accRanges m a).any fun k => poisoned s1 k.1 k.2) = false := by
      rw [List.any_eq_false]
      intro r hr
      have := (hat r hr).1.2
      rw [hs1]
      simpa [poisoned] using this
    have hv : loadValue s1 m a = loadValue s m a := by rw [hs1]; rfl
    simp only [loadLanes, List.foldl_cons, List.foldl_nil, loadLane, hpo, hv]
    rfl
  obtain ⟨h1, h2, op, h3, h4⟩ := h.issues hs1 hg (execRec s c e g) (curFlag e.group c m.ss) false (m.ord == .acq)
    (p := .load l (loadValue s m a).1 (loadValue s m a).2) rfl
  refine ⟨_, op, ?_, h1, h2, h3, h4⟩
  show execLdg g m s = _
  unfold execLdg loadOp longOp withCur
  simp only [h.cur, h.env, hflag, Bool.false_eq_true, if_false]
  rw [h.plansAt_go hplan, hbefore]
  have htouch : touchAccs (wentOn s c g l t0) e.group.die [(l, a)] = touchFrame (wentOn s c g l t0) e.group.die a.key := rfl
  rw [htouch, hload]
  rfl

/-- A store of one lane is issued into its group's store queue (R153, R154). -/
theorem Lone.store_issues (h : Lone s c e g (memUses true .glb m) l t t0 rd)
    (hflag : flagFull e.group (curFlag e.group c m.ss) = false) {a : Acc}
    (hplan : planMem s e .glb m .write l rd t0 (storeData m rd) = .go t0 a) (hrel : m.ord = .rel → AllPerformed s e) :
    ∃ s' op, exec (.stg g m) s = .next s' ∧ OnlyThreads s s' ∧ LaneBecomes s s' c l (goOn c.next t0) ∧
      Issued s s' c.gid (curFlag e.group c m.ss) op ∧ op.parts = [storePart m l a] := by
  obtain ⟨g1, hg1, hops, -⟩ := h.getGroup_wentOn t0
  have hq : queueOf g1 = queueOf e.group := by rw [queueOf, queueOf, hops]
  have hrelease : (if m.ord == .rel then releaseGroup (wentOn s c g l t0) e.ctx.asid c.gid else wentOn s c g l t0) =
      wentOn s c g l t0 := by
    split
    · next hr =>
      obtain ⟨hqe, hce⟩ := hrel (by simpa using hr)
      rw [env_gid s c.gid e h.env] at hce
      exact releaseGroup_performed _ hg1 (hq.trans hqe) hce
    · rfl
  have hs1 : OnlyThreads s (touchFrame (wentOn s c g l t0) e.group.die a.key) :=
    (onlyThreads_wentOn ..).trans (onlyThreads_touchFrame ..)
  have hp : partLane (storePart m l a) = l := by
    unfold storePart
    split <;> rfl
  have hreads : partReads (storePart m l a) = false := by
    unfold storePart
    split <;> rfl
  obtain ⟨h1, h2, op, h3, h4⟩ := h.issues hs1 (touchFrame_groups ..) (execRec s c e g) (curFlag e.group c m.ss) true false hp
  rw [hreads] at h2
  refine ⟨_, op, ?_, h1, h2, h3, h4⟩
  show execStg g m s = _
  unfold execStg storeOp longOp withCur
  simp only [h.cur, h.env, hflag, Bool.false_eq_true, if_false]
  rw [h.plansAt_go hplan]
  rw [hrelease]
  rfl

end

end Sys2Proof.Machine
end

section
/-!
FORMATTED PAGES (R46, R47, R52, R158): what loads of elements deliver and what stores of elements name, and obligation O19.
-/

namespace Sys2Proof.Machine

/-! ## The bits of a BPn element -/

theorem toInt_eq_sextN {w n : Nat} (v : BitVec w) (h : w = n) : v.toInt = sextN v.toNat n := by
  subst h
  rw [BitVec.toInt_eq_toNat_cond, sextN, Nat.mod_eq_of_lt v.isLt]
  by_cases hv : 2 * v.toNat < 2 ^ w
  · rw [if_pos hv, if_neg (by omega)]
  · rw [if_neg hv, if_pos (by omega)]

/-- The number that bits stand for, the first of them the highest. -/
theorem toNat_ofBoolListBE (f : Nat → Bool) (k a : Nat) : (BitVec.ofBoolListBE ((List.range' a k).map f)).toNat =
    ((List.range' a k).map fun p => (f p).toNat * 2 ^ (a + k - 1 - p)).sum := by
  induction k generalizing a with
  | zero => rfl
  | succ k ih =>
    have hk : a + (k + 1) - 1 - a = k := by omega
    have hrest : (List.range' (a + 1) k).map (fun p => (f p).toNat * 2 ^ (a + (k + 1) - 1 - p)) =
        (List.range' (a + 1) k).map fun p => (f p).toNat * 2 ^ (a + 1 + k - 1 - p) :=
      List.map_congr_left fun p _ => by rw [show a + (k + 1) = a + 1 + k by omega]
    have hlen : (f a).toNat * 2 ^ ((List.range' (a + 1) k).map f).length = (f a).toNat * 2 ^ k := by simp
    rw [List.range'_succ, List.map_cons, List.map_cons, List.sum_cons, hk, hrest, ← ih (a + 1), BitVec.ofBoolListBE,
      BitVec.toNat_cons', Nat.shiftLeft_eq, hlen]

/-- A BPn element is the number that its planes' bits stand for (R53). -/
theorem bpElem_eq (n u j : Nat) (rd : Nat → Byte) :
    bpElem n n true (fun i => (rd (u + i)).toNat) j =
      (BitVec.ofBoolListBE ((List.range n).map fun p =>
        (rd (u + 128 * n * (j / 1024) + 128 * p + j % 1024 / 8)).getLsbD (j % 8))).toInt := by
  have hbit : ∀ p, (rd (u + (planePlace n p j).1)).toNat / 2 ^ (planePlace n p j).2 % 2 =
      ((rd (u + 128 * n * (j / 1024) + 128 * p + j % 1024 / 8)).getLsbD (j % 8)).toNat := fun p => by
    rw [planePlace_fst, ← Nat.add_assoc, ← Nat.add_assoc]
    exact (Nat.toNat_testBit ..).symm
  have hsum : (List.range n).foldl (fun acc p => acc +
      ((rd (u + 128 * n * (j / 1024) + 128 * p + j % 1024 / 8)).getLsbD (j % 8)).toNat * 2 ^ (n - 1 - p)) 0 =
      (BitVec.ofBoolListBE ((List.range n).map fun p =>
        (rd (u + 128 * n * (j / 1024) + 128 * p + j % 1024 / 8)).getLsbD (j % 8))).toNat := by
    rw [List.range_eq_range', toNat_ofBoolListBE, Nat.zero_add, List.sum_eq_foldl, List.foldl_map]
  rw [toInt_eq_sextN (n := n) _ (by simp), ← hsum]
  simp only [bpElem, hbit, lt_irrefl, decide_false, Bool.and_false, Bool.false_eq_true, if_false]

/-! ## Loads and stores of one lane -/

theorem elemAllowed_float {fmt : Nat} {ty : Ty} {wid : Wid} {ft : FTy} (h3 : fmt ≤ 3) (h : elemFloat ty wid = some ft) :
    elemAllowed fmt ty wid = true := by
  have hbp : pageIsBp fmt = false := by
    rw [pageIsBp, decide_eq_false_iff_not]
    omega
  simp [elemAllowed, hbp, h]

theorem formatReserved_float {fmt geom : Nat} (h3 : fmt ≤ 3) (hgeom : fmt = 3 ∨ geom = 0) (h1 : geom ≤ 1) :
    formatReserved fmt geom = false := by
  have h4 : ¬4 ≤ fmt := by omega
  rcases hgeom with rfl | rfl
  · interval_cases geom <;> rfl
  · simp [formatReserved, h4]

/-- The register data of a store of a float element. -/
theorem storeData_float {m : MemOp} {ft : FTy} (h : elemFloat m.ty m.wid = some ft) (rd : Nat → Word) :
    storeData m rd = stored m rd := by
  cases hw : m.wid <;> cases ht : m.ty <;> simp [hw, ht, elemFloat] at h <;> simp [storeData, stored, hw]

/-- Loads and stores of elements: one lane's access is issued (`Lone.load_issues`, `Lone.store_issues`), and a bank writes the
byte of an FP8 element (`encodeOne_byte`). -/
theorem elementsAreLoadedAndStored : Parts.FormattedPagesHoldElements := by
  refine ⟨?_, ?_, ?_⟩
  · intro g m s c e l t t0 rd key fmt geom tbl ft n ea rdU v r hflag hacq h0 hlim h1 h3 hgeom hgeom1 hraw hft
    have hres := formatReserved_float h3 hgeom hgeom1
    have hty := elemAllowed_float h3 hft
    refine ⟨fun h hloc hat => ?_, fun h hloc hrel => ?_⟩
    · obtain ⟨s', op, hx, hs, hl, hi, hparts⟩ :=
        h.load_issues hflag (planMem_element hacq h0 hlim hloc hres (by omega) hraw hty) rfl hat
      refine ⟨s', op, hx, hs, hl, hi, hparts.trans ?_⟩
      have hbp : pageIsBp fmt = false := by
        rw [pageIsBp, decide_eq_false_iff_not]
        omega
      simp only [loadValue, hbp, hft, Option.getD_some, if_true, Bool.false_eq_true, if_false]
      rfl
    · obtain ⟨s', op, hx, hs, hl, hi, hparts⟩ :=
        h.store_issues hflag (planMem_element hacq h0 hlim hloc hres (by omega) hraw hty) hrel
      refine ⟨s', op, hx, hs, hl, hi, hparts.trans ?_⟩
      rw [storePart, if_pos rfl, storeData_float hft]
  · intro g m s c e l t t0 rd key fmt tbl ea j bit v hflag hacq h0 hlim h9 h15 hraw hsigned hwid h hpo hup hloc hq
    have hbp : pageIsBp fmt = true := by simp [pageIsBp, h9]
    have hty : elemAllowed fmt m.ty m.wid = true := by
      rcases hwid with hw | hw | hw <;> simp [elemAllowed, hbp, hsigned, hw]
    have hres : formatReserved fmt 0 = false := by
      have h8 : ¬fmt ≤ 8 := by omega
      simp [formatReserved, h8]
    obtain ⟨s', op, hx, hs, -, hi, hparts⟩ :=
      h.load_issues hflag (planMem_element hacq h0 hlim hloc hres (by omega) hraw hty) rfl fun p _ =>
        ⟨⟨by simp [hup], by simp [poisoned, hpo]⟩, by simp [Unqueued, hq]⟩
    refine ⟨s', op, hx, hs, hi, hparts.trans ?_⟩
    have hj : key - unitBase key = j := by
      simp only [unitBase, j]
      omega
    have helem : bpElem (fmt - 7) (fmt - 7) true (fun i => (memGet s.mem (unitBase key + i)).toNat) j = v.toInt :=
      bpElem_eq (fmt - 7) (unitBase key) j (memGet s.mem)
    simp only [loadValue, hbp, if_true, pageBpN, hj, helem]
  · intro s gid e op l t rest key fmt ty wid v he _ _ hq hp hfmt hfresh hpo hun
    obtain ⟨hb, hput⟩ := encodeOne_byte (asid := e.ctx.asid) (x := storeVal ty wid v) hfmt hfresh
    have hty : (if fmt = 1 then FTy.e4m3 else .e5m2) = pageByteTy fmt := by rcases hfmt with rfl | rfl <;> rfl
    rw [← performEncodes_element (l := l) _ (by omega), ← hp] at hb hput
    obtain ⟨s', hx, hs, hfr, hla, hmem⟩ := bankStoreEncode_bytes he hq hp hpo hun hb hput
    refine ⟨s', hx, ⟨fun a => (hmem a).trans (by rw [hty]), hs.trans ?_, hfr, ?_⟩, hla⟩
    · rw [hs]
    · rw [DiesKeep, hs]

/-- Element stores at a bank (`bankStoreEncode_bytes`): the planes of a BPn element (`encodeOne_bp`), the block of an E2M1X
element (`encodeBlock_element`), and the encoding of a block (`encE2m1x_spec`). -/
theorem elementStoresEncode : Parts.ElementStoresEncodeTheirPlanesAndBlocks := by
  refine ⟨?_, fun n x _ => ?_⟩
  · intro s gid e op l t rest key fmt geom ty wid v he _ _ hq hp hfresh hpo _ hun u j holds rdU
    refine ⟨fun h9 h15 _ => ?_, fun h3 hg => ?_⟩
    · obtain ⟨hb, hmem⟩ := encodeOne_bp (asid := e.ctx.asid) (geom := geom) (x := storeVal ty wid v) h9 h15 hfresh
      rw [← performEncodes_element (l := l) _ (by omega), ← hp] at hb hmem
      obtain ⟨s', hx, hs, hfr, hla, hbytes⟩ := bankStoreEncode_bytes he hq hp hpo hun hb hmem
      refine ⟨s', hx, hs, hfr, hla, fun a => (hbytes a).trans ?_⟩
      by_cases ha : a < u ∨ u + 4096 ≤ a
      · rw [if_pos ha, if_pos ha]
      · have hback : u + (a - u) = a := by omega
        rw [if_neg ha, if_neg ha]
        dsimp only
        rw [hback, ← bpSat_eq]
        rfl
    · subst h3
      obtain ⟨hb, hmem⟩ := encodeBlock_element (asid := e.ctx.asid) (x := (storeVal ty wid v).1) hg hfresh
      rw [← performEncodes_e2m1x (l := l) _ hg, ← hp] at hb hmem
      obtain ⟨s', hx, hs, hfr, hla, hbytes⟩ := bankStoreEncode_bytes he hq hp hpo hun hb hmem
      refine ⟨s', hx, hs, hfr, hla, fun a => (hbytes a).trans ?_⟩
      rw [unitUsed_e2m1x hg, ← blockLen_eq, ← blockMeta_eq]
      rfl
  · obtain ⟨e, hzero, hleast, hlen, hmeta, hcodes, hcode⟩ := encE2m1x_spec n x
    refine ⟨e, hzero, hleast, hlen, hmeta.trans ?_, hcodes, hcode⟩
    simp only [entryAt, outlierVal_eq]
    rfl

/-- Settles O19: accesses of one lane to formatted pages, and the stores of their elements at the bank. -/
theorem formattedPagesHoldElements : Obligations.FormattedPagesHoldElements :=
  ⟨elementsAreLoadedAndStored, elementStoresEncode⟩

end Sys2Proof.Machine
end

section
/-!
DECODING INVERTS ENCODING (R78 to R82). The fields of each layout are read back once, as lemmas about `wordR`, `wordI`,
`wordM`, `wordY`, `wordX` and the custom-0 word; a decoder accepts the word that its parse encodes to, so that what is
left of each instruction is that its parse gives it back. `Nat.reduceAdd` is off wherever a concatenation is read: it
would rewrite the widths that the library's lemmas about `++` match on.
-/

namespace Sys2Proof

/-! ## Codes of the shared subfields -/

@[simp] theorem ITy.ofBits_bits (t : ITy) : ITy.ofBits t.bits = t := by cases t <;> rfl
@[simp] theorem FTy.ofBits_bits (t : FTy) : FTy.ofBits t.bits = t := by cases t <;> rfl
@[simp] theorem RMode.ofBits_bits (t : RMode) : RMode.ofBits t.bits = t := by cases t <;> rfl
@[simp] theorem Cmp.ofBits_bits (t : Cmp) : Cmp.ofBits t.bits = t := by cases t <;> rfl
@[simp] theorem Space.ofBits_bits (t : Space) : Space.ofBits t.bits = t := by cases t <;> rfl
@[simp] theorem Scope.ofBits_bits (t : Scope) : Scope.ofBits t.bits = t := by cases t <;> rfl
@[simp] theorem Ord.ofBits_bits (t : Ord) : Ord.ofBits t.bits = t := by cases t <;> rfl
@[simp] theorem Wid.ofBits_bits (t : Wid) : Wid.ofBits t.bits = t := by cases t <;> rfl
@[simp] theorem Ty.ofBits_bits (t : Ty) : Ty.ofBits t.bits = t := by cases t <;> rfl
@[simp] theorem HW.ofBits_bits (t : HW) : HW.ofBits t.bits = t := by cases t <;> rfl
@[simp] theorem BOp.ofBits_bits (t : BOp) : BOp.ofBits t.bits = t := by cases t <;> rfl
@[simp] theorem AOp.ofBits_bits (t : AOp) : AOp.ofBits t.bits = t := by cases t <;> rfl
@[simp] theorem ATy.ofBits_bits (t : ATy) : ATy.ofBits t.bits = t := by cases t <;> rfl
@[simp] theorem AOrd.ofBits_bits (t : AOrd) : AOrd.ofBits t.bits = t := by cases t <;> rfl
@[simp] theorem FenceKind.ofBits_bits (t : FenceKind) : FenceKind.ofBits t.bits = t := by cases t <;> rfl
@[simp] theorem ROp.ofBits_bits (t : ROp) : ROp.ofBits t.bits = t := by cases t <;> rfl
@[simp] theorem MatchMode.ofBits_bits (t : MatchMode) : MatchMode.ofBits t.bits = t := by cases t <;> rfl
@[simp] theorem MKind.ofBits_bits (t : MKind) : MKind.ofBits t.bits = t := by cases t <;> rfl
@[simp] theorem ECode.ofBits_bits (t : ECode) : ECode.ofBits t.bits = t := by cases t <;> rfl
@[simp] theorem CTy.ofBits_bits (t : CTy) : CTy.ofBits t.bits = t := by
  rcases t with t | t <;> cases t <;> rfl

theorem FTy.bits_ne_zero (t : FTy) (h : t.scalar = false) : t.bits ≠ 0#3 := by
  revert h; cases t <;> decide

@[simp] theorem predField_predicate (p : PredIx) : (predField p).extractLsb' 0 6 = p := by
  simp [predField, BitVec.extractLsb'_append_eq_of_add_le, -Nat.reduceAdd]

/-! ## The layouts of thread words -/

/-- What every thread layout keeps in the same place: bit 63 clear, the opcode, whose halves are the row and the column
of Table 5.1, and the guard. -/
structure HasHead (w : DWord) (code : Byte) (g : Guard) : Prop where
  top    : fBit w 63 = false
  op     : fOp w = code
  guard  : fGuard w = g
  row    : w.extractLsb' 59 4 = code.extractLsb' 4 4
  column : w.extractLsb' 55 4 = code.extractLsb' 0 4

section
variable (op : Byte) (g : Guard) (d a b c : BitVec 10) (mod : BitVec 7) (ss : Bool)

theorem hasHead_wordR : HasHead (wordR op g d a b c mod ss) op g := by
  constructor <;>
    simp [fBit, fOp, fGuard, wordR, BitVec.getLsbD_append, BitVec.extractLsb'_append_eq_of_add_le,
      BitVec.extractLsb'_append_eq_of_le, -Nat.reduceAdd, -BitVec.getLsbD_eq_getElem]
@[simp] theorem wordR_row : (wordR op g d a b c mod ss).extractLsb' 59 4 = op.extractLsb' 4 4 :=
  (hasHead_wordR op g d a b c mod ss).row
@[simp] theorem wordR_column : (wordR op g d a b c mod ss).extractLsb' 55 4 = op.extractLsb' 0 4 :=
  (hasHead_wordR op g d a b c mod ss).column
@[simp] theorem fD_wordR : fD (wordR op g d a b c mod ss) = d := by
  simp [fD, wordR, BitVec.extractLsb'_append_eq_of_add_le,
    BitVec.extractLsb'_append_eq_of_le, -Nat.reduceAdd]
@[simp] theorem fA_wordR : fA (wordR op g d a b c mod ss) = a := by
  simp [fA, wordR, BitVec.extractLsb'_append_eq_of_add_le,
    BitVec.extractLsb'_append_eq_of_le, -Nat.reduceAdd]
@[simp] theorem fB_wordR : fB (wordR op g d a b c mod ss) = b := by
  simp [fB, wordR, BitVec.extractLsb'_append_eq_of_add_le,
    BitVec.extractLsb'_append_eq_of_le, -Nat.reduceAdd]
@[simp] theorem fC_wordR : fC (wordR op g d a b c mod ss) = c := by
  simp [fC, wordR, BitVec.extractLsb'_append_eq_of_add_le,
    BitVec.extractLsb'_append_eq_of_le, -Nat.reduceAdd]
@[simp] theorem fPD_wordR : fPD (wordR op g d a b c mod ss) = d.extractLsb' 0 6 := by
  simp [fPD, wordR, BitVec.extractLsb'_append_eq_of_add_le,
    BitVec.extractLsb'_append_eq_of_le, -Nat.reduceAdd]
@[simp] theorem fPA_wordR : fPA (wordR op g d a b c mod ss) = a.extractLsb' 0 6 := by
  simp [fPA, wordR, BitVec.extractLsb'_append_eq_of_add_le,
    BitVec.extractLsb'_append_eq_of_le, -Nat.reduceAdd]
@[simp] theorem fPB_wordR : fPB (wordR op g d a b c mod ss) = b.extractLsb' 0 6 := by
  simp [fPB, wordR, BitVec.extractLsb'_append_eq_of_add_le,
    BitVec.extractLsb'_append_eq_of_le, -Nat.reduceAdd]
@[simp] theorem fPC_wordR : fPC (wordR op g d a b c mod ss) = c.extractLsb' 0 6 := by
  simp [fPC, wordR, BitVec.extractLsb'_append_eq_of_add_le,
    BitVec.extractLsb'_append_eq_of_le, -Nat.reduceAdd]
@[simp] theorem fBit_wordR_ss : fBit (wordR op g d a b c mod ss) 0 = ss := by
  simp [fBit, wordR, BitVec.getLsbD_append, -Nat.reduceAdd, -BitVec.getLsbD_eq_getElem]
/-- A subfield of MOD, bits 7 to 1. -/
@[simp] theorem wordR_mod {k n : Nat} (hk : 1 ≤ k) (hn : k + n ≤ 8) :
    (wordR op g d a b c mod ss).extractLsb' k n = mod.extractLsb' (k - 1) n := by
  unfold wordR
  rw [BitVec.extractLsb'_append_eq_of_le hk,
    BitVec.extractLsb'_append_eq_of_add_le (by omega)]
@[simp] theorem fBit_wordR_mod {k : Nat} (hk : 1 ≤ k) (hn : k < 8) :
    fBit (wordR op g d a b c mod ss) k = mod.getLsbD (k - 1) := by
  unfold fBit wordR
  rw [BitVec.getLsbD_append, if_neg (by omega), BitVec.getLsbD_append, if_pos (by omega)]
/-- A subfield of C, bits 17 to 8. -/
@[simp] theorem wordR_c {k n : Nat} (hk : 8 ≤ k) (hn : k + n ≤ 18) :
    (wordR op g d a b c mod ss).extractLsb' k n = c.extractLsb' (k - 8) n := by
  unfold wordR
  rw [BitVec.extractLsb'_append_eq_of_le (by omega),
    BitVec.extractLsb'_append_eq_of_le (by omega),
    BitVec.extractLsb'_append_eq_of_add_le (by omega)]
  rfl
/-- A subfield of B, bits 27 to 18. -/
@[simp] theorem wordR_b {k n : Nat} (hk : 18 ≤ k) (hn : k + n ≤ 28) :
    (wordR op g d a b c mod ss).extractLsb' k n = b.extractLsb' (k - 18) n := by
  unfold wordR
  rw [BitVec.extractLsb'_append_eq_of_le (by omega),
    BitVec.extractLsb'_append_eq_of_le (by omega),
    BitVec.extractLsb'_append_eq_of_le (by omega),
    BitVec.extractLsb'_append_eq_of_add_le (by omega)]
  rfl

end

section
variable (op : Byte) (g : Guard) (d a : BitVec 10) (imm : BitVec 20) (mod : BitVec 7)

theorem hasHead_wordI : HasHead (wordI op g d a imm mod) op g := by
  constructor <;>
    simp [fBit, fOp, fGuard, wordI, BitVec.getLsbD_append, BitVec.extractLsb'_append_eq_of_add_le,
      BitVec.extractLsb'_append_eq_of_le, -Nat.reduceAdd, -BitVec.getLsbD_eq_getElem]
@[simp] theorem wordI_row : (wordI op g d a imm mod).extractLsb' 59 4 = op.extractLsb' 4 4 :=
  (hasHead_wordI op g d a imm mod).row
@[simp] theorem wordI_column : (wordI op g d a imm mod).extractLsb' 55 4 = op.extractLsb' 0 4 :=
  (hasHead_wordI op g d a imm mod).column
@[simp] theorem fD_wordI : fD (wordI op g d a imm mod) = d := by
  simp [fD, wordI, BitVec.extractLsb'_append_eq_of_add_le,
    BitVec.extractLsb'_append_eq_of_le, -Nat.reduceAdd]
@[simp] theorem fA_wordI : fA (wordI op g d a imm mod) = a := by
  simp [fA, wordI, BitVec.extractLsb'_append_eq_of_add_le,
    BitVec.extractLsb'_append_eq_of_le, -Nat.reduceAdd]
@[simp] theorem fImm_wordI : fImm (wordI op g d a imm mod) = imm := by
  simp [fImm, wordI, BitVec.extractLsb'_append_eq_of_add_le,
    BitVec.extractLsb'_append_eq_of_le, -Nat.reduceAdd]
@[simp] theorem fPD_wordI : fPD (wordI op g d a imm mod) = d.extractLsb' 0 6 := by
  simp [fPD, wordI, BitVec.extractLsb'_append_eq_of_add_le,
    BitVec.extractLsb'_append_eq_of_le, -Nat.reduceAdd]
@[simp] theorem fPA_wordI : fPA (wordI op g d a imm mod) = a.extractLsb' 0 6 := by
  simp [fPA, wordI, BitVec.extractLsb'_append_eq_of_add_le,
    BitVec.extractLsb'_append_eq_of_le, -Nat.reduceAdd]
/-- A subfield of MOD, bits 7 to 1. -/
@[simp] theorem wordI_mod {k n : Nat} (hk : 1 ≤ k) (hn : k + n ≤ 8) :
    (wordI op g d a imm mod).extractLsb' k n = mod.extractLsb' (k - 1) n := by
  unfold wordI
  rw [BitVec.extractLsb'_append_eq_of_le hk,
    BitVec.extractLsb'_append_eq_of_add_le (by omega)]
@[simp] theorem fBit_wordI_mod {k : Nat} (hk : 1 ≤ k) (hn : k < 8) :
    fBit (wordI op g d a imm mod) k = mod.getLsbD (k - 1) := by
  unfold fBit wordI
  rw [BitVec.getLsbD_append, if_neg (by omega), BitVec.getLsbD_append, if_pos (by omega)]
/-- A subfield of IMM, bits 27 to 8. -/
@[simp] theorem wordI_imm {k n : Nat} (hk : 8 ≤ k) (hn : k + n ≤ 28) :
    (wordI op g d a imm mod).extractLsb' k n = imm.extractLsb' (k - 8) n := by
  unfold wordI
  rw [BitVec.extractLsb'_append_eq_of_le (by omega),
    BitVec.extractLsb'_append_eq_of_le (by omega),
    BitVec.extractLsb'_append_eq_of_add_le (by omega)]
  rfl

end

section
variable (op : Byte) (g : Guard) (m : MemOp)

theorem hasHead_wordM : HasHead (wordM op g m) op g := by
  constructor <;>
    simp [fBit, fOp, fGuard, wordM, BitVec.getLsbD_append, BitVec.extractLsb'_append_eq_of_add_le,
      BitVec.extractLsb'_append_eq_of_le, -Nat.reduceAdd, -BitVec.getLsbD_eq_getElem]
@[simp] theorem wordM_row : (wordM op g m).extractLsb' 59 4 = op.extractLsb' 4 4 :=
  (hasHead_wordM op g m).row
@[simp] theorem wordM_column : (wordM op g m).extractLsb' 55 4 = op.extractLsb' 0 4 :=
  (hasHead_wordM op g m).column
@[simp] theorem fMem_wordM : fMem (wordM op g m) = m := by
  simp [fMem, fD, fA, fOff, fBit, wordM, BitVec.getLsbD_append, BitVec.extractLsb'_append_eq_of_add_le,
    BitVec.extractLsb'_append_eq_of_le, -Nat.reduceAdd, -BitVec.getLsbD_eq_getElem]
@[simp] theorem fA_wordM : fA (wordM op g m) = m.a := congrArg MemOp.a (fMem_wordM op g m)
@[simp] theorem fOff_wordM : fOff (wordM op g m) = m.off := congrArg MemOp.off (fMem_wordM op g m)
/-- The bit of TY by which a prefetch names the last-level cache. -/
@[simp] theorem fBit_wordM_ty : fBit (wordM op g m) 2 = m.ty.bits.getLsbD 0 := by
  simp [fBit, wordM, BitVec.getLsbD_append, -Nat.reduceAdd, -BitVec.getLsbD_eq_getElem]

/-- The fields of an `amxs` are fields of format M. -/
theorem fAmx_eq (w : DWord) :
    fAmx w = ⟨(fMem w).d, (fMem w).a, (fMem w).off, (fMem w).scope, (fMem w).ord, (fMem w).ss⟩ := rfl

end

section
variable (op : Byte) (g : Guard) (x : CopyOp) (ymod : BitVec 8)

theorem hasHead_wordY : HasHead (wordY op g x ymod) op g := by
  constructor <;>
    simp [fBit, fOp, fGuard, wordY, BitVec.getLsbD_append, BitVec.extractLsb'_append_eq_of_add_le,
      BitVec.extractLsb'_append_eq_of_le, -Nat.reduceAdd, -BitVec.getLsbD_eq_getElem]
@[simp] theorem wordY_row : (wordY op g x ymod).extractLsb' 59 4 = op.extractLsb' 4 4 :=
  (hasHead_wordY op g x ymod).row
@[simp] theorem wordY_column : (wordY op g x ymod).extractLsb' 55 4 = op.extractLsb' 0 4 :=
  (hasHead_wordY op g x ymod).column
@[simp] theorem fCopy_wordY : fCopy (wordY op g x ymod) = x := by
  simp [fCopy, fD, fA, fB, wordY, BitVec.extractLsb'_append_eq_of_add_le,
    BitVec.extractLsb'_append_eq_of_le, -Nat.reduceAdd]
@[simp] theorem fBit_wordY_ymod {k : Nat} (hk : 1 ≤ k) (hn : k < 9) :
    fBit (wordY op g x ymod) k = ymod.getLsbD (k - 1) := by
  unfold fBit wordY
  rw [BitVec.getLsbD_append, if_neg (by omega), BitVec.getLsbD_append, if_pos (by omega)]

end

section
variable (op : Byte) (g : Guard) (x : AtomOp)

@[simp] theorem wordAtom_row : (wordAtom op g x).extractLsb' 59 4 = op.extractLsb' 4 4 := (hasHead_wordR ..).row
@[simp] theorem wordAtom_column : (wordAtom op g x).extractLsb' 55 4 = op.extractLsb' 0 4 := (hasHead_wordR ..).column
@[simp] theorem fAtom_wordAtom : fAtom (wordAtom op g x) (atomLit x) = x := by
  simp [fAtom, wordAtom, atomLit, BitVec.extractLsb'_append_eq_of_add_le,
    BitVec.extractLsb'_append_eq_of_le, -Nat.reduceAdd]

end

/-! ## Thread words -/

/-- An opcode that Table 5.1 leaves unassigned decodes whatever the operand fields hold (R84). -/
theorem decodeThread_unassigned {w : DWord} {l : Option DWord} {op : Byte} {g : Guard} (hh : HasHead w op g)
    (hop : unassignedOp op = true) : decodeThread w l = .ok (.unassignedOpcode g op) := by
  simp [decodeThread, hh.top, hh.op, hh.guard, hop]

/-- A word that its parse encodes to is accepted. -/
theorem decodeThread_of_parse {i : Instr} {w : DWord} {l : Option DWord} {op : Byte} {g : Guard} (hh : HasHead w op g)
    (he : encode i = .thread w l) (hwf : i.wf = true) (hop : unassignedOp op = false) (hl : opLong op = l.isSome)
    (hp : parseThread g w (l.getD 0) = i) : decodeThread w l = .ok i := by
  obtain ⟨htop, hcode, hguard⟩ := hh
  unfold decodeThread
  simp only [htop, hcode, hguard, hop, hl, hp, he, hwf]
  cases l <;> simp

/-- The word of a well-formed thread instruction decodes to it: by layout, then by the forms that share an opcode. -/
theorem decodeThread_encode (i : Instr) (w : DWord) (l : Option DWord) (hwf : i.wf = true)
    (he : encode i = .thread w l) : decodeThread w l = .ok i := by
  have he' := he
  cases i with
  | nop | brx | callR | ret | exit | yield | rte | iaddR | iaddc | isubR | isubc | imulR | imadR | iminR | imaxR
  | iabs | ineg | dot4R | dot2 | popc | clz | brev | not | mov | andR | orR | xorR | shlR | shrR | bfxR | lop3Lo
  | lop3Hi | shf | bfiR | selR | lea | isetR | pset | lit | iaddL | isubL | imulL | imadL | iminL | imaxL | andL
  | orL | xorL | isetL | selL | dot4L | maddmR | msubmR | mmulmR | mmacmR | mredR | bflyR | maddmL | msubmL
  | mmulmL | mmacmL | mredL | bflyL | elect | faddR | fsubR | fmulR | ffmaR | fminR | fmaxR | fsetR | fclass | frcp
  | frsq | fsqrt | fex2 | flg2 | fsin | fcos | ftanh | faddL | fsubL | fmulL | ffmaL | fminL | fmaxL | fsetL
  | hfma2R | hadd2 | hmul2 | hfma2L | cvt | pack | unpack | shflIdxR | shflUpR | shflDownR | shflXorR | shflIdxC
  | shflUpC | shflDownC | shflXorC | matchv | kick | barexpR | bararr | barinv | qpush | qpop | tileq | fewait
  | feclr | tlwaitR | tlread | enq | allocGlbR | allocCmnR | freeGlb | freeCmn | migr | contend =>
    cases he
    refine decodeThread_of_parse (hasHead_wordR ..) he' hwf rfl rfl ?_
    simp (disch := decide) [parseThread, parseRow0, parseRow1, parseRow2, parseRow4, parseRow5, parseRow8, parseRow9,
      parseRowA, parseRowB, parseRowC, parseRowD, fTy, fFty, fFm, imod, fmodBits, BitVec.getLsbD_append,
      BitVec.extractLsb'_append_eq_of_add_le, BitVec.extractLsb'_append_eq_of_le, -Nat.reduceAdd,
      -BitVec.getLsbD_eq_getElem]
  | bra | callI | sleep | waitf | trap | bkpt | svc | iaddI | isubI | imulI | iminI | imaxI | andI | orI | xorI
  | shlI | shrI | bfxI | bfiI | isetI | selI | movi | fence | faddI | fmulI | fminI | fmaxI | fsetI | barinit
  | barexpI | bararrMb | barwaitMb | tlwaitI | allocGlbI | allocCmnI | sysr | sysw | cntr =>
    cases he
    refine decodeThread_of_parse (hasHead_wordI ..) he' hwf rfl rfl ?_
    simp (disch := decide) [parseThread, parseRow0, parseRow3, parseRow6, parseRow9, parseRowB, parseRowC, parseRowD,
      fTy, fFm, imod, fmodBits, BitVec.getLsbD_append, BitVec.extractLsb'_append_eq_of_add_le,
      BitVec.extractLsb'_append_eq_of_le, -Nat.reduceAdd, -BitVec.getLsbD_eq_getElem]
  | ldg | stg | ldp | stp | lds | sts | ldc | stc | ldh | sth | ldio | stio =>
    cases he
    refine decodeThread_of_parse (hasHead_wordM ..) he' hwf rfl rfl ?_
    simp [parseThread, parseRow6]
  | amxsCmn | amxsGlb =>
    cases he
    refine decodeThread_of_parse (hasHead_wordM ..) he' hwf rfl rfl ?_
    simp [parseThread, parseRow7, fAmx_eq, amxMem]
  | prefGlb g llc | prefHst g llc =>
    cases he
    refine decodeThread_of_parse (hasHead_wordM ..) he' hwf rfl rfl ?_
    cases llc <;> simp [parseThread, parseRow6, prefMem, Ty.bits]
  | acopy | ncopy =>
    cases he
    refine decodeThread_of_parse (hasHead_wordY ..) he' hwf rfl rfl ?_
    simp (disch := decide) [parseThread, parseRowB, parseRowC, BitVec.getLsbD_append, -Nat.reduceAdd,
      -BitVec.getLsbD_eq_getElem]
  | ats | atc | atg | redc | redg =>
    cases he
    refine decodeThread_of_parse (hasHead_wordR ..) he' hwf rfl rfl ?_
    simp [parseThread, parseRow7]
  | sbind _ x | pmov _ x | vote _ x | redux _ _ x | scan _ _ x | qtry _ _ _ x | tilest _ x | barwait _ _ _ x
  | bartest _ _ _ x =>
    cases x
    all_goals
      cases he
      refine decodeThread_of_parse (hasHead_wordR ..) he' hwf rfl rfl ?_
      simp (disch := decide) [parseThread, parseRow2, parseRow4, parseRowA, parseRowB, parseRowC, fTy, fGen, genConst,
        genField, BitVec.getLsbD_append, BitVec.extractLsb'_append_eq_of_add_le,
        BitVec.extractLsb'_append_eq_of_le, -Nat.reduceAdd, -BitVec.getLsbD_eq_getElem]
  | bscale _ x =>
    cases x with
    | apply =>
      cases he
      refine decodeThread_of_parse (hasHead_wordR ..) he' hwf rfl rfl ?_
      simp (disch := decide) [parseThread, parseRowA, fFm, fmodBits, FTy.bits, BitVec.getLsbD_append,
        BitVec.extractLsb'_append_eq_of_add_le, BitVec.extractLsb'_append_eq_of_le, -Nat.reduceAdd,
        -BitVec.getLsbD_eq_getElem]
    | derive t =>
      cases he
      have ht : t.bits ≠ 0#3 := FTy.bits_ne_zero t (by simpa [Instr.wf] using hwf)
      refine decodeThread_of_parse (hasHead_wordR ..) he' hwf rfl rfl ?_
      simp (disch := decide) [parseThread, parseRowA, fFty, ht, BitVec.extractLsb'_append_eq_of_le,
        -Nat.reduceAdd]
  | unassignedOpcode =>
    cases he
    exact decodeThread_unassigned (hasHead_wordR ..) hwf
  | _ => cases he

/-! ## Command words -/

section
variable (mop : BitVec 6) (mt : BitVec 4) (gran : BitVec 3) (opnd : BitVec 49) (xw : Bool)

@[simp] theorem fBit_wordX_top : fBit (wordX mop mt gran opnd xw) 63 = false := by
  simp [fBit, wordX, BitVec.getLsbD_append, -Nat.reduceAdd, -BitVec.getLsbD_eq_getElem]
@[simp] theorem fBit_wordX_xw : fBit (wordX mop mt gran opnd xw) 0 = xw := by
  simp [fBit, wordX, BitVec.getLsbD_append, -Nat.reduceAdd, -BitVec.getLsbD_eq_getElem]
@[simp] theorem wordX_mop : (wordX mop mt gran opnd xw).extractLsb' 57 6 = mop := by
  simp [wordX, BitVec.extractLsb'_append_eq_of_add_le,
    BitVec.extractLsb'_append_eq_of_le, -Nat.reduceAdd]
@[simp] theorem wordX_mt : (wordX mop mt gran opnd xw).extractLsb' 53 4 = mt := by
  simp [wordX, BitVec.extractLsb'_append_eq_of_add_le,
    BitVec.extractLsb'_append_eq_of_le, -Nat.reduceAdd]
@[simp] theorem wordX_gran : (wordX mop mt gran opnd xw).extractLsb' 50 3 = gran := by
  simp [wordX, BitVec.extractLsb'_append_eq_of_add_le,
    BitVec.extractLsb'_append_eq_of_le, -Nat.reduceAdd]
/-- A subfield of OPND, bits 49 to 1. -/
@[simp] theorem wordX_opnd {k n : Nat} (hk : 1 ≤ k) (hn : k + n ≤ 50) :
    (wordX mop mt gran opnd xw).extractLsb' k n = opnd.extractLsb' (k - 1) n := by
  unfold wordX
  rw [BitVec.extractLsb'_append_eq_of_le hk,
    BitVec.extractLsb'_append_eq_of_add_le (by omega)]
@[simp] theorem fBit_wordX_opnd {k : Nat} (hk : 1 ≤ k) (hn : k < 50) :
    fBit (wordX mop mt gran opnd xw) k = opnd.getLsbD (k - 1) := by
  unfold fBit wordX
  rw [BitVec.getLsbD_append, if_neg (by omega), BitVec.getLsbD_append, if_pos (by omega)]

end

/-- A command word that its parse encodes to is accepted, where XW tells of its extension word (R81). -/
theorem decodeMatrix_of_parse {i : Instr} {mop : BitVec 6} {mt : BitVec 4} {gran : BitVec 3} {opnd : BitVec 49}
    {xw : Bool} {x : Option DWord} (he : encode i = .matrix (wordX mop mt gran opnd xw) x) (hwf : i.wf = true)
    (hx : xw = x.isSome) (hop : unassignedMopCode mop = false)
    (hp : parseMatrix (wordX mop mt gran opnd xw) (x.getD 0) = i) :
    decodeMatrix (wordX mop mt gran opnd xw) (x.getD 0) = .ok i := by
  subst hx
  unfold decodeMatrix
  simp only [fBit_wordX_top, wordX_mop, hop, hp, he, hwf, fBit_wordX_xw]
  cases x <;> simp

theorem decodeMatrix_encode (i : Instr) (w : DWord) (x : Option DWord) (hwf : i.wf = true)
    (he : encode i = .matrix w x) : decodeMatrix w (x.getD 0) = .ok i := by
  have he' := he
  cases i with
  | mnop | mbwait | mbsig | mloop | mend | pmark | mfence | msetq | mfmt | mzero | mldb | mldu | mlda | mst | mcopy
  | mtrn | mcvt | mma | mpma | mmodma | mntt | mintt | mtadd | mhad | mscl | mbias | mamax =>
    cases he
    refine decodeMatrix_of_parse he' hwf rfl rfl ?_
    simp (disch := decide) [parseMatrix, BitVec.getLsbD_append, BitVec.extractLsb'_append_eq_of_add_le,
      BitVec.extractLsb'_append_eq_of_le, -Nat.reduceAdd, -BitVec.getLsbD_eq_getElem]
  | mclamp mt lo hi =>
    cases he
    refine decodeMatrix_of_parse he' hwf rfl rfl ?_
    have hlo : (hi ++ lo).extractLsb' 0 32 = lo := by
      simp [BitVec.extractLsb'_append_eq_of_add_le, -Nat.reduceAdd]
    have hhi : (hi ++ lo).extractLsb' 32 32 = hi := by
      simp [BitVec.extractLsb'_append_eq_of_le, -Nat.reduceAdd]
    simpa [parseMatrix] using ⟨hlo, hhi⟩
  | unassignedMop mop =>
    cases he
    have hop : unassignedMopCode mop = true := hwf
    simp [decodeMatrix, hop]
  | sbind _ x | pmov _ x | bscale _ x | vote _ x | redux _ _ x | scan _ _ x | qtry _ _ _ x | tilest _ x =>
    cases x <;> cases he
  | _ => cases he

/-! ## Words of the service cores -/

/-- A custom-0 word by its fields (Table 5.8): the layout of the four words that `encode` gives there. -/
def xvexrusWord (n : BitVec 4) (rs2 rs1 : BitVec 5) (f : BitVec 3) (rd : BitVec 5) : Word :=
  0#3 ++ n ++ rs2 ++ rs1 ++ f ++ rd ++ 0x0B#7

section
variable (n : BitVec 4) (rs2 rs1 : BitVec 5) (f : BitVec 3) (rd : BitVec 5)

@[simp] theorem xvexrusWord_custom0 : (xvexrusWord n rs2 rs1 f rd).extractLsb' 0 7 = 0x0B#7 := by
  simp [xvexrusWord, BitVec.extractLsb'_append_eq_of_add_le, -Nat.reduceAdd]
@[simp] theorem xvexrusWord_rd : (xvexrusWord n rs2 rs1 f rd).extractLsb' 7 5 = rd := by
  simp [xvexrusWord, BitVec.extractLsb'_append_eq_of_add_le,
    BitVec.extractLsb'_append_eq_of_le, -Nat.reduceAdd]
@[simp] theorem xvexrusWord_funct3 : (xvexrusWord n rs2 rs1 f rd).extractLsb' 12 3 = f := by
  simp [xvexrusWord, BitVec.extractLsb'_append_eq_of_add_le,
    BitVec.extractLsb'_append_eq_of_le, -Nat.reduceAdd]
@[simp] theorem xvexrusWord_rs1 : (xvexrusWord n rs2 rs1 f rd).extractLsb' 15 5 = rs1 := by
  simp [xvexrusWord, BitVec.extractLsb'_append_eq_of_add_le,
    BitVec.extractLsb'_append_eq_of_le, -Nat.reduceAdd]
@[simp] theorem xvexrusWord_rs2 : (xvexrusWord n rs2 rs1 f rd).extractLsb' 20 5 = rs2 := by
  simp [xvexrusWord, BitVec.extractLsb'_append_eq_of_add_le,
    BitVec.extractLsb'_append_eq_of_le, -Nat.reduceAdd]
@[simp] theorem xvexrusWord_count : (xvexrusWord n rs2 rs1 f rd).extractLsb' 25 4 = n := by
  simp [xvexrusWord, BitVec.extractLsb'_append_eq_of_add_le,
    BitVec.extractLsb'_append_eq_of_le, -Nat.reduceAdd]
@[simp] theorem xvexrusWord_funct7 : (xvexrusWord n rs2 rs1 f rd).extractLsb' 25 7 = 0#3 ++ n := by
  simp [xvexrusWord, BitVec.extractLsb'_append_eq_of_le, -Nat.reduceAdd]

end

/-- A custom-0 word decodes to its instruction on every core, a reserved one on the core that holds it (R94). -/
theorem decodeXvexrus_encode (i : Instr) (w : Word) (hwf : i.wf = true) (he : encode i = .rv w) (c : Nat)
    (hc : ∀ k v, i = .reservedCustom0 k v → c = k) : decodeXvexrus c w = some i := by
  cases i with
  | xspawn n rs2 rs1 rd =>
    obtain rfl : xvexrusWord n rs2 rs1 0 rd = w := by cases he; rfl
    have hn : n.toNat ≤ 8 := by simpa [Instr.wf] using hwf
    simp [decodeXvexrus, custom0Reserved, BitVec.toNat_append, hn, -Nat.reduceAdd]
  | xdisp n rs2 rs1 rd =>
    obtain rfl : xvexrusWord n rs2 rs1 1 rd = w := by cases he; rfl
    have hn : n.toNat ≤ 8 := by simpa [Instr.wf] using hwf
    simp [decodeXvexrus, custom0Reserved, BitVec.toNat_append, hn, -Nat.reduceAdd]
  | xjoin rs1 rd =>
    obtain rfl : xvexrusWord 0 0 rs1 2 rd = w := by cases he; rfl
    simp [decodeXvexrus, custom0Reserved]
  | xwaitc rs2 rs1 rd =>
    obtain rfl : xvexrusWord 0 rs2 rs1 3 rd = w := by cases he; rfl
    simp [decodeXvexrus, custom0Reserved]
  | reservedCustom0 k v =>
    cases he
    obtain rfl := hc k w rfl
    have hr : custom0Reserved w = true := hwf
    have hop : w.extractLsb' 0 7 = 0x0B#7 := by
      simp only [custom0Reserved, Bool.and_eq_true, beq_iff_eq] at hr
      exact hr.1
    simp [decodeXvexrus, hr, hop]
  | sbind _ x | pmov _ x | bscale _ x | vote _ x | redux _ _ x | scan _ _ x | qtry _ _ _ x | tilest _ x =>
    cases x <;> cases he
  | _ => cases he

/-- Settles O57, by the three kinds of words. -/
theorem decodingInvertsEncoding : Obligations.DecodingInvertsEncoding := by
  intro i hwf
  split
  · exact decodeThread_encode i _ _ hwf ‹_›
  · exact decodeMatrix_encode i _ _ hwf ‹_›
  · exact decodeXvexrus_encode i _ hwf ‹_›
  · trivial

end Sys2Proof
end

section
/-!
A STEP ENDS WITH NO EXECUTION IN PROGRESS. A turn that goes on settles: `settle` clears what is in progress, and nothing that
it runs afterwards, phase tests, ends of groups and pending pre-emptions, begins an execution.
-/

namespace Sys2Proof.Machine

/-- The executions in progress: of a thread word, of a command, of a core's word. -/
def inProgress (s : State) : Option Cur × Option (Nat × Nat) × Option Nat := (s.cur, s.seqCur, s.rvCur)

theorem idle_iff_inProgress (s : State) : s.Idle ↔ inProgress s = (none, none, none) := by
  simp [State.Idle, inProgress]

theorem foldl_inProgress {α : Type} (f : State → α → State) (l : List α) (s : State)
    (hf : ∀ s x, inProgress (f s x) = inProgress s) : inProgress (l.foldl f s) = inProgress s := by
  induction l generalizing s with
  | nil => rfl
  | cons x l ih => rw [List.foldl_cons, ih, hf]

/-! ## Writes of memory -/

@[simp] theorem addPoison_inProgress (s : State) (p : Nat) : inProgress (addPoison s p) = inProgress s := by
  unfold addPoison; split <;> rfl

@[simp] theorem tagCommons_inProgress (s : State) (asid key n : Nat) :
    inProgress (tagCommons s asid key n) = inProgress s := by
  unfold tagCommons; split <;> rfl

@[simp] theorem noteWrite_inProgress (s : State) (key n : Nat) : inProgress (noteWrite s key n) = inProgress s := by
  unfold noteWrite; split <;> rfl

theorem writeLine_inProgress (s : State) (key : Nat) (w : State) (h : inProgress w = inProgress s) :
    inProgress (writeLine s key w) = inProgress s := by
  unfold writeLine
  split
  · dsimp only
    split
    · simp
    · exact h
  · exact h

@[simp] theorem bankWrite_inProgress (s : State) (asid key n v : Nat) :
    inProgress (bankWrite s asid key n v) = inProgress s := by
  refine writeLine_inProgress _ _ _ ?_
  rw [noteWrite_inProgress, tagCommons_inProgress]
  rfl

/-! ## What follows from where threads stand -/

@[simp] theorem retireJoin_inProgress (s : State) (g : Group) : inProgress (retireJoin s g) = inProgress s := by
  unfold retireJoin
  split
  · rfl
  · split
    · rfl
    · split
      · split
        · exact bankWrite_inProgress ..
        · rfl
      · rfl

@[simp] theorem settleGroup_inProgress (s : State) (gid : Nat) : inProgress (settleGroup s gid) = inProgress s := by
  unfold settleGroup
  split
  · rfl
  · dsimp only
    split
    · exact retireJoin_inProgress ..
    · rfl

@[simp] theorem wakeLanes_inProgress (s : State) (asid : Nat) (ws : List (Nat × Nat)) (val : Bool) :
    inProgress (wakeLanes s asid ws val) = inProgress s :=
  foldl_inProgress _ ws s fun _ _ => rfl

@[simp] theorem testPhase_inProgress (s : State) (key : Nat) : inProgress (testPhase s key) = inProgress s := by
  unfold testPhase
  dsimp only
  split
  · exact wakeLanes_inProgress ..
  · rfl

@[simp] theorem runTests_inProgress (s : State) : inProgress (runTests s) = inProgress s :=
  foldl_inProgress _ _ _ testPhase_inProgress

@[simp] theorem leaveWaits_inProgress (s : State) (g : Group) (t : Thread) :
    inProgress (leaveWaits s g t) = inProgress s := by
  unfold leaveWaits
  split <;> rfl

@[simp] theorem takeGroup_inProgress (s : State) (gid : Nat) : inProgress (takeGroup s gid) = inProgress s := by
  unfold takeGroup
  split
  · rfl
  · split
    · rfl
    · refine (settleGroup_inProgress ..).trans (foldl_inProgress _ _ _ fun s t => ?_)
      split
      · rfl
      · exact leaveWaits_inProgress ..

@[simp] theorem takeStopping_inProgress (s : State) : inProgress (takeStopping s) = inProgress s := by
  unfold takeStopping
  split
  · exact foldl_inProgress _ _ _ takeGroup_inProgress
  · rfl

theorem settle_idle (s : State) : (settle s).Idle := by
  rw [idle_iff_inProgress]
  simp only [settle, takeStopping_inProgress]
  rw [foldl_inProgress _ _ _ settleGroup_inProgress, runTests_inProgress]
  rfl

/-- Settles O59: a step that goes on ends with `settle`, whatever its turn came to. -/
theorem noStepLeavesAnExecutionInProgress : Obligations.NoStepLeavesAnExecutionInProgress := by
  intro s t ht
  unfold step at ht
  cases ho : runPlan (planTurn (takeTurn s).2 (takeTurn s).1) with
  | next s' =>
    rw [ho] at ht
    cases ht
    exact settle_idle _
  | fault | refused =>
    rw [ho] at ht
    cases ht

end Sys2Proof.Machine
end

section
/-!
THE COMPLETION OF A LONG OPERATION (R68, R69): what `settleGroup` leaves of a group, a store performed at the head of its queue, the
operation taken away and its flag lowered, and obligation O17.
-/

namespace Sys2Proof.Machine

/-! ## A group settled -/

/-- Threads differ only in where they stand, none has exited, and beside them only holds and releases differ. -/
def Resettled (g g' : Group) : Prop :=
  g' = { g with threads := g'.threads, stack := g'.stack, crossFree := g'.crossFree } ∧
  ∃ f : Thread → Thread, g'.threads = g.threads.map f ∧
    ∀ t, apart (f t) = apart t ∧ (t.status ≠ .exited → (f t).status ≠ .exited)

theorem Resettled.refl (g : Group) : Resettled g g := ⟨rfl, id, (List.map_id _).symm, fun _ => ⟨rfl, id⟩⟩

theorem Resettled.trans {g g1 g2 : Group} (h : Resettled g g1) (h' : Resettled g1 g2) : Resettled g g2 := by
  obtain ⟨h1, f, hf, hk⟩ := h
  obtain ⟨h1', f', hf', hk'⟩ := h'
  refine ⟨by rw [h1', h1], f' ∘ f, by rw [hf', hf, List.map_map], fun t => ⟨(hk' _).1.trans (hk t).1, fun ht => ?_⟩⟩
  exact (hk' _).2 ((hk t).2 ht)

/-- Its threads changed in where they stand, a group is resettled. -/
theorem resettled_threads {g : Group} {f : Thread → Thread} (hf : ∀ t, apart (f t) = apart t)
    (hs : ∀ t, t.status ≠ .exited → (f t).status ≠ .exited) : Resettled g { g with threads := g.threads.map f } :=
  ⟨rfl, f, rfl, fun t => ⟨hf t, hs t⟩⟩

theorem resettled_stack (g : Group) (xs : List RcEntry) : Resettled g { g with stack := xs } :=
  ⟨rfl, id, (List.map_id _).symm, fun _ => ⟨rfl, id⟩⟩

theorem resettled_freeCross (g : Group) (pcs : List Nat) : Resettled g (freeCross pcs g) :=
  ⟨rfl, id, (List.map_id _).symm, fun _ => ⟨rfl, id⟩⟩

theorem resettled_settleEntry (g : Group) (x : RcEntry) : Resettled g (settleEntry g x) := by
  unfold settleEntry
  split
  · refine (resettled_stack g (g.stack.filter (· != x))).trans
      (resettled_threads (f := fun t => if heldBy x t then releaseThread t else t) (fun t => ?_) fun t ht => ?_)
    · split <;> rfl
    · split
      · exact ht
      · exact ht
  · exact .refl g

/-- A thread that leaves its header differs in where it stands, and has not exited. -/
theorem leaveHeader_apart (n : Nat) (g : Group) (pending : Bool) (t : Thread) :
    apart (leaveHeader n g pending t) = apart t ∧ (leaveHeader n g pending t).status ≠ .exited := by
  unfold leaveHeader
  dsimp only
  split
  · exact ⟨rfl, nofun⟩
  split
  · exact ⟨rfl, nofun⟩
  · exact ⟨rfl, nofun⟩

theorem settleWait_apart (n : Nat) (pending : Bool) (g : Group) (t : Thread) :
    apart (settleWait n pending g t) = apart t ∧ (t.status ≠ .exited → (settleWait n pending g t).status ≠ .exited) := by
  unfold settleWait
  split
  · exact ⟨(leaveHeader_apart ..).1, fun _ => (leaveHeader_apart ..).2⟩
  · exact ⟨rfl, id⟩

/-- What `settleGroup` makes of a group that is not done. -/
def settledIn (n : Nat) (pending : Bool) (g0 : Group) : Group :=
  let g1 := g0.stack.foldl settleEntry g0
  let g2 := { g1 with threads := g1.threads.map (settleWait n pending g1) }
  freeCross (crossOver g2) g2

theorem resettled_settledIn (n : Nat) (pending : Bool) (g : Group) : Resettled g (settledIn n pending g) := by
  have hfold : ∀ (xs : List RcEntry) (g : Group), Resettled g (xs.foldl settleEntry g) := fun xs => by
    induction xs with
    | nil => exact .refl
    | cons x xs ih => exact fun g => (resettled_settleEntry g x).trans (ih _)
  exact ((hfold g.stack g).trans (resettled_threads (fun t => (settleWait_apart ..).1) fun t => (settleWait_apart ..).2)).trans
    (resettled_freeCross ..)

/-- A group with a thread that has not exited is not done. -/
theorem groupDone_of_thread {g : Group} (h : ∃ t ∈ g.threads, t.status ≠ .exited) : groupDone g = false := by
  obtain ⟨t, ht, hs⟩ := h
  have : g.threads.all (·.status == .exited) = false := List.all_eq_false.2 ⟨t, ht, by simpa using hs⟩
  rw [groupDone, this, Bool.and_false]

/-- A group set to a value of its own. -/
theorem modGroup_const {s : State} {gid : Nat} {g : Group} (hg : g.gid = gid) :
    modGroup s gid (fun _ => g) = modGroup s gid fun x => { g with gid := x.gid } := by
  subst hg
  unfold modGroup modBy
  congr 1
  refine List.map_congr_left fun x _ => ?_
  by_cases hx : x.gid = g.gid <;> simp [hx]

/-- The settling of a group with a thread that has not exited. -/
theorem settleGroup_eq {s : State} {gid : Nat} {g : Group} (hg : getGroup s gid = some g)
    (hlive : ∃ t ∈ g.threads, t.status ≠ .exited) : settleGroup s gid =
      modGroup s gid fun x => { settledIn (regsOf s g) (preemptPending s g) g with gid := x.gid } := by
  obtain ⟨h1, f, hf, hk⟩ := resettled_settledIn (regsOf s g) (preemptPending s g) g
  have hdone : groupDone (settledIn (regsOf s g) (preemptPending s g) g) = false := by
    obtain ⟨t, ht, hs⟩ := hlive
    exact groupDone_of_thread ⟨f t, hf ▸ List.mem_map_of_mem ht, (hk t).2 hs⟩
  have hid : (settledIn (regsOf s g) (preemptPending s g) g).gid = gid := by
    rw [h1]
    exact find_key Group.gid gid s.groups g hg
  rw [← modGroup_const hid]
  simp only [settleGroup, hg]
  exact if_neg (by rw [← settledIn, hdone]; exact Bool.false_ne_true)

theorem laneThread_map {g g' : Group} {f : Thread → Thread} (h : g'.threads = g.threads.map f)
    (hf : ∀ t, (f t).lane = t.lane) (k : Nat) : laneThread g' k = (laneThread g k).map f := by
  rw [laneThread, laneThread, h, List.find?_map]
  congr 2
  funext t
  simp [hf]

/-- After the settling of a group with a thread that has not exited: only threads have changed, operations and flags are as
they were, and each thread differs only in where it stands. -/
theorem settleGroup_keeps {s : State} {gid : Nat} {g : Group} (hg : getGroup s gid = some g)
    (hlive : ∃ t ∈ g.threads, t.status ≠ .exited) :
    OnlyThreads s (settleGroup s gid) ∧
      (∃ g', getGroup (settleGroup s gid) gid = some g' ∧ g'.ops = g.ops ∧ g'.flags = g.flags) ∧
      ∀ j k, (getLane (settleGroup s gid) j k).map apart = (getLane s j k).map apart := by
  obtain ⟨h1, f, hf, hk⟩ := resettled_settledIn (regsOf s g) (preemptPending s g) g
  rw [settleGroup_eq hg hlive]
  generalize settledIn (regsOf s g) (preemptPending s g) g = g2 at h1 hf
  have hgid : g.gid = gid := find_key Group.gid gid s.groups g hg
  have hgroup : ∀ j, getGroup (modGroup s gid fun x => { g2 with gid := x.gid }) j =
      if gid = j then some g2 else getGroup s j := fun j => by
    rw [getGroup_modGroup s gid j (fun x => { g2 with gid := x.gid }) fun _ => rfl]
    split
    · next hj =>
      rw [← hj, hg, Option.map_some, h1]
    · rfl
  refine ⟨⟨rfl, fun j => ?_, fun _ => rfl⟩, ⟨g2, by rw [hgroup, if_pos rfl], by rw [h1], by rw [h1]⟩, fun j k => ?_⟩
  · rw [hgroup]
    split
    · next hj =>
      rw [← hj, hg, Option.map_some, Option.map_some, h1]
      rfl
    · rfl
  · rw [getLane, getLane, hgroup]
    split
    · next hj =>
      rw [← hj, hg, Option.bind_some, Option.bind_some,
        laneThread_map hf (fun t => (congrArg Thread.lane (hk t).1 :)), Option.map_map]
      exact Option.map_congr fun t _ => (hk t).1
    · rfl

/-! ## A store performed -/

/-- A write at a bank to a line that can take one more: its bytes are in memory. -/
theorem bankWrite_fresh {s : State} {key : Nat} (asid n v : Nat) (hf : Fresh s key) :
    SameButBank s (bankWrite s asid key n v) ∧ (bankWrite s asid key n v).mem = memWrite s.mem key n v := by
  have hw : SameButBank s (noteWrite (tagCommons { s with mem := memWrite s.mem key n v } asid key n) key n) :=
    SameButBank.trans (s1 := { s with mem := memWrite s.mem key n v }) rfl
      ((sameButBank_tagCommons ..).trans (sameButBank_noteWrite ..))
  have hver : ¬(keyClass2 s key = true ∧ tget 0 s.versions (key / 64) = 2 ^ 56 - 1) := fun h => by
    have := hf h.1
    omega
  refine ⟨?_, by rw [bankWrite_mem, if_neg hver]⟩
  unfold bankWrite writeLine
  split
  · next hc =>
    dsimp only
    rw [if_neg fun h => hver ⟨hc, h⟩]
    exact hw.trans rfl
  · exact hw

/-- A write of less than a sector clears no poison (R160). -/
theorem clearPoison_short (s : State) {key n : Nat} (hn : n < 32) : clearPoison s [(key, n)] = s := by
  have hkeep : s.poison.filter (fun p => !((List.range 32).all fun i =>
      [(key, n)].any fun w => decide (w.1 ≤ p * 32 + i) && decide (p * 32 + i < w.1 + w.2))) = s.poison := by
    refine List.filter_eq_self.2 fun p _ => ?_
    rw [Bool.not_eq_true', Bool.eq_false_iff]
    intro hall
    rw [List.all_eq_true] at hall
    have h0 := hall 0 (by simp)
    have h31 := hall 31 (by simp)
    simp only [List.any_cons, List.any_nil, Bool.or_false, Bool.and_eq_true, decide_eq_true_eq] at h0 h31
    omega
  rw [clearPoison, hkeep]

section
variable {s : State} {gid : Nat} {e : Env} {op : LongOp} {l key n v : Nat}

/-- The oldest operation of a store queue is not performed. -/
theorem performed_of_queueOf {g : Group} {rest : List LongOp} (hq : queueOf g = op :: rest) : op.performed = false := by
  have hmem : op ∈ queueOf g := by simp [hq]
  have hop := (List.mem_filter.1 hmem).2
  rw [Bool.and_eq_true, Bool.not_eq_true'] at hop
  exact hop.2

/-- The store at the head of a group's queue is performed. -/
theorem performTo_store (hg : getGroup s gid = some e.group) {rest : List LongOp} (hq : queueOf e.group = op :: rest)
    (hp : op.parts = [.store l key n v false]) (hn : n < 32) (asid : Nat) :
    performTo s asid gid op.id = modGroup (bankWrite s asid key n v) gid (performedIn op) := by
  have hm : meetUpsets s (op.parts.flatMap partReadsAt) = s := meetUpsets_none fun u _ => by simp [hp, partReadsAt, upsetIn]
  have hc : clearPoison s (op.parts.flatMap partWrites) = s := by
    rw [hp]
    exact clearPoison_short s hn
  have hr : op.parts.foldl (performPart asid gid op.exec) (performEncodes s asid op.parts, []) =
      (bankWrite s asid key n v, op.parts) := by
    rw [hp]
    rfl
  have hop : performOp s asid gid op = modGroup (bankWrite s asid key n v) gid (performedIn op) := by
    unfold performOp
    rw [if_neg (by simp [performed_of_queueOf hq])]
    dsimp only
    rw [hm, hc, hr]
    rfl
  have hcopy : isNcopyOp op = false := by simp [isNcopyOp, hp]
  simp [performTo, hg, hq, performAll, hcopy, hop]

/-- An operation that is performed already stands in no queue. -/
theorem performTo_performed (hg : getGroup s gid = some e.group) (hop : op ∈ e.group.ops)
    (hnd : (e.group.ops.map (·.id)).Nodup) (hperf : op.performed = true) (asid : Nat) :
    performTo s asid gid op.id = s := by
  have hnone : (queueOf e.group).any (·.id == op.id) = false := by
    rw [List.any_eq_false]
    intro o ho hid
    obtain ⟨hmem, hqueued⟩ := List.mem_filter.1 ho
    obtain rfl := List.inj_on_of_nodup_map hnd hmem hop (by simpa using hid)
    simp [hperf] at hqueued
  simp [performTo, hg, hnone]

end

/-! ## The operation taken away -/

/-- A thread of an operation that completes. -/
def completedThread (op : LongOp) (t : Thread) : Thread :=
  let mine := op.parts.filter fun p => partLane p == t.lane
  let t := mine.foldl (fun t p => match p with | .load _ rs fl => orStat (wrRegs t rs) fl | _ => t) t
  { t with reads := t.reads - (mine.filter partReads).length }

/-- A group whose operation completes. -/
def completedIn (op : LongOp) (g : Group) : Group :=
  let g := stepFlag { g with ops := g.ops.filter (·.id != op.id) } op.flag false
  { g with threads := g.threads.map (completedThread op) }

theorem completedIn_gid (op : LongOp) (g : Group) : (completedIn op g).gid = g.gid := by
  cases hf : op.flag <;> simp [completedIn, stepFlag, hf]

theorem groupFrame_completedIn (op : LongOp) (g : Group) : groupFrame (completedIn op g) = groupFrame g := by
  cases hf : op.flag <;> simp [completedIn, stepFlag, groupFrame, hf]

theorem completedIn_ops (op : LongOp) (g : Group) : (completedIn op g).ops = g.ops.filter (·.id != op.id) := by
  cases hf : op.flag <;> simp [completedIn, stepFlag, hf]

theorem completedIn_threads (op : LongOp) (g : Group) : (completedIn op g).threads = g.threads.map (completedThread op) := by
  cases hf : op.flag <;> simp [completedIn, stepFlag, hf]

theorem flagCount_completedIn (op : LongOp) (g : Group) (n : Nat) :
    flagCount (completedIn op g) n = flagCount g n - if op.flag = some n then 1 else 0 := by
  have hf : flagCount (completedIn op g) n =
      flagCount (stepFlag { g with ops := g.ops.filter (·.id != op.id) } op.flag false) n := rfl
  rw [hf]
  cases op.flag with
  | none => rfl
  | some k =>
    rw [flagCount, stepFlag, tget_tput]
    by_cases hk : k = n
    · subst hk
      simp [flagCount]
    · simp [hk, flagCount]

theorem completeOp_eq {s s1 : State} {asid gid id : Nat} {g : Group} {op : LongOp} (hs : performTo s asid gid id = s1)
    (hg : getGroup s1 gid = some g) (hop : g.ops.find? (·.id == id) = some op) :
    completeOp s asid gid id = modGroup s1 gid (completedIn op) := by
  have hid : op.id = id := by simpa using List.find?_some hop
  subst hid
  unfold completeOp
  rw [hs]
  simp only [hg, Option.bind_some, hop]
  rfl

/-- An operation is found by its number. -/
theorem find?_id {ops : List LongOp} {op : LongOp} (hop : op ∈ ops) (hnd : (ops.map (·.id)).Nodup) :
    ops.find? (·.id == op.id) = some op := by
  have hsome : (ops.find? (·.id == op.id)).isSome = true := List.find?_isSome.2 ⟨op, hop, by simp⟩
  obtain ⟨o, ho⟩ := Option.isSome_iff_exists.1 hsome
  rw [ho, List.inj_on_of_nodup_map hnd (List.mem_of_find?_eq_some ho) hop (by simpa using List.find?_some ho)]

theorem wrRegs_frame (rs : List (Nat × Word)) (t : Thread) : wrRegs t rs = { t with v := (wrRegs t rs).v } := by
  unfold wrRegs
  induction rs generalizing t with
  | nil => rfl
  | cons r rs ih => exact ih (wrReg t r.1 r.2)

/-- A completion moves no thread. -/
theorem completedThread_stands (op : LongOp) (t : Thread) :
    (completedThread op t).status = t.status ∧ (completedThread op t).lane = t.lane := by
  unfold completedThread
  generalize op.parts.filter (fun p => partLane p == t.lane) = mine
  dsimp only
  generalize (mine.filter partReads).length = n
  induction mine generalizing t with
  | nil => exact ⟨rfl, rfl⟩
  | cons p ps ih =>
    rw [List.foldl_cons]
    cases p with
    | load k rs fl =>
      obtain ⟨h1, h2⟩ := ih (orStat (wrRegs t rs) fl)
      exact ⟨h1.trans (by rw [orStat, wrRegs_frame]), h2.trans (by rw [orStat, wrRegs_frame])⟩
    | store => exact ih t
    | encode => exact ih t
    | rmw => exact ih t
    | ncopy => exact ih t

/-- The end of a completion: the operation is taken away in a state in which it is performed, and its group settles. -/
theorem completes {s1 : State} {gid : Nat} {g : Group} {op : LongOp} (hg : getGroup s1 gid = some g)
    (hlive : ∃ t ∈ g.threads, t.status ≠ .exited) :
    let s' := settleGroup (modGroup s1 gid (completedIn op)) gid
    OnlyThreads s1 s' ∧
      ((getGroup s' gid).map (fun x => x.ops.map (·.id)) = some ((g.ops.filter (·.id != op.id)).map (·.id)) ∧
        ∀ n, (getGroup s' gid).map (flagCount · n) = some (flagCount g n - if op.flag = some n then 1 else 0)) ∧
      ∀ j k, (getLane s' j k).map apart =
        ((getLane s1 j k).map fun t => if j = gid then completedThread op t else t).map apart := by
  have hg1 : ∀ j, getGroup (modGroup s1 gid (completedIn op)) j =
      if gid = j then (getGroup s1 j).map (completedIn op) else getGroup s1 j :=
    fun j => getGroup_modGroup s1 gid j (completedIn op) (completedIn_gid op)
  have hgc : getGroup (modGroup s1 gid (completedIn op)) gid = some (completedIn op g) := by
    rw [hg1, if_pos rfl, hg]
    rfl
  have hlive1 : ∃ t ∈ (completedIn op g).threads, t.status ≠ .exited := by
    obtain ⟨t, ht, hs⟩ := hlive
    exact ⟨completedThread op t, completedIn_threads op g ▸ List.mem_map_of_mem ht, by rwa [(completedThread_stands op t).1]⟩
  obtain ⟨h1, ⟨g', hg', hops, hflags⟩, h3⟩ := settleGroup_keeps hgc hlive1
  refine ⟨(onlyThreads_modGroup s1 gid _ (groupFrame_completedIn op)).trans h1, ⟨?_, fun n => ?_⟩, fun j k => ?_⟩
  · rw [hg', Option.map_some, hops, completedIn_ops]
  · rw [hg', Option.map_some, ← flagCount_completedIn, flagCount, flagCount, hflags]
  · rw [h3, getLane, getLane, hg1]
    by_cases hj : gid = j
    · subst hj
      rw [if_pos rfl, hg, Option.map_some, Option.bind_some, Option.bind_some,
        laneThread_map (completedIn_threads op g) fun t => (completedThread_stands op t).2]
      simp
    · simp [hj, Ne.symm hj]

/-! ## The two completions -/

theorem wrRegs_awaits (rs : List (Nat × Word)) (t : Thread) (n : Nat) (p : Option PoisonDue) :
    wrRegs (awaits t n p) rs = awaits (wrRegs t rs) n p := by
  unfold wrRegs
  induction rs generalizing t with
  | nil => rfl
  | cons r rs ih => exact ih (wrReg t r.1 r.2)

section
variable {op : LongOp} {l : Nat} {rs : List (Nat × Word)} {fl : Word}

/-- The thread of a load that completes. -/
theorem completedThread_load (hp : op.parts = [.load l rs fl]) {t : Thread} (ht : t.lane = l) :
    completedThread op t = { orStat (wrRegs t rs) fl with reads := (wrRegs t rs).reads - 1 } := by
  subst ht
  have hreads : [Part.load t.lane rs fl].filter partReads = [.load t.lane rs fl] := rfl
  simp [completedThread, hp, partLane, orStat, hreads]

/-- Another thread, or one whose operation brings no registers, is as it was. -/
theorem completedThread_other {t : Thread} (h : ∀ p ∈ op.parts, partLane p = t.lane → ∃ k n v tbl, p = .store t.lane k n v tbl) :
    completedThread op t = t := by
  have hmine : ∀ p ∈ op.parts.filter (fun p => partLane p == t.lane), ∃ k n v tbl, p = .store t.lane k n v tbl := fun p hp => by
    obtain ⟨hp1, hp2⟩ := List.mem_filter.1 hp
    exact h p hp1 (by simpa using hp2)
  unfold completedThread
  generalize op.parts.filter (fun p => partLane p == t.lane) = mine at hmine
  have hreads : mine.filter partReads = [] := List.filter_eq_nil_iff.2 fun p hp => by
    obtain ⟨k, n, v, tbl, rfl⟩ := hmine p hp
    simp [partReads]
  dsimp only
  rw [hreads]
  induction mine with
  | nil => rfl
  | cons p ps ih =>
    obtain ⟨k, n, v, tbl, rfl⟩ := hmine p (by simp)
    exact ih (fun q hq => hmine q (by simp [hq])) (List.filter_eq_nil_iff.2 fun q hq =>
      (List.filter_eq_nil_iff.1 hreads) q (by simp [hq]))

end

/-- A load that is performed completes: its registers are written. -/
theorem completion_load {s : State} {gid : Nat} {e : Env} {op : LongOp} {l : Nat} {t : Thread} {rs : List (Nat × Word)} {fl : Word}
    (he : env s gid = some e) (hl : getLane s gid l = some t) (hop : op ∈ e.group.ops)
    (hnd : (e.group.ops.map (·.id)).Nodup) (hlive : ∃ x ∈ e.group.threads, x.status ≠ .exited)
    (hperf : op.performed = true) (hp : op.parts = [.load l rs fl]) (hrs : (rs.map (·.1)).Nodup) :
    let s' := settleGroup (completeOp s e.ctx.asid gid op.id) gid
    OnlyThreads s s' ∧
      ((getGroup s' gid).map (fun x => x.ops.map (·.id)) = some ((e.group.ops.filter (·.id != op.id)).map (·.id)) ∧
        ∀ n, (getGroup s' gid).map (flagCount · n) = some (flagCount e.group n - if op.flag = some n then 1 else 0)) ∧
      (∃ t1, Sets rs [] fl (awaits t (t.reads - 1) t.poison) t1 ∧ (getLane s' gid l).map apart = some (apart t1)) ∧
      ∀ g k, ¬(g = gid ∧ k = l) → (getLane s' g k).map apart = (getLane s g k).map apart := by
  have hg := env_group s gid e he
  have hc := completeOp_eq (performTo_performed hg hop hnd hperf e.ctx.asid) hg (find?_id hop hnd)
  obtain ⟨h1, h2, h3⟩ := completes (op := op) hg hlive
  intro s'
  have hs' : s' = settleGroup (modGroup s gid (completedIn op)) gid := congrArg (settleGroup · gid) hc
  rw [hs']
  refine ⟨h1, h2, ⟨applyEff (awaits t (t.reads - 1) t.poison) { regs := rs, flags := fl },
    applyEff_sets _ _ hrs List.nodup_nil, ?_⟩, fun g k hgk => ?_⟩
  · rw [h3, hl, Option.map_some, if_pos rfl, Option.map_some, completedThread_load hp (getLane_lane s gid l t hl), applyEff,
      wrRegs_awaits, wrRegs_frame]
    rfl
  · rw [h3]
    cases ht : getLane s g k with
    | none => rfl
    | some u =>
      rw [Option.map_some]
      split
      · next hgid =>
        have hu : u.lane ≠ l := fun hul => hgk ⟨hgid, (getLane_lane s g k u ht).symm.trans hul⟩
        rw [completedThread_other]
        intro p hpm hpl
        obtain rfl : p = .load l rs fl := by simpa [hp] using hpm
        exact absurd hpl.symm hu
      · rfl

/-- What performing an operation writes in its record. -/
def marked (op o : LongOp) : LongOp := { o with performed := true, parts := op.parts }

/-- The store at the head of its group's queue completes: its bytes are in memory. -/
theorem completion_store {s : State} {gid : Nat} {e : Env} {op : LongOp} {l key n v : Nat} {rest : List LongOp}
    (he : env s gid = some e) (hop : op ∈ e.group.ops) (hnd : (e.group.ops.map (·.id)).Nodup)
    (hlive : ∃ x ∈ e.group.threads, x.status ≠ .exited) (hq : queueOf e.group = op :: rest)
    (hp : op.parts = [.store l key n v false]) (hn : n ≤ 16) (hf : Fresh s key) (hun : Undue e op) :
    let s' := settleGroup (completeOp s e.ctx.asid gid op.id) gid
    StoresAt s s' key n v ∧
      ((getGroup s' gid).map (fun x => x.ops.map (·.id)) = some ((e.group.ops.filter (·.id != op.id)).map (·.id)) ∧
        ∀ n, (getGroup s' gid).map (flagCount · n) = some (flagCount e.group n - if op.flag = some n then 1 else 0)) ∧
      ∀ g k, (getLane s' g k).map apart = (getLane s g k).map apart := by
  have hg := env_group s gid e he
  obtain ⟨hb, hmem⟩ := bankWrite_fresh e.ctx.asid n v hf
  obtain ⟨hs1, hfr, hla⟩ := bankStoreEncode_keeps he hun hb
  have hperf := performTo_store hg hq hp (by omega) e.ctx.asid
  have hg1 : getGroup (modGroup (bankWrite s e.ctx.asid key n v) gid (performedIn op)) gid = some (performedIn op e.group) := by
    rw [getGroup_modGroup _ gid gid (performedIn op) fun _ => rfl, if_pos rfl, getGroup, hb.groups]
    exact congrArg (Option.map _) hg
  generalize modGroup (bankWrite s e.ctx.asid key n v) gid (performedIn op) = s1 at hs1 hfr hla hperf hg1
  have hpg : performedIn op e.group = { e.group with ops := modBy (·.id == op.id) (marked op) e.group.ops } :=
    shareDue_undue _ hun
  rw [hpg] at hg1
  have hfind : (modBy (·.id == op.id) (marked op) e.group.ops).find? (·.id == op.id) = some (marked op op) := by
    rw [find_modBy LongOp.id op.id op.id (marked op) e.group.ops fun _ => rfl, if_pos rfl, find?_id hop hnd]
    rfl
  have hc := completeOp_eq hperf hg1 hfind
  obtain ⟨h1, h2, h3⟩ := completes (op := marked op op) hg1 hlive
  intro s'
  have hs' : s' = settleGroup (modGroup s1 gid (completedIn (marked op op))) gid :=
    congrArg (settleGroup · gid) hc
  rw [hs']
  generalize settleGroup (modGroup s1 gid (completedIn (marked op op))) gid = s2 at h1 h2 h3
  refine ⟨⟨fun a => ?_, ?_, hfr.trans h1.2, ?_⟩, ⟨h2.1.trans ?_, h2.2⟩, fun g k => ?_⟩
  · rw [h1.1, hs1]
    show memGet (bankWrite s e.ctx.asid key n v).mem a = _
    rw [hmem, memGet_memWrite]
  · rw [h1.1, hs1]
  · rw [DiesKeep, h1.1, hs1]
  · have hids : ∀ o : LongOp, (if (o.id == op.id) = true then marked op o else o).id = o.id := fun o => by split <;> rfl
    simp only [modBy, List.filter_map, List.map_map, Function.comp_def, hids]
    rfl
  · rw [h3, ← hla]
    cases ht : getLane s1 g k with
    | none => rfl
    | some u =>
      rw [Option.map_some]
      split
      · rw [completedThread_other]
        intro p hpm hpl
        obtain rfl : p = .store l key n v false := by simpa [marked, hp] using hpm
        exact ⟨key, n, v, false, by rw [← hpl]; rfl⟩
      · rfl

/-- Settles O17: the operation is performed, at once or before, then it leaves its group and the group settles. -/
theorem completionWritesTheResultAndLowersTheFlag : Obligations.CompletionWritesTheResultAndLowersTheFlag := by
  unfold Obligations.CompletionWritesTheResultAndLowersTheFlag
  intro s gid e op l t he hl hop hnd hlive done
  have hexec : exec (.flagCompletion gid op.id) s = .next (settleGroup (completeOp s e.ctx.asid gid op.id) gid) := by
    show execFlagCompletion gid op.id s = _
    rw [execFlagCompletion, he]
  refine ⟨fun rs fl hperf hp hrs => ⟨_, hexec, completion_load he hl hop hnd hlive hperf hp hrs⟩,
    fun rest key n v hq hp hn hf hun => ⟨_, hexec, completion_store he hop hnd hlive hq hp hn hf hun⟩⟩

end Sys2Proof.Machine
end

section
/-!
THE ACCESS OF ONE LANE TO PLAIN BYTES (R67, R68, R79, R151): its plan, the registers of a load and the bytes of a store, and the
operation that it issues.
-/

namespace Sys2Proof.Machine

/-! ## The plan -/

theorem effAddr_eq_accessAt (sp : Space) (rd : Nat → Word) (a : Reg) (off : BitVec 16) :
    effAddr sp rd a off.toInt = accessAt sp rd a off := by
  cases sp <;> simp [effAddr, accessAt, spacePair, pairOf_toNat]

theorem beyond_eq_false {limit : Nat} {ea : Int} {n : Nat} (h0 : 0 ≤ ea) (hlim : ea + n ≤ limit) : beyond limit ea n = false := by
  rw [beyond, Bool.or_eq_false_iff, decide_eq_false_iff_not, decide_eq_false_iff_not]
  omega

section
variable {s : State} {e : Env} {sp : Space} {m : MemOp} {k : AccKind} {l : Nat} {rd : Nat → Word} {t : Thread} {key : Nat}

/-- The access of a lane to plain bytes. -/
def plainAcc (ea : Int) (key data : Nat) (tbl : Bool) (mt : Nat) : Acc := ⟨ea.toNat, key, 0, 0, tbl, mt, false, data, 0⟩

/-- What is left of the plan of an access that lands on plain bytes: an empty scratch line holds a read. -/
theorem planMem_lands (hl : LandsAt s e l sp k (accessAt sp rd m.a m.off) (widBytes m.wid) key) (data : Nat) :
    ∃ tbl mt, locate s e l sp k (accessAt sp rd m.a m.off).toNat (widBytes m.wid) = .ok key 0 0 tbl mt ∧
      planMem s e sp m k l rd t data =
        match (if sp == .scr && k == .read then lineEmpty s key (widBytes m.wid) else none) with
        | some line => .wait (.line line) none
        | none => .go t (plainAcc (accessAt sp rd m.a m.off) key data tbl mt) := by
  obtain ⟨hacq, h0, hlim, hal, tbl, mt, hloc⟩ := hl
  have hres : formatReserved 0 0 = false := rfl
  refine ⟨tbl, mt, hloc, ?_⟩
  simp only [planMem, effAddr_eq_accessAt, hacq, beyond_eq_false h0 hlim, hloc, onXlat, hres, hal]
  rfl

/-- The plan of an access that lands on plain bytes, where no empty line holds it. -/
theorem planMem_go (hl : LandsAt s e l sp k (accessAt sp rd m.a m.off) (widBytes m.wid) key) (data : Nat)
    (hline : sp = .scr → k = .read → lineEmpty s key (widBytes m.wid) = none) :
    ∃ tbl mt, locate s e l sp k (accessAt sp rd m.a m.off).toNat (widBytes m.wid) = .ok key 0 0 tbl mt ∧
      planMem s e sp m k l rd t data = .go t (plainAcc (accessAt sp rd m.a m.off) key data tbl mt) := by
  obtain ⟨tbl, mt, hloc, hp⟩ := planMem_lands (t := t) hl data
  have hnone : (if sp == .scr && k == .read then lineEmpty s key (widBytes m.wid) else none) = none := by
    split
    · next hc =>
      rw [Bool.and_eq_true, beq_iff_eq, beq_iff_eq] at hc
      exact hline hc.1 hc.2
    · rfl
  exact ⟨tbl, mt, hloc, by rw [hp, hnone]⟩

end

/-- A page outside host memory has memory type 0. -/
theorem checkLeaf_mt {s : State} {c : Context} {die va key fmt geom mt : Nat} {k : AccKind} {x : TlbEnt} {tbl : Bool}
    (h : checkLeaf s c die false k va x = .ok key fmt geom tbl mt) : mt = 0 := by
  by_cases hm : pteMt x.leaf = 0
  · simp only [checkLeaf, hm, bne_self_eq_false, Bool.false_eq_true, if_false] at h
    repeat' split at h
    all_goals cases h
    all_goals rfl
  · simp [checkLeaf, hm] at h

theorem locate_mt {s : State} {e : Env} {l ea n key fmt geom mt : Nat} {sp : Space} {k : AccKind} {tbl : Bool}
    (hsp : sp = .priv ∨ sp = .scr ∨ sp = .cmn ∨ sp = .glb) (h : locate s e l sp k ea n = .ok key fmt geom tbl mt) : mt = 0 := by
  have hglb : ∀ c die, translate s c die false k ea n = .ok key fmt geom tbl mt → mt = 0 := fun c die h => by
    unfold translate at h
    dsimp only at h
    split at h
    · repeat' split at h
      all_goals cases h
      all_goals rfl
    split at h
    · cases h
    split at h
    · cases h
    · exact checkLeaf_mt h
  rcases hsp with rfl | rfl | rfl | rfl
  · rw [locate, if_pos (by decide)] at h
    cases h
    rfl
  · rw [locate, if_neg (by decide)] at h
    dsimp only [locateAt] at h
    split at h
    · cases h
    · cases h
      rfl
  · rw [locate, if_neg (by decide)] at h
    dsimp only [locateAt] at h
    split at h
    · cases h
    · cases h
      rfl
  · exact hglb _ _ h

/-! ## Registers of a load, bytes of a store -/

/-- A load of bytes writes what its width and type say (R151). -/
theorem loadRegs_eq_loaded (m : MemOp) {x : Nat} (hx : x < 256 ^ widBytes m.wid) : loadRegs m x = loaded m x := by
  have hnarrow : ∀ n, x < 256 ^ n → n ≤ 4 → (if (m.ty == .signed) = true then BitVec.ofInt 32 (sextN x (8 * n)) else BitVec.ofNat 32 x) =
      if m.ty = .signed then (BitVec.ofNat (8 * n) x).signExtend 32 else (BitVec.ofNat (8 * n) x).setWidth 32 := fun n hn h4 => by
    have hlt : x < 2 ^ (8 * n) := by rw [Nat.pow_mul]; exact hn
    by_cases hs : m.ty = .signed
    · rw [if_pos (by simp [hs]), if_pos hs, BitVec.signExtend, toInt_eq_sextN _ rfl, BitVec.toNat_ofNat, Nat.mod_eq_of_lt hlt]
    · rw [if_neg (by simpa using hs), if_neg hs]
      exact BitVec.eq_of_toNat_eq (by simp [Nat.mod_eq_of_lt hlt])
  unfold loadRegs loaded
  cases hw : m.wid with
  | w1 => rw [hw] at hx; simp only [hnarrow 1 hx (by omega), widBytes]
  | w2 => rw [hw] at hx; simp only [hnarrow 2 hx (by omega), widBytes]
  | w4 => rw [hw] at hx; simp only [hnarrow 4 hx (by omega), widBytes]
  | w8 => exact pairRegs_eq_toPair m.d x
  | w16 =>
    rw [← pairRegs_eq_toPair]
    simp [List.range_succ, pairRegs]

/-- No register stands twice in what a load writes. -/
theorem loaded_nodup (m : MemOp) (x : Nat) : ((loaded m x).map (·.1)).Nodup := by
  unfold loaded
  cases m.wid <;> simp [toPair]

theorem storeData_eq_stored (m : MemOp) (rd : Nat → Word) : storeData m rd = stored m rd := by
  have h0 := (rd m.d.toNat).isLt
  have h1 := (rd (m.d.toNat + 1)).isLt
  unfold storeData stored
  cases m.wid with
  | w1 | w2 | w4 => simp
  | w8 =>
    simp only [pairOf, widBytes]
    simp
    omega
  | w16 =>
    have hn : m.d.toNat + 2 + 1 = m.d.toNat + 3 := rfl
    simp only [pairOf, widBytes, hn]
    simp
    omega

theorem widBytes_le (w : Wid) : widBytes w ≤ 16 := by cases w <;> decide

/-! ## The operation issued -/

/-- The operation that an instruction with one part issues. -/
def newOp (id : Nat) (x : ExecRec) (flag : Option Nat) (queued acquire : Bool) (p : Part) : LongOp :=
  { id := id, flag := flag, queued := queued, performed := !queued, acquire := acquire, exec := x, parts := [p] }

section
variable (s : State) (c : Cur) (e : Env) (x : ExecRec) (flag : Option Nat) (queued acquire : Bool) (p : Part)

theorem issueOp_one : issueOp s c e x flag queued acquire [p] = countEvent (modGroup { s with nextId := s.nextId + 1 } c.gid
    (issuedIn (newOp s.nextId x flag queued acquire p))) e.ctx.asid 1 1 := by
  rw [issueOp, if_neg (by simp)]
  dsimp only
  congr 2
  funext g
  cases flag <;> rfl

theorem getGroup_issueOp (j : Nat) : getGroup (issueOp s c e x flag queued acquire [p]) j =
    if c.gid = j then (getGroup s j).map (issuedIn (newOp s.nextId x flag queued acquire p)) else getGroup s j := by
  rw [issueOp_one]
  exact getGroup_modGroup { s with nextId := s.nextId + 1 } c.gid j _ (issuedIn_gid _)

theorem getLane_issueOp (j k : Nat) : getLane (issueOp s c e x flag queued acquire [p]) j k =
    if c.gid = j ∧ partLane p = k then (getLane s j k).map fun t => { t with reads := t.reads + (partReads p).toNat }
    else getLane s j k := by
  rw [getLane, getLane, getGroup_issueOp]
  by_cases hj : c.gid = j
  · subst hj
    cases getGroup s c.gid with
    | none => simp
    | some g1 =>
      simp only [if_true, Option.map_some, Option.bind_some, laneThread_issuedIn, true_and]
      cases ht : laneThread g1 k with
      | none => simp
      | some u =>
        have hu : u.lane = k := by simpa using List.find?_some ht
        have hlen : ([p].filter fun q => partLane q == u.lane && partReads q).length =
            if partLane p = k then (partReads p).toNat else 0 := by
          by_cases hk : partLane p = k <;> cases hr : partReads p <;> simp [hu, hk, hr]
        simp only [newOp, Option.map_some, hlen]
        split <;> rfl
  · simp [hj]

theorem onlyThreads_issueOp : OnlyThreads s (issueOp s c e x flag queued acquire [p]) := by
  have hid : OnlyThreads s { s with nextId := s.nextId + 1 } := ⟨rfl, fun _ => rfl, fun _ => rfl⟩
  rw [issueOp_one]
  exact (hid.trans (onlyThreads_modGroup _ c.gid _ (groupFrame_issuedIn _))).trans (onlyThreads_countEvent ..)

end

section
variable {s : State} {c : Cur} {e : Env} {g : Guard} {us : List RegUse} {l : Nat} {t t0 : Thread} {rd : Nat → Word}

/-- The one lane's part is issued, in a state that has the groups of its going on with thread `t1`. -/
theorem Lone.issuesOp (h : Lone s c e g us l t t0 rd) {t1 : Thread} (ht : t1.lane = l) {s1 : State} (hs : OnlyThreads s s1)
    (hg : s1.groups = (wentOn s c g l t1).groups) (x : ExecRec) (flag : Option Nat) (queued acquire : Bool) {p : Part}
    (hp : partLane p = l) :
    let s' := countEvent (issueOp s1 c e x flag queued acquire [p]) e.ctx.asid 0 1
    OnlyThreads s s' ∧ LaneBecomes s s' c l (goOn c.next (awaits t1 (t1.reads + (partReads p).toNat) t1.poison)) ∧
      Issued s s' c.gid flag (newOp s1.nextId x flag queued acquire p) := by
  obtain ⟨g1, hg1, hops, hflags⟩ := h.getGroup_wentOn t1
  rw [getGroup, ← hg, ← getGroup] at hg1
  obtain ⟨hb1, hb2⟩ := h.becomes_wentOn ht
  rw [← getLane_groups _ s1 hg] at hb1
  have hlane : ∀ j k, getLane (countEvent (issueOp s1 c e x flag queued acquire [p]) e.ctx.asid 0 1) j k =
      getLane (issueOp s1 c e x flag queued acquire [p]) j k := fun j k => getLane_groups _ _ rfl j k
  refine ⟨(hs.trans (onlyThreads_issueOp ..)).trans (onlyThreads_countEvent ..), ⟨?_, fun j k hk => ?_⟩, rfl, e.group,
    issuedIn (newOp s1.nextId x flag queued acquire p) g1, env_group s c.gid e h.env, ?_, ?_, fun n => ?_⟩
  · rw [hlane, getLane_issueOp, if_pos ⟨rfl, hp⟩, hb1, Option.map_some]
    exact congrArg some (goOn_reads ..)
  · rw [hlane, getLane_issueOp, if_neg fun hc => hk ⟨hc.1.symm, hc.2.symm.trans hp⟩, getLane_groups _ s1 hg, hb2 j k hk]
  · show getGroup (issueOp s1 c e x flag queued acquire [p]) c.gid = _
    rw [getGroup_issueOp, if_pos rfl, hg1]
    rfl
  · rw [issuedIn_ops, hops]
  · rw [flagCount_issuedIn, flagCount, flagCount, hflags]
    rfl

end

end Sys2Proof.Machine
end

section
/-!
LOADS, AND THE SHORT ACCESSES TO SCRATCH (R67, R68, R151, R153, R155, R160), and obligation O15.
-/

namespace Sys2Proof.Machine

/-! ## Loads that count on a flag -/

theorem drainGroup_idle {s : State} {gid : Nat} {g : Group} (asid : Nat) (hg : getGroup s gid = some g) (hq : queueOf g = []) :
    drainGroup s asid gid = s := by
  simp only [drainGroup, hg, hq]
  rfl

/-- A poison fault that becomes due (R160). -/
def dueFor (bad : Bool) (d : PoisonDue) (t : Thread) : Option PoisonDue := if bad then t.poison.or (some d) else t.poison

theorem goOn_poison (next : Nat) (d : Option PoisonDue) (t : Thread) :
    { goOn next t with poison := (goOn next t).poison.or d } = goOn next (awaits t t.reads (t.poison.or d)) := by
  have hend : blockEnd (awaits t t.reads (t.poison.or d)) = blockEnd t := rfl
  unfold goOn
  rw [hend]
  split <;> rfl

theorem onlyThreads_poisoned {s s1 : State} (h : OnlyThreads s s1) (key n : Nat) : poisoned s1 key n = poisoned s key n := by
  rw [h.1]
  rfl

section
variable {s : State} {c : Cur} {e : Env} {g : Guard} {us : List RegUse} {l : Nat} {t t0 : Thread} {rd : Nat → Word}
variable {sp : Space} {m : MemOp} {key : Nat}

/-- The group's queue once the lanes have gone on. -/
theorem Lone.queueOf_wentOn (h : Lone s c e g us l t t0 rd) (t1 : Thread) :
    ∃ g1, getGroup (wentOn s c g l t1) c.gid = some g1 ∧ queueOf g1 = queueOf e.group := by
  obtain ⟨g1, hg1, hops, -⟩ := h.getGroup_wentOn t1
  exact ⟨g1, hg1, by rw [queueOf, queueOf, hops]⟩

/-- Nothing is done before the load of bytes that no store of the group waits to write and no error has met. -/
theorem Lone.beforeLoads_eq (h : Lone s c e g us l t t0 rd) {ea : Int} {tbl : Bool} {mt : Nat}
    (hun : Unqueued e key (widBytes m.wid)) (hmt : mt ≠ 0 → queueOf e.group = [])
    (hup : ∀ u ∈ s.upsets, upsetIn [(key, widBytes m.wid)] u = false) (t1 : Thread) :
    beforeLoads (wentOn s c g l t1) e.ctx.asid c.gid m [(l, plainAcc ea key 0 tbl mt)] = wentOn s c g l t1 := by
  obtain ⟨g1, hg1, hq⟩ := h.queueOf_wentOn t1
  have hr : [(l, plainAcc ea key 0 tbl mt)].flatMap (fun x => accRanges m x.2) = [(key, widBytes m.wid)] := by
    simp [accRanges, plainAcc]
  have hqueue : (if ([(l, plainAcc ea key 0 tbl mt)].any fun x => uncached x.2) = true then
      drainGroup (wentOn s c g l t1) e.ctx.asid c.gid
      else settleLoads (wentOn s c g l t1) e.ctx.asid c.gid [(key, widBytes m.wid)]) = wentOn s c g l t1 := by
    split
    · next hu =>
      have hmt0 : mt ≠ 0 := by
        rintro rfl
        simp [uncached, plainAcc] at hu
      exact drainGroup_idle _ hg1 (hq.trans (hmt hmt0))
    · refine settleLoads_unqueued _ hg1 fun r hr o ho p hp => ?_
      obtain rfl := List.mem_singleton.1 hr
      exact hun o (hq ▸ ho) p hp
  unfold beforeLoads
  dsimp only
  rw [hr, hqueue]
  exact meetUpsets_none hup

/-- What the load of one lane reads in a state that has the lane's bytes: zeros from a poisoned sector. -/
theorem loadLanes_one {s1 : State} (h1 : OnlyThreads s s1) (gid pc : Nat) (x : ExecRec) (ea : Int) (tbl : Bool) (mt : Nat) :
    loadLanes gid pc x m [(l, plainAcc ea key 0 tbl mt)] s1 =
      (if poisoned s key (widBytes m.wid) then duePoison s1 gid l pc ea.toNat x else s1,
        [(l, loaded m (if poisoned s key (widBytes m.wid) then 0 else memRead s.mem key (widBytes m.wid)), 0)]) := by
  have hbad : ((accRanges m (plainAcc ea key 0 tbl mt)).any fun k => poisoned s1 k.1 k.2) =
      poisoned s key (widBytes m.wid) := by
    simp [accRanges, plainAcc, onlyThreads_poisoned h1]
  have hval : loadValue s1 m (plainAcc ea key 0 tbl mt) = (loaded m (memRead s.mem key (widBytes m.wid)), 0) := by
    rw [← loadRegs_eq_loaded m (memRead_lt ..), h1.1]
    rfl
  simp only [loadLanes, List.foldl_cons, List.foldl_nil, loadLane, hbad, hval]
  split
  · rw [← loadRegs_eq_loaded m (x := 0) (by positivity)]
    rfl
  · rfl

/-- A poison fault that becomes due in the lane that has gone on, as one of the thread that goes on. -/
theorem groups_duePoison {s1 : State} (ht : t0.lane = l) (hg : s1.groups = (wentOn s c g l t0).groups) (bad : Bool) (pc ea : Nat)
    (x : ExecRec) : (if bad then duePoison s1 c.gid l pc ea x else s1).groups =
      (wentOn s c g l (awaits t0 t0.reads (dueFor bad ⟨pc, ea, x⟩ t0))).groups := by
  cases bad with
  | false => exact hg
  | true =>
    have hm : ∀ f, (modLane s1 c.gid l f).groups = (modLane (wentOn s c g l t0) c.gid l f).groups := fun f => by
      simp only [modLane, modGroup, hg]
    show (duePoison s1 c.gid l pc ea x).groups = _
    rw [duePoison, hm, wentOn, wentOn, modLane_modLane _ _ _ _ _ fun _ _ => advance_lane c l t0 ht]
    congr 2
    funext _
    exact goOn_poison ..

theorem onlyThreads_duePoison (bad : Bool) (s : State) (gid l pc ea : Nat) (x : ExecRec) :
    OnlyThreads s (if bad then duePoison s gid l pc ea x else s) := by
  cases bad with
  | false => exact ⟨rfl, fun _ => rfl, fun _ => rfl⟩
  | true => exact onlyThreads_modLane ..

/-- A load of one lane from plain bytes is issued with the value that stands in memory. -/
theorem Lone.load_plain (h : Lone s c e g (memUses false sp m) l t t0 rd) (hsp : sp ≠ .ios) (hscr : sp ≠ .scr)
    (hflag : flagFull e.group (curFlag e.group c m.ss) = false)
    (hl : LandsAt s e l sp .read (accessAt sp rd m.a m.off) (widBytes m.wid) key) (hun : Unqueued e key (widBytes m.wid))
    (hq : sp = .hst → queueOf e.group = []) (hup : ∀ u ∈ s.upsets, upsetIn [(key, widBytes m.wid)] u = false) :
    ∃ s' op, loadOp sp g m s = .next s' ∧ OnlyThreads s s' ∧
      LaneBecomes s s' c l (goOn c.next (awaits t0 (t0.reads + 1)
        (dueFor (poisoned s key (widBytes m.wid)) ⟨c.pc, (accessAt sp rd m.a m.off).toNat, execRec s c e g⟩ t0))) ∧
      Issued s s' c.gid (curFlag e.group c m.ss) op ∧ op.queued = false ∧ op.performed = true ∧
      op.acquire = (m.ord == .acq) ∧
      op.parts = [.load l (loaded m (if poisoned s key (widBytes m.wid) then 0
        else memRead s.mem key (widBytes m.wid))) 0] := by
  obtain ⟨tbl, mt, hloc, hplan⟩ := planMem_go (t := t0) hl 0 fun hs => absurd hs hscr
  have hmt : mt ≠ 0 → queueOf e.group = [] := fun hm => by
    cases sp with
    | ios => exact absurd rfl hsp
    | hst => exact hq rfl
    | priv | scr | cmn | glb => exact absurd (locate_mt (by simp) hloc) hm
  have hbefore := h.beforeLoads_eq (ea := accessAt sp rd m.a m.off) (tbl := tbl) hun hmt hup t0
  have h1 : OnlyThreads s (touchFrame (wentOn s c g l t0) e.group.die key) :=
    (onlyThreads_wentOn ..).trans (onlyThreads_touchFrame ..)
  have hload := loadLanes_one (l := l) (m := m) (key := key) h1 c.gid c.pc (execRec s c e g) (accessAt sp rd m.a m.off) tbl mt
  have hgroups := groups_duePoison h.taken_lane (touchFrame_groups (wentOn s c g l t0) e.group.die key)
    (poisoned s key (widBytes m.wid)) c.pc (accessAt sp rd m.a m.off).toNat (execRec s c e g)
  have ht1 : (awaits t0 t0.reads (dueFor (poisoned s key (widBytes m.wid))
      ⟨c.pc, (accessAt sp rd m.a m.off).toNat, execRec s c e g⟩ t0)).lane = l := h.taken_lane
  obtain ⟨r1, r2, r3⟩ := h.issuesOp ht1 (h1.trans (onlyThreads_duePoison ..)) hgroups (execRec s c e g)
    (curFlag e.group c m.ss) false (m.ord == .acq)
    (p := .load l (loaded m (if poisoned s key (widBytes m.wid) then 0 else memRead s.mem key (widBytes m.wid))) 0) rfl
  refine ⟨_, _, ?_, r1, r2, r3, rfl, rfl, rfl, rfl⟩
  unfold loadOp longOp withCur
  simp only [h.cur, h.env, hflag, Bool.false_eq_true, if_false]
  rw [h.plansAt_go hplan, hbefore]
  have htouch : touchAccs (wentOn s c g l t0) e.group.die [(l, plainAcc (accessAt sp rd m.a m.off) key 0 tbl mt)] =
      touchFrame (wentOn s c g l t0) e.group.die key := rfl
  rw [htouch, hload]
  rfl

end

/-! ## Short accesses -/

theorem wrRegs_goOn (next : Nat) (rs : List (Nat × Word)) (t : Thread) : wrRegs (goOn next t) rs = goOn next (wrRegs t rs) := by
  have hwr : ∀ (t : Thread) (r : Nat × Word), wrReg (goOn next t) r.1 r.2 = goOn next (wrReg t r.1 r.2) := fun t r => by
    have hend : blockEnd (wrReg t r.1 r.2) = blockEnd t := rfl
    unfold goOn
    rw [hend]
    split <;> rfl
  unfold wrRegs
  induction rs generalizing t with
  | nil => rfl
  | cons r rs ih => rw [List.foldl_cons, List.foldl_cons, hwr, ih]

section
variable {s : State} {c : Cur} {e : Env} {g : Guard} {us : List RegUse} {l : Nat} {t t0 : Thread} {rd : Nat → Word}
variable {m : MemOp} {key : Nat}

/-- A thread that waits at its word. -/
def stallAt (w : Stall) (t : Thread) : Thread := { t with stall := some w }

/-- The one lane's plan is a wait that asks for nothing: the lane waits at its word, and nothing is committed. -/
theorem Lone.plansAt_wait (h : Lone s c e g us l t t0 rd) {α : Type} {plan : State → Nat → (Nat → Word) → Thread → Plan α}
    {commit : List (Nat × α) → State → State} {w : Stall} (hp : plan s l rd t0 = .wait w none)
    (hw : ∀ a f v, w ≠ .backing a f v) :
    plansAt s c e g anywhere us plan commit =
      countEvent (commit [] (modLane (idled s c g) c.gid l (stallAt w))) e.ctx.asid 0 0 := by
  have hplan : planLane s e (execRec s c e g) us l (plan s) = .wait w none := by
    obtain ⟨ov, ho, rfl⟩ := h.taken
    rw [planLane, env_gid s c.gid e h.env, h.lane]
    simp only [ho, hp]
  have hidle := idle_fold s c (c.lanes.filter fun k => !([l].contains k)) (h.nodup.filter _)
  have hback : backers [(l, (.wait w none : Plan α))] = [] := by
    cases w with
    | backing a f v => exact absurd rfl (hw a f v)
    | _ => rfl
  unfold plansAt
  rw [if_neg (by simp [anywhere, h.pairs])]
  simp only [h.still, h.only, List.map_cons, List.map_nil, hplan, List.flatMap_cons, List.flatMap_nil, planMisses,
    List.append_nil]
  simp only [finishPlans, hidle, hback, List.foldl_cons, List.foldl_nil, placeLane, goers, faulters, besideParked,
    List.filterMap_cons, List.filterMap_nil, List.isEmpty_nil, if_true, raise_nil, List.map_nil, dropWalkFaults_nil,
    List.length_nil]
  rw [idled, idleLanes, h.only]
  rfl

/-- The one lane waits at its word, and the others have gone on. -/
theorem Lone.becomes_stalled (h : Lone s c e g us l t t0 rd) (w : Stall) :
    LaneBecomes s (countEvent (modLane (idled s c g) c.gid l (stallAt w)) e.ctx.asid 0 0) c l { t with stall := some w } := by
  have hget : ∀ gid k, getLane (countEvent (modLane (idled s c g) c.gid l (stallAt w)) e.ctx.asid 0 0) gid k =
      if c.gid = gid ∧ l = k then (getLane (idled s c g) gid k).map (stallAt w) else getLane (idled s c g) gid k :=
    fun gid k => (getLane_groups _ _ rfl gid k).trans (getLane_modLane _ _ _ _ _ _ fun _ ht => ht)
  have hwent : ∀ gid k, getLane (wentOn s c g l t0) gid k =
      if c.gid = gid ∧ l = k then (getLane (idled s c g) gid k).map fun _ => advance c t0 else getLane (idled s c g) gid k :=
    fun gid k => getLane_modLane _ _ _ _ _ _ fun _ _ => advance_lane c l t0 h.taken_lane
  refine ⟨?_, fun gid k hk => ?_⟩
  · rw [hget, if_pos ⟨rfl, rfl⟩, getLane_idled_active s c g c.gid l h.active, h.lane]
    rfl
  · have hne : ¬(c.gid = gid ∧ l = k) := fun hc => hk ⟨hc.1.symm, hc.2.symm⟩
    rw [hget, if_neg hne, ← (h.becomes_wentOn h.taken_lane).2 gid k hk, hwent, if_neg hne]

/-- With no access there is nothing to do before it. -/
theorem beforeLoads_nil (s : State) (asid gid : Nat) (m : MemOp) : beforeLoads s asid gid m [] = s := by
  have hs : settleLoads s asid gid [] = s := by
    unfold settleLoads
    split
    · rfl
    · simp
  unfold beforeLoads
  dsimp only
  rw [List.flatMap_nil, List.any_nil, if_neg Bool.false_ne_true, hs]
  exact meetUpsets_none fun _ _ => rfl

/-- The line of a scratch byte has no version (R364). -/
theorem fresh_scr {s s1 : State} {e : Env} {l ea n fmt geom mt : Nat} {k : AccKind} {tbl : Bool}
    (h : locate s e l .scr k ea n = .ok key fmt geom tbl mt) : Fresh s1 key := by
  rw [locate, if_neg (by decide)] at h
  dsimp only [locateAt] at h
  split at h
  · cases h
  · cases h
    have hkind : keyKind (keyScr e.team.tid ea) ≠ 1 := by
      unfold keyKind keyScr memKey
      omega
    intro hc
    simp [keyClass2, keyFrame, hkind] at hc

/-- Bytes written at a bank, and beside them only threads. -/
theorem storesAt_of_bank {s s1 s2 s3 : State} {n v : Nat} (h1 : OnlyThreads s s1) (hb : SameButBank s1 s2)
    (hm : s2.mem = memWrite s1.mem key n v) (h3 : OnlyThreads s2 s3) : StoresAt s s3 key n v := by
  have hfr : Framed s1 s2 := by
    refine ⟨fun j => ?_, fun a => ?_⟩
    · rw [getGroup, hb.groups]
      rfl
    · rw [getCtx, hb.contexts]
      rfl
  refine ⟨fun a => ?_, ?_, (h1.2.trans hfr).trans h3.2, ?_⟩
  · rw [h3.1]
    show memGet s2.mem a = _
    rw [hm, memGet_memWrite, h1.1]
  · rw [h3.1, hb, h1.1]
  · rw [DiesKeep, h3.1, hb, h1.1]

/-- A load from a full scratch line delivers its bytes at once (R155). -/
theorem Lone.lds_full (h : Lone s c e g (memUses false .scr m) l t t0 rd)
    (hl : LandsAt s e l .scr .read (accessAt .scr rd m.a m.off) (widBytes m.wid) key) (hun : Unqueued e key (widBytes m.wid))
    (hline : lineEmpty s key (widBytes m.wid) = none) (hclean : Clean s key (widBytes m.wid)) :
    ∃ s' t1, exec (.lds g m) s = .next s' ∧ OnlyThreads s s' ∧
      Sets (loaded m (memRead s.mem key (widBytes m.wid))) [] 0 t0 t1 ∧ LaneBecomes s s' c l (goOn c.next t1) := by
  obtain ⟨tbl, mt, hloc, hplan⟩ := planMem_go (t := t0) hl 0 fun _ _ => hline
  obtain ⟨hup, hpo⟩ := hclean
  have hmt : mt ≠ 0 → queueOf e.group = [] := fun hm => absurd (locate_mt (by simp) hloc) hm
  have hbefore := h.beforeLoads_eq (ea := accessAt .scr rd m.a m.off) (tbl := tbl) hun hmt hup t0
  have hload := loadLanes_one (l := l) (m := m) (key := key) (onlyThreads_wentOn s c g l t0) c.gid c.pc (execRec s c e g)
    (accessAt .scr rd m.a m.off) tbl mt
  simp only [hpo, Bool.false_eq_true, if_false] at hload
  have hsets : Sets (loaded m (memRead s.mem key (widBytes m.wid))) [] 0 t0
      (applyEff t0 { regs := loaded m (memRead s.mem key (widBytes m.wid)) }) :=
    applyEff_sets t0 _ (loaded_nodup ..) List.nodup_nil
  have heff : applyEff t0 { regs := loaded m (memRead s.mem key (widBytes m.wid)) } =
      wrRegs t0 (loaded m (memRead s.mem key (widBytes m.wid))) := by
    simp [applyEff, orStat]
  rw [heff] at hsets
  generalize loaded m (memRead s.mem key (widBytes m.wid)) = rs at hload hsets
  have hwr : modLane (wentOn s c g l t0) c.gid l (fun t => wrRegs t rs) = wentOn s c g l (wrRegs t0 rs) := by
    rw [wentOn, wentOn, modLane_modLane _ _ _ _ _ fun _ _ => advance_lane c l t0 h.taken_lane]
    congr 1
    funext _
    exact wrRegs_goOn ..
  refine ⟨countEvent (wentOn s c g l (wrRegs t0 rs)) e.ctx.asid 0 1, _, ?_,
    (onlyThreads_wentOn ..).trans (onlyThreads_countEvent ..), hsets, h.becomes_wentOn ((wrRegs_lane ..).trans h.taken_lane)⟩
  show execLds g m s = _
  unfold execLds withCur
  simp only [h.cur, h.env]
  rw [h.plansAt_go hplan, hbefore, hload, ← hwr]
  rfl

/-- A load from an empty scratch line waits for it (R155). -/
theorem Lone.lds_empty (h : Lone s c e g (memUses false .scr m) l t t0 rd)
    (hl : LandsAt s e l .scr .read (accessAt .scr rd m.a m.off) (widBytes m.wid) key) {line : Nat}
    (hline : lineEmpty s key (widBytes m.wid) = some line) :
    ∃ s', exec (.lds g m) s = .next s' ∧ OnlyThreads s s' ∧
      LaneBecomes s s' c l { t with stall := some (.line line) } := by
  obtain ⟨tbl, mt, hloc, hplan⟩ := planMem_lands (t := t0) hl 0
  rw [if_pos (by decide), hline] at hplan
  refine ⟨countEvent (modLane (idled s c g) c.gid l (stallAt (.line line))) e.ctx.asid 0 0, ?_,
    (onlyThreads_idled_modLane s c g l _).trans (onlyThreads_countEvent ..), h.becomes_stalled _⟩
  show execLds g m s = _
  unfold execLds withCur
  simp only [h.cur, h.env]
  rw [h.plansAt_wait hplan fun _ _ _ => Stall.noConfusion]
  exact congrArg (fun s => Host.Outcome.next (countEvent s e.ctx.asid 0 0)) (beforeLoads_nil ..)

/-- A store to scratch writes its bytes at once, and changes no full/empty bit (R155). -/
theorem Lone.sts_stores (h : Lone s c e g (memUses true .scr m) l t t0 rd)
    (hl : LandsAt s e l .scr .write (accessAt .scr rd m.a m.off) (widBytes m.wid) key) (hq : queueOf e.group = [])
    (hrel : m.ord = .rel → copiesOf s c.gid = []) :
    ∃ s', exec (.sts g m) s = .next s' ∧ StoresAt s s' key (widBytes m.wid) (stored m rd) ∧
      LaneBecomes s s' c l (goOn c.next t0) := by
  obtain ⟨tbl, mt, hloc, hplan⟩ := planMem_go (t := t0) hl (storeData m rd) nofun
  obtain ⟨g1, hg1, hq1⟩ := h.queueOf_wentOn t0
  have hbefore : (if m.ord == .rel then releaseGroup (wentOn s c g l t0) e.ctx.asid c.gid
      else drainGroup (wentOn s c g l t0) e.ctx.asid c.gid) = wentOn s c g l t0 := by
    split
    · next hr => exact releaseGroup_performed _ hg1 (hq1.trans hq) (hrel (by simpa using hr))
    · exact drainGroup_idle _ hg1 (hq1.trans hq)
  obtain ⟨hb, hmem⟩ := bankWrite_fresh (s := wentOn s c g l t0) e.ctx.asid (widBytes m.wid) (stored m rd) (fresh_scr hloc)
  obtain ⟨hlane, hothers⟩ := h.becomes_wentOn h.taken_lane
  refine ⟨countEvent (bankWrite (wentOn s c g l t0) e.ctx.asid key (widBytes m.wid) (stored m rd)) e.ctx.asid 0 1, ?_,
    storesAt_of_bank (onlyThreads_wentOn s c g l t0) hb hmem (onlyThreads_countEvent ..), ?_, fun gid k hk => ?_⟩
  · show execSts g m s = _
    unfold execSts withCur
    simp only [h.cur, h.env]
    rw [h.plansAt_go hplan, hbefore, ← storeData_eq_stored]
    exact congrArg (fun s => Host.Outcome.next (countEvent s e.ctx.asid 0 1))
      (clearPoison_short _ (by have := widBytes_le m.wid; omega))
  · rw [getLane_groups _ (countEvent _ _ _ _) hb.groups]
    exact hlane
  · rw [getLane_groups _ (countEvent _ _ _ _) hb.groups]
    exact hothers gid k hk

end

/-! ## O15 -/

/-- Settles O15: a load is planned, reads the bytes at issue and is issued on the flag of its block; in scratch the line's bit
decides whether it reads or waits. -/
theorem loadsReadTheirBytesAndCountOnTheirFlag : Obligations.LoadsReadTheirBytesAndCountOnTheirFlag := by
  refine ⟨fun g m x hx s c e l t t0 rd key h hflag hl hun hq hup => ?_, fun g m s c e l t t0 rd key => ⟨fun h hl hun => ⟨?_, ?_⟩, ?_⟩⟩
  · simp only [List.mem_cons, List.not_mem_nil, or_false] at hx
    rcases hx with rfl | rfl | rfl | rfl
    · exact h.load_plain nofun nofun hflag hl hun hq hup
    · exact h.load_plain nofun nofun hflag hl hun hq hup
    · exact h.load_plain nofun nofun hflag hl hun hq hup
    · exact h.load_plain nofun nofun hflag hl hun hq hup
  · exact fun hline hclean => h.lds_full hl hun hline hclean
  · exact fun line hline => h.lds_empty hl hline
  · exact fun h hl hq hrel => h.sts_stores hl hq hrel

end Sys2Proof.Machine
end

section
/-!
WHAT PERFORMING A GROUP'S ACCESSES LEAVES (R154, R248): the operations of the bank and the landing of copies do not see threads, change
in groups nothing but due poison faults and the operations themselves, and leave nothing that waits.
-/

namespace Sys2Proof.Machine

/-! ## Functions that do not see threads -/

/-- A group without its threads. -/
def bareGroup (g : Group) : Group := { g with threads := [] }

/-- A state with other groups and transfers. -/
def swapped (s : State) (gs : List Group) (ts : List Transfer) : State := { s with groups := gs, transfers := ts }

/-- A function that reads nothing of threads and transfers, and changes neither groups nor transfers. -/
def Blind (f : State → State) : Prop :=
  ∀ s gs ts, gs.map bareGroup = s.groups.map bareGroup → f (swapped s gs ts) = swapped (f s) gs ts

theorem Blind.groups {f : State → State} (h : Blind f) (s : State) : (f s).groups = s.groups :=
  (congrArg State.groups (h s s.groups s.transfers rfl) :)

theorem Blind.transfers {f : State → State} (h : Blind f) (s : State) : (f s).transfers = s.transfers :=
  (congrArg State.transfers (h s s.groups s.transfers rfl) :)

theorem Blind.comp {f f' : State → State} (h : Blind f) (h' : Blind f') : Blind fun s => f' (f s) := fun s gs ts hg => by
  dsimp only
  rw [h s gs ts hg, h' (f s) gs ts (hg.trans (by rw [h.groups]))]

theorem blind_id : Blind fun s => s := fun _ _ _ _ => rfl

theorem blind_foldl {α : Type} {f : State → α → State} (h : ∀ x, Blind (f · x)) (xs : List α) : Blind (xs.foldl f ·) := by
  induction xs with
  | nil => exact blind_id
  | cons x xs ih => exact (h x).comp ih

theorem blind_ite {f f' : State → State} (h : Blind f) (h' : Blind f') (b : Bool) : Blind fun s => if b then f s else f' s := by
  cases b with
  | false => exact h'
  | true => exact h

/-- A choice by what a state says beside its groups and transfers. -/
theorem blind_cond {c : State → Prop} [∀ s, Decidable (c s)] {f f' : State → State} (hc : ∀ s gs ts, c (swapped s gs ts) = c s)
    (h : Blind f) (h' : Blind f') : Blind fun s => if c s then f s else f' s := fun s gs ts hg => by
  dsimp only
  by_cases hs : c s
  · rw [if_pos hs, if_pos ((hc s gs ts).symm ▸ hs), h s gs ts hg]
  · rw [if_neg hs, if_neg ((hc s gs ts).symm ▸ hs), h' s gs ts hg]

theorem blind_tagCommons (asid key n : Nat) : Blind (tagCommons · asid key n) := fun s gs ts _ => by
  dsimp only [tagCommons]
  split <;> rfl

theorem blind_noteWrite (key n : Nat) : Blind (noteWrite · key n) := fun s gs ts _ => by
  dsimp only [noteWrite, swapped]
  split <;> rfl

theorem blind_addPoison (p : Nat) : Blind (addPoison · p) := fun s gs ts _ => by
  dsimp only [addPoison, swapped]
  split <;> rfl

theorem blind_clearPoison (ws : List (Nat × Nat)) : Blind (clearPoison · ws) := fun _ _ _ _ => rfl

theorem blind_modCtx (a : Nat) (f : Context → Context) : Blind (modCtx · a f) := fun _ _ _ _ => rfl

theorem blind_modDie (d : Nat) (f : Die → Die) : Blind (modDie · d f) := fun _ _ _ _ => rfl

theorem blind_modTeam (t : Nat) (f : Team → Team) : Blind (modTeam · t f) := fun _ _ _ _ => rfl

theorem blind_countEvent (a k n : Nat) : Blind (countEvent · a k n) := fun _ _ _ _ => rfl

theorem blind_dropTlb (a : Nat) : Blind (dropTlb · a) := fun _ _ _ _ => rfl

/-- One write of a line, by a function that makes it. -/
theorem blind_writeLine (key : Nat) {w : State → State} (hw : Blind w) : Blind fun s => writeLine s key (w s) := by
  have hraise : Blind fun s => { w s with versions := tput 0 (w s).versions (key / 64) (tget 0 s.versions (key / 64) + 1) } :=
    fun s gs ts hg => by
      dsimp only
      rw [hw s gs ts hg]
      rfl
  exact blind_cond (c := fun s => keyClass2 s key = true) (fun _ _ _ => rfl)
    (blind_cond (c := fun s => tget 0 s.versions (key / 64) = 2 ^ 56 - 1) (fun _ _ _ => rfl)
      ((blind_addPoison _).comp (blind_addPoison _)) hraise) hw

theorem blind_bankWrite (asid key n v : Nat) : Blind (bankWrite · asid key n v) :=
  blind_writeLine key (Blind.comp (f := fun s => { s with mem := memWrite s.mem key n v }) (fun _ _ _ _ => rfl)
    ((blind_tagCommons asid key n).comp (blind_noteWrite key n)))

theorem blind_bankBytes (asid : Nat) (ws : List (Nat × Nat)) : Blind (bankBytes · asid ws) := by
  have hbyte : ∀ b : Nat × Nat, Blind fun s =>
      noteWrite (tagCommons { s with mem := memPut s.mem b.1 (BitVec.ofNat 8 b.2) } asid b.1 1) b.1 1 := fun b =>
    Blind.comp (f := fun s => { s with mem := memPut s.mem b.1 (BitVec.ofNat 8 b.2) }) (fun _ _ _ _ => rfl)
      ((blind_tagCommons asid b.1 1).comp (blind_noteWrite b.1 1))
  unfold bankBytes
  exact blind_foldl (fun l => blind_writeLine (64 * l) (blind_foldl hbyte _)) _

/-! ## Encodings -/

theorem blind_storeUnit (asid u fmt geom : Nat) (bs : List (Nat × Nat)) : Blind (storeUnit · asid u fmt geom bs) :=
  fun s gs ts hg => by
    unfold storeUnit
    exact blind_bankBytes asid _ s gs ts hg

theorem blind_encodeOne (asid key fmt geom : Nat) (x : FVal × Int) : Blind (encodeOne · asid key fmt geom x) :=
  fun s gs ts hg => by
    unfold encodeOne
    exact blind_storeUnit asid _ fmt geom _ s gs ts hg

theorem blind_encodeBlock (asid geom : Nat) (b : Nat × Nat) (xs : List (Nat × FVal)) : Blind (encodeBlock · asid geom b xs) :=
  fun s gs ts hg => by
    have hm : (swapped s gs ts).mem = s.mem := rfl
    dsimp only [encodeBlock]
    rw [hm]
    exact blind_storeUnit asid _ 3 geom _ s gs ts hg

/-- One part's element store, but in an E2M1X page, as `performEncodes` takes it. -/
def plainEncode (asid : Nat) (s : State) (p : Part) : State :=
  match p with
  | .encode _ key fmt geom ty wid v => if fmt == 3 then s else encodeOne s asid key fmt geom (storeVal ty wid v)
  | _ => s

theorem blind_plainEncode (asid : Nat) (p : Part) : Blind (plainEncode asid · p) := by
  cases p with
  | encode l key fmt geom ty wid v => exact blind_ite blind_id (blind_encodeOne asid key fmt geom _) (fmt == 3)
  | _ => exact blind_id

theorem blind_performEncodes (asid : Nat) (ps : List Part) : Blind (performEncodes · asid ps) := fun s gs ts hg => by
  have hplain : Blind (ps.foldl (plainEncode asid) ·) := blind_foldl (blind_plainEncode asid) ps
  dsimp only [performEncodes]
  exact (congrArg (List.foldl _ · [0, 1]) (hplain s gs ts hg)).trans
    (blind_foldl (fun g => blind_foldl (fun b => blind_encodeBlock asid g b _) _) [0, 1] _ gs ts
      (hg.trans (congrArg (List.map bareGroup) (hplain.groups s).symm)))

/-! ## Errors that a read meets -/

/-- A group is found by its number whatever its threads. -/
theorem getGroup_bare {s : State} {gs : List Group} (ts : List Transfer) (h : gs.map bareGroup = s.groups.map bareGroup) (j : Nat) :
    (getGroup (swapped s gs ts) j).map bareGroup = (getGroup s j).map bareGroup := by
  have hfind : ∀ xs : List Group, (xs.find? (·.gid == j)).map bareGroup = (xs.map bareGroup).find? (·.gid == j) := fun xs => by
    rw [List.find?_map]
    rfl
  rw [getGroup, getGroup, hfind, hfind, ← h]
  rfl

theorem keyDie_swapped {s : State} {gs : List Group} (ts : List Transfer) (h : gs.map bareGroup = s.groups.map bareGroup) (key : Nat) :
    keyDie (swapped s gs ts) key = keyDie s key := by
  have hdie : ∀ j, (getGroup (swapped s gs ts) j).map (·.die) = (getGroup s j).map (·.die) := fun j => by
    have hb := congrArg (Option.map Group.die) (getGroup_bare ts h j)
    rwa [Option.map_map, Option.map_map] at hb
  unfold keyDie
  rw [hdie]
  rfl

theorem blind_reportError (seat die : Nat) : Blind (reportError · seat die) := fun _ _ _ _ => rfl

theorem blind_countCorrected (sram : Bool) (die : Nat) : Blind (countCorrected · sram die) :=
  Blind.comp (f := fun s => modDie s die fun d => if sram then { d with sce := satCount d.sce } else { d with mce := satCount d.mce })
    (f' := fun s => if errorThreshold s die < (if sram then (getDie s die).sce else (getDie s die).mce) then reportError s 8 die else s)
    (blind_modDie die _) (blind_cond (fun _ _ _ => rfl) (blind_reportError 8 die) blind_id)

theorem blind_countPoisoned (sector : Nat) : Blind (countPoisoned · sector) := fun s gs ts hg => by
  have hclass : keyClass2 (swapped s gs ts) (sector * 32) = keyClass2 s (sector * 32) := rfl
  dsimp only [countPoisoned]
  rw [keyDie_swapped ts hg, hclass]
  split
  · exact ((((blind_addPoison _).comp (blind_addPoison _)).comp (blind_reportError _ _)).comp (blind_modDie _ _)) s gs ts hg
  · exact ((blind_addPoison _).comp (blind_modDie _ _)) s gs ts hg

theorem blind_meetUpset (u : Upset) : Blind (meetUpset · u) := fun s gs ts hg => by
  dsimp only [meetUpset]
  rw [keyDie_swapped ts hg]
  split
  · exact blind_countCorrected _ _ s gs ts hg
  · exact blind_countPoisoned _ s gs ts hg

theorem blind_meetUpsets (rs : List (Nat × Nat)) : Blind (meetUpsets · rs) := by
  have hmeet : Blind fun s => (s.upsets.filter (upsetIn rs)).foldl meetUpset { s with upsets := s.upsets.filter fun u => !upsetIn rs u } :=
    fun s gs ts hg => Blind.comp (f := fun s => { s with upsets := s.upsets.filter fun u => !upsetIn rs u }) (fun _ _ _ _ => rfl)
      (blind_foldl blind_meetUpset (s.upsets.filter (upsetIn rs))) s gs ts hg
  exact blind_cond (c := fun s => s.upsets.isEmpty = true) (fun _ _ _ => rfl) blind_id hmeet

/-! ## Copies -/

theorem blind_touchFrame (die key : Nat) : Blind (touchFrame · die key) := fun s gs ts _ => by
  have hk : keyFrame (swapped s gs ts) key = keyFrame s key := rfl
  dsimp only [touchFrame]
  rw [hk]
  split
  · split <;> rfl
  · rfl

theorem blind_landSector (asid dst n : Nat) (byte : Nat → Byte) (bad : Nat → Bool) (p : Nat) :
    Blind (landSector asid dst n byte bad · p) := by
  dsimp only [landSector]
  exact ((blind_ite (blind_clearPoison _) blind_id _).comp (blind_bankWrite _ _ _ _)).comp (blind_ite (blind_addPoison p) blind_id _)

theorem blind_landBytes (asid dst n : Nat) (byte : Nat → Byte) (bad : Nat → Bool) : Blind (landBytes · asid dst n byte bad) :=
  Blind.comp (f := fun s => (sectorsOf dst n).foldl (landSector asid dst n byte bad) s)
    (blind_foldl (blind_landSector asid dst n byte bad) (sectorsOf dst n))
    (blind_cond (c := fun s => ((keyFrame s dst).any fun x => x.2.tbl) = true) (fun _ _ _ => rfl) (blind_dropTlb asid) blind_id)

/-- A copy that lands: what it read before is its own. -/
theorem landPieces_swapped {s0 : State} (gs0 : List Group) (ts0 : List Transfer) (asid : Nat) (sealing : Bool) (ps : List Piece)
    {s : State} {gs : List Group} (ts : List Transfer) (hg : gs.map bareGroup = s.groups.map bareGroup) :
    landPieces (swapped s0 gs0 ts0) asid sealing ps (swapped s gs ts) =
      (swapped (landPieces s0 asid sealing ps s).1 gs ts, (landPieces s0 asid sealing ps s).2) := by
  induction ps generalizing s with
  | nil => rfl
  | cons p ps ih =>
    have hblind := fun n byte bad => blind_landBytes asid p.dst n byte bad
    have hland : ∀ n byte bad, landBytes (swapped s gs ts) asid p.dst n byte bad = swapped (landBytes s asid p.dst n byte bad) gs ts :=
      fun n byte bad => hblind n byte bad s gs ts hg
    have hclean : cleanBytes (swapped s0 gs0 ts0) p = cleanBytes s0 p := rfl
    have hcipher : cipherByte (swapped s0 gs0 ts0) p.src = cipherByte s0 p.src := rfl
    have hsrc : srcByte (swapped s0 gs0 ts0) p.src = srcByte s0 p.src := rfl
    have hbad : srcBad (swapped s0 gs0 ts0) p.src = srcBad s0 p.src := rfl
    dsimp only [landPieces]
    rw [hclean, hcipher, hsrc, hbad, hland, hland]
    split
    · exact ih (hg.trans (by rw [(hblind _ _ _).groups]))
    · split
      · exact ih (hg.trans (by rw [(hblind _ _ _).groups]))
      · rfl

theorem blind_touchPiece (die : Nat) (p : Piece) : Blind (touchPiece die · p) :=
  ((blind_touchFrame die p.src).comp (blind_touchFrame die p.dst)).comp (blind_meetUpsets [(p.src, p.n)])

theorem takeNumber_swapped {s : State} {gs : List Group} (ts : List Transfer) (hg : gs.map bareGroup = s.groups.map bareGroup)
    (asid tl : Nat) : takeNumber (swapped s gs ts) asid tl = (swapped (takeNumber s asid tl).1 gs ts, (takeNumber s asid tl).2) := by
  have hb : ∀ n, getBytes (swapped s gs ts) (tl + 8) n = getBytes s (tl + 8) n := fun _ => rfl
  dsimp only [takeNumber]
  rw [hb]
  exact congrArg (·, _) (blind_bankWrite asid (tl + 8) 8 _ s gs ts hg)

theorem blind_takeNumber (asid tl : Nat) : Blind fun s => (takeNumber s asid tl).1 := fun s gs ts hg => by
  dsimp only
  rw [takeNumber_swapped ts hg]

theorem blind_acceptNcopy (id : Nat) : Blind (acceptNcopy · id) := fun s gs ts hg => by
  have hn : (swapped s gs ts).ncopies = s.ncopies := rfl
  dsimp only [acceptNcopy]
  rw [hn]
  split
  · rfl
  · next c hc =>
    split
    · rfl
    · have htouch : Blind (c.pieces.foldl (touchPiece 8) ·) := blind_foldl (blind_touchPiece 8) c.pieces
      have hg1 := hg.trans (congrArg (List.map bareGroup) (htouch.groups s).symm)
      rw [show c.pieces.foldl (touchPiece 8) (swapped s gs ts) = swapped (c.pieces.foldl (touchPiece 8) s) gs ts from htouch s gs ts hg,
        takeNumber_swapped ts hg1]
      rw [landPieces_swapped gs ts c.asid c.sealing c.pieces ts
        (hg1.trans (congrArg (List.map bareGroup) ((blind_takeNumber c.asid c.tl).groups _).symm))]
      rfl

/-! ## The landing of copies -/

theorem blind_noteTest (key : Nat) : Blind (noteTest · key) := fun s gs ts _ => by
  dsimp only [noteTest, swapped]
  split <;> rfl

theorem blind_barWrite (key : Nat) (b : Barrier) : Blind (barWrite · key b) := fun _ _ _ _ => rfl

theorem blind_countBytesOf (tid n : Nat) : Blind fun s => countEvent s (teamAsid s tid) 3 n := fun _ _ _ _ => rfl

theorem blind_countBytes (tid n : Nat) (orphan : Bool) (bar : Option Nat) : Blind (countBytes · tid n orphan bar) :=
  fun s gs ts hg => by
    cases bar with
    | none => rfl
    | some key =>
      have hb : barRead (swapped s gs ts) key = barRead s key := rfl
      dsimp only [countBytes]
      rw [hb]
      split
      · rfl
      · exact (((blind_barWrite key _).comp (blind_countBytesOf tid n)).comp (blind_noteTest key)) s gs ts hg

/-- One piece of a copy that lands. -/
def landPiece (x : Transfer) (asid die : Nat) (s : State) (pd : Piece × List (Byte × Bool)) : State :=
  let p := pd.1
  let s := landBytes (touchFrame s die p.dst) asid p.dst p.n (fun i => (pd.2.getD i (0, false)).1)
    fun i => (pd.2.getD i (0, false)).2
  if x.scr then fillLines s (landedLines p p.n true) else s

theorem blind_landPiece (x : Transfer) (asid die : Nat) (pd : Piece × List (Byte × Bool)) : Blind (landPiece x asid die · pd) :=
  ((blind_touchFrame die pd.1.dst).comp (blind_landBytes asid pd.1.dst pd.1.n _ _)).comp
    (blind_ite (f := fun s => fillLines s (landedLines pd.1 pd.1.n true)) (fun _ _ _ _ => rfl) blind_id x.scr)

/-- A copy that lands leaves the transfers, and does not see threads. -/
theorem landTransfer_swapped {s : State} {gs : List Group} (ts : List Transfer) (hg : gs.map bareGroup = s.groups.map bareGroup)
    (x : Transfer) : landTransfer (swapped s gs ts) x = swapped (landTransfer s x) gs (ts.filter (·.id != x.id)) := by
  have hland : Blind ((x.pieces.zip x.data).foldl (landPiece x (teamAsid s x.tid) (teamDie s x.tid)) ·) :=
    blind_foldl (blind_landPiece x _ _) _
  have hcount := blind_countBytes x.tid x.bytes x.orphan x.bar
    { (x.pieces.zip x.data).foldl (landPiece x (teamAsid s x.tid) (teamDie s x.tid)) s with transfers :=
        ((x.pieces.zip x.data).foldl (landPiece x (teamAsid s x.tid) (teamDie s x.tid)) s).transfers.filter (·.id != x.id) }
    gs (ts.filter (·.id != x.id)) (hg.trans (congrArg (List.map bareGroup) (hland.groups s).symm))
  refine Eq.trans ?_ hcount
  show countBytes { (x.pieces.zip x.data).foldl (landPiece x (teamAsid s x.tid) (teamDie s x.tid)) (swapped s gs ts) with
    transfers := ((x.pieces.zip x.data).foldl (landPiece x (teamAsid s x.tid) (teamDie s x.tid)) (swapped s gs ts)).transfers.filter
      (·.id != x.id) } x.tid x.bytes x.orphan x.bar = _
  rw [show (x.pieces.zip x.data).foldl (landPiece x (teamAsid s x.tid) (teamDie s x.tid)) (swapped s gs ts) = _ from hland s gs ts hg]
  rfl

theorem landTransfer_groups (s : State) (x : Transfer) : (landTransfer s x).groups = s.groups :=
  (congrArg State.groups (landTransfer_swapped (s := s) (gs := s.groups) s.transfers rfl x) :)

theorem landTransfer_transfers (s : State) (x : Transfer) : (landTransfer s x).transfers = s.transfers.filter (·.id != x.id) :=
  (congrArg State.transfers (landTransfer_swapped (s := s) (gs := s.groups) s.transfers rfl x) :)

/-! ## Performing without threads -/

/-- A state whose groups have no threads. -/
def bareThreads (s : State) : State := swapped s (s.groups.map bareGroup) s.transfers

/-- A function that does the same where threads are left out. -/
def Barely (f : State → State) : Prop := ∀ s, f (bareThreads s) = bareThreads (f s)

theorem Blind.barely {f : State → State} (h : Blind f) : Barely f := fun s => by
  have hb : (s.groups.map bareGroup).map bareGroup = s.groups.map bareGroup := by
    rw [List.map_map]
    rfl
  rw [bareThreads, h s _ _ hb, bareThreads, h.groups, h.transfers]

theorem Barely.comp {f f' : State → State} (h : Barely f) (h' : Barely f') : Barely fun s => f' (f s) := fun s => by
  dsimp only
  rw [h s, h' (f s)]

theorem barely_foldl {α : Type} {f : State → α → State} (h : ∀ x, Barely (f · x)) (xs : List α) : Barely (xs.foldl f ·) := by
  induction xs with
  | nil => exact fun _ => rfl
  | cons x xs ih => exact (h x).comp ih

theorem barely_modGroup (gid : Nat) {F : Group → Group} (h : ∀ g, F (bareGroup g) = bareGroup (F g)) : Barely (modGroup · gid F) :=
  fun s => by
    have hm : modBy (·.gid == gid) F (s.groups.map bareGroup) = (modBy (·.gid == gid) F s.groups).map bareGroup := by
      unfold modBy
      rw [List.map_map, List.map_map]
      refine List.map_congr_left fun g _ => ?_
      show (if (g.gid == gid) = true then F (bareGroup g) else bareGroup g) = bareGroup (if (g.gid == gid) = true then F g else g)
      rw [h]
      split <;> rfl
    show { bareThreads s with groups := modBy (·.gid == gid) F (s.groups.map bareGroup) } = _
    rw [hm]
    rfl

theorem getGroup_bareThreads (s : State) (j : Nat) : getGroup (bareThreads s) j = (getGroup s j).map bareGroup := by
  show (s.groups.map bareGroup).find? (·.gid == j) = _
  rw [List.find?_map]
  rfl

theorem barely_landTransfer (x : Transfer) : Barely (landTransfer · x) := fun s => by
  have hb : (s.groups.map bareGroup).map bareGroup = s.groups.map bareGroup := by
    rw [List.map_map]
    rfl
  show landTransfer (swapped s _ _) x = bareThreads (landTransfer s x)
  rw [landTransfer_swapped _ hb, bareThreads, landTransfer_groups, landTransfer_transfers]

theorem barely_duePoison (gid l pc ea : Nat) (x : ExecRec) : Barely (duePoison · gid l pc ea x) :=
  barely_modGroup gid fun _ => rfl

/-- A part performed without threads gives the same part. -/
theorem performPart_bare (asid gid : Nat) (x : ExecRec) (acc : State × List Part) (p : Part) :
    performPart asid gid x (bareThreads acc.1, acc.2) p =
      (bareThreads (performPart asid gid x acc p).1, (performPart asid gid x acc p).2) := by
  have hbank := fun key n v => (blind_bankWrite asid key n v).barely acc.1
  cases p with
  | load l rs fl => rfl
  | encode l key fmt geom ty wid v => rfl
  | store l key n v tbl =>
    have hdrop := (blind_dropTlb asid).barely (bankWrite acc.1 asid key n v)
    dsimp only [performPart] at hbank hdrop ⊢
    rw [hbank]
    split
    · rw [hdrop]
    · rfl
  | rmw l key n k b c d pc ea =>
    have hpo : poisoned (bareThreads acc.1) key n = poisoned acc.1 key n := rfl
    have hget : getBytes (bareThreads acc.1) key n = getBytes acc.1 key n := rfl
    have hdue := barely_duePoison gid l pc ea x acc.1
    dsimp only [performPart, performRmw] at hbank hdue ⊢
    rw [hpo, hget, hbank, hdue]
    split <;> rfl
  | ncopy l id => exact congrArg (·, _) ((blind_acceptNcopy id).barely acc.1)

theorem performParts_bare (asid gid : Nat) (x : ExecRec) (ps : List Part) (acc : State × List Part) :
    ps.foldl (performPart asid gid x) (bareThreads acc.1, acc.2) =
      (bareThreads (ps.foldl (performPart asid gid x) acc).1, (ps.foldl (performPart asid gid x) acc).2) := by
  induction ps generalizing acc with
  | nil => rfl
  | cons p ps ih => rw [List.foldl_cons, performPart_bare, ih, List.foldl_cons]

/-- A group whose operation is performed, with what its parts have become. -/
def performedAs (op : LongOp) (ps : List Part) (g : Group) : Group :=
  shareDue op.exec.stamp op.exec.parked
    { g with ops := modBy (·.id == op.id) (fun o => { o with performed := true, parts := ps }) g.ops }

theorem barely_performOp (asid gid : Nat) (op : LongOp) : Barely (performOp · asid gid op) := fun s => by
  have hbefore := (((blind_meetUpsets (op.parts.flatMap partReadsAt)).comp (blind_clearPoison (op.parts.flatMap partWrites))).comp
    (blind_performEncodes asid op.parts)).barely s
  dsimp only [performOp] at hbefore ⊢
  split
  · rfl
  · rw [hbefore, performParts_bare asid gid op.exec op.parts (_, [])]
    exact barely_modGroup gid (F := performedAs op _) (fun _ => rfl) _

theorem barely_performAll (asid gid : Nat) (ops : List LongOp) : Barely (performAll asid gid · ops) := by
  unfold performAll
  refine barely_foldl (fun op s => ?_) ops
  have hop : performOp (bareThreads s) asid gid op = bareThreads (performOp s asid gid op) := barely_performOp asid gid op s
  dsimp only
  rw [hop]
  split
  · exact barely_modGroup gid (F := fun g => { g with ops := g.ops.filter (·.id != op.id) }) (fun _ => rfl) _
  · rfl

theorem barely_drainGroup (asid gid : Nat) : Barely (drainGroup · asid gid) := fun s => by
  dsimp only [drainGroup]
  rw [getGroup_bareThreads]
  cases getGroup s gid with
  | none => rfl
  | some g => exact barely_performAll asid gid (queueOf g) s

theorem barely_releaseGroup (asid gid : Nat) : Barely (releaseGroup · asid gid) := fun s => by
  dsimp only [releaseGroup]
  rw [show drainGroup (bareThreads s) asid gid = _ from barely_drainGroup asid gid s]
  exact barely_foldl barely_landTransfer _ _

/-- What a release leaves in memory does not depend on where threads stand. -/
theorem releaseGroup_mem {s s1 : State} (h : bareThreads s1 = bareThreads s) (asid gid : Nat) :
    (releaseGroup s1 asid gid).mem = (releaseGroup s asid gid).mem := by
  have hb := fun s => congrArg State.mem (barely_releaseGroup asid gid s)
  exact (hb s1).symm.trans ((congrArg (fun s => (releaseGroup s asid gid).mem) h).trans (hb s))

end Sys2Proof.Machine
end
section
/-!
WHAT A RELEASE DOES TO ITS GROUP (R153, R154, R248): due poison faults and operations, the empty queue after it, and the copies landed.
-/

namespace Sys2Proof.Machine

/-! ## Groups in which only operations and due faults differ -/

/-- Operations of a group differ, and its threads in the poison faults that are due. -/
def DueOnly (g g' : Group) : Prop :=
  g' = { g with threads := g'.threads, ops := g'.ops } ∧
  ∃ f : Thread → Thread, g'.threads = g.threads.map f ∧ ∀ t, { f t with poison := none } = { t with poison := none }

theorem DueOnly.refl (g : Group) : DueOnly g g := ⟨rfl, id, (List.map_id _).symm, fun _ => rfl⟩

theorem DueOnly.trans {g g1 g2 : Group} (h : DueOnly g g1) (h' : DueOnly g1 g2) : DueOnly g g2 := by
  obtain ⟨h1, f, hf, hk⟩ := h
  obtain ⟨h1', f', hf', hk'⟩ := h'
  exact ⟨by rw [h1', h1], f' ∘ f, by rw [hf', hf, List.map_map], fun t => (hk' _).trans (hk t)⟩

/-- What of a group's queue is left once the operations with some numbers are performed. -/
def Unqueues (ids : List Nat) (g g' : Group) : Prop := ∀ o ∈ queueOf g', o ∈ queueOf g ∧ o.id ∉ ids

theorem unqueues_of_ops {g g' : Group} (h : g'.ops = g.ops) : Unqueues [] g g' := fun o ho => by
  rw [queueOf, h, ← queueOf] at ho
  exact ⟨ho, List.not_mem_nil⟩

theorem Unqueues.trans {xs ys : List Nat} {g g1 g2 : Group} (h : Unqueues xs g g1) (h' : Unqueues ys g1 g2) :
    Unqueues (xs ++ ys) g g2 := fun o ho => by
  obtain ⟨h1, hy⟩ := h' o ho
  obtain ⟨h2, hx⟩ := h o h1
  exact ⟨h2, by simp [hx, hy]⟩

/-- Only one group has changed: operations and due faults, and of its queue the operations with some numbers are performed. -/
def Performs (gid : Nat) (ids : List Nat) (s s' : State) : Prop :=
  s'.transfers = s.transfers ∧
  ∃ F : Group → Group, s'.groups = (modGroup s gid F).groups ∧ ∀ g, DueOnly g (F g) ∧ Unqueues ids g (F g)

theorem performs_modGroup {s : State} {gid : Nat} {F : Group → Group} {ids : List Nat}
    (h : ∀ g, DueOnly g (F g) ∧ Unqueues ids g (F g)) : Performs gid ids s (modGroup s gid F) := ⟨rfl, F, rfl, h⟩

theorem Performs.of_groups {s s' : State} (gid : Nat) (hg : s'.groups = s.groups) (ht : s'.transfers = s.transfers) :
    Performs gid [] s s' := by
  have hid : (modGroup s gid id).groups = s.groups := by
    simp [modGroup, modBy]
  exact ⟨ht, id, hg.trans hid.symm, fun g => ⟨.refl g, unqueues_of_ops rfl⟩⟩

theorem Blind.performs {f : State → State} (h : Blind f) (gid : Nat) (s : State) : Performs gid [] s (f s) :=
  .of_groups gid (h.groups s) (h.transfers s)

theorem Performs.trans {gid : Nat} {xs ys : List Nat} {s s1 s2 : State} (h : Performs gid xs s s1) (h' : Performs gid ys s1 s2) :
    Performs gid (xs ++ ys) s s2 := by
  obtain ⟨ht, F, hF, hk⟩ := h
  obtain ⟨ht', F', hF', hk'⟩ := h'
  have hgid : ∀ g, (F g).gid = g.gid := fun g => (congrArg Group.gid (hk g).1.1 :)
  refine ⟨ht'.trans ht, fun g => F' (F g), ?_, fun g => ⟨(hk g).1.trans (hk' _).1, (hk g).2.trans (hk' _).2⟩⟩
  rw [hF', ← modGroup_modGroup s gid F F' hgid]
  simp only [modGroup, hF]

theorem performs_foldl {α : Type} {f : State → α → State} {gid : Nat} {num : α → List Nat} {xs : List α}
    (h : ∀ s, ∀ x ∈ xs, Performs gid (num x) s (f s x)) (s : State) : Performs gid (xs.flatMap num) s (xs.foldl f s) := by
  induction xs generalizing s with
  | nil => exact .of_groups gid rfl rfl
  | cons x xs ih => exact (h s x (by simp)).trans (ih (fun s y hy => h s y (by simp [hy])) _)

/-! ## One operation -/

theorem dueOnly_groupLane (g : Group) (l : Nat) (p : Thread → Option PoisonDue) :
    DueOnly g (groupLane g l fun t => { t with poison := p t }) :=
  ⟨rfl, fun t => if t.lane == l then { t with poison := p t } else t, rfl, fun t => by
    dsimp only
    split <;> rfl⟩

theorem performs_duePoison (s : State) (gid l pc ea : Nat) (x : ExecRec) : Performs gid [] s (duePoison s gid l pc ea x) :=
  performs_modGroup fun g => ⟨dueOnly_groupLane g l _, unqueues_of_ops rfl⟩

theorem performs_performPart (asid gid : Nat) (x : ExecRec) (acc : State × List Part) (p : Part) :
    Performs gid [] acc.1 (performPart asid gid x acc p).1 := by
  cases p with
  | load l rs fl => exact .of_groups gid rfl rfl
  | encode l key fmt geom ty wid v => exact .of_groups gid rfl rfl
  | store l key n v tbl => exact ((blind_bankWrite asid key n v).comp (blind_ite (blind_dropTlb asid) blind_id tbl)).performs gid acc.1
  | rmw l key n k b c d pc ea =>
    dsimp only [performPart, performRmw]
    split
    · exact performs_duePoison ..
    · exact (blind_bankWrite asid key n _).performs gid acc.1
  | ncopy l id => exact (blind_acceptNcopy id).performs gid acc.1

theorem performs_performParts (asid gid : Nat) (x : ExecRec) (ps : List Part) (acc : State × List Part) :
    Performs gid [] acc.1 (ps.foldl (performPart asid gid x) acc).1 := by
  induction ps generalizing acc with
  | nil => exact .of_groups gid rfl rfl
  | cons p ps ih => exact (performs_performPart asid gid x acc p).trans (ih _)

/-- An operation that is performed leaves the queue. -/
theorem performedAs_queue (op : LongOp) (ps : List Part) (g : Group) :
    DueOnly g (performedAs op ps g) ∧ Unqueues [op.id] g (performedAs op ps g) := by
  refine ⟨⟨rfl, _, rfl, fun t => ?_⟩, fun o ho => ?_⟩
  · split <;> rfl
  · obtain ⟨hmem, hqueued⟩ := List.mem_filter.1 ho
    obtain ⟨o', ho', rfl⟩ := List.mem_map.1 hmem
    by_cases hid : o'.id = op.id
    · simp [hid] at hqueued
    · have hne : (if (o'.id == op.id) = true then { o' with performed := true, parts := ps } else o') = o' := by simp [hid]
      rw [hne] at hqueued ⊢
      exact ⟨List.mem_filter.2 ⟨ho', hqueued⟩, by simpa using hid⟩

theorem performs_performOp (s : State) (asid gid : Nat) {op : LongOp} (h : op.performed = false) :
    Performs gid [op.id] s (performOp s asid gid op) := by
  have hbefore := (((blind_meetUpsets (op.parts.flatMap partReadsAt)).comp (blind_clearPoison (op.parts.flatMap partWrites))).comp
    (blind_performEncodes asid op.parts)).performs gid s
  dsimp only [performOp] at hbefore ⊢
  rw [if_neg (by simp [h])]
  exact (hbefore.trans (performs_performParts asid gid op.exec op.parts (_, []))).trans
    (performs_modGroup (performedAs_queue op _))

/-- Operations are performed in turn, and leave the queue. -/
theorem performs_performAll (s : State) (asid gid : Nat) {ops : List LongOp} (h : ∀ op ∈ ops, op.performed = false) :
    Performs gid (ops.map (·.id)) s (performAll asid gid s ops) := by
  have hids : ops.map (·.id) = ops.flatMap fun op => [op.id] := (List.flatMap_pure_eq_map LongOp.id ops).symm
  rw [hids]
  refine performs_foldl (fun s op hop => ?_) s
  dsimp only
  split
  · refine (performs_performOp s asid gid (h op hop)).trans (ys := []) (performs_modGroup fun g =>
      ⟨⟨rfl, id, (List.map_id _).symm, fun _ => rfl⟩, fun o ho => ⟨?_, List.not_mem_nil⟩⟩)
    obtain ⟨hmem, hqueued⟩ := List.mem_filter.1 ho
    exact List.mem_filter.2 ⟨(List.mem_filter.1 hmem).1, hqueued⟩
  · exact performs_performOp s asid gid (h op hop)

/-! ## The group after a release -/

theorem Performs.getGroup_eq {gid : Nat} {ids : List Nat} {s s' : State} (h : Performs gid ids s s') {g : Group}
    (hg : getGroup s gid = some g) : ∃ g', getGroup s' gid = some g' ∧ DueOnly g g' ∧ Unqueues ids g g' := by
  obtain ⟨-, F, hF, hk⟩ := h
  have hgid : ∀ g, (F g).gid = g.gid := fun g => (congrArg Group.gid (hk g).1.1 :)
  refine ⟨F g, ?_, hk g⟩
  rw [getGroup, hF, ← getGroup, getGroup_modGroup s gid gid F hgid, if_pos rfl, hg]
  rfl

theorem Performs.getLane_eq {gid : Nat} {ids : List Nat} {s s' : State} (h : Performs gid ids s s') (j l : Nat) :
    (getLane s' j l).map (fun t => { t with poison := none }) = (getLane s j l).map fun t => { t with poison := none } := by
  obtain ⟨-, F, hF, hk⟩ := h
  have hgid : ∀ g, (F g).gid = g.gid := fun g => (congrArg Group.gid (hk g).1.1 :)
  have hgroup : getGroup s' j = if gid = j then (getGroup s j).map F else getGroup s j := by
    rw [getGroup, hF, ← getGroup, getGroup_modGroup s gid j F hgid]
  rw [getLane, getLane, hgroup]
  split
  · cases getGroup s j with
    | none => rfl
    | some g =>
      obtain ⟨-, f, hf, hp⟩ := (hk g).1
      rw [Option.map_some, Option.bind_some, Option.bind_some,
        laneThread_map hf (fun t => (congrArg Thread.lane (hp t) :)), Option.map_map]
      exact Option.map_congr fun t _ => hp t
  · rfl

/-- A group's queue is empty once it is performed. -/
theorem drainGroup_performs {s : State} {gid : Nat} {g : Group} (asid : Nat) (hg : getGroup s gid = some g) :
    Performs gid ((queueOf g).map (·.id)) s (drainGroup s asid gid) := by
  simp only [drainGroup, hg]
  refine performs_performAll s asid gid fun op hop => ?_
  have hq := (List.mem_filter.1 hop).2
  rw [Bool.and_eq_true, Bool.not_eq_true'] at hq
  exact hq.2

theorem Unqueues.queueOf_nil {g g' : Group} (h : Unqueues ((queueOf g).map (·.id)) g g') : queueOf g' = [] := by
  refine List.eq_nil_iff_forall_not_mem.2 fun o ho => ?_
  obtain ⟨h1, h2⟩ := h o ho
  exact h2 (List.mem_map_of_mem h1)

theorem landAll_groups (s : State) (xs : List Transfer) : (xs.foldl landTransfer s).groups = s.groups := by
  induction xs generalizing s with
  | nil => rfl
  | cons x xs ih => rw [List.foldl_cons, ih, landTransfer_groups]

theorem mem_transfers_landAll {s : State} {xs : List Transfer} {y : Transfer} (h : y ∈ (xs.foldl landTransfer s).transfers) :
    y ∈ s.transfers ∧ ∀ x ∈ xs, y.id ≠ x.id := by
  induction xs generalizing s with
  | nil => exact ⟨h, nofun⟩
  | cons x xs ih =>
    obtain ⟨h1, h2⟩ := ih h
    rw [landTransfer_transfers, List.mem_filter] at h1
    exact ⟨h1.1, List.forall_mem_cons.2 ⟨by simpa using h1.2, h2⟩⟩

/-- After a release nothing that the group issued waits, and its threads differ only in due faults. -/
theorem releaseGroup_performs {s : State} {gid : Nat} {g : Group} (asid : Nat) (hg : getGroup s gid = some g) :
    copiesOf (releaseGroup s asid gid) gid = [] ∧
      (∃ g', getGroup (releaseGroup s asid gid) gid = some g' ∧ queueOf g' = []) ∧
      ∀ j l, (getLane (releaseGroup s asid gid) j l).map (fun t => { t with poison := none }) =
        (getLane s j l).map fun t => { t with poison := none } := by
  have hd := drainGroup_performs asid hg
  have hgroups : (releaseGroup s asid gid).groups = (drainGroup s asid gid).groups := landAll_groups _ _
  refine ⟨List.eq_nil_iff_forall_not_mem.2 fun y hy => ?_, ?_, fun j l => ?_⟩
  · obtain ⟨hy1, hy2⟩ := List.mem_filter.1 hy
    obtain ⟨h1, h2⟩ := mem_transfers_landAll hy1
    exact h2 y (List.mem_filter.2 ⟨h1, hy2⟩) rfl
  · obtain ⟨g', hg', -, hq⟩ := hd.getGroup_eq hg
    exact ⟨g', by rw [getGroup, hgroups]; exact hg', hq.queueOf_nil⟩
  · rw [getLane_groups _ _ hgroups, hd.getLane_eq]

/-- With no copy outstanding a release performs the queue. -/
theorem releaseGroup_drain {s : State} {gid : Nat} {g : Group} (asid : Nat) (hg : getGroup s gid = some g)
    (hc : copiesOf s gid = []) : releaseGroup s asid gid = drainGroup s asid gid := by
  have ht : copiesOf (drainGroup s asid gid) gid = [] := by
    rw [copiesOf, (drainGroup_performs asid hg).1]
    exact hc
  simp only [releaseGroup, ht]
  rfl

end Sys2Proof.Machine
end
section
/-!
STORES AND FENCES (R68, R151, R153, R154, R168, R169), and obligation O16.
-/

namespace Sys2Proof.Machine

/-! ## Stores -/

theorem bareThreads_modGroup (s : State) (gid : Nat) {F : Group → Group} (h : ∀ g, bareGroup (F g) = bareGroup g) :
    bareThreads (modGroup s gid F) = bareThreads s := by
  have hm : (modBy (·.gid == gid) F s.groups).map bareGroup = s.groups.map bareGroup := by
    rw [modBy, List.map_map]
    refine List.map_congr_left fun g _ => ?_
    simp only [Function.comp]
    split
    · exact h g
    · rfl
  show swapped s ((modBy (·.gid == gid) F s.groups).map bareGroup) s.transfers = _
  rw [hm]
  rfl

/-- Lanes that have gone on differ only in threads. -/
theorem bareThreads_wentOn (s : State) (c : Cur) (g : Guard) (l : Nat) (t1 : Thread) :
    bareThreads (wentOn s c g l t1) = bareThreads s :=
  (bareThreads_modGroup (idled s c g) c.gid (F := fun x => groupLane x l fun _ => advance c t1) fun _ => rfl).trans
    (bareThreads_modGroup s c.gid (F := onLanes (idleLanes s c g) fun _ => advance c) fun _ => rfl)

theorem storePart_plain (m : MemOp) (l : Nat) (ea : Int) (key data : Nat) (tbl : Bool) (mt : Nat) :
    storePart m l (plainAcc ea key data tbl mt) = .store l key (widBytes m.wid) data tbl := rfl

/-- An operation that waits to be performed joins an empty queue. -/
theorem queueOf_issuedIn {g : Group} {op : LongOp} (h : queueOf g = []) (hop : (op.queued && !op.performed) = true) :
    queueOf (issuedIn op g) = [op] := by
  rw [queueOf, issuedIn_ops, List.filter_append, ← queueOf, h]
  simp only [List.filter_cons, hop, List.nil_append, if_true, List.filter_nil]

section
variable {s : State} {c : Cur} {e : Env} {g : Guard} {sp : Space} {m : MemOp} {l key : Nat} {t t0 : Thread} {rd : Nat → Word}

/-- What a store of one lane to plain bytes is: it goes on, a release performs what stands before it, and it is issued. -/
theorem Lone.storeOp_eq (h : Lone s c e g (memUses true sp m) l t t0 rd)
    (hflag : flagFull e.group (curFlag e.group c m.ss) = false)
    (hl : LandsAt s e l sp .write (accessAt sp rd m.a m.off) (widBytes m.wid) key) : ∃ tbl, storeOp sp g m s =
      .next (countEvent (issueOp (touchFrame (if m.ord == .rel then releaseGroup (wentOn s c g l t0) e.ctx.asid c.gid
        else wentOn s c g l t0) e.group.die key) c e (execRec s c e g) (curFlag e.group c m.ss) true false
        [.store l key (widBytes m.wid) (stored m rd) tbl]) e.ctx.asid 0 1) := by
  obtain ⟨tbl, mt, -, hplan⟩ := planMem_go (t := t0) hl (storeData m rd) nofun
  refine ⟨tbl, ?_⟩
  unfold storeOp longOp withCur
  simp only [h.cur, h.env, hflag, Bool.false_eq_true, if_false]
  rw [h.plansAt_go hplan, List.map_cons, List.map_nil, storePart_plain, storeData_eq_stored]
  rfl

/-- A store that has nothing to wait for joins the queue behind the operations that stand in it. -/
theorem Lone.store_joins (h : Lone s c e g (memUses true sp m) l t t0 rd)
    (hflag : flagFull e.group (curFlag e.group c m.ss) = false)
    (hl : LandsAt s e l sp .write (accessAt sp rd m.a m.off) (widBytes m.wid) key) (hrel : m.ord = .rel → AllPerformed s e) :
    ∃ s' op tbl, storeOp sp g m s = .next s' ∧ OnlyThreads s s' ∧ LaneBecomes s s' c l (goOn c.next t0) ∧
      Issued s s' c.gid (curFlag e.group c m.ss) op ∧ op.queued = true ∧ op.performed = false ∧
      op.parts = [.store l key (widBytes m.wid) (stored m rd) tbl] := by
  obtain ⟨tbl, hexec⟩ := h.storeOp_eq hflag hl
  obtain ⟨g1, hg1, hq⟩ := h.queueOf_wentOn t0
  have hrelease : (if m.ord == .rel then releaseGroup (wentOn s c g l t0) e.ctx.asid c.gid else wentOn s c g l t0) =
      wentOn s c g l t0 := by
    split
    · next hr =>
      obtain ⟨hqe, hce⟩ := hrel (by simpa using hr)
      rw [env_gid s c.gid e h.env] at hce
      exact releaseGroup_performed _ hg1 (hq.trans hqe) hce
    · rfl
  rw [hrelease] at hexec
  obtain ⟨h1, h2, h3⟩ := h.issuesOp h.taken_lane ((onlyThreads_wentOn s c g l t0).trans (onlyThreads_touchFrame _ e.group.die key))
    (touchFrame_groups ..) (execRec s c e g) (curFlag e.group c m.ss) true false
    (p := .store l key (widBytes m.wid) (stored m rd) tbl) rfl
  exact ⟨_, _, tbl, hexec, h1, h2, h3, rfl, rfl, rfl⟩

/-- A release performs what the group issued before it, and stands alone (R154). -/
theorem Lone.store_releases (h : Lone s c e g (memUses true sp m) l t t0 rd)
    (hflag : flagFull e.group (curFlag e.group c m.ss) = false)
    (hl : LandsAt s e l sp .write (accessAt sp rd m.a m.off) (widBytes m.wid) key) (hrel : m.ord = .rel) :
    ∃ s' op tbl, storeOp sp g m s = .next s' ∧ s'.mem = (releaseGroup s e.ctx.asid c.gid).mem ∧ copiesOf s' c.gid = [] ∧
      (getGroup s' c.gid).map queueOf = some [op] ∧ op.flag = curFlag e.group c m.ss ∧
      op.parts = [.store l key (widBytes m.wid) (stored m rd) tbl] ∧
      (getLane s' c.gid l).map (fun t => { t with poison := none }) = some { goOn c.next t0 with poison := none } := by
  obtain ⟨tbl, hexec⟩ := h.storeOp_eq hflag hl
  rw [if_pos (by simp [hrel])] at hexec
  obtain ⟨g1, hg1, -⟩ := h.getGroup_wentOn t0
  obtain ⟨hcopies, ⟨g2, hg2, hq2⟩, hlanes⟩ := releaseGroup_performs e.ctx.asid hg1
  have hmem := releaseGroup_mem (bareThreads_wentOn s c g l t0) e.ctx.asid c.gid
  generalize releaseGroup (wentOn s c g l t0) e.ctx.asid c.gid = s1 at hexec hcopies hg2 hlanes hmem
  have hissue := onlyThreads_issueOp (touchFrame s1 e.group.die key) c e (execRec s c e g) (curFlag e.group c m.ss) true false
    (.store l key (widBytes m.wid) (stored m rd) tbl)
  have hstate := (((onlyThreads_touchFrame s1 e.group.die key).trans hissue).trans (onlyThreads_countEvent _ e.ctx.asid 0 1)).1
  refine ⟨_, newOp (touchFrame s1 e.group.die key).nextId (execRec s c e g) (curFlag e.group c m.ss) true false
    (.store l key (widBytes m.wid) (stored m rd) tbl), tbl, hexec, ?_, ?_, ?_, rfl, rfl, ?_⟩
  · rw [hstate]
    exact hmem
  · rw [hstate]
    exact hcopies
  · show (getGroup (issueOp (touchFrame s1 e.group.die key) c e (execRec s c e g) (curFlag e.group c m.ss) true false
      [.store l key (widBytes m.wid) (stored m rd) tbl]) c.gid).map queueOf = _
    rw [getGroup_issueOp, if_pos rfl, getGroup, touchFrame_groups, ← getGroup, hg2]
    exact congrArg some (queueOf_issuedIn hq2 rfl)
  · show (getLane (issueOp (touchFrame s1 e.group.die key) c e (execRec s c e g) (curFlag e.group c m.ss) true false
      [.store l key (widBytes m.wid) (stored m rd) tbl]) c.gid l).map _ = _
    rw [getLane_issueOp, if_pos ⟨rfl, rfl⟩, getLane_groups s1 _ (touchFrame_groups ..)]
    have hl1 := (hlanes c.gid l).trans (congrArg _ (h.becomes_wentOn h.taken_lane).1)
    rw [Option.map_map]
    exact hl1

end

/-! ## Fences -/

theorem settleStreams_nil (s : State) (c : Cur) (e : Env) (g : Guard) : settleStreams s c e g [] = s := by
  have hr : streamRanges s c e g [] = [] := by
    refine List.flatMap_eq_nil_iff.2 fun l _ => ?_
    split
    · rfl
    · simp [usedStreams]
  rw [settleStreams, hr]

theorem modLane_id (s : State) (gid l : Nat) : modLane s gid l (fun t => t) = s := by
  simp [modLane, modGroup, groupLane, modBy]

/-- Lanes with nothing to do go on. -/
theorem foldLanes_idle (s : State) (c : Cur) (e : Env) (g : Guard) (hd : c.lanes.Nodup) :
    foldLanes s c e g (fun _ s => .ok s) =
      countEvent (modLanes s c.gid c.lanes fun _ => goOn c.next) e.ctx.asid 0 (activeLanes s c g).length := by
  have hret : retire c (activeLanes s c g) (fun _ t => t) = fun _ => goOn c.next := by
    funext k t
    exact ite_self _
  rw [foldLanes_ok s c e g _ (fun _ t => t) (fun _ _ h => h) hd fun l _ s' _ _ => by rw [modLane_id], hret]

/-- A thread that goes on, its due fault left out. -/
theorem goOn_clean (next : Nat) (t : Thread) :
    { goOn next t with poison := none } = goOn next { t with poison := none } := by
  have hend : blockEnd { t with poison := none } = blockEnd t := rfl
  unfold goOn
  rw [hend]
  split <;> rfl

section
variable {s : State} {c : Cur} {e : Env} {g : Guard}

/-- What a fence performs before its lanes go on. -/
def fenced (s : State) (c : Cur) (e : Env) (g : Guard) (k : FenceKind) : State :=
  if (activeLanes s c g).isEmpty then s
  else if k == .acq then drainGroup s e.ctx.asid c.gid else releaseGroup s e.ctx.asid c.gid

theorem exec_fence (k : FenceKind) (sc : Scope) (spc : BitVec 4) (hc : s.cur = some c) (he : env s c.gid = some e)
    (hd : c.lanes.Nodup) : ∃ n, exec (.fence g k sc spc) s =
      .next (countEvent (modLanes (fenced s c e g k) c.gid c.lanes fun _ => goOn c.next) e.ctx.asid 0 n) := by
  refine ⟨(activeLanes (fenced s c e g k) c g).length, ?_⟩
  rw [← foldLanes_idle (fenced s c e g k) c e g hd]
  show execFence g k sc spc s = _
  unfold execFence withCur
  simp only [hc, he]
  rfl

theorem queueOf_fence (s1 : State) (gid n : Nat) (ls : List Nat) (f : Thread → Thread) (asid : Nat) :
    (getGroup (countEvent (modLanes s1 gid ls fun _ => f) asid 0 n) gid).map queueOf = (getGroup s1 gid).map queueOf := by
  show (getGroup (modLanes s1 gid ls fun _ => f) gid).map queueOf = _
  rw [modLanes, getGroup_modGroup s1 gid gid (onLanes ls fun _ => f) fun _ => rfl, if_pos rfl, Option.map_map]
  rfl

/-- A fence with an acting lane leaves nothing that it orders. -/
theorem fenced_performs (he : env s c.gid = some e) (k : FenceKind) (ha : activeLanes s c g ≠ []) :
    (getGroup (fenced s c e g k) c.gid).map queueOf = some [] ∧ (k ≠ .acq → copiesOf (fenced s c e g k) c.gid = []) := by
  have hg := env_group s c.gid e he
  rw [fenced, if_neg (by simpa using ha)]
  split
  · next hk =>
    obtain ⟨g', hg', -, hq⟩ := (drainGroup_performs e.ctx.asid hg).getGroup_eq hg
    exact ⟨by rw [hg', Option.map_some, hq.queueOf_nil], fun hn => absurd (by simpa using hk) hn⟩
  · obtain ⟨hcopies, ⟨g', hg', hq⟩, -⟩ := releaseGroup_performs e.ctx.asid hg
    exact ⟨by rw [hg', Option.map_some, hq], fun _ => hcopies⟩

/-- What a fence performs leaves threads as they were, but for due faults. -/
theorem fenced_lanes (he : env s c.gid = some e) (k : FenceKind) (l : Nat) :
    (getLane (fenced s c e g k) c.gid l).map (fun t => { t with poison := none }) =
      (getLane s c.gid l).map fun t => { t with poison := none } := by
  have hg := env_group s c.gid e he
  unfold fenced
  split
  · rfl
  split
  · exact (drainGroup_performs e.ctx.asid hg).getLane_eq c.gid l
  · exact (releaseGroup_performs e.ctx.asid hg).2.2 c.gid l

/-- With nothing outstanding a fence performs nothing. -/
theorem fenced_idle (he : env s c.gid = some e) {k : FenceKind} (hq : queueOf e.group = []) (hk : k = .acq ∨ copiesOf s c.gid = []) :
    fenced s c e g k = s := by
  have hg := env_group s c.gid e he
  unfold fenced
  split
  · rfl
  split
  · exact drainGroup_idle e.ctx.asid hg hq
  · next hne => exact releaseGroup_performed e.ctx.asid hg hq (hk.resolve_left (by simpa using hne))

theorem advance_lanes (c : Cur) (k : Nat) (t : Thread) (h : t.lane = k) : (goOn c.next t).lane = k := (goOn_lane c.next t).trans h

/-- A fence performs what it orders; its lanes go on. -/
theorem fencesPerform : Parts.FencesPerformWhatStandsInTheQueue := by
  intro g k sc spc s c e hr
  obtain ⟨n, hexec⟩ := exec_fence (g := g) k sc spc hr.cur hr.env hr.nodup
  have hlane : ∀ gid l, getLane (countEvent (modLanes (fenced s c e g k) c.gid c.lanes fun _ => goOn c.next) e.ctx.asid 0 n) gid l =
      if c.gid = gid ∧ l ∈ c.lanes then (getLane (fenced s c e g k) gid l).map (goOn c.next) else getLane (fenced s c e g k) gid l :=
    fun gid l => (getLane_groups _ _ rfl gid l).trans (getLane_modLanes _ _ _ _ _ _ (advance_lanes c))
  refine ⟨_, hexec, fun ha => ?_, fun _ l hl => ?_, fun hq hk => ⟨?_, fun gid l => ?_⟩⟩
  · obtain ⟨h1, h2⟩ := fenced_performs hr.env k ha
    exact ⟨(queueOf_fence ..).trans h1, h2⟩
  · have hcomp : (fun t : Thread => { goOn c.next t with poison := none }) =
        goOn c.next ∘ fun t => { t with poison := none } := funext fun t => goOn_clean c.next t
    rw [hlane, if_pos ⟨rfl, hl⟩, Option.map_map]
    show (getLane (fenced s c e g k) c.gid l).map (fun t => { goOn c.next t with poison := none }) = _
    rw [hcomp, ← Option.map_map, fenced_lanes hr.env, Option.map_map]
  · rw [fenced_idle hr.env hq hk]
    exact (onlyThreads_modLanes ..).trans (onlyThreads_countEvent ..)
  · rw [hlane, fenced_idle hr.env hq hk]
    simp only [eq_comm]

end

/-! ## O16 -/

/-- Settles O16: a store passes its checks and joins the queue, or stands alone in it as a release does; a fence has performed what
it orders when its lanes go on. -/
theorem storesAndFencesFollowTheStoreQueue : Obligations.StoresAndFencesFollowTheStoreQueue := by
  refine ⟨fun g m x hx s c e l t t0 rd key h hflag hl => ?_, fencesPerform⟩
  simp only [List.mem_cons, List.not_mem_nil, or_false] at hx
  rcases hx with rfl | rfl | rfl | rfl
  · exact ⟨h.store_joins hflag hl, h.store_releases hflag hl⟩
  · exact ⟨h.store_joins hflag hl, h.store_releases hflag hl⟩
  · exact ⟨h.store_joins hflag hl, h.store_releases hflag hl⟩
  · exact ⟨h.store_joins hflag hl, h.store_releases hflag hl⟩

end Sys2Proof.Machine
end

section
/-!
THE LIMITS OF WAITING (R76, R295, R298): a hold released by the progress rule, the mark of age, the order of slots, and the limits of
words of a pending pre-emption.
-/

namespace Sys2Proof.Machine

/-! ## A group that settles with no hold and no wait that ends -/

/-- A group of which no entry releases its threads and no thread's wait ends keeps its threads and its stack. -/
theorem settledIn_quiet {n : Nat} {pending : Bool} {g : Group} (hstack : ∀ x ∈ g.stack, entryDone g x = false)
    (hwait : ∀ t ∈ g.threads, settleWait n pending g t = t) : settledIn n pending g = freeCross (crossOver g) g := by
  have hfold : ∀ xs : List RcEntry, (∀ x ∈ xs, entryDone g x = false) → xs.foldl settleEntry g = g := fun xs hx => by
    induction xs with
    | nil => rfl
    | cons x xs ih =>
      have hone : settleEntry g x = g := by
        rw [settleEntry, hx x (by simp)]
        rfl
      rw [List.foldl_cons, hone]
      exact ih fun y hy => hx y (by simp [hy])
  have hmap : g.threads.map (settleWait n pending g) = g.threads :=
    (List.map_congr_left hwait).trans (List.map_id _)
  simp only [settledIn, hfold g.stack hstack, hmap]

/-- A thread that waits for its flags is checked again. -/
theorem settleWait_waiting {n : Nat} {p : Bool} {g : Group} {t : Thread} (hst : t.status = .header) (hs : t.stall = some .flags) :
    settleWait n p g t = leaveHeader n g p t := by
  simp [settleWait, hst, hs]

theorem settleWait_other {n : Nat} {pending : Bool} {g : Group} {t : Thread} (h : t.stall ≠ some .flags) :
    settleWait n pending g t = t := by
  rw [settleWait, if_neg (by simp [h])]

/-- The groups after the settling of one with a thread that has not exited. -/
theorem getGroup_settleGroup {s : State} {gid : Nat} {g : Group} (hg : getGroup s gid = some g)
    (hlive : ∃ t ∈ g.threads, t.status ≠ .exited) (j : Nat) : getGroup (settleGroup s gid) j =
      if gid = j then some (settledIn (regsOf s g) (preemptPending s g) g) else getGroup s j := by
  have hid : (settledIn (regsOf s g) (preemptPending s g) g).gid = gid := by
    rw [(resettled_settledIn (regsOf s g) (preemptPending s g) g).1]
    exact find_key Group.gid gid s.groups g hg
  rw [settleGroup_eq hg hlive]
  generalize settledIn (regsOf s g) (preemptPending s g) g = g2 at hid
  rw [getGroup_modGroup s gid j (fun x => { g2 with gid := x.gid }) fun _ => rfl]
  split
  · next hj =>
    rw [← hj, hg, Option.map_some, find_key Group.gid gid s.groups g hg, ← hid]
  · rfl

/-! ## The progress rule -/

/-- A list's only threads with their lanes. -/
theorem laneThread_of_mem {g : Group} (hnd : (g.threads.map (·.lane)).Nodup) {t : Thread} (ht : t ∈ g.threads) :
    laneThread g t.lane = some t := by
  have hsome : (g.threads.find? (·.lane == t.lane)).isSome = true := List.find?_isSome.2 ⟨t, ht, by simp⟩
  obtain ⟨u, hu⟩ := Option.isSome_iff_exists.1 hsome
  rw [laneThread, hu, List.inj_on_of_nodup_map hnd (List.mem_of_find?_eq_some hu) ht (by simpa using List.find?_some hu)]

/-- A group set to a value that differs in threads, stack and releases. -/
theorem onlyThreads_modGroup_const {s : State} {gid : Nat} {g g' : Group} (hg : getGroup s gid = some g)
    (hf : groupFrame g' = groupFrame g) : OnlyThreads s (modGroup s gid fun _ => g') ∧
      ∀ j, getGroup (modGroup s gid fun _ => g') j = if gid = j then some g' else getGroup s j := by
  have hid : g'.gid = gid := (congrArg Group.gid hf :).trans (find_key Group.gid gid s.groups g hg)
  have hget : ∀ j, getGroup (modGroup s gid fun _ => g') j = if gid = j then some g' else getGroup s j := fun j => by
    rw [modGroup_const hid, getGroup_modGroup s gid j (fun x => { g' with gid := x.gid }) fun _ => rfl]
    split
    · next hj =>
      rw [← hj, hg, Option.map_some, find_key Group.gid gid s.groups g hg, ← hid]
    · rfl
  refine ⟨⟨rfl, fun j => ?_, fun _ => rfl⟩, hget⟩
  rw [hget]
  split
  · next hj => rw [← hj, hg, Option.map_some, Option.map_some, hf]
  · rfl

/-- An overdue hold is released, and its threads' headers are to be checked anew (R298). -/
theorem progressRule_releases {s : State} {gid : Nat} {g : Group} (hg : getGroup s gid = some g) {r : RcEntry}
    (hst : g.stack = [r]) (hnd : (g.threads.map (·.lane)).Nodup) (hflags : ∀ t ∈ g.threads, t.stall ≠ some .flags)
    (hcross : ∀ t ∈ g.threads, t.stall = some .cross → t.holdWords < 1024) (hheld : ∃ t ∈ g.threads, heldBy r t = true)
    (hdue : ∀ t ∈ g.threads, heldBy r t = true → 1024 ≤ t.holdWords ∧ t.status = .header) :
    ∃ s', exec (.progressRuleRelease gid) s = .next s' ∧ OnlyThreads s s' ∧
      (getGroup s' gid).map (·.stack) = some [] ∧
      ∀ t ∈ g.threads, getLane s' gid t.lane = some (
        if heldBy r t then { t with stall := none, arrival := .released (t.arrival == .fall) } else t) := by
  have hover : entryOverdue g r = true := by
    obtain ⟨t, ht, hh⟩ := hheld
    rw [entryOverdue, Bool.and_eq_true, Bool.not_eq_true', List.all_eq_true]
    refine ⟨by rw [List.isEmpty_eq_false_iff_exists_mem]; exact ⟨t, List.mem_filter.2 ⟨ht, hh⟩⟩, fun u hu => ?_⟩
    obtain ⟨hu1, hu2⟩ := List.mem_filter.1 hu
    exact decide_eq_true (hdue u hu1 hu2).1
  have hempty : (releaseEntry g r).stack = [] := by simp [releaseEntry, hst]
  have hmem : ∀ u ∈ (releaseEntry g r).threads, ∃ t ∈ g.threads, u = if heldBy r t then releaseThread t else t := fun u hu => by
    obtain ⟨t, ht, rfl⟩ := List.mem_map.1 hu
    exact ⟨t, ht, rfl⟩
  have hstall : ∀ u ∈ (releaseEntry g r).threads, u.stall = none ∨ u ∈ g.threads := fun u hu => by
    obtain ⟨t, ht, rfl⟩ := hmem u hu
    split
    · exact .inl rfl
    · exact .inr ht
  have hpcs : ((releaseEntry g r).threads.filter fun t => t.stall == some .cross && decide (1024 ≤ t.holdWords)).map (·.pc) = [] := by
    rw [List.map_eq_nil_iff, List.filter_eq_nil_iff]
    intro u hu
    rcases hstall u hu with hn | hm
    · simp [hn]
    · intro hb
      rw [Bool.and_eq_true, beq_iff_eq, decide_eq_true_eq] at hb
      have := hcross u hm hb.1
      omega
  have hfree : freeCross [] (releaseEntry g r) = releaseEntry g r := by simp [freeCross]
  obtain ⟨ho, hget⟩ := onlyThreads_modGroup_const (g' := releaseEntry g r) hg rfl
  have hg1 : getGroup (modGroup s gid fun _ => releaseEntry g r) gid = some (releaseEntry g r) := by rw [hget, if_pos rfl]
  have hlive : ∃ t ∈ (releaseEntry g r).threads, t.status ≠ .exited := by
    obtain ⟨t, ht, hh⟩ := hheld
    refine ⟨_, List.mem_map_of_mem ht, ?_⟩
    rw [if_pos hh]
    show t.status ≠ .exited
    rw [(hdue t ht hh).2]
    exact nofun
  have hquiet : ∀ n p, settledIn n p (releaseEntry g r) = freeCross (crossOver (releaseEntry g r)) (releaseEntry g r) :=
    fun n p => settledIn_quiet (by simp [hempty]) fun u hu => settleWait_other <| by
      rcases hstall u hu with hn | hm
      · simp [hn]
      · exact hflags u hm
  refine ⟨settleGroup (modGroup s gid fun _ => releaseEntry g r) gid, ?_, ho.trans (settleGroup_keeps hg1 hlive).1, ?_, fun t ht => ?_⟩
  · show execProgressRuleRelease gid s = _
    simp only [execProgressRuleRelease, hg, hst, List.foldl_cons, List.foldl_nil, hover, if_true, hpcs, List.dedup_nil, hfree]
  · rw [getGroup_settleGroup hg1 hlive, if_pos rfl, hquiet]
    exact congrArg some hempty
  · rw [getLane, getGroup_settleGroup hg1 hlive, if_pos rfl, hquiet, Option.bind_some]
    show laneThread (releaseEntry g r) t.lane = _
    rw [laneThread_map (f := fun t => if heldBy r t then releaseThread t else t) rfl fun t => by split <;> rfl,
      laneThread_of_mem hnd ht]
    rfl

/-! ## The order of slots -/

/-- The rule of R295 by which a group takes its turn, and its rank by that rule. -/
def slotClass (g : Group) : Nat := if g.aged.isSome then 0 else if 64 ≤ g.passed then 1 else 2

/-- The rank of a group by its rule, the lowest first. -/
def slotWithin (s : State) (g : Group) : Nat :=
  match g.aged with
  | some c => c
  | none => if 64 ≤ g.passed then g.born else 3 - min 3 (groupBand s g)

theorem slotRank_eq (s : State) (g : Group) : ∃ rest, slotRank s g = slotClass g :: slotWithin s g :: rest := by
  unfold slotRank slotClass slotWithin
  cases g.aged with
  | some c => exact ⟨_, rfl⟩
  | none =>
    by_cases h : 64 ≤ g.passed
    · simp [h]
    · simp [h]

/-- A group does not come after another by its rule and its rank. -/
def NotAfter (s : State) (x y : Group) : Prop :=
  slotClass x < slotClass y ∨ (slotClass x = slotClass y ∧ slotWithin s x ≤ slotWithin s y)

theorem notAfter_of_rank {s : State} {x y : Group} : (rankBelow (slotRank s x) (slotRank s y) = true → NotAfter s x y) ∧
    (rankBelow (slotRank s x) (slotRank s y) = false → NotAfter s y x) := by
  obtain ⟨rx, hx⟩ := slotRank_eq s x
  obtain ⟨ry, hy⟩ := slotRank_eq s y
  rw [hx, hy]
  simp only [rankBelow, Bool.or_eq_true, Bool.and_eq_true, decide_eq_true_eq, beq_iff_eq, Bool.or_eq_false_iff,
    Bool.and_eq_false_iff, decide_eq_false_iff_not, beq_eq_false_iff_ne, NotAfter]
  omega

/-- The first group comes after no other. -/
theorem firstGroup_notAfter {s : State} {gs : List Group} {x : Group} (h : firstGroup s gs = some x) :
    x ∈ gs ∧ ∀ y ∈ gs, NotAfter s x y := by
  have hrefl : ∀ g, NotAfter s g g := fun g => .inr ⟨rfl, le_rfl⟩
  induction gs generalizing x with
  | nil => cases h
  | cons g gs ih =>
    rw [firstGroup] at h
    cases hf : firstGroup s gs with
    | none =>
      have hnil : gs = [] := by
        cases gs with
        | nil => rfl
        | cons g' gs' =>
          rw [firstGroup] at hf
          revert hf
          split
          · exact nofun
          · split <;> exact nofun
      rw [hf] at h
      obtain rfl := Option.some.inj h
      subst hnil
      exact ⟨by simp, by simp [hrefl]⟩
    | some z =>
      obtain ⟨hz, hmin⟩ := ih hf
      rw [hf] at h
      dsimp only at h
      split at h
      · next hb =>
        obtain rfl := Option.some.inj h
        exact ⟨by simp [hz], List.forall_mem_cons.2 ⟨notAfter_of_rank.1 hb, hmin⟩⟩
      · next hb =>
        obtain rfl := Option.some.inj h
        have hgz := notAfter_of_rank.2 (by simpa using hb)
        refine ⟨by simp, List.forall_mem_cons.2 ⟨hrefl g, fun y hy => ?_⟩⟩
        have := hmin y hy
        unfold NotAfter at *
        omega

/-- A slot goes first to the group marked longest, then to one passed over 64 times, then to the highest band (R295). -/
theorem firstGroup_order {s : State} {gs : List Group} {x : Group} (h : firstGroup s gs = some x) : x ∈ gs ∧
    (∀ y ∈ gs, ∀ m, y.aged = some m → ∃ n, x.aged = some n ∧ n ≤ m) ∧
    ((∀ y ∈ gs, y.aged = none) → (∃ y ∈ gs, 64 ≤ y.passed) → 64 ≤ x.passed) ∧
    ((∀ y ∈ gs, y.aged = none ∧ y.passed < 64) → ∀ y ∈ gs, min 3 (groupBand s y) ≤ min 3 (groupBand s x)) := by
  obtain ⟨hx, hmin⟩ := firstGroup_notAfter h
  refine ⟨hx, fun y hy m hm => ?_, fun hall ⟨y, hy, hp⟩ => ?_, fun hall y hy => ?_⟩
  · have hyx := hmin y hy
    have hcy : slotClass y = 0 := by simp [slotClass, hm]
    have hwy : slotWithin s y = m := by simp [slotWithin, hm]
    cases ha : x.aged with
    | none =>
      have hcx : slotClass x ≠ 0 := by
        rw [slotClass, ha]
        split
        · contradiction
        · split <;> exact nofun
      unfold NotAfter at hyx
      omega
    | some n =>
      have hcx : slotClass x = 0 := by simp [slotClass, ha]
      have hwx : slotWithin s x = n := by simp [slotWithin, ha]
      refine ⟨n, rfl, ?_⟩
      unfold NotAfter at hyx
      omega
  · have hyx := hmin y hy
    have hcy : slotClass y = 1 := by simp [slotClass, hall y hy, hp]
    by_contra hpx
    have hcx : slotClass x = 2 := by simp [slotClass, hall x hx, hpx]
    unfold NotAfter at hyx
    omega
  · have hyx := hmin y hy
    have hclass : ∀ z ∈ gs, slotClass z = 2 ∧ slotWithin s z = 3 - min 3 (groupBand s z) := fun z hz => by
      obtain ⟨h1, h2⟩ := hall z hz
      simp [slotClass, slotWithin, h1, Nat.not_le.2 h2]
    obtain ⟨-, hwx⟩ := hclass x hx
    obtain ⟨-, hwy⟩ := hclass y hy
    have hcx := (hclass x hx).1
    have hcy := (hclass y hy).1
    unfold NotAfter at hyx
    omega

/-! ## The limits -/

theorem takesAt_iff (g : Group) (pmk : Nat) (waits : Bool) : takesAt g pmk waits = true ↔ waits = true ∨ pmk = 1 ∨
    (pmk = 0 ∧ (1 ≤ g.limit ∨ 65536 ≤ g.words)) ∨ 2 ≤ g.limit ∨ 69632 ≤ g.words := by
  have h1 : 1 ≤ limitOf g ↔ 1 ≤ g.limit ∨ 65536 ≤ g.words := by
    unfold limitOf
    split
    · omega
    · split <;> omega
  have h2 : 2 ≤ limitOf g ↔ 2 ≤ g.limit ∨ 69632 ≤ g.words := by
    unfold limitOf
    split
    · omega
    · split <;> omega
  simp only [takesAt, Bool.or_eq_true, Bool.and_eq_true, beq_iff_eq, decide_eq_true_eq, h1, h2]
  tauto

/-- The limits of waiting: the hold, the age, the order of slots and the counts of words. -/
theorem limitsOfWaitingAreEnforced : Parts.LimitsOfWaitingAreEnforced := by
  intro s gid g hg
  have hmod : ∀ F : Group → Group, (∀ g, (F g).gid = g.gid) → getGroup (modGroup s gid F) gid = some (F g) := fun F hF => by
    rw [getGroup_modGroup s gid gid F hF, if_pos rfl, hg]
    rfl
  have hage : ∀ c x, (ageMark c x).gid = x.gid := fun c x => by
    unfold ageMark
    split
    · split <;> rfl
    · rfl
  refine ⟨fun r hst _ hnd hflags hcross hheld hdue => progressRule_releases hg hst hnd hflags hcross hheld hdue,
    ⟨modGroup s gid fun x => ageMark (getDie s x.die).cyc x, rfl, rfl, fun c hc hle => ?_, fun hlt => ?_⟩, fun gs x => firstGroup_order,
    takesAt_iff g, fun hp hw => ⟨_, rfl, ?_, rfl⟩, fun hp hw => ⟨_, rfl, ?_, rfl⟩⟩
  · rw [hmod _ fun x => hage _ x]
    simp only [ageMark, hc, hle, if_true]
  · rw [hmod _ fun x => hage _ x, ageMark]
    cases hs : g.since with
    | none => rfl
    | some c =>
      have := hlt c hs
      dsimp only
      rw [if_neg (by omega)]
  · rw [hmod _ fun x => by split <;> rfl, hp]
    simp [hw]
  · rw [hmod _ fun x => by split <;> rfl, hp]
    simp [hw]

end Sys2Proof.Machine
end
section
/-!
ENTERING A HEADER (R60, R62, R64 to R66): one thread arrives; what its group settles to, the fault with which it parks, its hold, its
wait and its admission, and obligation O39.
-/

namespace Sys2Proof.Machine

/-! ## The group after one thread has arrived -/

/-- What `stopHeld` does to a group. -/
def stopHeldIn (s : State) (g : Group) : Group :=
  if preemptPending s g then
    { g with threads := g.threads.map fun t =>
        if t.stall == some .held then { t with status := .stopped false, stall := none, keep := keepAt (regsOf s g) t.hword }
        else t }
  else g

theorem groupFrame_stopHeldIn (s : State) (g : Group) : groupFrame (stopHeldIn s g) = groupFrame g := by
  unfold stopHeldIn
  split <;> rfl

/-- With no pre-emption pending no held thread is taken. -/
theorem stopHeld_idle {s : State} {gid : Nat} {g : Group} (hg : getGroup s gid = some g) (hp : preemptPending s g = false) :
    OnlyThreads s (stopHeld s gid) ∧ ∀ j, getGroup (stopHeld s gid) j = getGroup s j := by
  have heq : stopHeld s gid = modGroup s gid (stopHeldIn s) := rfl
  rw [heq]
  refine ⟨onlyThreads_modGroup s gid _ (groupFrame_stopHeldIn s), fun j => ?_⟩
  rw [getGroup_modGroup s gid j (stopHeldIn s) fun x => (congrArg Group.gid (groupFrame_stopHeldIn s x) :)]
  split
  · next hj =>
    rw [← hj, hg, Option.map_some, stopHeldIn, hp]
    rfl
  · rfl

theorem preemptPending_congr {s s1 : State} {g g1 : Group} (h : OnlyThreads s s1) (hf : groupFrame g1 = groupFrame g) :
    preemptPending s1 g1 = preemptPending s g := by
  have htid : g1.tid = g.tid := (congrArg Group.tid hf :)
  rw [preemptPending, preemptPending, htid, h.1]
  rfl

/-- A thread of a group whose lane `l` alone has changed: the changed one, or one of another lane as it was. -/
theorem mem_modBy_lane {ts : List Thread} {l : Nat} {t : Thread} {f : Thread → Thread} (hnd : (ts.map (·.lane)).Nodup)
    (ht : t ∈ ts) (hl : t.lane = l) {u : Thread} (hu : u ∈ modBy (·.lane == l) f ts) : u = f t ∨ (u ∈ ts ∧ u.lane ≠ l) := by
  obtain ⟨v, hv, rfl⟩ := List.mem_map.1 hu
  by_cases hvl : v.lane = l
  · obtain rfl := List.inj_on_of_nodup_map hnd hv ht (hvl.trans hl.symm)
    simp [hvl]
  · simp [hvl, hv]

section
variable {s s1 : State} {c : Cur} {e : Env} {l : Nat} {t : Thread} {g1 : Group} {f : Thread → Thread}

/-- One thread arrives, and its group settles with nothing that ends: the thread is what its entry made of it. -/
theorem enterHeader_settles (hc : s.cur = some c) (he : env s c.gid = some e) (hls : c.lanes = [l])
    (ht : getLane s c.gid l = some t) (hp : preemptPending s e.group = false) (hnd : (e.group.threads.map (·.lane)).Nodup)
    (hothers : ∀ u ∈ e.group.threads, u.lane ≠ l → u.stall ≠ some .flags ∧ u.stall ≠ some .held)
    (hs1 : enterOne s e l = s1) (ho : OnlyThreads s s1)
    (hget : ∀ j, getGroup s1 j = if c.gid = j then some g1 else getGroup s j) (hframe : groupFrame g1 = groupFrame e.group)
    (hth : g1.threads = modBy (·.lane == l) f e.group.threads) (hfl : ∀ u, u.lane = l → (f u).lane = l)
    (hstack : ∀ x ∈ g1.stack, entryDone g1 x = false) (hwait : ∀ n, settleWait n false g1 (f t) = f t)
    (hlive : ∃ u ∈ g1.threads, u.status ≠ .exited) :
    ∃ s', exec .enterHeader s = .next s' ∧ OnlyThreads s s' ∧ getLane s' c.gid l = some (f t) ∧
      (∀ gid k, ¬(gid = c.gid ∧ k = l) → getLane s' gid k = getLane s gid k) ∧
      (getGroup s' c.gid).map (·.stack) = some g1.stack := by
  have hg := env_group s c.gid e he
  rw [getLane, hg, Option.bind_some] at ht
  have htmem : t ∈ e.group.threads := List.mem_of_find?_eq_some ht
  have htl : t.lane = l := by simpa using List.find?_some ht
  have hg1 : getGroup s1 c.gid = some g1 := by rw [hget, if_pos rfl]
  have hp1 : preemptPending s1 g1 = false := (preemptPending_congr ho hframe).trans hp
  have hall : ∀ n, ∀ u ∈ g1.threads, settleWait n false g1 u = u := fun n u hu => by
    rw [hth] at hu
    rcases mem_modBy_lane hnd htmem htl hu with rfl | ⟨hu1, hu2⟩
    · exact hwait n
    · exact settleWait_other (hothers u hu1 hu2).1
  have hset : settledIn (regsOf s1 g1) (preemptPending s1 g1) g1 = freeCross (crossOver g1) g1 := by
    rw [hp1]
    exact settledIn_quiet hstack (hall _)
  have hsg : ∀ j, getGroup (settleGroup s1 c.gid) j = if c.gid = j then some (freeCross (crossOver g1) g1) else getGroup s j :=
    fun j => by
      rw [getGroup_settleGroup hg1 hlive, hset, hget]
      split <;> rfl
  obtain ⟨hso, -, -⟩ := settleGroup_keeps hg1 hlive
  obtain ⟨h2, h3⟩ := stopHeld_idle (s := settleGroup s1 c.gid) (g := freeCross (crossOver g1) g1) (by rw [hsg, if_pos rfl])
    ((preemptPending_congr hso rfl).trans hp1)
  have hlane : ∀ k, laneThread (freeCross (crossOver g1) g1) k =
      if l = k then (laneThread e.group k).map f else laneThread e.group k := fun k => by
    rw [← laneThread_groupLane _ _ _ _ hfl]
    exact congrArg (List.find? _) hth
  refine ⟨stopHeld (settleGroup s1 c.gid) c.gid, ?_, (ho.trans hso).trans h2, ?_, fun gid k hk => ?_, ?_⟩
  · show execEnterHeader s = _
    simp only [execEnterHeader, withCur, hc, he, hls, List.foldl_cons, List.foldl_nil, hs1]
  · rw [getLane, h3, hsg, if_pos rfl, Option.bind_some, hlane, if_pos rfl, ht]
    rfl
  · rw [getLane, h3, hsg]
    split
    · next hj =>
      rw [Option.bind_some, hlane, if_neg fun hl => hk ⟨hj.symm, hl.symm⟩, getLane, ← hj, hg, Option.bind_some]
    · rfl
  · rw [h3, hsg, if_pos rfl]
    rfl

end

/-! ## A thread that parks at its header -/

section
variable {s : State} {c : Cur} {e : Env} {l : Nat} {t : Thread}

theorem seqHandlerDue_none (h : e.team.seq.status = .running ∨ e.team.seq.status = .ended) (u : Thread) :
    seqHandlerDue s e l u = none := by
  unfold seqHandlerDue
  rcases h with h | h <;> rw [h]

/-- A thread whose entry is a fault of a class parks at the header (R64). -/
theorem enterHeader_parks (hc : s.cur = some c) (he : env s c.gid = some e) (hls : c.lanes = [l])
    (ht : getLane s c.gid l = some t) (hh : t.handler = false) (hp : preemptPending s e.group = false)
    (hnd : (e.group.threads.map (·.lane)).Nodup)
    (hothers : ∀ u ∈ e.group.threads, u.lane ≠ l → u.stall ≠ some .flags ∧ u.stall ≠ some .held)
    (hst : e.group.stack = []) {cls : Nat} (hs1 : enterOne s e l = raise s e t.pc [l] [(l, { cls := cls })] true) :
    ∃ s', exec .enterHeader s = .next s' ∧ OnlyThreads s s' ∧
      getLane s' c.gid l = some { t with status := .parked cls 0 false true, stall := none } ∧
      ∀ gid k, ¬(gid = c.gid ∧ k = l) → getLane s' gid k = getLane s gid k := by
  have hg := env_group s c.gid e he
  have hgid := env_gid s c.gid e he
  have hraise := raise_same s e t.pc [l] [l] { cls := cls } true (List.nodup_singleton l) fun k hk => by
    rw [List.mem_singleton.1 hk, hgid, ht]
    rfl
  rw [List.map_cons, List.map_nil] at hraise
  have hft : parkAt t.pc { cls := cls } true t = { t with status := .parked cls 0 false true, stall := none } := by
    simp [parkAt, hh]
  have hget : ∀ j, getGroup (parkLanes s e t.pc [l] [l] [l] { cls := cls } true) j =
      if c.gid = j then some (groupLane e.group l (parkAt t.pc { cls := cls } true)) else getGroup s j := fun j => by
    show getGroup (modLanes s e.group.gid [l] fun _ => parkAt t.pc { cls := cls } true) j = _
    rw [hgid, ← modLane_eq, getGroup_modLane]
    split
    · next hj => rw [← hj, hg, Option.map_some]
    · rfl
  obtain ⟨s', h1, h2, h3, h4, -⟩ := enterHeader_settles (f := parkAt t.pc { cls := cls } true) hc he hls ht hp hnd hothers
    (hs1.trans hraise) (onlyThreads_parkLanes ..) hget rfl rfl (fun u hu => (parkAt_lane ..).trans hu)
    (by show ∀ x ∈ e.group.stack, _; simp [hst]) (fun n => settleWait_other (by simp [hft]))
    ⟨_, List.mem_map_of_mem (List.mem_of_find?_eq_some (by rwa [getLane, hg, Option.bind_some] at ht)), by
      rw [if_pos (by simp [getLane_lane s c.gid l t ht]), hft]
      exact nofun⟩
  exact ⟨s', h1, h2, h3.trans (congrArg some hft), h4⟩

end

/-! ## A thread that passes its header's checks -/

/-- The thread that has read the word of its header. -/
def atWord (w : DWord) (t : Thread) : Thread := { t with hdr := t.pc, hword := w }

/-- The thread that is held at its header. -/
def holdHere (t : Thread) : Thread := { t with stall := some .held, holdWords := 0 }

/-- Two changes of the entries of a list that keep their key. -/
theorem modBy_modBy {α : Type} {p : α → Bool} {f f' : α → α} (h : ∀ x, p x = true → p (f x) = true) (xs : List α) :
    modBy p f' (modBy p f xs) = modBy p (fun x => f' (f x)) xs := by
  unfold modBy
  rw [List.map_map]
  refine List.map_congr_left fun x _ => ?_
  by_cases hx : p x = true
  · simp [hx, h x hx]
  · simp [hx]

theorem groupFrame_markArrived (l : Nat) (g : Group) : groupFrame (markArrived l g) = groupFrame g := by
  unfold markArrived
  split <;> rfl

/-- The first thread that arrives at the top entry: no thread is held there yet. -/
theorem markArrived_first {l : Nat} {g : Group} {r : RcEntry} {rest : List RcEntry} (hst : g.stack = r :: rest)
    (hr : r.arrived = []) : markArrived l g = { g with stack := { r with arrived := [l] } :: rest } := by
  have hheld : ∀ t, heldBy r t = false := fun t => by simp [heldBy, hr]
  unfold markArrived
  rw [hst]
  simp [hr, hheld]

theorem entryDone_none {g : Group} {x : RcEntry} (h : x.arrived = []) : entryDone g x = false := by
  simp [entryDone, h]

section
variable {s : State} {c : Cur} {e : Env} {l key : Nat} {t : Thread} {w : DWord}

/-- A fetched header at which no error stands counts as an access to its page. -/
theorem countFetch_eq {x : Context} {die pc fmt geom mt : Nat} {tbl : Bool}
    (hf : fetchWord s x die pc = (.ok key fmt geom tbl mt, w)) (hup : ∀ u ∈ s.upsets, upsetIn [(key, 8)] u = false) :
    countFetch s x die pc = touchFrame s die key := by
  simp only [countFetch, hf]
  refine meetUpsets_none ?_
  rw [(onlyThreads_touchFrame s die key).1]
  exact hup

/-- A thread at a good header word passes on to R65. -/
theorem enterOne_passes (he : env s c.gid = some e) (ht : getLane s c.gid l = some t)
    (hseq : e.team.seq.status = .running ∨ e.team.seq.status = .ended) (hpc : t.pc % 8 = 0) {fmt geom mt : Nat} {tbl : Bool}
    (hf : fetchWord s e.ctx e.group.die t.pc = (.ok key fmt geom tbl mt, w)) (hw : w.getLsbD 63 = true)
    (hbad : headerBad w = false) (hup : ∀ u ∈ s.upsets, upsetIn [(key, 8)] u = false) :
    enterOne s e l = passHeader (modLane (touchFrame s e.group.die key) c.gid l (atWord w)) e l := by
  have hgid := env_gid s c.gid e he
  unfold enterOne
  rw [hgid, ht]
  simp only [seqHandlerDue_none hseq, hpc, hf, hw, hbad, countFetch_eq hf hup]
  rfl

/-- The groups once the thread has read the word of its header. -/
theorem getGroup_atWord (he : env s c.gid = some e) (j : Nat) :
    getGroup (modLane (touchFrame s e.group.die key) c.gid l (atWord w)) j =
      if c.gid = j then some (groupLane e.group l (atWord w)) else getGroup s j := by
  have hgroup : ∀ j, getGroup (touchFrame s e.group.die key) j = getGroup s j := fun j => by
    rw [getGroup, touchFrame_groups, getGroup]
  rw [getGroup_modLane, hgroup]
  split
  · next hj => rw [← hj, env_group s c.gid e he, Option.map_some]
  · rfl

theorem getLane_atWord (ht : getLane s c.gid l = some t) :
    getLane (modLane (touchFrame s e.group.die key) c.gid l (atWord w)) c.gid l = some (atWord w t) := by
  rw [getLane_modLane _ _ _ _ _ (atWord w) fun _ h => h, if_pos ⟨rfl, rfl⟩, getLane_groups s _ (touchFrame_groups ..), ht, Option.map_some]

theorem onlyThreads_atWord : OnlyThreads s (modLane (touchFrame s e.group.die key) c.gid l (atWord w)) :=
  (onlyThreads_touchFrame s e.group.die key).trans (onlyThreads_modLane ..)

/-- A thread that no entry holds leaves its header's checks for its flags or its block. -/
theorem passHeader_leaves (he : env s c.gid = some e) (ht : getLane s c.gid l = some t) (hpo : t.poison = none)
    (hp : preemptPending s e.group = false) (hst : ∀ r, e.group.stack.head? = some r → r.addr ≠ t.pc) :
    passHeader (modLane (touchFrame s e.group.die key) c.gid l (atWord w)) e l =
      modLane (touchFrame s e.group.die key) c.gid l fun u =>
        leaveHeader e.grid.desc.regs (groupLane e.group l (atWord w)) false (atWord w u) := by
  have hgid := env_gid s c.gid e he
  have hpA : preemptPending (modLane (touchFrame s e.group.die key) c.gid l (atWord w)) (groupLane e.group l (atWord w)) = false :=
    (preemptPending_congr onlyThreads_atWord rfl).trans hp
  have hpoA : (atWord w t).poison = none := hpo
  have htop : ((groupLane e.group l (atWord w)).stack.head?.map (·.addr) == some (atWord w t).pc) = false := by
    show (e.group.stack.head?.map (·.addr) == some t.pc) = false
    cases hh : e.group.stack.head? with
    | none => rfl
    | some r => simpa using hst r hh
  have hgA : (groupLane e.group l (atWord w)).gid = c.gid := hgid
  unfold passHeader
  rw [hgid, getGroup_atWord he, if_pos rfl, getLane_atWord ht]
  dsimp only
  rw [hpoA]
  dsimp only
  rw [htop, Bool.and_false, if_neg Bool.false_ne_true, hpA, hgA, modLane_modLane _ _ _ (atWord w) _ fun _ h => h]

/-- A thread that the top entry names is held there. -/
theorem passHeader_holds (he : env s c.gid = some e) (ht : getLane s c.gid l = some t) (hpo : t.poison = none)
    {r : RcEntry} {rest : List RcEntry} (hst : e.group.stack = r :: rest) (ha : r.addr = t.pc)
    (hrel : ∀ b, t.arrival ≠ .released b) :
    passHeader (modLane (touchFrame s e.group.die key) c.gid l (atWord w)) e l =
      modLane (modGroup (modLane (touchFrame s e.group.die key) c.gid l (atWord w)) c.gid (markArrived l)) c.gid l holdHere := by
  have hgid := env_gid s c.gid e he
  have hpoA : (atWord w t).poison = none := hpo
  have hrelA : releasedTo (atWord w t) = false := by
    show (match t.arrival with | .released _ => true | _ => false) = false
    split
    · next b hb => exact absurd hb (hrel b)
    · rfl
  have htop : ((groupLane e.group l (atWord w)).stack.head?.map (·.addr) == some (atWord w t).pc) = true := by
    show (e.group.stack.head?.map (·.addr) == some t.pc) = true
    simp [hst, ha]
  have hgA : (groupLane e.group l (atWord w)).gid = c.gid := hgid
  unfold passHeader
  rw [hgid, getGroup_atWord he, if_pos rfl, getLane_atWord ht]
  dsimp only
  rw [hpoA]
  dsimp only
  rw [htop, hrelA, Bool.not_false, Bool.and_true, if_pos rfl, hgA]
  rfl

end

section
variable {s : State} {c : Cur} {e : Env} {l key : Nat} {t : Thread} {w : DWord}

/-- A thread that no entry holds: it waits while a flag of WAIT is busy, else it goes into the block (R65). -/
theorem enterHeader_leaves (hc : s.cur = some c) (he : env s c.gid = some e) (hls : c.lanes = [l])
    (ht : getLane s c.gid l = some t) (hpo : t.poison = none) (hp : preemptPending s e.group = false)
    (hnd : (e.group.threads.map (·.lane)).Nodup)
    (hothers : ∀ u ∈ e.group.threads, u.lane ≠ l → u.stall ≠ some .flags ∧ u.stall ≠ some .held)
    (hpass : enterOne s e l = passHeader (modLane (touchFrame s e.group.die key) c.gid l (atWord w)) e l)
    (harr : ∀ r ∈ e.group.stack, r.arrived = []) (hst : ∀ r, e.group.stack.head? = some r → r.addr ≠ t.pc) :
    ∃ s', exec .enterHeader s = .next s' ∧ OnlyThreads s s' ∧
      getLane s' c.gid l = some (
        if (List.range 12).any (fun i => (hWait w).testBit i && flagCount e.group i != 0) then
          { t with hdr := t.pc, hword := w, status := .header, stall := some .flags }
        else { t with hdr := t.pc, hword := w, status := .block, stall := none, pc := t.pc + 8 }) ∧
      (∀ gid k, ¬(gid = c.gid ∧ k = l) → getLane s' gid k = getLane s gid k) ∧
      (getGroup s' c.gid).map (·.stack) = some e.group.stack := by
  have hg := env_group s c.gid e he
  have hbusy : ∀ g : Group, g.flags = e.group.flags → maskBusy g (hWait w) =
      (List.range 12).any fun i => (hWait w).testBit i && flagCount e.group i != 0 := fun g hfl => by
    simp only [maskBusy, flagCount, hfl]
  have hleave : ∀ n (g : Group), g.flags = e.group.flags → leaveHeader n g false (atWord w t) =
      if (List.range 12).any (fun i => (hWait w).testBit i && flagCount e.group i != 0) then
        { t with hdr := t.pc, hword := w, status := .header, stall := some .flags }
      else { t with hdr := t.pc, hword := w, status := .block, stall := none, pc := t.pc + 8 } := fun n g hfl => by
    unfold leaveHeader
    dsimp only [atWord]
    simp only [hbusy g hfl, Bool.false_and, Bool.false_eq_true, if_false]
  have hft := hleave e.grid.desc.regs (groupLane e.group l (atWord w)) rfl
  have hlaneF : ∀ u : Thread, u.lane = l →
      (leaveHeader e.grid.desc.regs (groupLane e.group l (atWord w)) false (atWord w u)).lane = l := fun u hu =>
    (congrArg Thread.lane (leaveHeader_apart _ _ _ _).1 :).trans hu
  have hget : ∀ j, getGroup (modLane (touchFrame s e.group.die key) c.gid l fun u =>
      leaveHeader e.grid.desc.regs (groupLane e.group l (atWord w)) false (atWord w u)) j =
      if c.gid = j then some (groupLane e.group l fun u =>
        leaveHeader e.grid.desc.regs (groupLane e.group l (atWord w)) false (atWord w u)) else getGroup s j := fun j => by
    rw [getGroup_modLane, getGroup, touchFrame_groups, ← getGroup]
    split
    · next hj => rw [← hj, hg, Option.map_some]
    · rfl
  have hwait : ∀ n, settleWait n false (groupLane e.group l fun u =>
      leaveHeader e.grid.desc.regs (groupLane e.group l (atWord w)) false (atWord w u))
      (leaveHeader e.grid.desc.regs (groupLane e.group l (atWord w)) false (atWord w t)) =
      leaveHeader e.grid.desc.regs (groupLane e.group l (atWord w)) false (atWord w t) := fun n => by
    rw [hft]
    by_cases hb : ((List.range 12).any fun i => (hWait w).testBit i && flagCount e.group i != 0) = true
    · rw [if_pos hb, settleWait_waiting rfl rfl, leaveHeader]
      simp only [Bool.false_and, Bool.false_eq_true, if_false]
      exact if_pos ((hbusy (groupLane e.group l _) rfl).trans hb)
    · rw [if_neg hb]
      exact settleWait_other nofun
  obtain ⟨s', h1, h2, h3, h4, h5⟩ := enterHeader_settles hc he hls ht hp hnd hothers
    (hpass.trans (passHeader_leaves he ht hpo hp hst)) ((onlyThreads_touchFrame ..).trans (onlyThreads_modLane ..)) hget rfl rfl
    hlaneF (fun x hx => entryDone_none (harr x hx)) hwait
    ⟨_, List.mem_map_of_mem (List.mem_of_find?_eq_some (by rwa [getLane, hg, Option.bind_some] at ht)), by
      rw [if_pos (by simp [getLane_lane s c.gid l t ht])]
      exact (leaveHeader_apart ..).2⟩
  exact ⟨s', h1, h2, h3.trans (congrArg some hft), h4, h5⟩

/-- A thread that the top entry names is held while another is still on its way (R65). -/
theorem enterHeader_holds (hc : s.cur = some c) (he : env s c.gid = some e) (hls : c.lanes = [l])
    (ht : getLane s c.gid l = some t) (hpo : t.poison = none) (hp : preemptPending s e.group = false)
    (hnd : (e.group.threads.map (·.lane)).Nodup)
    (hothers : ∀ u ∈ e.group.threads, u.lane ≠ l → u.stall ≠ some .flags ∧ u.stall ≠ some .held)
    (hpass : enterOne s e l = passHeader (modLane (touchFrame s e.group.die key) c.gid l (atWord w)) e l)
    {r : RcEntry} {rest : List RcEntry} (hst : e.group.stack = r :: rest) (ha : r.addr = t.pc)
    (harr : ∀ x ∈ r :: rest, x.arrived = []) (hrel : ∀ b, t.arrival ≠ .released b)
    (hway : ∃ y ∈ e.group.threads, y.lane ≠ l ∧ y.lane ∈ r.mask ∧ y.status = .block ∧ y.stall = none) :
    ∃ s', exec .enterHeader s = .next s' ∧ OnlyThreads s s' ∧
      getLane s' c.gid l = some { t with hdr := t.pc, hword := w, stall := some .held, holdWords := 0 } ∧
      (∀ gid k, ¬(gid = c.gid ∧ k = l) → getLane s' gid k = getLane s gid k) ∧
      (getGroup s' c.gid).map (·.stack) = some ({ r with arrived := [l] } :: rest) := by
  have hmark : markArrived l (groupLane e.group l (atWord w)) =
      { groupLane e.group l (atWord w) with stack := { r with arrived := [l] } :: rest } :=
    markArrived_first hst (harr r (by simp))
  have hgidM : ∀ g, (markArrived l g).gid = g.gid := fun g => (congrArg Group.gid (groupFrame_markArrived l g) :)
  have hget : ∀ j, getGroup (modLane (modGroup (modLane (touchFrame s e.group.die key) c.gid l (atWord w)) c.gid (markArrived l))
      c.gid l holdHere) j =
      if c.gid = j then some (groupLane { groupLane e.group l (atWord w) with stack := { r with arrived := [l] } :: rest } l
        holdHere) else getGroup s j := fun j => by
    rw [getGroup_modLane, getGroup_modGroup _ c.gid j (markArrived l) hgidM, getGroup_atWord he]
    split
    · rw [Option.map_some, Option.map_some, hmark]
    · rfl
  obtain ⟨y, hy, hyl, hym, hys, hyn⟩ := hway
  have hyg : ∀ f : Thread → Thread, y ∈ modBy (·.lane == l) f e.group.threads := fun f =>
    List.mem_map.2 ⟨y, hy, by simp [hyl]⟩
  have hth : (groupLane { groupLane e.group l (atWord w) with stack := { r with arrived := [l] } :: rest } l
      holdHere).threads = modBy (·.lane == l) (fun u => holdHere (atWord w u)) e.group.threads :=
    modBy_modBy (f := atWord w) (p := fun x : Thread => x.lane == l) (fun _ h => h) _
  refine enterHeader_settles (f := fun u => holdHere (atWord w u)) hc he hls ht hp hnd hothers
    (hpass.trans (passHeader_holds he ht hpo hst ha hrel)) ?_ hget rfl hth (fun _ h => h) (fun x hx => ?_)
    (fun n => settleWait_other nofun) ⟨y, hth ▸ hyg _, by rw [hys]; exact nofun⟩
  · exact (onlyThreads_atWord.trans (onlyThreads_modGroup _ _ _ (groupFrame_markArrived l))).trans (onlyThreads_modLane ..)
  · rcases List.mem_cons.1 hx with rfl | hx
    · rw [entryDone, Bool.and_eq_false_iff, List.all_eq_false]
      refine .inr ⟨y, List.mem_filter.2 ⟨hth ▸ hyg _, ?_⟩, ?_⟩
      · simp [hym, hyl, hys]
      · simp [blockedOther, hyn]
    · exact entryDone_none (harr x (by simp [hx]))

end

/-! ## O39 -/

/-- One thread enters a header: it parks, is held, waits or goes on. -/
theorem headersHoldDelayOrAdmitThreads : Parts.HeadersHoldDelayOrAdmitThreads := by
  intro s c e l t hc he hls ht hh hpo hseq hp hnd hothers
  have hgid := env_gid s c.gid e he
  have hpark := fun hst cls => enterHeader_parks (cls := cls) hc he hls ht hh hp hnd hothers hst
  have henter : ∀ cls, enterOne s e l = raise s e t.pc [l] [(l, { cls := cls })] true → e.group.stack = [] →
      ∃ s', exec .enterHeader s = .next s' ∧ (getLane s' c.gid l).map (·.status) = some (.parked cls 0 false true) :=
    fun cls hs1 hst => by
      obtain ⟨s', h1, -, h3, -⟩ := hpark hst cls hs1
      exact ⟨s', h1, by rw [h3]; rfl⟩
  refine ⟨fun hst hpc => ?_, fun key fmt geom tbl mt w hpc hf => ⟨fun hst hw => henter _ ?_ hst,
    fun hst hw hbad => henter _ ?_ hst, fun hw hbad => ⟨fun hup harr htop => ?_, fun r rest hup hst ha harr hrel hway => ?_⟩⟩⟩
  · obtain ⟨s', h1, h2, h3, h4⟩ := hpark hst clsBranch (by
      unfold enterOne
      rw [hgid, ht]
      simp [seqHandlerDue_none hseq, hpc])
    exact ⟨s', h1, h2, h3, h4, trivial⟩
  · have hcls : (if t.arrival = .fall ∨ t.arrival = .released true then 0x0C else 0x0B) =
        if fellTo t then clsFall else clsBranch := by
      simp [fellTo, clsFall, clsBranch]
    rw [hcls]
    unfold enterOne
    rw [hgid, ht]
    simp only [seqHandlerDue_none hseq, hpc, hf, hw]
    rfl
  · unfold enterOne
    rw [hgid, ht]
    simp only [seqHandlerDue_none hseq, hpc, hf, hw, hbad]
    rfl
  · exact enterHeader_leaves (t := t) hc he hls ht hpo hp hnd hothers (enterOne_passes he ht hseq hpc hf hw hbad hup) harr htop
  · exact enterHeader_holds (t := t) hc he hls ht hpo hp hnd hothers (enterOne_passes he ht hseq hpc hf hw hbad hup) hst ha harr hrel hway

/-- Settles O39: what one thread's entry makes of it stands after its group has settled; the limits are what the steps that enforce
them do. -/
theorem headersAndLimitsHoldOrReleaseThreads : Obligations.HeadersAndLimitsHoldOrReleaseThreads :=
  ⟨headersHoldDelayOrAdmitThreads, limitsOfWaitingAreEnforced⟩

end Sys2Proof.Machine
end

section
/-!
FAULTS AND HANDLERS (R84, R105, R240 to R242, R313): the words that fault in every true lane, the halt on a breakpoint, the entry
of a group's parked lanes into their handler, and the return from it in one lane.
-/

namespace Sys2Proof.Machine

/-! ## A halt on a breakpoint -/

/-- A stop asked of a gang changes no thread. -/
theorem getLane_askStop (s : State) (gang : Nat) (cause : StopCause) (gid l : Nat) :
    getLane (askStop s gang cause) gid l = getLane s gid l := by
  unfold askStop
  split
  · simp only [getLane, getGroup, List.find?_map, Option.bind_map]
    have hkey : ((fun x : Group => x.gid == gid) ∘ fun g : Group =>
        if ((getTeam (modGang s gang fun k => { k with status := .stopping, cause := cause }) g.tid).map (·.gang)) == some gang
        then { g with words := 0, limit := 0 } else g) = fun x => x.gid == gid := by
      funext g
      simp only [Function.comp]
      split <;> rfl
    rw [hkey]
    refine congrArg _ (funext fun g => ?_)
    simp only [Function.comp]
    split <;> rfl
  · rfl

/-- A stop asked of a gang that is resident, or that stops already, leaves it stopping. -/
theorem getGang_askStop {s : State} {gang : Nat} (cause : StopCause)
    (h : (getGang s gang).map (·.status) = some .resident ∨ (getGang s gang).map (·.status) = some .stopping) :
    (getGang (askStop s gang cause) gang).map (·.status) = some .stopping := by
  obtain ⟨k, hk, hs⟩ : ∃ k, getGang s gang = some k ∧ (k.status = .resident ∨ k.status = .stopping) := by
    cases hk : getGang s gang with
    | none => simp [hk] at h
    | some k => exact ⟨k, rfl, by simpa [hk] using h⟩
  unfold askStop
  split
  · show (getGang (modGang s gang fun k => { k with status := .stopping, cause := cause }) gang).map (·.status) = _
    rw [getGang_modGang _ _ _ _ (by exact fun _ => rfl), if_pos rfl, hk]
    rfl
  · next hr =>
    rcases hs with hs | hs
    · exact absurd (by simp [hk, hs]) hr
    · simp [hk, hs]

/-- Lanes that each ask for their gang's stop and go on. -/
theorem foldl_laneStep_askStop (c : Cur) (gang : Nat) (ls : List Nat) (s : State) (n : Nat) (hd : ls.Nodup) :
    let acc := ls.foldl (laneStep c fun _ s => .ok (askStop s gang .debug)) ⟨s, [], n⟩
    acc.faults = [] ∧
    (∀ gid l, getLane acc.s gid l = if gid = c.gid ∧ l ∈ ls then (getLane s gid l).map (goOn c.next) else getLane s gid l) ∧
    (ls ≠ [] → (getGang s gang).map (·.status) = some .resident ∨ (getGang s gang).map (·.status) = some .stopping →
      (getGang acc.s gang).map (·.status) = some .stopping) := by
  induction ls generalizing s n with
  | nil => exact ⟨rfl, fun gid l => by simp, fun h => absurd rfl h⟩
  | cons k ls ih =>
    obtain ⟨hk, hd⟩ := List.nodup_cons.1 hd
    obtain ⟨h1, h2, h3⟩ := ih (modLane (askStop s gang .debug) c.gid k (advance c)) (n + 1) hd
    refine ⟨h1, fun gid l => ?_, fun _ hs => ?_⟩
    · rw [List.foldl_cons]
      refine (h2 gid l).trans ?_
      rw [getLane_modLane _ _ _ _ _ _ (advance_lane c k), getLane_askStop]
      by_cases hg : gid = c.gid
      · by_cases hl : l = k
        · subst hl
          simp only [hg, hk, and_false, if_false, and_self, if_true, List.mem_cons, true_or]
          rfl
        · simp [hg, hl, Ne.symm hl]
      · simp [hg, Ne.symm hg]
    · have hstop : (getGang (modLane (askStop s gang .debug) c.gid k (advance c)) gang).map (·.status) = some .stopping :=
        getGang_askStop .debug hs
      cases ls with
      | nil => exact hstop
      | cons j ls => exact h3 (List.cons_ne_nil j ls) (.inr hstop)

/-- A breakpoint on which the open debug module halts: every lane goes on, and the gang of the group stops. -/
theorem bkpt_halts {s : State} {c : Cur} {e : Env} (g : Guard) (n : BitVec 16) (hc : s.cur = some c) (he : env s c.gid = some e)
    (hd : c.lanes.Nodup) (hh : (s.boot.debugOpen && s.boot.haltBkpt) = true)
    (hr : (getGang s e.team.gang).map (·.status) = some .resident) (ha : activeLanes s c g ≠ []) :
    ∃ s', exec (.bkpt g n) s = .next s' ∧ (getGang s' e.team.gang).map (·.status) = some .stopping ∧
      ∀ l ∈ c.lanes, getLane s' c.gid l = (getLane s c.gid l).map (goOn c.next) := by
  obtain ⟨h1, h2, h3⟩ := foldl_laneStep_askStop c e.team.gang (activeLanes s c g) (idled s c g) 0 (hd.filter _)
  refine ⟨foldLanes s c e g fun _ s => .ok (askStop s e.team.gang .debug), ?_, ?_, fun l hl => ?_⟩
  · show execBkpt g n s = _
    simp only [execBkpt, hh, if_true, plainLanes, withCur, hc, he, anywhere]
    rfl
  · rw [foldLanes_eq s c e g _ hd]
    simp only [h1, raise_nil]
    exact h3 ha (.inl hr)
  · rw [foldLanes_eq s c e g _ hd]
    simp only [h1, raise_nil]
    refine (h2 c.gid l).trans ?_
    rw [getLane_idled]
    by_cases hla : l ∈ activeLanes s c g
    · simp [hla, mem_idleLanes]
    · simp only [hla, mem_idleLanes, hl, and_false, if_false, not_false_eq_true, and_self, if_true]
      rfl

/-- A lane of an execution in which every lane whose guard is true takes one fault. -/
theorem getLane_allFault_guard {s : State} {c : Cur} {e : Env} (g : Guard) (cls info : Nat) (he : env s c.gid = some e)
    (hd : c.lanes.Nodup) (hall : ∀ l ∈ c.lanes, (getLane s c.gid l).isSome = true) {l : Nat} (hl : l ∈ c.lanes) :
    getLane (allFault s c e g { cls := cls, info := info }) c.gid l = (getLane s c.gid l).map fun t =>
      if guardOf g t then faulted c cls info t else goOn c.next t := by
  obtain ⟨t, ht⟩ := Option.isSome_iff_exists.1 (hall l hl)
  rw [getLane_allFault s c e g _ he hd hall, ht]
  by_cases hg : guardOf g t = true
  · simp only [mem_activeLanes s c g l t ht, hg, hl, and_self, if_true, Option.map_some]
    rfl
  · simp [mem_activeLanes s c g l t ht, hg, hl]

/-- R84, R105, R240: the words that fault, and the halt on a breakpoint. -/
theorem trapsBreakpointsAndUnassignedWordsTakeTheirFault : Parts.TrapsBreakpointsAndUnassignedWordsTakeTheirFault := by
  intro g n op
  refine ⟨faultsAlike_of_allFault anywhere _ g 0x01 0 fun s c e hc he _ => ?_,
    faultsAlike_of_allFault anywhere _ g 0x15 n.toNat fun s c e hc he _ => ?_, fun s c e hc he hd hall => ⟨fun hh => ?_,
    fun hh k hk hs ha => bkpt_halts g n hc he hd hh (by rw [hk]; exact congrArg some hs) ha⟩⟩
  · show execUnassignedOpcode g op s = _
    simp only [execUnassignedOpcode, withCur, hc, he]
    rfl
  · show execTrap g n s = _
    simp only [execTrap, plainLanes, withCur, hc, he]
    rfl
  · have hexec : exec (.bkpt g n) s = .next (allFault s c e g { cls := clsBreak, info := n.toNat }) := by
      show execBkpt g n s = _
      simp only [execBkpt, hh, plainLanes, withCur, hc, he]
      rfl
    exact ⟨_, hexec, onlyThreads_allFault s c e g _ he hd hall, fun l hl => getLane_allFault_guard g _ _ he hd hall hl⟩

/-! ## The entry into the handler -/

/-- The parked lanes of a group whose records are written enter the handler together (R241). -/
theorem handlerEntry_enters {s : State} {gid : Nat} {e : Env} (he : env s gid = some e) (hp : preemptPending s e.group = false)
    (hh : e.group.threads.any (·.handler) = false) (hv : e.ctx.trvec ≠ 0) (hr : e.group.threads.any readyToEnter = true)
    (hm : othersMeet e.group ((e.group.threads.filter readyToEnter).map (·.lane)) = true)
    (hnd : (e.group.threads.map (·.lane)).Nodup) :
    ∃ s', exec (.handlerEntry gid) s = .next s' ∧ OnlyThreads s s' ∧ s'.contexts = s.contexts ∧
      ∀ t ∈ e.group.threads, getLane s' gid t.lane =
        some (if readyToEnter t then enterHandler e.ctx.trvec t else t) := by
  have hlane : ∀ k (t : Thread), t.lane = k → (enterHandler e.ctx.trvec t).lane = k := fun k t ht => by
    unfold enterHandler
    split <;> exact ht
  have hls : ((e.group.threads.filter readyToEnter).map (·.lane)).Nodup := hnd.sublist (List.filter_sublist.map _)
  have hne : ((e.group.threads.filter readyToEnter).map (·.lane)).isEmpty = false := by
    obtain ⟨t, ht, hrt⟩ := List.any_eq_true.1 hr
    rw [List.isEmpty_eq_false_iff_exists_mem]
    exact ⟨t.lane, List.mem_map_of_mem (List.mem_filter.2 ⟨ht, hrt⟩)⟩
  have hfold := foldl_modLane s gid (fun _ => enterHandler e.ctx.trvec) hlane
    ((e.group.threads.filter readyToEnter).map (·.lane)) [] (by simpa using hls)
  rw [modLanes_nil, List.nil_append] at hfold
  have hv0 : (e.ctx.trvec == 0) = false := beq_eq_false_iff_ne.2 hv
  refine ⟨modLanes s gid ((e.group.threads.filter readyToEnter).map (·.lane)) fun _ => enterHandler e.ctx.trvec, ?_,
    onlyThreads_modLanes .., rfl, fun t ht => ?_⟩
  · show execHandlerEntry gid s = _
    simp only [execHandlerEntry, he, hne, hp, hh, hm, hv0, hfold]
    rfl
  · have hget : getLane s gid t.lane = some t := by
      rw [getLane, env_group s gid e he, Option.bind_some, laneThread_of_mem hnd ht]
    have hmem : t.lane ∈ (e.group.threads.filter readyToEnter).map (·.lane) ↔ readyToEnter t = true := by
      refine ⟨fun h => ?_, fun h => List.mem_map_of_mem (List.mem_filter.2 ⟨ht, h⟩)⟩
      obtain ⟨u, hu, hul⟩ := List.mem_map.1 h
      obtain ⟨hu, hru⟩ := List.mem_filter.1 hu
      exact List.inj_on_of_nodup_map hnd hu ht hul ▸ hru
    rw [getLane_modLanes _ _ _ _ _ _ hlane, hget]
    by_cases hrt : readyToEnter t = true <;> simp [hmem, hrt]

/-! ## The group of a lane that has returned -/

/-- The retirement of a group toward a join counter changes no thread. -/
theorem retireJoin_groups (s : State) (g : Group) : (retireJoin s g).groups = s.groups := by
  unfold retireJoin
  split
  · rfl
  split
  · rfl
  split
  · split
    · exact Blind.groups (blind_bankWrite _ _ _ _) s
    · rfl
  · rfl

/-- A grid that no join counter owns: the retirement of a group writes nothing. -/
theorem retireJoin_unjoined {s : State} {g : Group}
    (h : ∀ t r, getTeam s g.tid = some t → getGrid s t.grid = some r → ∀ key, r.owner ≠ .join key) : retireJoin s g = s := by
  unfold retireJoin
  split
  · rfl
  next t ht =>
    split
    · rfl
    next r hr =>
      split
      · next key hk => exact absurd hk (h t r ht hr key)
      · rfl

/-- A group set to a value of its own. -/
theorem getGroup_modGroup_const {s : State} {gid : Nat} {g g' : Group} (hg : getGroup s gid = some g) (hid : g'.gid = gid) :
    getGroup (modGroup s gid fun _ => g') gid = some g' := by
  rw [modGroup_const hid, getGroup_modGroup s gid gid (fun x => { g' with gid := x.gid }) fun _ => rfl, if_pos rfl, hg,
    Option.map_some, find_key Group.gid gid s.groups g hg, ← hid]

/-- The settling of a group in which nothing is held and no wait ends: its threads stay, and unless its last thread has exited
under a grid that a join counter owns, memory stays too. -/
theorem settleGroup_quiet {s : State} {gid : Nat} {g : Group} (hg : getGroup s gid = some g)
    (hstack : ∀ x ∈ g.stack, entryDone g x = false) (hstall : ∀ t ∈ g.threads, t.stall = none) :
    (∀ l, getLane (settleGroup s gid) gid l = getLane s gid l) ∧
    ((∃ t ∈ g.threads, t.status ≠ .exited) ∨
      (∀ t r, getTeam s g.tid = some t → getGrid s t.grid = some r → ∀ key, r.owner ≠ .join key) →
      (settleGroup s gid).mem = s.mem) := by
  have hid : g.gid = gid := find_key Group.gid gid s.groups g hg
  have hlane : ∀ l, getLane s gid l = laneThread g l := fun l => by rw [getLane, hg, Option.bind_some]
  have hset : settleGroup s gid = if groupDone g then
      retireJoin (modGroup s gid fun _ => { freeCross (crossOver g) g with retired := true }) (freeCross (crossOver g) g)
    else modGroup s gid fun _ => freeCross (crossOver g) g := by
    have hquiet : settledIn (regsOf s g) (preemptPending s g) g = freeCross (crossOver g) g :=
      settledIn_quiet hstack fun t ht => settleWait_other (by simp [hstall t ht])
    have hdone : groupDone g = groupDone (settledIn (regsOf s g) (preemptPending s g) g) := by rw [hquiet]; rfl
    rw [hdone, ← hquiet]
    simp only [settleGroup, hg]
    rfl
  rw [hset]
  split
  · next hdone =>
    refine ⟨fun l => ?_, fun h => ?_⟩
    · rw [getLane_groups _ _ (retireJoin_groups ..), getLane, getGroup_modGroup_const hg (by exact hid), hlane]
      rfl
    · rcases h with hlive | hown
      · rw [groupDone_of_thread hlive] at hdone
        exact absurd hdone Bool.false_ne_true
      · rw [retireJoin_unjoined (by exact hown)]
        rfl
  · refine ⟨fun l => ?_, fun _ => rfl⟩
    rw [getLane, getGroup_modGroup_const hg (by exact hid), hlane]
    rfl

/-! ## The return from the handler -/

section
variable {s : State} {c : Cur} {e : Env} {g : Guard} {l : Nat} {t t0 : Thread} {rd : Nat → Word}

/-- An execution of one lane has no lane whose guard is not true. -/
theorem Lone.idled_alone {us : List RegUse} (h : Lone s c e g us l t t0 rd) (hl : c.lanes = [l]) : idled s c g = s := by
  have : idleLanes s c g = [] := by simp [idleLanes, hl, h.only]
  rw [idled, this, modLanes_nil]

/-- What `rte` does: its lanes return, exits take effect, and the group settles. -/
theorem exec_rte (kill : Bool) (hc : s.cur = some c) (he : env s c.gid = some e) (hlast : lastWord c = true) :
    exec (.rte g kill) s = .next (settleGroup (modGroup
      (takeExits (foldLanes s c e g fun l s => rteStep kill e l s) e (activeLanes s c g)) c.gid
      (pushEntry (curBlock s c).1 (curBlock s c).2 c.lanes goesOn)) c.gid) := by
  have hl : c.last = true := hlast
  show execRte g kill s = _
  simp only [execRte, withCur, hc, he, hl]
  rfl

/-- An entry that has been pushed holds no thread yet. -/
theorem pushEntry_stack {h : Nat} {w : DWord} {ls : List Nat} {goes : Thread → Bool} {x : Group} (hst : x.stack = []) :
    ∀ r ∈ (pushEntry h w ls goes x).stack, r.arrived = [] := by
  intro r hr
  unfold pushEntry at hr
  dsimp only at hr
  split at hr
  · rw [hst, List.mem_singleton] at hr
    rw [hr]
  · rw [hst] at hr
    exact absurd hr List.not_mem_nil

theorem groupFrame_pushEntry (h : Nat) (w : DWord) (ls : List Nat) (goes : Thread → Bool) (x : Group) :
    groupFrame (pushEntry h w ls goes x) = groupFrame x := by
  unfold pushEntry
  dsimp only
  split <;> rfl

theorem pushEntry_threads (h : Nat) (w : DWord) (ls : List Nat) (goes : Thread → Bool) (x : Group) :
    (pushEntry h w ls goes x).threads = x.threads := by
  unfold pushEntry
  dsimp only
  split <;> rfl

/-- The lane has returned, with no thread of its group held or waiting: its thread is what the return made of it, and memory is as
it was where the thread has not exited, or where no join counter counts the group. -/
theorem rte_settles {s1 : State} {f : Thread → Thread} {ls : List Nat} {hdr : Nat} {w : DWord} (he : env s c.gid = some e)
    (ht : getLane s c.gid l = some t) (ho : OnlyThreads s s1)
    (hgr : s1.groups = (modLane s c.gid l f).groups) (hst : e.group.stack = [])
    (hstall : ∀ u ∈ e.group.threads, u.stall = none) (hf : ∀ u, (f u).stall = none ∧ (f u).lane = u.lane) :
    getLane (settleGroup (modGroup s1 c.gid (pushEntry hdr w ls goesOn)) c.gid) c.gid l = some (f t) ∧
    ((f t).status ≠ .exited ∨ Unjoined e →
      (settleGroup (modGroup s1 c.gid (pushEntry hdr w ls goesOn)) c.gid).mem = s.mem) := by
  obtain ⟨hg, hteam, hgrid, -⟩ := env_parts s c.gid e he
  have htl : laneThread e.group l = some t := by rwa [getLane, hg, Option.bind_some] at ht
  have hgf := groupFrame_pushEntry hdr w ls goesOn
  have hg1 : getGroup s1 c.gid = some (groupLane e.group l f) := by
    rw [getGroup, hgr]
    exact (getGroup_modLane s c.gid l c.gid f).trans (by rw [if_pos rfl, hg, Option.map_some])
  have hg2 : getGroup (modGroup s1 c.gid (pushEntry hdr w ls goesOn)) c.gid =
      some (pushEntry hdr w ls goesOn (groupLane e.group l f)) := by
    rw [getGroup_modGroup _ _ _ (pushEntry hdr w ls goesOn) fun x => (congrArg Group.gid (hgf x) :), if_pos rfl, hg1, Option.map_some]
  have hstall2 : ∀ u ∈ (pushEntry hdr w ls goesOn (groupLane e.group l f)).threads, u.stall = none := fun u hu => by
    rw [pushEntry_threads] at hu
    obtain ⟨v, hv, rfl⟩ := List.mem_map.1 hu
    split
    · exact (hf v).1
    · exact hstall v hv
  obtain ⟨h1, h2⟩ := settleGroup_quiet hg2 (fun r hr => entryDone_none (pushEntry_stack (by exact hst) r hr)) hstall2
  refine ⟨?_, fun h => ?_⟩
  · rw [h1, getLane, hg2, Option.bind_some, laneThread, pushEntry_threads]
    show laneThread (groupLane e.group l f) l = _
    rw [laneThread_groupLane _ _ _ _ fun u hu => (hf u).2.trans hu, if_pos rfl, htl, Option.map_some]
  · have hmem : s1.mem = s.mem := by rw [ho.1]
    refine (h2 ?_).trans hmem
    rcases h with hlive | hun
    · refine .inl ⟨f t, ?_, hlive⟩
      rw [pushEntry_threads]
      have htm := List.mem_of_find?_eq_some htl
      have htl' : t.lane = l := by simpa using List.find?_some htl
      exact List.mem_map.2 ⟨t, htm, by simp [htl']⟩
    · refine .inr fun tm r htm hr key => ?_
      have htid : (pushEntry hdr w ls goesOn (groupLane e.group l f)).tid = e.group.tid :=
        (congrArg Group.tid (hgf (groupLane e.group l f)) :)
      have hteam1 : getTeam s1 e.group.tid = getTeam s e.group.tid := by rw [ho.1]; rfl
      have hgrid1 : ∀ j, getGrid s1 j = getGrid s j := fun j => by rw [ho.1]; rfl
      obtain rfl : tm = e.team := by
        have : getTeam s1 e.group.tid = some tm := htid ▸ htm
        rw [hteam1, hteam] at this
        exact (Option.some.inj this).symm
      obtain rfl : r = e.grid := by
        have : getGrid s1 e.team.grid = some r := hr
        rw [hgrid1, hgrid] at this
        exact (Option.some.inj this).symm
      exact hun key

/-- A lane that is not leaving takes no exit. -/
theorem takeExits_staying (ht : getLane s e.group.gid l = some t) (h : ∀ own, t.status ≠ .exiting own) :
    takeExits s e [l] = s := by
  have hreds : settleReds s e [] = s := by
    unfold settleReds
    rw [if_neg]
    cases getGroup s e.group.gid <;> simp
  simp only [takeExits, List.filter_cons, ht, Option.any_some, List.filter_nil]
  cases hs : t.status with
  | exiting own => exact absurd hs (h own)
  | _ => simp [hreds]

/-- A leaving lane that waits for no read, with no poison fault due and no reduction of its own queued, exits. -/
theorem takeExits_leaving {own : Bool} {x : Group} (ht : getLane s e.group.gid l = some t) (hs : t.status = .exiting own)
    (hr : t.reads = 0) (hp : t.poison = none) (hg : getGroup s e.group.gid = some x) (hred : reducing x l = false) :
    takeExits s e [l] = modLane s e.group.gid l exitLane := by
  have hreds : settleReds s e [l] = s := by
    unfold settleReds
    rw [if_neg]
    simp [hg, hred]
  simp only [takeExits, List.filter_cons, ht, Option.any_some, hr, hs, BEq.rfl, Bool.and_self, if_true, List.filter_nil, hreds,
    List.foldl_cons, List.foldl_nil, takeExit, hp]

/-- A lane alone in its execution that moves. -/
theorem Lone.foldLanes_moved {us : List RegUse} (h : Lone s c e g us l t t0 rd) (hl : c.lanes = [l])
    (F : Nat → State → LaneStep) {s2 : State} (hF : F l s = .moved s2) :
    foldLanes s c e g F = countEvent s2 e.ctx.asid 0 1 := by
  rw [foldLanes_eq s c e g F h.nodup]
  simp only [h.only, h.idled_alone hl, List.foldl_cons, List.foldl_nil, laneStep, hF, raise_nil]

/-- A lane alone in its execution that faults parks. -/
theorem Lone.allFault_groups {us : List RegUse} (h : Lone s c e g us l t t0 rd) (hl : c.lanes = [l]) (f : LaneFault) :
    (allFault s c e g f).groups = (modLane s c.gid l (parkAt c.pc f false)).groups := by
  rw [allFault_eq s c e g f h.env h.nodup h.all, h.only, h.idled_alone hl, modLane_eq, ← env_gid s c.gid e h.env]
  rfl

theorem rteLane_settled (u : Thread) : (rteLane u).stall = none ∧ (rteLane u).lane = u.lane := by
  unfold rteLane
  dsimp only
  split
  · exact ⟨rfl, rfl⟩
  split
  · unfold goOn
    split <;> exact ⟨rfl, rfl⟩
  split <;> exact ⟨rfl, rfl⟩

/-- Where a return leads (R242). -/
theorem rteLane_fields (hs : t.seqResume = none) : (rteLane t).handler = false ∧ (rteLane t).hdr = t.trHdr ∧
    (rteLane t).hword = t.trHword ∧ (rteLane t).v = t.v ∧ (rteLane t).p = t.p ∧ (rteLane t).pc =
      (if t.trcause.toNat % 256 = 0x14 ∨ t.trcause.toNat % 256 = 0x15 then t.trpc.toNat + 8 else t.trpc.toNat) ∧
    (rteLane t).status ≠ .exited ∧ ∀ own, (rteLane t).status ≠ .exiting own := by
  unfold rteLane
  simp only [hs, clsBreak, clsTrap, Bool.or_eq_true, beq_iff_eq]
  split
  · unfold goOn
    split <;> exact ⟨rfl, rfl, rfl, rfl, rfl, rfl, nofun, nofun⟩
  split <;> exact ⟨rfl, rfl, rfl, rfl, rfl, rfl, nofun, nofun⟩

/-- A lane in handler mode returns for a fault of its own (R242): only its thread and the count of what retires change. -/
theorem rteStep_returns (ht : getLane s e.group.gid l = some t) (hh : t.handler = true) (hs : t.seqResume = none) :
    ∃ s2, rteStep false e l s = .moved s2 ∧ OnlyThreads s s2 ∧ s2.groups = (modLane s e.group.gid l rteLane).groups := by
  simp only [rteStep, ht, hh, hs, Option.isSome_none, Option.isNone_none, Bool.true_and, Bool.not_true, if_false,
    Bool.false_eq_true]
  refine ⟨_, rfl, ?_, ?_⟩
  · split
    · exact (onlyThreads_modLane ..).trans (onlyThreads_countEvent ..)
    · exact onlyThreads_modLane ..
  · split <;> rfl

/-- An `rte` alone in its execution: where the lane moves with an update of its thread alone, and takes its exit where it leaves,
its thread is that and memory is kept. -/
theorem Lone.rte_moves {kill : Bool} (h : Lone s c e g [] l t t0 rd) (hlast : lastWord c = true)
    (hst : e.group.stack = []) (hstall : ∀ u ∈ e.group.threads, u.stall = none) {s1 : State} {f : Thread → Thread}
    (h1 : takeExits (foldLanes s c e g fun l s => rteStep kill e l s) e [l] = s1) (ho : OnlyThreads s s1)
    (hgr : s1.groups = (modLane s c.gid l f).groups) (hf : ∀ u, (f u).stall = none ∧ (f u).lane = u.lane) :
    ∃ s', exec (.rte g kill) s = .next s' ∧ getLane s' c.gid l = some (f t) ∧
      ((f t).status ≠ .exited ∨ Unjoined e → s'.mem = s.mem) :=
  ⟨_, by rw [exec_rte kill h.cur h.env hlast, h.only, h1], rte_settles h.env h.lane ho hgr hst hstall hf⟩

/-- A lane in handler mode returns to where %trpc says (R242). -/
theorem Lone.rte_returns (h : Lone s c e g [] l t t0 rd) (hlast : lastWord c = true) (hl : c.lanes = [l])
    (hst : e.group.stack = []) (hstall : ∀ u ∈ e.group.threads, u.stall = none) (hs : t.seqResume = none)
    (hh : t.handler = true) :
    ∃ s', exec (.rte g false) s = .next s' ∧ s'.mem = s.mem ∧ getLane s' c.gid l = some (rteLane t) := by
  obtain ⟨s2, hstep, ho, hgr⟩ := rteStep_returns ((env_gid s c.gid e h.env).symm ▸ h.lane) hh hs
  rw [env_gid s c.gid e h.env] at hgr
  obtain ⟨-, -, -, -, -, -, hlive, hstay⟩ := rteLane_fields hs
  have hlane : getLane (countEvent s2 e.ctx.asid 0 1) e.group.gid l = some (rteLane t) := by
    rw [env_gid s c.gid e h.env, getLane_groups _ (countEvent s2 e.ctx.asid 0 1) hgr,
      getLane_modLane _ _ _ _ _ _ fun u hu => (rteLane_settled u).2.trans hu, if_pos ⟨rfl, rfl⟩, h.lane, Option.map_some]
  obtain ⟨s', h1, h2, h3⟩ := h.rte_moves hlast hst hstall
    (by rw [h.foldLanes_moved hl _ hstep, takeExits_staying hlane hstay]) (ho.trans (onlyThreads_countEvent ..)) hgr rteLane_settled
  exact ⟨s', h1, h3 (.inl hlive), h2⟩

/-- A lane in handler mode that waits for nothing ends at `rte.kill` (R242). -/
theorem Lone.rte_kills (h : Lone s c e g [] l t t0 rd) (hlast : lastWord c = true) (hl : c.lanes = [l])
    (hst : e.group.stack = []) (hstall : ∀ u ∈ e.group.threads, u.stall = none) (hh : t.handler = true) (hr : t.reads = 0)
    (hp : t.poison = none) (hred : reducing e.group l = false) :
    ∃ s', exec (.rte g true) s = .next s' ∧ (Unjoined e → s'.mem = s.mem) ∧
      getLane s' c.gid l = some (exitLane (endLane false t)) := by
  have hgid := env_gid s c.gid e h.env
  have hstep : rteStep true e l s = .moved (modLane s c.gid l (endLane false)) := by
    rw [rteStep, hgid, h.lane]
    simp [hh]
  have hlane : getLane (countEvent (modLane s c.gid l (endLane false)) e.ctx.asid 0 1) e.group.gid l = some (endLane false t) := by
    show getLane (modLane s c.gid l (endLane false)) e.group.gid l = _
    rw [hgid, getLane_modLane _ _ _ _ _ (endLane false) fun u hu => hu, if_pos ⟨rfl, rfl⟩, h.lane, Option.map_some]
  have hgroup : getGroup (countEvent (modLane s c.gid l (endLane false)) e.ctx.asid 0 1) e.group.gid =
      some (groupLane e.group l (endLane false)) := by
    show getGroup (modLane s c.gid l (endLane false)) e.group.gid = _
    rw [hgid, getGroup_modLane, if_pos rfl, env_group s c.gid e h.env, Option.map_some]
  obtain ⟨s', h1, h2, h3⟩ := h.rte_moves (f := fun u => exitLane (endLane false u)) hlast hst hstall
    (by rw [h.foldLanes_moved hl _ hstep, takeExits_leaving hlane rfl hr hp hgroup hred])
    ((onlyThreads_modLane ..).trans ((onlyThreads_countEvent ..).trans (onlyThreads_modLane ..)))
    (by rw [hgid, ← modLane_modLane s c.gid l (endLane false) exitLane fun u hu => hu]; rfl) fun u => ⟨rfl, rfl⟩
  exact ⟨s', h1, fun hu => h3 (.inr hu), h2⟩

/-- A lane that is not in handler mode parks at an `rte` (R242). -/
theorem Lone.rte_faults {kill : Bool} (h : Lone s c e g [] l t t0 rd) (hlast : lastWord c = true) (hl : c.lanes = [l])
    (hst : e.group.stack = []) (hstall : ∀ u ∈ e.group.threads, u.stall = none) (hh : t.handler = false) :
    ∃ s', exec (.rte g kill) s = .next s' ∧ s'.mem = s.mem ∧ getLane s' c.gid l = some (faulted c 0x01 0 t) := by
  have hgid := env_gid s c.gid e h.env
  have hstep : rteStep kill e l (idled s c g) = .fault { cls := clsIllegal } := by
    rw [rteStep, h.idled_alone hl, hgid, h.lane]
    simp [hh]
  have hpark : parkAt c.pc { cls := clsIllegal } false t = faulted c 0x01 0 t := rfl
  have hlane : getLane (allFault s c e g { cls := clsIllegal }) e.group.gid l = some (faulted c 0x01 0 t) := by
    rw [hgid, (h.faults clsIllegal).2.1]
    rfl
  have hstat : (faulted c 0x01 0 t).status = .parked 0x01 0 false false := by simp [faulted, hh]
  obtain ⟨s', h1, h2, h3⟩ := h.rte_moves hlast hst hstall
    (by rw [foldLanes_fault_lone s c e g _ l _ h.nodup h.only hstep, takeExits_staying hlane (by simp [hstat])])
    (onlyThreads_allFault s c e g _ h.env h.nodup h.all) (h.allFault_groups hl _)
    fun u => ⟨by unfold parkAt; split <;> rfl, parkAt_lane ..⟩
  exact ⟨s', h1, h3 (.inl (by rw [hpark, hstat]; exact nofun)), h2.trans (congrArg some hpark)⟩

end

/-! ## O11 -/

/-- R241, R242: the entry into the handler and the return from it. -/
theorem handlersAreEnteredAndLeft : Parts.HandlersAreEnteredAndLeft := by
  refine ⟨fun s gid e he hp hh hv hr hm hnd => ?_, fun g s c e l t t0 rd h hlast hs hl hst hall => ?_⟩
  · obtain ⟨s', h1, h2, h3, h4⟩ := handlerEntry_enters he hp hh hv hr hm hnd
    refine ⟨s', h1, h2, h3, fun t ht => (h4 t ht).trans (congrArg some ?_)⟩
    unfold readyToEnter enterHandler
    cases hst : t.status with
    | parked cls info done hdr => cases done <;> rfl
    | _ => rfl
  · have hstall : ∀ u ∈ e.group.threads, u.stall = none := fun u hu => by simpa using List.all_eq_true.1 hall u hu
    refine ⟨fun hh => ?_, fun hh hr hp hred => ?_, fun hh kill => h.rte_faults hlast hl hst hstall hh⟩
    · obtain ⟨s', h1, h2, h3⟩ := h.rte_returns hlast hl hst hstall hs hh
      obtain ⟨f1, f2, f3, f4, f5, f6, -, -⟩ := rteLane_fields hs
      exact ⟨s', h1, h2, _, h3, f1, f2, f3, f4, f5, f6⟩
    · obtain ⟨s', h1, h2, h3⟩ := h.rte_kills hlast hl hst hstall hh hr hp hred
      exact ⟨s', h1, h2, _, h3, rfl, rfl⟩

/-- Settles O11: a word that faults parks every true lane alike; the parked lanes enter their handler by one update of each, and a
return settles its group with nothing held. -/
theorem faultsParkTheirLanesAndHandlersAreEnteredAndLeft :
    Obligations.FaultsParkTheirLanesAndHandlersAreEnteredAndLeft :=
  ⟨trapsBreakpointsAndUnassignedWordsTakeTheirFault, handlersAreEnteredAndLeft⟩

end Sys2Proof.Machine
end

section
/-!
SERVICE CORES (R93, R94, R244 to R247): what their accesses leave as it was, the teams that a launch makes, how an instruction of a core
ends, and the four instructions with the end of a task.
-/

namespace Sys2Proof.Machine

/-! ## Accesses of a service core touch no core and no team -/

/-- The RISC-V cores and the teams. -/
def coresTeams (s : State) : List (Nat × RvCore) × List Team := (s.rv, s.teams)

theorem foldl_coresTeams {α : Type} (f : State → α → State) (l : List α) (s : State)
    (hf : ∀ s x, coresTeams (f s x) = coresTeams s) : coresTeams (l.foldl f s) = coresTeams s := by
  induction l generalizing s with
  | nil => rfl
  | cons x l ih => rw [List.foldl_cons, ih, hf]

@[simp] theorem addPoison_coresTeams (s : State) (p : Nat) : coresTeams (addPoison s p) = coresTeams s := by
  unfold addPoison
  split <;> rfl

@[simp] theorem addSummary_coresTeams (s : State) (vf : Nat) (x : Summary) : coresTeams (addSummary s vf x) = coresTeams s := by
  unfold addSummary
  dsimp only
  split <;> rfl

@[simp] theorem countCorrected_coresTeams (s : State) (sram : Bool) (die : Nat) : coresTeams (countCorrected s sram die) = coresTeams s := by
  unfold countCorrected
  split
  all_goals
    dsimp only
    split <;> rfl

@[simp] theorem meetUpset_coresTeams (s : State) (u : Upset) : coresTeams (meetUpset s u) = coresTeams s := by
  unfold meetUpset
  split
  · exact countCorrected_coresTeams ..
  · unfold countPoisoned
    dsimp only
    split
    · exact (addPoison_coresTeams ..).trans (addPoison_coresTeams ..)
    · exact addPoison_coresTeams ..

@[simp] theorem meetUpsets_coresTeams (s : State) (rs : List (Nat × Nat)) : coresTeams (meetUpsets s rs) = coresTeams s := by
  unfold meetUpsets
  split
  · rfl
  · exact foldl_coresTeams _ _ _ meetUpset_coresTeams

theorem backFrame_coresTeams {s t : State} {r : BackReq} (h : backFrame s r = some t) : coresTeams t = coresTeams s := by
  simp only [backFrame, backFrameAt, Option.bind_eq_some_iff] at h
  obtain ⟨c, -, f, -, h⟩ := h
  split at h
  · cases h
    rfl
  · obtain ⟨p, -, rfl⟩ := Option.map_eq_some_iff.1 h
    exact addSummary_coresTeams ..

@[simp] theorem dropBacking_coresTeams (s : State) (asid lfn : Nat) : coresTeams (dropBacking s asid lfn) = coresTeams s := rfl

@[simp] theorem noFrame_coresTeams (s : State) (r : BackReq) : coresTeams (noFrame s r) = coresTeams s := by
  unfold noFrame
  dsimp only
  split
  · exact foldl_coresTeams _ _ _ fun _ _ => rfl
  · split <;> rfl

@[simp] theorem takeBacking_coresTeams (s : State) (r : BackReq) : coresTeams (takeBacking s r) = coresTeams s := by
  unfold takeBacking
  split
  · rfl
  split
  · rfl
  split
  · rfl
  unfold answerBacking
  split
  · next h => rw [dropBacking_coresTeams, backFrame_coresTeams h]
  · rw [dropBacking_coresTeams, noFrame_coresTeams]

/-- A seat's attempt to back a frame, whichever state it leaves. -/
theorem seatBack_coresTeams (s : State) (r : BackReq) : coresTeams (seatBack s r).2 = coresTeams s ∧
    ∀ t, (seatBack s r).1 = some t → coresTeams t = coresTeams s := by
  unfold seatBack
  dsimp only
  split
  · exact ⟨rfl, fun t h => (Option.some_ne_none t h.symm).elim⟩
  generalize hs1 : List.foldl takeBacking s _ = s1
  have h1 : coresTeams s1 = coresTeams s := hs1 ▸ foldl_coresTeams _ _ s takeBacking_coresTeams
  split
  · next h =>
    refine ⟨h1, ?_⟩
    rintro _ ⟨⟩
    exact (backFrame_coresTeams h).trans h1
  · exact ⟨(noFrame_coresTeams ..).trans h1, fun t h => (Option.some_ne_none t h.symm).elim⟩

@[simp] theorem agentXlat_coresTeams (s : State) (c : Context) (die : Nat) (hst : Option Bool) (k : AccKind) (va n : Nat) :
    coresTeams (agentXlat s c die hst k va n).1 = coresTeams s := by
  have hwalk : coresTeams (meetWalk s c va) = coresTeams s := meetUpsets_coresTeams ..
  unfold agentXlat
  split
  · rfl
  split
  · rfl
  dsimp only
  split
  · exact hwalk
  · next r _ _ =>
    obtain ⟨h1, h2⟩ := seatBack_coresTeams (meetWalk s c va) r
    cases hb : (seatBack (meetWalk s c va) r).1 with
    | none => exact h1.trans hwalk
    | some t => exact (h2 t hb).trans hwalk
  split
  · split
    · exact hwalk
    · exact (meetUpsets_coresTeams ..).trans hwalk
  · next r _ =>
    obtain ⟨h1, h2⟩ := seatBack_coresTeams (meetWalk s c va) r
    split
    · next t u hb => exact (h2 t (by rw [hb])).trans hwalk
    · next u hb =>
      rw [hb] at h1
      exact h1.trans hwalk
  · exact hwalk

@[simp] theorem seatXlat_coresTeams (s : State) (c : Context) (hst : Bool) (k : AccKind) (va n : Nat) :
    coresTeams (seatXlat s c hst k va n).1 = coresTeams s := agentXlat_coresTeams ..

@[simp] theorem seatQuads_coresTeams (c : Context) (hst : Bool) (va n : Nat) (s : State) :
    coresTeams (seatQuads c hst va n s).1 = coresTeams s := by
  induction n generalizing va s with
  | zero => rfl
  | succ n ih =>
    have hx := seatXlat_coresTeams s ((getCtx s c.asid).getD c) hst .read va 8
    unfold seatQuads
    split
    · next hs => rwa [hs] at hx
    · next hs =>
      rw [hs] at hx
      exact (ih _ _).trans hx

@[simp] theorem seatRead_coresTeams (s : State) (c : Context) (hst : Bool) (va n : Nat) :
    coresTeams (seatRead s c hst va n).1 = coresTeams s := seatQuads_coresTeams ..

theorem fetchDesc_coresTeams {s s' : State} {c : Context} {kdesc : Nat} {d : KDesc} (h : fetchDesc s c kdesc = (s', .ok d)) :
    coresTeams s' = coresTeams s := by
  unfold fetchDesc at h
  split at h
  · cases h
  split at h
  · cases h
  next s1 x h1 =>
    split at h
    · cases h
    next s2 ts h2 =>
      split at h
      · cases h
      dsimp only at h
      split at h
      · cases h
      split at h
      · cases h
      split at h
      · cases h
      next s3 k h3 =>
        cases h
        have e1 := seatRead_coresTeams s c false kdesc 8
        have e2 := seatQuads_coresTeams c false (kdesc + 64) (descTiles x) s1
        have e3 := seatXlat_coresTeams s2 c false .fetch (descOf x ts).entry 8
        rw [h1] at e1
        rw [h2] at e2
        rw [h3] at e3
        exact e3.trans (e2.trans e1)

/-! ## A new grid and its teams -/

/-- What a launch finds of the cores, the teams and the grids. -/
def launchParts (s : State) : (List (Nat × RvCore) × List Team) × List Grid := (coresTeams s, s.grids)

theorem zeroCmn_launchParts (s : State) (vf : Nat) (bs : List (Nat × Nat × Nat)) : launchParts (zeroCmn s vf bs) = launchParts s := by
  unfold zeroCmn
  induction bs generalizing s with
  | nil => rfl
  | cons b bs ih => exact (ih _).trans rfl

theorem glbHeap_launchParts {s : State} {f : VFunc} {asid size : Nat} {r : State × Nat × List Chunk}
    (h : glbHeap s f asid size = some r) : launchParts r.1 = launchParts s := by
  unfold glbHeap at h
  split at h
  · cases h
    rfl
  · dsimp only at h
    split at h
    · cases h
      rfl
    · cases h

/-- A new grid stands after those of before, has no team yet, and leaves cores and teams as they were. -/
theorem newGrid_grids {s t : State} {vf asid band priv gheap cheap spawn g : Nat} {d : KDesc} {owner : GridOwner}
    (h : newGrid s vf asid d owner band priv gheap cheap spawn = some (t, g)) :
    coresTeams t = coresTeams s ∧ ∃ z, t.grids = s.grids ++ [z] ∧ z.key = g ∧ z.spawn = spawn ∧ z.nextTeam = 0 ∧ z.nextGang = 0 := by
  simp only [newGrid, Option.bind_eq_some_iff, Option.map_eq_some_iff] at h
  obtain ⟨f, -, r, hr, cs, -, heq⟩ := h
  cases heq
  have hparts := (zeroCmn_launchParts r.1 vf cs).trans (glbHeap_launchParts hr)
  have hct := congrArg Prod.fst hparts
  have hgrids : (zeroCmn r.1 vf cs).grids = s.grids := congrArg Prod.snd hparts
  exact ⟨hct, _, congrArg (· ++ _) hgrids, rfl, rfl, rfl, rfl⟩

/-- A grid whose key is new is found under it. -/
theorem getGrid_append {s t : State} {z : Grid} (h : t.grids = s.grids ++ [z]) (hnew : ∀ y ∈ s.grids, y.key ≠ z.key) :
    getGrid t z.key = some z := by
  have hnone : s.grids.find? (·.key == z.key) = none := List.find?_eq_none.2 fun y hy => by simpa using hnew y hy
  rw [getGrid, h, List.find?_append, hnone]
  simp

theorem getGrid_modGrid_same {s : State} {g : Nat} {z : Grid} {f : Grid → Grid} (hz : getGrid s g = some z) (hf : ∀ z, (f z).key = z.key) :
    getGrid (modGrid s g f) g = some (f z) := by
  rw [getGrid_modGrid s g g f hf, if_pos rfl, hz, Option.map_some]

/-- What a team is made of: its grid, its index, where its threads begin, and its argument words. -/
def teamBrief (t : Team) : Nat × Nat × Nat × List Word := (t.grid, t.index, t.entry, t.args)

/-- Teams are made, after those of before; besides them only gangs, functions and the next identifier differ. -/
def Makes (s s' : State) (ms : List (Nat × Nat × Nat × List Word)) : Prop :=
  ∃ ts, s' = { s with teams := s.teams ++ ts, gangs := s'.gangs, funcs := s'.funcs, nextId := s'.nextId } ∧ ts.map teamBrief = ms

theorem makes_none {s s' : State} (h : s' = { s with gangs := s'.gangs, funcs := s'.funcs, nextId := s'.nextId }) : Makes s s' [] :=
  ⟨[], by rw [List.append_nil]; exact h, rfl⟩

theorem Makes.trans {s s1 s2 : State} {ms ms' : List (Nat × Nat × Nat × List Word)} (h : Makes s s1 ms) (h' : Makes s1 s2 ms') :
    Makes s s2 (ms ++ ms') := by
  obtain ⟨ts, hs, rfl⟩ := h
  obtain ⟨ts', hs', rfl⟩ := h'
  refine ⟨ts ++ ts', ?_, List.map_append⟩
  rw [hs', hs]
  simp only [List.append_assoc]

theorem makes_foldl {f : State → Nat → State} {m : Nat → List (Nat × Nat × Nat × List Word)} (h : ∀ s i, Makes s (f s i) (m i))
    (l : List Nat) (s : State) : Makes s (l.foldl f s) (l.flatMap m) := by
  induction l generalizing s with
  | nil => exact makes_none rfl
  | cons i l ih => exact (h s i).trans (ih _)

theorem addTeam_makes (s : State) (g : Grid) (gang entry index : Nat) (args : List Word) :
    Makes s (addTeam s g gang entry index args) [(g.key, index, entry, args)] := ⟨[_], rfl, rfl⟩

theorem addGang_makes (s : State) (g : Grid) (index : Nat) (queue : Bool) : Makes s (addGang s g index queue).1 [] := by
  refine makes_none ?_
  unfold addGang
  dsimp only
  split <;> rfl

theorem addGangTeams_makes (s : State) (g : Grid) (entry first done n gangIx : Nat) (argsOf : Nat → List Word) (queue : Bool) :
    Makes s (addGangTeams s g entry first done n gangIx argsOf queue)
      ((List.range n).map fun i => (g.key, first + (done + i), entry, argsOf (done + i))) := by
  rw [List.map_eq_flatMap]
  simp only [← Nat.add_assoc first]
  exact (addGang_makes s g gangIx queue).trans (makes_foldl (fun s i =>
    addTeam_makes s g (addGang _ g gangIx queue).2 entry (first + done + i) (argsOf (done + i))) (List.range n) _)

/-- Runs of `k` indexes one after another are all the indexes. -/
theorem flatMap_range_runs {α : Type} (f : Nat → α) (n k : Nat) :
    ((List.range n).flatMap fun j => (List.range k).map fun i => f (j * k + i)) = (List.range (n * k)).map f := by
  induction n with
  | zero => simp
  | succ n ih =>
    rw [List.range_succ, List.flatMap_append, ih, Nat.succ_mul, List.range_add, List.map_append, List.map_map]
    simp [Function.comp_def]

/-- Gangs of teams are made with their teams' indexes and arguments, and their grid counts them. -/
theorem addTeams_makes {s : State} {grid : Nat} {z : Grid} (hz : getGrid s grid = some z) (entry n size : Nat) (argsOf : Nat → List Word)
    (queue : Bool) :
    ∃ s1, addTeams s grid entry n size argsOf queue =
        modGrid s1 grid (fun g => { g with nextTeam := g.nextTeam + n * size, nextGang := g.nextGang + n }) ∧
      Makes s s1 ((List.range (n * size)).map fun i => (grid, z.nextTeam + i, entry, argsOf i)) := by
  have hkey : z.key = grid := find_key Grid.key grid s.grids z hz
  have h := makes_foldl (fun s i => addGangTeams_makes s z entry z.nextTeam (i * size) size (z.nextGang + i) argsOf queue)
    (List.range n) s
  rw [flatMap_range_runs (fun i => (z.key, z.nextTeam + i, entry, argsOf i)), hkey] at h
  refine ⟨_, ?_, h⟩
  unfold addTeams
  rw [hz]

/-! ## Bytes put by a write at a bank -/

theorem puts_bankWrite {s : State} {key : Nat} (asid n v : Nat) (hf : Fresh s key) : Puts s (bankWrite s asid key n v) key n v := by
  intro a
  rw [(bankWrite_fresh asid n v hf).2, memGet_memWrite]

theorem fresh_congr {s s' : State} {key : Nat} (hc : s'.contexts = s.contexts) (hv : s'.versions = s.versions) (h : Fresh s key) :
    Fresh s' key := by
  unfold Fresh
  rw [keyClass2_page hc rfl, hv]
  exact h

theorem SameButBank.rv {s s' : State} (h : SameButBank s s') : s'.rv = s.rv := by
  rw [h]

/-! ## The cores' registers and the end of an instruction -/

@[simp] theorem getRv_putRv_same (s : State) (c : Nat) (r : RvCore) : getRv (putRv s c r) c = r := tget_tput_self ..

theorem getRv_putRv_other (s : State) {c m : Nat} (r : RvCore) (h : m ≠ c) : getRv (putRv s c r) m = getRv s m :=
  tget_tput_ne _ _ _ _ _ h.symm

theorem getRv_congr {s s' : State} (h : s'.rv = s.rv) (m : Nat) : getRv s' m = getRv s m := congrArg (tget RvCore.reset · m) h

theorem rvReg_rvPut (r : RvCore) (n k : BitVec 5) (v : DWord) :
    rvReg (rvPut r n v) k = if k = n ∧ k ≠ 0 then v else rvReg r k := by
  unfold rvReg rvPut
  by_cases hk : k = 0#5
  · simp [hk]
  · by_cases hn : n = 0#5
    · simp [hn, hk]
    · simp [hn, hk, tget_tput, BitVec.toNat_inj, eq_comm (a := n) (b := k)]

theorem rvPut_frame (r : RvCore) (n : BitVec 5) (v : DWord) : rvPut r n v = { r with x := (rvPut r n v).x } := by
  unfold rvPut
  split <;> rfl

/-- The core of an instruction that ends in a state where it stands as when it began. -/
theorem rvEnd_coreEnds {s0 s : State} {c : Nat} (h : getRv s c = getRv s0 c) (rd : BitVec 5) (status : Nat) :
    CoreEnds s0 (rvEnd s c rd status) c rd status := by
  have hr : getRv (rvEnd s c rd status) c =
      { rvPut (getRv s0 c) rd (BitVec.ofNat 64 status) with pc := (rvPut (getRv s0 c) rd (BitVec.ofNat 64 status)).pc + 4 } := by
    rw [← h]
    exact getRv_putRv_same ..
  unfold CoreEnds
  rw [hr]
  refine ⟨fun k => rvReg_rvPut .., ?_⟩
  rw [rvPut_frame]

@[simp] theorem rvEnd_teams (s : State) (c : Nat) (rd : BitVec 5) (status : Nat) : (rvEnd s c rd status).teams = s.teams := rfl

@[simp] theorem getGrid_rvEnd (s : State) (c : Nat) (rd : BitVec 5) (status g : Nat) : getGrid (rvEnd s c rd status) g = getGrid s g := rfl

theorem getRv_rvEnd_other (s : State) {c m : Nat} (rd : BitVec 5) (status : Nat) (h : m ≠ c) :
    getRv (rvEnd s c rd status) m = getRv s m := getRv_putRv_other _ _ h

theorem rvEnd_otherCores {s0 s : State} (h : s.rv = s0.rv) (c : Nat) (rd : BitVec 5) (status : Nat) :
    OtherCores s0 (rvEnd s c rd status) c := fun m hm =>
  (getRv_rvEnd_other s rd status hm).trans (getRv_congr h m)

/-- An instruction whose accesses leave the cores as they were ends with a status. -/
theorem rvEnd_ends {s0 s : State} (h : s.rv = s0.rv) (c : Nat) (rd : BitVec 5) (status : Nat) :
    CoreEnds s0 (rvEnd s c rd status) c rd status ∧ OtherCores s0 (rvEnd s c rd status) c :=
  ⟨rvEnd_coreEnds (getRv_congr h c) rd status, rvEnd_otherCores h c rd status⟩

theorem onlyStatus_of_rvEnd {i : Instr} {s : State} {c : Nat} {rd : BitVec 5} {status : Nat} (h : exec i s = .next (rvEnd s c rd status)) :
    OnlyStatus i s c rd status := ⟨_, h, rfl, rvEnd_ends rfl c rd status⟩

/-- A core that takes the illegal-instruction exception, and nothing else changes (R94, log 8). -/
theorem coreTraps_of_rvIllegal {i : Instr} {s : State} {c : Nat} {w : DWord} (h : exec i s = .next (rvIllegal s c w)) :
    CoreTraps i s c w := by
  refine ⟨_, h, rfl, fun m hm => getRv_putRv_other s _ hm, ?_⟩
  have hr : getRv (rvIllegal s c w) c = rvTrap c (getRv s c) false 2 w := getRv_putRv_same ..
  rw [hr]
  generalize getRv s c = r
  have hg : (!rvCrew c && decide (r.mode ≤ 1) && (tget 0 r.csr 0x302).getLsbD 2) = true ↔
      c < 64 ∧ r.mode ≤ 1 ∧ (tget 0 r.csr 0x302).getLsbD 2 = true := by
    simp only [rvCrew, Bool.and_eq_true, Bool.not_eq_true', decide_eq_false_iff_not, decide_eq_true_eq, Nat.not_le, and_assoc]
  unfold rvTrap
  simp only [Bool.false_eq_true, if_false, Bool.false_and]
  by_cases hd : c < 64 ∧ r.mode ≤ 1 ∧ (tget 0 r.csr 0x302).getLsbD 2 = true
  · rw [if_pos (hg.2 hd), if_pos hd]
    simp [tget_tput]
  · rw [if_neg (mt hg.1 hd), if_neg hd]
    simp

/-! ## What an instruction of a service core finds -/

theorem exec_xspawn (n : BitVec 4) (rs2 rs1 rd : BitVec 5) (s : State) : exec (.xspawn n rs2 rs1 rd) s = execXspawn n rs2 rs1 rd s := rfl

theorem exec_xdisp (n : BitVec 4) (rs2 rs1 rd : BitVec 5) (s : State) : exec (.xdisp n rs2 rs1 rd) s = execXdisp n rs2 rs1 rd s := rfl

theorem exec_xjoin (rs1 rd : BitVec 5) (s : State) : exec (.xjoin rs1 rd) s = counterWait rs1 rd (fun _ v => v == 0) s := rfl

theorem exec_xwaitc (rs2 rs1 rd : BitVec 5) (s : State) :
    exec (.xwaitc rs2 rs1 rd) s = counterWait rs1 rd (fun r v => decide ((rvReg r rs2).toNat ≤ v)) s := rfl

theorem exec_xdispTaskEnd (c : Nat) (s : State) : exec (.xdispTaskEnd c) s = execXdispTaskEnd c s := rfl

theorem exec_reservedCustom0 (c : Nat) (w : Word) (s : State) :
    exec (.reservedCustom0 c w) s = .next (rvIllegal s c (w.setWidth 64)) := rfl

theorem withRv_service {s : State} {c : Nat} (hc : s.rvCur = some c) (h : c < 32) (f : Nat → RvCore → State) :
    withRv s f = .next (f c (getRv s c)) := by
  unfold withRv
  rw [hc]
  exact congrArg _ (if_pos h)

/-- A core without Xvexrus takes the exception of R94 at its word. -/
theorem withRv_noXvexrus {s : State} {c : Nat} {w : Word} (hc : s.rvCur = some c) (h : 32 ≤ c) (hw : (rvFetch s c).2 = some w)
    (f : Nat → RvCore → State) : withRv s f = .next (rvIllegal s c (w.setWidth 64)) := by
  unfold withRv
  rw [hc]
  dsimp only
  rw [if_neg (by omega), hw]
  rfl

theorem rvContext_serves {s : State} {c : Nat} {x : Context} (h : Serves s c x) : rvContext s (getRv s c) = .ok x := by
  unfold rvContext
  rw [h.ctx]
  exact if_neg (by simpa using h.tag)

theorem rvContext_auditor {s : State} {r : RvCore} {x : Context} (hx : getCtx s r.asid = some x) (ht : x.tag = 2) :
    rvContext s r = .error 3 := by
  unfold rvContext
  rw [hx]
  exact if_pos (by simpa using ht)

theorem counterKey_found {s s1 : State} {x : Context} {k : AccKind} {va key : Nat} (ha : va % 8 = 0)
    (h : seatXlat s x false k va 8 = (s1, some key)) : counterKey s x k va = (s1, .ok key) := by
  unfold counterKey
  rw [if_neg (by simpa using ha), h]

theorem counterKey_misaligned {va : Nat} (ha : va % 8 ≠ 0) (s : State) (x : Context) (k : AccKind) :
    counterKey s x k va = (s, .error 2) := if_pos (by simpa using ha)

/-! ## `xjoin` and `xwaitc` (R246) -/

/-- A wait whose counter is found ends where the condition holds, and else stays at its word. -/
theorem counterWait_found {s s1 : State} {c key : Nat} {x : Context} {rs1 rd : BitVec 5} (ok : RvCore → Nat → Bool) (hs : Serves s c x)
    (hk : counterKey s x .read (rvReg (getRv s c) rs1).toNat = (s1, .ok key)) :
    counterWait rs1 rd ok s = .next (if ok (getRv s c) (getBytes s1 key 8) then rvEnd s1 c rd 0 else s1) := by
  unfold counterWait
  rw [withRv_service hs.cur hs.core, rvContext_serves hs]
  dsimp only
  rw [hk]

theorem counterWait_misaligned {s : State} {c : Nat} {x : Context} {rs1 rd : BitVec 5} (ok : RvCore → Nat → Bool) (hs : Serves s c x)
    (ha : (rvReg (getRv s c) rs1).toNat % 8 ≠ 0) : counterWait rs1 rd ok s = .next (rvEnd s c rd 2) := by
  unfold counterWait
  rw [withRv_service hs.cur hs.core, rvContext_serves hs]
  dsimp only
  rw [counterKey_misaligned ha]

theorem counterWait_auditor {s : State} {c : Nat} {x : Context} {rs1 rd : BitVec 5} (ok : RvCore → Nat → Bool) (hc : s.rvCur = some c)
    (h32 : c < 32) (hx : getCtx s (getRv s c).asid = some x) (ht : x.tag = 2) :
    counterWait rs1 rd ok s = .next (rvEnd s c rd 3) := by
  unfold counterWait
  rw [withRv_service hc h32, rvContext_auditor hx ht]

/-- A wait whose counter is found, as the obligation says it: it ends where its condition holds, and goes on waiting elsewhere. -/
theorem wait_found {i : Instr} {s s1 : State} {c : Nat} {rd : BitVec 5} {ok : Bool} {p : Prop} (hrv : s1.rv = s.rv)
    (h : exec i s = .next (if ok then rvEnd s1 c rd 0 else s1)) (hp : ok = true ↔ p) :
    (p → ∃ s', exec i s = .next s' ∧ s' = { s1 with rv := s'.rv } ∧ CoreEnds s s' c rd 0 ∧ OtherCores s s' c) ∧
    (¬p → exec i s = .next s1) := by
  refine ⟨fun hyes => ?_, fun hno => ?_⟩
  · rw [if_pos (hp.2 hyes)] at h
    exact ⟨_, h, rfl, rvEnd_ends hrv c rd 0⟩
  · rwa [if_neg (mt hp.1 hno)] at h

/-! ## `xspawn` (R244) -/

/-- `xspawn` in a context ends with the status of its call. -/
theorem execXspawn_context {s : State} {c : Nat} {x : Context} (n : BitVec 4) (rs2 rs1 rd : BitVec 5) (hc : s.rvCur = some c) (h : c < 32)
    (hx : getCtx s (getRv s c).asid = some x) :
    execXspawn n rs2 rs1 rd s =
      .next (rvEnd (spawnCall s x (getRv s c) n.toNat (rvReg (getRv s c) rs1).toNat (rvReg (getRv s c) rs2).toNat).1 c rd
        (spawnCall s x (getRv s c) n.toNat (rvReg (getRv s c) rs1).toNat (rvReg (getRv s c) rs2).toNat).2) := by
  unfold execXspawn
  rw [withRv_service hc h, hx]

theorem spawnCall_misaligned {rs1 : Nat} (ha : rs1 % 64 ≠ 0) (s : State) (x : Context) (r : RvCore) (n rs2 : Nat) :
    spawnCall s x r n rs1 rs2 = (s, 2) := if_pos (by simpa using ha)

/-- A launch whose descriptors and counter are found makes its grid. -/
theorem spawnCall_found {s s1 s2 s3 : State} {x : Context} {w key rs1 rs2 : Nat} {d : KDesc} (r : RvCore) (n : Nat) (h1 : rs1 % 64 = 0)
    (h2 : rs2 % 8 = 0) (hread : seatRead s x false rs1 8 = (s1, some w)) (hres : spawnReserved w = false) (htag : x.tag ≠ 2)
    (hdesc : fetchDesc s1 x (bitsN w 63 0) = (s2, .ok d)) (hshape : spawnShapeBad w d = false)
    (hkey : seatXlat s2 x false .write rs2 8 = (s3, some key)) :
    spawnCall s x r n rs1 rs2 = spawnGrid s3 ((getCtx s3 x.asid).getD x) r n w d key := by
  unfold spawnCall
  rw [if_neg (by simpa using h1), hread]
  dsimp only
  rw [hres, if_neg Bool.false_ne_true, if_neg (by simpa using htag), hdesc]
  dsimp only
  rw [hshape, if_neg Bool.false_ne_true, counterKey_found h2 hkey]

/-- A new grid whose `T` teams have been made in its gangs, all with the same argument words. -/
def launched (s : State) (g : Nat) (d : KDesc) (T : Nat) (args : List Word) : State :=
  addTeams (modGrid s g fun r => { r with first := T, joins := T * d.team }) g d.entry (T / d.gang) d.gang (fun _ => args) true

theorem spawnGrid_launched {s t : State} {y : Context} {w key g : Nat} {d : KDesc} (r : RvCore) (n : Nat)
    (hroom : spawnWaiting s y.vf < 1 + Config.spawnQueue)
    (hnew : newGrid s y.vf y.asid d (.join key) (bitsN w 161 160) (bitsN w 127 96) (bitsN w 255 192) (bitsN w 159 128) (bitsN w 95 64) =
      some (t, g)) :
    spawnGrid s y r n w d key =
      (bankWrite (launched t g d (bitsN w 95 64) (rvArgs r n)) y.asid key 8
        ((getBytes (launched t g d (bitsN w 95 64) (rvArgs r n)) key 8 + bitsN w 95 64 * d.team) % 2 ^ 64), 0) := by
  unfold spawnGrid
  dsimp only
  rw [if_neg (by omega), hnew]
  rfl

/-- A launch makes all its teams at once, with their indexes and argument words, and its grid counts them. -/
theorem launched_makes {s : State} {g : Nat} {z : Grid} {d : KDesc} {T : Nat} (args : List Word) (hz : getGrid s g = some z)
    (hteam : z.nextTeam = 0) (hgang : z.nextGang = 0) (hT : T % d.gang = 0) :
    ∃ ts, launched s g d T args =
        { s with teams := s.teams ++ ts, grids := (launched s g d T args).grids, gangs := (launched s g d T args).gangs,
                 funcs := (launched s g d T args).funcs, nextId := (launched s g d T args).nextId } ∧
      ts.map teamBrief = (List.range T).map (fun i => (g, i, d.entry, args)) ∧
      (getGrid (launched s g d T args) g).map (fun z => (z.spawn, z.nextTeam, z.nextGang)) = some (z.spawn, T, T / d.gang) := by
  have hruns : T / d.gang * d.gang = T := Nat.div_mul_cancel (Nat.dvd_of_mod_eq_zero hT)
  have hfirst : getGrid (modGrid s g fun r => { r with first := T, joins := T * d.team }) g =
      some { z with first := T, joins := T * d.team } := getGrid_modGrid_same hz fun _ => rfl
  obtain ⟨s1, hl, ts, hs1, hts⟩ := addTeams_makes hfirst d.entry (T / d.gang) d.gang (fun _ => args) true
  have hgrid : getGrid s1 g = some { z with first := T, joins := T * d.team } := by
    rw [hs1]
    exact hfirst
  refine ⟨ts, ?_, ?_, ?_⟩
  · rw [launched, hl, hs1]
    rfl
  · rw [hts, hruns, hteam]
    simp only [Nat.zero_add]
  · rw [launched, hl, getGrid_modGrid_same hgrid (by exact fun _ => rfl), hruns]
    simp only [Option.map_some, hteam, hgang, Nat.zero_add]

theorem rvArgs_halves (r : RvCore) (n : Nat) :
    rvArgs r n = (List.range n).flatMap fun j => [(tget 0 r.x (10 + j)).setWidth 32, (tget 0 r.x (10 + j)).extractLsb' 32 32] := by
  have hhigh (v : DWord) : (v >>> 32).setWidth 32 = v.extractLsb' 32 32 := by
    apply BitVec.eq_of_toNat_eq
    simp
  simp only [rvArgs, hhigh]

theorem spawnShapeBad_false {w : Nat} {d : KDesc} (hlo : 1 ≤ bitsN w 95 64) (hhi : bitsN w 95 64 ≤ 65535) (hgang : bitsN w 95 64 % d.gang = 0)
    (hpriv : bitsN w 127 96 % 8 = 0) (hmax : bitsN w 127 96 ≤ 2 ^ 20) (hcheap : bitsN w 159 128 % 128 = 0)
    (hgheap : bitsN w 255 192 % 128 = 0) : spawnShapeBad w d = false := by
  unfold spawnShapeBad
  simp only [Bool.or_eq_false_iff, beq_eq_false_iff_ne, bne_eq_false_iff_eq, decide_eq_false_iff_not, Nat.not_lt]
  exact ⟨⟨⟨⟨⟨⟨by omega, hhi⟩, hgang⟩, hpriv⟩, hmax⟩, hcheap⟩, hgheap⟩

/-- What a launch leaves: the caller's core ends with status 0, the counter is raised, and the teams stand after those of before. -/
theorem launch_ends {s s4 s' : State} {g key : Nat} {z : Grid} {d : KDesc} {T : Nat} (args : List Word) (c : Nat) (rd : BitVec 5) (asid : Nat)
    (hct : coresTeams s4 = coresTeams s) (hz : getGrid s4 g = some z) (hspawn : z.spawn = T) (hteam : z.nextTeam = 0) (hgang : z.nextGang = 0)
    (hT : T % d.gang = 0) (hf : Fresh s4 key)
    (hs' : s' = rvEnd (bankWrite (launched s4 g d T args) asid key 8
      ((getBytes (launched s4 g d T args) key 8 + T * d.team) % 2 ^ 64)) c rd 0) :
    CoreEnds s s' c rd 0 ∧ OtherCores s s' c ∧ Puts s4 s' key 8 ((memRead s4.mem key 8 + T * d.team) % 2 ^ 64) ∧
      (getGrid s' g).map (fun z => (z.spawn, z.nextTeam, z.nextGang)) = some (T, T, T / d.gang) ∧
      s'.teams.take s.teams.length = s.teams ∧
      (s'.teams.drop s.teams.length).map teamBrief = (List.range T).map fun i => (g, i, d.entry, args) := by
  subst hs'
  obtain ⟨ts, hl, hts, hcount⟩ := launched_makes args hz hteam hgang hT
  generalize launched s4 g d T args = t at hl hcount ⊢
  have hmem : t.mem = s4.mem := by rw [hl]
  have hrv : t.rv = s.rv := by
    rw [hl]
    exact congrArg Prod.fst hct
  have hteams : t.teams = s.teams ++ ts := by
    rw [hl]
    exact congrArg (· ++ ts) (congrArg Prod.snd hct)
  have hft : Fresh t key := fresh_congr (by rw [hl]) (by rw [hl]) hf
  obtain ⟨hbank, -⟩ := bankWrite_fresh asid 8 ((getBytes t key 8 + T * d.team) % 2 ^ 64) hft
  have hputs := puts_bankWrite asid 8 ((getBytes t key 8 + T * d.team) % 2 ^ 64) hft
  rw [getBytes, hmem] at hbank hputs ⊢
  generalize bankWrite t asid key 8 _ = u at hbank hputs ⊢
  have hends := rvEnd_ends (hbank.rv.trans hrv) c rd 0
  have hut : u.teams = s.teams ++ ts := by rw [hbank, hteams]
  have hug : getGrid u g = getGrid t g := by rw [hbank]; rfl
  refine ⟨hends.1, hends.2, ?_, ?_, ?_, ?_⟩
  · intro a
    rw [rvEnd_mem, hputs a, hmem]
  · rw [getGrid_rvEnd, hug, hcount, hspawn]
  · rw [rvEnd_teams, hut, List.take_left]
  · rw [rvEnd_teams, hut, List.drop_left, hts]

/-! ## `xdisp` (R245) -/

/-- `xdisp` in a context whose tag allows it ends with the status of its call. -/
theorem execXdisp_serves {s : State} {c : Nat} {x : Context} (n : BitVec 4) (rs2 rs1 rd : BitVec 5) (hs : Serves s c x) :
    execXdisp n rs2 rs1 rd s =
      .next (rvEnd (dispatchCall s x (getRv s c) c n.toNat (rvReg (getRv s c) rs1).toNat (rvReg (getRv s c) rs2).toNat).1 c rd
        (dispatchCall s x (getRv s c) c n.toNat (rvReg (getRv s c) rs1).toNat (rvReg (getRv s c) rs2).toNat).2) := by
  unfold execXdisp
  rw [withRv_service hs.cur hs.core, rvContext_serves hs]

theorem execXdisp_auditor {s : State} {c : Nat} {x : Context} (n : BitVec 4) (rs2 rs1 rd : BitVec 5) (hc : s.rvCur = some c) (h : c < 32)
    (hx : getCtx s (getRv s c).asid = some x) (ht : x.tag = 2) : execXdisp n rs2 rs1 rd s = .next (rvEnd s c rd 3) := by
  unfold execXdisp
  rw [withRv_service hc h, rvContext_auditor hx ht]

theorem dispatchCall_misaligned {rs1 : Nat} (ha : rs1 % 2 ≠ 0) (s : State) (x : Context) (r : RvCore) (c n rs2 : Nat) :
    dispatchCall s x r c n rs1 rs2 = (s, 2) := if_pos (by simpa using ha)

/-- A service core of a context, other than the caller, that runs no task. -/
def IdleCore (s : State) (asid c i : Nat) : Prop :=
  i < 32 ∧ i ≠ c ∧ (getRv s i).asid = asid ∧ (getRv s i).busy = false ∧ (getRv s i).halted = false

theorem idleCore_test (s : State) (asid c i : Nat) :
    (i != c && (getRv s i).asid == asid && !(getRv s i).busy && !(getRv s i).halted) = true ↔
      i ≠ c ∧ (getRv s i).asid = asid ∧ (getRv s i).busy = false ∧ (getRv s i).halted = false := by
  simp only [Bool.and_eq_true, bne_iff_ne, beq_iff_eq, Bool.not_eq_true', and_assoc]

theorem idleCore_lowest {s : State} {asid c i : Nat} (hi : IdleCore s asid c i) (hlow : ∀ j < i, ¬IdleCore s asid c j) :
    idleCore s asid c = some i := by
  obtain ⟨h32, hidle⟩ := hi
  refine List.find?_range_eq_some.2 ⟨(idleCore_test s asid c i).2 hidle, List.mem_range.2 h32, fun j hj => ?_⟩
  rw [Bool.not_eq_true', ← Bool.not_eq_true, idleCore_test]
  exact fun h => hlow j hj ⟨by omega, h⟩

theorem idleCore_none {s : State} {asid c : Nat} (h : ∀ i, ¬IdleCore s asid c i) : idleCore s asid c = none := by
  refine List.find?_range_eq_none.2 fun i hi => ?_
  rw [Bool.not_eq_true', ← Bool.not_eq_true, idleCore_test]
  exact fun hidle => h i ⟨hi, hidle⟩

/-- A task's argument registers, x10 on. -/
theorem taskArgs_tget (f : Nat → DWord) (n j : Nat) (x : List (Nat × DWord)) (hj : j < n) :
    tget 0 (((List.range n).map f).zipIdx.foldl (fun x a => tput 0 x (10 + a.2) a.1) x) (10 + j) = f j := by
  induction n with
  | zero => exact absurd hj (by omega)
  | succ n ih =>
    rw [List.range_succ, List.map_append, List.zipIdx_append, List.foldl_append]
    simp only [List.map_cons, List.map_nil, List.length_map, List.length_range, List.zipIdx_singleton, List.foldl_cons, List.foldl_nil,
      tget_tput]
    split
    · next h => rw [show n = j by omega]
    · next h => exact ih (by omega)

theorem beginTask_return (r : RvCore) (pc : Nat) (args : List DWord) (key : Nat) : rvReg (beginTask r pc args key) 1 = 0 := by
  simp [rvReg, beginTask]

theorem beginTask_args (r : RvCore) (pc : Nat) (f : Nat → DWord) (n key : Nat) {j : Nat} (hj : j < n) :
    tget 0 (beginTask r pc ((List.range n).map f) key).x (10 + j) = f j := by
  unfold beginTask
  dsimp only
  rw [tget_tput_ne _ _ _ _ _ (by omega), taskArgs_tget f n j _ hj]

/-- Where a dispatch starts its task: on the idle core that is found, with its counter raised. -/
theorem dispatchCall_idle {s s1 s2 : State} {x : Context} {r : RvCore} {c k1 key rs1 rs2 i : Nat} (n : Nat) (h1 : rs1 % 2 = 0) (h2 : rs2 % 8 = 0)
    (hfetch : seatXlat s x false .fetch rs1 2 = (s1, some k1)) (hkey : seatXlat s1 x false .write rs2 8 = (s2, some key))
    (hi : idleCore s2 x.asid c = some i) :
    dispatchCall s x r c n rs1 rs2 =
      (bankWrite (putRv s2 i (beginTask (getRv s2 i) rs1 ((List.range n).map fun j => tget 0 r.x (10 + j)) key)) x.asid key 8
        ((memRead s2.mem key 8 + 1) % 2 ^ 64), 0) := by
  unfold dispatchCall
  rw [if_neg (by simpa using h1), hfetch]
  dsimp only
  rw [counterKey_found h2 hkey]
  dsimp only
  rw [hi]
  rfl

theorem dispatchCall_full {s s1 s2 : State} {x : Context} {r : RvCore} {c k1 key rs1 rs2 : Nat} (n : Nat) (h1 : rs1 % 2 = 0) (h2 : rs2 % 8 = 0)
    (hfetch : seatXlat s x false .fetch rs1 2 = (s1, some k1)) (hkey : seatXlat s1 x false .write rs2 8 = (s2, some key))
    (hi : idleCore s2 x.asid c = none) : dispatchCall s x r c n rs1 rs2 = (s2, 1) := by
  unfold dispatchCall
  rw [if_neg (by simpa using h1), hfetch]
  dsimp only
  rw [counterKey_found h2 hkey]
  dsimp only
  rw [hi]

/-- What a dispatch leaves: the caller's core ends with status 0, the counter is raised, and the task stands on the idle core. -/
theorem dispatch_ends {s s2 s' : State} {c i key pc : Nat} {r : RvCore} (n : Nat) (rd : BitVec 5) (asid v : Nat) (hrv : s2.rv = s.rv)
    (hic : i ≠ c) (hf : Fresh s2 key)
    (hs' : s' = rvEnd (bankWrite (putRv s2 i (beginTask (getRv s2 i) pc ((List.range n).map fun j => tget 0 r.x (10 + j)) key)) asid key 8 v)
      c rd 0) :
    CoreEnds s s' c rd 0 ∧ (∀ m, m ≠ c → m ≠ i → getRv s' m = getRv s m) ∧ Puts s2 s' key 8 v ∧ (getRv s' i).busy = true ∧
      (getRv s' i).pc = BitVec.ofNat 64 pc ∧ (getRv s' i).join = some key ∧ rvReg (getRv s' i) 1 = 0 ∧
      ∀ j < n, tget 0 (getRv s' i).x (10 + j) = tget 0 r.x (10 + j) := by
  subst hs'
  generalize htask : beginTask (getRv s2 i) pc ((List.range n).map fun j => tget 0 r.x (10 + j)) key = task
  have hft : Fresh (putRv s2 i task) key := fresh_congr rfl rfl hf
  have hputs := puts_bankWrite asid 8 v hft
  have hcores := (bankWrite_fresh asid 8 v hft).1.rv
  generalize bankWrite (putRv s2 i task) asid key 8 v = u at hputs hcores ⊢
  have hother : ∀ m, m ≠ i → getRv u m = getRv s m := fun m hm =>
    (getRv_congr hcores m).trans ((getRv_putRv_other s2 task hm).trans (getRv_congr hrv m))
  have htarget : getRv (rvEnd u c rd 0) i = task :=
    (getRv_rvEnd_other u rd 0 hic).trans ((getRv_congr hcores i).trans (getRv_putRv_same s2 i task))
  refine ⟨rvEnd_coreEnds (hother c hic.symm) rd 0, fun m hc hi => (getRv_rvEnd_other u rd 0 hc).trans (hother m hi), hputs, ?_⟩
  rw [htarget, ← htask]
  exact ⟨rfl, rfl, rfl, beginTask_return .., fun j hj => beginTask_args _ pc (fun j => tget 0 r.x (10 + j)) n key hj⟩

/-! ## The end of a task (R245) -/

theorem execXdispTaskEnd_ends {s : State} {c key : Nat} (hbusy : (getRv s c).busy = true) (hpc : (getRv s c).pc = 0)
    (hjoin : (getRv s c).join = some key) :
    execXdispTaskEnd c s = .next (lowerJoin (putRv s c { getRv s c with busy := false, join := none }) key 1) := by
  unfold execXdispTaskEnd
  dsimp only
  rw [if_pos (by simp [hbusy, hpc]), hjoin]

theorem lowerJoin_putRv {s : State} {c key : Nat} (r : RvCore) (hf : Fresh s key) :
    Puts s (lowerJoin (putRv s c r) key 1) key 8 ((memRead s.mem key 8 + (2 ^ 64 - 1)) % 2 ^ 64) ∧
      getRv (lowerJoin (putRv s c r) key 1) c = r ∧ OtherCores s (lowerJoin (putRv s c r) key 1) c := by
  have hft : Fresh (putRv s c r) key := fresh_congr rfl rfl hf
  have hcores : (lowerJoin (putRv s c r) key 1).rv = (putRv s c r).rv := (bankWrite_fresh _ 8 _ hft).1.rv
  refine ⟨puts_bankWrite _ 8 _ hft, (getRv_congr hcores c).trans (getRv_putRv_same s c r), fun m hm => ?_⟩
  exact (getRv_congr hcores m).trans (getRv_putRv_other s r hm)

/-! ## The obligation -/

/-- Settles O38: each of the four instructions is followed through its accesses, which leave cores and teams alone, to the end of its
core's word; `xspawn` makes its teams gang by gang, `xdisp` puts its task on the lowest idle core, the waits test their counter, and
the exceptions are one trap of the core. -/
theorem serviceCoresSpawnDispatchJoinAndWait : Obligations.ServiceCoresSpawnDispatchJoinAndWait := by
  unfold Obligations.ServiceCoresSpawnDispatchJoinAndWait
  intro n rs2 rs1 rd w32 s c
  dsimp only
  refine ⟨?spawn, ?dispatch, ?wait, ?misaligned, ?auditor, ?noXvexrus, ?reserved, ?taskEnd⟩
  case spawn =>
    intro x s1 s2 s3 s4 w d key g hs h1 h2 hread hdesc hkey hres hlo hhi hgang hpriv hmax hcheap hgheap hroom hnew hfree hf
    obtain ⟨hct, z, hgrids, rfl, hspawn, hteam, hgangs⟩ := newGrid_grids hnew
    have hcall := (spawnCall_found (getRv s c) n.toNat h1 h2 hread hres hs.tag hdesc
      (spawnShapeBad_false hlo hhi hgang hpriv hmax hcheap hgheap) hkey).trans (spawnGrid_launched (getRv s c) n.toNat hroom hnew)
    have hexec := (exec_xspawn n rs2 rs1 rd s).trans (execXspawn_context n rs2 rs1 rd hs.cur hs.core hs.ctx)
    have e1 := seatRead_coresTeams s x false (rvReg (getRv s c) rs1).toNat 8
    have e3 := seatXlat_coresTeams s2 x false .write (rvReg (getRv s c) rs2).toNat 8
    rw [hread] at e1
    rw [hkey] at e3
    rw [hcall, rvArgs_halves] at hexec
    obtain ⟨hcore, hothers, hputs, hcount, htake, hdrop⟩ := launch_ends _ c rd _
      (hct.trans (e3.trans ((fetchDesc_coresTeams hdesc).trans e1))) (getGrid_append hgrids hfree) hspawn hteam hgangs hgang hf rfl
    exact ⟨_, hexec, hcore, hothers, hputs, hcount, htake, hdrop⟩
  case dispatch =>
    intro x s1 s2 k1 key hs h1 h2 hfetch hkey
    have e1 := seatXlat_coresTeams s x false .fetch (rvReg (getRv s c) rs1).toNat 2
    have e2 := seatXlat_coresTeams s1 x false .write (rvReg (getRv s c) rs2).toNat 8
    rw [hfetch] at e1
    rw [hkey] at e2
    have hrv : s2.rv = s.rv := congrArg Prod.fst (e2.trans e1)
    have hidle : ∀ i, IdleCore s2 x.asid c i ↔ IdleCore s x.asid c i := fun i => by
      unfold IdleCore
      rw [getRv_congr hrv i]
    have hexec := (exec_xdisp n rs2 rs1 rd s).trans (execXdisp_serves n rs2 rs1 rd hs)
    refine ⟨fun i hi hlow hf => ?_, fun hnone => ?_⟩
    · rw [dispatchCall_idle n.toNat h1 h2 hfetch hkey (idleCore_lowest ((hidle i).2 hi) fun j hj => mt (hidle j).1 (hlow j hj))] at hexec
      exact ⟨_, hexec, dispatch_ends n.toNat rd _ _ hrv hi.2.1 hf rfl⟩
    · rw [dispatchCall_full n.toNat h1 h2 hfetch hkey (idleCore_none fun i => mt (hidle i).1 (hnone i))] at hexec
      exact ⟨_, hexec, rfl, rvEnd_ends hrv c rd 1⟩
  case wait =>
    intro x s1 key hs ha hkey
    have e1 := seatXlat_coresTeams s x false .read (rvReg (getRv s c) rs1).toNat 8
    rw [hkey] at e1
    have hrv : s1.rv = s.rv := congrArg Prod.fst e1
    have hfound := counterKey_found ha hkey
    have hjoin := (exec_xjoin rs1 rd s).trans (counterWait_found _ hs hfound)
    have hwait := (exec_xwaitc rs2 rs1 rd s).trans (counterWait_found _ hs hfound)
    exact ⟨wait_found hrv hjoin beq_iff_eq, wait_found hrv hwait decide_eq_true_iff⟩
  case misaligned =>
    intro x hs
    refine ⟨fun ha => onlyStatus_of_rvEnd ?_, fun ha => onlyStatus_of_rvEnd ?_,
      fun ha => ⟨onlyStatus_of_rvEnd ?_, onlyStatus_of_rvEnd ?_⟩⟩
    · rw [exec_xspawn, execXspawn_context n rs2 rs1 rd hs.cur hs.core hs.ctx, spawnCall_misaligned ha]
    · rw [exec_xdisp, execXdisp_serves n rs2 rs1 rd hs, dispatchCall_misaligned ha]
    · rw [exec_xjoin, counterWait_misaligned _ hs ha]
    · rw [exec_xwaitc, counterWait_misaligned _ hs ha]
  case auditor =>
    intro x hc h32 hx ht
    refine ⟨onlyStatus_of_rvEnd ?_, onlyStatus_of_rvEnd ?_, onlyStatus_of_rvEnd ?_⟩
    · rw [exec_xdisp, execXdisp_auditor n rs2 rs1 rd hc h32 hx ht]
    · rw [exec_xjoin, counterWait_auditor _ hc h32 hx ht]
    · rw [exec_xwaitc, counterWait_auditor _ hc h32 hx ht]
  case noXvexrus =>
    intro w hc h32 hw
    have htrap := withRv_noXvexrus hc h32 hw
    exact ⟨coreTraps_of_rvIllegal ((exec_xspawn n rs2 rs1 rd s).trans (htrap _)),
      coreTraps_of_rvIllegal ((exec_xdisp n rs2 rs1 rd s).trans (htrap _)),
      coreTraps_of_rvIllegal ((exec_xjoin rs1 rd s).trans (htrap _)),
      coreTraps_of_rvIllegal ((exec_xwaitc rs2 rs1 rd s).trans (htrap _))⟩
  case reserved => exact coreTraps_of_rvIllegal (exec_reservedCustom0 c w32 s)
  case taskEnd =>
    intro key hbusy hpc hjoin hf
    exact ⟨_, (exec_xdispTaskEnd c s).trans (execXdispTaskEnd_ends hbusy hpc hjoin), lowerJoin_putRv _ hf⟩

end Sys2Proof.Machine
end

section
/-!
INTEGER OPERANDS AND RESULTS (R36, R87, R96, R111, R112): the operands of the model are the bit vectors of `Safety`, a result is
delivered modulo 2^w, and an instruction that delivers one integer writes it in every true lane. Obligation O1.
-/

namespace Sys2Proof.Machine

/-! ## Naturals, integers and bits -/

theorem zextI_eq_toNat_ofInt (z : Int) (n : Nat) : zextI z n = (BitVec.ofInt n z).toNat := by
  rw [BitVec.toNat_ofInt]
  rfl

theorem sextN_eq_toInt (x n : Nat) : sextN x n = (BitVec.ofNat n x).toInt := by
  rw [toInt_eq_sextN _ rfl, BitVec.toNat_ofNat, sextN, sextN, Nat.mod_mod]

theorem opOf_eq_intVal (ty : ITy) (v : Nat) : opOf ty v = intVal ty (BitVec.ofNat (itW ty) v) := by
  rw [opOf, intVal, sextN_eq_toInt, BitVec.toNat_ofNat]

theorem opR_eq_intOperand (ty : ITy) (rd : Nat → Word) (r : Reg) : opR ty rd r = intOperand ty rd r := by
  rw [opR, opOf_eq_intVal, intOperand, intBits, pairOf_toNat]
  split <;> rw [BitVec.ofNat_toNat]

theorem opSImm_eq_intSigned (ty : ITy) (imm : BitVec 20) : opSImm ty imm = intSigned ty imm := by
  rw [opSImm, opOf_eq_intVal, zextI_eq_toNat_ofInt, BitVec.ofNat_toNat]
  rfl

theorem opLit_eq_intLiteral (ty : ITy) (v : DWord) : opLit ty v = intLiteral ty v := by
  rw [opLit, opOf_eq_intVal, BitVec.ofNat_toNat]
  rfl

/-- Bits are what their integer delivers. -/
@[simp] theorem ofInt_intVal (ty : ITy) (x : BitVec (itW ty)) : BitVec.ofInt _ (intVal ty x) = x := by
  unfold intVal
  split
  · exact BitVec.ofInt_toInt
  · rw [BitVec.ofInt_natCast, BitVec.ofNat_toNat, BitVec.setWidth_eq]

/-- SAT holds a result to the range of its type (R111). -/
theorem satI_eq_held (sat : Bool) (ty : ITy) (x : Int) : satI sat ty x = held sat ty x := by
  cases sat
  · rfl
  · have hr : itMin ty ≤ itMax ty := by cases ty <;> decide
    have hlo : itMin ty = if ty.signed then -2 ^ (itW ty - 1) else 0 := by cases ty <;> rfl
    have hhi : itMax ty = if ty.signed then 2 ^ (itW ty - 1) - 1 else 2 ^ itW ty - 1 := by cases ty <;> rfl
    simp only [satI, held, clampI, if_true, ← hlo, ← hhi]
    split
    · omega
    · split <;> omega

/-! ## Delivery -/

theorem itW_of_is64 {ty : ITy} (h : ty.is64 = true) : itW ty = 64 := by
  cases ty <;> simp [ITy.is64] at h <;> rfl

theorem wrI_eq_deliverBits (ty : ITy) (d : Reg) (x : Int) : wrI ty d x = deliverBits ty d (BitVec.ofInt _ x) := by
  unfold wrI deliverBits
  split
  · next h =>
    rw [pairRegs_eq_toPair, zextI_eq_toNat_ofInt, BitVec.ofNat_toNat, BitVec.setWidth_eq, itW_of_is64 h, BitVec.setWidth_eq]
  · simp only [zextI_eq_toNat_ofInt, sextN_eq_toInt, BitVec.ofNat_toNat, BitVec.setWidth_eq]
    rfl

theorem toPair_nodup (d : Reg) (x : BitVec 64) : ((toPair d x).map (·.1)).Nodup := by simp [toPair]

theorem deliverBits_nodup (ty : ITy) (d : Reg) (x : BitVec (itW ty)) : ((deliverBits ty d x).map (·.1)).Nodup := by
  unfold deliverBits
  split
  · exact toPair_nodup ..
  · exact List.nodup_singleton _

/-- A register-only instruction that never faults and writes registers alone. -/
theorem alu_writes_regs {i : Instr} {g : Guard} {us : List RegUse} (f x : (Nat → Word) → Thread → List (Nat × Word))
    (hi : ∀ s, exec i s = alu g us (fun rd t => .ok { regs := f rd t }) s) (hx : ∀ rd t, f rd t = x rd t)
    (hd : ∀ rd t, ((x rd t).map (·.1)).Nodup) : Writes i g us anyOperands fun rd t => onlyRegs (x rd t) := by
  obtain rfl : f = x := funext fun rd => funext fun t => hx rd t
  exact alu_writes i g us anyOperands _ (fun rd t => { regs := f rd t }) hi (fun _ _ _ => rfl) (fun rd t _ => hd rd t)
    fun _ _ _ => List.nodup_nil

/-- An instruction that delivers one integer, as the bits that it leaves modulo 2^w. -/
theorem intOp_writes_bits {i : Instr} {g : Guard} {us : List RegUse} {ty : ITy} {d : Reg} {f : (Nat → Word) → Int}
    {x : (Nat → Word) → BitVec (itW ty)} (hi : ∀ s, exec i s = intOp g us ty d f s)
    (hx : ∀ rd, BitVec.ofInt _ (f rd) = x rd) :
    Writes i g us anyOperands fun rd _ => onlyRegs (deliverBits ty d (x rd)) :=
  alu_writes_regs _ _ hi (fun rd _ => by rw [wrI_eq_deliverBits, hx]) fun _ _ => deliverBits_nodup ..

/-- An instruction that delivers one integer. -/
theorem intOp_writes {i : Instr} {g : Guard} {us : List RegUse} {ty : ITy} {d : Reg} {f n : (Nat → Word) → Int}
    (hi : ∀ s, exec i s = intOp g us ty d f s) (hn : ∀ rd, f rd = n rd) :
    Writes i g us anyOperands fun rd _ => onlyRegs (deliverInt ty d (n rd)) :=
  intOp_writes_bits hi fun rd => congrArg _ (hn rd)

/-! ## O1 -/

/-- R111: the fourteen forms. -/
theorem integerArithmeticDeliversTheExactResultModuloTheWidth :
    Parts.IntegerArithmeticDeliversTheExactResultModuloTheWidth := by
  intro g ty sat d a b imm v
  refine ⟨intOp_writes (fun _ => rfl) fun rd => ?_, intOp_writes (fun _ => rfl) fun rd => ?_,
    intOp_writes (fun _ => rfl) fun rd => ?_, intOp_writes (fun _ => rfl) fun rd => ?_,
    intOp_writes (fun _ => rfl) fun rd => ?_, intOp_writes (fun _ => rfl) fun rd => ?_,
    intOp_writes (fun _ => rfl) fun rd => ?_, intOp_writes (fun _ => rfl) fun rd => ?_,
    intOp_writes (fun _ => rfl) fun rd => ?_, intOp_writes (fun _ => rfl) fun rd => ?_,
    intOp_writes (fun _ => rfl) fun rd => ?_, intOp_writes (fun _ => rfl) fun rd => ?_,
    intOp_writes (fun _ => rfl) fun rd => ?_, intOp_writes (fun _ => rfl) fun rd => ?_⟩ <;>
    simp only [satI_eq_held, opR_eq_intOperand, opSImm_eq_intSigned, opLit_eq_intLiteral, Int.natCast_natAbs]

/-- The words of the carry chain have ITY 0 or 2. -/
theorem carryMod_eq (w64 : Bool) : 0#1 ++ bit w64 ++ 0#5 = (if w64 then 2#3 else 0#3) ++ 0#4 := by
  cases w64 <;> rfl

/-- A carry chain instruction: its result and the predicate named in C. -/
theorem carryOp_writes {i : Instr} {g : Guard} {us : List RegUse} {ty : ITy} {d : Reg} {p : PredIx}
    {f : (Nat → Word) → Thread → Int} {out : Int → Bool}
    (hi : ∀ s, exec i s = alu g us (fun rd t => .ok { regs := wrI ty d (f rd t), preds := [(p, out (f rd t))] }) s) :
    Writes i g us anyOperands fun rd t => (deliverInt ty d (f rd t), [(p, out (f rd t))], 0) := by
  have h := alu_writes i g us anyOperands _ (fun rd t => { regs := wrI ty d (f rd t), preds := [(p, out (f rd t))] }) hi
    (fun _ _ _ => rfl) (fun _ _ _ => wrI_eq_deliverBits .. ▸ deliverBits_nodup ..) fun _ _ _ => List.nodup_singleton _
  simp only [wrI_eq_deliverBits] at h
  exact h

/-- R112: the exact result with its carry, which goes through the predicate. -/
theorem carryChainsGoThroughTheNamedPredicate : Parts.CarryChainsGoThroughTheNamedPredicate := by
  intro g w64 d a b p
  refine ⟨?_, ?_, ?_, ?_⟩
  · simp only [← opR_eq_intOperand]
    exact carryOp_writes (out := fun x => decide (x ≥ 2 ^ itW (carryTy w64))) fun _ => rfl
  · simp only [← opR_eq_intOperand]
    exact carryOp_writes (out := fun x => decide (x < 0)) fun _ => rfl
  · rw [← carryMod_eq]
    rfl
  · rw [← carryMod_eq]
    rfl

/-- Settles O1: each form delivers the integer of its operands through one `wr` of R96, and a carry goes with it. -/
theorem integerResultsAreExactModuloTheWidthWithCarries : Obligations.IntegerResultsAreExactModuloTheWidthWithCarries :=
  ⟨integerArithmeticDeliversTheExactResultModuloTheWidth, carryChainsGoThroughTheNamedPredicate⟩

end Sys2Proof.Machine
end

section
/-!
PRODUCTS, DOT PRODUCTS AND MODULAR ARITHMETIC (R113, R114, R124, R125): a product is split once by HW, packed elements are fields of
their registers, and a modular instruction either reduces its exact result once or takes its arithmetic fault. Obligation O2.
-/

namespace Sys2Proof.Machine

/-! ## Products (R113) -/

theorem accWide_eq_addend64 (ty : ITy) (rd : Nat → Word) (c : Reg) : accWide ty rd c = addend64 ty rd c := by
  rw [accWide, addend64, pairOf_toNat, ← toInt_eq_sextN _ rfl]

/-- The high half of an exact product. -/
theorem ofInt_high_half (w : Nat) (x : Int) :
    BitVec.ofInt w ((zextI x (2 * w) / 2 ^ w : Nat) : Int) = (BitVec.ofInt (2 * w) x).extractLsb' w w := by
  rw [zextI_eq_toNat_ofInt, BitVec.ofInt_natCast, BitVec.extractLsb', Nat.shiftRight_eq_div_pow]

/-- An instruction that multiplies: its product with the addend that HW takes. -/
theorem mulOp_writes {i : Instr} {g : Guard} {ty : ITy} {hw : HW} {d : Reg} {srcs : List RegUse}
    {a b c c64 : (Nat → Word) → Int} (hi : ∀ s, exec i s = mulOp g ty hw d srcs a b c c64 s) :
    Writes i g (dst (ty.is64 || hw == .wide) d :: srcs) anyOperands fun rd _ =>
      onlyRegs (product ty hw d (a rd) (b rd) (c rd) (c64 rd)) := by
  cases hw with
  | lo => exact Bool.or_false _ ▸ intOp_writes hi fun _ => rfl
  | hi => exact Bool.or_false _ ▸ intOp_writes_bits hi fun _ => ofInt_high_half ..
  | wide =>
    refine Bool.or_true _ ▸ alu_writes_regs _ _ hi (fun rd _ => ?_) fun _ _ => toPair_nodup ..
    rw [pairRegs_eq_toPair, zextI_eq_toNat_ofInt, BitVec.ofNat_toNat, BitVec.setWidth_eq]
    rfl

/-! ## Dot products (R114) -/

/-- A packed element of a register. -/
theorem elemI_eq_element (sgn : Bool) (w i : Nat) (x : Word) : elemI sgn x.toNat w i = element sgn w i x := by
  have hx : BitVec.ofNat w (x.toNat / 2 ^ (w * i)) = x.extractLsb' (w * i) w := by
    rw [BitVec.extractLsb', Nat.shiftRight_eq_div_pow]
  have hn : x.toNat / 2 ^ (w * i) % 2 ^ w = (x.extractLsb' (w * i) w).toNat := by rw [← hx, BitVec.toNat_ofNat]
  simp only [elemI, element, hn, toInt_eq_sextN _ rfl]

/-- An element of a literal lies in its low word. -/
theorem elemI_literal (sgn : Bool) (v : DWord) {i : Nat} (h : i < 4) : elemI sgn v.toNat 8 i = element sgn 8 i (v.setWidth 32) := by
  have hv : v.toNat / 2 ^ (8 * i) % 2 ^ 8 = (v.setWidth 32).toNat / 2 ^ (8 * i) % 2 ^ 8 := by
    rw [BitVec.toNat_setWidth]
    interval_cases i <;> omega
  rw [← elemI_eq_element, elemI, elemI, hv]

theorem dot4Sum_eq_sum (sa sb : Bool) (a b : Nat) :
    dot4Sum sa sb a b = ((List.range 4).map fun i => elemI sa a 8 i * elemI sb b 8 i).sum := by
  simp [dot4Sum, List.range_succ, Int.add_assoc]

theorem dot2Sum_eq_sum (sa sb hi : Bool) (a b : Nat) : dot2Sum sa sb hi a b =
    ((List.range 2).map fun i => elemI sa a 16 i * elemI sb b 8 (i + if hi then 2 else 0)).sum := by
  simp [dot2Sum, List.range_succ]

/-- R113 and R114: every form. -/
theorem productsAndDotProductsAccumulateExactly : Parts.ProductsAndDotProductsAccumulateExactly := by
  intro g ty hw d a b c imm v sgn sa sb hi sat
  simp only [← opR_eq_intOperand, ← opSImm_eq_intSigned, ← opLit_eq_intLiteral, ← accWide_eq_addend64]
  refine ⟨mulOp_writes fun _ => rfl, mulOp_writes fun _ => rfl, mulOp_writes fun _ => rfl,
    fun _ => mulOp_writes fun _ => rfl, fun _ => mulOp_writes fun _ => rfl, intOp_writes (fun _ => rfl) fun rd => ?_,
    intOp_writes (fun _ => rfl) fun rd => ?_, intOp_writes (fun _ => rfl) fun rd => ?_⟩
  · simp only [satI_eq_held, dot4Sum_eq_sum, elemI_eq_element]
    rfl
  · have hb : ((List.range 4).map fun i => elemI sa (rd a.toNat).toNat 8 i * elemI sb v.toNat 8 i) =
        (List.range 4).map fun i => element sa 8 i (rd a.toNat) * element sb 8 i (v.setWidth 32) :=
      List.map_congr_left fun i hi => by rw [elemI_eq_element, elemI_literal _ _ (List.mem_range.1 hi)]
    simp only [satI_eq_held, dot4Sum_eq_sum, hb]
    rfl
  · simp only [satI_eq_held, dot2Sum_eq_sum, elemI_eq_element]
    rfl

/-! ## Modular arithmetic (R56, R124, R125) -/

theorem modulusOk_iff (q : BitVec 64) : modulusOk q.toNat = true ↔ Modulus q := by
  simp [modulusOk, Modulus, and_assoc]

/-- A residue in a register pair. -/
theorem residue_eq_reduced (d : Reg) (x : Int) {q : BitVec 64} (hq : Modulus q) : residue d x q.toNat = reduced d x q := by
  obtain ⟨-, h3, -⟩ := hq
  rw [residue, modq, pairRegs_eq_toPair, reduced, ← Int.toNat_of_nonneg (Int.emod_nonneg x (b := q.toNat) (by omega)),
    BitVec.ofInt_natCast]
  rfl

/-- The check of R124 passes, or the lane faults. -/
theorem residues_iff (Q : (Nat → Word) → BitVec 64) (ops : List Reg) (rd : Nat → Word) (t : Thread) :
    residues Q ops rd t ↔
      modulusOk (Q rd).toNat = true ∧ (ops.any fun r => (Q rd).toNat ≤ pairOf rd r.toNat) = false := by
  simp [residues, modulusOk_iff, pairOf_toNat]

/-- One lane of a register-only instruction faults. -/
theorem Lone.alu_faults {s : State} {c : Cur} {e : Env} {g : Guard} {us : List RegUse} {l : Nat} {t t0 : Thread}
    {rd : Nat → Word} (h : Lone s c e g us l t t0 rd) {f : (Nat → Word) → Thread → Except Nat Eff} {cls : Nat}
    (hf : f rd t0 = .error cls) : alu g us f s = .next (allFault s c e g { cls := cls }) := by
  have hstep : withOperands e (execRec s c e g) c.gid us l (idled s c g) (fun rd t s => match f rd t with
      | .error cls => .fault { cls := cls }
      | .ok x => .ok (modLane s c.gid l fun _ => applyEff t x)) = .fault { cls := cls } := by
    rw [h.withOperands_eq, hf]
  simp only [alu, runLanes, withCur, h.cur, h.env, h.pairs, h.still, Bool.false_eq_true, if_false]
  rw [foldLanes_fault_lone s c e g _ l _ h.nodup h.only hstep]

/-- A modular instruction: where its check passes it writes its results, and where it fails in one lane, that lane takes an
arithmetic fault (R124). -/
def ReducesOrFaults (i : Instr) (g : Guard) (us : List RegUse) (Q : (Nat → Word) → BitVec 64) (ops : List Reg)
    (x : (Nat → Word) → BitVec 64 → List (Nat × Word)) : Prop :=
  (Writes i g us (residues Q ops) fun rd _ => onlyRegs (x rd (Q rd))) ∧
  ∀ s c e l t t0 rd, Lone s c e g us l t t0 rd → ¬residues Q ops rd t0 → ∃ s', exec i s = .next s' ∧ OnlyThreads s s' ∧
    LaneBecomes s s' c l (faulted c 0x0A 0 t)

theorem modOp_reduces {i : Instr} {g : Guard} {us : List RegUse} (Q : (Nat → Word) → BitVec 64) {q : (Nat → Word) → Nat}
    {ops : List Reg} {f : Nat → (Nat → Nat) → List (Nat × Word)} {x : (Nat → Word) → BitVec 64 → List (Nat × Word)}
    (hi : ∀ s, exec i s = modOp g us q ops f s) (hq : ∀ rd, q rd = (Q rd).toNat)
    (hx : ∀ rd, Modulus (Q rd) → f (Q rd).toNat (pairOf rd) = x rd (Q rd)) (hd : ∀ rd q, ((x rd q).map (·.1)).Nodup) :
    ReducesOrFaults i g us Q ops x := by
  obtain rfl : q = fun rd => (Q rd).toNat := funext hq
  refine ⟨alu_writes i g us _ _ (fun rd _ => { regs := x rd (Q rd) }) hi (fun rd t hpre => ?_) (fun _ _ _ => hd ..)
    fun _ _ _ => List.nodup_nil, fun s c e l t t0 rd h hpre =>
      ⟨_, (hi s).trans (h.alu_faults (cls := clsArith) ?_), h.faults clsArith⟩⟩
  · obtain ⟨h1, h2⟩ := (residues_iff Q ops rd t).1 hpre
    simp only [h1, h2, Bool.not_true, Bool.false_eq_true, if_false, hx rd hpre.1]
  · rw [residues_iff, not_and_or, Bool.not_eq_true, Bool.not_eq_false] at hpre
    rcases hpre with h1 | h2
    · simp only [h1, Bool.not_false, if_true]
    · simp only [h2, if_true, ite_self]

/-- A modular instruction with one result, with its modulus in a pair and in a literal: `n` is its exact result. -/
theorem modOp_reduces_both {iR iL : Instr} {g : Guard} {us : List RegUse} {c d : Reg} {q : DWord} {ops : List Reg}
    (n : (Nat → Nat) → Int) {m : (Nat → Word) → Int}
    (hR : ∀ s, exec iR s = modOp g (us.take 3 ++ [src true c] ++ us.drop 3) (pairOf · c.toNat) ops (fun q p => residue d (n p) q) s)
    (hL : ∀ s, exec iL s = modOp g us (fun _ => q.toNat) ops (fun q p => residue d (n p) q) s)
    (hn : iR.wf = true ∨ iL.wf = true → ∀ rd, n (pairOf rd) = m rd) :
    (iR.wf = true → ReducesOrFaults iR g (us.take 3 ++ [src true c] ++ us.drop 3) (pair64 · c) ops fun rd => reduced d (m rd)) ∧
    (iL.wf = true → ReducesOrFaults iL g us (fun _ => q) ops fun rd => reduced d (m rd)) :=
  ⟨fun h => modOp_reduces (pair64 · c) hR (fun rd => pairOf_toNat rd c)
      (fun rd hQ => by rw [residue_eq_reduced _ _ hQ, hn (.inl h)]) fun _ _ => toPair_nodup ..,
    fun h => modOp_reduces (fun _ => q) hL (fun _ => rfl)
      (fun rd hQ => by rw [residue_eq_reduced _ _ hQ, hn (.inr h)]) fun _ _ => toPair_nodup ..⟩

/-- The two results of a butterfly (R125). -/
def butterfly (gs : Bool) (d a b : Reg) (rd : Nat → Word) (q : BitVec 64) : List (Nat × Word) :=
  let Z := fun r => ((pair64 rd r).toNat : Int)
  if gs then reduced d (Z d + Z a) q ++ reduced a ((Z d - Z a) * Z b) q
  else reduced d (Z d + Z b * Z a) q ++ reduced a (Z d - Z b * Z a) q

/-- A product reduced before it is added or subtracted gives the result that is reduced once. -/
theorem bflyRegs_eq_butterfly (gs : Bool) (d a b : Reg) (rd : Nat → Word) {q : BitVec 64} (hq : Modulus q) :
    bflyRegs gs d a b q.toNat (pairOf rd) = butterfly gs d a b rd q := by
  have hmod : ∀ x : Int, (modq x q.toNat : Int) = x % q.toNat := fun x => by
    obtain ⟨-, h3, -⟩ := hq
    exact Int.toNat_of_nonneg (Int.emod_nonneg x (by omega))
  cases gs
  · simp only [bflyRegs, butterfly, residue_eq_reduced _ _ hq, pairOf_toNat, hmod, Bool.false_eq_true, if_false, reduced,
      Int.add_emod_emod, Int.sub_emod_emod]
  · simp only [bflyRegs, butterfly, residue_eq_reduced _ _ hq, pairOf_toNat, if_true]

/-- The pairs of a well-formed butterfly are two. -/
theorem butterfly_nodup {gs : Bool} {d a b : Reg} {rd : Nat → Word} {q : BitVec 64} (hd : evenReg d = true)
    (ha : evenReg a = true) (hne : d ≠ a) : ((butterfly gs d a b rd q).map (·.1)).Nodup := by
  rw [evenReg_iff] at hd ha
  have hn : d.toNat ≠ a.toNat := fun h => hne (BitVec.eq_of_toNat_eq h)
  unfold butterfly
  split <;> simp [reduced, toPair] <;> omega

theorem bflyR_wf {g : Guard} {gs : Bool} {d a b c : Reg} (h : (Instr.bflyR g gs d a b c).wf = true) :
    evenReg d = true ∧ evenReg a = true ∧ d ≠ a := by
  simp only [Instr.wf, modWf, List.all_cons, Bool.and_eq_true, bne_iff_ne] at h
  exact ⟨h.1.1, h.1.2.1, h.2⟩

theorem bflyL_wf {g : Guard} {gs : Bool} {d a b : Reg} {q : DWord} (h : (Instr.bflyL g gs d a b q).wf = true) :
    evenReg d = true ∧ evenReg a = true ∧ d ≠ a := by
  simp only [Instr.wf, modWf, List.all_cons, Bool.and_eq_true, bne_iff_ne] at h
  exact ⟨h.1.1, h.1.2.1, h.2⟩

/-- The source of a well-formed `mred`: a pair, or the pairs at A and at the register after its own. -/
theorem mredSrc_eq {wide : Bool} {a : Reg} (h : (!wide || a.toNat % 4 == 0) = true) (rd : Nat → Word) :
    ((mredSrc wide a (pairOf rd) : Nat) : Int) =
      if wide then ((pair64 rd a).toNat : Int) + 2 ^ 64 * (pair64 rd (a + 2)).toNat else ((pair64 rd a).toNat : Int) := by
  cases wide with
  | false => simp [mredSrc, pairOf_toNat]
  | true =>
    have ha := a.isLt
    have h2 : (a + 2).toNat = a.toNat + 2 := by
      rw [BitVec.toNat_add]
      simp at h ⊢
      omega
    rw [mredSrc, if_pos rfl, if_pos rfl, ← pairOf_toNat, ← pairOf_toNat, h2]
    push_cast
    rfl

/-- R124 and R125: every modular instruction, with its modulus in a pair and in a literal. -/
theorem modularInstructionsReduceTheExactResultOnce : Parts.ModularInstructionsReduceTheExactResultOnce := by
  intro g d a b c q wide gs
  have hR (h : (Instr.bflyR g gs d a b c).wf = true) :=
    have ⟨h1, h2, h3⟩ := bflyR_wf h
    modOp_reduces (i := .bflyR g gs d a b c) (x := butterfly gs d a b) (pair64 · c) (fun _ => rfl) (fun rd => pairOf_toNat rd c)
      (fun rd hq => bflyRegs_eq_butterfly gs d a b rd hq) fun _ _ => butterfly_nodup h1 h2 h3
  have hL (h : (Instr.bflyL g gs d a b q).wf = true) :=
    have ⟨h1, h2, h3⟩ := bflyL_wf h
    modOp_reduces (i := .bflyL g gs d a b q) (x := butterfly gs d a b) (fun _ => q) (fun _ => rfl) (fun _ => rfl)
      (fun rd hq => bflyRegs_eq_butterfly gs d a b rd hq) fun _ _ => butterfly_nodup h1 h2 h3
  refine ⟨modOp_reduces_both (fun p => (p a.toNat : Int) + p b.toNat) (fun _ => rfl) (fun _ => rfl) fun _ rd => ?_,
    modOp_reduces_both (fun p => (p a.toNat : Int) - p b.toNat) (fun _ => rfl) (fun _ => rfl) fun _ rd => ?_,
    modOp_reduces_both (fun p => (p a.toNat : Int) * p b.toNat) (fun _ => rfl) (fun _ => rfl) fun _ rd => ?_,
    modOp_reduces_both (fun p => (p a.toNat : Int) * p b.toNat + p d.toNat) (fun _ => rfl) (fun _ => rfl) fun _ rd => ?_,
    modOp_reduces_both (fun p => (mredSrc wide a p : Nat)) (fun _ => rfl) (fun _ => rfl) fun h rd =>
      mredSrc_eq (h.elim (fun h => (Bool.and_eq_true_iff.1 h).2) fun h => (Bool.and_eq_true_iff.1 h).2) rd,
    fun h => (hR h).1, fun h => (hR h).2, fun h => (hL h).2, fun h => (hL h).1⟩ <;>
  simp only [pairOf_toNat]

/-- Settles O2: HW splits one exact product, an element is a field of its register, and a modular instruction reduces its exact
result once or faults by its check. -/
theorem productsAndResiduesAreComputedExactlyOnce : Obligations.ProductsAndResiduesAreComputedExactlyOnce :=
  ⟨productsAndDotProductsAccumulateExactly, modularInstructionsReduceTheExactResultOnce⟩

end Sys2Proof.Machine
end

section
/-!
BIT OPERATIONS (R115 to R119): logical operations, counts, the reversal and the three-input table bit by bit; shifts by amounts that
are not reduced; fields as the bits that they take and replace. Obligation O3.
-/

namespace Sys2Proof.Machine

/-! ## Operands as bits -/

theorem opZImm_eq_intVal (ty : ITy) (imm : BitVec 20) : opZImm ty imm = intVal ty (imm.setWidth _) := by
  rw [opZImm, opOf_eq_intVal, BitVec.ofNat_toNat]

theorem intVal_of_unsigned {ty : ITy} (h : ty.signed = false) (x : BitVec (itW ty)) : intVal ty x = x.toNat := by
  rw [intVal, h]
  rfl

/-- The low bits of the integer of some bits. -/
@[simp] theorem zextI_intVal (ty : ITy) (x : BitVec (itW ty)) : zextI (intVal ty x) (itW ty) = x.toNat := by
  rw [zextI_eq_toNat_ofInt, ofInt_intVal]

/-! ## Logical operations (R115) -/

/-- A logical operation on integers is the one on their bits. -/
theorem ofInt_bitI {f : Nat → Nat → Nat} (F : {w : Nat} → BitVec w → BitVec w → BitVec w)
    (hF : ∀ {w : Nat} (x y : BitVec w), (F x y).toNat = f x.toNat y.toNat) (ty : ITy) (x y : BitVec (itW ty)) :
    BitVec.ofInt _ (bitI f ty (intVal ty x) (intVal ty y)) = F x y := by
  rw [bitI, zextI_intVal, zextI_intVal, ← hF, BitVec.ofInt_natCast, BitVec.ofNat_toNat, BitVec.setWidth_eq]

theorem ofInt_complement {ty : ITy} (h : ty.signed = false) (x : BitVec (itW ty)) :
    BitVec.ofInt _ (itMax ty - intVal ty x) = ~~~x := by
  have hm : itMax ty - intVal ty x = ((~~~x).toNat : Int) := by
    have hx := x.isLt
    rw [intVal_of_unsigned h, itMax, h, BitVec.toNat_not]
    simp only [Bool.false_eq_true, if_false]
    omega
  rw [hm, BitVec.ofInt_natCast, BitVec.ofNat_toNat, BitVec.setWidth_eq]

/-- The ones among the low bits. -/
theorem popN_eq_countP {w : Nat} (x : BitVec w) (n : Nat) : popN x.toNat n = (List.range n).countP x.getLsbD := by
  induction n with
  | zero => rfl
  | succ n ih =>
    rw [popN, ih, List.range_succ, List.countP_append, List.countP_singleton]
    rfl

/-- The zeros above the highest one of the low bits. -/
theorem clzN_eq_findIdx (x n : Nat) : clzN x n = ((List.range n).map fun i => x.testBit (n - 1 - i)).findIdx id := by
  induction n with
  | zero => rfl
  | succ n ih =>
    have htail : (List.range n).map ((fun i => x.testBit (n + 1 - 1 - i)) ∘ Nat.succ) =
        (List.range n).map fun i => x.testBit (n - 1 - i) :=
      List.map_congr_left fun i _ => by
        rw [Function.comp, show n + 1 - 1 - i.succ = n - 1 - i by omega]
    rw [clzN, ih, List.range_succ_eq_map, List.map_cons, List.map_map, htail, List.findIdx_cons]
    simp only [id, Nat.add_sub_cancel, Nat.sub_zero]
    cases x.testBit n <;> rfl

theorem clzN_eq_leadingZeros {w : Nat} (x : BitVec w) : clzN x.toNat w = leadingZeros x := by
  rw [clzN_eq_findIdx, leadingZeros]
  congr 1
  apply List.map_congr_left
  intro i hi
  rw [BitVec.getMsbD, decide_eq_true (List.mem_range.1 hi), Bool.true_and]
  rfl

/-- Placing bits from the top: after `i` of them, the low `i` bits stand reversed at the top of the width. -/
theorem brevN_eq_mul (x w i : Nat) (h : i ≤ w) :
    ∃ r, brevN x w i = 2 ^ (w - i) * r ∧ ∀ j, r.testBit j = (decide (j < i) && x.testBit (i - 1 - j)) := by
  induction i with
  | zero => exact ⟨0, rfl, fun j => by simp⟩
  | succ i ih =>
    obtain ⟨r, hr, hbit⟩ := ih (by omega)
    refine ⟨2 * r + (x.testBit i).toNat, ?_, fun j => ?_⟩
    · rw [brevN, hr, show w - i = w - (i + 1) + 1 by omega, show w - 1 - i = w - (i + 1) by omega, Nat.pow_succ]
      cases x.testBit i
      · simp only [Bool.false_eq_true, if_false, Bool.toNat_false]
        ring
      · simp only [if_true, Bool.toNat_true]
        ring
    · cases j with
      | zero => cases hb : x.testBit i <;> simp [hb, Nat.testBit_zero, Nat.add_mod]
      | succ j =>
        have hdiv : (2 * r + (x.testBit i).toNat) / 2 = r := by
          have := Bool.toNat_lt (x.testBit i)
          omega
        rw [Nat.testBit_succ, hdiv, hbit, show i + 1 - 1 - (j + 1) = i - 1 - j by omega]
        simp

theorem ofNat_brevN {w : Nat} (x : BitVec w) : BitVec.ofNat w (brevN x.toNat w w) = x.reverse := by
  obtain ⟨r, hr, hbit⟩ := brevN_eq_mul x.toNat w w le_rfl
  apply BitVec.eq_of_getLsbD_eq
  intro j hj
  rw [hr, Nat.sub_self, Nat.pow_zero, Nat.one_mul, BitVec.getLsbD_ofNat, hbit, BitVec.getLsbD_reverse, BitVec.getMsbD]
  simp [hj, BitVec.getLsbD]

/-! ## The three-input table (R116) -/

/-- A bit of what is gathered from words that are taken or left. -/
theorem getLsbD_foldl_or (p : Nat → Bool) (m : Nat → Word) (j : Nat) (ks : List Nat) (r : Word) :
    (ks.foldl (fun r k => if p k then r ||| m k else r) r).getLsbD j = (r.getLsbD j || ks.any fun k => p k && (m k).getLsbD j) := by
  induction ks generalizing r with
  | nil => simp
  | cons k ks ih =>
    rw [List.foldl_cons, ih, List.any_cons]
    cases p k <;> simp [Bool.or_assoc]

/-- The bit of the three-input table that a lane of bits selects. -/
theorem getLsbD_lop3Bits (tt : BitVec 8) (a b c : Word) {j : Nat} (hj : j < 32) : (lop3Bits tt a b c).getLsbD j =
    tt.getLsbD ((a.getLsbD j).toNat + 2 * (b.getLsbD j).toNat + 4 * (c.getLsbD j).toNat) := by
  have hone : ∀ k, (1#32 <<< k).getLsbD j = decide (k = j) := fun k => by
    rw [BitVec.getLsbD_shiftLeft, BitVec.getLsbD_one, decide_eq_true hj]
    by_cases h : k = j
    · simp [h]
    · simp [h]
      omega
  rw [lop3Bits, getLsbD_foldl_or (fun j => tt.getLsbD ((a.getLsbD j).toNat + 2 * (b.getLsbD j).toNat + 4 * (c.getLsbD j).toNat)),
    Bool.eq_iff_iff]
  simp only [hone, BitVec.ofNat_eq_ofNat, BitVec.getLsbD_zero, Bool.false_or, List.any_eq_true, List.mem_range, Bool.and_eq_true,
    decide_eq_true_eq]
  exact ⟨fun ⟨k, _, hk, h⟩ => h ▸ hk, fun h => ⟨j, hj, h, rfl⟩⟩

/-- Each bit answers the minterm of its inputs. -/
theorem lop3Val_eq_lop3Bits (tt : BitVec 8) (a b c : Word) : lop3Val tt a b c = lop3Bits tt a b c := by
  apply BitVec.eq_of_getLsbD_eq
  intro j hj
  rw [getLsbD_lop3Bits _ _ _ _ hj, lop3Val, getLsbD_foldl_or (fun k => tt.getLsbD k)]
  simp only [BitVec.getLsbD_and, apply_ite (BitVec.getLsbD · j), BitVec.getLsbD_not, hj]
  cases a.getLsbD j <;> cases b.getLsbD j <;> cases c.getLsbD j <;> simp [List.range_succ, Nat.testBit]

/-! ## Shifts (R117, R118) -/

theorem intVal_bounds (ty : ITy) (x : BitVec (itW ty)) : -(2 ^ itW ty : Nat) ≤ intVal ty x ∧ intVal ty x < (2 ^ itW ty : Nat) := by
  unfold intVal
  have := x.isLt
  split
  · rw [BitVec.toInt_eq_toNat_cond]
    split <;> omega
  · omega

theorem ofInt_shlN {ty : ITy} (h : ty.signed = false) (x : BitVec (itW ty)) (n : Nat) :
    BitVec.ofInt _ (shlN ty (intVal ty x) n) = x <<< n := by
  rw [shlN, intVal_of_unsigned h]
  split
  · next hn => rw [BitVec.shiftLeft_eq_zero hn]; rfl
  · apply BitVec.eq_of_toNat_eq
    rw [show ((x.toNat : Int) * 2 ^ n) = ((x.toNat * 2 ^ n : Nat) : Int) by push_cast; rfl, BitVec.ofInt_natCast,
      BitVec.toNat_ofNat, BitVec.toNat_shiftLeft, Nat.shiftLeft_eq]

/-- A shift by the width or more leaves what the floor of the quotient leaves. -/
theorem shrN_eq_shiftRight (ty : ITy) (x : BitVec (itW ty)) (n : Nat) : shrN ty (intVal ty x) n = intVal ty x >>> n := by
  rw [shrN, Int.shiftRight_eq_div_pow]
  split
  · next hn =>
    obtain ⟨hlo, hhi⟩ := intVal_bounds ty x
    have hp : 2 ^ itW ty ≤ 2 ^ n := Nat.pow_le_pow_right (by decide) hn
    split
    · next hneg =>
      exact ((Int.ediv_emod_unique (r := intVal ty x + (2 ^ n : Nat)) (q := -1) (by omega)).2 ⟨by ring, by omega, by omega⟩).1.symm
    · next hpos => exact (Int.ediv_eq_zero_of_lt (by omega) (by omega)).symm
  · rfl

theorem ofInt_shrN (ty : ITy) (x : BitVec (itW ty)) (n : Nat) :
    BitVec.ofInt _ (shrN ty (intVal ty x) n) = if ty.signed then x.sshiftRight n else x >>> n := by
  rw [shrN_eq_shiftRight]
  unfold intVal
  split
  · rfl
  · rw [← Int.natCast_shiftRight, BitVec.ofInt_natCast, ← BitVec.toNat_ushiftRight, BitVec.ofNat_toNat, BitVec.setWidth_eq]

/-- The funnel shift of two words. -/
theorem ofNat_funnel (left : Bool) (hi lo : Word) (n : Nat) :
    BitVec.ofNat 32 (if left then (hi.toNat * 2 ^ 32 + lo.toNat) * 2 ^ n / 2 ^ 32 else (hi.toNat * 2 ^ 32 + lo.toNat) / 2 ^ n) =
      if left then ((hi ++ lo) <<< n).extractLsb' 32 32 else ((hi ++ lo) >>> n).extractLsb' 0 32 := by
  have hx : hi.toNat * 2 ^ 32 + lo.toNat = (hi ++ lo).toNat := by
    rw [BitVec.toNat_append, ← Nat.shiftLeft_add_eq_or_of_lt lo.isLt, Nat.shiftLeft_eq]
  rw [hx]
  cases left
  · apply BitVec.eq_of_toNat_eq
    simp [Nat.shiftRight_eq_div_pow]
  · apply BitVec.eq_of_toNat_eq
    simp only [if_true, BitVec.toNat_ofNat, BitVec.extractLsb'_toNat, BitVec.toNat_shiftLeft, Nat.shiftLeft_eq, Nat.shiftRight_eq_div_pow]
    omega

/-! ## Fields (R119) -/

theorem fieldLen_eq_bitField (w ctl : Nat) : fieldLen w ctl = bitField w ctl := by
  simp [fieldLen, bitField]

theorem ofInt_bfxVal (ty : ITy) (x : BitVec (itW ty)) (ctl : Nat) :
    BitVec.ofInt _ (bfxVal ty (intVal ty x) ctl) = fieldOf ty x ctl := by
  rw [bfxVal, fieldOf, fieldLen_eq_bitField]
  cases bitField (itW ty) ctl with
  | none => rfl
  | some f =>
    obtain ⟨pos, len⟩ := f
    have hf : x.toNat / 2 ^ pos % 2 ^ len = (x.extractLsb' pos len).toNat := by
      rw [BitVec.extractLsb'_toNat, Nat.shiftRight_eq_div_pow]
    simp only [zextI_intVal, hf, ← toInt_eq_sextN _ rfl]
    split
    · rfl
    · rw [BitVec.ofInt_natCast, BitVec.ofNat_toNat]

/-- A natural with its bits from `pos` to `pos + len − 1` replaced. -/
theorem testBit_replace (b x pos len i : Nat) :
    (b - b / 2 ^ pos % 2 ^ len * 2 ^ pos + x % 2 ^ len * 2 ^ pos).testBit i =
      if pos ≤ i ∧ i < pos + len then x.testBit (i - pos) else b.testBit i := by
  have hsplit : b - b / 2 ^ pos % 2 ^ len * 2 ^ pos + x % 2 ^ len * 2 ^ pos =
      2 ^ pos * (2 ^ len * (b / 2 ^ pos / 2 ^ len) + x % 2 ^ len) + b % 2 ^ pos := by
    have h1 := Nat.div_add_mod b (2 ^ pos)
    have h2 := Nat.div_add_mod (b / 2 ^ pos) (2 ^ len)
    generalize b / 2 ^ pos / 2 ^ len = hi at *
    generalize b / 2 ^ pos % 2 ^ len = mid at *
    generalize b % 2 ^ pos = lo at *
    have h3 : b = 2 ^ pos * (2 ^ len * hi) + mid * 2 ^ pos + lo := by rw [← h1, ← h2]; ring
    rw [h3, Nat.mul_add]
    have : 2 ^ pos * (x % 2 ^ len) = x % 2 ^ len * 2 ^ pos := Nat.mul_comm ..
    omega
  rw [hsplit, Nat.testBit_two_pow_mul_add _ (Nat.mod_lt _ (Nat.two_pow_pos _)),
    Nat.testBit_two_pow_mul_add _ (Nat.mod_lt _ (Nat.two_pow_pos _))]
  by_cases h1 : i < pos
  · rw [if_pos h1, if_neg (by omega), Nat.testBit_mod_two_pow]
    simp [h1]
  · rw [if_neg h1]
    by_cases h2 : i - pos < len
    · rw [if_pos h2, if_pos (by omega), Nat.testBit_mod_two_pow]
      simp [h2]
    · rw [if_neg h2, if_neg (by omega), Nat.testBit_div_two_pow, Nat.testBit_div_two_pow]
      congr 1
      omega

/-- The low bits of an integer are those of more of its bits. -/
theorem zextI_mod (z : Int) {m n : Nat} (h : m ≤ n) : zextI z m = zextI z n % 2 ^ m := by
  have hpos : ∀ k : Nat, ((2 ^ k : Nat) : Int) ≠ 0 := fun k => by positivity
  have hdvd : ((2 ^ m : Nat) : Int) ∣ (2 ^ n : Nat) := Int.natCast_dvd_natCast.2 (Nat.pow_dvd_pow 2 h)
  apply Int.ofNat_inj.1
  rw [Int.natCast_emod, zextI, zextI, Int.toNat_of_nonneg (Int.emod_nonneg _ (hpos m)),
    Int.toNat_of_nonneg (Int.emod_nonneg _ (hpos n)), Int.emod_emod_of_dvd _ hdvd]

theorem ofInt_bfiVal (ty : ITy) (base x : BitVec (itW ty)) (ctl : Nat) :
    BitVec.ofInt _ (bfiVal ty (intVal ty base) (intVal ty x) ctl) = fieldInto ty base x ctl := by
  rw [bfiVal, fieldInto, fieldLen_eq_bitField]
  cases hf : bitField (itW ty) ctl with
  | none => exact ofInt_intVal ..
  | some f =>
    obtain ⟨pos, len⟩ := f
    have hlen : len ≤ itW ty := by
      unfold bitField at hf
      split at hf
      · cases hf
      · simp only [Option.some.injEq, Prod.mk.injEq] at hf
        omega
    apply BitVec.eq_of_getLsbD_eq
    intro i hi
    simp only [zextI_intVal, zextI_mod _ hlen, BitVec.ofInt_natCast, BitVec.getLsbD_ofNat, testBit_replace, hi, decide_true,
      Bool.true_and, BitVec.getLsbD_or, BitVec.getLsbD_and, BitVec.getLsbD_not, BitVec.getLsbD_shiftLeft, BitVec.getLsbD_setWidth,
      BitVec.getLsbD_allOnes, BitVec.testBit_toNat]
    by_cases hin : pos ≤ i ∧ i < pos + len
    · have h1 : ¬i < pos := by omega
      have h2 : i - pos < itW ty := by omega
      have h3 : i - pos < len := by omega
      simp [hin, h1, h2, h3]
    · have h1 : i < pos ∨ ¬i - pos < len := by omega
      rcases h1 with h1 | h1 <;> simp [hin, h1]

/-! ## O3 -/

/-- An instruction whose one result is a 32-bit number. -/
theorem alu_writes_one {i : Instr} {g : Guard} {us : List RegUse} {d : Reg} {f : (Nat → Word) → Word} {x : (Nat → Word) → Word}
    (hi : ∀ s, exec i s = alu g us (fun rd _ => .ok { regs := [(d.toNat, f rd)] }) s) (hx : ∀ rd, f rd = x rd) :
    Writes i g us anyOperands fun rd _ => onlyRegs [(d.toNat, x rd)] :=
  alu_writes_regs _ _ hi (fun rd _ => by rw [hx]) fun _ _ => List.nodup_singleton _

/-- R115 and R116: every form. -/
theorem logicalOperationsActBitByBit : Parts.LogicalOperationsActBitByBit := by
  intro g ty d a b c imm v tt hu
  refine ⟨intOp_writes_bits (fun _ => rfl) fun rd => ?_, intOp_writes_bits (fun _ => rfl) fun rd => ?_,
    intOp_writes_bits (fun _ => rfl) fun rd => ?_, intOp_writes_bits (fun _ => rfl) fun rd => ?_,
    intOp_writes_bits (fun _ => rfl) fun rd => ?_, intOp_writes_bits (fun _ => rfl) fun rd => ?_,
    intOp_writes_bits (fun _ => rfl) fun rd => ?_, intOp_writes_bits (fun _ => rfl) fun rd => ?_,
    intOp_writes_bits (fun _ => rfl) fun rd => ?_, intOp_writes_bits (fun _ => rfl) fun rd => ?_,
    intOp_writes_bits (fun _ => rfl) fun rd => ?_, alu_writes_one (fun _ => rfl) fun rd => ?_,
    alu_writes_one (fun _ => rfl) fun rd => ?_, alu_writes_one (fun _ => rfl) fun rd => lop3Val_eq_lop3Bits ..,
    alu_writes_one (fun _ => rfl) fun rd => lop3Val_eq_lop3Bits ..⟩ <;>
    simp only [opR_eq_intOperand, opZImm_eq_intVal, opLit_eq_intLiteral, intOperand, intLiteral]
  · exact ofInt_bitI (· &&& ·) BitVec.toNat_and ..
  · exact ofInt_bitI (· &&& ·) BitVec.toNat_and ..
  · exact ofInt_bitI (· &&& ·) BitVec.toNat_and ..
  · exact ofInt_bitI (· ||| ·) BitVec.toNat_or ..
  · exact ofInt_bitI (· ||| ·) BitVec.toNat_or ..
  · exact ofInt_bitI (· ||| ·) BitVec.toNat_or ..
  · exact ofInt_bitI (· ^^^ ·) BitVec.toNat_xor ..
  · exact ofInt_bitI (· ^^^ ·) BitVec.toNat_xor ..
  · exact ofInt_bitI (· ^^^ ·) BitVec.toNat_xor ..
  · exact ofInt_complement hu _
  · rw [intVal_of_unsigned hu, Int.toNat_natCast, BitVec.ofInt_natCast, ofNat_brevN]
  · rw [intVal_of_unsigned hu, Int.toNat_natCast, popN_eq_countP]
    rfl
  · rw [intVal_of_unsigned hu, Int.toNat_natCast, clzN_eq_leadingZeros]

/-- R117 to R119: every form. -/
theorem shiftsAndFieldsNeverReduceTheirAmounts : Parts.ShiftsAndFieldsNeverReduceTheirAmounts := by
  intro g ty left d a b c imm ctl
  simp only [← ofInt_bfxVal, ← ofInt_shrN]
  refine ⟨fun hu => intOp_writes_bits (fun _ => rfl) fun rd => ?_, fun hu => intOp_writes_bits (fun _ => rfl) fun rd => ?_,
    intOp_writes_bits (fun _ => rfl) fun rd => ?_, intOp_writes_bits (fun _ => rfl) fun rd => ?_,
    alu_writes_one (fun _ => rfl) fun rd => ofNat_funnel .., intOp_writes_bits (fun _ => rfl) fun rd => ?_,
    intOp_writes_bits (fun _ => rfl) fun rd => ?_, fun hu => intOp_writes_bits (fun _ => rfl) fun rd => ?_,
    fun hu => intOp_writes_bits (fun _ => rfl) fun rd => ?_⟩ <;>
    simp only [opR_eq_intOperand, intOperand]
  · exact ofInt_shlN hu ..
  · exact ofInt_shlN hu ..
  · exact ofInt_bfiVal ..
  · exact ofInt_bfiVal ..

/-- Settles O3: an operation on the integers of the operands is the one on their bits, and an amount beyond the width leaves what the
exact quotient or product leaves. -/
theorem logicShiftsAndFieldsActOnTheirBits : Obligations.LogicShiftsAndFieldsActOnTheirBits :=
  ⟨logicalOperationsActBitByBit, shiftsAndFieldsNeverReduceTheirAmounts⟩

end Sys2Proof.Machine
end

section
/-!
MOVES, SELECTIONS AND PREDICATES (R106 to R110, R120): constants and addresses as bit vectors, comparisons, predicate logic, the saved
and loaded predicates, and the words of these instructions. Obligation O4.
-/

namespace Sys2Proof.Machine

/-- A register-only instruction that never faults and writes predicates alone. -/
theorem alu_writes_preds {i : Instr} {g : Guard} {us : List RegUse} (f x : (Nat → Word) → Thread → List (PredIx × Bool))
    (hi : ∀ s, exec i s = alu g us (fun rd t => .ok { preds := f rd t }) s) (hx : ∀ rd t, f rd t = x rd t)
    (hd : ∀ rd t, ((x rd t).map (·.1)).Nodup) : Writes i g us anyOperands fun rd t => onlyPreds (x rd t) := by
  obtain rfl : f = x := funext fun rd => funext fun t => hx rd t
  exact alu_writes i g us anyOperands _ (fun rd t => { preds := f rd t }) hi (fun _ _ _ => rfl) (fun _ _ _ => List.nodup_nil)
    fun rd t _ => hd rd t

/-! ## Values of one register or a pair (R110, R120) -/

/-- A value in a pair or, by its low bits, in one register. -/
def widthValue (w64 : Bool) (d : Reg) (x : BitVec 64) : List (Nat × Word) := if w64 then toPair d x else [(d.toNat, x.setWidth 32)]

theorem widthValue_nodup (w64 : Bool) (d : Reg) (x : BitVec 64) : ((widthValue w64 d x).map (·.1)).Nodup := by
  cases w64
  · exact List.nodup_singleton _
  · exact toPair_nodup ..

/-- The registers by which the model delivers a natural of either width. -/
theorem natValue_eq (w64 : Bool) (d : Reg) (n : Nat) :
    (if w64 then pairRegs d.toNat n else oneReg d n) = widthValue w64 d (BitVec.ofNat 64 n) := by
  cases w64
  · simp [widthValue, oneReg, BitVec.setWidth_ofNat_of_le]
  · exact pairRegs_eq_toPair ..

/-- An immediate delivered at either width. -/
theorem immValue_eq (w64 : Bool) (d : Reg) (imm : BitVec 20) :
    widthValue w64 d (BitVec.ofNat 64 (zextI imm.toInt (if w64 then 64 else 32))) = widthValue w64 d (imm.signExtend 64) := by
  have hz : imm.signExtend 64 = BitVec.ofInt 64 imm.toInt := rfl
  rw [hz]
  generalize imm.toInt = z
  cases w64
  · simp only [widthValue, Bool.false_eq_true, if_false, zextI_mod z (show 32 ≤ 64 by decide), zextI_eq_toNat_ofInt z 64]
    congr 2
    apply BitVec.eq_of_toNat_eq
    simp
  · simp only [if_true, zextI_eq_toNat_ofInt, BitVec.ofNat_toNat, BitVec.setWidth_eq]

/-- A literal delivered at either width. -/
theorem litValue_eq (w64 : Bool) (d : Reg) (v : DWord) :
    widthValue w64 d (BitVec.ofNat 64 (if w64 then v.toNat else v.toNat % 2 ^ 32)) = widthValue w64 d v := by
  cases w64
  · simp only [widthValue, Bool.false_eq_true, if_false]
    congr 2
    apply BitVec.eq_of_toNat_eq
    simp
  · rw [if_pos rfl, BitVec.ofNat_toNat, BitVec.setWidth_eq]

/-- The address of `lea` (R120). -/
theorem ofInt_lea (sgn : Bool) (sh : Nat) (rd : Nat → Word) (a b : Reg) :
    BitVec.ofInt 64 ((pairOf rd a.toNat : Nat) + opR (if sgn then .i32 else .n32) rd b * 2 ^ sh) =
      pair64 rd a + (if sgn then (rd b.toNat).signExtend 64 else (rd b.toNat).setWidth 64) <<< sh := by
  have hix : BitVec.ofInt 64 (opR (if sgn then .i32 else .n32) rd b) =
      if sgn then (rd b.toNat).signExtend 64 else (rd b.toNat).setWidth 64 := by
    cases sgn
    · simp [opR_eq_intOperand, intOperand, intVal, intBits, ITy.signed, ITy.is64, itW]
    · simp [opR_eq_intOperand, intOperand, intVal, intBits, ITy.signed, ITy.is64, itW, BitVec.signExtend]
  rw [← hix, BitVec.ofInt_add, BitVec.ofInt_mul, BitVec.shiftLeft_eq_mul_twoPow, pairOf_toNat, BitVec.ofInt_natCast]
  have hpow : BitVec.ofInt 64 ((2 : Int) ^ sh) = BitVec.twoPow 64 sh := by
    apply BitVec.eq_of_toNat_eq
    rw [show (2 : Int) ^ sh = (2 ^ sh : Nat) by push_cast; rfl, BitVec.ofInt_natCast, BitVec.toNat_ofNat, BitVec.toNat_twoPow]
  rw [hpow, BitVec.ofNat_toNat, BitVec.setWidth_eq]

/-- R110 and R120: moves, constants and addresses, with their words. -/
theorem movesConstantsAndAddressesAreDelivered : Parts.MovesConstantsAndAddressesAreDelivered := by
  intro g ty w d a b imm v sgn sh
  refine ⟨intOp_writes_bits (fun _ => rfl) fun rd => by rw [opR_eq_intOperand, intOperand, ofInt_intVal],
    alu_writes_regs _ (fun _ _ => widthValue w d (imm.signExtend 64)) (fun _ => rfl) (fun _ _ => ?_) fun _ _ => widthValue_nodup ..,
    alu_writes_regs _ (fun _ _ => widthValue (!w) d v) (fun _ => rfl) (fun _ _ => ?_) fun _ _ => widthValue_nodup ..,
    alu_writes_regs _ _ (fun _ => rfl) (fun rd _ => ?_) fun _ _ => toPair_nodup .., ⟨rfl, rfl, rfl⟩, ?_, ?_⟩
  · rw [← immValue_eq, ← natValue_eq]
    cases w <;> rfl
  · rw [← BitVec.setWidth_eq v, ← BitVec.ofNat_toNat, ← natValue_eq]
    cases w <;> simp
  · rw [zextI_eq_toNat_ofInt, pairRegs_eq_toPair, BitVec.ofNat_toNat, BitVec.setWidth_eq, ofInt_lea]
  · simp [Instr.wf, pairIf, evenReg_iff]
  · simp [Instr.wf, evenReg_iff]

/-! ## Comparison, predicate logic and selection (R106 to R109) -/

/-- The relation of two integers (Table 5.5). -/
theorem cmpHolds_relInt {cmp : Cmp} (h : cmp.integer = true) (a b : Int) : cmpHolds cmp (relInt a b) = intHolds cmp a b := by
  rcases lt_trichotomy a b with hlt | rfl | hgt
  · have hr : relInt a b = .lt := if_pos hlt
    cases cmp <;> simp [Cmp.integer, cmpHolds, intHolds, hr, hlt, hlt.ne, hlt.le, hlt.not_gt, hlt.not_ge] at h ⊢
  · have hr : relInt a a = .eq := by simp [relInt]
    cases cmp <;> simp [Cmp.integer, cmpHolds, intHolds, hr] at h ⊢
  · have hr : relInt a b = .gt := by simp [relInt, hgt.not_gt, hgt.ne']
    cases cmp <;> simp [Cmp.integer, cmpHolds, intHolds, hr, hgt, hgt.ne', hgt.le, hgt.not_gt, hgt.not_ge] at h ⊢

/-- `pmov` loads each predicate but p0 once (R108). -/
theorem loaded_preds_nodup : ((List.range 63).map fun k => BitVec.ofNat 6 (k + 1)).Nodup := by decide

/-- A comparison of integers writes its predicate. -/
theorem isetOp_writes {i : Instr} {g : Guard} {us : List RegUse} {cmp : Cmp} {p : PredIx} {a b x y : (Nat → Word) → Int}
    (hc : cmp.integer = true) (hi : ∀ s, exec i s = isetOp g us cmp p a b s) (ha : ∀ rd, a rd = x rd) (hb : ∀ rd, b rd = y rd) :
    Writes i g us anyOperands fun rd _ => onlyPreds [(p, intHolds cmp (x rd) (y rd))] :=
  alu_writes_preds _ _ hi (fun rd _ => by rw [ha, hb, cmpHolds_relInt hc]) fun _ _ => List.nodup_singleton _

/-- A selection writes the value that its predicate names. -/
theorem selOp_writes {i : Instr} {g : Guard} {us : List RegUse} {p : PredIx} {w64 : Bool} {d a : Reg} {b : (Nat → Word) → Nat}
    {y : (Nat → Word) → BitVec 64} (hi : ∀ s, exec i s = selOp g us p w64 d a b s)
    (hb : ∀ rd, widthValue w64 d (BitVec.ofNat 64 (b rd)) = widthValue w64 d (y rd)) :
    Writes i g us anyOperands fun rd t => onlyRegs (widthValue w64 d
      (if rdPred t p then (if w64 then pair64 rd a else (rd a.toNat).setWidth 64) else y rd)) := by
  refine alu_writes_regs _ _ hi (fun rd t => ?_) fun _ _ => widthValue_nodup ..
  rw [natValue_eq]
  cases rdPred t p
  · exact hb rd
  · simp only [if_true]
    cases w64
    · rw [if_neg Bool.false_ne_true, if_neg Bool.false_ne_true, BitVec.ofNat_toNat]
    · rw [if_pos rfl, if_pos rfl, pairOf_eq_pair64]

theorem toNat_append_assoc {n m k : Nat} (h : BitVec n) (x : BitVec m) (z : BitVec k) :
    (h ++ x ++ z).toNat = (h ++ (x ++ z)).toNat := by
  rw [BitVec.append_assoc, BitVec.toNat_cast]

/-- The end of a word of `sel`: the predicate and the width, and SS 0. -/
theorem selWord_eq (h : BitVec 56) (p : PredIx) (w64 : Bool) :
    (h ++ (p ++ BitVec.ofBool w64) ++ 0#1 : DWord) = h ++ (p ++ BitVec.ofBool w64 ++ 0#1) :=
  BitVec.eq_of_toNat_eq (toNat_append_assoc h (p ++ BitVec.ofBool w64) 0#1)

/-- R106 to R109: comparisons, predicate logic and selections, with their words. -/
theorem predicatesAreComparedCombinedSavedAndSelected : Parts.PredicatesAreComparedCombinedSavedAndSelected := by
  intro g ty cmp p d a b imm v w64 op na nb pd pa pb
  have hA : ∀ rd, opR ty rd a = intOperand ty rd a := fun rd => opR_eq_intOperand ty rd a
  refine ⟨fun hc => ⟨isetOp_writes hc (fun _ => rfl) hA fun rd => opR_eq_intOperand ty rd b,
      isetOp_writes hc (fun _ => rfl) hA fun _ => opSImm_eq_intSigned ty imm,
      isetOp_writes hc (fun _ => rfl) hA fun _ => opLit_eq_intLiteral ty v⟩,
    ?_, ?_, ?_, ?_,?_, ?_, ?_, ?_, ?_, ?_, ?_⟩
  · refine alu_writes_preds _ _ (fun _ => rfl) (fun rd t => ?_) fun _ _ => List.nodup_singleton _
    simp only [← Bool.bne_eq_xor]
    cases op <;> rfl
  · exact alu_writes_preds _ _ (fun _ => rfl) (fun rd t => by rw [Bool.bne_eq_xor]) fun _ _ => List.nodup_singleton _
  · refine alu_writes_regs _ _ (fun _ => rfl) (fun rd t => ?_) fun _ _ => toPair_nodup ..
    rw [pairRegs_eq_toPair, BitVec.ofNat_toNat, BitVec.setWidth_eq]
    rfl
  · refine alu_writes_preds _ _ (fun _ => rfl) (fun rd t => ?_) fun _ _ => ?_
    · rw [pairOf_toNat]
      rfl
    · rw [List.map_map]
      exact loaded_preds_nodup
  · refine selOp_writes (fun _ => rfl) fun rd => ?_
    cases w64
    · rw [if_neg Bool.false_ne_true, if_neg Bool.false_ne_true, BitVec.ofNat_toNat]
    · rw [if_pos rfl, if_pos rfl, pairOf_eq_pair64]
  · exact selOp_writes (fun _ => rfl) fun rd => immValue_eq ..
  · exact selOp_writes (fun _ => rfl) fun rd => litValue_eq ..
  · exact ⟨congrArg (Words.thread · none) (selWord_eq ..), congrArg (Words.thread · none) (selWord_eq ..),
      congrArg (Words.thread · (some v)) (selWord_eq ..)⟩
  · simp [Instr.wf, pairIf, evenReg_iff]
  · simp [Instr.wf, pairIf, evenReg_iff]
  · simp [Instr.wf, pairIf, evenReg_iff]

/-- Settles O4: each result is one value of one register or a pair, each predicate one relation or connective of its operands. -/
theorem movesSelectionsAndPredicatesAreDelivered : Obligations.MovesSelectionsAndPredicatesAreDelivered :=
  ⟨movesConstantsAndAddressesAreDelivered, predicatesAreComparedCombinedSavedAndSelected⟩

end Sys2Proof.Machine
end

section
/-!
LANES THAT EACH DO ONE THING, AND STREAM REGISTERS (R21, R121, R122): an execution in which every true lane updates its own thread, the
bindings of stream registers, and the elements that a bound register delivers. Obligation O20.
-/

namespace Sys2Proof.Machine

/-! ## Lanes that retire -/

/-- A lane after an execution in which every true lane retires. -/
theorem getLane_retired {s : State} {c : Cur} {g : Guard} {h : Nat → Thread → Thread} (hl : ∀ k t, t.lane = k → (h k t).lane = k)
    (a n : Nat) {l : Nat} (hlc : l ∈ c.lanes) {t : Thread} (ht : getLane s c.gid l = some t) :
    getLane (countEvent (modLanes s c.gid c.lanes (retire c (activeLanes s c g) h)) a 0 n) c.gid l =
      some (goOn c.next (if guardOf g t then h l t else t)) := by
  have hr : ∀ k t, t.lane = k → (retire c (activeLanes s c g) h k t).lane = k := fun k t ht => by
    unfold retire
    split
    · exact (goOn_lane ..).trans (hl k t ht)
    · exact (goOn_lane ..).trans ht
  rw [getLane_groups (modLanes s c.gid c.lanes (retire c (activeLanes s c g) h)) (countEvent _ _ _ _) rfl,
    getLane_modLanes _ _ _ _ _ _ hr, if_pos ⟨rfl, hlc⟩, ht, Option.map_some, retire]
  by_cases hg : guardOf g t = true
  · simp [(mem_activeLanes s c g l t ht).2 ⟨hlc, hg⟩, hg]
  · have hn : l ∉ activeLanes s c g := fun hm => hg ((mem_activeLanes s c g l t ht).1 hm).2
    simp [hn, hg]

theorem operandsOf_nil (s : State) (e : Env) (r : ExecRec) (t : Thread) : operandsOf s e r t [] = .ok [] t := by
  have hb : boundFault t [] = false := by simp [boundFault]
  have hu : usedStreams t [] = [] := by simp [usedStreams]
  simp [operandsOf, rangeFault, hb, takeStreams, hu, takeFrom]

/-- An instruction that names no register, and whose true lanes each update their own thread. -/
theorem eachLaneAt_of_modLane {place : Cur → Bool} {i : Instr} {g : Guard} (f : Thread → Thread) {post : Thread → Thread → Prop}
    (F : State → Cur → Env → Nat → State → LaneStep)
    (hi : ∀ s c e, s.cur = some c → env s c.gid = some e → place c = true → exec i s = .next (foldLanes s c e g (F s c e)))
    (hF : ∀ s c e l s' t, getLane s' c.gid l = some t → F s c e l s' = .ok (modLane s' c.gid l f))
    (hf : ∀ t, (f t).lane = t.lane) (hpost : ∀ t, post t (f t)) :
    EachLaneAt place i g [] anyOperands fun _ t0 t1 => post t0 t1 := by
  intro s c e hp R
  have hs := settleStreams_nil s c e g
  have hl : ∀ k (t : Thread), t.lane = k → (f t).lane = k := fun k t ht => (hf t).trans ht
  have hfold := foldLanes_ok s c e g (F s c e) (fun _ => f) hl R.nodup fun l hla s' _ hsl => by
    obtain ⟨t, ht, -⟩ := R.lane l (mem_lanes_of_active hla)
    rw [hs] at ht
    exact hF s c e l s' t (hsl.trans ht)
  refine ⟨_, (hi s c e R.cur R.env hp).trans (congrArg _ hfold), ?_, fun l hlc t ht => ?_⟩
  · rw [hs]
    refine onlyLanes_retire s c e g _ fun k t ht => ?_
    unfold retire
    split
    · exact (goOn_lane ..).trans (hl k t ht)
    · exact (goOn_lane ..).trans ht
  · rw [hs] at ht ⊢
    have hget := getLane_retired (g := g) (h := fun _ => f) hl e.ctx.asid (activeLanes s c g).length hlc ht
    refine ⟨fun hg ov t0 ho => ⟨f t, by rw [hget, if_pos hg], ?_⟩, fun hg => by rw [hget, if_neg (by simp [hg])]⟩
    rw [operandsOf_nil] at ho
    cases ho
    exact hpost t

/-! ## Bindings (R121) -/

theorem rdStream_wrStream (t : Thread) (k j : Nat) (x : StreamReg) :
    rdStream (wrStream t k x) j = if k = j then x else rdStream t j := tget_tput _ _ _ _ _

theorem wrStream_frame (t : Thread) (k : Nat) (x : StreamReg) : wrStream t k x = { t with sp := (wrStream t k x).sp } := rfl

/-- A stream register other than `k` is bound to a register. -/
def boundBeside (k : Nat) (d : Reg) (t : Thread) (j : Nat) : Bool := j != k && (rdStream t j).bnd && (rdStream t j).vreg == d

/-- One binding of a register is released, where it is another's than `k`. -/
def unbindOther (k : Nat) (d : Reg) (t : Thread) (j : Nat) : Thread :=
  if boundBeside k d t j then wrStream t j StreamReg.unbound else t

theorem rdStream_unbindOther (k : Nat) (d : Reg) (t : Thread) (i j : Nat) :
    rdStream (unbindOther k d t i) j = if i = j ∧ boundBeside k d t j then StreamReg.unbound else rdStream t j := by
  unfold unbindOther
  by_cases hij : i = j
  · subst hij
    cases hb : boundBeside k d t i <;> simp [rdStream_wrStream]
  · cases boundBeside k d t i <;> simp [hij, rdStream_wrStream]

/-- What is released is bound no more. -/
theorem boundBeside_unbindOther (k : Nat) (d : Reg) (t : Thread) (i j : Nat) :
    boundBeside k d (unbindOther k d t i) j = (boundBeside k d t j && i != j) := by
  rw [boundBeside, rdStream_unbindOther]
  by_cases hij : i = j
  · subst hij
    cases hb : boundBeside k d t i
    · simpa [boundBeside] using hb
    · simp [StreamReg.unbound]
  · simp [hij, boundBeside]

/-- The other bindings of a register are released. -/
theorem rdStream_foldl_unbindOther (k : Nat) (d : Reg) (js : List Nat) (t : Thread) (j : Nat) :
    rdStream (js.foldl (unbindOther k d) t) j = if j ∈ js ∧ boundBeside k d t j then StreamReg.unbound else rdStream t j := by
  induction js generalizing t with
  | nil => simp
  | cons i js ih =>
    rw [List.foldl_cons, ih, rdStream_unbindOther, boundBeside_unbindOther]
    by_cases hj : i = j
    · subst hj
      cases boundBeside k d t i <;> simp
    · simp [hj, Ne.symm hj]

theorem foldl_unbindOther_frame (k : Nat) (d : Reg) (js : List Nat) (t : Thread) :
    js.foldl (unbindOther k d) t = { t with sp := (js.foldl (unbindOther k d) t).sp } := by
  induction js generalizing t with
  | nil => rfl
  | cons i js ih =>
    have h : unbindOther k d t i = { t with sp := (unbindOther k d t i).sp } := by
      unfold unbindOther
      split <;> rfl
    rw [List.foldl_cons, ih, h]

/-- The binding that `sbind` makes: of every other register only its own are released (R121). -/
theorem rdStream_bound (t : Thread) (k : Nat) (d : Reg) (x : StreamReg) {j : Nat} (hj : j < 8) :
    rdStream (wrStream (unbindOthers t k d) k x) j =
      if j = k then x else if (rdStream t j).bnd = true ∧ (rdStream t j).vreg = d then StreamReg.unbound else rdStream t j := by
  rw [rdStream_wrStream]
  by_cases hk : j = k
  · rw [if_pos hk.symm, if_pos hk]
  · rw [if_neg (Ne.symm hk), if_neg hk]
    refine (rdStream_foldl_unbindOther k d (List.range 8) t j).trans ?_
    simp [hj, boundBeside, hk]

section
variable {s : State} {c : Cur} {e : Env} {g : Guard} {l : Nat} {t t0 : Thread} {rd : Nat → Word} {k : BitVec 3} {ew8 : Bool}
  {d a : Reg}

/-- The record of an execution names the same lanes once those whose guard is not true have gone on. -/
theorem execRec_idled (s : State) (c : Cur) (e : Env) (g : Guard) : execRec (idled s c g) c e g = execRec s c e g := by
  have hguard : ∀ t, guardOf g (advance c t) = guardOf g t := fun t => by
    unfold advance goOn
    split <;> rfl
  have hlane : ∀ l, (getLane (idled s c g) c.gid l).map (guardOf g) = (getLane s c.gid l).map (guardOf g) := fun l => by
    rw [getLane_idled]
    split
    · rw [Option.map_map, show guardOf g ∘ advance c = guardOf g from funext hguard]
    · rfl
  simp only [execRec, hlane]
  rfl

/-- What an `sbind` with its operands does in a lane. -/
def sbindLane (k : BitVec 3) (ew8 : Bool) (d a : Reg) (gid l : Nat) (rd : Nat → Word) (t : Thread) (s : State) : LaneStep :=
  let cnt := (rd (a.toNat + 2)).toNat % 2 ^ 16
  let pos := (rd (a.toNat + 2)).toNat / 2 ^ 16
  if cnt == 0 || cnt ≤ pos then .fault { cls := clsStream }
  else .ok (modLane s gid l fun _ =>
    wrStream (unbindOthers t k.toNat d) k.toNat ⟨rd a.toNat, rd (a.toNat + 1), cnt, pos, d, ew8, true⟩)

/-- An `sbind` that meets the checks of R18: each lane acts with the three registers from A on. -/
theorem exec_sbind (hc : s.cur = some c) (he : env s c.gid = some e) (hd : d.toNat + (if ew8 then 1 else 0) < e.grid.desc.regs) :
    exec (.sbind g (.bind k ew8 d a)) s = .next (foldLanes (settleStreams s c e g [srcRun a 3]) c e g fun l s' =>
      withOperands e (execRec s' c e g) c.gid [srcRun a 3] l s' (sbindLane k ew8 d a c.gid l)) := by
  have h1 : (ew8 && decide (e.grid.desc.regs ≤ d.toNat + 1)) = false := by
    cases ew8
    · rfl
    · simpa using hd
  have h2 : ¬e.grid.desc.regs ≤ d.toNat := by omega
  show execSbind g (.bind k ew8 d a) s = _
  simp only [execSbind, withCur, hc, he, h1, h2, Bool.false_eq_true, if_false]
  rfl

/-- R121: bindings made, checked and released. -/
theorem streamBindingsAreMadeCheckedAndReleased : Parts.StreamBindingsAreMadeCheckedAndReleased := by
  intro g k ew8 d a
  refine ⟨eachLaneAt_of_modLane (fun t => wrStream t k.toNat StreamReg.unbound)
    (fun s c e l s' => withOperands e (execRec s c e g) c.gid [] l s' fun _ _ s =>
      .ok (modLane s c.gid l fun t => wrStream t k.toNat StreamReg.unbound))
    (post := fun t0 t1 => t1 = { t0 with sp := t1.sp } ∧ ∀ j, rdStream t1 j = if j = k.toNat then StreamReg.unbound else rdStream t0 j)
    (fun s c e hc he _ => ?_) (fun s c e l s' t ht => ?_) (fun _ => rfl) fun t => ⟨rfl, fun j => ?_⟩, fun s c e l t t0 rd h hd => ?_⟩
  · show execSbind g (.off k) s = _
    simp only [execSbind, runLanes, withCur, hc, he, settleStreams_nil]
    rfl
  · simp only [withOperands, ht, operandsOf_nil]
  · rw [rdStream_wrStream]
    simp only [eq_comm]
  · have hex := exec_sbind (g := g) (k := k) (a := a) h.cur h.env hd
    have hlane := h.withOperands_eq (sbindLane k ew8 d a c.gid l)
    rw [h.still] at hex
    rw [← execRec_idled] at hlane
    refine ⟨fun hbad => ?_, fun h0 h1 => ?_⟩
    · rw [sbindLane, if_pos (by simpa using hbad)] at hlane
      exact ⟨_, hex.trans (congrArg _ (foldLanes_fault_lone s c e g _ l _ h.nodup h.only hlane)), h.faults clsStream⟩
    · rw [sbindLane, if_neg (by simp; omega)] at hlane
      have hframe := foldl_unbindOther_frame k.toNat d (List.range 8) t0
      obtain ⟨g1, g2⟩ := h.goes (wrStream (unbindOthers t0 k.toNat d) k.toNat
        ⟨rd a.toNat, rd (a.toNat + 1), (rd (a.toNat + 2)).toNat % 2 ^ 16, (rd (a.toNat + 2)).toNat / 2 ^ 16, d, ew8, true⟩)
        ((congrArg Thread.lane hframe).trans h.taken_lane)
      exact ⟨_, _, hex.trans (congrArg _ (foldLanes_ok_lone s c e g _ l _ h.nodup h.only hlane)), g1, g2,
        congrArg (wrStream · k.toNat _) hframe, fun j hj => rdStream_bound t0 k.toNat d _ hj⟩

end

/-! ## Elements (R21, R122) -/

/-- A bound register that an instruction reads as its one source is its one stream. -/
theorem operandsOf_src_bound {s : State} {e : Env} {r : ExecRec} {t : Thread} {k : Nat} {x : StreamReg}
    (hb : boundStreams t = [(k, x)]) (hreg : x.vreg.toNat < e.grid.desc.regs) :
    operandsOf s e r t [src false x.vreg] = takeFrom s e r [(k, x)] t [] := by
  have hrange : rangeFault e.grid.desc.regs [src false x.vreg] = false := by simp [rangeFault, src, hreg]
  have hbound : boundFault t [src false x.vreg] = false := by simp [boundFault, src]
  have hused : usedStreams t [src false x.vreg] = [(k, x)] := by
    simp [usedStreams, hb, src, useHits, streamRegs]
    split <;> simp
  rw [operandsOf, hrange, hbound, takeStreams, hused]
  rfl

section
variable {s : State} {e : Env} {r : ExecRec} {t : Thread} {k : Nat} {x : StreamReg} {a : Int} {w : Nat}

/-- An outstanding acquire holds a stream element (R122). -/
theorem takeFrom_acquiring (h : acquiring e.group t.lane = true) : takeFrom s e r [(k, x)] t [] = .wait .acquire := by
  simp only [takeFrom, h, if_true]

/-- A misaligned element (R21). -/
theorem takeFrom_misaligned (hp : elemPlace x = (a, w)) (h : acquiring e.group t.lane = false) (ha : a % w ≠ 0) :
    takeFrom s e r [(k, x)] t [] = .fault { cls := clsAlign, addr := a } := by
  simp only [takeFrom, h, hp, bne_iff_ne.2 ha, Bool.false_eq_true, if_false, if_true]

/-- An element outside scratch (R21). -/
theorem takeFrom_outside (hp : elemPlace x = (a, w)) (h : acquiring e.group t.lane = false) (ha : a % w = 0)
    (hout : a < 0 ∨ (e.grid.desc.scratch * 128 : Nat) < a + w) :
    takeFrom s e r [(k, x)] t [] = .fault { cls := clsSpace, addr := a } := by
  have hout' : (decide (a < 0) || decide (((e.grid.desc.scratch * 128 : Nat) : Int) < a + w)) = true := by simpa using hout
  simp only [takeFrom, h, hp, ha, hout', bne_self_eq_false, Bool.false_eq_true, if_false, if_true]

/-- An aligned element in scratch: an empty line holds it, else it is read and POS advances (R122). -/
theorem takeFrom_inside (hp : elemPlace x = (a, w)) (h : acquiring e.group t.lane = false) (ha : a % w = 0) (h0 : 0 ≤ a)
    (hin : a + w ≤ (e.grid.desc.scratch * 128 : Nat)) :
    (∀ line, lineEmpty s (keyScr e.team.tid a.toNat) w = some line → takeFrom s e r [(k, x)] t [] = .wait (.line line)) ∧
    (lineEmpty s (keyScr e.team.tid a.toNat) w = none → poisoned s (keyScr e.team.tid a.toNat) w = false →
      takeFrom s e r [(k, x)] t [] = .ok (if x.ew8 then pairRegs x.vreg.toNat (memRead s.mem (keyScr e.team.tid a.toNat) w)
        else [(x.vreg.toNat, BitVec.ofNat 32 (memRead s.mem (keyScr e.team.tid a.toNat) w))])
        (wrStream t k { x with pos := (x.pos + 1) % x.count })) := by
  have hin' : (decide (a < 0) || decide (((e.grid.desc.scratch * 128 : Nat) : Int) < a + w)) = false := by simp; omega
  simp only [takeFrom, h, hp, ha, hin', bne_self_eq_false, Bool.false_eq_true, if_false]
  refine ⟨fun line hl => by simp only [hl], fun hl hpo => ?_⟩
  simp only [hl, hpo, Bool.false_eq_true, if_false, List.append_nil]
  rfl

end

theorem readOver_pairRegs_low (n v : Nat) (t : Thread) : readOver (pairRegs n v) t n = BitVec.ofNat 32 v := by
  simp [readOver, pairRegs]

theorem readOver_pairRegs_high (n v : Nat) (t : Thread) : readOver (pairRegs n v) t (n + 1) = BitVec.ofNat 32 (v / 2 ^ 32) := by
  have hne : (n + 1 == n) = false := by simp
  simp [readOver, pairRegs, List.lookup, hne]

/-- R122, R21: the element of a bound register. -/
theorem boundRegistersDeliverScratchElements : Parts.BoundRegistersDeliverScratchElements := by
  intro s e r t k x hb hreg
  rw [operandsOf_src_bound hb hreg]
  have hp : elemPlace x = (x.base.toNat + (x.pos : Int) * x.stride.toInt, if x.ew8 then 8 else 4) := rfl
  refine ⟨takeFrom_acquiring, fun h => ⟨takeFrom_misaligned hp h, takeFrom_outside hp h, fun ha h0 hin => ?_⟩⟩
  obtain ⟨h1, h2⟩ := takeFrom_inside (r := r) (s := s) (k := k) hp h ha h0 hin
  refine ⟨h1, fun hl hpo => ⟨_, h2 hl hpo, ?_, fun h8 => ?_⟩⟩
  · cases x.ew8
    · simp [readOver]
    · exact readOver_pairRegs_low ..
  · rw [h8]
    exact readOver_pairRegs_high ..

/-- Settles O20: a binding is one write of a stream register beside the releases, and an element is read where `takeFrom` finds it. -/
theorem streamRegistersAreBoundAndDeliverElements : Obligations.StreamRegistersAreBoundAndDeliverElements :=
  ⟨streamBindingsAreMadeCheckedAndReleased, boundRegistersDeliverScratchElements⟩

end Sys2Proof.Machine
end

section
/-!
HINTS AND WAITS (R101, R103, R104, R161): the words that only go on, the lanes that wait at their word, and the expiry of `sleep`.
-/

namespace Sys2Proof.Machine

/-! ## Hints -/

/-- An instruction with no operands whose lanes each update their own thread. -/
theorem eachLaneAt_of_plainLanes {place : Cur → Bool} {i : Instr} {g : Guard} (f : Thread → Thread)
    (F : Cur → Env → Nat → State → LaneStep) (hi : ∀ s, exec i s = plainLanes g place s F)
    (hF : ∀ c e l s t, getLane s c.gid l = some t → F c e l s = .ok (modLane s c.gid l f)) (hf : ∀ t, (f t).lane = t.lane) :
    EachLaneAt place i g [] anyOperands fun _ t0 t1 => t1 = f t0 :=
  eachLaneAt_of_modLane f (fun _ c e l s => F c e l s) (post := fun t0 t1 => t1 = f t0)
    (fun s c e hc he hp => by
      rw [hi]
      simp only [plainLanes, withCur, hc, he, hp, Bool.not_true, Bool.false_eq_true, if_false])
    (fun _ c e l s t ht => hF c e l s t ht) hf fun _ => rfl

/-- A prefetch reads its operands and changes nothing (R161). -/
theorem eachLane_pref {i : Instr} {g : Guard} {a : Reg} (hi : ∀ s, exec i s = prefOp g a s) :
    EachLane i g [src true a] anyOperands fun _ t0 t1 => t1 = t0 := by
  intro s0 c e _ R
  generalize hs : settleStreams s0 c e g [src true a] = s
  have hready : ∀ l ∈ c.lanes, ∀ t, getLane s c.gid l = some t → guardOf g t = true →
      ∃ ov t0, operandsOf s e (execRec s0 c e g) t [src true a] = .ok ov t0 := fun l hl t ht hg => by
    obtain ⟨t', ht', hop⟩ := R.lane l hl
    rw [hs] at ht' hop
    obtain rfl : t' = t := Option.some.inj (ht'.symm.trans ht)
    obtain ⟨ov, t0, ho, -⟩ := hop hg
    exact ⟨ov, t0, ho⟩
  obtain ⟨h, e1, e2, e3⟩ := alu_ok g [src true a] (fun _ _ => .ok {}) s0 s c e R.cur R.env R.nodup R.pairs hs (fun l hl => by
    obtain ⟨t, ht, -⟩ := R.lane l (mem_lanes_of_active hl)
    rw [hs] at ht
    obtain ⟨ov, t0, ho⟩ := hready l (mem_lanes_of_active hl) t ht ((mem_activeLanes s c g l t ht).1 hl).2
    exact ⟨t, ov, t0, {}, ht, ho, rfl⟩)
  have hret : ∀ k t, t.lane = k → (retire c (activeLanes s c g) h k t).lane = k := fun k t ht => by
    unfold retire
    split
    · exact (goOn_lane ..).trans (e2 k t ht)
    · exact (goOn_lane ..).trans ht
  refine ⟨_, (hi s0).trans e1, onlyLanes_retire s c e g _ hret, fun l hl t ht => ?_⟩
  have hget := getLane_retired (g := g) e2 e.ctx.asid (activeLanes s c g).length hl ht
  refine ⟨fun hg ov t0 ho => ⟨t0, ?_, rfl⟩, fun hg => by rw [hget, if_neg (by simp [hg])]⟩
  have hempty : applyEff t0 {} = t0 := by simp [applyEff, wrRegs, orStat]
  rw [hget, if_pos hg, e3 l ((mem_activeLanes s c g l t ht).2 ⟨hl, hg⟩) t ov t0 {} ht ho rfl, hempty]

/-- R101 and R161: every hint. -/
theorem hintsOnlyGoOn : Parts.HintsOnlyGoOn := by
  intro g llc a off
  refine ⟨eachLaneAt_of_plainLanes id _ (fun _ => rfl) (fun c e l s t _ => congrArg LaneStep.ok (modLane_id ..).symm) fun _ => rfl,
    eachLaneAt_of_plainLanes (fun t => { t with yielded := true }) _ (fun _ => rfl) (fun _ _ _ _ _ _ => rfl) fun _ => rfl,
    eachLaneAt_of_plainLanes (fun t => { t with yielded := true }) _ (fun _ => rfl) (fun _ _ _ _ _ _ => rfl) fun _ => rfl,
    eachLane_pref fun _ => rfl, eachLane_pref fun _ => rfl⟩

/-! ## Waits -/

/-- A lane waits at its word. -/
def waiting (w : Stall) (t : Thread) : Thread := { t with stall := some w }

section
variable {s : State} {c : Cur} {e : Env} {g : Guard}

theorem foldl_laneStep_wait (c : Cur) {w : State → Stall} (hw : ∀ s ls h, w (modLanes s c.gid ls h) = w s) (s : State)
    {ls : List Nat} (hd : ls.Nodup) : ls.foldl (laneStep c fun _ s => .wait s (w s)) ⟨s, [], 0⟩ =
      ⟨modLanes s c.gid ls fun _ => waiting (w s), [], 0⟩ := by
  have hstep : ∀ (ls : List Nat) (s : State), ls.foldl (laneStep c fun _ s => .wait s (w s)) ⟨s, [], 0⟩ =
      ⟨ls.foldl (fun s' l => modLane s' c.gid l (waiting (w s))) s, [], 0⟩ := fun ls => by
    induction ls with
    | nil => exact fun _ => rfl
    | cons l ls ih =>
      intro s
      have hsame : w (modLane s c.gid l (waiting (w s))) = w s := by rw [modLane_eq, hw]
      have := ih (modLane s c.gid l (waiting (w s)))
      rw [hsame] at this
      exact this
  have hfold := foldl_modLane s c.gid (fun _ => waiting (w s)) (fun _ _ h => h) ls [] (by simpa using hd)
  rw [modLanes_nil, List.nil_append] at hfold
  rw [hstep, hfold]

/-- An execution whose true lanes all wait: only threads change, and the others go on. -/
theorem foldLanes_wait {w : State → Stall} (hw : ∀ s ls h, w (modLanes s c.gid ls h) = w s) (hd : c.lanes.Nodup)
    (hall : ∀ l ∈ c.lanes, (getLane s c.gid l).isSome = true) :
    let s' := foldLanes s c e g fun _ s => .wait s (w s)
    OnlyThreads s s' ∧ ∀ l ∈ c.lanes, getLane s' c.gid l =
      (getLane s c.gid l).map fun t => if guardOf g t then waiting (w s) t else goOn c.next t := by
  have hidled : w (idled s c g) = w s := hw ..
  have heq : (foldLanes s c e g fun _ s => .wait s (w s)) =
      countEvent (modLanes (idled s c g) c.gid (activeLanes s c g) fun _ => waiting (w s)) e.ctx.asid 0 0 := by
    rw [foldLanes_eq s c e g _ hd]
    simp only [foldl_laneStep_wait c hw _ (hd.filter _), activeLanes, raise_nil, hidled]
  simp only [heq]
  refine ⟨(onlyThreads_modLanes s ..).trans ((onlyThreads_modLanes ..).trans (onlyThreads_countEvent ..)), fun l hl => ?_⟩
  obtain ⟨t, ht⟩ := Option.isSome_iff_exists.1 (hall l hl)
  rw [getLane_groups (modLanes (idled s c g) c.gid (activeLanes s c g) fun _ => waiting (w s)) (countEvent _ _ _ _) rfl,
    getLane_modLanes _ _ _ _ _ _ (by exact fun _ _ h => h), getLane_idled, ht]
  have ha := mem_activeLanes s c g l t ht
  by_cases hg : guardOf g t = true
  · simp [ha, mem_idleLanes, hg, hl]
  · simp [ha, mem_idleLanes, hg, hl]
    rfl

/-- An execution with nothing to do: its lanes go on. -/
theorem foldLanes_idle_spec (hd : c.lanes.Nodup) : let s' := foldLanes s c e g fun _ s => .ok s
    OnlyThreads s s' ∧ ∀ l ∈ c.lanes, getLane s' c.gid l = (getLane s c.gid l).map (goOn c.next) := by
  simp only [foldLanes_idle s c e g hd]
  refine ⟨(onlyThreads_modLanes s ..).trans (onlyThreads_countEvent ..), fun l hl => ?_⟩
  rw [getLane_groups (modLanes s c.gid c.lanes fun _ => goOn c.next) (countEvent _ _ _ _) rfl,
    getLane_modLanes _ _ _ _ _ _ (by exact fun _ _ h => (goOn_lane ..).trans h), if_pos ⟨rfl, hl⟩]

theorem Ready.isSome_lanes {pre : (Nat → Word) → Thread → Prop} (R : Ready s c e g [] pre) :
    ∀ l ∈ c.lanes, (getLane s c.gid l).isSome = true := fun l hl => by
  obtain ⟨t, ht, -⟩ := R.lane l hl
  rw [settleStreams_nil] at ht
  rw [ht, Option.isSome_some]

end

/-- `sleep n` with n not 0 (R103). -/
theorem exec_sleep {s : State} {c : Cur} {e : Env} {g : Guard} {n : BitVec 20} (hc : s.cur = some c) (he : env s c.gid = some e)
    (hp : firstWord c = true) (hn : n ≠ 0) :
    exec (.sleep g n) s = .next (foldLanes s c e g fun _ s => .wait s (.sleep (coxAt s e.group.die + n.toNat))) := by
  have hn0 : (n == 0) = false := beq_eq_false_iff_ne.2 hn
  show execSleep g n s = _
  simp only [execSleep, plainLanes, withCur, hc, he, hp, hn0, Bool.not_true, Bool.false_eq_true, if_false]

/-- `waitf` (R104). -/
theorem exec_waitf {s : State} {c : Cur} {e : Env} {g : Guard} {mask : BitVec 12} (hc : s.cur = some c)
    (he : env s c.gid = some e) (hp : firstWord c = true) : exec (.waitf g mask) s =
      .next (foldLanes s c e g fun _ s => if maskBusy e.group mask.toNat then .wait s .waitf else .ok s) := by
  show execWaitf g mask s = _
  simp only [execWaitf, plainLanes, withCur, hc, he, hp, Bool.not_true, Bool.false_eq_true, if_false]

/-- SLEEP_EXPIRY of a lane that sleeps until `cox` (R103). -/
theorem exec_sleepExpiry {s : State} {gid lane cox : Nat} {e : Env} {t : Thread} (he : env s gid = some e)
    (ht : getLane s gid lane = some t) (hstall : t.stall = some (.sleep cox)) : exec (.sleepExpiry gid lane) s =
      .next (if cox ≤ coxAt s e.group.die then countEvent (modLane s gid lane nextWord) e.ctx.asid 0 1 else s) := by
  show execSleepExpiry gid lane s = _
  simp only [execSleepExpiry, he, ht, hstall]
  split <;> rfl

/-- R103 and R104. -/
theorem sleepAndWaitfHoldTheirLanes : Parts.SleepAndWaitfHoldTheirLanes := by
  refine ⟨fun g n mask s c e hp R => ⟨fun hn => ?_, ?_⟩, fun s gid lane e t cox he ht hstall => ⟨fun hlt => ?_, fun hle => ?_⟩⟩
  · exact ⟨_, exec_sleep R.cur R.env hp hn,
      foldLanes_wait (w := fun s => .sleep (coxAt s e.group.die + n.toNat)) (fun _ _ _ => rfl) R.nodup R.isSome_lanes⟩
  · refine ⟨_, exec_waitf R.cur R.env hp, ?_⟩
    have hmask : ((List.range 12).any fun i => mask.getLsbD i && flagCount e.group i != 0) = maskBusy e.group mask.toNat := rfl
    rw [hmask]
    cases hb : maskBusy e.group mask.toNat with
    | true =>
      simp only [if_true, Bool.and_true]
      exact foldLanes_wait (w := fun _ => .waitf) (fun _ _ _ => rfl) R.nodup R.isSome_lanes
    | false =>
      simp only [Bool.false_eq_true, if_false, Bool.and_false]
      exact foldLanes_idle_spec R.nodup
  · rw [exec_sleepExpiry he ht hstall, if_neg (Nat.not_le.2 hlt)]
  · rw [exec_sleepExpiry he ht hstall, if_pos hle]
    have hlanes : ∀ gid' k, getLane (countEvent (modLane s gid lane nextWord) e.ctx.asid 0 1) gid' k =
        if gid = gid' ∧ lane = k then (getLane s gid' k).map nextWord else getLane s gid' k := fun gid' k =>
      (getLane_groups (modLane s gid lane nextWord) (countEvent _ _ _ _) rfl gid' k).trans
        (getLane_modLane _ _ _ _ _ _ fun _ h => (goOn_lane ..).trans h)
    refine ⟨_, rfl, (onlyThreads_modLane s ..).trans (onlyThreads_countEvent ..), ?_, rfl, fun gid' k hk => ?_⟩
    · rw [hlanes, if_pos ⟨rfl, rfl⟩, ht]
      rfl
    · rw [hlanes, if_neg fun h => hk ⟨h.1.symm, h.2.symm⟩]

end Sys2Proof.Machine
end

section
/-!
WHAT PERFORMING A STORE QUEUE LEAVES (R153): the execution in progress, the teams, the grids and the address spaces stay, so that a
group stands in the same surroundings, with an empty queue, once its queue is performed.
-/

namespace Sys2Proof.Machine

/-! ## The surroundings of the groups -/

/-- The execution in progress, the teams, the grids and the numbers of the address spaces. -/
def surrounds (s : State) : Option Cur × List Team × List Grid × List Nat :=
  (s.cur, s.teams, s.grids, s.contexts.map (·.asid))

theorem foldl_surrounds {α : Type} {f : State → α → State} (hf : ∀ s x, surrounds (f s x) = surrounds s) (l : List α) (s : State) :
    surrounds (l.foldl f s) = surrounds s := by
  induction l generalizing s with
  | nil => rfl
  | cons x l ih => rw [List.foldl_cons, ih, hf]

/-! ### Writes of memory -/

@[simp] theorem addPoison_surrounds (s : State) (p : Nat) : surrounds (addPoison s p) = surrounds s := by
  unfold addPoison
  split <;> rfl

@[simp] theorem tagCommons_surrounds (s : State) (asid key n : Nat) : surrounds (tagCommons s asid key n) = surrounds s := by
  unfold tagCommons
  split <;> rfl

@[simp] theorem noteWrite_surrounds (s : State) (key n : Nat) : surrounds (noteWrite s key n) = surrounds s := by
  unfold noteWrite
  split <;> rfl

theorem writeLine_surrounds {s w : State} (key : Nat) (h : surrounds w = surrounds s) : surrounds (writeLine s key w) = surrounds s := by
  unfold writeLine
  split
  · dsimp only
    split
    · simp
    · exact h
  · exact h

@[simp] theorem bankWrite_surrounds (s : State) (asid key n v : Nat) : surrounds (bankWrite s asid key n v) = surrounds s := by
  refine writeLine_surrounds key ?_
  rw [noteWrite_surrounds, tagCommons_surrounds]
  rfl

@[simp] theorem bankBytes_surrounds (s : State) (asid : Nat) (ws : List (Nat × Nat)) :
    surrounds (bankBytes s asid ws) = surrounds s :=
  foldl_surrounds (fun _ _ => writeLine_surrounds _ (foldl_surrounds (fun w b => by
    rw [noteWrite_surrounds, tagCommons_surrounds]
    rfl) _ _)) _ _

/-! ### Encodings -/

theorem encodeOne_surrounds (s : State) (asid key fmt geom : Nat) (x : FVal × Int) :
    surrounds (encodeOne s asid key fmt geom x) = surrounds s :=
  bankBytes_surrounds ..

theorem encodeBlock_surrounds (s : State) (asid geom : Nat) (b : Nat × Nat) (xs : List (Nat × FVal)) :
    surrounds (encodeBlock s asid geom b xs) = surrounds s :=
  bankBytes_surrounds ..

theorem plainEncode_surrounds (asid : Nat) (s : State) (p : Part) : surrounds (plainEncode asid s p) = surrounds s := by
  unfold plainEncode
  split
  · split
    · rfl
    · exact encodeOne_surrounds ..
  · rfl

@[simp] theorem performEncodes_surrounds (s : State) (asid : Nat) (ps : List Part) :
    surrounds (performEncodes s asid ps) = surrounds s := by
  have hplain := foldl_surrounds (plainEncode_surrounds asid) ps s
  dsimp only [performEncodes]
  refine (foldl_surrounds (fun s g => ?_) [0, 1] _).trans hplain
  exact foldl_surrounds (fun s b => encodeBlock_surrounds s asid g b _) _ s

/-! ### Errors that a read meets, and copies -/

@[simp] theorem countCorrected_surrounds (s : State) (sram : Bool) (die : Nat) : surrounds (countCorrected s sram die) = surrounds s := by
  have hmail : ∀ (t : State) (n m : Nat), surrounds t = surrounds s →
      surrounds (if n < m then reportError t 8 die else t) = surrounds s := fun t n m ht => by
    split
    · exact ht
    · exact ht
  exact hmail _ _ _ rfl

@[simp] theorem countPoisoned_surrounds (s : State) (sector : Nat) : surrounds (countPoisoned s sector) = surrounds s := by
  unfold countPoisoned
  dsimp only
  split
  · exact (addPoison_surrounds ..).trans (addPoison_surrounds ..)
  · exact addPoison_surrounds ..

@[simp] theorem meetUpset_surrounds (s : State) (u : Upset) : surrounds (meetUpset s u) = surrounds s := by
  unfold meetUpset
  split
  · exact countCorrected_surrounds ..
  · exact countPoisoned_surrounds ..

@[simp] theorem meetUpsets_surrounds (s : State) (rs : List (Nat × Nat)) : surrounds (meetUpsets s rs) = surrounds s := by
  unfold meetUpsets
  split
  · rfl
  · exact foldl_surrounds meetUpset_surrounds _ _

/-- An update of a context that keeps its number. -/
theorem modCtx_surrounds (s : State) (a : Nat) {f : Context → Context} (hf : ∀ c, (f c).asid = c.asid) :
    surrounds (modCtx s a f) = surrounds s := by
  have hmap : (modBy (·.asid == a) f s.contexts).map (·.asid) = s.contexts.map (·.asid) := by
    rw [modBy, List.map_map]
    refine List.map_congr_left fun c _ => ?_
    dsimp only [Function.comp_apply]
    split
    · exact hf c
    · rfl
  exact congrArg (fun as => (s.cur, s.teams, s.grids, as)) hmap

@[simp] theorem touchFrame_surrounds (s : State) (die key : Nat) : surrounds (touchFrame s die key) = surrounds s := by
  unfold touchFrame
  split
  · dsimp only
    split
    · exact modCtx_surrounds s _ fun _ => rfl
    · rfl
  · rfl

theorem touchPiece_surrounds (die : Nat) (s : State) (p : Piece) : surrounds (touchPiece die s p) = surrounds s := by
  rw [touchPiece, meetUpsets_surrounds, touchFrame_surrounds, touchFrame_surrounds]

theorem landSector_surrounds (asid dst n : Nat) (byte : Nat → Byte) (bad : Nat → Bool) (s : State) (p : Nat) :
    surrounds (landSector asid dst n byte bad s p) = surrounds s := by
  have hclear : ∀ b : Bool, ∀ ws, surrounds (if b then clearPoison s ws else s) = surrounds s := fun b ws => by cases b <;> rfl
  unfold landSector
  dsimp only
  split
  · rw [addPoison_surrounds, bankWrite_surrounds, hclear]
  · rw [bankWrite_surrounds, hclear]

@[simp] theorem landBytes_surrounds (s : State) (asid dst n : Nat) (byte : Nat → Byte) (bad : Nat → Bool) :
    surrounds (landBytes s asid dst n byte bad) = surrounds s := by
  have hfold := foldl_surrounds (landSector_surrounds asid dst n byte bad) (sectorsOf dst n) s
  unfold landBytes
  dsimp only
  split
  · exact hfold
  · exact hfold

theorem landPieces_surrounds (s0 : State) (asid : Nat) (sealing : Bool) (ps : List Piece) (s : State) :
    surrounds (landPieces s0 asid sealing ps s).1 = surrounds s := by
  induction ps generalizing s with
  | nil => rfl
  | cons p ps ih =>
    unfold landPieces
    dsimp only
    split
    · rw [ih, landBytes_surrounds]
    · split
      · rw [ih, landBytes_surrounds]
      · exact landBytes_surrounds ..

@[simp] theorem acceptNcopy_surrounds (s : State) (id : Nat) : surrounds (acceptNcopy s id) = surrounds s := by
  unfold acceptNcopy
  split
  · rfl
  · next c _ =>
    split
    · rfl
    · exact (landPieces_surrounds ..).trans
        ((bankWrite_surrounds ..).trans (foldl_surrounds (touchPiece_surrounds 8) c.pieces s))

/-! ### The queue performed -/

theorem performPart_surrounds (asid gid : Nat) (x : ExecRec) (acc : State × List Part) (p : Part) :
    surrounds (performPart asid gid x acc p).1 = surrounds acc.1 := by
  cases p with
  | load l rs fl => rfl
  | encode l key fmt geom ty wid v => rfl
  | store l key n v tbl =>
    cases tbl with
    | false => exact bankWrite_surrounds ..
    | true => exact bankWrite_surrounds ..
  | rmw l key n k b c d pc ea =>
    dsimp only [performPart, performRmw]
    split
    · rfl
    · exact bankWrite_surrounds ..
  | ncopy l id => exact acceptNcopy_surrounds ..

theorem performParts_surrounds (asid gid : Nat) (x : ExecRec) (ps : List Part) (acc : State × List Part) :
    surrounds (ps.foldl (performPart asid gid x) acc).1 = surrounds acc.1 := by
  induction ps generalizing acc with
  | nil => rfl
  | cons p ps ih => exact (ih _).trans (performPart_surrounds ..)

theorem performOp_surrounds (s : State) (asid gid : Nat) (op : LongOp) : surrounds (performOp s asid gid op) = surrounds s := by
  unfold performOp
  split
  · rfl
  · exact (performParts_surrounds ..).trans ((performEncodes_surrounds ..).trans (meetUpsets_surrounds ..))

theorem drainGroup_surrounds (s : State) (asid gid : Nat) : surrounds (drainGroup s asid gid) = surrounds s := by
  unfold drainGroup
  split
  · rfl
  · refine foldl_surrounds (fun s op => ?_) _ _
    dsimp only
    split
    · exact performOp_surrounds ..
    · exact performOp_surrounds ..

/-! ## The group with its queue performed -/

/-- An address space of a state with the same numbers. -/
theorem getCtx_of_asids {s s' : State} (h : s'.contexts.map (·.asid) = s.contexts.map (·.asid)) {a : Nat} {x : Context}
    (hx : getCtx s a = some x) : ∃ x', getCtx s' a = some x' := by
  have hmem : a ∈ s'.contexts.map (·.asid) := by
    rw [h, ← find_key Context.asid a s.contexts x hx]
    exact List.mem_map_of_mem (List.mem_of_find?_eq_some hx)
  obtain ⟨x', hx', rfl⟩ := List.mem_map.1 hmem
  exact Option.isSome_iff_exists.1 (List.find?_isSome.2 ⟨x', hx', BEq.rfl⟩)

/-- A group whose queue is performed stands where it did, with an empty queue and at most more due faults (R153). -/
theorem drainGroup_env {s : State} {gid : Nat} {e : Env} (asid : Nat) (he : env s gid = some e) :
    ∃ e', env (drainGroup s asid gid) gid = some e' ∧ queueOf e'.group = [] ∧ DueOnly e.group e'.group ∧
      e'.team = e.team ∧ e'.grid = e.grid := by
  obtain ⟨hg, ht, hr, hx⟩ := env_parts s gid e he
  obtain ⟨g', hg', hdue, hq⟩ := (drainGroup_performs asid hg).getGroup_eq hg
  have hsur := drainGroup_surrounds s asid gid
  generalize drainGroup s asid gid = r at hg' hsur
  have hteams : r.teams = s.teams := congrArg (·.2.1) hsur
  have hgrids : r.grids = s.grids := congrArg (·.2.2.1) hsur
  obtain ⟨x', hx'⟩ := getCtx_of_asids (congrArg (·.2.2.2) hsur) hx
  have htid : g'.tid = e.group.tid := (congrArg Group.tid hdue.1 :)
  have ht' : getTeam r g'.tid = some e.team := by rw [getTeam, hteams, htid]; exact ht
  have hr' : getGrid r e.team.grid = some e.grid := by rw [getGrid, hgrids]; exact hr
  refine ⟨⟨g', e.team, e.grid, x'⟩, ?_, hq.queueOf_nil, hdue, rfl, rfl⟩
  simp only [env, hg', Option.bind_some, ht', hr', hx', Option.map_some]

theorem drainGroup_cur (s : State) (asid gid : Nat) : (drainGroup s asid gid).cur = s.cur :=
  congrArg Prod.fst (drainGroup_surrounds s asid gid)

end Sys2Proof.Machine
end

section
/-!
TRANSFERS (R62, R66, R98, R99): a transfer behind a store queue acts as once the queue is performed, one lane's transfer reaches its
target and keeps the private stack, and a branch of many lanes pushes its reconvergence entry. Obligation O10.
-/

namespace Sys2Proof.Machine

/-! ## A transfer performs its group's store queue first (R99) -/

/-- Nothing of a lane's block is seen in a due fault. -/
theorem curBlock_performed {gid : Nat} {ids : List Nat} {s r : State} (h : Performs gid ids s r) (c : Cur) :
    curBlock r c = curBlock s c := by
  have hlane : ∀ l, (getLane r c.gid l).map (fun t => (t.hdr, t.hword)) = (getLane s c.gid l).map fun t => (t.hdr, t.hword) :=
    fun l => by
      have := congrArg (Option.map fun t : Thread => (t.hdr, t.hword)) (h.getLane_eq c.gid l)
      rwa [Option.map_map, Option.map_map] at this
  have hblock : ∀ s' : State, curBlock s' c = (((c.lanes.head?).bind fun l => getLane s' c.gid l).map
      fun t => (t.hdr, t.hword)).getD (0, 0) := fun s' => by
    unfold curBlock
    cases (c.lanes.head?).bind fun l => getLane s' c.gid l <;> rfl
  rw [hblock, hblock]
  cases hh : c.lanes.head? with
  | none => rfl
  | some l => rw [Option.bind_some, Option.bind_some, hlane]

theorem drainCur_eq {s : State} {c : Cur} {e : Env} (hc : s.cur = some c) (he : env s c.gid = some e) :
    drainCur s = drainGroup s e.ctx.asid c.gid := by
  simp only [drainCur, hc, he]

theorem drainCur_idle {s : State} {c : Cur} {e : Env} (hc : s.cur = some c) (he : env s c.gid = some e)
    (hq : queueOf e.group = []) : drainCur s = s := by
  rw [drainCur_eq hc he, drainGroup_idle _ (env_group s c.gid e he) hq]

/-- A transfer acts as it does once the queue has been performed. -/
theorem transferOp_drained {s : State} {c : Cur} {e : Env} (hc : s.cur = some c) (he : env s c.gid = some e) (g : Guard)
    (us : List RegUse) (plan : Env → State → Nat → (Nat → Word) → Thread → Plan Jump) :
    transferOp g us s plan = transferOp g us (drainGroup s e.ctx.asid c.gid) plan := by
  obtain ⟨e', he', hq, -⟩ := drainGroup_env e.ctx.asid he
  have hblock := curBlock_performed (drainGroup_performs e.ctx.asid (env_group s c.gid e he))
  unfold transferOp
  rw [drainCur_idle ((drainGroup_cur ..).trans hc) he' hq, drainCur_eq hc he]
  simp only [hblock]

/-- Each of the five transfers, behind a store queue. -/
theorem transfers_drained {s : State} {c : Cur} {e : Env} (hc : s.cur = some c) (he : env s c.gid = some e) (g : Guard) (d a : Reg)
    (imm : BitVec 20) {i : Instr} (hi : i ∈ [Instr.bra g imm, .brx g a, .callI g d imm, .callR g d a, .ret g d]) :
    exec i s = exec i (drainGroup s e.ctx.asid c.gid) := by
  have hcur := drainGroup_cur s e.ctx.asid c.gid
  have hdrain := transferOp_drained hc he g
  simp only [List.mem_cons, List.not_mem_nil, or_false] at hi
  rcases hi with rfl | rfl | rfl | rfl | rfl
  · show execBra g imm _ = execBra g imm _
    rw [execBra, execBra, hcur, hdrain]
  · exact hdrain [src true a] _
  · show execCallI g d imm _ = execCallI g d imm _
    rw [execCallI, execCallI, hcur, hdrain]
  · show execCallR g d a _ = execCallR g d a _
    rw [execCallR, execCallR, hcur, hdrain]
  · exact hdrain [dst false d, src false d] _

/-! ## One lane's transfer -/

/-- A target at which a transfer may arrive passes its check. -/
theorem checkTarget_good {α : Type} {s : State} {e : Env} {tgt : Nat} (h : GoodTarget s e tgt) (k : Plan α) :
    checkTarget s e tgt k = k := by
  obtain ⟨hal, key, fmt, geom, tbl, mt, w, hw, hhdr⟩ := h
  have hmod : ((tgt : Int) % 8 != 0) = false := by
    rw [bne_eq_false_iff_eq]
    omega
  have hneg : decide ((tgt : Int) < 0) = false := decide_eq_false (by omega)
  unfold checkTarget
  rw [hmod, hneg, if_neg (by simp), Int.toNat_natCast, hw]
  dsimp only
  rw [if_pos hhdr]

/-- What a jump makes of a thread. -/
def jumped (j : Jump) (t : Thread) : Thread :=
  arrive j.tgt (match j.reg with | some r => wrReg t r.1 r.2 | none => t)

theorem jumped_goOn (j : Jump) (n : Nat) (t : Thread) : jumped j (goOn n t) = jumped j t := by
  obtain ⟨p, st, ar, heq⟩ : ∃ p st ar, goOn n t = { t with pc := p, status := st, arrival := ar, stall := none } := by
    unfold goOn
    split
    · exact ⟨_, _, _, rfl⟩
    · exact ⟨_, _, _, rfl⟩
  rw [heq, jumped, jumped]
  cases j.reg <;> rfl

theorem jumped_lane (j : Jump) (t : Thread) : (jumped j t).lane = t.lane := by
  unfold jumped
  cases j.reg <;> rfl

/-- The memory of a jump: what it pushes. -/
def pushed (s : State) (j : Jump) : State :=
  match j.push with
  | some (key, v) => putBytes s key 8 v
  | none => s

theorem doJump_eq (c : Cur) (s : State) (l : Nat) (j : Jump) : doJump c s (l, j) = modLane (pushed s j) c.gid l (jumped j) := rfl

/-- The entry of a transfer leaves every thread as it was. -/
theorem getLane_pushEntry (s : State) (gid j k h : Nat) (w : DWord) (ls : List Nat) (goes : Thread → Bool) :
    getLane (modGroup s gid (pushEntry h w ls goes)) j k = getLane s j k := by
  have hgid : ∀ x, (pushEntry h w ls goes x).gid = x.gid := fun x => (congrArg Group.gid (groupFrame_pushEntry h w ls goes x) :)
  rw [getLane, getLane, getGroup_modGroup s gid j _ hgid]
  split
  · cases getGroup s j with
    | none => rfl
    | some x => rw [Option.map_some, Option.bind_some, Option.bind_some, laneThread, pushEntry_threads, laneThread]
  · rfl

section
variable {s : State} {c : Cur} {e : Env} {g : Guard} {us : List RegUse} {l : Nat} {t t0 : Thread} {rd : Nat → Word}

/-- What the state is after the transfer of a lane. -/
def transferred (s : State) (c : Cur) (e : Env) (g : Guard) (l : Nat) (t0 : Thread) (j : Jump) : State :=
  countEvent (modGroup (doJump c (wentOn s c g l t0) (l, j)) c.gid
    (pushEntry (curBlock s c).1 (curBlock s c).2 c.lanes atHeader)) e.ctx.asid 0 1

theorem Lone.transfer (h : Lone s c e g us l t t0 rd) (hlast : lastWord c = true) (hq : queueOf e.group = [])
    {plan : Env → State → Nat → (Nat → Word) → Thread → Plan Jump} {j : Jump} (hp : plan e s l rd t0 = .go t0 j) :
    transferOp g us s plan = .next (transferred s c e g l t0 j) := by
  have hplace : ∀ (plan : State → Nat → (Nat → Word) → Thread → Plan Jump) commit,
      plansAt s c e g lastWord us plan commit = plansAt s c e g anywhere us plan commit := fun plan commit => by
    unfold plansAt
    rw [hlast]
    rfl
  have hgo := h.plansAt_go hp (commit := fun js s1 => modGroup (js.foldl (doJump c) s1) c.gid
    (pushEntry (curBlock s c).1 (curBlock s c).2 c.lanes atHeader))
  unfold transferOp
  rw [drainCur_idle h.cur h.env hq]
  simp only [withPlans, withCur, h.cur, h.env, hplace]
  exact congrArg _ hgo

theorem Lone.transferred_becomes (h : Lone s c e g us l t t0 rd) (j : Jump) :
    LaneBecomes s (transferred s c e g l t0 j) c l (jumped j t0) := by
  obtain ⟨hown, hother⟩ := h.becomes_wentOn h.taken_lane
  have hlanes : ∀ gid k, getLane (transferred s c e g l t0 j) gid k =
      if c.gid = gid ∧ l = k then (getLane (wentOn s c g l t0) gid k).map (jumped j) else getLane (wentOn s c g l t0) gid k :=
    fun gid k => by
      have hpush : (pushed (wentOn s c g l t0) j).groups = (wentOn s c g l t0).groups := by
        unfold pushed
        split <;> rfl
      refine (getLane_groups (modGroup (doJump c (wentOn s c g l t0) (l, j)) c.gid _) (countEvent _ _ _ _) rfl gid k).trans ?_
      rw [getLane_pushEntry, doJump_eq, getLane_modLane _ _ _ _ _ _ fun u hu => (jumped_lane j u).trans hu,
        getLane_groups _ _ hpush]
  refine ⟨?_, fun gid k hk => ?_⟩
  · rw [hlanes, if_pos ⟨rfl, rfl⟩, hown, Option.map_some, jumped_goOn]
  · rw [hlanes, if_neg fun hh => hk ⟨hh.1.symm, hh.2.symm⟩, hother gid k hk]

/-- A transfer that pushes nothing changes only threads. -/
theorem transferred_onlyThreads (j : Jump) (hj : j.push = none) : OnlyThreads s (transferred s c e g l t0 j) := by
  have hpush : ∀ s, pushed s j = s := fun s => by rw [pushed, hj]
  rw [transferred, doJump_eq, hpush]
  exact (onlyThreads_wentOn ..).trans ((onlyThreads_modLane ..).trans
    ((onlyThreads_modGroup _ _ _ (groupFrame_pushEntry _ _ _ _)).trans (onlyThreads_countEvent ..)))

/-- A transfer that pushes writes eight bytes, and beside them changes only threads. -/
theorem transferred_storesAt (j : Jump) {key v : Nat} (hj : j.push = some (key, v)) :
    StoresAt s (transferred s c e g l t0 j) key 8 v := by
  have hput : ∀ s, putBytes s key 8 v = { s with mem := memWrite s.mem key 8 v } := fun s => by
    have hkeep : s.poison.filter (fun p => !(key ≤ p * 32 && p * 32 + 32 ≤ key + 8)) = s.poison :=
      List.filter_eq_self.2 fun p _ => by
        rw [Bool.not_eq_true', Bool.and_eq_false_iff, decide_eq_false_iff_not, decide_eq_false_iff_not]
        omega
    rw [putBytes, hkeep]
  have hpush : ∀ s, pushed s j = { s with mem := memWrite s.mem key 8 v } := fun s => by rw [pushed, hj]; exact hput s
  rw [transferred, doJump_eq, hpush]
  exact storesAt_of_bank (onlyThreads_wentOn s c g l t0) (s2 := { wentOn s c g l t0 with mem := memWrite (wentOn s c g l t0).mem key 8 v })
    rfl rfl ((onlyThreads_modLane ..).trans
      ((onlyThreads_modGroup _ _ _ (groupFrame_pushEntry _ _ _ _)).trans (onlyThreads_countEvent ..)))

/-- One lane's jump. -/
theorem planJump_good {tgt : Nat} (ht : GoodTarget s e tgt) : planJump s e t0 tgt = .go t0 { tgt := tgt } := by
  rw [planJump, checkTarget_good ht, Int.toNat_natCast]

/-- One lane's call. -/
theorem planCall_good {tgt : Nat} {d : Reg} {sp : Word} {pc : Nat} (ht : GoodTarget s e tgt) (hal : sp.toNat % 8 = 0)
    (hlo : 8 ≤ sp.toNat) (hhi : sp.toNat ≤ e.grid.priv) : planCall s e l t0 d sp pc tgt = .go t0
      { tgt := tgt, reg := some (d.toNat, sp - 8), push := some (keyPriv e.group.gid l (sp.toNat - 8), pc + 8) } := by
  have hsp : (sp.toNat : Int) - 8 = ((sp.toNat - 8 : Nat) : Int) := by omega
  have hreg : BitVec.ofInt 32 ((sp.toNat - 8 : Nat) : Int) = sp - 8 := by
    rw [BitVec.ofInt_natCast]
    bv_omega
  have hmod : (((sp.toNat - 8 : Nat) : Int) % 8 != 0) = false := by
    rw [bne_eq_false_iff_eq]
    omega
  rw [planCall, checkTarget_good ht]
  simp only [hsp, hmod, hreg, Int.toNat_natCast]
  rw [if_neg Bool.false_ne_true, if_neg]
  simp only [Bool.or_eq_true, decide_eq_true_eq]
  omega

/-- One lane's return. -/
theorem planRet_good {tgt : Nat} {d : Reg} {sp : Word} (ht : GoodTarget s e tgt) (hal : sp.toNat % 8 = 0)
    (hhi : sp.toNat + 8 ≤ e.grid.priv) (hb : getBytes s (keyPriv e.group.gid l sp.toNat) 8 = tgt) :
    planRet s e l t0 d sp = .go t0 { tgt := tgt, reg := some (d.toNat, sp + 8) } := by
  have hreg : BitVec.ofNat 32 (sp.toNat + 8) = sp + 8 := by bv_omega
  unfold planRet
  dsimp only
  rw [hal, if_neg (by decide), if_neg (by omega), hb, checkTarget_good ht, hreg]

/-- A call in one lane: it pushes the address behind its word and goes to its target. -/
theorem Lone.call (h : Lone s c e g us l t t0 rd) (hlast : lastWord c = true) (hq : queueOf e.group = []) {tgt : Nat} {d : Reg}
    (hgood : GoodTarget s e tgt) (hal : (rd d.toNat).toNat % 8 = 0) (hlo : 8 ≤ (rd d.toNat).toNat)
    (hhi : (rd d.toNat).toNat ≤ e.grid.priv) {plan : Env → State → Nat → (Nat → Word) → Thread → Plan Jump}
    (hp : plan e s l rd t0 = planCall s e l t0 d (rd d.toNat) c.pc tgt) :
    ∃ s', transferOp g us s plan = .next s' ∧ StoresAt s s' (keyPriv c.gid l ((rd d.toNat).toNat - 8)) 8 (c.pc + 8) ∧
      LaneBecomes s s' c l (arrive tgt (wrReg t0 d.toNat (rd d.toNat - 8))) := by
  have hcall := h.transfer hlast hq (hp.trans (planCall_good hgood hal hlo hhi))
  rw [env_gid s c.gid e h.env] at hcall
  exact ⟨_, hcall, transferred_storesAt _ rfl, h.transferred_becomes _⟩

end

/-- R98, R99. -/
theorem callsPushAndReturnsPopThePrivateStack : Parts.CallsPushAndReturnsPopThePrivateStack := by
  refine ⟨fun g d a imm s c e hc he => ?_, fun g d a imm s c e l t t0 rd tgt hlast hq hgood =>
    ⟨fun h hp => ?_, fun h hal hlo hhi hp => ?_, fun h hal hlo hhi hp => ?_, fun h hal hhi hb => ?_⟩⟩
  · obtain ⟨e', he', hq, -⟩ := drainGroup_env e.ctx.asid he
    exact ⟨(drainGroup_cur ..).trans hc, ⟨e', he', hq⟩, fun i hi => transfers_drained hc he g d a imm hi⟩
  · have hjump : exec (.brx g a) s = _ := h.transfer hlast hq (j := { tgt := tgt }) (by
      rw [pairOf_toNat, hp]
      exact planJump_good hgood)
    exact ⟨_, hjump, transferred_onlyThreads _ rfl, h.transferred_becomes _⟩
  · exact h.call hlast hq hgood hal hlo hhi (by rw [directTarget, h.cur, Option.map_some, Option.getD_some, hp])
  · exact h.call hlast hq hgood hal hlo hhi (by rw [pairOf_toNat, h.cur, Option.map_some, Option.getD_some, hp])
  · have hret : exec (.ret g d) s = _ := h.transfer hlast hq
      (planRet_good hgood hal hhi ((env_gid s c.gid e h.env).symm ▸ hb))
    exact ⟨_, hret, transferred_onlyThreads _ rfl, h.transferred_becomes _⟩

end Sys2Proof.Machine
end

section
/-!
BRANCHES OF MANY LANES (R66, R98): an instruction that translates and acts in all of its true lanes, the lanes that reach the target, and
the reconvergence entry where they do not all reach one address. Obligation O10.
-/

namespace Sys2Proof.Machine

section
variable {s : State} {c : Cur} {e : Env} {g : Guard}

/-! ## Every true lane acts -/

/-- A thread of an execution as its lane was when the execution began. -/
def asBefore (s : State) (c : Cur) (l : Nat) (t : Thread) : Thread := (getLane s c.gid l).getD t

theorem asBefore_lane {l : Nat} {t : Thread} (h : t.lane = l) : (asBefore s c l t).lane = l := by
  unfold asBefore
  cases hl : getLane s c.gid l with
  | none => exact h
  | some u => exact getLane_lane s c.gid l u hl

theorem retire_lane {act : List Nat} {h : Nat → Thread → Thread} (hl : ∀ k t, t.lane = k → (h k t).lane = k) {k : Nat} {t : Thread}
    (ht : t.lane = k) : (retire c act h k t).lane = k := by
  unfold retire
  split
  · exact (goOn_lane ..).trans (hl k t ht)
  · exact (goOn_lane ..).trans ht

/-- Lanes placed by their plans stand behind their word. -/
theorem foldl_placeLane {α : Type} {P : Nat → Plan α} {a : α} {ls : List Nat} (hd : ls.Nodup)
    (hP : ∀ l ∈ ls, ∃ t, getLane s c.gid l = some t ∧ P l = .go t a) (s1 : State) :
    (ls.map fun l => (l, P l)).foldl (placeLane c) s1 = modLanes s1 c.gid ls fun l t => advance c (asBefore s c l t) := by
  have hfold := foldl_modLane s1 c.gid (fun l t => advance c (asBefore s c l t))
    (fun k t ht => advance_lane c k _ (asBefore_lane ht)) ls [] (by simpa using hd)
  rw [modLanes_nil, List.nil_append] at hfold
  rw [← hfold, List.foldl_map]
  refine List.foldl_ext _ _ _ fun s' l hl => ?_
  obtain ⟨t, ht, hp⟩ := hP l hl
  rw [placeLane, hp]
  simp only [asBefore, ht, Option.getD_some]

/-- Lanes go on, those whose guard is true in the thread they had. -/
theorem modLanes_idled : modLanes (idled s c g) c.gid (activeLanes s c g) (fun l t => advance c (asBefore s c l t)) =
    modLanes s c.gid c.lanes (retire c (activeLanes s c g) (asBefore s c)) := by
  rw [modLanes, idled, modLanes, modGroup_modGroup s c.gid _ _ (by exact fun _ => rfl), modLanes]
  congr 1
  funext x
  simp only [onLanes, List.map_map]
  congr 1
  refine List.map_congr_left fun t _ => ?_
  simp only [Function.comp_apply]
  have hidle := mem_idleLanes s c g t.lane
  by_cases ha : t.lane ∈ activeLanes s c g
  · simp [hidle, ha, retire, mem_lanes_of_active ha, advance]
  · by_cases hl : t.lane ∈ c.lanes
    · have hlane := advance_lane c t.lane t rfl
      simp [hidle, ha, hl, retire, hlane]
      rfl
    · simp [hidle, ha, hl]

/-- Plans of lanes that all act, with the same data: who acts, who faults, and what they miss. -/
theorem plans_all_go {α : Type} {P : Nat → Plan α} {a : α} {ls : List Nat} (hP : ∀ l ∈ ls, ∃ t, P l = .go t a) :
    goers (ls.map fun l => (l, P l)) = ls.map (·, a) ∧ faulters (ls.map fun l => (l, P l)) = [] ∧
      ((ls.map fun l => (l, P l)).flatMap fun lp => planMisses lp.2) = [] := by
  induction ls with
  | nil => exact ⟨rfl, rfl, rfl⟩
  | cons l ls ih =>
    obtain ⟨t, hp⟩ := hP l List.mem_cons_self
    obtain ⟨hgoers, hfaulters, hmisses⟩ := ih fun k hk => hP k (List.mem_cons_of_mem l hk)
    rw [goers] at hgoers
    rw [faulters] at hfaulters
    refine ⟨?_, ?_, ?_⟩
    · simp only [goers, List.map_cons, List.filterMap_cons, hp, hgoers]
    · simp only [faulters, List.map_cons, List.filterMap_cons, hp, hfaulters]
    · rw [List.map_cons, List.flatMap_cons, hp]
      exact hmisses

/-- Where every true lane's plan acts, with the same data: its lanes have gone on, and the data are committed. -/
theorem plansAt_all_go {α : Type} {place : Cur → Bool} {us : List RegUse} {plan : State → Nat → (Nat → Word) → Thread → Plan α}
    {commit : List (Nat × α) → State → State} {a : α} (hplace : place c = true) (hpairs : pairIllegal e.grid.desc.regs us = false)
    (hstill : settleStreams s c e g us = s) (hd : c.lanes.Nodup)
    (hgo : ∀ l ∈ activeLanes s c g, ∃ t, getLane s c.gid l = some t ∧
      planLane s e (execRec s c e g) us l (plan s) = .go t a) :
    plansAt s c e g place us plan commit = countEvent (commit ((activeLanes s c g).map (·, a))
      (modLanes s c.gid c.lanes (retire c (activeLanes s c g) (asBefore s c)))) e.ctx.asid 0 (activeLanes s c g).length := by
  obtain ⟨hgoers, hfaulters, hmisses⟩ := plans_all_go fun l hl => (hgo l hl).imp fun _ h => h.2
  have hidle := idle_fold s c (c.lanes.filter fun k => !(activeLanes s c g).contains k) (hd.filter _)
  unfold plansAt
  rw [if_neg (by simp [hplace, hpairs])]
  simp only [hstill, hmisses]
  have hplaced := foldl_placeLane (ls := activeLanes s c g) (hd.filter _) hgo (idled s c g)
  have hback : ∀ (s' : State) b, besideParked s' e (activeLanes s c g) b [] = [] := fun s' b => by
    unfold besideParked
    split <;> rfl
  unfold finishPlans
  rw [hidle]
  dsimp only
  rw [show modLanes s c.gid (c.lanes.filter fun k => !(activeLanes s c g).contains k) (fun _ => advance c) = idled s c g from rfl,
    hplaced, hfaulters, hback, hgoers, modLanes_idled]
  simp only [raise_nil, List.map_nil, dropWalkFaults_nil, List.length_map]

/-! ## The lanes of a branch -/

/-- Jumps that push nothing and write no register. -/
theorem foldl_doJump (tgt : Nat) {ls : List Nat} (hd : ls.Nodup) (s1 : State) :
    (ls.map fun l => (l, ({ tgt := tgt } : Jump))).foldl (doJump c) s1 = modLanes s1 c.gid ls fun _ => arrive tgt := by
  have hfold := foldl_modLane s1 c.gid (fun _ => arrive tgt) (fun _ _ h => h) ls [] (by simpa using hd)
  rw [modLanes_nil, List.nil_append] at hfold
  rw [← hfold, List.foldl_map]
  rfl

/-- The lanes of a branch that have reached its target, and the others behind their word. -/
def branched (s : State) (c : Cur) (g : Guard) (tgt : Nat) : State :=
  modLanes (modLanes s c.gid c.lanes (retire c (activeLanes s c g) (asBefore s c))) c.gid (activeLanes s c g) fun _ => arrive tgt

theorem exec_bra {imm : BitVec 20} {tgt : Nat} (R : Ready s c e g [] anyOperands) (hlast : lastWord c = true)
    (hq : queueOf e.group = []) (htgt : (c.pc : Int) + 8 * imm.toInt = tgt) (hgood : GoodTarget s e tgt) :
    exec (.bra g imm) s = .next (countEvent (modGroup (branched s c g tgt) c.gid
      (pushEntry (curBlock s c).1 (curBlock s c).2 c.lanes atHeader)) e.ctx.asid 0 (activeLanes s c g).length) := by
  have hdir : directTarget s.cur imm = tgt := by rw [directTarget, R.cur, Option.map_some, Option.getD_some, htgt]
  have hgo : ∀ l ∈ activeLanes s c g, ∃ t, getLane s c.gid l = some t ∧ planLane s e (execRec s c e g) [] l
      (fun _ _ t => planJump s e t tgt) = .go t { tgt := tgt } := fun l hl => by
    obtain ⟨t, ht⟩ := Option.isSome_iff_exists.1 (R.isSome_lanes l (mem_lanes_of_active hl))
    refine ⟨t, ht, ?_⟩
    rw [planLane, env_gid s c.gid e R.env, ht]
    simp only [operandsOf_nil, planJump_good hgood]
  have hplans := plansAt_all_go (plan := fun s' _ _ t => planJump s' e t tgt)
    (commit := fun js s1 => modGroup (js.foldl (doJump c) s1) c.gid (pushEntry (curBlock s c).1 (curBlock s c).2 c.lanes atHeader))
    hlast R.pairs (settleStreams_nil s c e g) R.nodup hgo
  rw [foldl_doJump tgt (ls := activeLanes s c g) (R.nodup.filter _)] at hplans
  show transferOp g [] s (fun e s' _ _ t => planJump s' e t (directTarget s.cur imm)) = _
  rw [hdir]
  unfold transferOp
  rw [drainCur_idle R.cur R.env hq]
  simp only [withPlans, withCur, R.cur, R.env]
  exact congrArg _ hplans

theorem arrive_goOn (tgt n : Nat) (t : Thread) : arrive tgt (goOn n t) = arrive tgt t := jumped_goOn { tgt := tgt } n t

/-- A lane after a branch. -/
theorem getLane_branched {tgt l : Nat} {t : Thread} (hl : l ∈ c.lanes) (ht : getLane s c.gid l = some t) :
    getLane (branched s c g tgt) c.gid l = some (if guardOf g t then arrive tgt t else goOn c.next t) := by
  have hret : ∀ k t, t.lane = k → (retire c (activeLanes s c g) (asBefore s c) k t).lane = k :=
    fun k t ht => retire_lane (fun _ _ => asBefore_lane) ht
  have hbefore : asBefore s c l t = t := by rw [asBefore, ht, Option.getD_some]
  rw [branched, getLane_modLanes _ _ _ _ _ _ (by exact fun _ _ h => h), getLane_modLanes _ _ _ _ _ _ hret, ht]
  by_cases hg : guardOf g t = true
  · simp [(mem_activeLanes s c g l t ht).2 ⟨hl, hg⟩, hl, hg, retire, hbefore, arrive_goOn]
  · have hn : l ∉ activeLanes s c g := fun hm => hg ((mem_activeLanes s c g l t ht).1 hm).2
    simp [hn, hl, hg, retire]

/-- A thread of the group after a branch. -/
def branchedThread (s : State) (c : Cur) (g : Guard) (tgt : Nat) (t : Thread) : Thread :=
  if t.lane ∈ activeLanes s c g then arrive tgt (asBefore s c t.lane t)
  else if t.lane ∈ c.lanes then goOn c.next t else t

theorem getGroup_branched {tgt : Nat} {x : Group} (hg : getGroup s c.gid = some x) : getGroup (branched s c g tgt) c.gid =
    some { x with threads := x.threads.map (branchedThread s c g tgt) } := by
  rw [branched, modLanes, getGroup_modGroup _ _ _ _ (by exact fun _ => rfl), if_pos rfl, modLanes,
    getGroup_modGroup _ _ _ _ (by exact fun _ => rfl), if_pos rfl, hg, Option.map_some, Option.map_some]
  simp only [onLanes, List.map_map]
  congr 2
  refine List.map_congr_left fun t _ => ?_
  rw [Function.comp_apply, branchedThread]
  by_cases hl : t.lane ∈ c.lanes
  · have hbefore : (asBefore s c t.lane t).lane = t.lane := asBefore_lane rfl
    by_cases ha : t.lane ∈ activeLanes s c g
    · simp [hl, ha, retire, goOn_lane, hbefore, arrive_goOn]
    · simp [hl, ha, retire, goOn_lane]
  · have ha : t.lane ∉ activeLanes s c g := fun h => hl (mem_lanes_of_active h)
    simp [hl, ha]

/-! ## The reconvergence entry (R66) -/

theorem stack_pushEntry (h : Nat) (w : DWord) (ls : List Nat) (goes : Thread → Bool) (x : Group) :
    (pushEntry h w ls goes x).stack =
      if hReconv w ≠ 0 ∧
          2 ≤ (((x.threads.filter fun t => ls.contains t.lane && goes t && t.stall.isNone)).map (·.pc)).dedup.length ∧
          x.stack.length < 16 then
        ⟨(((h : Int) + 8 * hReconv w) % 2 ^ 64).toNat, ls, []⟩ :: x.stack
      else x.stack := by
  unfold pushEntry
  simp only [Bool.and_eq_true, bne_iff_ne, decide_eq_true_eq, and_assoc]
  split <;> rfl

/-- A list with at most two values has both of them, and they differ. -/
theorem two_le_dedup {xs : List Nat} {A B : Prop} {a b : Nat} (h : ∀ x, x ∈ xs ↔ (A ∧ x = a) ∨ (B ∧ x = b)) :
    2 ≤ xs.dedup.length ↔ A ∧ B ∧ a ≠ b := by
  rw [← List.card_toFinset]
  refine Finset.one_lt_card.trans ⟨?_, fun ⟨hA, hB, hab⟩ =>
    ⟨a, List.mem_toFinset.2 ((h a).2 (.inl ⟨hA, rfl⟩)), b, List.mem_toFinset.2 ((h b).2 (.inr ⟨hB, rfl⟩)), hab⟩⟩
  rintro ⟨x, hx, y, hy, hxy⟩
  rcases (h x).1 (List.mem_toFinset.1 hx) with ⟨hA, rfl⟩ | ⟨hB, rfl⟩ <;>
    rcases (h y).1 (List.mem_toFinset.1 hy) with ⟨hA', rfl⟩ | ⟨hB', rfl⟩
  · exact absurd rfl hxy
  · exact ⟨hA, hB', hxy⟩
  · exact ⟨hA', hB, hxy.symm⟩
  · exact absurd rfl hxy

/-- Some lane of an execution goes on where not every guard is true. -/
theorem exists_idle_lane : (∃ l ∈ c.lanes, l ∉ activeLanes s c g) ↔ (activeLanes s c g).length < c.lanes.length := by
  rw [activeLanes, List.length_filter_lt_length_iff_exists]
  exact exists_congr fun l => and_congr_right fun hl => by simp [hl]

/-- The addresses that the lanes of a branch reach. -/
theorem branched_addresses {tgt : Nat} (he : env s c.gid = some e) (hall : ∀ l ∈ c.lanes, (getLane s c.gid l).isSome = true)
    (hend : ∀ t ∈ e.group.threads, t.lane ∈ c.lanes → blockEnd t = c.next) (x : Nat) :
    x ∈ (((e.group.threads.map (branchedThread s c g tgt)).filter
        fun t => c.lanes.contains t.lane && atHeader t && t.stall.isNone).map (·.pc)) ↔
      (activeLanes s c g ≠ [] ∧ x = tgt) ∨ ((activeLanes s c g).length < c.lanes.length ∧ x = c.next) := by
  have hthread : ∀ l ∈ c.lanes, ∃ t ∈ e.group.threads, t.lane = l := fun l hl => by
    obtain ⟨t, ht⟩ := Option.isSome_iff_exists.1 (hall l hl)
    have hlane := getLane_lane s c.gid l t ht
    rw [getLane, env_group s c.gid e he, Option.bind_some] at ht
    exact ⟨t, List.mem_of_find?_eq_some ht, hlane⟩
  have hgoes : ∀ t ∈ e.group.threads, t.lane ∈ c.lanes → t.lane ∉ activeLanes s c g → branchedThread s c g tgt t =
      { t with pc := c.next, status := .header, arrival := .fall, stall := none } := fun t ht hl ha => by
    rw [branchedThread, if_neg ha, if_pos hl, goOn, hend t ht hl, if_pos BEq.rfl]
  have hreach : ∀ t, t.lane ∈ activeLanes s c g → branchedThread s c g tgt t = arrive tgt (asBefore s c t.lane t) := fun t ha => by
    rw [branchedThread, if_pos ha]
  have hgoing : ∀ u : Thread, (c.lanes.contains u.lane && atHeader u && u.stall.isNone) = true ↔
      u.lane ∈ c.lanes ∧ u.status = .header ∧ u.stall = none := fun u => by simp [atHeader, and_assoc]
  simp only [List.mem_map, List.mem_filter, hgoing]
  constructor
  · rintro ⟨_, ⟨⟨t, ht, rfl⟩, hl, -, -⟩, rfl⟩
    by_cases ha : t.lane ∈ activeLanes s c g
    · exact .inl ⟨List.ne_nil_of_mem ha, by rw [hreach t ha]; rfl⟩
    · have hl : t.lane ∈ c.lanes := by
        by_contra hn
        rw [branchedThread, if_neg ha, if_neg hn] at hl
        exact hn hl
      exact .inr ⟨exists_idle_lane.1 ⟨t.lane, hl, ha⟩, by rw [hgoes t ht hl ha]⟩
  · rintro (⟨hact, rfl⟩ | ⟨hidle, rfl⟩)
    · obtain ⟨l, ha⟩ := List.exists_mem_of_ne_nil _ hact
      obtain ⟨t, ht, rfl⟩ := hthread l (mem_lanes_of_active ha)
      have hlane : (asBefore s c t.lane t).lane ∈ c.lanes := (asBefore_lane rfl).symm ▸ mem_lanes_of_active ha
      exact ⟨_, ⟨⟨t, ht, rfl⟩, by rw [hreach t ha]; exact ⟨hlane, rfl, rfl⟩⟩, by rw [hreach t ha]; rfl⟩
    · obtain ⟨l, hl, ha⟩ := exists_idle_lane.2 hidle
      obtain ⟨t, ht, rfl⟩ := hthread l hl
      exact ⟨_, ⟨⟨t, ht, rfl⟩, by rw [hgoes t ht hl ha]; exact ⟨hl, rfl, rfl⟩⟩, by rw [hgoes t ht hl ha]⟩

/-- The stack after a branch. -/
theorem stack_branched {tgt l0 : Nat} {t0 : Thread} (he : env s c.gid = some e)
    (hall : ∀ l ∈ c.lanes, (getLane s c.gid l).isSome = true)
    (hend : ∀ t ∈ e.group.threads, t.lane ∈ c.lanes → blockEnd t = c.next) (h0 : c.lanes.head? = some l0)
    (ht0 : getLane s c.gid l0 = some t0) :
    (getGroup (modGroup (branched s c g tgt) c.gid (pushEntry (curBlock s c).1 (curBlock s c).2 c.lanes atHeader)) c.gid).map
      (·.stack) = some (
        if hReconv t0.hword ≠ 0 ∧ activeLanes s c g ≠ [] ∧ (activeLanes s c g).length < c.lanes.length ∧
            tgt ≠ c.next ∧ e.group.stack.length < 16 then
          ⟨(((t0.hdr : Int) + 8 * hReconv t0.hword) % 2 ^ 64).toNat, c.lanes, []⟩ :: e.group.stack
        else e.group.stack) := by
  have hblock : curBlock s c = (t0.hdr, t0.hword) := by
    simp only [curBlock, h0, Option.bind_some, ht0]
  have hgid : ∀ x, (pushEntry t0.hdr t0.hword c.lanes atHeader x).gid = x.gid :=
    fun x => (congrArg Group.gid (groupFrame_pushEntry t0.hdr t0.hword c.lanes atHeader x) :)
  rw [hblock, getGroup_modGroup _ _ _ _ hgid, if_pos rfl, getGroup_branched (env_group s c.gid e he), Option.map_some,
    Option.map_some, stack_pushEntry]
  simp only [two_le_dedup (branched_addresses he hall hend), and_assoc]

/-- R98, R66: a branch, and the entry that it pushes where its lanes do not all reach one address. -/
theorem branchesReachTheirTargetAndPushTheReconvergenceEntry : Parts.BranchesReachTheirTargetAndPushTheReconvergenceEntry := by
  intro g imm s c e tgt hlast R hq htgt hgood hend
  refine ⟨_, exec_bra R hlast hq htgt hgood, ?_, rfl, fun l hl => ?_, fun l0 t0 h0 ht0 => ?_⟩
  · exact (onlyThreads_modLanes s ..).trans ((onlyThreads_modLanes ..).trans
      ((onlyThreads_modGroup _ _ _ (groupFrame_pushEntry _ _ _ _)).trans (onlyThreads_countEvent ..)))
  · obtain ⟨t, ht⟩ := Option.isSome_iff_exists.1 (R.isSome_lanes l hl)
    refine (getLane_groups (modGroup (branched s c g tgt) c.gid _) (countEvent _ _ _ _) rfl c.gid l).trans ?_
    rw [getLane_pushEntry, getLane_branched hl ht, ht]
    rfl
  · exact stack_branched R.env R.isSome_lanes hend h0 ht0

/-- Settles O10: a transfer acts as once its group's queue is performed, where the plan of each true lane is a jump. -/
theorem transfersReachTheirTargetsAndKeepTheirStacks : Obligations.TransfersReachTheirTargetsAndKeepTheirStacks :=
  ⟨branchesReachTheirTargetAndPushTheReconvergenceEntry, callsPushAndReturnsPopThePrivateStack⟩

end
end Sys2Proof.Machine
end

section
/-!
EXITS (R102, R160, R406): what the settling of a group leaves of a lane that waits for nothing, how a lane leaves, and obligation O9.
-/

namespace Sys2Proof.Machine

/-! ## A settled group keeps the threads that wait for nothing -/

/-- Threads differ only where they wait. -/
def KeepsGoing (g g' : Group) : Prop :=
  ∃ f : Thread → Thread, g'.threads = g.threads.map f ∧ ∀ t, (f t).lane = t.lane ∧ (t.stall = none → f t = t)

theorem KeepsGoing.refl (g : Group) : KeepsGoing g g := ⟨id, (List.map_id _).symm, fun _ => ⟨rfl, fun _ => rfl⟩⟩

theorem KeepsGoing.trans {g g1 g2 : Group} (h : KeepsGoing g g1) (h' : KeepsGoing g1 g2) : KeepsGoing g g2 := by
  obtain ⟨f, hf, hk⟩ := h
  obtain ⟨f', hf', hk'⟩ := h'
  refine ⟨f' ∘ f, by rw [hf', hf, List.map_map], fun t => ⟨(hk' _).1.trans (hk t).1, fun ht => ?_⟩⟩
  have h1 := (hk t).2 ht
  rw [Function.comp_apply, h1, (hk' t).2 ht]

theorem keepsGoing_settleEntry (g : Group) (x : RcEntry) : KeepsGoing g (settleEntry g x) := by
  unfold settleEntry
  split
  · refine ⟨fun t => if heldBy x t then releaseThread t else t, rfl, fun t => ⟨by dsimp only; split <;> rfl, fun ht => ?_⟩⟩
    exact if_neg (by simp [heldBy, ht])
  · exact .refl g

theorem keepsGoing_settledIn (n : Nat) (pending : Bool) (g : Group) : KeepsGoing g (settledIn n pending g) := by
  have hfold : ∀ (xs : List RcEntry) (g : Group), KeepsGoing g (xs.foldl settleEntry g) := fun xs => by
    induction xs with
    | nil => exact .refl
    | cons x xs ih => exact fun g => (keepsGoing_settleEntry g x).trans (ih _)
  have hwait : ∀ g1 : Group, KeepsGoing g1 { g1 with threads := g1.threads.map (settleWait n pending g1) } := fun g1 =>
    ⟨settleWait n pending g1, rfl, fun t =>
      ⟨(congrArg Thread.lane (settleWait_apart n pending g1 t).1 :), fun ht => settleWait_other (by simp [ht])⟩⟩
  exact (hfold g.stack g).trans (hwait _)

/-- What the settling of a group is: its group settled, and retired where its last thread has exited. -/
theorem settleGroup_cases {s : State} {gid : Nat} {g : Group} (hg : getGroup s gid = some g) :
    let g2 := settledIn (regsOf s g) (preemptPending s g) g
    settleGroup s gid = (if groupDone g2 then retireJoin (modGroup s gid fun _ => { g2 with retired := true }) g2
      else modGroup s gid fun _ => g2) := by
  simp only [settleGroup, hg]
  rfl

/-- A lane that waits for nothing is as it was once its group has settled. -/
theorem getLane_settleGroup {s : State} {gid l : Nat} {t : Thread} (ht : getLane s gid l = some t) (hst : t.stall = none) :
    getLane (settleGroup s gid) gid l = some t := by
  obtain ⟨g, hg, htg⟩ := Option.bind_eq_some_iff.1 ht
  obtain ⟨f, hf, hk⟩ := keepsGoing_settledIn (regsOf s g) (preemptPending s g) g
  have hid : (settledIn (regsOf s g) (preemptPending s g) g).gid = gid := by
    rw [(resettled_settledIn (regsOf s g) (preemptPending s g) g).1]
    exact find_key Group.gid gid s.groups g hg
  have hlane : laneThread (settledIn (regsOf s g) (preemptPending s g) g) l = some t := by
    rw [laneThread_map hf (fun t => (hk t).1), htg, Option.map_some, (hk t).2 hst]
  rw [settleGroup_cases hg]
  generalize settledIn (regsOf s g) (preemptPending s g) g = g2 at hid hlane
  split
  · rw [getLane_groups _ _ (retireJoin_groups ..), getLane, getGroup_modGroup_const hg (by exact hid)]
    exact hlane
  · rw [getLane, getGroup_modGroup_const hg hid]
    exact hlane

/-! ## What a group's retirement leaves -/

theorem addPoison_contexts (s : State) (p : Nat) : (addPoison s p).contexts = s.contexts := by
  unfold addPoison
  split <;> rfl

theorem noteWrite_contexts (s : State) (key n : Nat) : (noteWrite s key n).contexts = s.contexts := by
  unfold noteWrite
  split <;> rfl

theorem tagCommons_contexts (s : State) (asid key n : Nat) : (tagCommons s asid key n).contexts = s.contexts := by
  unfold tagCommons
  split <;> rfl

theorem bankWrite_contexts (s : State) (asid key n v : Nat) : (bankWrite s asid key n v).contexts = s.contexts := by
  have hwrite : (noteWrite (tagCommons { s with mem := memWrite s.mem key n v } asid key n) key n).contexts = s.contexts := by
    rw [noteWrite_contexts, tagCommons_contexts]
  unfold bankWrite writeLine
  split
  · dsimp only
    split
    · rw [addPoison_contexts, addPoison_contexts]
    · exact hwrite
  · exact hwrite

theorem retireJoin_contexts (s : State) (g : Group) : (retireJoin s g).contexts = s.contexts := by
  unfold retireJoin
  split
  · rfl
  split
  · rfl
  split
  · split
    · exact bankWrite_contexts ..
    · rfl
  · rfl

theorem settleGroup_contexts (s : State) (gid : Nat) : (settleGroup s gid).contexts = s.contexts := by
  cases hg : getGroup s gid with
  | none => simp only [settleGroup, hg]
  | some g =>
    rw [settleGroup_cases hg]
    split
    · exact retireJoin_contexts ..
    · rfl

/-- A group that no join counter counts settles with memory as it was (R244). -/
theorem settleGroup_unjoined {s : State} {gid : Nat} {e : Env} (he : env s gid = some e) (hu : Unjoined e) :
    (settleGroup s gid).mem = s.mem := by
  obtain ⟨hg, hteam, hgrid, -⟩ := env_parts s gid e he
  have htid : (settledIn (regsOf s e.group) (preemptPending s e.group) e.group).tid = e.group.tid :=
    (congrArg Group.tid (resettled_settledIn (regsOf s e.group) (preemptPending s e.group) e.group).1 :)
  rw [settleGroup_cases hg]
  split
  · rw [retireJoin_unjoined]
    · rfl
    · intro t r ht hr
      obtain rfl : t = e.team := Option.some.inj (ht.symm.trans ((congrArg (getTeam s) htid).trans hteam))
      obtain rfl : r = e.grid := Option.some.inj (hr.symm.trans hgrid)
      exact hu
  · rfl

/-- A group stands in the same team and grid where only threads differ. -/
theorem OnlyThreads.env {s s' : State} (h : OnlyThreads s s') {gid : Nat} {e : Env} (he : env s gid = some e) :
    ∃ e', Machine.env s' gid = some e' ∧ e'.team = e.team ∧ e'.grid = e.grid := by
  obtain ⟨hg, ht, hr, hx⟩ := env_parts s gid e he
  obtain ⟨hs, hgroups, hctxs⟩ := h
  have hgr := hgroups gid
  have hcx := hctxs e.grid.asid
  rw [hg, Option.map_some] at hgr
  rw [hx, Option.map_some] at hcx
  obtain ⟨g', hg', hframe⟩ := Option.map_eq_some_iff.1 hgr
  obtain ⟨x', hx', -⟩ := Option.map_eq_some_iff.1 hcx
  have htid : g'.tid = e.group.tid := (congrArg Group.tid hframe :)
  have ht' : getTeam s' g'.tid = some e.team := by rw [getTeam, hs, htid]; exact ht
  have hr' : getGrid s' e.team.grid = some e.grid := by rw [getGrid, hs]; exact hr
  refine ⟨⟨g', e.team, e.grid, x'⟩, ?_, rfl, rfl⟩
  simp only [Machine.env, hg', Option.bind_some, ht', hr', hx', Option.map_some]

/-! ## A lane that leaves (R102, R160) -/

/-- A lane that leaves, once its exit could take effect: with reads outstanding it waits for them, a due poison fault is taken, and
else it has exited. -/
def leaving (own : Bool) (t : Thread) : Thread :=
  if t.reads ≠ 0 then { t with status := .exiting own, stall := none }
  else match t.poison with
    | none => { t with status := .exited, stall := none, sp := [] }
    | some _ =>
      let t := { t with poison := none, stall := none }
      if own = false then { t with status := .exited, sp := [] }
      else if t.handler then { t with status := .exiting false, handler := false }
      else { t with status := .parked 0x13 0 false false }

theorem leaving_stall (own : Bool) (t : Thread) : (leaving own t).stall = none := by
  unfold leaving
  split
  · rfl
  split
  · rfl
  dsimp only
  split
  · rfl
  split <;> rfl

/-- The record of a due fault joins those of its context. -/
def ReportsDue (q s' : State) (e : Env) (l : Nat) (t : Thread) : Prop := t.reads = 0 → ∀ d, t.poison = some d →
  ∃ r, (getCtx s' e.ctx.asid).map (·.pending) = (getCtx q e.ctx.asid).map (fun x => x.pending ++ [r]) ∧
    r.cls = 0x13 ∧ r.pc = d.pc ∧ r.addr = d.ea ∧ r.lane = l

/-- A lane has left as `leaving` says: only its thread differs, and its due fault is reported. -/
structure Leaves (q s' : State) (e : Env) (l : Nat) (own : Bool) (t : Thread) : Prop where
  lane    : getLane s' e.group.gid l = some (leaving own t)
  only    : OnlyThreads q s'
  counts  : ∀ a, (getCtx s' a).map (·.counts) = (getCtx q a).map (·.counts)
  reports : ReportsDue q s' e l t

theorem counts_modCtx (s : State) (a : Nat) {f : Context → Context}
    (hf : ∀ c, (f c).asid = c.asid ∧ (f c).counts = c.counts) (j : Nat) :
    (getCtx (modCtx s a f) j).map (·.counts) = (getCtx s j).map (·.counts) := by
  rw [getCtx_modCtx s a j f fun c => (hf c).1]
  split
  · cases getCtx s j with
    | none => rfl
    | some c => exact congrArg some (hf c).2
  · rfl

/-- A record that waits is the last of its context's. -/
theorem pending_modCtx (s : State) (a : Nat) (r : FaultRec) :
    (getCtx (modCtx s a fun c => { c with pending := c.pending ++ [r] }) a).map (·.pending) =
      (getCtx s a).map fun x => x.pending ++ [r] := by
  rw [getCtx_modCtx s a a _ (by exact fun _ => rfl), if_pos rfl, Option.map_map]
  rfl

section
variable {s q : State} {e : Env} {l : Nat} {t : Thread} {own : Bool}

/-- A due poison fault is cleared as it is taken. -/
def unpoisoned (t : Thread) : Thread := { t with poison := none }

/-- The exit of a lane whose poison fault is due: its thread is left with the fault taken, and one record joins those of the
context. -/
theorem takeExit_due {d : PoisonDue} (ht : getLane q e.group.gid l = some t) (hs : t.status = .exiting own) (hr : t.reads = 0)
    (hp : t.poison = some d) : ∃ (r : FaultRec) (f : Thread → Thread),
      takeExit q e l = modCtx (modLane (modLane q e.group.gid l unpoisoned) e.group.gid l f) e.ctx.asid
        (fun c => { c with pending := c.pending ++ [r] }) ∧
      (∀ u, (f u).lane = u.lane) ∧ f (unpoisoned t) = leaving own t ∧
      r.cls = 0x13 ∧ r.pc = d.pc ∧ r.addr = d.ea ∧ r.lane = l := by
  have hclean : getLane (modLane q e.group.gid l unpoisoned) e.group.gid l = some (unpoisoned t) := by
    rw [getLane_modLane q _ l _ l unpoisoned fun _ hv => hv, if_pos ⟨rfl, rfl⟩, ht, Option.map_some]
  cases own with
  | true =>
    have hpark := raise_same (modLane q e.group.gid l unpoisoned) e t.pc [l] [l] (poisonFault d) false (List.nodup_singleton l)
      (by simp [hclean])
    refine ⟨laneRecord (modLane q e.group.gid l unpoisoned) e t.pc [l] [l] l
      (laneNested (modLane q e.group.gid l unpoisoned) e.group.gid l) (poisonFault d), parkAt t.pc (poisonFault d) false, ?_,
      fun u => parkAt_lane .., ?_, rfl, rfl, rfl, rfl⟩
    · have hraise : takeExit q e l = raise (modLane q e.group.gid l unpoisoned) e t.pc [l] [(l, poisonFault d)] false := by
        simp only [takeExit, ht, hs, hp, if_true]
        rfl
      rw [hraise]
      exact hpark.trans (by rw [parkLanes, ← modLane_eq]; rfl)
    · unfold parkAt leaving unpoisoned
      simp only [hr, hp]
      cases t.handler <;> rfl
  | false =>
    refine ⟨laneRecord (modLane q e.group.gid l unpoisoned) e t.pc [l] [l] l true (poisonFault d), exitLane,
      ?_, fun _ => rfl, ?_, rfl, rfl, rfl, rfl⟩
    · simp only [takeExit, ht, hs, hp, Bool.false_eq_true, if_false]
      rfl
    · simp [leaving, hr, hp, exitLane, unpoisoned]

/-- The exit of a lane that waits for no read takes effect. -/
theorem takeExit_leaves (ht : getLane q e.group.gid l = some t) (hs : t.status = .exiting own) (hr : t.reads = 0) :
    Leaves q (takeExit q e l) e l own t := by
  have hlane : ∀ (s : State) (f : Thread → Thread) {u : Thread}, (∀ u, (f u).lane = u.lane) → getLane s e.group.gid l = some u →
      getLane (modLane s e.group.gid l f) e.group.gid l = some (f u) := fun s f u hf hu => by
    rw [getLane_modLane _ _ _ _ _ _ fun v hv => (hf v).trans hv, if_pos ⟨rfl, rfl⟩, hu, Option.map_some]
  cases hp : t.poison with
  | none =>
    have hexit : takeExit q e l = modLane q e.group.gid l exitLane := by simp only [takeExit, ht, hs, hp]
    have hleft : leaving own t = exitLane t := by simp [leaving, hr, hp, exitLane]
    rw [hexit]
    exact ⟨hleft ▸ hlane q exitLane (fun _ => rfl) ht, onlyThreads_modLane .., fun _ => rfl,
      fun _ d hd => absurd (hp.symm.trans hd) nofun⟩
  | some d =>
    obtain ⟨r, f, heq, hf, hleft, hrec⟩ := takeExit_due ht hs hr hp
    rw [heq]
    refine ⟨?_, ?_, fun a => counts_modCtx _ _ (by exact fun _ => ⟨rfl, rfl⟩) a, fun _ d' hd => ?_⟩
    · rw [← hleft]
      exact hlane _ f hf (hlane q unpoisoned (fun _ => rfl) ht)
    · exact (onlyThreads_modLane q ..).trans ((onlyThreads_modLane ..).trans (onlyThreads_modCtx _ _ _ fun _ => rfl))
    · obtain rfl : d = d' := Option.some.inj (hp.symm.trans hd)
      exact ⟨r, pending_modCtx .., hrec⟩

/-! ## Exits taken -/

/-- Before a lane ends, only due faults of threads may change. -/
theorem settleReds_lane (s : State) (e : Env) (ls : List Nat) (j k : Nat) :
    (getLane (settleReds s e ls) j k).map unpoisoned = (getLane s j k).map unpoisoned := by
  cases hg : getGroup s e.group.gid with
  | none => simp only [settleReds, hg, Option.any_none, Bool.false_eq_true, if_false]
  | some g =>
    unfold settleReds
    split
    · exact (drainGroup_performs e.ctx.asid hg).getLane_eq j k
    · rfl

theorem settleReds_env {e0 : Env} {gid : Nat} (ls : List Nat) (he : env s gid = some e0) (hgid : e.group.gid = gid) :
    ∃ e', env (settleReds s e ls) gid = some e' ∧ e'.grid = e0.grid := by
  unfold settleReds
  split
  · obtain ⟨e', he', -, -, -, hgrid⟩ := drainGroup_env e.ctx.asid he
    exact ⟨e', hgid ▸ he', hgrid⟩
  · exact ⟨e0, he, rfl⟩

theorem settleReds_nil : settleReds s e [] = s := by
  unfold settleReds
  rw [if_neg]
  cases getGroup s e.group.gid <;> simp

/-- The exit of one lane, once what its reductions read is known: with reads outstanding it only waits. -/
theorem takeExits_leaves (hu : getLane s e.group.gid l = some t) (hs : t.status = .exiting own) (hst : t.stall = none) :
    ∀ u, getLane (if t.reads = 0 then settleReds s e [l] else s) e.group.gid l = some u →
      Leaves (if t.reads = 0 then settleReds s e [l] else s) (takeExits s e [l]) e l own u := by
  intro u hq
  by_cases hr : t.reads = 0
  · rw [if_pos hr] at hq ⊢
    have hsame : unpoisoned u = unpoisoned t := by
      have := settleReds_lane s e [l] e.group.gid l
      rw [hq, hu] at this
      exact Option.some.inj this
    have htake : takeExits s e [l] = takeExit (settleReds s e [l]) e l := by
      simp only [takeExits, List.filter_cons, hu, Option.any_some, hr, hs, BEq.rfl, Bool.and_self, if_true, List.filter_nil,
        List.foldl_cons, List.foldl_nil]
    rw [htake]
    exact takeExit_leaves hq ((congrArg Thread.status hsame :).trans hs) ((congrArg Thread.reads hsame :).trans hr)
  · rw [if_neg hr] at hq ⊢
    obtain rfl : t = u := Option.some.inj (hu.symm.trans hq)
    have htake : takeExits s e [l] = s := by
      have hend : (t.reads == 0) = false := beq_eq_false_iff_ne.2 hr
      simp only [takeExits, List.filter_cons, hu, Option.any_some, hend, Bool.false_and, Bool.false_eq_true, if_false,
        List.filter_nil, List.foldl_nil, settleReds_nil]
    have hleft : leaving own t = t := by
      rw [leaving, if_pos hr, ← hs, ← hst]
    rw [htake]
    exact ⟨hleft.symm ▸ hu, ⟨rfl, fun _ => rfl, fun _ => rfl⟩, fun _ => rfl, fun h0 => absurd h0 hr⟩

/-- The exit of one lane in a group that then settles. -/
theorem settleGroup_leaves {e' : Env} {s' : State} (h : Leaves q s' e l own t) (he : env q e.group.gid = some e')
    (hgrid : e'.grid = e.grid) :
    (Unjoined e → (settleGroup s' e.group.gid).mem = q.mem) ∧
      (∀ a, (getCtx (settleGroup s' e.group.gid) a).map (·.counts) = (getCtx q a).map (·.counts)) ∧
      getLane (settleGroup s' e.group.gid) e.group.gid l = some (leaving own t) ∧
      ReportsDue q (settleGroup s' e.group.gid) e l t := by
  have hctx : ∀ a, getCtx (settleGroup s' e.group.gid) a = getCtx s' a := fun a => by rw [getCtx, settleGroup_contexts, getCtx]
  obtain ⟨e2, he2, -, hgrid2⟩ := h.only.env he
  refine ⟨fun hun => ?_, fun a => by rw [hctx, h.counts], getLane_settleGroup h.lane (leaving_stall ..), fun hr d hd => ?_⟩
  · have hun2 : Unjoined e2 := by rw [Unjoined, hgrid2, hgrid]; exact hun
    rw [settleGroup_unjoined he2 hun2, h.only.1]
  · rw [hctx]
    exact h.reports hr d hd

end

end Sys2Proof.Machine
end

section
/-!
HOW `exit` ENDS A LANE (R102, R160, R406): `exit` as it issues, EXIT_TAKES_EFFECT, and obligation O9.
-/

namespace Sys2Proof.Machine

/-! ## `exit` as it issues -/

/-- A lane that has reached its `exit`. -/
def exiting (t : Thread) : Thread := { t with status := .exiting true, stall := none }

/-- The state in which lane `l` has reached its `exit`, `n` lanes have retired and the lanes whose guard is not true have gone on:
`q` is the state with the store queue performed. -/
def exitIssued (q s : State) (c : Cur) (e : Env) (g : Guard) (l n : Nat) : State :=
  modLane (modLanes (countEvent q e.ctx.asid 0 n) c.gid (idleLanes s c g) fun _ => advance c) c.gid l exiting

section
variable {s q : State} {c : Cur} {e : Env} {g : Guard} {l : Nat} {t t0 u : Thread} {rd : Nat → Word} {n : Nat}

theorem onlyThreads_exitIssued : OnlyThreads q (exitIssued q s c e g l n) :=
  (onlyThreads_countEvent ..).trans ((onlyThreads_modLanes ..).trans (onlyThreads_modLane ..))

/-- An `exit` counts its lane as retired where no poison fault is due (R406). -/
theorem exitRetires_one {gid : Nat} (hq : getLane q gid l = some t) :
    exitRetires q gid [l] = if t.poison = none then 1 else 0 := by
  cases hp : t.poison <;> simp [exitRetires, hq, hp]

theorem Lone.exec_exit (h : Lone s c e g [] l t t0 rd) (hq : getLane (drainGroup s e.ctx.asid c.gid) c.gid l = some u) :
    exec (.exit g) s = .next (settleGroup (takeExits
      (exitIssued (drainGroup s e.ctx.asid c.gid) s c e g l (if u.poison = none then 1 else 0)) e [l]) c.gid) := by
  have hidle := fun s' => idle_fold s' c (idleLanes s c g) (h.nodup.filter _)
  have hlanes : (c.lanes.filter fun k => !([l].contains k)) = idleLanes s c g := by rw [idleLanes, h.only]
  show execExit g s = _
  simp only [execExit, withCur, h.cur, h.env, h.only, hlanes, hidle, List.isEmpty_cons, Bool.false_eq_true, if_false,
    List.foldl_cons, List.foldl_nil, exitRetires_one hq]
  rfl

theorem Lone.getLane_exitIssued (h : Lone s c e g [] l t t0 rd) (hq : getLane q c.gid l = some u) :
    getLane (exitIssued q s c e g l n) c.gid l = some (exiting u) := by
  have hn : l ∉ idleLanes s c g := by simp [mem_idleLanes, h.only]
  rw [exitIssued, getLane_modLane _ _ _ _ _ exiting fun _ hv => hv, if_pos ⟨rfl, rfl⟩, getLane_modLanes _ _ _ _ _ _ (advance_lane c),
    if_neg fun hh => hn hh.2]
  exact congrArg (Option.map exiting) hq

/-- Once its group's queue is performed, a lane that leaves has no reduction in it. -/
theorem settleReds_exitIssued {e' : Env} (hgid : e.group.gid = c.gid) (he : env q c.gid = some e') (hq : queueOf e'.group = []) :
    settleReds (exitIssued q s c e g l n) e [l] = exitIssued q s c e g l n := by
  have hgroup : getGroup (exitIssued q s c e g l n) c.gid =
      some (groupLane (onLanes (idleLanes s c g) (fun _ => advance c) e'.group) l exiting) := by
    rw [exitIssued, getGroup_modLane, if_pos rfl, modLanes, getGroup_modGroup _ _ _ _ (by exact fun _ => rfl), if_pos rfl]
    exact congrArg (fun x => Option.map _ (Option.map _ x)) (env_group q c.gid e' he)
  have hqueue : queueOf (groupLane (onLanes (idleLanes s c g) (fun _ => advance c) e'.group) l exiting) = [] := hq
  unfold settleReds
  rw [hgid, hgroup, if_neg]
  simp [reducing, hqueue]

/-- The records that wait are those of before: an event only counts. -/
theorem pending_exitIssued (a : Nat) (rs : List FaultRec) :
    (getCtx (exitIssued q s c e g l n) a).map (fun x => x.pending ++ rs) = (getCtx q a).map fun x => x.pending ++ rs := by
  have hctx : getCtx (exitIssued q s c e g l n) a = getCtx (countEvent q e.ctx.asid 0 n) a := rfl
  rw [hctx, countEvent, getCtx_modCtx _ _ _ _ (by exact fun _ => rfl)]
  split
  · rw [Option.map_map]
    rfl
  · rfl

/-- An `exit` in one lane (R102, R160, R406). -/
theorem Lone.exit_leaves (h : Lone s c e g [] l t t0 rd) (hq : getLane (drainGroup s e.ctx.asid c.gid) c.gid l = some u) :
    ∃ s', exec (.exit g) s = .next s' ∧ (Unjoined e → s'.mem = (drainGroup s e.ctx.asid c.gid).mem) ∧
      (getCtx s' e.ctx.asid).map (·.counts) = (getCtx (countEvent (drainGroup s e.ctx.asid c.gid) e.ctx.asid 0
        (if u.poison = none then 1 else 0)) e.ctx.asid).map (·.counts) ∧
      getLane s' c.gid l = some (leaving true u) ∧ ReportsDue (drainGroup s e.ctx.asid c.gid) s' e l u := by
  have hgid := env_gid s c.gid e h.env
  obtain ⟨e', he', hempty, -, -, hgrid⟩ := drainGroup_env e.ctx.asid h.env
  have hexec := h.exec_exit hq
  generalize drainGroup s e.ctx.asid c.gid = q at hq he' hexec
  generalize (if u.poison = none then 1 else 0) = n at hexec
  have hreds : (if (exiting u).reads = 0 then settleReds (exitIssued q s c e g l n) e [l] else exitIssued q s c e g l n) =
      exitIssued q s c e g l n := by
    rw [settleReds_exitIssued hgid he' hempty, ite_self]
  have hlane : getLane (exitIssued q s c e g l n) e.group.gid l = some (exiting u) := hgid ▸ h.getLane_exitIssued hq
  have hleaves := takeExits_leaves hlane rfl rfl (exiting u) (by rw [hreds]; exact hlane)
  rw [hreds] at hleaves
  obtain ⟨e3, he3, -, hgrid3⟩ := (onlyThreads_exitIssued (q := q) (s := s) (c := c) (e := e) (g := g) (l := l) (n := n)).env he'
  obtain ⟨hmem, hcounts, hl, hreport⟩ := settleGroup_leaves hleaves (hgid ▸ he3) (hgrid3.trans hgrid)
  rw [hgid] at hmem hcounts hl hreport
  refine ⟨_, hexec, hmem, hcounts _, hl, fun hr d hd => ?_⟩
  obtain ⟨r, hpend, hrec⟩ := hreport hr d hd
  exact ⟨r, hpend.trans (pending_exitIssued ..), hrec⟩

end

/-! ## EXIT_TAKES_EFFECT -/

/-- A lane that leaves takes its exit once its reads are written (R102). -/
theorem exitTakesEffect_leaves {s : State} {gid lane : Nat} {e : Env} {t u : Thread} {own : Bool} (he : env s gid = some e)
    (ht : getLane s gid lane = some t) (hst : t.stall = none) (hs : t.status = .exiting own)
    (hq : getLane (if t.reads = 0 then settleReds s e [lane] else s) gid lane = some u) :
    ∃ s', exec (.exitTakesEffect gid lane) s = .next s' ∧
      (Unjoined e → s'.mem = (if t.reads = 0 then settleReds s e [lane] else s).mem) ∧
      getLane s' gid lane = some (leaving own u) ∧ ReportsDue (if t.reads = 0 then settleReds s e [lane] else s) s' e lane u := by
  have hgid := env_gid s gid e he
  have henv : ∃ e', env (if t.reads = 0 then settleReds s e [lane] else s) gid = some e' ∧ e'.grid = e.grid := by
    split
    · exact settleReds_env [lane] he hgid
    · exact ⟨e, he, rfl⟩
  obtain ⟨e', he', hgrid⟩ := henv
  have hexec : exec (.exitTakesEffect gid lane) s = .next (settleGroup (takeExits s e [lane]) gid) := by
    show execExitTakesEffect gid lane s = _
    simp only [execExitTakesEffect, he]
  have hleaves := takeExits_leaves (hgid.symm ▸ ht) hs hst u (hgid.symm ▸ hq)
  obtain ⟨hmem, -, hl, hreport⟩ := settleGroup_leaves hleaves (hgid.symm ▸ he') hgrid
  rw [hgid] at hmem hl hreport
  exact ⟨_, hexec, hmem, hl, hreport⟩

/-! ## O9 -/

/-- R102, R160, R406. -/
theorem exitEndsALaneOnceItsReadsAreWritten : Parts.ExitEndsALaneOnceItsReadsAreWritten :=
  ⟨fun _ _ _ _ _ _ _ _ h _ hq => h.exit_leaves hq, fun _ _ _ _ _ _ he ht hst hs _ hq => exitTakesEffect_leaves he ht hst hs hq⟩

/-- Settles O9: a hint or a wait updates the threads of its lanes alone; an exit leaves its lane as `leaving` says, in a group that
then settles. -/
theorem hintsGoOnWaitsHoldAndExitEndsTheirLanes : Obligations.HintsGoOnWaitsHoldAndExitEndsTheirLanes :=
  ⟨hintsOnlyGoOn, sleepAndWaitfHoldTheirLanes, exitEndsALaneOnceItsReadsAreWritten⟩

end Sys2Proof.Machine
end
